-- ==== Sys2Proof/Word.lean ====
section
/-!
DEFINITION. The word types of the BX960 and their plainest arithmetic (spec/00_scope.md R3, R4).
-/
namespace Sys2Proof

/-- A 32-bit word: an instruction word, a lane of a g register, or a lane mask (R3). -/
abbrev Word := BitVec 32

/-- A 64-bit word: an h register, an address, a system register. -/
abbrev DWord := BitVec 64

/-- One bit per lane of a hand, lane `t` at bit `t` (R2, R124). -/
abbrev Lanes := BitVec 32

/-- Lane `t` is in the mask. -/
def Lanes.has (m : Lanes) (t : Nat) : Bool := m.getLsbD t

/-- The mask of the one lane `t`. -/
def Lanes.one (t : Nat) : Lanes := (1 : BitVec 32) <<< t

/-- The lanes 0 to 31 in ascending order. -/
def allLanes : List Nat := List.range 32

/-- The lanes of a mask, ascending. -/
def Lanes.list (m : Lanes) : List Nat := allLanes.filter (fun t => m.getLsbD t)

/-- The mask that holds the lanes for which `p` is true. -/
def Lanes.of (p : Nat → Bool) : Lanes :=
  allLanes.foldl (fun m t => if p t then m ||| Lanes.one t else m) 0

/-- Bits [lo+width−1 : lo] of a number, as a number (R3). -/
def bits (n lo width : Nat) : Nat := (n >>> lo) % 2 ^ width

end Sys2Proof
end

