-- ==== Sys2Proof/Syntax.lean ====
section
/-!
DEFINITION. The syntax of the BX960: one constructor for every row of spec/opcode_table.json.

Core instructions carry their words split into the fields of R247 and R248; the command-processor
instructions carry the fields of R46; packets carry their header and words (R36); flits carry their port and
payload (R20). The other rows are the whole steps of the device: what the manual leaves to the outside or to the
order of arrival is their input, a `StepArgs` that the machine holds while the step is executed.
-/
namespace Sys2Proof

/-- Words 1 and 2 of an extended form (R248, R249). -/
structure ExtWords where
  /-- DH, AH, BH: bit 5 of the names D, A and B. -/
  dh : Bool
  ah : Bool
  bh : Bool
  /-- C: third source name. -/
  c : BitVec 6
  /-- LR: last-read bits for A, B, C. -/
  lr : BitVec 3
  /-- PX, PQ and PINV: the predicate selection of R254. -/
  px : Bool
  pq : BitVec 4
  pinv : Bool
  /-- RND, SAT, FMT, ORD: the controls of R255. -/
  rnd : BitVec 3
  sat : Bool
  fmt : BitVec 4
  ord : BitVec 4
  /-- Word 2. -/
  w2 : Word
  deriving DecidableEq, Repr, Inhabited

/-- The fields of a core instruction other than its opcode (R246 to R250). LEN[1] is `ext.isSome` and
LEN[0] is `lit.isSome`. -/
structure CoreWords where
  /-- SW, the switch marker (R120). -/
  sw : Bool
  /-- RB, the run boundary (R81). -/
  rb : Bool
  /-- P, the predicate q0 to q7. -/
  p : BitVec 3
  /-- D, A, B: the low five bits of the names. -/
  d : BitVec 5
  a : BitVec 5
  b : BitVec 5
  /-- Words 1 and 2, in the extended forms. -/
  ext : Option ExtWords
  /-- The 64-bit literal, in the forms with one. -/
  lit : Option DWord
  deriving DecidableEq, Repr, Inhabited

/-- The fields of a dv.* instruction (R46). `cond` is funct7[1:0], 0 but for `dv.swait`. -/
structure DvWord where
  rd : BitVec 5
  rs1 : BitVec 5
  rs2 : BitVec 5
  cond : BitVec 2
  deriving DecidableEq, Repr, Inhabited

/-- A packet as the command processor of slot `slot` of die `die` parses it: its header word and up to four
words that follow (R36). -/
structure PacketWords where
  die : Nat
  slot : Nat
  hdr : Word
  w1 : Word
  w2 : Word
  w3 : Word
  w4 : Word
  deriving DecidableEq, Repr, Inhabited

/-- A request or response flit of the peer fabric as it arrives (R20, R23). -/
structure PeerMsg where
  /-- HDR: destination device, source device and sequence. -/
  dst : BitVec 16
  src : BitVec 16
  seq : BitVec 24
  /-- PAY: TAG, DIE, SIZE, STATUS, ADDR, MASK, DATA. -/
  tag : BitVec 16
  die : BitVec 2
  size : BitVec 3
  status : BitVec 3
  addr : DWord
  mask : DWord
  data : BitVec 512
  deriving DecidableEq, Repr, Inhabited

/-- The input of a step of the device. The docstring of each step below names the fields it reads. -/
structure StepArgs where
  n : Nat
  m : Nat
  k : Nat
  l : Nat
  ok : Bool
  ok2 : Bool
  lid : Word
  half : BitVec 16
  code : BitVec 8
  value : DWord
  value2 : DWord
  mask : BitVec 64
  block : BitVec 512
  lanes : Lanes
  picks : List Nat
  /-- A reset that only becomes pending (R30). -/
  pend : Bool
  deriving DecidableEq, Repr, Inhabited

/-- Every row of spec/opcode_table.json. -/
inductive Instr where
  /-- `ACK` (R24): An ACK flit frees every retained flit at or below the acknowledged sequence. -/
  | ack (port : Nat) (seq : BitVec 24)
  /-- `REPLAY` (R21): A REPLAY flit makes the sender resend its retained flits from the named sequence. -/
  | replay (port : Nat) (seq : BitVec 24)
  /-- `CREDIT` (R24): A CREDIT flit adds freed receive-buffer flits to the sender's credit. -/
  | credit (port : Nat) (freed : BitVec 16)
  /-- `RD` (R23): An RD request flit reads one access at a physical address in the receiving device and is answered by RDR. -/
  | rd (port : Nat) (m : PeerMsg)
  /-- `RDR` (R24): An RDR response flit returns the data or the failure status of an RD, matched by TAG and DIE. -/
  | rdr (port : Nat) (m : PeerMsg)
  /-- `WR` (R23): A WR request flit writes masked bytes of a 64-byte block in the receiving device and is answered by WRA. -/
  | wr (port : Nat) (m : PeerMsg)
  /-- `WRA` (R24): A WRA response flit completes a WR, matched by TAG and DIE. -/
  | wra (port : Nat) (m : PeerMsg)
  /-- `STEP` (R23): A STEP request flit carries an announcement, publish or bind message to a home in the receiving device, which answers with STEPA. -/
  | peerStep (port : Nat) (m : PeerMsg)
  /-- `STEPA` (R23): A STEPA response flit returns the home's record state, progress, acceptance, ticket, result and version for a STEP. -/
  | stepa (port : Nat) (m : PeerMsg)
  /-- `CELL` (R23): A CELL request flit from a home makes the owner's device translate and write a result cell under the owner launch's ASID. -/
  | cell (port : Nat) (m : PeerMsg)
  /-- `CELLA` (R24): A CELLA response flit answers a CELL, including PAGE and the later SERVED answer, after which the home answers the STEP that caused it. -/
  | cella (port : Nat) (m : PeerMsg)
  /-- `NOP_PACKET` (R36): A NOP packet is parsed, and its words are ignored. -/
  | nopPacket (w : PacketWords)
  /-- `LAUNCH` (R37): A LAUNCH packet dispatches a launch descriptor, waiting first for earlier launches when ORDER is set. -/
  | launch (w : PacketWords)
  /-- `GRAPH` (R42): A GRAPH packet arms a range of launch-graph nodes, which then start by predecessor counts or tile windows. -/
  | graph (w : PacketWords)
  /-- `WAIT` (R40): A WAIT packet holds later packets until a 64-bit word satisfies its condition, re-reading it, registering for a wake, or releasing the slot. -/
  | wait (w : PacketWords)
  /-- `SIGNAL` (R37): Once earlier packets are complete and visible, a SIGNAL packet writes or adds a value and, with WAKE, wakes the waiters on the address. -/
  | signal (w : PacketWords)
  /-- `CALLIB` (R39): A CALLIB packet parses a buffer as a nested stream of up to depth 4, then returns to the word after it. -/
  | callib (w : PacketWords)
  /-- `FENCE_PACKET` (R37): A FENCE packet starts later packets only after earlier ones complete, with their stores visible device-wide or, with SYS, to the host. -/
  | fencePacket (w : PacketWords)
  /-- `WRITEIMM` (R37): A WRITEIMM packet writes 32 or 64 bits at parse time, without waiting for earlier launches. -/
  | writeimm (w : PacketWords)
  /-- `CKPT` (R57): A CKPT packet from the physical function quiesces the covered partitions and copies memory and state to the vault. -/
  | ckpt (w : PacketWords)
  /-- `CKPT_RESTORE` (R61): A CKPT packet with RESTORE checks a vault checkpoint and restores its memory and state into the covered partitions. -/
  | ckptRestore (w : PacketWords)
  /-- `UNKNOWN_PACKET` (R36): A packet header of unlisted type faults the queue with CMDTYPE. -/
  | unknownPacket (w : PacketWords)
  /-- `dv.rfetch` (R47): Command-processor instruction that fetches a ring word at an offset from RPTR of a slot, or all ones past WPTR. -/
  | dvRfetch (w : DvWord)
  /-- `dv.bfx` (R47): Command-processor instruction that extracts a bit field, faulting BFX when the field is out of range. -/
  | dvBfx (w : DvWord)
  /-- `dv.swait` (R47): Command-processor instruction that tests a signal word against a value under COND, faulting SWAITF when it cannot read it. -/
  | dvSwait (w : DvWord)
  /-- `dv.disp` (R47): Command-processor instruction that reads and validates a launch descriptor and its tables and hands the launch to the scheduler, returning a launch id or 0. -/
  | dvDisp (w : DvWord)
  /-- `add` (R282): Per-lane 32-bit add. -/
  | add (w : CoreWords)
  /-- `sub` (R282): Per-lane 32-bit subtract. -/
  | sub (w : CoreWords)
  /-- `mul` (R282): Per-lane low 32 bits of a product. -/
  | mul (w : CoreWords)
  /-- `mulhi` (R282): Per-lane high 32 bits of the signed or unsigned product. -/
  | mulhi (w : CoreWords)
  /-- `mad` (R282): Per-lane multiply-add, low 32 bits; extended forms only. -/
  | mad (w : CoreWords)
  /-- `min` (R282): Per-lane signed or unsigned minimum. -/
  | imin (w : CoreWords)
  /-- `max` (R282): Per-lane signed or unsigned maximum. -/
  | imax (w : CoreWords)
  /-- `and` (R282): Per-lane bitwise and. -/
  | iand (w : CoreWords)
  /-- `or` (R282): Per-lane bitwise or. -/
  | ior (w : CoreWords)
  /-- `xor` (R282): Per-lane bitwise exclusive or. -/
  | ixor (w : CoreWords)
  /-- `andn` (R282): Per-lane a and not b. -/
  | andn (w : CoreWords)
  /-- `shl` (R282): Per-lane logical shift left. -/
  | shl (w : CoreWords)
  /-- `shr` (R282): Per-lane logical shift right. -/
  | shr (w : CoreWords)
  /-- `sar` (R282): Per-lane arithmetic shift right. -/
  | sar (w : CoreWords)
  /-- `rotl` (R282): Per-lane rotate left. -/
  | rotl (w : CoreWords)
  /-- `clz` (R282): Per-lane count of leading zeros. -/
  | clz (w : CoreWords)
  /-- `popc` (R282): Per-lane population count. -/
  | popc (w : CoreWords)
  /-- `brev` (R282): Per-lane bit reversal. -/
  | brev (w : CoreWords)
  /-- `bfx` (R283): Per-lane bit-field extract with optional sign extension; extended forms only. -/
  | bfx (w : CoreWords)
  /-- `bfi` (R283): Per-lane bit-field insert; extended forms only. -/
  | bfi (w : CoreWords)
  /-- `sel` (R284): Per-lane select of A or B by a predicate; extended forms only. -/
  | sel (w : CoreWords)
  /-- `cmp.eq` (R285): Per-lane equality compare into a predicate. -/
  | cmpEq (w : CoreWords)
  /-- `cmp.ne` (R285): Per-lane inequality compare into a predicate. -/
  | cmpNe (w : CoreWords)
  /-- `cmp.lt` (R285): Per-lane signed or unsigned less-than compare into a predicate. -/
  | cmpLt (w : CoreWords)
  /-- `cmp.le` (R285): Per-lane signed or unsigned less-or-equal compare into a predicate. -/
  | cmpLe (w : CoreWords)
  /-- `lea` (R286): Per-lane 64-bit address computation from a g pair and a shifted offset. -/
  | lea (w : CoreWords)
  /-- `add64` (R286): Per-lane 64-bit add of g pairs. -/
  | add64 (w : CoreWords)
  /-- `mov` (R287): Per-lane copy of value and tag. -/
  | mov (w : CoreWords)
  /-- `movl` (R287): Writes the 64-bit literal, or 0, into an h register. -/
  | movl (w : CoreWords)
  /-- `uni` (R288): Promotes the lowest active lane's values into an h register. -/
  | uni (w : CoreWords)
  /-- `uni.chk` (R288): Promotes the lowest active lane's values into an h register, raising NONUNIF if the active lanes differ. -/
  | uniChk (w : CoreWords)
  /-- `add` (R282): H form of add, with A from an h register. -/
  | addH (w : CoreWords)
  /-- `sub` (R282): H form of sub. -/
  | subH (w : CoreWords)
  /-- `mul` (R282): H form of mul. -/
  | mulH (w : CoreWords)
  /-- `mulhi` (R282): H form of mulhi. -/
  | mulhiH (w : CoreWords)
  /-- `mad` (R282): H form of mad; extended forms only. -/
  | madH (w : CoreWords)
  /-- `min` (R282): H form of min. -/
  | minH (w : CoreWords)
  /-- `max` (R282): H form of max. -/
  | maxH (w : CoreWords)
  /-- `and` (R282): H form of and. -/
  | andH (w : CoreWords)
  /-- `or` (R282): H form of or. -/
  | orH (w : CoreWords)
  /-- `xor` (R282): H form of xor. -/
  | xorH (w : CoreWords)
  /-- `andn` (R282): H form of andn. -/
  | andnH (w : CoreWords)
  /-- `shl` (R282): H form of shl. -/
  | shlH (w : CoreWords)
  /-- `shr` (R282): H form of shr. -/
  | shrH (w : CoreWords)
  /-- `sar` (R282): H form of sar. -/
  | sarH (w : CoreWords)
  /-- `rotl` (R282): H form of rotl. -/
  | rotlH (w : CoreWords)
  /-- `clz` (R282): H form of clz. -/
  | clzH (w : CoreWords)
  /-- `popc` (R282): H form of popc. -/
  | popcH (w : CoreWords)
  /-- `brev` (R282): H form of brev. -/
  | brevH (w : CoreWords)
  /-- `bfx` (R283): H form of bfx; extended forms only. -/
  | bfxH (w : CoreWords)
  /-- `bfi` (R283): H form of bfi; extended forms only. -/
  | bfiH (w : CoreWords)
  /-- `sel` (R284): H form of sel; extended forms only. -/
  | selH (w : CoreWords)
  /-- `cmp.eq` (R285): H form of cmp.eq. -/
  | cmpEqH (w : CoreWords)
  /-- `cmp.ne` (R285): H form of cmp.ne. -/
  | cmpNeH (w : CoreWords)
  /-- `cmp.lt` (R285): H form of cmp.lt. -/
  | cmpLtH (w : CoreWords)
  /-- `cmp.le` (R285): H form of cmp.le. -/
  | cmpLeH (w : CoreWords)
  /-- `mov` (R287): Writes hA[31:0] with h's tag into every active lane. -/
  | movH (w : CoreWords)
  /-- `bra` (R291): Per-lane relative branch. -/
  | bra (w : CoreWords)
  /-- `brx` (R295): Per-lane jump through an inline table, raising JTAB for indices past the table; needs a literal. -/
  | brx (w : CoreWords)
  /-- `call` (R292): Relative call that opens or joins the window at depth + 1 and writes the link. -/
  | call (w : CoreWords)
  /-- `calli` (R292): Call to a 64-bit address from a g pair. -/
  | calli (w : CoreWords)
  /-- `ret` (R293): Returns to the link of the current window and drops one depth. -/
  | ret (w : CoreWords)
  /-- `exit` (R294): Ends the active threads; the hand becomes DONE when its last thread exits. -/
  | exit (w : CoreWords)
  /-- `yield` (R297): Ends the run, resets the Owl count, counts a yield and may swap the hand. -/
  | yield (w : CoreWords)
  /-- `yieldw` (R298): Registers the hand on a key and puts it to sleep unless the word has moved. -/
  | yieldw (w : CoreWords)
  /-- `elect` (R299): Sets a predicate true in the lowest active lane only. -/
  | elect (w : CoreWords)
  /-- `qany` (R299): Sets a predicate to the OR of a predicate over the active lanes. -/
  | qany (w : CoreWords)
  /-- `qall` (R299): Sets a predicate to the AND of a predicate over the active lanes. -/
  | qall (w : CoreWords)
  /-- `qmask` (R299): Writes the mask of active lanes holding a predicate. -/
  | qmask (w : CoreWords)
  /-- `lx.sel` (R300): Copies lane b mod 32 of a register into each active lane. -/
  | lxSel (w : CoreWords)
  /-- `lx.rot` (R300): Rotates lane values across the hand. -/
  | lxRot (w : CoreWords)
  /-- `lx.rev` (R300): Reverses lane values within aligned groups. -/
  | lxRev (w : CoreWords)
  /-- `lx.dup` (R300): Copies the first lane of each aligned group to the group. -/
  | lxDup (w : CoreWords)
  /-- `qand` (R301): Per-lane predicate and. -/
  | qand (w : CoreWords)
  /-- `qor` (R301): Per-lane predicate or. -/
  | qor (w : CoreWords)
  /-- `qxor` (R301): Per-lane predicate exclusive or. -/
  | qxor (w : CoreWords)
  /-- `qnot` (R301): Per-lane predicate not. -/
  | qnot (w : CoreWords)
  /-- `nop` (R302): Counts towards the run and acts only through SW and RB. -/
  | nop (w : CoreWords)
  /-- `loop` (R304): Declares a counted or until loop level with rotating names and stages; extended forms only. -/
  | loop (w : CoreWords)
  /-- `lbrk` (R305): Leaves the innermost member level and continues after its END. -/
  | lbrk (w : CoreWords)
  /-- `lnext` (R305): Holds the issuing members at the edge as if they had fallen through END. -/
  | lnext (w : CoreWords)
  /-- `lend` (R305): Retires the innermost level at the issuing threads' depth. -/
  | lend (w : CoreWords)
  /-- `ld` (R310): Per-lane load from device, peer or host memory through a g-pair base. -/
  | ld (w : CoreWords)
  /-- `st` (R311): Per-lane store to memory through a g-pair base, appended to the thread's store buffer. -/
  | st (w : CoreWords)
  /-- `lds` (R310): Per-lane load from scratch at a cluster address. -/
  | lds (w : CoreWords)
  /-- `sts` (R311): Per-lane store to scratch at a cluster address. -/
  | sts (w : CoreWords)
  /-- `ldh` (R313): Hand-level load of one 8-byte word into an h register. -/
  | ldh (w : CoreWords)
  /-- `pref` (R314): Per-lane request of a line into its home die's cache, with no fault. -/
  | pref (w : CoreWords)
  /-- `fence` (R315): Per-thread fence at a scope, completing when the store buffer is empty and joining pending views; needs ORD in an extended form. -/
  | fence (w : CoreWords)
  /-- `bind` (R316): Registers a binding of a region to a sync object for the launch at the object's home. -/
  | bind (w : CoreWords)
  /-- `ld.inv` (R184): Per-lane invariant load that neither uses nor changes the view. -/
  | ldInv (w : CoreWords)
  /-- `ld` (R310): H form of ld with a 64-bit base from an h register. -/
  | ldH (w : CoreWords)
  /-- `st` (R311): H form of st. -/
  | stH (w : CoreWords)
  /-- `lds` (R310): H form of lds. -/
  | ldsH (w : CoreWords)
  /-- `sts` (R311): H form of sts. -/
  | stsH (w : CoreWords)
  /-- `pref` (R314): H form of pref. -/
  | prefH (w : CoreWords)
  /-- `ld.inv` (R184): H form of ld.inv. -/
  | ldInvH (w : CoreWords)
  /-- `ann.fadd` (R322): Announces an add on a sync object, helping records ahead and sending its own step. -/
  | annFadd (w : CoreWords)
  /-- `ann.fmin` (R322): Announces a minimum on a sync object. -/
  | annFmin (w : CoreWords)
  /-- `ann.fmax` (R322): Announces a maximum on a sync object. -/
  | annFmax (w : CoreWords)
  /-- `ann.and` (R322): Announces a bitwise and on a sync object. -/
  | annAnd (w : CoreWords)
  /-- `ann.or` (R322): Announces a bitwise or on a sync object. -/
  | annOr (w : CoreWords)
  /-- `ann.xor` (R322): Announces a bitwise exclusive or on a sync object. -/
  | annXor (w : CoreWords)
  /-- `ann.swap` (R322): Announces a swap on a sync object. -/
  | annSwap (w : CoreWords)
  /-- `ann.cas` (R322): Announces a compare-and-swap on a sync object; extended forms only. -/
  | annCas (w : CoreWords)
  /-- `ann.mcas` (R329): Announces a multi-word compare-and-swap with install, decide, update and delivery steps; extended forms only. -/
  | annMcas (w : CoreWords)
  /-- `ann.bkt` (R323): Announces a bucket append that claims a slot and writes a token index. -/
  | annBkt (w : CoreWords)
  /-- `help` (R330): Sends up to four pending steps of an object's records without a record of its own. -/
  | help (w : CoreWords)
  /-- `coll` (R331): Sends helping steps and its own next step, and collects the record's result when it is terminal. -/
  | coll (w : CoreWords)
  /-- `acq` (R332): Acquires a sync object, returning its version and joining its published view. -/
  | acq (w : CoreWords)
  /-- `rel` (R332): Releases a sync object after older stores drain, returning the new version. -/
  | rel (w : CoreWords)
  /-- `bar.arv` (R333): Arrival of each active thread at a barrier group, returning the phase. -/
  | barArv (w : CoreWords)
  /-- `bar.tst` (R334): Tests whether a barrier phase has completed, joining recorded views and raising BARTMO past the budget. -/
  | barTst (w : CoreWords)
  /-- `bbar.post` (R336): Posts the expected byte count of a byte-counting barrier. -/
  | bbarPost (w : CoreWords)
  /-- `bbar.tst` (R336): Tests a byte-counting barrier's phase parity, raising BAROVR on overrun. -/
  | bbarTst (w : CoreWords)
  /-- `fadd` (R339): Per-element float add rounded once. -/
  | fadd (w : CoreWords)
  /-- `fsub` (R339): Per-element float subtract rounded once. -/
  | fsub (w : CoreWords)
  /-- `fmul` (R339): Per-element float multiply rounded once. -/
  | fmul (w : CoreWords)
  /-- `fma` (R339): Per-element fused multiply-add; extended forms only. -/
  | fma (w : CoreWords)
  /-- `fmin` (R340): Per-element float minimum. -/
  | fmin (w : CoreWords)
  /-- `fmax` (R340): Per-element float maximum. -/
  | fmax (w : CoreWords)
  /-- `rcp` (R341): Correctly rounded reciprocal. -/
  | rcp (w : CoreWords)
  /-- `rsq` (R341): Correctly rounded reciprocal square root. -/
  | rsq (w : CoreWords)
  /-- `ex2` (R341): Correctly rounded base-2 exponential. -/
  | ex2 (w : CoreWords)
  /-- `lg2` (R341): Correctly rounded base-2 logarithm. -/
  | lg2 (w : CoreWords)
  /-- `tanh` (R341): Correctly rounded hyperbolic tangent. -/
  | tanh (w : CoreWords)
  /-- `cvt` (R342): Converts between formats with packing or unpacking; extended forms only. -/
  | cvt (w : CoreWords)
  /-- `pkscl` (R343): Chooses the E3M5 block scale for a block maximum; extended forms only. -/
  | pkscl (w : CoreWords)
  /-- `unpk` (R344): Decodes one scaled element into F32; extended forms only. -/
  | unpk (w : CoreWords)
  /-- `dot8` (R345): Eight-element dot product added to F32, rounded once; extended forms only. -/
  | dot8 (w : CoreWords)
  /-- `hred.add` (R346): Sum over the active lanes by a fixed pairwise tree. -/
  | hredAdd (w : CoreWords)
  /-- `hred.min` (R346): Minimum over the active lanes by a fixed tree. -/
  | hredMin (w : CoreWords)
  /-- `hred.max` (R346): Maximum over the active lanes by a fixed tree. -/
  | hredMax (w : CoreWords)
  /-- `fcmp.eq` (R347): Float equality compare of one element into a predicate. -/
  | fcmpEq (w : CoreWords)
  /-- `fcmp.ne` (R347): Float inequality compare into a predicate. -/
  | fcmpNe (w : CoreWords)
  /-- `fcmp.lt` (R347): Float less-than compare into a predicate. -/
  | fcmpLt (w : CoreWords)
  /-- `fcmp.le` (R347): Float less-or-equal compare into a predicate. -/
  | fcmpLe (w : CoreWords)
  /-- `fcmp.un` (R347): Float unordered compare into a predicate. -/
  | fcmpUn (w : CoreWords)
  /-- `ftag` (R348): Writes a register's tag code into each active lane. -/
  | ftag (w : CoreWords)
  /-- `stag` (R348): Copies a value and sets its tag; extended forms only. -/
  | stag (w : CoreWords)
  /-- `fadd` (R339): H form of fadd. -/
  | faddH (w : CoreWords)
  /-- `fsub` (R339): H form of fsub. -/
  | fsubH (w : CoreWords)
  /-- `fmul` (R339): H form of fmul. -/
  | fmulH (w : CoreWords)
  /-- `fma` (R339): H form of fma; extended forms only. -/
  | fmaH (w : CoreWords)
  /-- `fmin` (R340): H form of fmin. -/
  | fminH (w : CoreWords)
  /-- `fmax` (R340): H form of fmax. -/
  | fmaxH (w : CoreWords)
  /-- `fcmp.eq` (R347): H form of fcmp.eq. -/
  | fcmpEqH (w : CoreWords)
  /-- `fcmp.ne` (R347): H form of fcmp.ne. -/
  | fcmpNeH (w : CoreWords)
  /-- `fcmp.lt` (R347): H form of fcmp.lt. -/
  | fcmpLtH (w : CoreWords)
  /-- `fcmp.le` (R347): H form of fcmp.le. -/
  | fcmpLeH (w : CoreWords)
  /-- `tld` (R356): Loads a tile and its planes from scratch and computes its check vector. -/
  | tld (w : CoreWords)
  /-- `tst` (R356): Stores a tile and its planes to scratch. -/
  | tst (w : CoreWords)
  /-- `tcfg` (R350): Writes a tile's shape register and resets its scales and check vector. -/
  | tcfg (w : CoreWords)
  /-- `mma` (R358): Matrix multiply-accumulate of two tiles into the accumulator store; extended forms only. -/
  | mma (w : CoreWords)
  /-- `mma.win` (R359): Matrix multiply-accumulate through a shifted window of a halo tile; extended forms only. -/
  | mmaWin (w : CoreWords)
  /-- `gmma` (R361): One gang arrival for a joint matrix round, the last arrival firing the round; extended forms only. -/
  | gmma (w : CoreWords)
  /-- `acz` (R363): Zeroes an accumulator block; extended forms only. -/
  | acz (w : CoreWords)
  /-- `acld` (R363): Loads an accumulator block from scratch; extended forms only. -/
  | acld (w : CoreWords)
  /-- `acst` (R363): Stores an accumulator block to scratch or device memory with row CRCs; extended forms only. -/
  | acst (w : CoreWords)
  /-- `acdrain` (R364): Adds an accumulator block into a target core's accumulator; extended forms only. -/
  | acdrain (w : CoreWords)
  /-- `epi` (R365): Checks, scales, biases, activates and converts an accumulator block to an output; extended forms only. -/
  | epi (w : CoreWords)
  /-- `cpy` (R369): Starts a copy between a handle's range and scratch or a circular-buffer slot; extended forms only. -/
  | cpy (w : CoreWords)
  /-- `wbind` (R370): Binds a window of the region table to a scratch range and a copy; extended forms only. -/
  | wbind (w : CoreWords)
  /-- `winq` (R371): Touches a window and returns its state at once. -/
  | winq (w : CoreWords)
  /-- `cbtake.full` (R372): Takes the next full slot of a circular buffer, or returns EMPTY. -/
  | cbtakeFull (w : CoreWords)
  /-- `cbtake.free` (R372): Takes the next free slot of a thread-fed circular buffer, or returns EMPTY. -/
  | cbtakeFree (w : CoreWords)
  /-- `cbgive.full` (R372): Marks a thread-written slot FULL. -/
  | cbgiveFull (w : CoreWords)
  /-- `cbgive.free` (R372): Returns a read slot to FREE, letting a held copy claim it. -/
  | cbgiveFree (w : CoreWords)
  /-- `qput` (R373): Submits a job to a queue engine, or returns FULL. -/
  | qput (w : CoreWords)
  /-- `qget` (R375): Takes the oldest finished job's result word, or returns EMPTY. -/
  | qget (w : CoreWords)
  /-- `bkt` (R376): Appends token indices to expert buckets through the regroup engine. -/
  | bkt (w : CoreWords)
  /-- `xcnt.rd` (R377): Reads expert use counters. -/
  | xcntRd (w : CoreWords)
  /-- `xcnt.clr` (R377): Reads and clears expert use counters. -/
  | xcntClr (w : CoreWords)
  /-- `rng` (R378): Claims the next chunk of the hand's range state. -/
  | rng (w : CoreWords)
  /-- `spawn` (R382): Creates a segment with no token. -/
  | spawn (w : CoreWords)
  /-- `cond` (R381): Allocates a condition token. -/
  | cond (w : CoreWords)
  /-- `spawnc.t` (R382): Creates a segment needed when a token resolves TRUE, weighted by a k register. -/
  | spawncT (w : CoreWords)
  /-- `spawnc.f` (R382): Creates a segment needed when a token resolves FALSE, weighted by a k register. -/
  | spawncF (w : CoreWords)
  /-- `spawnc.t.pred` (R382): Creates a TRUE-polarity segment weighted by the spawn-site predictor. -/
  | spawncTPred (w : CoreWords)
  /-- `spawnc.f.pred` (R382): Creates a FALSE-polarity segment weighted by the spawn-site predictor. -/
  | spawncFPred (w : CoreWords)
  /-- `resolve` (R383): Settles a token with a hand-uniform predicate. -/
  | resolve (w : CoreWords)
  /-- `lkset` (R384): Writes a likelihood into a k register. -/
  | lkset (w : CoreWords)
  /-- `lkget` (R384): Reads a k register into an h register. -/
  | lkget (w : CoreWords)
  /-- `segq` (R385): Reads the state of a spawned segment's Deck entry. -/
  | segq (w : CoreWords)
  /-- `trap` (R389): Raises a HAND-class trap with an immediate. -/
  | trap (w : CoreWords)
  /-- `tret` (R390): Ends trap mode for the active threads. -/
  | tret (w : CoreWords)
  /-- `srd` (R388): Reads a system register; extended forms only. -/
  | srd (w : CoreWords)
  /-- `swr` (R388): Writes a system register; extended forms only. -/
  | swr (w : CoreWords)
  /-- `uintr` (R391): Sets a pending user interrupt in a hand of the launch. -/
  | uintr (w : CoreWords)
  /-- `brk` (R389): Raises a breakpoint trap, halting the hand when debug is enabled. -/
  | brk (w : CoreWords)
  /-- `sig` (R392): Wakes the waiters on a key in the wait-and-wake table. -/
  | sig (w : CoreWords)
  /-- `drop` (R393): Frees named g registers. -/
  | drop (w : CoreWords)
  /-- `ENCODING_NOT_INSTRUCTION` (R265): An issued word with an unassigned opcode, class 9 to 15, an invalid decode-table entry or a missing decode table raises ILLOP or DECODE. -/
  | encodingNotInstruction (code : BitVec 8) (word0 : Word)
  /-- `COLD_START` (R28): Module power is applied; VAUX comes up and the staged bring-up runs from management-controller boot to host-link training. Input: `ok` whether every image verifies, `ok2` whether every stage completes, `n` the stage reached when it does not, `picks` the ports that fail training: peer ports 0 to 17, vault ports 18 and 19. -/
  | coldStart
  /-- `WARM_RESET` (R29): PERST#, or the management controller, resets dies, stack contents and links while the VAUX domain, Magpie and vault contents survive; a PERST# during bring-up stages 1 to 5 is held until stage 5 completes. Input: `pend` it only becomes pending (R30). -/
  | warmReset
  /-- `FLR_VF` (R64): A PCIe function-level reset of a virtual function destroys its queues and performs a partition reset of the partition bound to it. Input: `n` the virtual function, `pend` it only becomes pending (R30). -/
  | flrVf
  /-- `FLR_PF` (R64): A PCIe function-level reset of the physical function destroys every queue and performs a partition reset of every partition. Input: `pend` it only becomes pending (R30). -/
  | flrPf
  /-- `PARTITION_RESET` (R29): System software resets one partition, ending its launches, reporting them item by item, and leaving its queues FAULTED with PRESET. Input: `n` the partition, `pend` it only becomes pending (R30). -/
  | partitionReset
  /-- `DUTY_WINDOW` (R14): At the end of each 1 ms window of the management controller's count, a die's run-grant duty is lowered or raised one step of 1/16 according to its measured power. Input: `n` the die, `ok` power above target. -/
  | dutyWindow
  /-- `THERMAL_THROTTLE` (R16): A die junction reaching 95 °C lowers that die's duty as in R14, whatever its power. Input: `n` the die. -/
  | thermalThrottle
  /-- `THERMAL_TRIP` (R16): A die junction reaching 110 °C holds the module in reset, and the Magpie logs the event. Input: `n` the die. -/
  | thermalTrip
  /-- `EOL_UPDATE` (R225): Every 2^24 windows the management controller updates the PREDICTED_EOL sensor of each die, and raises a PLDM event when the value falls below 6. Input: `n` the die, `m` the value in months. -/
  | eolUpdate
  /-- `HOST_LINK_TRAIN` (R17): The host link trains to the highest rate and width that the partner supports. Input: `n` the rate in tenths of GT/s, `m` the width. -/
  | hostLinkTrain
  /-- `PORT_RETRAIN` (R21): System software starts retraining of a peer port, which is the only way a port that is down comes back up. Input: `n` the port, `ok` whether it succeeds. -/
  | portRetrain
  /-- `FLIT_CHK_MISMATCH` (R21): A received flit whose CHK does not match is discarded, and a replay is requested from its sequence number. Input: `n` the port. -/
  | flitChkMismatch
  /-- `FLIT_UNLISTED_KIND` (R22): A received flit whose kind is not listed is discarded, counted and logged to the Magpie. Input: `n` the port, `code` the kind. -/
  | flitUnlistedKind
  /-- `ACK_TIMER` (R24): A sequenced flit left unacknowledged for 1,024 cycles of the die's count makes the receiver send an ACK. Input: `n` the port. -/
  | ackTimer
  /-- `REQUEST_TIMEOUT` (R24): A request that has had no response after 2^26 cycles is treated as sent to a peer with no working port. Input: `n` the die, `m` the TAG. -/
  | requestTimeout
  /-- `QUEUE_CREATE` (R32): The Badger core of the descriptor's slice validates a new queue descriptor, refusing it with QCFG when it is bad. Input: `n` the function, `m` the index of the queue, `value` the address of the descriptor. -/
  | queueCreate
  /-- `DOORBELL` (R33): A doorbell write to a queue is accepted, setting and writing back WPTR, or refused with DBELL. Input: `n` the function, `m` the index of the queue, `value` the value written. -/
  | doorbell
  /-- `QUEUE_RESUME` (R35): System software writes STATE to IDLE in a faulted queue's descriptor, and the queue resumes parsing from its recorded position. Input: `n` the function, `m` the index of the queue. -/
  | queueResume
  /-- `SLOT_GRANT` (R34): The front end grants a free hardware slot to the highest-ranked READY queue, whose command processor then parses its packets. Input: `n` the die. -/
  | slotGrant
  /-- `WAIT_REREAD_EXPIRY` (R40): A false WAIT stops re-reading after 4,096 front-end cycles, or at once when another queue waits for a slot, and registers in the wait-and-wake table. Input: `n` the die, `m` the slot. -/
  | waitRereadExpiry
  /-- `COMPLETION_WAIT_EXPIRY` (R410): A queue held at an ordered LAUNCH, SIGNAL or FENCE releases its slot after 4,096 front-end cycles, or when another queue waits, and becomes WAITING. Input: `n` the die, `m` the slot. -/
  | completionWaitExpiry
  /-- `LAUNCH_COMPLETE` (R37): When a launch completes, its stores are made visible, its item records are written, its signal word gets its add, and waiting queues and graph successors proceed. Input: `lid` the launch. -/
  | launchComplete
  /-- `HOST_WAIT_REGISTER` (R67): A host driver's GO on the host wait registration adds its host line to the wait-and-wake entry of a key. Input: `n` the function, `value` the key, `half` the ASID, `value2` the host line. -/
  | hostWaitRegister
  /-- `HOST_WAIT_WITHDRAW` (R67): A GO with WITHDRAW set removes the function's host line from a wait-and-wake entry and frees an entry left empty. Input: `n` the function, `value` the key, `half` the ASID, `value2` the host line. -/
  | hostWaitWithdraw
  /-- `ATOMICOP_COMPLETION` (R54): A PCIe completion to the proxy's AtomicOp records step 1 of a host record, or handles Unsupported Request by a read-write or by FAILED with HXA. Input: `n` the record, `ok` Unsupported Request, `value` the old value. -/
  | atomicopCompletion
  /-- `ATOMICOP_TIMEOUT` (R54): A completion time-out on the proxy's AtomicOp ends its record FAILED with detail 0x0001_0011. Input: `n` the record, `ok` whether the object was updated. -/
  | atomicopTimeout
  /-- `HOST_LOSS` (R55): The device declares the host lost on link loss without PERST#, 16 consecutive time-outs, or the management controller's declaration, and starts parking host-bound writes. Input: `n` the cause. -/
  | hostLoss
  /-- `HOST_MEMORY_WRITE` (R57): A host write to device memory arrives over PCIe, and is held in the park buffer while a checkpoint copy or restore runs. Input: `value` the physical address, or with `ok` the host bus address of a write to the host's own memory, `mask` the byte mask, `block` the data, `ok2` under the host's release. -/
  | hostMemoryWrite
  /-- `CKPT_COPY_COMPLETE` (R57): When the vault copy of a checkpoint completes, the covered partitions resume, the parked host writes are applied, and the signal receives its add. -/
  | ckptCopyComplete
  /-- `CKPT_RESTORE_COMPLETE` (R61): When a restore has read and checked the body, the state is loaded and the covered partitions resume, or on a digest mismatch they are reset. Input: `ok` whether it succeeds. -/
  | ckptRestoreComplete
  /-- `TBASE_WRITE` (R65): A write to the translation base register sets EN and TBASE, and is ignored while any partition is enabled. Input: `value` the value written. -/
  | tbaseWrite
  /-- `TLB_INVALIDATE` (R154): A write with GO to the invalidation register starts the clearing of matching entries from every TLB of every die. Input: `value` the virtual address, `value2` the value written. -/
  | tlbInvalidate
  /-- `INVALIDATE_COMPLETE` (R154): When every TLB has cleared the matching entries, the invalidation register reads DONE 1. -/
  | invalidateComplete
  /-- `PARTITION_COMMIT` (R63): A write of 1 to COMMIT applies all the staged fields of a partition configuration block as one action, or applies none and reports STATUS. Input: `n` the partition. -/
  | partitionCommit
  /-- `BINDING_WRITE` (R64): A write to a byte of the function binding table binds a virtual function to a partition, unless the write is ignored under R64. Input: `n` the virtual function, `code` the value written. -/
  | bindingWrite
  /-- `ERROR_BANK_CLEAR` (R222): A write of 1 to CLR of an error bank clears VALID, UE, OVF and DISC. Input: `ok` a slice bank, `n` the bank. -/
  | errorBankClear
  /-- `REGISTER_WRITE` (R62): A write to a BAR register with no behaviour of its own stores the value, or is ignored at an unlisted offset. Input: `n` the function, `m` the offset, `value` the value written; or with `k` 1 to 3 a table that has no offset there: the word `m` of the launch nodes of die `l`, the entry `m` of its successor array, or of the peer window tables. -/
  | registerWrite
  /-- `DEBUG_HALT` (R203): The debug mailbox's HALT swaps a hand out to HALTED at its next run boundary, or at once when it is not resident. Input: `lid` the launch, `n` the hand index. -/
  | debugHalt
  /-- `DEBUG_READ` (R203): The debug mailbox's READ copies part of a halted hand's context record or spill slots to a buffer. Input: `lid` the launch, `n` the hand index, `m` the offset, `k` the length, `value` the buffer. -/
  | debugRead
  /-- `DEBUG_WRITE` (R203): The debug mailbox's WRITE writes part of a halted hand's context record or spill slots from a buffer. Input: `lid` the launch, `n` the hand index, `m` the offset, `k` the length, `value` the buffer. -/
  | debugWrite
  /-- `DEBUG_RESUME` (R203): The debug mailbox's RESUME validates a halted hand's record and returns the hand to SWAPPED. Input: `lid` the launch, `n` the hand index. -/
  | debugResume
  /-- `DEBUG_STEP` (R203): The debug mailbox's STEP resumes a halted hand and halts it again at the end of its next run. Input: `lid` the launch, `n` the hand index. -/
  | debugStep
  /-- `FINALISE` (R273): The finaliser mailbox's FINALISE turns an EPF module into native BX960 code and entry offsets, or returns a failure status. Input: `n` the function. -/
  | finalise
  /-- `HOST_LOSS_STATUS` (R56): The host-loss mailbox's STATUS command returns the parked bytes and the count of dropped writes. -/
  | hostLossStatus
  /-- `HOST_LOSS_REPLAY` (R56): The first host-loss choice of REPLAY sends the parked writes to the host in issue order once the link is retrained. Input: `ok` the choice of the authenticated controller. -/
  | hostLossReplay
  /-- `HOST_LOSS_DROP` (R56): The first host-loss choice of DROP discards the parked writes. Input: `ok` the choice of the authenticated controller. -/
  | hostLossDrop
  /-- `SPDM_SESSION` (R56): A controller on the management port opens a mutually authenticated SPDM 1.3 session, limited to GET_MEASUREMENTS at alarm level 2. Input: `ok` whether the peer is authentic. -/
  | spdmSession
  /-- `QUIESCE_PARTITIONS` (R56): The management controller quiesces partitions at the request of the authenticated controller during host loss. Input: `half` the byte mask. -/
  | quiescePartitions
  /-- `GET_MEASUREMENTS` (R229): An SPDM GET_MEASUREMENTS request is answered with the signed SHA-256 measurements of the firmware and configuration. -/
  | getMeasurements
  /-- `IMAGE_UPDATE` (R228): The management controller checks a firmware image's signature and version and stages it to take effect at the next warm reset. Input: `n` the image, `m` its security version, `ok` whether its signature is good. -/
  | imageUpdate
  /-- `GLITCH_DETECT` (R226): A voltage or clock glitch raises the security alarm to level 1, or to level 2 on a repeat. -/
  | glitchDetect
  /-- `TAMPER_BREAK` (R226): A tamper-mesh break raises the alarm to level 3, erasing the key-encryption keys and holding the module in reset. -/
  | tamperBreak
  /-- `DEBUG_UNLOCK` (R226): A failed debug-unlock attempt counts towards raising the alarm to level 2 at the third and level 3 at the eighth. Input: `ok` whether it succeeds. -/
  | debugUnlock
  /-- `PLACEMENT` (R73): The scheduler places the partition's next item, a plain hand or a whole gang, on free places in placement order, with back-fill and RESERVE. Input: `n` the partition. -/
  | placement
  /-- `SLOT_ARBITRATION` (R82): At the end of its run an issue slot grants the eligible hand of the highest class and the oldest grant, updating loss counts and classes. Input: `n` the core, `m` the slot. -/
  | slotArbitration
  /-- `RESULT_RETURN` (R119): An asynchronous result returns to its name, and a parked split whose outstanding results have all returned votes again. Input: `n` the hand, `m` the result, `lanes` the lanes, `picks` the choices it makes. -/
  | resultReturn
  /-- `SPILL_COMPLETE` (R128): The Squirrel finishes writing spilled registers or a bank of a victim, and the parked allocating split proceeds. Input: `n` the hand. -/
  | spillComplete
  /-- `REFILL_COMPLETE` (R129): The Squirrel finishes refilling a spilled name, and the parked split proceeds. Input: `n` the hand. -/
  | refillComplete
  /-- `OWL_EXPIRY` (R91): A queue's Owl count reaches its budget, and the front end drains the partition, logs WDOG, resets the partition, reports its launches and faults its queues with OWLX. Input: `n` the function, `m` the index of the queue, `pend` it only becomes pending (R30). -/
  | owlExpiry
  /-- `SPAWN_ENTRY_ARRIVAL` (R99): A spawn entry reaches its Deck and creates a PENDING or DEEP segment, or none, and the status returns to the spawner. Input: `n` the hand, `m` the result. -/
  | spawnEntryArrival
  /-- `DEAL` (R103): A die's Dealer gives a free place to the highest-ranked pending segment, or halves a running range task for it. Input: `n` the die, `m` the core. -/
  | deal
  /-- `RESOLUTION_APPLY` (R110): A token's resolution reaches a die's Deck, refutes or confirms dependent segments, recomputes likelihoods, starts commits and updates the predictor. Input: `n` the die. -/
  | resolutionApply
  /-- `COMMIT_DRAIN` (R183): A commit party drains a confirmed segment's region into the word orders in order, after its ancestors' regions have drained. Input: `n` the die, `m` the Deck index. -/
  | commitDrain
  /-- `BACK_EDGE` (R136): In the cycle after every member reaches the edge, a declared loop level shifts its stage bits and rotates names and goes round, or retires. Input: `n` the hand, `m` the loop level. -/
  | backEdge
  /-- `LANE_RETIRE` (R221): A failed datapath residue check, or 16 corrections, retires a lane of an issue slot. Input: `n` the core, `m` the slot, `k` the lane. -/
  | laneRetire
  /-- `LANE_REBUILD` (R221): At the slot's next run boundary the spare lane takes the retired lane's place, and its storage is rebuilt through SECDED before the next grant. Input: `n` the core, `m` the slot. -/
  | laneRebuild
  /-- `PAGE_SERVICE` (R153): A Badger core finishes serving a page request, making the page valid so that parked accesses re-execute, or refusing it as PROT. Input: `half` the ASID, `value` the virtual address, `ok` whether it is refused, `value2` the new leaf entry. -/
  | pageService
  /-- `STORE_DRAIN` (R171): A store-buffer entry with no older entry for its word drains into the word's order at its home. Input: `n` the hand, `m` the lane, `k` the store-buffer entry. -/
  | storeDrain
  /-- `REL_APPLY` (R176): A release reaches its object's home after the issuer's older stores drain, and bumps the version and publishes the region view. Input: `n` the hand, `m` the result, `k` the lane. -/
  | relApply
  /-- `ACQ_APPLY` (R177): An acquire reaches its object's home and takes the latest version and published view. Input: `n` the hand, `m` the result, `k` the lane. -/
  | acqApply
  /-- `BIND_REGISTER` (R175): A binding request reaches its object's home and is registered, creating the publish entry if needed, or refused. Input: `n` the hand, `m` the result. -/
  | bindRegister
  /-- `ANNOUNCE_STEP` (R179): A step of an announcement record reaches its home and is accepted and applied, or rejected with the current progress. Input: `n` the hand, `m` the result, `k` the lane. -/
  | announceStep
  /-- `BAR_ARRIVAL` (R333): A barrier arrival is applied after the thread's store buffer drains, recording its view and completing the phase when the last member completes. Input: `n` the hand, `m` the result, `k` the lane. -/
  | barArrival
  /-- `RECORD_CANCEL` (R210): The cancel of a killed owner's record reaches its home and marks an unstarted record CANCELLED. Input: `n` the home (128 + device for a peer's), `m` the record, or the ticket at a peer's home. -/
  | recordCancel
  /-- `COPY_COMPLETE` (R369): A copy engine finishes a copy, landing its slot, adding to its barrier and writing the status word to the issuer. Input: `n` the copy, `m` the first failing line, or the number of lines, `picks` the choices it makes. -/
  | copyComplete
  /-- `WINDOW_FILL_END` (R159): A window's fill ends, making it PRESENT and completing the waiting loads, or ABSENT with ERR and poisoned loads. Input: `n` the cluster, `m` the window, `k` the first failing line, or the number of lines, `picks` the choices it makes. -/
  | windowFillEnd
  /-- `JOB_COMPLETE` (R374): A special-function or regroup engine finishes a queued job and records its status and count. Input: `n` the hand, `m` the queue, `picks` the choices it makes. -/
  | jobComplete
  /-- `GMMA_SLICE_DONE` (R361): A member's slice of a fired gang round is written on its core, and its DONE bit is set and its flags are ORed. Input: `n` the hand. -/
  | gmmaSliceDone
  /-- `ACDRAIN_ADD` (R364): A drained accumulator block reaches the target core and is added into its elements and check elements. Input: `n` the hand, `m` the result. -/
  | acdrainAdd
  /-- `TRAP_ENTRY` (R196): At the hand's next grant after a trap or user interrupt, trap mode is entered, the trap registers are written, and the handler starts. Input: `n` the core, `m` the slot. -/
  | trapEntry
  /-- `LOSS_OF_MODULE_POWER` (R15): Module power, VAUX included, is lost, and the Magpie record, the alarm level and the volatile key-encryption key held in VAUX SRAM are lost with it. -/
  | lossOfModulePower
  /-- `HOST_COMPLETION_TIME_OUT` (R55): A host-bound request reaches PCIe completion time-out and counts towards the 16 consecutive time-outs that declare the host lost. -/
  | hostCompletionTimeOut
  deriving DecidableEq, Repr, Inhabited

end Sys2Proof
end

