-- ==== Sys2Proof/Machine/Types.lean ====
section
/-!
DEFINITION. The parts of the machine's state, as plain data: registers and hands (spec/05, 08), the ordering
machine (07), announcement records (14), tiles and engines (15, 16), speculation (04), the scheduler (03), the front
end (02), links (01) and the management state (09).
-/
namespace Sys2Proof.Machine

/-! ## Registers -/

/-- A g register: 32 lane words, the format tag of R233 and the lane-poison mask (R114); and the lanes whose stored word is
uncorrectable, and those whose word a read corrects (R220). -/
structure GReg where
  value : List Word
  tag : BitVec 4
  poison : Lanes
  err : Lanes := 0
  soft : Lanes := 0
  deriving DecidableEq, Repr, Inhabited

/-- An h register: 64 bits, tag and poison mask (R114, R124); and whether a stored word of it is uncorrectable, or corrected by a
read (R220). -/
structure HReg where
  value : DWord
  tag : BitVec 4
  poison : Lanes
  err : Bool := false
  soft : Bool := false
  deriving DecidableEq, Repr, Inhabited

/-- Where a mapped g name lives: a physical register of the hand's core, or a spill slot (R126, R129, R204). -/
inductive Loc where
  | phys (i : Nat)
  | spill (j : Nat)
  deriving DecidableEq, Repr, Inhabited

/-- One mapping of a hand: `win` is `none` for the shared map of g0 to g15 and the depth of the window for g16 to
g62 (R130); `loc` is where the register lies, and `reg` what it holds. `fresh` marks a register allocated for a result
that is still outstanding: nothing has been written to it, and it reads as unmapped (R121, R125, R126). -/
structure MapEntry where
  win : Option Nat
  name : Nat
  loc : Loc
  reg : GReg
  fresh : Bool
  deriving DecidableEq, Repr, Inhabited

/-- A declared loop level (R134), with the order of its declaration (R139) and the address that follows the
instruction at END, fixed at declaration (R304). -/
structure Level where
  start : DWord
  end_ : DWord
  trip : Word
  pass : Word
  memb : Lanes
  edge : Lanes
  base : BitVec 6
  rsize : BitVec 4
  s : BitVec 3
  stg : BitVec 7
  depth : BitVec 5
  until_ : Bool
  uq : BitVec 4
  valid : Bool
  order : Nat
  nextEnd : DWord
  deriving DecidableEq, Repr, Inhabited

/-- The uniform file of a hand slot: h, k and c registers (R114). -/
structure Uniform where
  h : List HReg
  k : List (BitVec 16)
  c : List Word
  deriving DecidableEq, Repr, Inhabited

/-! ## The ordering machine -/

/-- A view: for each word, by its address, the oldest index the party may still read (R167). Ascending word
addresses, no index 0. -/
abbrev View := List (Nat × Nat)

/-- Where a party lies (R172): device, die, cluster, core and hand. External agents lie at no place. -/
structure Party where
  external : Bool
  die : Nat
  cluster : Nat
  core : Nat
  hand : Option Nat
  deriving DecidableEq, Repr, Inhabited

/-- A write in a word's order (R167, R171): the word's value after it, whether its data is uncorrectable (R412),
its message view, scope and writer. -/
structure WriteRec where
  value : DWord
  bad : Bool
  msg : View
  scope : BitVec 3
  writer : Party
  /-- Of an uncorrectable word: a copy that failed has marked it (R163). -/
  marked : Bool := false
  deriving DecidableEq, Repr, Inhabited

/-- A word's order (R167): its writes from index 0, the initial write, on. The last one is what memory holds. -/
structure WordOrder where
  word : Nat
  writes : List WriteRec
  deriving DecidableEq, Repr, Inhabited

/-- A store-buffer entry (R171): the word, its byte mask and data, for a release store (R174) its scope, and its place
in the thread's program order. -/
structure StoreEntry where
  word : Nat
  mask : BitVec 8
  data : DWord
  rel : Option (BitVec 3)
  seq : Nat
  /-- A `bbar.post` of the data, on the barrier at the word, with the places of its split's threads in their program orders (R165). -/
  post : Bool := false
  also : List (Nat × Nat) := []
  deriving DecidableEq, Repr, Inhabited

/-- A triple of a thread's pending set (R167, R170). -/
structure PendMsg where
  msg : View
  scope : BitVec 3
  writer : Party
  deriving DecidableEq, Repr, Inhabited

/-- What the ordering machine keeps for a thread (R167), with the number of the thread's next store. -/
structure ThreadMem where
  view : View
  fview : View
  fscope : BitVec 3
  pend : List PendMsg
  sb : List StoreEntry
  sbNext : Nat
  deriving DecidableEq, Repr, Inhabited

/-- A binding of a launch (R175), with its object and region as virtual addresses, and the object's location. -/
structure Binding where
  lid : Word
  obj : Nat
  base : DWord
  len : DWord
  deriving DecidableEq, Repr, Inhabited

/-- A publish entry of a sync object (R167, R175 to R177, R316). -/
structure Publish where
  obj : Nat
  ver : Word
  pub : View
  deriving DecidableEq, Repr, Inhabited

/-! ## Announcement records -/

/-- A record of a home (R317), with the record's view (R180). NEXT is not held: it is read off the object's list. -/
structure AnnRec where
  home : Nat
  idx : Nat
  state : BitVec 3
  prog : Nat
  op : Nat
  nsteps : Nat
  type : Nat
  nocell : Bool
  host : Bool
  flg : BitVec 5
  seq : Word
  obj : Nat
  opA : DWord
  opB : DWord
  res : DWord
  cell : DWord
  lid : Word
  hid : Nat
  lane : Nat
  part : Nat
  epoch : BitVec 8
  fdet : Word
  view : View
  /-- ASID of the owner's launch, the write of the delivery step, and whether the owner has been killed (R210). -/
  asid : BitVec 16
  delivered : View
  killed : Bool
  /-- The object's page is device-exclusive (R54); the peer device of an owner elsewhere (R23); a CELL for its delivery
  is outstanding, with the STEP to answer: port and message. -/
  dx : Bool
  dev : Option (BitVec 16)
  answer : Option (Nat × PeerMsg)
  /-- Of an `ann.mcas`: the last write of each word of its descriptor when the record was appended (R328). -/
  desc : View := []
  deriving DecidableEq, Repr, Inhabited

/-- The list of an object's live records at its home, oldest first (R318). -/
structure ObjList where
  obj : Nat
  recs : List Nat
  deriving DecidableEq, Repr, Inhabited

/-- What a thread remembers of its uncollected record (R232): the ticket, the object, an operation replayed from the log
(FAIL and RESULT, R215), the type and whether it is an `ann.mcas`, and for a record of a peer the latest answer: STATE,
PROG and RES (R23). -/
structure OwnRec where
  ticket : Nat
  obj : Nat
  va : DWord
  replay : Option (Bool × DWord)
  op : Nat
  type : Nat
  opA : DWord
  opB : DWord
  seq : Word
  answer : BitVec 3 × Nat × DWord
  /-- Of a record at a peer's home: its view (R180) and the view of its delivery write. -/
  view : View
  delivered : View
  deriving DecidableEq, Repr, Inhabited

/-! ## Asynchronous results -/

/-- A destination of a result (R119): a g name in a window (`none` for the shared map), a trap-window register, or an
h, q, k or c register. -/
inductive Dst where
  | g (win : Option Nat) (name : Nat)
  | trapG (name : Nat)
  | h (n : Nat)
  | q (n : Nat)
  | k (n : Nat)
  | c (n : Nat)
  deriving DecidableEq, Repr, Inhabited

/-- The value one lane receives in one destination: the word or double word, and whether it arrives
uncorrectable (R133, R412). -/
structure LaneVal where
  lane : Nat
  value : DWord
  bad : Bool
  /-- No data came: the lane takes tag POISON (R155, R159, R55). -/
  lost : Bool := false
  deriving DecidableEq, Repr, Inhabited

/-- A lane of a load: where its bytes lie, the stores of its thread that are older (R170), and the window whose fill
it waits for, or whose fill has failed (R159). -/
structure LoadLane where
  lane : Nat
  loc : Nat
  seq : Nat
  win : Option Nat
  failed : Bool
  /-- The views of the window fills that the load completes from (R159, R182). -/
  seen : View := []
  deriving DecidableEq, Repr, Inhabited

/-- Where a lane of an `ann`, `help`, `coll` or `bkt` stands (R325): before its append or its first step; about to send a
step of a record, which is its own step or a helping step; waiting for a peer's answer; waiting for the home, which has sent the
step's delivery to the owner's device (R23); or finished. -/
inductive AnnPhase where
  | start
  | send (ticket step : Nat) (own : Bool)
  /-- The lane waits for a peer's answer, to a helping step or to another message, or is to send its next one. -/
  | await (help : Bool)
  | peer
  | cell (ticket step : Nat) (own : Bool)
  | done
  deriving DecidableEq, Repr, Inhabited

/-- A lane of an `ann`, `help`, `coll` or `bkt` on its way (R325): the object, the stores of its thread that are older, the
operands, its own record, the steps sent, the tries of R376, the latest answer of a peer's home: STATE, PROG, RES, and whether
the delivery to its cell has met PAGE (R24). -/
structure AnnLane where
  lane : Nat
  obj : Nat
  va : DWord
  dx : Bool
  seq : Nat
  opA : DWord
  opB : DWord
  /-- The lane's result cell, from `rcell` at the issue; 0 for none (R319). -/
  cell : DWord
  own : Option Nat
  phase : AnnPhase
  sent : Nat
  tries : Nat
  answer : BitVec 3 × Nat × DWord
  paged : Bool
  /-- The view of the lane's record at a peer's home (R180). -/
  view : View
  /-- Of a finished lane: what its thread's uncollected record then was (R232). -/
  kept : Option OwnRec := none
  deriving DecidableEq, Repr, Inhabited

/-- What a re-execution keeps of a lane (R400): the address of the instruction, the lane's record, the step that
faulted, and for a lane that had finished the words it received, the second with its tag. -/
structure Redo where
  lane : Nat
  pc : DWord
  own : Option Nat
  ticket : Nat
  step : Nat
  view : View
  done : Option (DWord × Option (DWord × BitVec 4))
  deriving DecidableEq, Repr, Inhabited

/-- The engine thread of an operation of an engine (R181): the operation's hand, its view once it has started, and for each issuing
thread the place in its program order before which its stores are older. -/
structure Fork where
  hand : Nat
  view : View
  seqs : List (Nat × Nat)
  started : Bool
  deriving DecidableEq, Repr, Inhabited

/-- A write of an engine thread that has not drained (R181): a location and the bytes there. -/
abbrev Chunk := Nat × List (BitVec 8)

/-- How far an engine is with the lines of a copy or a fill (R157): the lines read, the writes that have not drained, and the result
with which it ended, when a line has failed. -/
structure Lines where
  read : Nat
  wait : List Chunk
  result : Option Nat
  deriving DecidableEq, Repr, Inhabited

/-- The kind of work behind an outstanding result, with the operands read at issue. -/
inductive Work where
  /-- The value is fixed and only has to return. -/
  | value
  /-- So is this one, of an instruction that acts outside the cluster (R216). -/
  | sent
  /-- An instruction of a twin that only its primary sends (R216): the primary's results for these lanes, each the lane's
  n-th. -/
  | twin (keys : List (Nat × Nat)) (kind : Option Nat) (lanes : List (Nat × Nat × DWord))
  /-- `ld`, `lds` (R170, R174, R310): size in bytes, load type and acquire scope. -/
  | load (size : Nat) (fmt : BitVec 4) (acq : BitVec 3) (lanes : List LoadLane)
  /-- `ld.inv` (R184). -/
  | inv (size : Nat) (fmt : BitVec 4) (lanes : List LoadLane)
  /-- `ldh`: one load by the split (R313), and whether its peer has failed to answer (R155). -/
  | loadH (loc : Nat) (fmt : BitVec 4) (seqs : List (Nat × Nat)) (failed : Bool)
  /-- `fence` of a scope (R173): the lanes with the number of their stores that are older. -/
  | fence (scope : BitVec 3) (lanes : List (Nat × Nat))
  /-- `acq` and `rel` on each lane's object, by lane (R176, R177). -/
  | acq (objs : List (Nat × Nat))
  | rel (objs : List (Nat × Nat × Nat))
  /-- `bind` of an entry (R316): object, region, and whether the entry is well formed. -/
  | bind (obj : Nat) (base len : DWord) (ok : Bool)
  /-- `ann` (kind 0), `help` (1), `coll` (2) and `bkt` (3) of each lane (R325, R376), with OP, TYPE and the address of the
  instruction. -/
  | ann (kind op type : Nat) (pc : DWord) (lanes : List AnnLane)
  /-- `bar.arv` on a group (R333): the lanes with the stores that are older. -/
  | barArv (group : Nat) (lanes : List (Nat × Nat))
  /-- A test of a group barrier (R334), with the phase that each lane compares with, or of a byte-counting barrier (R336), with its parity:
  applied when its result returns. -/
  | barTst (group : Nat) (olds : List (Nat × BitVec 16))
  | bbarTst (loc : Nat) (parity : Bool)
  /-- A copy of the cluster's engines (R369). -/
  | copy (id : Nat)
  /-- A `cbtake.full` waiting for a copy in flight (R163): the control block, the instruction's address, the `cbd` and the
  order of arrival. -/
  | cbTake (block : Nat) (pc cbd : DWord) (arrival : Nat)
  /-- A circular-buffer instruction whose block breaks R163: CBSTATE comes with the answer (R372), at the instruction's address with the
  `cbd`. -/
  | cbFault (pc cbd : DWord)
  /-- `xcnt.rd` and `xcnt.clr` (R377): the lanes that are still to act, each with its counter. -/
  | xcnt (clear : Bool) (lanes : List (Nat × Nat))
  /-- A `qget` waiting for the oldest job (R375). -/
  | qget (queue : Nat)
  /-- A `wbind` of a window (R370), with the image's location. -/
  | wbind (win loc : Nat) (fork : Fork)
  /-- A spawn entry on its way to a die's Deck (R100, R382), which leaves once the split's older stores have drained (R169), with the
  segment of its hand at issue. -/
  | spawn (deck : Nat) (entry : DWord) (args : List DWord) (token : Option Word) (pol : Bool) (own : BitVec 16) (pred : Bool)
      (pidx : Nat) (rng : Bool) (seqs : List (Nat × Nat)) (parent : Option (Nat × Nat × Word))
  /-- A `segq` of a Deck entry, read in issue order after the hand's earlier actions on the Deck (R379, R385). -/
  | segq (deck idx : Nat)
  /-- Tile work in a core's order (R353), named by its number. -/
  | tile (core id : Nat)
  deriving DecidableEq, Repr, Inhabited

/-- A destination of an outstanding result: the tag it writes, the values of the lanes performed so far, and the lanes
that a later write of the program has superseded (R121). -/
structure OutDst where
  dst : Dst
  tag : BitVec 4
  skip : Lanes
  vals : List LaneVal
  /-- The tags of later in-order writes of the register, by which the tag that a full write leaves goes on (R126, R132). -/
  later : List (BitVec 4) := []
  deriving DecidableEq, Repr, Inhabited

/-- A result that has not returned (R119 to R121): its threads, its work, its destinations, the lanes whose values have
been performed (`back`, seen by reads made before the park, R121), whether it has returned, the flags that the return
ORs into `hstat` (R242) and the views that it joins, by lane (R174, R182). -/
structure Outst where
  id : Nat
  lanes : Lanes
  work : Work
  dsts : List OutDst
  back : Lanes
  returned : Bool
  flags : BitVec 5
  joins : List (Nat × View)
  /-- In a paired launch, the number of this instruction among those that each lane has sent (R216), and the bytes that a copy
  brought into scratch. -/
  sent : List (Nat × Nat)
  data : List (BitVec 8)
  /-- The threads of the split that issued it, for each of which it is outstanding (R119), and the views that its threads join when
  they park at a switch marker that covers it (R182). -/
  split : Lanes := 0
  owed : List (Nat × View) := []
  deriving DecidableEq, Repr, Inhabited

/-- What a primary's result gives its twin (R216), by lane and number: the values of the destinations, flags, joined views, and
the bytes of a copy. -/
structure Forward where
  lane : Nat
  num : Nat
  vals : List (List LaneVal)
  flags : BitVec 5
  joins : List View
  data : List (BitVec 8)
  /-- Of an `ann` or a `coll`: the thread's uncollected record after it (R232). -/
  own : Option (Option OwnRec)
  deriving DecidableEq, Repr, Inhabited

/-! ## Traps -/

/-- A fault, `trap`, `brk` or user interrupt (R189, R200). -/
structure TrapInfo where
  code : BitVec 8
  kind : BitVec 2
  info : BitVec 16
  pc : DWord
  val : DWord
  mask : Lanes
  /-- The trapped split (R190). -/
  split : Lanes
  deriving DecidableEq, Repr, Inhabited

/-- The five trap registers (R200). -/
structure TrapRegs where
  xcause : DWord
  xpc : DWord
  xval : DWord
  xmask : DWord
  xvec : DWord
  deriving DecidableEq, Repr, Inhabited

/-- Work of the Squirrel that a parked split waits for: spilling a window or a register (R128), the victim registers of
a bank (R88), refilling a register (R129), or moving trap-window images (R199). -/
inductive SquirrelJob where
  | spillWindow (depth : Nat)
  | spillReg (win : Option Nat) (name : Nat)
  | spillBank (bank : Nat)
  | refill (win : Option Nat) (name : Nat)
  | trapMove (load : Bool)
  deriving DecidableEq, Repr, Inhabited

/-- Why threads of a hand stand parked. -/
inductive Park where
  /-- At a switch marker, until every outstanding result of the threads has returned (R120). -/
  | marker
  /-- As an engine wait for one result (R163, R372). -/
  | result (id : Nat)
  /-- A handler's instruction on tiles or accumulator rows in flight (R202): the work it waits for. -/
  | tile (id : Nat)
  /-- For a page that the home Badger core serves (R153, R189): the address, the lanes that met it, and for a step of an
  announcement the result that it belongs to. -/
  | page (asid : BitVec 16) (va : DWord) (mask : Lanes) (res : Option Nat)
  /-- For the Squirrel (R128, R129). -/
  | squirrel
  /-- At a `cbgive` (R372) or a resumed effect edge (R108), until the threads' older stores have drained. -/
  | stores
  /-- At an instruction before which paired twins compare their signatures (R217). -/
  | compare
  /-- At a `bind` whose entry a peer is asked for (R148, R316), by its location. -/
  | entry (loc : Nat)
  /-- With a trap that is taken after the one before it (log 94). -/
  | trap
  deriving DecidableEq, Repr, Inhabited

/-! ## Tiles -/

/-- A tile (R349, R351, R356): its shape register, its data bytes and scale planes, its check vector, and its uncorrectable
8-byte words (R354), counted from its base in the layout of R351: by what they were loaded from, or by an error in the tile file. Bytes past the end of `data` are 0, scales past the end of a plane 1.0, and check elements past the
end of `check` NaN. -/
structure Tile where
  tsh : DWord
  data : List (BitVec 8)
  micro : List (BitVec 8)
  band : List (BitVec 16)
  check : List Word
  bad : List Nat
  hit : List Nat
  deriving DecidableEq, Repr, Inhabited

/-- A hand's arrival in a gang round (R361): row0, col0, the two tiles with their captured shapes, and LEAD. -/
structure Arrival where
  row : Nat
  col : Nat
  a : Nat
  b : Nat
  shA : DWord
  shB : DWord
  lead : Nat
  fork : Fork
  deriving DecidableEq, Repr, Inhabited

/-- A member's slice of a fired round (R361): its core, base, B tile, the shapes, the leader's A tile once it has been
read and broadcast, and the beginnings of the round's engine thread, one for each member (R181). -/
structure Slice where
  core : Nat
  row : Nat
  col : Nat
  b : Nat
  shA : DWord
  shB : DWord
  a : Option Tile
  forks : List Fork
  deriving DecidableEq, Repr, Inhabited

/-! ## Hands -/

/-- Scheduling states of a hand (R85), with those of segment hands of R108. -/
inductive HandState where
  | unplaced | ready | running | parked | asleep | swapped | swappedAsleep | done | killed | halted
  deriving DecidableEq, Repr, Inhabited

/-- A job of a queue engine (R373 to R375): its queue, the location of its image, its core, the share allocations of its
issuer, its engine thread, and once finished its word, with flags and final view. -/
structure Job where
  queue : Nat
  loc : Nat
  core : Nat
  shares : List (Nat × Nat)
  fork : Fork
  finished : Option DWord
  flags : BitVec 5
  /-- Once it has run: its status word, and its writes that have not drained (R181). -/
  ran : Option DWord := none
  wait : List Chunk := []
  deriving DecidableEq, Repr, Inhabited

/-- A hand (R2): its place in its launch and on a core, its threads and its registers. -/
structure Hand where
  key : Nat
  lid : Word
  hid : Nat
  part : Nat
  asid : BitVec 16
  /-- Role code of R77, 0 for a plain hand (R70). -/
  kid : Nat
  /-- Entry address at which the hand starts. -/
  entry : DWord
  state : HandState
  /-- Core (0 to 1,023 over the device) and hand slot, when resident. -/
  core : Nat
  hslot : Nat
  quota : Nat
  spbase : DWord
  spsz : Nat
  /-- Group-table entries the hand belongs to (R71). -/
  groups : List Nat
  gangId : Option Nat
  /-- Per-thread program counters, depths and masks (R70, R115, R130, R195). -/
  pc : List DWord
  depth : List Nat
  exited : Lanes
  parks : List (Lanes × Park)
  trapMode : Lanes
  /-- The whole trapped split, and those of its threads held after `tret` (R195). -/
  trapSplit : Lanes
  heldTret : Lanes
  /-- The depths of the threads when the trap was taken, at which they continue (R198). -/
  trapDepth : List Nat := []
  q : List Lanes
  uni : Uniform
  lc : List Level
  map : List MapEntry
  squirrel : List SquirrelJob
  /-- The hand's trap-window image (R199). -/
  trapWin : List GReg
  trapRegs : TrapRegs
  pendTrap : Option TrapInfo
  /-- Traps raised with an answer while another one was pending or in its handler; their splits wait (R153, log 94). -/
  laterTraps : List TrapInfo := []
  pendInt : Option (BitVec 16 × DWord)
  /-- The pending interrupt was set during a grant of the hand, at which it is not taken (R201). -/
  intLate : Bool := false
  hstat : DWord
  rcell : DWord
  gang : DWord
  outst : List Outst
  /-- Views of engine results that have returned, which threads join at their next switch marker (R182). -/
  owed : List (Nat × View) := []
  nextId : Nat
  mem : List ThreadMem
  own : List (Option OwnRec)
  /-- Lanes whose `ann`, `help` or `coll` will be re-executed (R400). -/
  redo : List Redo
  /-- Poisoned lanes that an active lane has read, by the register's number: no discard when they are overwritten (R220). -/
  seen : List (Nat × Lanes)
  yields : Nat
  losses : Nat
  cls : Nat
  lastGrant : Option Nat
  /-- Key of a sleeping hand (R298). -/
  key64 : Option DWord
  /-- Segment of the hand (die, Deck index), for a hand dealt from the Deck (R104). -/
  seg : Option (Nat × Nat)
  /-- Its own range state, when it has one (R79, R80). -/
  range : Option Nat
  /-- h8 and h9 are still to be written at the first placement (R70); and no register has been allocated since the hand was placed
  (R88). -/
  fresh : Bool
  newcomer : Bool
  /-- Arrival in the current gang round, and slice of a fired one (R361). -/
  arrival : Option Arrival
  slice : Option Slice
  /-- The view of the last round's engine thread, which a read of DONE = 1 joins (R182). -/
  gangView : View := []
  /-- HALT at the end of the next run, and halted by the debugger (R203). -/
  stepHalt : Bool
  haltReq : Bool
  /-- Status of the context record (R204 to R206). -/
  ctxStatus : BitVec 2
  /-- In a paired launch (R216, R217): 1 for a primary, 2 for a twin, else 0; the running signature with the stores (lane and
  place) that it covers; signatures that wait for the other hand's; the instructions that each lane has sent; and a primary's
  results that its twin has not taken. -/
  pair : BitVec 2
  sig : DWord
  records : List (Nat × Nat)
  sigs : List (DWord × List (Nat × Nat))
  sends : List Nat
  fwd : List Forward
  /-- Threads whose compare point has been compared, and that have not executed its instruction yet. -/
  passed : Lanes := 0
  /-- What its names held when the hand became DONE (R402). -/
  last : List MapEntry := []
  deriving DecidableEq, Repr, Inhabited

/-- A retained record block of a hand (R211, R212), with the replay bounds of R213. -/
structure Retained where
  lid : Word
  hid : Nat
  nextSeq : List Word
  epoch : BitVec 8
  reln : BitVec 8
  chv : Bool
  rlo : DWord
  rhi : DWord
  /-- The last chunk is returned again by the first `rng` after a relaunch (R214). -/
  rngAgain : Bool
  bound : List Word
  /-- Log entries: lane, entry, SEQ, FAIL, RESULT. -/
  log : List (Nat × Nat × Word × Bool × DWord)
  /-- The partition, and the number of the block in its pool. -/
  part : Nat
  block : Option Nat
  deriving DecidableEq, Repr, Inhabited

/-! ## Cores -/

/-- A physical register in use (R114, R126, R128), marked as a hand's. -/
structure PReg where
  idx : Nat
  owner : Nat
  deriving DecidableEq, Repr, Inhabited

/-- The candidate of the second fetch port in the current cycle (R115): its PC, lanes and the uniform file as the
cycle found it (R118). -/
structure Second where
  pc : DWord
  lanes : Lanes
  uni : Uniform
  deriving DecidableEq, Repr, Inhabited

/-- What the end of a run makes of its hand (R85): as its splits stand, after a `yield`, or asleep. -/
inductive RunEnd where
  | plain | yielded | asleep
  deriving DecidableEq, Repr, Inhabited

/-- An issue slot (R81, R82, R115, R117, R199, R221). -/
structure Slot where
  /-- The hand that holds the slot, and the instructions its run has issued. -/
  hand : Option Nat
  count : Nat
  second : Option Second
  /-- The run ends once the current cycle is complete, and how (R81, R85). -/
  ending : Bool
  fate : RunEnd
  /-- The hand whose image the trap window holds (R199). -/
  winOwner : Option Nat
  /-- The lane whose place the spare has taken, and whether its words are still to be written to the spare's storage
  (R221). -/
  retired : Option Nat
  rebuild : Bool
  /-- Corrections in each lane's register storage since the last reset (R221). -/
  corrections : List Nat
  deriving DecidableEq, Repr, Inhabited

/-- What a class-5 instruction does when it completes (R350, R353 to R365): the tiles by number, the base row and column, the
rows of A that it reads, a block's rows and columns, the location of a range, or of the 64-byte lines from the one that
holds the first byte on, with that byte's place in it. -/
inductive TileOp where
  | cfg (t : Nat)
  | bcast (t : Nat) (keys : List Nat)
  | load (t loc : Nat) (failed : Bool)
  | store (t loc : Nat)
  | mma (row col ta tb : Nat) (rows : List Nat)
  | acz (row col nr nc : Nat)
  | acld (row col nr nc loc : Nat)
  | acst (row col nr nc : Nat) (lines : List Nat) (off : Nat)
  | drain (row col nr nc core trow tcol : Nat)
  | sums (row col : Nat) (vals : List (List Word))
  | slice (row col b rows : Nat)
  | epi (row col nr nc : Nat) (lines : List Nat) (off : Nat) (scale : Word) (act : Nat) (bias : Option Nat) (fmt : BitVec 4)
      (rnd : Nat) (sat : Bool)
  deriving DecidableEq, Repr, Inhabited

/-- Tile work that has issued and not completed, in issue order (R353): its number and PC, what it does, the shapes captured
at issue (R349), and its engine thread (R181). -/
structure TileWork where
  id : Nat
  pc : DWord
  op : TileOp
  shA : DWord
  shB : DWord
  fork : Fork
  /-- Once it has been done: its flags, and its writes that have not drained (R181). -/
  ran : Option (BitVec 5) := none
  wait : List Chunk := []
  /-- The views of the window fills that a `tld` completes from (R159, R182). -/
  seen : View := []
  deriving DecidableEq, Repr, Inhabited

/-- A core (R114, R143, R144, R162). -/
structure Core where
  pool : List PReg
  slots : List Slot
  /-- Hand slots 0 to 15: the resident hands' keys. Those that a swap has freed and no newcomer has taken, oldest first (R88). -/
  hands : List (Option Nat)
  vacant : List Nat
  tiles : List Tile
  /-- Accumulator rows that are not all +0: row and its 256 elements. -/
  acc : List (Nat × List Word)
  /-- Check elements that are not +0 (R218). -/
  chk : List (Nat × Word)
  /-- Accumulator elements whose word is uncorrectable (R354): row and column. -/
  accBad : List (Nat × Nat)
  cbd : List DWord
  work : List TileWork
  cyc : DWord
  forced : Nat
  grants : Nat
  /-- Share allocations on this scratchpad (R72): launch, group (or instance), offset, size. -/
  allocs : List (Word × Nat × Nat × Nat)
  deriving DecidableEq, Repr, Inhabited

/-! ## Clusters -/

/-- A bound window of a cluster's region table (R158). -/
structure Window where
  idx : Nat
  saddr : Nat
  slen : Nat
  expert : Nat
  noexp : Bool
  state : BitVec 2
  err : Bool
  handle : Word
  stride : Nat
  offset : DWord
  rowl : Nat
  rows : Nat
  tier : BitVec 2
  /-- Partition whose handle table and counters it uses, and the number and engine thread of its latest fill (R181), whose
  view a PRESENT window's loads join (R182). -/
  part : Nat
  fill : Nat
  fork : Fork
  prog : Lines
  deriving DecidableEq, Repr, Inhabited

/-- A copy in an engine (R368, R369): its core, the result of its issuer, the handle with the partition whose table holds
it, the offset and the lines; its scratch end; for a circular buffer the control block, and the claimed slot; the
barrier; whether the engine has started it, and the result with which it ended early. -/
structure Copy where
  id : Nat
  core : Nat
  outId : Nat
  part : Nat
  handle : Word
  off : Nat
  lines : Nat
  out : Bool
  scratch : Nat
  block : Option Nat
  slot : Option Nat
  barrier : Option Nat
  fork : Fork
  started : Bool
  early : Option Nat
  discarded : Bool
  prog : Lines
  deriving DecidableEq, Repr, Inhabited

/-- A slot of a circular buffer that has been filled, and the view that a `cbtake.full` of it joins (R182). -/
structure SlotView where
  block : Nat
  slot : Nat
  view : View
  deriving DecidableEq, Repr, Inhabited

/-- A cluster: its windows (R158). -/
structure Cluster where
  windows : List Window
  deriving DecidableEq, Repr, Inhabited

/-! ## Speculation -/

/-- A token entry (R93, R94): 0 free, 1 OPEN, 2 TRUE, 3 FALSE. -/
structure Token where
  idx : Nat
  state : BitVec 2
  gen : BitVec 18
  lid : Word
  deriving DecidableEq, Repr, Inhabited

/-- A Deck entry (R101), with the context of a segment at an effect edge, its region and its view. -/
structure Seg where
  idx : Nat
  state : BitVec 3
  pol : Bool
  pred : Bool
  range : Bool
  depth : Nat
  own : BitVec 16
  cum : BitVec 16
  token : Word
  /-- Parent: die, index and the SEQ recorded at spawn (R102). -/
  parent : Option (Nat × Nat × Word)
  pidx : Nat
  entry : DWord
  seq : Word
  lid : Word
  args : List DWord
  view : View
  hand : Option Nat
  /-- Region: stores in append order with their lane (R106), the number that have drained, and whether the commit
  has begun and neither this region nor an ancestor's has drained yet (R110). -/
  region : List (Nat × StoreEntry)
  hasRegion : Bool
  drained : Nat
  draining : Bool
  /-- The ancestors with regions at the spawn: die, index, SEQ, and the number of stores issued before (R106). -/
  before : List (Nat × Nat × Word × Nat)
  deriving DecidableEq, Repr, Inhabited

/-- A resolution on its way to a die's Deck (R96), with the hand that issued it and the number of its next result, which
orders it among the hand's spawns (R379). -/
structure Resolution where
  die : Nat
  token : Word
  outcome : Bool
  hand : Nat
  order : Nat
  deriving DecidableEq, Repr, Inhabited

/-- A range state (R79), with the ENTRY and ARGS of its task's hands (R80). -/
structure RangeState where
  id : Nat
  lid : Word
  cur : DWord
  hi : DWord
  grain : Word
  seq : Word
  entry : DWord
  args : List DWord
  deriving DecidableEq, Repr, Inhabited

/-! ## Launches and groups -/

/-- A group-table entry of a launch (R71), with its barrier state (R333, R334). -/
structure Group where
  kind : BitVec 2
  ssize : Nat
  mlist : DWord
  members : List Nat
  phase : BitVec 16
  /-- Arrived lanes of each member hand, by hid. -/
  arrived : List (Nat × Lanes)
  /-- Views recorded in each phase (R334, R188). -/
  views : List (BitVec 16 × View)
  failed : Nat
  deriving DecidableEq, Repr, Inhabited

/-- The pipeline table of a launch (R76, R77): its counts, the entries of layers and helpers, and the pipe objects. -/
structure Pipe where
  nl : Nat
  nc : Nat
  ns : Nat
  lentry : DWord
  sentry : DWord
  pipes : List DWord
  deriving DecidableEq, Repr, Inhabited

/-- A reported item of a launch (R92): hid, FAIL, CODE and PC. -/
structure Report where
  hid : Nat
  fail : Bool
  code : BitVec 8
  pc : DWord
  deriving DecidableEq, Repr, Inhabited

/-- A launch as accepted (R68, R70, R78, R92). -/
structure Launch where
  lid : Word
  part : Nat
  asid : BitVec 16
  /-- Queue: function and index. -/
  queue : Nat × Nat
  die : Nat
  entry : DWord
  nhand : Nat
  range : Bool
  pair : Bool
  quota : Nat
  owlb : Nat
  spsz : Nat
  spbase : DWord
  args : List DWord
  lo : DWord
  hi : DWord
  grain : Word
  kmin : BitVec 16
  xhand : Nat
  items : DWord
  signal : DWord
  groups : List Group
  /-- Pipeline: NL, NC, NS, LENTRY, SENTRY and the pipes (R76, R77). -/
  pipe : Option Pipe
  nextHid : Nat
  rangeId : Option Nat
  /-- Reported items: hid, FAIL, CODE, PC (R92). -/
  reports : List Report
  /-- Graph node it runs for: die and index. -/
  node : Option (Nat × Nat)
  /-- The view its hands start with (R169), and the words' indexes at acceptance (R184). -/
  view : View
  itemLost : Bool
  /-- For the twins of a paired launch, which the model keeps as a launch of its own (log 66): the launch they belong to. -/
  twinOf : Option Word
  /-- A partition reset has freed its group-table entries, and its item records are still to be written (R407). -/
  freed : Bool := false
  /-- Groups that its descriptor names; the gangs of a pipeline's instances stand after them in `groups` (R68, R78). -/
  ngrp : Nat := 0
  /-- Its descriptor as it was read (R68). -/
  desc : Nat := 0
  deriving DecidableEq, Repr, Inhabited

/-! ## Front end -/

/-- Owl states (R90). -/
inductive OwlState where
  | idle | counting | draining
  deriving DecidableEq, Repr, Inhabited

/-- A position of a queue in its stream (R31, R39): RPTR, and the word index in each indirect buffer that is open, outermost
first. -/
structure Pos where
  rptr : Word
  ib : List Word
  deriving DecidableEq, Repr, Inhabited

/-- A packet that has been parsed and has not completed (R37): a launch, a graph by its number, or the checkpoint. -/
inductive Flight where
  | launch (lid : Word)
  | graph (id : Nat)
  | ckpt
  deriving DecidableEq, Repr, Inhabited

/-- Who reads memory for the front end and the firmware: the parse of a queue, the start of a graph's node, the adds to signal words, the
item records of nodes, and the finaliser of a function. -/
inductive Reader where
  | queue (fn idx : Nat)
  | node (die idx : Nat)
  | adds
  | items
  | finaliser (fn : Nat)
  deriving DecidableEq, Repr, Inhabited

/-- A read of the front end that lies in a peer (R155): its reader, the location, the time at which it was sent, whether an add to the
word follows it, and whether the data came, once the peer has answered or will not. -/
structure FrontRead where
  who : Reader
  loc : Nat
  sent : Nat
  add : Bool
  got : Option Bool
  deriving DecidableEq, Repr, Inhabited

/-- Why a queue keeps its slot at a packet: a word that is read again (R40) or that a peer has not sent yet (R155), or completions that
have not occurred (R410). -/
inductive Hold where
  | none | reread | completions
  deriving DecidableEq, Repr, Inhabited

/-- What a WAITING queue waits for: a wake on a key (R40), a page (R40, R47, R411), or completions (R410). -/
inductive Await where
  | none
  | wake (key : DWord)
  | page (asid : BitVec 16) (page : Nat)
  | completions
  deriving DecidableEq, Repr, Inhabited

/-- What the front end keeps of a queue beside its descriptor in memory (R31 to R40, R90, R410): the fields set at creation,
the slot, the packets parsed since its grant, the position in indirect buffers while it holds the slot, its Owl, the packets
that have not completed, and the join of the views of its completed launches (R37). -/
structure Queue where
  fn : Nat
  idx : Nat
  desc : Nat
  base : DWord
  logsz : Nat
  prio : Nat
  part : Nat
  die : Nat
  asid : BitVec 16
  stalled : Bool
  slot : Option Nat
  lastGrant : Option Nat
  parsed : Nat
  ib : List Word
  hold : Hold
  await : Await
  owl : OwlState
  owlCount : Nat
  inFlight : List (Flight × Pos)
  stores : View
  /-- Its STATE before the expiry of an Owl made it DRAINING, until the reset of its partition (R91). -/
  paused : Option Nat := none
  deriving DecidableEq, Repr, Inhabited

/-- An add to a signal word that waits for the word's page (R411), or for a peer that holds the word (R155): the queue, the address, and
whether it sets bit 63. -/
structure HeldAdd where
  queue : Nat × Nat
  asid : BitVec 16
  va : DWord
  fail : Bool
  view : View
  peer : Bool := false
  deriving DecidableEq, Repr, Inhabited

/-- The item record of a launch-node whose launch is never started, which waits for a page (R43, R92) or for a peer (R155): the graph's
die and ASID, the node's launch descriptor, and the CODE and PC of the record. -/
structure HeldItem where
  die : Nat
  asid : BitVec 16
  desc : DWord
  code : BitVec 8
  pc : DWord
  peer : Bool := false
  deriving DecidableEq, Repr, Inhabited

/-- An entry of the wait-and-wake table (R50). -/
structure WakeEntry where
  asid : BitVec 16
  key : DWord
  hands : List Nat
  queues : List (Nat × Nat)
  line : Option DWord
  deriving DecidableEq, Repr, Inhabited

/-- A node of a die's launch-node table (R41). -/
structure Node where
  idx : Nat
  desc : DWord
  npred : BitVec 16
  cpred : BitVec 16
  succ : BitVec 16
  nsucc : BitVec 8
  nstate : BitVec 3
  ta : BitVec 16
  tb : BitVec 16
  tw : BitVec 8
  prod : BitVec 16
  donemap : BitVec 256
  /-- Groups of the launch that have failed (R45), the number of its groups once it has started, and its launch. -/
  failmap : BitVec 256
  ngrp : Option Nat
  lid : Option Word
  deriving DecidableEq, Repr, Inhabited

/-- A running GRAPH packet (R42 to R45): its number, its nodes, and the packet, whose parsing is open while nodes that may
start have not been accepted (R34). -/
structure Graph where
  id : Nat
  die : Nat
  first : Nat
  count : Nat
  mode : Bool
  signal : DWord
  asid : BitVec 16
  queue : Nat × Nat
  pos : Pos
  parsing : Bool
  /-- A partition reset has ended it: its signal add sets bit 63 (R406). -/
  reset : Bool := false
  deriving DecidableEq, Repr, Inhabited

/-- A command processor (R46): x1 to x31, pc, privilege mode (3 machine), the machine-mode trap registers of the
RISC-V privileged architecture, the instruction word at its fetch port, and the front-end slot its firmware serves. -/
structure Cp where
  x : List DWord
  pc : DWord
  mode : BitVec 2
  mepc : DWord
  mcause : DWord
  mtval : DWord
  mtvec : DWord
  mstatus : DWord
  word : Word
  slot : Nat
  deriving DecidableEq, Repr, Inhabited

/-- A die (R1, R14, R34, R41, R93, R101, R112, R224). -/
structure Die where
  duty : Nat
  fslots : List (Option (Nat × Nat))
  fgrants : Nat
  nodes : List Node
  succ : List (Nat × BitVec 16)
  tokens : List Token
  deck : List Seg
  nextSeq : Word
  predictor : List (Nat × BitVec 8 × BitVec 8)
  /-- Magpie: records with sequence, unit, code and detail, newest last, and the next sequence number. -/
  magpie : List (Word × Nat × BitVec 8 × List Nat)
  magSeq : Word
  eol : Nat
  /-- Stores to peers that have been discarded (R155). -/
  peerDrops : Nat := 0
  deriving DecidableEq, Repr, Inhabited

/-! ## Memory-side and links -/

/-- A translation held by a TLB (R150): the TLB, ASID, page base, level of the leaf, and the leaf entry. TLBs are numbered: a core's
by the core, a cluster's 1024 + cluster, a die's 2048 + die. -/
structure TlbEntry where
  site : Nat
  asid : BitVec 16
  va : Nat
  level : Nat
  leaf : DWord
  deriving DecidableEq, Repr, Inhabited

/-- An outstanding page service request (R153): its ASID and 64 KiB page, its Badger core, the address of the
table entry, whether the front end waits for it, and the party whose request it is (R49): a core, 1024 + a die's front end, or
2048 + a port. -/
structure PageReq where
  asid : BitVec 16
  page : Nat
  home : Nat
  entry : Nat
  front : Bool
  sender : Nat
  deriving DecidableEq, Repr, Inhabited

/-- A message of a peer that waits for a page (R24): its port, and whether it is a STEP, or else a CELL. -/
structure CellWait where
  asid : BitVec 16
  page : Nat
  port : Nat
  step : Bool
  msg : PeerMsg
  deriving DecidableEq, Repr, Inhabited

/-- An error bank (R222). -/
structure Bank where
  valid : Bool
  ue : Bool
  ovf : Bool
  disc : Bool
  unit : BitVec 4
  synd : BitVec 8
  cecnt : Word
  loc : DWord
  deriving DecidableEq, Repr, Inhabited

/-- A peer port (R20 to R24): whether it is up, its sequences, the flits kept for replay, and its credit. -/
structure Port where
  up : Bool
  seqTx : BitVec 24
  seqRx : BitVec 24
  retained : List (BitVec 24 × BitVec 8 × PeerMsg)
  /-- Sequenced flits that wait for credit (R24), oldest first. -/
  waiting : List (BitVec 8 × PeerMsg)
  credit : Nat
  replayFails : Nat
  badKind : Nat
  /-- Sequenced flits accepted since the last ACK, and link-control flits sent: kind and argument. -/
  sinceAck : Nat
  control : List (BitVec 8 × BitVec 24)
  /-- Sequenced flits put on the wire, oldest first, replayed ones again: sequence, kind, message. -/
  wire : List (BitVec 24 × BitVec 8 × PeerMsg)
  deriving DecidableEq, Repr, Inhabited

/-- What the response of an outstanding request completes: a lane of a load (hand, result, lane), a step of an
announcement of a lane (hand, result, lane), a publish or bind message (hand, result, lane), a line of a copy or fill (its number, line), a delivery write for a record
of a home (home, record), the word that a hand's `yieldw` compares (hand, key, the value compared with),
the bind-table entry of a hand's `bind` (hand, location), or nothing (a store). -/
inductive PeerUse where
  | load (hand id lane : Nat)
  | step (hand id lane : Nat)
  | object (hand id lane : Nat)
  | table (queue : Nat × Nat) (desc : DWord) (obj : Nat) (base : DWord)
  | cancel (lid : Word) (hid lane : Nat) (seq : Word)
  | line (engine line : Nat)
  | out (engine line : Nat)
  | cell (home idx : Nat)
  | watch (hand : Nat) (key cmp : DWord)
  | entry (hand loc : Nat)
  | front (who : Reader) (loc sent : Nat)
  | none
  deriving DecidableEq, Repr, Inhabited

/-- A record of a killed owner at a peer's home that is to be cancelled (R210): its object, ticket, owner and sequence. -/
structure PeerCancel where
  obj : Nat
  ticket : Nat
  lid : Word
  hid : Nat
  lane : Nat
  seq : Word
  deriving DecidableEq, Repr, Inhabited

/-- A bind-table entry of a launch being dispatched whose object lies in a peer: the queue, the descriptor, the object and its region, and
the home's answer once there is one, true when it is registered (R175). -/
structure TableBind where
  queue : Nat × Nat
  desc : DWord
  obj : Nat
  base : DWord
  len : DWord
  answer : Option Bool
  deriving DecidableEq, Repr, Inhabited

/-- An outstanding request to a peer (R24): the peer, the requesting die, the TAG, the kind, the message, and what its
response completes. -/
structure PeerReq where
  dev : BitVec 16
  die : Nat
  tag : BitVec 16
  kind : BitVec 8
  msg : PeerMsg
  use : PeerUse
  deriving DecidableEq, Repr, Inhabited

/-- Whose view takes a parked write's index when it reaches its home: a thread's, by hand and lane, or a queue's. -/
inductive Owner where
  | thread (hand lane : Nat)
  | queue (fn idx : Nat)
  | none
  deriving DecidableEq, Repr, Inhabited

/-- A parked device-to-host write (R55): word, mask and data, with the message, scope and writer that it was drained with. -/
structure Parked where
  word : Nat
  mask : BitVec 8
  data : DWord
  msg : View
  scope : BitVec 3
  writer : Party
  owner : Owner := .none
  deriving DecidableEq, Repr, Inhabited

/-- A write of masked bytes of a 64-byte block by the host, and whether the host's release orders it after its earlier ones (R185). -/
structure HostWrite where
  addr : DWord
  mask : BitVec 64
  data : BitVec 512
  rel : Bool
  deriving DecidableEq, Repr, Inhabited

/-- Host loss and the park buffer (R55 to R57). -/
structure HostLink where
  rate : Nat
  width : Nat
  up : Bool
  lost : Bool
  timeouts : Nat
  /-- Parked device-to-host writes, in issue order. -/
  parked : List Parked
  dropped : Nat
  choice : Option Bool
  /-- Host writes held during a checkpoint (R57). -/
  heldWrites : List HostWrite
  deriving DecidableEq, Repr, Inhabited

/-- A partition configuration block (R63). -/
structure PartCfg where
  clusters : Word
  en : Bool
  dbg : Bool
  specsz : BitVec 6
  specreg : BitVec 3
  barb : BitVec 6
  cdt : DWord
  htab : DWord
  rlrbase : DWord
  rlrblk : Word
  /-- The words of the block in which a "zero" field is not 0 (R63 FIELD). -/
  dirty : BitVec 32
  deriving DecidableEq, Repr, Inhabited

/-- A partition: its block as applied and as staged, STATUS, the head whose back-fills are counted, the count and RESERVE
(R75), counters (R161). -/
structure Part where
  cfg : PartCfg
  staged : PartCfg
  status : BitVec 3
  head : Option (Word × Nat)
  back : Nat
  reserve : Bool
  xcnt : List (Nat × Word)
  quiesced : Bool
  deriving DecidableEq, Repr, Inhabited

/-- A mailbox of a function (R66). -/
structure Mailbox where
  cmd : BitVec 8
  busy : Bool
  status : BitVec 16
  args : List DWord
  res : List DWord
  deriving DecidableEq, Repr, Inhabited

/-- The host wait registration of a function (R67). -/
structure HostWait where
  key : DWord
  asid : BitVec 16
  line : DWord
  withdraw : Bool
  status : BitVec 3
  deriving DecidableEq, Repr, Inhabited

/-- A PCIe function's registers (R62, R64, R66, R67). -/
structure Func where
  bind : BitVec 8
  fin : Mailbox
  wait : HostWait
  msix : Nat
  deriving DecidableEq, Repr, Inhabited

/-- The translation registers (R65). -/
structure Trans where
  en : Bool
  tbase : DWord
  iva : DWord
  ictl : DWord
  done : Bool
  deriving DecidableEq, Repr, Inhabited

/-- Security, firmware and management state (R28, R56, R60, R225 to R229): the alarm level, glitches and failed unlocks since the
cold start; of images 1 to 4 of R229 the security version, the fuse value and a number that names the content; the staged
updates: image, version and content; what was measured last, by content, for indexes 1 to 5; the last answer to GET_MEASUREMENTS;
the key-encryption key; the stage of bring-up that has completed, a PERST# held during it, whether the module is held in reset; the
SPDM session and the PLDM events. -/
structure Mgmt where
  alarm : BitVec 2
  glitches : Nat
  unlockFails : Nat
  versions : List Nat
  fuses : List Nat
  images : List Nat
  staged : List (Nat × Nat × Nat)
  measured : List Nat
  reply : List (List (BitVec 8))
  kekGen : Word
  kekPresent : Bool
  flashKek : Bool
  bringup : Nat
  perstHeld : Bool
  heldReset : Bool
  spdm : Bool
  pldmEvents : Nat
  deriving DecidableEq, Repr, Inhabited

/-- A PLDM sensor (R16): its latest sample, in °C, mV, mA or mL/min, and its own sampling count. -/
structure Sensor where
  value : Nat
  samples : Nat
  deriving DecidableEq, Repr, Inhabited

/-- A reset that is pending (R30), from the widest that may be to the narrowest: warm, of a function (0 the physical one), of a
partition with the code of its items and FCODE. -/
inductive ResetReq where
  | warm
  | function (f : Nat)
  | partition (p die : Nat) (code : BitVec 8) (fcode : Nat)
  deriving DecidableEq, Repr, Inhabited

/-- The choice that a die has made for its traffic to a 64-byte line of the die diagonal to it (R11): the die, the line, and the
die in between. -/
structure Route where
  die : Nat
  line : Nat
  via : Nat
  deriving DecidableEq, Repr, Inhabited

/-- A running checkpoint or restore (R57, R61). -/
structure Ckpt where
  restore : Bool
  full : Bool
  parts : BitVec 16
  offset : DWord
  signal : DWord
  asid : BitVec 16
  queue : Nat × Nat
  deriving DecidableEq, Repr, Inhabited

/-- What a checkpoint has saved (R59, R60): where it lies in the vault, its header, its data key pair and the bytes of its state
section; the memory of its ranges and scratchpads; and what the state section stands for: partition configuration blocks, hands, launches,
queues, retained blocks, Deck entries, tokens and range states, records, publish entries and bindings, wait-and-wake entries,
cores, windows and use counters. -/
structure Snapshot where
  offset : Nat
  header : List (BitVec 8)
  key : List (BitVec 8)
  stateBytes : List (BitVec 8)
  parts : BitVec 16
  cfgs : List (Nat × PartCfg)
  ranges : List (Nat × Nat)
  mem : List Host.Cell
  hands : List Hand
  launches : List Launch
  queues : List (Queue × List (BitVec 8))
  retained : List Retained
  deck : List (Nat × Seg)
  tokens : List (Nat × Token)
  rangeStates : List RangeState
  recs : List AnnRec
  lists : List ObjList
  pubs : List Publish
  binds : List Binding
  wake : List WakeEntry
  cores : List (Nat × Core)
  clusters : List (Nat × Cluster)
  xcnt : List (Nat × List (Nat × Word))
  deriving DecidableEq, Repr, Inhabited

/-! ## Turns and the issue being executed -/

/-- Whose step comes next: a step of the table with its input, a flit that arrives at a peer port, a read or write of
a function's BAR by system software, an acquiring read of a word by the host, a part of an engine's work (kind 0 of copy `n`, 1 of line `m`
of fill `n`, 2 of tile work `m` of core `n`, 3 of a queue engine's job; kind 4: an output row of tile work arrives as the bytes in `picks`,
R219), a bit error in a stored register word of a hand
(uncorrectable, or one that reads correct), a word of device memory or scratch, of a tile or of an accumulator row (tile 16) whose stored
data has become uncorrectable, an error that a unit of a slice or cluster has corrected (R222), an issue slot of a core, a command processor's instruction, or the next
packet of a front-end slot. -/
inductive Turn where
  | event (i : Instr) (x : StepArgs)
  | flit (port : Nat) (bytes : List (BitVec 8))
  | barRead (fn off : Nat)
  | barWrite (fn off : Nat) (value : DWord)
  | hostRead (loc : Nat)
  | engine (kind n m : Nat) (pick : Option Nat) (picks : List Nat)
  | upset (hand : Nat) (d : Dst) (lane : Nat) (hard : Bool)
  | badWord (loc : Nat)
  | badTile (core tile row col : Nat)
  | corrected (slice : Bool) (n : Nat) (unit : BitVec 4) (loc : DWord)
  | issue (core slot : Nat)
  | cp (n : Nat)
  | packet (die slot : Nat)
  deriving DecidableEq, Repr, Inhabited

/-- The issue being executed (R115, R118): the issue slot of a core, its hand, the split's PC and threads, the address
that follows the instruction, the uniform file as the cycle found it, word 0, and whether it issues from the second
fetch port. -/
structure SplitIssue where
  core : Nat
  slot : Nat
  hand : Nat
  pc : DWord
  next : DWord
  lanes : Lanes
  uni : Uniform
  word0 : Word
  second : Bool
  deriving DecidableEq, Repr, Inhabited

/-- The party whose instruction is being executed: a split, a command processor, or a die's front end with a packet. -/
inductive Issuer where
  | split (i : SplitIssue)
  | cp (n : Nat)
  | front (die : Nat)
  deriving DecidableEq, Repr, Inhabited

end Sys2Proof.Machine
end

