-- ==== Sys2Proof/Config.lean ====
section
/-!
DEFINITION. What an implementation fixes and the free values of the model: opaque constants, of which nothing can be
proved but their type.
-/
namespace Sys2Proof.Config

open Sys2Proof.Machine

/-- The step that comes next when the agenda is empty: the spec leaves the order of the steps open (R8, R186). -/
opaque nextTurn : Nat → Turn

/-- A free 64-bit value, fresh for each value of the state's counter. -/
opaque freeDWord : Nat → DWord

/-- A free 32-bit value, fresh for each value of the state's counter. -/
opaque freeWord : Nat → Word

/-- Which write of a word that is being rewritten a fetch of an instruction takes (R122), or a step of an `ann.mcas` from its descriptor
(R328), by the step and the address. -/
opaque fetchPick : Nat → DWord → Nat

/-- Front-end cycles of a die that pass before the step of a number (R9 gives each unit a count of its own). -/
opaque cycles : Nat → Nat → Nat

/-- The intermediate die that a die chooses for a line of the die diagonal to it: the lower-numbered of the two, or the other (R11). -/
opaque viaPick : Nat → Bool

/-- The samples that a PLDM sensor takes before the step of a number, and what its n-th sample reads (R16). -/
opaque sampled : Nat → Nat → Nat
opaque reading : Nat → Nat → Nat

/-- A free byte string: the SHA-256 measurement of index `n` (R229) of a configuration numbered `k`, the bytes of a
signature, and the digests of a checkpoint (R58). -/
opaque digest : Nat → Nat → List (BitVec 8)

/-- The signature of measurements (R229): key material of the device, of which the spec gives no value. -/
opaque signature : List (List (BitVec 8)) → List (BitVec 8)

/-- The device at the far end of each peer port (R19 gives the ports; the cabling is the installation's). -/
opaque peerOf : Nat → BitVec 16

/-- Bytes of checkpoint `n` (R59, R60): its data key pair, from the random source (kind 1); the chunk of a KIND whose encoding is fixed by
VER and not given, with 16 times that number as kind; and of an output range that the finaliser leaves undefined (3, R274). The lengths
of those chunks. -/
opaque ckptByte : Nat → Nat → Nat → BitVec 8
opaque ckptUnits : Nat → Nat → Nat

/-- The key-encryption key of a generation (R60), which the device's random source has given. -/
opaque kek : Nat → Nat → BitVec 8

/-- What the finaliser chooses within R273, as a function of its firmware image and the module's bytes: which of the registers that a name
may have it takes, and where it sets SW and RB. -/
opaque finaliserPick : Nat → List (BitVec 8) → Nat → Nat
opaque finaliserMark : Nat → List (BitVec 8) → Nat → Bool

/-- The native code and the entry offsets of a module for whose names no mapping onto the registers exists that keeps one register for each
(log 102). -/
opaque finaliserCode : Nat → List (BitVec 8) → List (BitVec 8)
opaque finaliserEntry : Nat → List (BitVec 8) → Nat → Nat

end Sys2Proof.Config
end

