-- ==== Sys2Proof/Decode.lean ====
section
/-!
DEFINITION. Encoding and decoding (spec/12, R246 to R270; operand tables R281, R290, R308, R320, R338, R355, R367,
R380, R387; command-processor instructions R46): the table of the 192 core opcodes, the checks that refuse an
encoding by name, the decoder and the encoder.
-/
namespace Sys2Proof

/-! ## Names -/

/-- LEN[1]: the form has words 1 and 2 (R246). -/
def CoreWords.isExt (w : CoreWords) : Bool := w.ext.isSome

/-- Words 1 and 2 of the instruction, all zero in a form without them. -/
def CoreWords.x (w : CoreWords) : ExtWords := w.ext.getD default

/-- Word 2, 0 in a form without it. -/
def CoreWords.w2 (w : CoreWords) : Word := w.x.w2

/-- The six-bit names of D, A and B (R248, R251): {XH, field} in an extended form, the field in a base form. -/
def CoreWords.nameD (w : CoreWords) : Nat := w.d.toNat + (if w.x.dh then 32 else 0)
def CoreWords.nameA (w : CoreWords) : Nat := w.a.toNat + (if w.x.ah then 32 else 0)
def CoreWords.nameB (w : CoreWords) : Nat := w.b.toNat + (if w.x.bh then 32 else 0)

/-- The literal-or-zero name: 31 in a base form, 63 in an extended form (R251). -/
def CoreWords.zeroName (w : CoreWords) : Nat := if w.isExt then 63 else 31

/-- The name of C; a base form has no C and reads it as the literal-or-zero name (R320). -/
def CoreWords.nameC (w : CoreWords) : Nat := if w.isExt then w.x.c.toNat else 31

/-- The 64-bit literal, 0 when LEN has none (R252). -/
def CoreWords.litVal (w : CoreWords) : DWord := w.lit.getD 0

/-- Length of the instruction in words (R246). -/
def CoreWords.len (w : CoreWords) : Nat :=
  1 + (if w.ext.isSome then 2 else 0) + (if w.lit.isSome then 2 else 0)

/-- The predicate register the instruction selects with and its inversion (R254). -/
def CoreWords.pred (w : CoreWords) : Nat × Bool :=
  if w.x.px then (w.x.pq.toNat, w.x.pinv) else (w.p.toNat, w.x.pinv)

/-! ## Operand tables -/

/-- Operand classes of the positions (R251), with the positions whose rule depends on another field. -/
inductive Pos where
  /-- Not used: every name bit is 0. -/
  | none
  /-- A g register or the literal-or-zero name. -/
  | g
  /-- A g pair (R286), the literal-or-zero name admitted. -/
  | pair
  /-- A g pair destination that must be even and at most 60 (R320). -/
  | pairD
  /-- The destination of a load: g, or for SIZE 3 a pair (R310). -/
  | ldD
  /-- The data of a store: g, or for SIZE 3 a pair, read and never written (R308). -/
  | stS
  /-- B of an `ann` form: g, or for a 64-bit TYPE a pair (R320). -/
  | annB
  /-- B of `ann.cas`: a pair, or for a 64-bit TYPE a quad without a literal (R320, R322). -/
  | casB
  /-- Only the literal-or-zero name (R290). -/
  | lit
  /-- The count of `brx`: a literal from 1 to 4,096 (R295). -/
  | litCount
  /-- The immediate of `trap` and `brk`: a literal below 2^16, or none (R389). -/
  | litImm
  /-- The literal-or-zero name or 0, as word 2 or A says (R303, R350). -/
  | litOrZero
  /-- An h register, which must be 0 when B names the literal (R350). -/
  | hOrZero
  | h
  /-- An even h register at most 30 (R378). -/
  | hpair
  | q | k | c | t | w | cbd
  /-- A system register number (R388). -/
  | sys
  /-- h, and g when A is `tid` (R387). -/
  | srdD
  deriving DecidableEq, Repr

/-- Word-2 layouts (R249, R283, R286, R303, R307, R320, R342 to R344, R347, R355, R368, R380, R387). -/
inductive W2 where
  | none | fld | lea | loop | ldst | ldst0 | ann | annBits | annBkt | mcas | cvt | pks | unpk | fcmp
  | mem | mma | win | acc | accMem | cpy | spw | sys | utag
  deriving DecidableEq, Repr

/-- What FMT may hold (R255, R280, R309, R337, R342 to R344, R348, R365). -/
inductive FmtRule where
  | zero | typ | override | over35 | cvt | pkscl | unpk | load | to13 | epi
  deriving DecidableEq, Repr

/-- What ORD may hold (R174). -/
inductive OrdRule where
  | zero | mem | fence
  deriving DecidableEq, Repr

/-- A row of the opcode map with its operand table. `star` marks an opcode that admits only the extended forms. -/
structure OpRow where
  build : CoreWords → Instr
  d : Pos
  a : Pos
  b : Pos
  c : Pos
  w2 : W2
  fmt : FmtRule
  rnd : Bool := false
  sat : Bool := false
  ord : OrdRule := .zero
  star : Bool := false

/-- Class 0, integer and address (R256, R281): indices 0 to 15. -/
def rows0_0 : List (Option OpRow) := [
  some { build := .add, d := .g, a := .g, b := .g, c := .none, w2 := .none, fmt := .typ },
  some { build := .sub, d := .g, a := .g, b := .g, c := .none, w2 := .none, fmt := .typ },
  some { build := .mul, d := .g, a := .g, b := .g, c := .none, w2 := .none, fmt := .typ },
  some { build := .mulhi, d := .g, a := .g, b := .g, c := .none, w2 := .none, fmt := .typ },
  some { build := .mad, d := .g, a := .g, b := .g, c := .g, w2 := .none, fmt := .typ, star := true },
  some { build := .imin, d := .g, a := .g, b := .g, c := .none, w2 := .none, fmt := .typ },
  some { build := .imax, d := .g, a := .g, b := .g, c := .none, w2 := .none, fmt := .typ },
  some { build := .iand, d := .g, a := .g, b := .g, c := .none, w2 := .none, fmt := .zero },
  some { build := .ior, d := .g, a := .g, b := .g, c := .none, w2 := .none, fmt := .zero },
  some { build := .ixor, d := .g, a := .g, b := .g, c := .none, w2 := .none, fmt := .zero },
  some { build := .andn, d := .g, a := .g, b := .g, c := .none, w2 := .none, fmt := .zero },
  some { build := .shl, d := .g, a := .g, b := .g, c := .none, w2 := .none, fmt := .zero },
  some { build := .shr, d := .g, a := .g, b := .g, c := .none, w2 := .none, fmt := .zero },
  some { build := .sar, d := .g, a := .g, b := .g, c := .none, w2 := .none, fmt := .zero },
  some { build := .rotl, d := .g, a := .g, b := .g, c := .none, w2 := .none, fmt := .zero },
  some { build := .clz, d := .g, a := .g, b := .none, c := .none, w2 := .none, fmt := .zero }]

/-- Class 0, integer and address (R256, R281): indices 16 to 31. -/
def rows0_1 : List (Option OpRow) := [
  some { build := .popc, d := .g, a := .g, b := .none, c := .none, w2 := .none, fmt := .zero },
  some { build := .brev, d := .g, a := .g, b := .none, c := .none, w2 := .none, fmt := .zero },
  some { build := .bfx, d := .g, a := .g, b := .none, c := .none, w2 := .fld, fmt := .typ, star := true },
  some { build := .bfi, d := .g, a := .g, b := .g, c := .none, w2 := .fld, fmt := .zero, star := true },
  some { build := .sel, d := .g, a := .g, b := .g, c := .q, w2 := .none, fmt := .zero, star := true },
  some { build := .cmpEq, d := .q, a := .g, b := .g, c := .none, w2 := .none, fmt := .typ },
  some { build := .cmpNe, d := .q, a := .g, b := .g, c := .none, w2 := .none, fmt := .typ },
  some { build := .cmpLt, d := .q, a := .g, b := .g, c := .none, w2 := .none, fmt := .typ },
  some { build := .cmpLe, d := .q, a := .g, b := .g, c := .none, w2 := .none, fmt := .typ },
  some { build := .lea, d := .pair, a := .pair, b := .g, c := .none, w2 := .lea, fmt := .typ },
  some { build := .add64, d := .pair, a := .pair, b := .pair, c := .none, w2 := .none, fmt := .zero },
  some { build := .mov, d := .g, a := .g, b := .none, c := .none, w2 := .none, fmt := .zero },
  some { build := .movl, d := .h, a := .lit, b := .none, c := .none, w2 := .none, fmt := .zero },
  some { build := .uni, d := .h, a := .g, b := .g, c := .none, w2 := .none, fmt := .zero },
  some { build := .uniChk, d := .h, a := .g, b := .g, c := .none, w2 := .none, fmt := .zero },
  none]

/-- Class 0, integer and address (R256, R281): indices 32 to 47. -/
def rows0_2 : List (Option OpRow) := [
  some { build := .addH, d := .g, a := .h, b := .g, c := .none, w2 := .none, fmt := .typ },
  some { build := .subH, d := .g, a := .h, b := .g, c := .none, w2 := .none, fmt := .typ },
  some { build := .mulH, d := .g, a := .h, b := .g, c := .none, w2 := .none, fmt := .typ },
  some { build := .mulhiH, d := .g, a := .h, b := .g, c := .none, w2 := .none, fmt := .typ },
  some { build := .madH, d := .g, a := .h, b := .g, c := .g, w2 := .none, fmt := .typ, star := true },
  some { build := .minH, d := .g, a := .h, b := .g, c := .none, w2 := .none, fmt := .typ },
  some { build := .maxH, d := .g, a := .h, b := .g, c := .none, w2 := .none, fmt := .typ },
  some { build := .andH, d := .g, a := .h, b := .g, c := .none, w2 := .none, fmt := .zero },
  some { build := .orH, d := .g, a := .h, b := .g, c := .none, w2 := .none, fmt := .zero },
  some { build := .xorH, d := .g, a := .h, b := .g, c := .none, w2 := .none, fmt := .zero },
  some { build := .andnH, d := .g, a := .h, b := .g, c := .none, w2 := .none, fmt := .zero },
  some { build := .shlH, d := .g, a := .h, b := .g, c := .none, w2 := .none, fmt := .zero },
  some { build := .shrH, d := .g, a := .h, b := .g, c := .none, w2 := .none, fmt := .zero },
  some { build := .sarH, d := .g, a := .h, b := .g, c := .none, w2 := .none, fmt := .zero },
  some { build := .rotlH, d := .g, a := .h, b := .g, c := .none, w2 := .none, fmt := .zero },
  some { build := .clzH, d := .g, a := .h, b := .none, c := .none, w2 := .none, fmt := .zero }]

/-- Class 0, integer and address (R256, R281): indices 48 to 59. -/
def rows0_3 : List (Option OpRow) := [
  some { build := .popcH, d := .g, a := .h, b := .none, c := .none, w2 := .none, fmt := .zero },
  some { build := .brevH, d := .g, a := .h, b := .none, c := .none, w2 := .none, fmt := .zero },
  some { build := .bfxH, d := .g, a := .h, b := .none, c := .none, w2 := .fld, fmt := .typ, star := true },
  some { build := .bfiH, d := .g, a := .h, b := .g, c := .none, w2 := .fld, fmt := .zero, star := true },
  some { build := .selH, d := .g, a := .h, b := .g, c := .q, w2 := .none, fmt := .zero, star := true },
  some { build := .cmpEqH, d := .q, a := .h, b := .g, c := .none, w2 := .none, fmt := .typ },
  some { build := .cmpNeH, d := .q, a := .h, b := .g, c := .none, w2 := .none, fmt := .typ },
  some { build := .cmpLtH, d := .q, a := .h, b := .g, c := .none, w2 := .none, fmt := .typ },
  some { build := .cmpLeH, d := .q, a := .h, b := .g, c := .none, w2 := .none, fmt := .typ },
  none,
  none,
  some { build := .movH, d := .g, a := .h, b := .none, c := .none, w2 := .none, fmt := .zero }]

/-- Class 0, integer and address (R256, R281). -/
def rows0 : List (Option OpRow) := rows0_0 ++ rows0_1 ++ rows0_2 ++ rows0_3

/-- Class 1, control and loop (R257, R290): indices 0 to 15. -/
def rows1_0 : List (Option OpRow) := [
  some { build := .bra, d := .none, a := .g, b := .none, c := .none, w2 := .none, fmt := .zero },
  some { build := .brx, d := .none, a := .g, b := .litCount, c := .none, w2 := .none, fmt := .zero },
  some { build := .call, d := .none, a := .g, b := .none, c := .none, w2 := .none, fmt := .zero },
  some { build := .calli, d := .none, a := .pair, b := .none, c := .none, w2 := .none, fmt := .zero },
  some { build := .ret, d := .none, a := .none, b := .none, c := .none, w2 := .none, fmt := .zero },
  some { build := .exit, d := .none, a := .none, b := .none, c := .none, w2 := .none, fmt := .zero },
  some { build := .yield, d := .none, a := .none, b := .none, c := .none, w2 := .none, fmt := .zero },
  some { build := .yieldw, d := .none, a := .h, b := .h, c := .none, w2 := .none, fmt := .zero },
  some { build := .elect, d := .q, a := .none, b := .none, c := .none, w2 := .none, fmt := .zero },
  some { build := .qany, d := .q, a := .q, b := .none, c := .none, w2 := .none, fmt := .zero },
  some { build := .qall, d := .q, a := .q, b := .none, c := .none, w2 := .none, fmt := .zero },
  some { build := .qmask, d := .g, a := .q, b := .none, c := .none, w2 := .none, fmt := .zero },
  some { build := .lxSel, d := .g, a := .g, b := .g, c := .none, w2 := .none, fmt := .zero },
  some { build := .lxRot, d := .g, a := .g, b := .g, c := .none, w2 := .none, fmt := .zero },
  some { build := .lxRev, d := .g, a := .g, b := .g, c := .none, w2 := .none, fmt := .zero },
  some { build := .lxDup, d := .g, a := .g, b := .g, c := .none, w2 := .none, fmt := .zero }]

/-- Class 1, control and loop (R257, R290): indices 16 to 27. -/
def rows1_1 : List (Option OpRow) := [
  some { build := .qand, d := .q, a := .q, b := .q, c := .none, w2 := .none, fmt := .zero },
  some { build := .qor, d := .q, a := .q, b := .q, c := .none, w2 := .none, fmt := .zero },
  some { build := .qxor, d := .q, a := .q, b := .q, c := .none, w2 := .none, fmt := .zero },
  some { build := .qnot, d := .q, a := .q, b := .none, c := .none, w2 := .none, fmt := .zero },
  some { build := .nop, d := .none, a := .none, b := .none, c := .none, w2 := .none, fmt := .zero },
  none,
  none,
  none,
  some { build := .loop, d := .g, a := .h, b := .litOrZero, c := .none, w2 := .loop, fmt := .zero, star := true },
  some { build := .lbrk, d := .none, a := .none, b := .none, c := .none, w2 := .none, fmt := .zero },
  some { build := .lnext, d := .none, a := .none, b := .none, c := .none, w2 := .none, fmt := .zero },
  some { build := .lend, d := .none, a := .none, b := .none, c := .none, w2 := .none, fmt := .zero }]

/-- Class 1, control and loop (R257, R290). -/
def rows1 : List (Option OpRow) := rows1_0 ++ rows1_1

/-- Class 2, memory (R258, R308): indices 0 to 15. -/
def rows2_0 : List (Option OpRow) := [
  some { build := .ld, d := .ldD, a := .pair, b := .g, c := .none, w2 := .ldst, fmt := .load, ord := .mem },
  some { build := .st, d := .stS, a := .pair, b := .g, c := .none, w2 := .ldst, fmt := .zero, ord := .mem },
  some { build := .lds, d := .ldD, a := .g, b := .g, c := .none, w2 := .ldst, fmt := .load, ord := .mem },
  some { build := .sts, d := .stS, a := .g, b := .g, c := .none, w2 := .ldst, fmt := .zero, ord := .mem },
  some { build := .ldh, d := .h, a := .h, b := .lit, c := .none, w2 := .ldst0, fmt := .to13 },
  some { build := .pref, d := .none, a := .pair, b := .g, c := .none, w2 := .ldst0, fmt := .zero },
  some { build := .fence, d := .none, a := .none, b := .none, c := .none, w2 := .none, fmt := .zero, ord := .fence },
  some { build := .bind, d := .h, a := .h, b := .none, c := .none, w2 := .none, fmt := .zero },
  some { build := .ldInv, d := .ldD, a := .pair, b := .g, c := .none, w2 := .ldst, fmt := .load },
  none,
  none,
  none,
  none,
  none,
  none,
  none]

/-- Class 2, memory (R258, R308): indices 16 to 24. -/
def rows2_1 : List (Option OpRow) := [
  some { build := .ldH, d := .ldD, a := .h, b := .g, c := .none, w2 := .ldst, fmt := .load, ord := .mem },
  some { build := .stH, d := .stS, a := .h, b := .g, c := .none, w2 := .ldst, fmt := .zero, ord := .mem },
  some { build := .ldsH, d := .ldD, a := .h, b := .g, c := .none, w2 := .ldst, fmt := .load, ord := .mem },
  some { build := .stsH, d := .stS, a := .h, b := .g, c := .none, w2 := .ldst, fmt := .zero, ord := .mem },
  none,
  some { build := .prefH, d := .none, a := .h, b := .g, c := .none, w2 := .ldst0, fmt := .zero },
  none,
  none,
  some { build := .ldInvH, d := .ldD, a := .h, b := .g, c := .none, w2 := .ldst, fmt := .load }]

/-- Class 2, memory (R258, R308). -/
def rows2 : List (Option OpRow) := rows2_0 ++ rows2_1

/-- Class 3, sync (R259, R320): indices 0 to 15. -/
def rows3_0 : List (Option OpRow) := [
  some { build := .annFadd, d := .pairD, a := .h, b := .annB, c := .g, w2 := .ann, fmt := .zero },
  some { build := .annFmin, d := .pairD, a := .h, b := .annB, c := .g, w2 := .ann, fmt := .zero },
  some { build := .annFmax, d := .pairD, a := .h, b := .annB, c := .g, w2 := .ann, fmt := .zero },
  some { build := .annAnd, d := .pairD, a := .h, b := .annB, c := .g, w2 := .annBits, fmt := .zero },
  some { build := .annOr, d := .pairD, a := .h, b := .annB, c := .g, w2 := .annBits, fmt := .zero },
  some { build := .annXor, d := .pairD, a := .h, b := .annB, c := .g, w2 := .annBits, fmt := .zero },
  some { build := .annSwap, d := .pairD, a := .h, b := .annB, c := .g, w2 := .ann, fmt := .zero },
  some { build := .annCas, d := .pairD, a := .h, b := .casB, c := .g, w2 := .ann, fmt := .zero, star := true },
  some { build := .annMcas, d := .pairD, a := .h, b := .none, c := .g, w2 := .mcas, fmt := .zero, star := true },
  some { build := .annBkt, d := .pairD, a := .h, b := .g, c := .g, w2 := .annBkt, fmt := .zero },
  some { build := .help, d := .pairD, a := .h, b := .none, c := .g, w2 := .none, fmt := .zero },
  some { build := .coll, d := .pairD, a := .h, b := .none, c := .g, w2 := .none, fmt := .zero },
  some { build := .acq, d := .g, a := .h, b := .none, c := .g, w2 := .none, fmt := .zero },
  some { build := .rel, d := .g, a := .h, b := .none, c := .g, w2 := .none, fmt := .zero },
  some { build := .barArv, d := .g, a := .h, b := .none, c := .none, w2 := .none, fmt := .zero },
  some { build := .barTst, d := .q, a := .h, b := .g, c := .none, w2 := .none, fmt := .zero }]

/-- Class 3, sync (R259, R320): indices 16 to 17. -/
def rows3_1 : List (Option OpRow) := [
  some { build := .bbarPost, d := .none, a := .h, b := .h, c := .none, w2 := .none, fmt := .zero },
  some { build := .bbarTst, d := .q, a := .h, b := .h, c := .none, w2 := .none, fmt := .zero }]

/-- Class 3, sync (R259, R320). -/
def rows3 : List (Option OpRow) := rows3_0 ++ rows3_1

/-- Class 4, vector (R260, R338): indices 0 to 15. -/
def rows4_0 : List (Option OpRow) := [
  some { build := .fadd, d := .g, a := .g, b := .g, c := .none, w2 := .none, fmt := .override, rnd := true, sat := true },
  some { build := .fsub, d := .g, a := .g, b := .g, c := .none, w2 := .none, fmt := .override, rnd := true, sat := true },
  some { build := .fmul, d := .g, a := .g, b := .g, c := .none, w2 := .none, fmt := .override, rnd := true, sat := true },
  some { build := .fma, d := .g, a := .g, b := .g, c := .g, w2 := .none, fmt := .override, rnd := true, sat := true, star := true },
  some { build := .fmin, d := .g, a := .g, b := .g, c := .none, w2 := .none, fmt := .override },
  some { build := .fmax, d := .g, a := .g, b := .g, c := .none, w2 := .none, fmt := .override },
  some { build := .rcp, d := .g, a := .g, b := .none, c := .none, w2 := .none, fmt := .over35, rnd := true, sat := true },
  some { build := .rsq, d := .g, a := .g, b := .none, c := .none, w2 := .none, fmt := .over35, rnd := true, sat := true },
  some { build := .ex2, d := .g, a := .g, b := .none, c := .none, w2 := .none, fmt := .over35, rnd := true, sat := true },
  some { build := .lg2, d := .g, a := .g, b := .none, c := .none, w2 := .none, fmt := .over35, rnd := true, sat := true },
  some { build := .tanh, d := .g, a := .g, b := .none, c := .none, w2 := .none, fmt := .over35, rnd := true, sat := true },
  some { build := .cvt, d := .g, a := .g, b := .none, c := .none, w2 := .cvt, fmt := .cvt, rnd := true, sat := true, star := true },
  some { build := .pkscl, d := .g, a := .g, b := .none, c := .none, w2 := .pks, fmt := .pkscl, star := true },
  some { build := .unpk, d := .g, a := .g, b := .g, c := .none, w2 := .unpk, fmt := .unpk, rnd := true, star := true },
  some { build := .dot8, d := .g, a := .pair, b := .pair, c := .g, w2 := .none, fmt := .zero, rnd := true, sat := true, star := true },
  some { build := .hredAdd, d := .g, a := .g, b := .none, c := .none, w2 := .none, fmt := .override, rnd := true, sat := true }]

/-- Class 4, vector (R260, R338): indices 16 to 31. -/
def rows4_1 : List (Option OpRow) := [
  some { build := .hredMin, d := .g, a := .g, b := .none, c := .none, w2 := .none, fmt := .override },
  some { build := .hredMax, d := .g, a := .g, b := .none, c := .none, w2 := .none, fmt := .override },
  some { build := .fcmpEq, d := .q, a := .g, b := .g, c := .none, w2 := .fcmp, fmt := .override },
  some { build := .fcmpNe, d := .q, a := .g, b := .g, c := .none, w2 := .fcmp, fmt := .override },
  some { build := .fcmpLt, d := .q, a := .g, b := .g, c := .none, w2 := .fcmp, fmt := .override },
  some { build := .fcmpLe, d := .q, a := .g, b := .g, c := .none, w2 := .fcmp, fmt := .override },
  some { build := .fcmpUn, d := .q, a := .g, b := .g, c := .none, w2 := .fcmp, fmt := .override },
  some { build := .ftag, d := .g, a := .g, b := .none, c := .none, w2 := .none, fmt := .zero },
  some { build := .stag, d := .g, a := .g, b := .none, c := .none, w2 := .none, fmt := .to13, star := true },
  none,
  none,
  none,
  none,
  none,
  none,
  none]

/-- Class 4, vector (R260, R338): indices 32 to 47. -/
def rows4_2 : List (Option OpRow) := [
  some { build := .faddH, d := .g, a := .h, b := .g, c := .none, w2 := .none, fmt := .override, rnd := true, sat := true },
  some { build := .fsubH, d := .g, a := .h, b := .g, c := .none, w2 := .none, fmt := .override, rnd := true, sat := true },
  some { build := .fmulH, d := .g, a := .h, b := .g, c := .none, w2 := .none, fmt := .override, rnd := true, sat := true },
  some { build := .fmaH, d := .g, a := .h, b := .g, c := .g, w2 := .none, fmt := .override, rnd := true, sat := true, star := true },
  some { build := .fminH, d := .g, a := .h, b := .g, c := .none, w2 := .none, fmt := .override },
  some { build := .fmaxH, d := .g, a := .h, b := .g, c := .none, w2 := .none, fmt := .override },
  none,
  none,
  none,
  none,
  none,
  none,
  none,
  none,
  none,
  none]

/-- Class 4, vector (R260, R338): indices 48 to 53. -/
def rows4_3 : List (Option OpRow) := [
  none,
  none,
  some { build := .fcmpEqH, d := .q, a := .h, b := .g, c := .none, w2 := .fcmp, fmt := .override },
  some { build := .fcmpNeH, d := .q, a := .h, b := .g, c := .none, w2 := .fcmp, fmt := .override },
  some { build := .fcmpLtH, d := .q, a := .h, b := .g, c := .none, w2 := .fcmp, fmt := .override },
  some { build := .fcmpLeH, d := .q, a := .h, b := .g, c := .none, w2 := .fcmp, fmt := .override }]

/-- Class 4, vector (R260, R338). -/
def rows4 : List (Option OpRow) := rows4_0 ++ rows4_1 ++ rows4_2 ++ rows4_3

/-- Class 5, tile and matrix (R261, R355): indices 0 to 10. -/
def rows5_0 : List (Option OpRow) := [
  some { build := .tld, d := .t, a := .h, b := .none, c := .none, w2 := .mem, fmt := .zero },
  some { build := .tst, d := .t, a := .h, b := .none, c := .none, w2 := .mem, fmt := .zero },
  some { build := .tcfg, d := .t, a := .hOrZero, b := .litOrZero, c := .none, w2 := .none, fmt := .zero },
  some { build := .mma, d := .none, a := .h, b := .t, c := .t, w2 := .mma, fmt := .zero, star := true },
  some { build := .mmaWin, d := .none, a := .h, b := .t, c := .t, w2 := .win, fmt := .zero, star := true },
  some { build := .gmma, d := .none, a := .h, b := .t, c := .t, w2 := .mma, fmt := .zero, star := true },
  some { build := .acz, d := .none, a := .h, b := .none, c := .none, w2 := .acc, fmt := .zero, star := true },
  some { build := .acld, d := .none, a := .h, b := .h, c := .none, w2 := .acc, fmt := .zero, star := true },
  some { build := .acst, d := .none, a := .h, b := .h, c := .none, w2 := .accMem, fmt := .zero, star := true },
  some { build := .acdrain, d := .none, a := .h, b := .h, c := .none, w2 := .acc, fmt := .zero, star := true },
  some { build := .epi, d := .none, a := .h, b := .h, c := .h, w2 := .accMem, fmt := .epi, rnd := true, sat := true, star := true }]

/-- Class 5, tile and matrix (R261, R355). -/
def rows5 : List (Option OpRow) := rows5_0

/-- Class 6, engines (R262, R367): indices 0 to 12. -/
def rows6_0 : List (Option OpRow) := [
  some { build := .cpy, d := .h, a := .h, b := .h, c := .none, w2 := .cpy, fmt := .zero, star := true },
  some { build := .wbind, d := .h, a := .h, b := .h, c := .none, w2 := .none, fmt := .zero, star := true },
  some { build := .winq, d := .h, a := .h, b := .none, c := .none, w2 := .none, fmt := .zero },
  some { build := .cbtakeFull, d := .h, a := .cbd, b := .none, c := .none, w2 := .none, fmt := .zero },
  some { build := .cbtakeFree, d := .h, a := .cbd, b := .none, c := .none, w2 := .none, fmt := .zero },
  some { build := .cbgiveFull, d := .none, a := .cbd, b := .none, c := .none, w2 := .none, fmt := .zero },
  some { build := .cbgiveFree, d := .none, a := .cbd, b := .none, c := .none, w2 := .none, fmt := .zero },
  some { build := .qput, d := .h, a := .w, b := .h, c := .none, w2 := .none, fmt := .zero },
  some { build := .qget, d := .h, a := .w, b := .none, c := .none, w2 := .none, fmt := .zero },
  some { build := .bkt, d := .g, a := .h, b := .g, c := .none, w2 := .none, fmt := .zero },
  some { build := .xcntRd, d := .g, a := .g, b := .none, c := .none, w2 := .none, fmt := .zero },
  some { build := .xcntClr, d := .g, a := .g, b := .none, c := .none, w2 := .none, fmt := .zero },
  some { build := .rng, d := .hpair, a := .none, b := .none, c := .none, w2 := .none, fmt := .zero }]

/-- Class 6, engines (R262, R367). -/
def rows6 : List (Option OpRow) := rows6_0

/-- Class 7, spawn (R263, R380): indices 0 to 9. -/
def rows7_0 : List (Option OpRow) := [
  some { build := .spawn, d := .h, a := .none, b := .none, c := .none, w2 := .spw, fmt := .zero },
  some { build := .cond, d := .c, a := .none, b := .none, c := .none, w2 := .none, fmt := .zero },
  some { build := .spawncT, d := .h, a := .c, b := .k, c := .none, w2 := .spw, fmt := .zero },
  some { build := .spawncF, d := .h, a := .c, b := .k, c := .none, w2 := .spw, fmt := .zero },
  some { build := .spawncTPred, d := .h, a := .c, b := .none, c := .none, w2 := .spw, fmt := .zero },
  some { build := .spawncFPred, d := .h, a := .c, b := .none, c := .none, w2 := .spw, fmt := .zero },
  some { build := .resolve, d := .none, a := .c, b := .q, c := .none, w2 := .none, fmt := .zero },
  some { build := .lkset, d := .k, a := .h, b := .none, c := .none, w2 := .none, fmt := .zero },
  some { build := .lkget, d := .h, a := .k, b := .none, c := .none, w2 := .none, fmt := .zero },
  some { build := .segq, d := .h, a := .h, b := .none, c := .none, w2 := .none, fmt := .zero }]

/-- Class 7, spawn (R263, R380). -/
def rows7 : List (Option OpRow) := rows7_0

/-- Class 8, system (R264, R387): indices 0 to 7. -/
def rows8_0 : List (Option OpRow) := [
  some { build := .trap, d := .none, a := .litImm, b := .none, c := .none, w2 := .none, fmt := .zero },
  some { build := .tret, d := .none, a := .none, b := .none, c := .none, w2 := .none, fmt := .zero },
  some { build := .srd, d := .srdD, a := .sys, b := .none, c := .none, w2 := .sys, fmt := .zero },
  some { build := .swr, d := .sys, a := .h, b := .none, c := .none, w2 := .sys, fmt := .zero },
  some { build := .uintr, d := .h, a := .h, b := .h, c := .none, w2 := .utag, fmt := .zero },
  some { build := .brk, d := .none, a := .litImm, b := .none, c := .none, w2 := .none, fmt := .zero },
  some { build := .sig, d := .none, a := .h, b := .none, c := .none, w2 := .none, fmt := .zero },
  some { build := .drop, d := .none, a := .g, b := .g, c := .g, w2 := .none, fmt := .zero }]

/-- Class 8, system (R264, R387). -/
def rows8 : List (Option OpRow) := rows8_0

/-- The opcode map by class and index (R256 to R264): OPC[9:6] is the class and OPC[5:0] the index. -/
def opRow (opc : Nat) : Option OpRow :=
  let i := opc % 64
  match opc / 64 with
  | 0 => rows0.getD i none
  | 1 => rows1.getD i none
  | 2 => rows2.getD i none
  | 3 => rows3.getD i none
  | 4 => rows4.getD i none
  | 5 => rows5.getD i none
  | 6 => rows6.getD i none
  | 7 => rows7.getD i none
  | 8 => rows8.getD i none
  | _ => none

/-- The system registers of R388: largest IDX and largest WRD of a listed number. -/
def sysFamily (n : Nat) : Option (Nat × Nat) :=
  if n ≤ 0x0B ∨ (0x10 ≤ n ∧ n ≤ 0x14) then some (0, 0)
  else if n = 0x18 then some (5, 4)
  else if n = 0x19 then some (15, 0)
  else if n = 0x1A then some (7, 0)
  else if n = 0x1B then some (15, 0)
  else none

/-! ## The checks of R265 -/

/-- A field of word 2. -/
def CoreWords.f2 (w : CoreWords) (lo width : Nat) : Nat := bits w.w2.toNat lo width

/-- SIZE of the LDST layout (R307). -/
def CoreWords.size (w : CoreWords) : Nat := w.f2 24 3

/-- TYPE of the ANN layout (R320). -/
def CoreWords.annType (w : CoreWords) : Nat := w.f2 0 3

/-- A pair name: even and at most 60 (R286). -/
def pairName (n : Nat) : Bool := n % 2 == 0 && n ≤ 60

/-- The name `n` may stand in a position of the class (R251). -/
def posOk (p : Pos) (n : Nat) (w : CoreWords) : Bool :=
  match p with
  | .none => n == 0
  | .g => true
  | .pair => n == w.zeroName || pairName n
  | .pairD => pairName n
  | .ldD => w.size != 3 || pairName n
  | .stS => w.size != 3 || n == w.zeroName || pairName n
  | .annB => w.annType < 3 || n == w.zeroName || pairName n
  | .casB => if w.annType < 3 then n == w.zeroName || pairName n else n % 4 == 0 && n ≤ 56
  | .lit => n == w.zeroName
  | .litCount => n == w.zeroName && w.lit.isSome && 1 ≤ bits w.litVal.toNat 0 32 && bits w.litVal.toNat 0 32 ≤ 4096
  | .litImm => n == w.zeroName && w.litVal.toNat < 2 ^ 16
  | .litOrZero => n == w.zeroName || n == 0
  | .hOrZero => n < 32 && (w.nameB != w.zeroName || n == 0)
  | .h => n < 32
  | .hpair => n % 2 == 0 && n ≤ 30
  | .q => n < 16
  | .k => n < 8
  | .c => n < 16
  | .t => n < 16
  | .w => n < 8
  | .cbd => n < 8
  | .sys => w.isExt && (sysFamily n).isSome
  | .srdD => w.nameA == 1 || n < 32

/-- Positions in which the literal-or-zero name is a source (R252). -/
def Pos.readsLit : Pos → Bool
  | .g | .pair | .stS | .annB | .casB | .lit | .litCount | .litImm | .litOrZero => true
  | _ => false

/-- Some source names the literal-or-zero name (R250). The D position is a source only in a store. -/
def namesLit (r : OpRow) (w : CoreWords) : Bool :=
  (r.a.readsLit && w.nameA == w.zeroName) || (r.b.readsLit && w.nameB == w.zeroName) ||
  (r.c.readsLit && w.isExt && w.nameC == w.zeroName) || (r.d == .stS && w.nameD == w.zeroName)

/-- Word 2 is in its layout (R249). -/
def w2Ok (k : W2) (w : CoreWords) : Bool :=
  match k with
  | .none => w.w2 == 0
  | .fld => w.f2 11 21 == 0 && w.f2 5 6 ≤ 32
  | .lea => w.f2 3 29 == 0
  | .loop =>
    let tl := w.f2 28 1 == 1
    let until_ := w.f2 23 1 == 1
    w.f2 29 3 == 0 && (w.f2 16 4 != 0 || w.nameD == 0) &&
      (if tl then w.nameA == 0 && w.nameB == w.zeroName && !until_
       else w.nameB == 0 && (!until_ || w.nameA == 0))
  | .ldst => w.f2 27 5 == 0 && w.size ≤ 3
  | .ldst0 => w.f2 24 8 == 0
  | .ann => w.f2 3 29 == 0 && w.annType ≤ 4
  | .annBits => w.f2 3 29 == 0 && w.annType ≤ 4 && w.annType != 2
  | .annBkt => w.w2 == 0
  | .mcas => w.f2 2 30 == 0 && w.f2 0 2 != 0
  | .cvt => w.f2 9 23 == 0 && w.f2 5 4 ≤ 12 && (w.f2 5 4 != 0 || w.nameA != w.zeroName)
  | .pks => w.f2 2 30 == 0
  | .unpk => w.f2 7 25 == 0
  | .fcmp => w.f2 3 29 == 0
  | .mem => true
  | .mma => w.f2 16 16 == 0
  | .win => w.f2 23 1 == 0 && w.f2 13 6 != 0
  | .acc => w.f2 29 3 == 0
  | .accMem => w.f2 30 2 == 0
  | .cpy =>
    let cb := w.f2 14 1 == 1
    w.f2 19 13 == 0 && (cb || w.f2 15 3 == 0) && !(cb && w.f2 13 1 == 1) &&
      (!cb || w.f2 18 1 == 1 || w.nameB == 0)
  | .spw => w.f2 25 7 == 0
  | .sys => w.f2 7 25 == 0
  | .utag => w.f2 16 16 == 0

/-- IDX and WRD of the SYS layout are in the range of the register's family (R388). -/
def sysOk (r : OpRow) (w : CoreWords) : Bool :=
  let chk (n : Nat) : Bool := match sysFamily n with
    | some (i, d) => w.f2 0 4 ≤ i && w.f2 4 3 ≤ d
    | none => false
  (r.a != .sys || chk w.nameA) && (r.d != .sys || chk w.nameD)

/-- FMT holds a value the instruction admits (R255). -/
def fmtOk (k : FmtRule) (w : CoreWords) : Bool :=
  let f := w.x.fmt.toNat
  match k with
  | .zero => f == 0
  | .typ => f ≤ 2
  | .override => f == 0 || (3 ≤ f && f ≤ 7)
  | .over35 => f == 0 || (3 ≤ f && f ≤ 5)
  | .cvt => (1 ≤ f && f ≤ 8) || (10 ≤ f && f ≤ 12)
  | .pkscl => 6 ≤ f && f ≤ 8
  | .unpk => f == 3
  | .load =>
    match w.size with
    | 0 => f ≤ 13
    | 3 => f ≤ 2
    | _ => f == 1 || f == 2
  | .to13 => f ≤ 13
  | .epi => 3 ≤ f && f ≤ 8

/-- ORD holds a value the instruction admits (R174): SYNC in bit 3, scope in bits 2 to 0. -/
def ordOk (k : OrdRule) (w : CoreWords) : Bool :=
  let o := w.x.ord.toNat
  match k with
  | .zero => o == 0
  | .mem => o == 0 || (9 ≤ o && o ≤ 13)
  | .fence => 9 ≤ o && o ≤ 13

/-- A position that takes an LR bit: of class g in class 6, none in classes 7 and 8, every position of the opcode
elsewhere (R255, R366, R379, R386). -/
def lrPos (cls : Nat) (p : Pos) : Bool :=
  if cls ≥ 7 then false else if cls = 6 then p == .g else p != .none

/-- LR bits stand only at positions that take them. -/
def lrOk (cls : Nat) (r : OpRow) (w : CoreWords) : Bool :=
  (!w.x.lr.getLsbD 0 || lrPos cls r.a) && (!w.x.lr.getLsbD 1 || lrPos cls r.b) && (!w.x.lr.getLsbD 2 || lrPos cls r.c)

/-- PX, P and PQ agree (R254). -/
def predOk (w : CoreWords) : Bool :=
  if w.x.px then w.p == 0 else w.x.pq == 0

/-- RND and SAT are 0 where the instruction does not use them, and RND names a mode (R239, R255). -/
def rndSatOk (r : OpRow) (w : CoreWords) : Bool :=
  (if r.rnd then w.x.rnd.toNat ≤ 3 else w.x.rnd == 0) && (r.sat || !w.x.sat)

/-- The C field: its class in an extended form. A base form has no C. -/
def posCOk (r : OpRow) (w : CoreWords) : Bool :=
  match w.ext with
  | none => true
  | some x => posOk r.c x.c.toNat w

/-- Every check of R265 but those of the opcode itself: an instruction that fails one raises ILLFMT. -/
def checkRow (opc : Nat) (r : OpRow) (w : CoreWords) : Bool :=
  (!r.star || w.isExt) && predOk w && (w.lit.isNone || namesLit r w) &&
  posOk r.d w.nameD w && posOk r.a w.nameA w && posOk r.b w.nameB w && posCOk r w &&
  w2Ok r.w2 w && fmtOk r.fmt w && ordOk r.ord w && rndSatOk r w && lrOk (opc / 64) r w && sysOk r w

/-! ## Words -/

/-- The fields of word 0 (R247). -/
def splitWord0 (w0 : Word) (ext : Option ExtWords) (lit : Option DWord) : CoreWords :=
  { sw := w0.getLsbD 2, rb := w0.getLsbD 3, p := w0.extractLsb' 14 3, d := w0.extractLsb' 17 5,
    a := w0.extractLsb' 22 5, b := w0.extractLsb' 27 5, ext := ext, lit := lit }

/-- OPC of word 0. -/
def opcOf (w0 : Word) : Nat := (w0.extractLsb' 4 10).toNat

/-- The fields of words 1 and 2 (R248, R249). -/
def splitExt (w1 w2 : Word) : ExtWords :=
  { dh := w1.getLsbD 0, ah := w1.getLsbD 1, bh := w1.getLsbD 2, c := w1.extractLsb' 3 6, lr := w1.extractLsb' 9 3,
    px := w1.getLsbD 12, pq := w1.extractLsb' 13 4, pinv := w1.getLsbD 17, rnd := w1.extractLsb' 18 3,
    sat := w1.getLsbD 21, fmt := w1.extractLsb' 22 4, ord := w1.extractLsb' 26 4, w2 := w2 }

/-- Bits [31:30] of word 1, which must be 0 (R248). -/
def word1Zero (w1 : Word) : Bool := w1.extractLsb' 30 2 == 0

/-- Words of an instruction by LEN (R246). -/
def lenWords (w0 : Word) : Nat :=
  match (w0.extractLsb' 0 2).toNat with
  | 0 => 1
  | 1 => 3
  | 2 => 3
  | _ => 5

/-- What the decoder answers: an instruction, or the fault it raises by name (R265); `short` when the words end
before the instruction does. -/
inductive Decoded where
  | instr (i : Instr)
  | illop
  | illfmt
  | short
  deriving DecidableEq, Repr

/-- The instruction of an opcode with given fields. -/
def buildCore (opc : Nat) (w1ok : Bool) (w : CoreWords) : Decoded :=
  match opRow opc with
  | none => .illop
  | some r => if w1ok && checkRow opc r w then .instr (r.build w) else .illfmt

/-- Decode the words of an instruction whose opcode is `opc` (its own, or the entry of a decode table, R268). -/
def decodeAs (opc : Nat) : List Word → Decoded
  | [] => .short
  | w0 :: ws =>
    match (w0.extractLsb' 0 2).toNat, ws with
    | 0, _ => buildCore opc true (splitWord0 w0 none none)
    | 1, l0 :: l1 :: _ => buildCore opc true (splitWord0 w0 none (some (l1 ++ l0)))
    | 2, w1 :: w2 :: _ => buildCore opc (word1Zero w1) (splitWord0 w0 (some (splitExt w1 w2)) none)
    | 3, w1 :: w2 :: l0 :: l1 :: _ =>
      buildCore opc (word1Zero w1) (splitWord0 w0 (some (splitExt w1 w2)) (some (l1 ++ l0)))
    | _, _ => .short

/-- Decode the words of an instruction of the BX960 map (GEN 0). -/
def decodeCore : List Word → Decoded
  | [] => .short
  | w0 :: ws => decodeAs (opcOf w0) (w0 :: ws)

/-- The command-processor instructions (R46). `none` is the illegal-instruction exception. -/
def decodeDv (x : Word) : Option Instr :=
  let f7 := (x.extractLsb' 25 7).toNat
  let w : DvWord := { rd := x.extractLsb' 7 5, rs1 := x.extractLsb' 15 5, rs2 := x.extractLsb' 20 5,
                      cond := x.extractLsb' 25 2 }
  if (x.extractLsb' 0 7).toNat ≠ 0b0001011 then none
  else match (x.extractLsb' 12 3).toNat with
    | 0 => if f7 = 0 then some (.dvRfetch w) else none
    | 1 => if f7 = 0 then some (.dvBfx w) else none
    | 2 => if f7 < 4 then some (.dvSwait w) else none
    | 3 => if f7 = 0 then some (.dvDisp w) else none
    | _ => none

/-! ## Bytes (R4: little-endian) -/

/-- The word of four bytes, the byte at the lowest address first. -/
def wordOfBytes (b0 b1 b2 b3 : BitVec 8) : Word := b3 ++ b2 ++ b1 ++ b0

/-- The words of a list of bytes; a rest of fewer than four bytes is dropped. -/
def wordsOfBytes : List (BitVec 8) → List Word
  | b0 :: b1 :: b2 :: b3 :: bs => wordOfBytes b0 b1 b2 b3 :: wordsOfBytes bs
  | _ => []

/-- The bytes of a word, lowest address first. -/
def bytesOfWord (w : Word) : List (BitVec 8) :=
  [w.extractLsb' 0 8, w.extractLsb' 8 8, w.extractLsb' 16 8, w.extractLsb' 24 8]

/-- Decode from bytes: the instruction that starts the list, with the rest of the list. -/
def decodeBytes (bs : List (BitVec 8)) : Decoded × List (BitVec 8) :=
  let ws := wordsOfBytes bs
  match ws with
  | [] => (.short, bs)
  | w0 :: _ => (decodeCore ws, bs.drop (4 * lenWords w0))

/-! ## The encoder -/

/-- The opcode and the fields of a core instruction. -/
def Instr.core : Instr → Option (Nat × CoreWords)
  | .add w => some (0x000, w)
  | .sub w => some (0x001, w)
  | .mul w => some (0x002, w)
  | .mulhi w => some (0x003, w)
  | .mad w => some (0x004, w)
  | .imin w => some (0x005, w)
  | .imax w => some (0x006, w)
  | .iand w => some (0x007, w)
  | .ior w => some (0x008, w)
  | .ixor w => some (0x009, w)
  | .andn w => some (0x00A, w)
  | .shl w => some (0x00B, w)
  | .shr w => some (0x00C, w)
  | .sar w => some (0x00D, w)
  | .rotl w => some (0x00E, w)
  | .clz w => some (0x00F, w)
  | .popc w => some (0x010, w)
  | .brev w => some (0x011, w)
  | .bfx w => some (0x012, w)
  | .bfi w => some (0x013, w)
  | .sel w => some (0x014, w)
  | .cmpEq w => some (0x015, w)
  | .cmpNe w => some (0x016, w)
  | .cmpLt w => some (0x017, w)
  | .cmpLe w => some (0x018, w)
  | .lea w => some (0x019, w)
  | .add64 w => some (0x01A, w)
  | .mov w => some (0x01B, w)
  | .movl w => some (0x01C, w)
  | .uni w => some (0x01D, w)
  | .uniChk w => some (0x01E, w)
  | .addH w => some (0x020, w)
  | .subH w => some (0x021, w)
  | .mulH w => some (0x022, w)
  | .mulhiH w => some (0x023, w)
  | .madH w => some (0x024, w)
  | .minH w => some (0x025, w)
  | .maxH w => some (0x026, w)
  | .andH w => some (0x027, w)
  | .orH w => some (0x028, w)
  | .xorH w => some (0x029, w)
  | .andnH w => some (0x02A, w)
  | .shlH w => some (0x02B, w)
  | .shrH w => some (0x02C, w)
  | .sarH w => some (0x02D, w)
  | .rotlH w => some (0x02E, w)
  | .clzH w => some (0x02F, w)
  | .popcH w => some (0x030, w)
  | .brevH w => some (0x031, w)
  | .bfxH w => some (0x032, w)
  | .bfiH w => some (0x033, w)
  | .selH w => some (0x034, w)
  | .cmpEqH w => some (0x035, w)
  | .cmpNeH w => some (0x036, w)
  | .cmpLtH w => some (0x037, w)
  | .cmpLeH w => some (0x038, w)
  | .movH w => some (0x03B, w)
  | .bra w => some (0x040, w)
  | .brx w => some (0x041, w)
  | .call w => some (0x042, w)
  | .calli w => some (0x043, w)
  | .ret w => some (0x044, w)
  | .exit w => some (0x045, w)
  | .yield w => some (0x046, w)
  | .yieldw w => some (0x047, w)
  | .elect w => some (0x048, w)
  | .qany w => some (0x049, w)
  | .qall w => some (0x04A, w)
  | .qmask w => some (0x04B, w)
  | .lxSel w => some (0x04C, w)
  | .lxRot w => some (0x04D, w)
  | .lxRev w => some (0x04E, w)
  | .lxDup w => some (0x04F, w)
  | .qand w => some (0x050, w)
  | .qor w => some (0x051, w)
  | .qxor w => some (0x052, w)
  | .qnot w => some (0x053, w)
  | .nop w => some (0x054, w)
  | .loop w => some (0x058, w)
  | .lbrk w => some (0x059, w)
  | .lnext w => some (0x05A, w)
  | .lend w => some (0x05B, w)
  | .ld w => some (0x080, w)
  | .st w => some (0x081, w)
  | .lds w => some (0x082, w)
  | .sts w => some (0x083, w)
  | .ldh w => some (0x084, w)
  | .pref w => some (0x085, w)
  | .fence w => some (0x086, w)
  | .bind w => some (0x087, w)
  | .ldInv w => some (0x088, w)
  | .ldH w => some (0x090, w)
  | .stH w => some (0x091, w)
  | .ldsH w => some (0x092, w)
  | .stsH w => some (0x093, w)
  | .prefH w => some (0x095, w)
  | .ldInvH w => some (0x098, w)
  | .annFadd w => some (0x0C0, w)
  | .annFmin w => some (0x0C1, w)
  | .annFmax w => some (0x0C2, w)
  | .annAnd w => some (0x0C3, w)
  | .annOr w => some (0x0C4, w)
  | .annXor w => some (0x0C5, w)
  | .annSwap w => some (0x0C6, w)
  | .annCas w => some (0x0C7, w)
  | .annMcas w => some (0x0C8, w)
  | .annBkt w => some (0x0C9, w)
  | .help w => some (0x0CA, w)
  | .coll w => some (0x0CB, w)
  | .acq w => some (0x0CC, w)
  | .rel w => some (0x0CD, w)
  | .barArv w => some (0x0CE, w)
  | .barTst w => some (0x0CF, w)
  | .bbarPost w => some (0x0D0, w)
  | .bbarTst w => some (0x0D1, w)
  | .fadd w => some (0x100, w)
  | .fsub w => some (0x101, w)
  | .fmul w => some (0x102, w)
  | .fma w => some (0x103, w)
  | .fmin w => some (0x104, w)
  | .fmax w => some (0x105, w)
  | .rcp w => some (0x106, w)
  | .rsq w => some (0x107, w)
  | .ex2 w => some (0x108, w)
  | .lg2 w => some (0x109, w)
  | .tanh w => some (0x10A, w)
  | .cvt w => some (0x10B, w)
  | .pkscl w => some (0x10C, w)
  | .unpk w => some (0x10D, w)
  | .dot8 w => some (0x10E, w)
  | .hredAdd w => some (0x10F, w)
  | .hredMin w => some (0x110, w)
  | .hredMax w => some (0x111, w)
  | .fcmpEq w => some (0x112, w)
  | .fcmpNe w => some (0x113, w)
  | .fcmpLt w => some (0x114, w)
  | .fcmpLe w => some (0x115, w)
  | .fcmpUn w => some (0x116, w)
  | .ftag w => some (0x117, w)
  | .stag w => some (0x118, w)
  | .faddH w => some (0x120, w)
  | .fsubH w => some (0x121, w)
  | .fmulH w => some (0x122, w)
  | .fmaH w => some (0x123, w)
  | .fminH w => some (0x124, w)
  | .fmaxH w => some (0x125, w)
  | .fcmpEqH w => some (0x132, w)
  | .fcmpNeH w => some (0x133, w)
  | .fcmpLtH w => some (0x134, w)
  | .fcmpLeH w => some (0x135, w)
  | .tld w => some (0x140, w)
  | .tst w => some (0x141, w)
  | .tcfg w => some (0x142, w)
  | .mma w => some (0x143, w)
  | .mmaWin w => some (0x144, w)
  | .gmma w => some (0x145, w)
  | .acz w => some (0x146, w)
  | .acld w => some (0x147, w)
  | .acst w => some (0x148, w)
  | .acdrain w => some (0x149, w)
  | .epi w => some (0x14A, w)
  | .cpy w => some (0x180, w)
  | .wbind w => some (0x181, w)
  | .winq w => some (0x182, w)
  | .cbtakeFull w => some (0x183, w)
  | .cbtakeFree w => some (0x184, w)
  | .cbgiveFull w => some (0x185, w)
  | .cbgiveFree w => some (0x186, w)
  | .qput w => some (0x187, w)
  | .qget w => some (0x188, w)
  | .bkt w => some (0x189, w)
  | .xcntRd w => some (0x18A, w)
  | .xcntClr w => some (0x18B, w)
  | .rng w => some (0x18C, w)
  | .spawn w => some (0x1C0, w)
  | .cond w => some (0x1C1, w)
  | .spawncT w => some (0x1C2, w)
  | .spawncF w => some (0x1C3, w)
  | .spawncTPred w => some (0x1C4, w)
  | .spawncFPred w => some (0x1C5, w)
  | .resolve w => some (0x1C6, w)
  | .lkset w => some (0x1C7, w)
  | .lkget w => some (0x1C8, w)
  | .segq w => some (0x1C9, w)
  | .trap w => some (0x200, w)
  | .tret w => some (0x201, w)
  | .srd w => some (0x202, w)
  | .swr w => some (0x203, w)
  | .uintr w => some (0x204, w)
  | .brk w => some (0x205, w)
  | .sig w => some (0x206, w)
  | .drop w => some (0x207, w)
  | .coldStart => none
  | .warmReset => none
  | .flrVf => none
  | .flrPf => none
  | .partitionReset => none
  | .dutyWindow => none
  | .thermalThrottle => none
  | .thermalTrip => none
  | .eolUpdate => none
  | .hostLinkTrain => none
  | .portRetrain => none
  | .flitChkMismatch => none
  | .flitUnlistedKind => none
  | .ack _ _ => none
  | .replay _ _ => none
  | .credit _ _ => none
  | .rd _ _ => none
  | .rdr _ _ => none
  | .wr _ _ => none
  | .wra _ _ => none
  | .peerStep _ _ => none
  | .stepa _ _ => none
  | .cell _ _ => none
  | .cella _ _ => none
  | .ackTimer => none
  | .requestTimeout => none
  | .queueCreate => none
  | .doorbell => none
  | .queueResume => none
  | .slotGrant => none
  | .nopPacket _ => none
  | .launch _ => none
  | .graph _ => none
  | .wait _ => none
  | .signal _ => none
  | .callib _ => none
  | .fencePacket _ => none
  | .writeimm _ => none
  | .ckpt _ => none
  | .ckptRestore _ => none
  | .unknownPacket _ => none
  | .waitRereadExpiry => none
  | .completionWaitExpiry => none
  | .launchComplete => none
  | .dvRfetch _ => none
  | .dvBfx _ => none
  | .dvSwait _ => none
  | .dvDisp _ => none
  | .hostWaitRegister => none
  | .hostWaitWithdraw => none
  | .atomicopCompletion => none
  | .atomicopTimeout => none
  | .hostLoss => none
  | .hostMemoryWrite => none
  | .ckptCopyComplete => none
  | .ckptRestoreComplete => none
  | .tbaseWrite => none
  | .tlbInvalidate => none
  | .invalidateComplete => none
  | .partitionCommit => none
  | .bindingWrite => none
  | .errorBankClear => none
  | .registerWrite => none
  | .debugHalt => none
  | .debugRead => none
  | .debugWrite => none
  | .debugResume => none
  | .debugStep => none
  | .finalise => none
  | .hostLossStatus => none
  | .hostLossReplay => none
  | .hostLossDrop => none
  | .spdmSession => none
  | .quiescePartitions => none
  | .getMeasurements => none
  | .imageUpdate => none
  | .glitchDetect => none
  | .tamperBreak => none
  | .debugUnlock => none
  | .placement => none
  | .slotArbitration => none
  | .resultReturn => none
  | .spillComplete => none
  | .refillComplete => none
  | .owlExpiry => none
  | .spawnEntryArrival => none
  | .deal => none
  | .resolutionApply => none
  | .commitDrain => none
  | .backEdge => none
  | .laneRetire => none
  | .laneRebuild => none
  | .pageService => none
  | .storeDrain => none
  | .relApply => none
  | .acqApply => none
  | .bindRegister => none
  | .announceStep => none
  | .barArrival => none
  | .recordCancel => none
  | .copyComplete => none
  | .windowFillEnd => none
  | .jobComplete => none
  | .gmmaSliceDone => none
  | .acdrainAdd => none
  | .trapEntry => none
  | .lossOfModulePower => none
  | .hostCompletionTimeOut => none
  | .encodingNotInstruction _ _ => none

/-- Word 0 (R247). -/
def word0Of (opc : Nat) (w : CoreWords) : Word :=
  w.b ++ w.a ++ w.d ++ w.p ++ BitVec.ofNat 10 opc ++ BitVec.ofBool w.rb ++ BitVec.ofBool w.sw ++
    BitVec.ofBool w.ext.isSome ++ BitVec.ofBool w.lit.isSome

/-- Word 1 (R248). -/
def word1Of (x : ExtWords) : Word :=
  (0 : BitVec 2) ++ x.ord ++ x.fmt ++ BitVec.ofBool x.sat ++ x.rnd ++ BitVec.ofBool x.pinv ++ x.pq ++
    BitVec.ofBool x.px ++ x.lr ++ x.c ++ BitVec.ofBool x.bh ++ BitVec.ofBool x.ah ++ BitVec.ofBool x.dh

/-- The words of a core instruction, in order (R246). -/
def coreWordsOf (opc : Nat) (w : CoreWords) : List Word :=
  word0Of opc w ::
    ((match w.ext with
      | none => []
      | some x => [word1Of x, x.w2]) ++
     (match w.lit with
      | none => []
      | some l => [l.extractLsb' 0 32, l.extractLsb' 32 32]))

/-- The word of a command-processor instruction (R46). -/
def dvWordOf (funct3 : BitVec 3) (w : DvWord) : Word :=
  (0 : BitVec 5) ++ w.cond ++ w.rs2 ++ w.rs1 ++ funct3 ++ w.rd ++ (0b0001011 : BitVec 7)

/-- The words of an instruction; the steps of the device that no word encodes have none. -/
def encode (i : Instr) : List Word :=
  match i.core with
  | some (opc, w) => coreWordsOf opc w
  | none =>
    match i with
    | .dvRfetch w => [dvWordOf 0 w]
    | .dvBfx w => [dvWordOf 1 w]
    | .dvSwait w => [dvWordOf 2 w]
    | .dvDisp w => [dvWordOf 3 w]
    | _ => []

/-- Decode the words of an instruction of a core or of a command processor: the word of a `dv.*` instruction is
refused by the core decoder (its LEN is 11, and no source names the literal). -/
def decode (ws : List Word) : Option Instr :=
  match decodeCore ws with
  | .instr i => some i
  | _ => match ws with
    | w0 :: _ => decodeDv w0
    | [] => none

/-- The instruction that the decoder reads from the bits `w` of an opcode-table row of `nbits` bits: the words of the
instruction, least significant first, padded with zero words up to the longest instruction. -/
def decodeTableWord (nbits w : Nat) : Option Instr :=
  let n := w % 2 ^ nbits
  let bs : List (BitVec 8) := (List.range 20).map (fun i => BitVec.ofNat 8 (n >>> (8 * i)))
  decode (wordsOfBytes bs)

end Sys2Proof
end

