-- ==== Sys2Proof/Machine/State.lean ====
section
/-!
DEFINITION. The state of the BX960 module, its stops and its state after reset. INVENTORY.md lists each field with the
rule that names it and its reset value.
-/
namespace Sys2Proof.Machine

/-- The machine never stops: a fault of the spec is a trap, a kill or a status, and the machine goes on. -/
inductive Fault where
  deriving DecidableEq, Repr

/-- Why an instruction has no meaning here. -/
inductive Refusal where
  /-- Raised by `exec` for an instruction that the model does not give a meaning yet. Safe: nothing is claimed. -/
  | notModelled (mnemonic : String)
  /-- Raised by the meaning of a core or command-processor instruction when no issuer stands in `State.cur`: an
  instruction is executed only by the party that `step` has recorded there. Safe: `step` never does it. -/
  | noIssuer
  deriving DecidableEq, Repr

/-- The module. -/
structure State where
  /-- The model's own fields: the steps that come next, the counter of steps (applied to the free values of Config),
  the input of the step of the table being executed, and the party whose instruction is being executed. -/
  agenda : List Turn
  tick : Nat
  args : StepArgs
  cur : Option Issuer
  /-- Device, scratch, host and peer memory as bytes (R142, R147), and the ordering machine's word orders (R167). -/
  mem : List Host.Cell
  orders : List WordOrder
  /-- Words for which an invariant load has been broken (R184). -/
  invBroken : List Nat
  /-- Publish entries and bindings of sync objects (R175, R316); announcement records (R317) and lists (R318). -/
  pubs : List Publish
  binds : List Binding
  recs : List AnnRec
  lists : List ObjList
  /-- Hands, with the next key; cores and clusters that are not in their reset state. -/
  hands : List Hand
  nextHand : Nat
  cores : List (Nat × Core)
  clusters : List (Nat × Cluster)
  /-- Copies, with the next number of a copy or fill, lines that peers failed to deliver, views of filled slots, jobs of the
  queue engines. -/
  copies : List Copy
  nextCopy : Nat
  lineFails : List (Nat × Nat)
  slotViews : List SlotView
  jobs : List Job
  /-- Views of the copies that byte-counting barriers have counted (R165): the barrier, the phase, the view. -/
  bbarViews : List (Nat × BitVec 16 × View)
  /-- The four dies (R1). -/
  dies : List Die
  /-- Launches, the next launch id (R47), range states (R79), resolutions under way (R96), retained blocks (R211). -/
  launches : List Launch
  nextLid : Word
  ranges : List RangeState
  nextRange : Nat
  resolutions : List Resolution
  retained : List Retained
  /-- What the names of the hands of completed launches held at the end (R402): launch, hand, map. -/
  lastRegs : List (Word × Nat × List MapEntry) := []
  /-- Front end: queues, running graphs, command processors, the wait-and-wake table (R50). -/
  queues : List Queue
  graphs : List Graph
  nextGraph : Nat
  heldAdds : List HeldAdd
  heldItems : List HeldItem
  cps : List Cp
  wake : List WakeEntry
  /-- Reads of the front end that lie in peers (R155). -/
  frontReads : List FrontRead := []
  /-- Translations held by the TLBs (R150), page requests (R153), pages refused to the front end and not yet reported
  (R49), peer windows (R155): index and device. -/
  tlb : List TlbEntry
  pageReqs : List PageReq
  refusals : List (BitVec 16 × Nat)
  peerWin : List (Nat × BitVec 16)
  /-- Messages of peers that wait for a page (R24), and cancels still to be sent to peers' homes (R210): object and ticket. -/
  cellWaits : List CellWait
  peerCancels : List PeerCancel
  /-- Bind-table entries of launches being dispatched that lie at peers' homes (R175). -/
  tableBinds : List TableBind
  /-- Bind-table entries that a peer has answered for a waiting `bind` (R316): the hand, the location, and whether the data came. -/
  entryReads : List (Nat × Nat × Bool)
  /-- Partitions 0 to 15 (R63), functions (R62, R64, R67), translation registers (R65), mailboxes of the physical
  function (R66). -/
  parts : List Part
  funcs : List Func
  trans : Trans
  debugBox : Mailbox
  lossBox : Mailbox
  devNum : BitVec 16
  /-- Choices of intermediate dies (R11). -/
  routes : List Route
  /-- Peer ports (R20) and outstanding peer requests (R24), the next TAG, the host link (R17, R55). -/
  ports : List Port
  reqs : List PeerReq
  nextTag : Nat
  hostLink : HostLink
  /-- What the host has written and acquired, and what each peer has written here (R185); the latest read of a BAR (R62). -/
  hostView : View
  peerViews : List (Nat × View)
  barReply : DWord
  /-- Outstanding AtomicOps of the proxy (R53): record number. -/
  atomics : List Nat
  /-- Error banks of the 32 clusters and the 64 slices (R222). -/
  cluBanks : List Bank
  sliceBanks : List Bank
  /-- Management and security state, the running checkpoint (R57), the vault ports that are up (R25), the vault's bytes (R59), and
  what the checkpoints written so far hold. -/
  mgmt : Mgmt
  /-- The PLDM sensors (R16): 0 to 31 the junctions by cluster, 32 to 63 the DRAM layers by die, 64 to 71 voltage and current of
  VDDC, VDDM, VDDIO and VAUX, 72 and 73 coolant inlet and outlet, 74 flow. Resets that are pending (R30). -/
  sensors : List Sensor
  pendResets : List ResetReq
  ckpt : Option Ckpt
  vaultUp : BitVec 2
  vault : List Host.Cell
  snapshots : List Snapshot
  deriving DecidableEq, Repr

/-! ## Reset values -/

/-- A free register: 0, RAW32, no poison. -/
def GReg.zero : GReg := { value := List.replicate 32 0, tag := 0, poison := 0 }

/-- An h register at the creation of a hand: 0, RAW32, no poison (log 1). -/
def HReg.zero : HReg := { value := 0, tag := 0, poison := 0 }

/-- The uniform file of a new hand (R70): k registers 0x8000, c registers hold no token (log 2). -/
def Uniform.init : Uniform :=
  { h := List.replicate 32 HReg.zero, k := List.replicate 8 0x8000, c := List.replicate 16 0xFFFFFFFF }

/-- An idle issue slot. -/
def Slot.init : Slot :=
  { hand := none, count := 0, second := none, ending := false, fate := .plain, winOwner := none,
    retired := none, rebuild := false, corrections := List.replicate 32 0 }

/-- A tile that is not configured (R349, log 4). -/
def Tile.init : Tile := { tsh := 0, data := [], micro := [], band := [], check := [], bad := [], hit := [] }

/-- A core after reset. -/
def Core.init : Core :=
  { pool := [], slots := List.replicate 4 Slot.init, hands := List.replicate 16 none, vacant := [],
    tiles := List.replicate 16 Tile.init, acc := [], chk := [], accBad := [], cbd := List.replicate 8 0, work := [],
    cyc := 0, forced := 0, grants := 0, allocs := [] }

/-- A cluster after reset: no window bound. -/
def Cluster.init : Cluster := { windows := [] }

/-- A die after reset (duty: log 20, predicted end of life: log 21). -/
def Die.init : Die :=
  { duty := 16, fslots := List.replicate 64 none, fgrants := 0, nodes := [], succ := [], tokens := [], deck := [],
    nextSeq := 1, predictor := [], magpie := [], magSeq := 0, eol := 240 }

/-- A command processor after reset (log 22). -/
def Cp.init : Cp :=
  { x := List.replicate 32 0, pc := 0, mode := 3, mepc := 0, mcause := 0, mtval := 0, mtvec := 0, mstatus := 0,
    word := 0, slot := 0 }

/-- A partition configuration block at its reset values (R63). -/
def PartCfg.init : PartCfg :=
  { clusters := 0, en := false, dbg := false, specsz := 0, specreg := 2, barb := 0, cdt := 0, htab := 0, rlrbase := 0,
    rlrblk := 0, dirty := 0 }

def Part.init : Part :=
  { cfg := PartCfg.init, staged := PartCfg.init, status := 0, head := none, back := 0, reserve := false, xcnt := [],
    quiesced := false }

def Mailbox.init : Mailbox := { cmd := 0, busy := false, status := 0, args := [], res := [] }

def Func.init : Func :=
  { bind := 0, fin := Mailbox.init,
    wait := { key := 0, asid := 0, line := 0, withdraw := false, status := 0 }, msix := 0 }

/-- A trained peer port with its full credit (R24). -/
def Port.init : Port :=
  { up := true, seqTx := 0, seqRx := 0, retained := [], waiting := [], credit := 512, replayFails := 0, badKind := 0, sinceAck := 0,
    control := [], wire := [] }

def Bank.init : Bank :=
  { valid := false, ue := false, ovf := false, disc := false, unit := 0, synd := 0, cecnt := 0, loc := 0 }

/-- Security and management state after a cold start whose images are good. -/
def Mgmt.init : Mgmt :=
  { alarm := 0, glitches := 0, unlockFails := 0, versions := [0, 0, 0, 0], fuses := [0, 0, 0, 0], images := [0, 0, 0, 0],
    staged := [], measured := [0, 0, 0, 0, 0], reply := [], kekGen := 1, kekPresent := true, flashKek := true, bringup := 6,
    perstHeld := false, heldReset := false, spdm := false, pldmEvents := 0 }

/-- The module right after reset: the cold start of R28 complete, nothing configured. -/
def State.reset : State :=
  { agenda := [], tick := 0, args := default, cur := none,
    mem := [], orders := [], invBroken := [],
    pubs := [], binds := [], recs := [], lists := [],
    hands := [], nextHand := 0, cores := [], clusters := [], copies := [], nextCopy := 0, lineFails := [], slotViews := [], jobs := [], bbarViews := [],
    dies := List.replicate 4 Die.init,
    launches := [], nextLid := 1, ranges := [], nextRange := 0, resolutions := [], retained := [],
    queues := [], graphs := [], nextGraph := 0, heldAdds := [], heldItems := [], cps := (List.range 16).map (fun n => { Cp.init with slot := n % 4 }), wake := [],
    tlb := [], pageReqs := [], refusals := [], peerWin := [], cellWaits := [], peerCancels := [], tableBinds := [], entryReads := [],
    parts := List.replicate 16 Part.init, funcs := List.replicate 64 Func.init,
    trans := { en := false, tbase := 0, iva := 0, ictl := 0, done := true },
    debugBox := Mailbox.init, lossBox := Mailbox.init, devNum := 0,
    routes := [], ports := List.replicate 18 Port.init, reqs := [], nextTag := 0,
    hostLink := { rate := 640, width := 16, up := true, lost := false, timeouts := 0, parked := [], dropped := 0,
                  choice := none, heldWrites := [] },
    hostView := [], peerViews := [], barReply := 0,
    atomics := [],
    cluBanks := List.replicate 32 Bank.init, sliceBanks := List.replicate 64 Bank.init,
    mgmt := Mgmt.init, sensors := List.replicate 75 { value := 0, samples := 0 }, pendResets := [], ckpt := none, vaultUp := 3, vault := [], snapshots := [] }

end Sys2Proof.Machine
end

