-- ==== Sys2Proof/Machine/Mem.lean ====
section
/-!
DEFINITION. Memory: bytes in canonical form, locations (spec/06 R142 to R148), views and word orders (spec/07 R166 to
R173), translation (R149 to R155).
-/
namespace Sys2Proof.Machine

/-! ## Bytes in canonical form -/

/-- What an address that memory does not list reads as (log 3). -/
def unlistedByte : BitVec 8 := 0

/-- The byte at an address. -/
def readCell : List Host.Cell → Nat → BitVec 8
  | [], _ => unlistedByte
  | (k, v) :: m, a => if k = a then v else readCell m a

/-- Write a byte, keeping the form: ascending addresses, no entry equal to an unlisted byte. -/
def writeCell (a : Nat) (b : BitVec 8) : List Host.Cell → List Host.Cell
  | [] => if b = unlistedByte then [] else [(a, b)]
  | (k, v) :: m =>
    if a < k then (if b = unlistedByte then (k, v) :: m else (a, b) :: (k, v) :: m)
    else if a = k then (if b = unlistedByte then m else (a, b) :: m)
    else (k, v) :: writeCell a b m

/-- Canonical form: every address is above `lo`, addresses rise, and no entry reads as an unlisted byte. -/
def cellsWf (lo : Nat) : List Host.Cell → Bool
  | [] => true
  | (k, v) :: m => lo ≤ k && v != unlistedByte && cellsWf (k + 1) m

/-- The canonical form of memory. -/
def Memory.wf (m : List Host.Cell) : Bool := cellsWf 0 m

/-- Write consecutive bytes. -/
def writeCells (a : Nat) : List (BitVec 8) → List Host.Cell → List Host.Cell
  | [], m => m
  | b :: bs, m => writeCells (a + 1) bs (writeCell a b m)

/-- `n` consecutive bytes. -/
def readCells (m : List Host.Cell) (a : Nat) : Nat → List (BitVec 8)
  | 0 => []
  | n + 1 => readCell m a :: readCells m (a + 1) n

/-- The number whose little-endian bytes are given (R4). -/
def leNat : List (BitVec 8) → Nat
  | [] => 0
  | b :: bs => b.toNat + 256 * leNat bs

/-- The `n` little-endian bytes of a number. -/
def leBytes (v : Nat) : Nat → List (BitVec 8)
  | 0 => []
  | n + 1 => BitVec.ofNat 8 v :: leBytes (v / 256) n

/-- The value of `n` bytes of memory at an address. -/
def readN (m : List Host.Cell) (a n : Nat) : Nat := leNat (readCells m a n)

/-- The 8-byte word at an address. -/
def readWord (m : List Host.Cell) (a : Nat) : DWord := BitVec.ofNat 64 (readN m a 8)

/-- Put the masked bytes of `data` over `old` (R166). -/
def mergeBytes (mask : BitVec 8) (data old : DWord) : DWord :=
  (List.range 8).foldl (fun acc i =>
    let byte := if mask.getLsbD i then data.extractLsb' (8 * i) 8 else old.extractLsb' (8 * i) 8
    acc ||| (byte.zeroExtend 64 <<< (8 * i))) 0

/-! ## Locations

A location is one number: a device physical address below 2^57; a scratch byte at 2^60 + 2^20 × core + offset, with the
cores of the device numbered 32 × cluster + core; a bus address of host memory above 2^64; a byte of a peer device's
memory above 2^66 + 2^64 × device. -/

def scratchLoc (core off : Nat) : Nat := 2 ^ 60 + core * 2 ^ 20 + off
def hostLoc (bus : Nat) : Nat := 2 ^ 64 + bus
def peerLoc (dev pa : Nat) : Nat := 2 ^ 66 + dev * 2 ^ 64 + pa

/-- Where a location lies. -/
inductive Space where
  | device | scratch | host | peer
  deriving DecidableEq, Repr

def spaceOf (loc : Nat) : Space :=
  if loc < 2 ^ 60 then .device else if loc < 2 ^ 64 then .scratch else if loc < 2 ^ 65 then .host else .peer

/-- The core of a scratch location. -/
def scratchCore (loc : Nat) : Nat := (loc - 2 ^ 60) / 2 ^ 20

/-- The peer device of a peer location, and the physical address in it. -/
def peerDev (loc : Nat) : Nat := (loc - 2 ^ 66) / 2 ^ 64
def peerAddr (loc : Nat) : Nat := (loc - 2 ^ 66) % 2 ^ 64

/-- Device memory exists at a physical address (R147). -/
def deviceExists (pa : Nat) : Bool := pa / 2 ^ 37 < 4 && pa % 2 ^ 37 < 96 * 2 ^ 30

/-- The home of a location (R147, R148): slice 0 to 63, the host-link proxy 64, or 128 + device for peer memory. -/
def homeOf (loc : Nat) : Nat :=
  match spaceOf loc with
  | .device => 16 * bits loc 37 2 + bits loc 16 4
  | .scratch => 65
  | .host => 64
  | .peer => 128 + peerDev loc

/-- The naturally aligned word of a location (R166). -/
def wordOf (loc : Nat) : Nat := loc - loc % 8

/-- The byte of a cluster address seen from a cluster (R145); `none` when a "zero" bit is set. -/
def clusterLoc (cluster ca : Nat) : Option Nat :=
  if bits ca 29 3 ≠ 0 ∨ bits ca 19 5 ≠ 0 ∨ ca ≥ 2 ^ 32 then none
  else some (scratchLoc (cluster * 32 + bits ca 24 5) (bits ca 0 19))

/-! ## Views (R167) -/

/-- The index of a word; a word that a view does not list is at its initial write. -/
def View.get : View → Nat → Nat
  | [], _ => 0
  | (k, i) :: v, w => if k = w then i else View.get v w

/-- Raise the index of a word. -/
def View.raise (w i : Nat) : View → View
  | [] => if i = 0 then [] else [(w, i)]
  | (k, j) :: v =>
    if w < k then (if i = 0 then (k, j) :: v else (w, i) :: (k, j) :: v)
    else if w = k then (k, max i j) :: v
    else (k, j) :: View.raise w i v

/-- The join of two views takes the larger index of each word (R173). -/
def View.join (a b : View) : View := b.foldl (fun v (w, i) => View.raise w i v) a

/-- The part of a view on words of regions, given as location intervals (R176). -/
def View.restrict (v : View) (regions : List (Nat × Nat)) : View :=
  v.filter (fun (w, _) => regions.any (fun (lo, len) => lo ≤ w && w < lo + len))

/-! ## Word orders -/

/-- A party of no place, for the initial writes and for drained stores of no party (R180). -/
def Party.nobody : Party := { external := true, die := 0, cluster := 0, core := 0, hand := none }

/-- The initial write of a word: what memory holds before any write of its order. -/
def initialWrite (m : List Host.Cell) (w : Nat) : WriteRec :=
  { value := readWord m w, bad := false, msg := [], scope := 0, writer := Party.nobody }

/-- The order of a word (R167). -/
def State.order (s : State) (w : Nat) : List WriteRec :=
  match s.orders.find? (fun o => o.word = w) with
  | some o => o.writes
  | none => [initialWrite s.mem w]

/-- Index of the last write in a word's order. -/
def State.lastIdx (s : State) (w : Nat) : Nat := (s.order w).length - 1

/-- A write of a word's order; an index past the end names the last write. -/
def State.writeAt (s : State) (w i : Nat) : WriteRec :=
  let o := s.order w
  o.getD (min i (o.length - 1)) default

/-- The last write of a word. -/
def State.lastWrite (s : State) (w : Nat) : WriteRec := s.writeAt w (s.lastIdx w)

/-- Put a word's order in place. -/
def setOrder (w : Nat) (ws : List WriteRec) (os : List WordOrder) : List WordOrder :=
  { word := w, writes := ws } :: os.filter (fun o => o.word ≠ w)

/-- Append a write to a word's order at its home (R168, R171): masked bytes replace the last write's. A full write
makes an uncorrectable word good again, a partial one leaves it uncorrectable (R412). -/
def State.appendWrite (s : State) (w : Nat) (mask : BitVec 8) (data : DWord) (msg : View) (scope : BitVec 3)
    (writer : Party) : State :=
  let o := s.order w
  let last := s.lastWrite w
  let v := mergeBytes mask data last.value
  let r : WriteRec := { value := v, bad := last.bad && mask ≠ 0xFF, marked := last.marked && mask ≠ 0xFF, msg := msg, scope := scope, writer := writer }
  { s with orders := setOrder w (o ++ [r]) s.orders, mem := writeCells w (leBytes v.toNat 8) s.mem }

/-- Mark a word uncorrectable, whichever write a load chooses (R163, R412). -/
def State.markBad (s : State) (w : Nat) : State :=
  { s with orders := setOrder w ((s.order w).map (fun r => { r with bad := true, marked := false })) s.orders }

/-- A copy that failed marks a word uncorrectable (R163). -/
def State.markCopied (s : State) (w : Nat) : State :=
  { s with orders := setOrder w ((s.order w).map (fun r => { r with bad := true, marked := true })) s.orders }

/-- The word's data is uncorrectable as last written. -/
def State.isBad (s : State) (w : Nat) : Bool := (s.lastWrite w).bad

/-- Bytes `a` to `a + n - 1` that lie in the word `w`, as a mask. -/
def maskIn (a n w : Nat) : BitVec 8 :=
  (List.range 8).foldl (fun m i => if a ≤ w + i && w + i < a + n then m ||| (1 <<< i) else m) 0

/-- The words that `n` bytes at `a` touch, ascending. -/
def wordsOf (a n : Nat) : List Nat :=
  if n = 0 then [] else (List.range ((a + n - 1) / 8 - a / 8 + 1)).map (fun i => 8 * (a / 8 + i))

/-- Write bytes as one access per word (R166), by a party, with an empty message (R180, R181). -/
def State.writeBytes (s : State) (a : Nat) (bs : List (BitVec 8)) (writer : Party) : State :=
  (wordsOf a bs.length).foldl (fun s w =>
    let data := (List.range 8).foldl (fun acc i =>
      if a ≤ w + i then acc ||| ((bs.getD (w + i - a) 0).zeroExtend 64 <<< (8 * i)) else acc) (0 : DWord)
    s.appendWrite w (maskIn a bs.length w) data [] 0 writer) s

/-- The bytes of memory as last written. -/
def State.readBytes (s : State) (a n : Nat) : List (BitVec 8) := readCells s.mem a n

/-- Some word under the bytes is uncorrectable. -/
def State.badRange (s : State) (a n : Nat) : Bool := (wordsOf a n).any s.isBad

/-- The view in which every word is at its last write (R169). -/
def State.nowView (s : State) : View := s.orders.foldl (fun v o => View.raise o.word (o.writes.length - 1) v) []

/-- A view raised to the last write of every word under some bytes. -/
def State.viewOver (s : State) (a n : Nat) (v : View) : View :=
  (wordsOf a n).foldl (fun v w => View.raise w (s.lastIdx w) v) v

/-- Two parties lie within a scope (R172). -/
def within (scope : BitVec 3) (p q : Party) : Bool :=
  match scope.toNat with
  | 1 => !p.external && !q.external && p.hand.isSome && p.hand == q.hand
  | 2 => !p.external && !q.external && p.cluster == q.cluster
  | 3 => !p.external && !q.external && p.die == q.die
  | 4 => !p.external && !q.external
  | 5 => true
  | _ => false

/-- The narrower of two scopes; none when either is none. -/
def narrower (a b : BitVec 3) : BitVec 3 := if a.toNat ≤ b.toNat then a else b

/-! ## Translation -/

/-- Access kinds (R152). -/
inductive Access where
  | read | write | fetch
  deriving DecidableEq, Repr

/-- What a translation gives: a location with the entry that maps it, PROT, or PAGE with the slice that serves it and
the address of the invalid entry (R153). -/
inductive Xlat where
  | ok (loc : Nat) (e : TlbEntry)
  | prot
  | page (home entry : Nat)
  deriving DecidableEq, Repr

/-- Canonical form (R149): bits [63:57] equal bit 56. -/
def canonical (va : DWord) : Bool :=
  let top := va.toNat / 2 ^ 56
  top == 0 || top == 255

/-- The 57 bits that a walk uses. -/
def vaBits (va : DWord) : Nat := va.toNat % 2 ^ 57

/-- Index of a virtual address at a walk level, and the number of address bits below it (R151). -/
def levelIndex (va level : Nat) : Nat :=
  match level with
  | 0 => bits va 46 11
  | 1 => bits va 37 9
  | 2 => bits va 28 9
  | 3 => bits va 21 7
  | _ => bits va 16 5

def pageBits (level : Nat) : Nat :=
  match level with
  | 2 => 28
  | 3 => 21
  | _ => 16

/-- What a walk finds: a leaf at a level, an invalid entry at an address, or a malformed table. -/
inductive Walk where
  | leaf (level : Nat) (e : DWord)
  | invalid (addr : Nat) (e : DWord)
  | bad
  deriving DecidableEq, Repr

/-- Walk from the table at `base` at level `5 - fuel` (R151, R152). -/
def walkFrom (m : List Host.Cell) (va : Nat) : Nat → Nat → Walk
  | 0, _ => .bad
  | fuel + 1, base =>
    let level := 4 - fuel
    let addr := base + 8 * levelIndex va level
    let e := readWord m addr
    let n := e.toNat
    if n % 2 = 0 then .invalid addr e
    else if bits n 1 1 = 1 then
      if level < 2 ∨ bits n 8 8 ≠ 0 then .bad else .leaf level e
    else if level = 4 ∨ bits n 2 10 ≠ 0 ∨ bits n 56 8 ≠ 0 then .bad
    else walkFrom m va fuel (bits n 12 44 * 2 ^ 12)

/-- The walk of an address under an ASID (R151); an invalid or malformed ASID entry, or EN 0, is PROT. -/
def State.walk (s : State) (asid : BitVec 16) (va : Nat) : Walk :=
  if !s.trans.en then .bad
  else
    let e := (readWord s.mem (s.trans.tbase.toNat + 8 * asid.toNat)).toNat
    if e % 2 = 0 ∨ bits e 1 13 ≠ 0 ∨ bits e 56 8 ≠ 0 then .bad
    else walkFrom s.mem va 5 (bits e 14 42 * 2 ^ 14)

/-- Place the page that a leaf maps; `none` is PROT (R147, R152, R155). -/
def State.leafLoc (s : State) (level : Nat) (leaf : DWord) (va : Nat) : Option Nat :=
  let n := leaf.toNat
  let base := bits n 16 40 * 2 ^ 16
  let off := va % 2 ^ pageBits level
  if base % 2 ^ pageBits level ≠ 0 then none
  else match bits n 5 2 with
    | 0 => if bits n 56 8 ≠ 0 ∨ !deviceExists (base + off) then none else some (base + off)
    | 1 => (s.peerWin.find? (fun p => p.1 = bits n 56 8)).map (fun p => peerLoc p.2.toNat (base + off))
    | 2 => if bits n 56 8 ≠ 0 then none else some (hostLoc (base + off))
    | _ => none

/-- A leaf permits an access (R152, R153). -/
def leafPermits (leaf : DWord) : Access → Bool
  | .read => true
  | .write => leaf.getLsbD 2
  | .fetch => leaf.getLsbD 3

/-- The TLB that the party whose instruction is being executed looks into first (R150). -/
def State.unit (s : State) : Nat :=
  match s.cur with
  | some (.split i) => i.core
  | some (.cp n) => 2048 + n / 4
  | some (.front d) => 2048 + d
  | none => 2048

/-- The TLBs that a party looks into, in order: a core's micro-TLB, its cluster's and its die's, or a die's alone (R150, log 93). -/
def tlbSites (who : Nat) : List Nat := if who < 1024 then [who, 1024 + who / 32, 2048 + who / 256] else [who]

/-- Entries that a TLB holds (R150). -/
def tlbCapacity (site : Nat) : Nat := if site < 1024 then 64 else if site < 2048 then 1024 else 3072

/-- A TLB's entry translates an address under an ASID. -/
def TlbEntry.covers (e : TlbEntry) (site : Nat) (asid : BitVec 16) (va : Nat) : Bool :=
  e.site = site && e.asid == asid && e.va / 2 ^ pageBits e.level == va / 2 ^ pageBits e.level

/-- The translation that a party's TLBs hold for an address (R150). -/
def State.tlbFind (s : State) (who : Nat) (asid : BitVec 16) (va : Nat) : Option TlbEntry :=
  (tlbSites who).findSome? (fun k => s.tlb.find? (fun e => e.covers k asid va))

/-- Translate a virtual address for an access (R149 to R155). A translation that the party's TLBs hold is used until an
invalidation has cleared it (R154). -/
def State.translate (s : State) (asid : BitVec 16) (va : DWord) (acc : Access) (who : Nat := s.unit) : Xlat :=
  if !canonical va then .prot
  else
    let v := vaBits va
    let use (e : TlbEntry) : Xlat :=
      if !leafPermits e.leaf acc then .prot
      else match s.leafLoc e.level e.leaf v with
        | some loc => .ok loc { e with site := who }
        | none => .prot
    match s.tlbFind who asid v with
    | some e => use e
    | none =>
      match s.walk asid v with
      | .leaf level e => use { site := who, asid := asid, va := v, level := level, leaf := e }
      | .invalid addr e => if e.getLsbD 7 then .page (bits e.toNat 8 6) addr else .prot
      | .bad => .prot

/-- Enter a translation into one TLB; a full one gives up a free entry (log 93). -/
def tlbEnter (pick site : Nat) (e : TlbEntry) (tlb : List TlbEntry) : List TlbEntry :=
  if tlb.any (fun x => x.covers site e.asid e.va) then tlb
  else
    let mine := tlb.filter (fun x => x.site = site)
    let tlb := if mine.length < tlbCapacity site then tlb else tlb.erase (mine.getD (pick % mine.length) default)
    { e with site := site } :: tlb

/-- Enter a translation into the TLBs of the party that it was made for. -/
def State.tlbAdd (s : State) (e : TlbEntry) : State :=
  { s with tlb := (tlbSites e.site).foldl (fun tlb k => tlbEnter (Config.freeWord s.tick).toNat k e tlb) s.tlb }

/-- The location of a virtual address, when an access to it is permitted at once. -/
def State.locOf (s : State) (asid : BitVec 16) (va : DWord) (acc : Access) (who : Nat := s.unit) : Option Nat :=
  match s.translate asid va acc who with
  | .ok loc _ => some loc
  | _ => none

/-- Send a page service request of a party, unless one for the page is outstanding (R49, R153). -/
def State.requestPage (s : State) (sender : Nat) (asid : BitVec 16) (va : DWord) (home entry : Nat) : State :=
  let page := vaBits va / 2 ^ 16
  if s.pageReqs.any (fun r => r.asid = asid && r.page == page) then s
  else { s with pageReqs := s.pageReqs ++ [{ asid := asid, page := page, home := home, entry := entry, front := false, sender := sender }] }

end Sys2Proof.Machine
end

