-- ==== Sys2Proof/Machine/Regs.lean ====
section
/-!
DEFINITION. Cores, hands and their registers: lookups, reading a name with the results that are outstanding for it
(spec/05 R119 to R133), writing, allocating, freeing and rotating names (R126 to R130, R137), the uniform and predicate
files (R114, R118, R124).
-/
namespace Sys2Proof.Machine

/-! ## Lookups -/

/-- The entry of a key in a sparse list. -/
def lookupD {α : Type} (k : Nat) (d : α) : List (Nat × α) → α
  | [] => d
  | (j, x) :: l => if j = k then x else lookupD k d l

/-- Set the entry of a key in a sparse list. -/
def insertK {α : Type} (k : Nat) (x : α) : List (Nat × α) → List (Nat × α)
  | [] => [(k, x)]
  | (j, y) :: l => if j = k then (k, x) :: l else (j, y) :: insertK k x l

/-- Change the elements that satisfy a test. -/
def updWhere {α : Type} (p : α → Bool) (f : α → α) (l : List α) : List α := l.map (fun x => if p x then f x else x)

/-- Change the element at an index. -/
def updAt {α : Type} (f : α → α) : Nat → List α → List α
  | _, [] => []
  | 0, x :: l => f x :: l
  | n + 1, x :: l => x :: updAt f n l

/-- Change the element at an index of a register file of `n` registers, each `d` where the list has none. -/
def putAt {α : Type} (n : Nat) (d : α) (f : α → α) (i : Nat) (l : List α) : List α :=
  (List.range n).map (fun j => if j = i then f (l.getD j d) else l.getD j d)

/-- The hand of a key. -/
def State.hand? (s : State) (k : Nat) : Option Hand := s.hands.find? (fun h => h.key = k)
def State.hand (s : State) (k : Nat) : Hand := (s.hand? k).getD default

/-- Put a hand back under its key. -/
def State.setHand (s : State) (h : Hand) : State := { s with hands := updWhere (fun x => x.key = h.key) (fun _ => h) s.hands }
def State.updHand (s : State) (k : Nat) (f : Hand → Hand) : State :=
  { s with hands := updWhere (fun x => x.key = k) f s.hands }

/-- The core of a number, 0 to 1,023 over the device. -/
def State.core (s : State) (c : Nat) : Core := lookupD c Core.init s.cores
def State.updCore (s : State) (c : Nat) (f : Core → Core) : State :=
  { s with cores := insertK c (f (s.core c)) s.cores }
def State.updSlot (s : State) (c k : Nat) (f : Slot → Slot) : State :=
  s.updCore c (fun x => { x with slots := putAt 4 Slot.init f k x.slots })
def State.slot (s : State) (c k : Nat) : Slot := (s.core c).slots.getD k Slot.init

def State.cluster (s : State) (c : Nat) : Cluster := lookupD c Cluster.init s.clusters
def State.updCluster (s : State) (c : Nat) (f : Cluster → Cluster) : State :=
  { s with clusters := insertK c (f (s.cluster c)) s.clusters }

def State.die (s : State) (d : Nat) : Die := s.dies.getD d Die.init
def State.updDie (s : State) (d : Nat) (f : Die → Die) : State := { s with dies := putAt 4 Die.init f d s.dies }

def State.part (s : State) (p : Nat) : Part := s.parts.getD p Part.init
def State.updPart (s : State) (p : Nat) (f : Part → Part) : State := { s with parts := putAt 16 Part.init f p s.parts }

def State.launch? (s : State) (l : Word) : Option Launch := s.launches.find? (fun x => x.lid = l)
def State.launch (s : State) (l : Word) : Launch := (s.launch? l).getD default
def State.updLaunch (s : State) (l : Word) (f : Launch → Launch) : State :=
  { s with launches := updWhere (fun x => x.lid = l) f s.launches }

/-- Cluster and die of a core (R1). -/
def coreCluster (c : Nat) : Nat := c / 32
def coreDie (c : Nat) : Nat := c / 256

/-! ## The joins of the dies (R11) -/

/-- Dies 0 and 3, and dies 1 and 2, lie diagonally; any other two dies are joined. -/
def diagonal (a b : Nat) : Bool := a + b == 3

/-- The choice that a die has made for a line. -/
def State.route? (s : State) (die line : Nat) : Option Route := s.routes.find? (fun r => r.die = die && r.line == line)

/-- The intermediate die that a die chooses for a line: one of the two that are joined to both. -/
def pickVia (die line : Nat) : Nat :=
  let (x, y) := if die == 0 || die == 3 then (1, 2) else (0, 3)
  if Config.viaPick (die * 2 ^ 64 + line) then x else y

/-- Traffic of a die for a location reaches another die. To the diagonal die it crosses the die that is chosen at the first request
to the 64-byte line, and the choice is kept. -/
def State.cross (s : State) (a b loc : Nat) : State :=
  let line := loc / 64
  if diagonal a b && (s.route? a line).isNone then { s with routes := s.routes ++ [{ die := a, line := line, via := pickVia a line }] }
  else s

/-- The dies that traffic of a die for a location passes on its way to another die, both ends included. -/
def State.diesOf (s : State) (a b loc : Nat) : List Nat :=
  if a = b then [a]
  else match (if diagonal a b then s.route? a (loc / 64) else none) with
    | some r => [a, r.via, b]
    | none => [a, b]

/-- Traffic of a die to the die that homes a location of device memory. -/
def State.crossHome (s : State) (a loc : Nat) : State := if spaceOf loc = .device then s.cross a (homeOf loc / 16) loc else s

/-- The party of a thread of a hand (R172). -/
def Hand.party (h : Hand) : Party :=
  { external := false, die := coreDie h.core, cluster := coreCluster h.core, core := h.core, hand := some h.key }

/-- The party of an engine at a cluster, or at a core (R172). -/
def clusterParty (c : Nat) : Party := { external := false, die := c / 8, cluster := c, core := 1024, hand := none }
def coreParty (c : Nat) : Party :=
  { external := false, die := coreDie c, cluster := coreCluster c, core := c, hand := none }

/-! ## Threads of a hand -/

/-- The threads that have not exited. -/
def Hand.live (h : Hand) : Lanes := ~~~h.exited

/-- The parked threads. -/
def Hand.parked (h : Hand) : Lanes := h.parks.foldl (fun m p => m ||| p.1) 0

/-- The hand is in trap mode (R195). -/
def Hand.inTrap (h : Hand) : Bool := h.trapMode != 0

/-- The threads held at the edge of a declared level (R136). -/
def Hand.edgeHeld (h : Hand) : Lanes := h.lc.foldl (fun m l => if l.valid then m ||| l.edge else m) 0

/-- The voting threads (R115, R195). -/
def Hand.voting (h : Hand) : Lanes :=
  if h.inTrap then h.trapMode &&& h.live &&& ~~~h.parked
  else h.live &&& ~~~h.parked &&& ~~~h.edgeHeld

/-- The PC of a thread; bits [1:0] are taken as 0 (R246). -/
def Hand.pcOf (h : Hand) (t : Nat) : DWord := h.pc.getD t 0 &&& ~~~3

/-- The depth of a thread (R130). -/
def Hand.depthOf (h : Hand) (t : Nat) : Nat := h.depth.getD t 0

/-- Threads of `m` that stand at a PC. -/
def Hand.at (h : Hand) (m : Lanes) (pc : DWord) : Lanes := Lanes.of (fun t => m.has t && h.pcOf t == pc)

/-- The lowest PC of the threads of `m`, compared unsigned (R115). -/
def Hand.lowestPc (h : Hand) (m : Lanes) : Option DWord :=
  m.list.foldl (fun best t =>
    match best with
    | none => some (h.pcOf t)
    | some p => if (h.pcOf t).toNat < p.toNat then some (h.pcOf t) else some p) none

/-! ## Names -/

/-- Where a thread's g name lies (R124, R130, R197): the shared map, the trap window, or the window of its depth. -/
def Hand.resolve (h : Hand) (t n : Nat) : Dst :=
  if n < 16 then .g none n
  else if h.trapMode.has t && n ≤ 31 then .trapG n
  else .g (some (h.depthOf t)) n

/-- A register lies in the pool. -/
def Loc.isPhys : Loc → Bool
  | .phys _ => true
  | .spill _ => false

/-- The mapping of a g name. -/
def Hand.mapping (h : Hand) (win : Option Nat) (n : Nat) : Option MapEntry :=
  h.map.find? (fun e => e.win = win && e.name == n)

/-- What one lane reads of a register: its word, the register's tag, and the lane's poison bit. -/
structure LaneRead where
  value : DWord
  tag : BitVec 4
  poison : Bool
  deriving DecidableEq, Repr, Inhabited

/-- An unmapped name (R125). -/
def LaneRead.zero : LaneRead := { value := 0, tag := 0, poison := false }

/-- The value that an outstanding result has brought to a lane of a destination, the latest in program order (R121). -/
def overlay (os : List Outst) (d : Dst) (t : Nat) : Option LaneRead :=
  os.foldl (fun acc o =>
    o.dsts.foldl (fun acc x =>
      if x.dst = d && o.back.has t && !x.skip.has t then
        match x.vals.find? (fun v => v.lane = t) with
        | some v => some { value := v.value, tag := if v.lost then 0xF else x.tag, poison := v.bad || x.tag == 0xF }
        | none => acc
      else acc) acc) none

/-- A lane of a physical register. -/
def GReg.lane (r : GReg) (t : Nat) : LaneRead :=
  { value := (r.value.getD t 0).zeroExtend 64, tag := r.tag, poison := r.poison.has t }

/-- A lane of a g register as it stands. -/
def Hand.regLane (h : Hand) (d : Dst) (t : Nat) : LaneRead :=
  match d with
  | .trapG n => ((h.trapWin.getD (n - 16) GReg.zero)).lane t
  | .g win n =>
    match h.mapping win n with
    | some e => if e.fresh then LaneRead.zero else e.reg.lane t
    | none => LaneRead.zero
  | _ => LaneRead.zero

/-- A read of destination `d` by lane `t` (R121). -/
def Hand.readDst (h : Hand) (d : Dst) (t : Nat) : LaneRead := (overlay h.outst d t).getD (h.regLane d t)

/-- A read of g name `n` by thread `t`, in the thread's own window. -/
def Hand.readG (h : Hand) (t n : Nat) : LaneRead := h.readDst (h.resolve t n) t

/-- A read of an h register by lane `t`: the uniform file as the cycle found it (R118), with results that have come
back to the lane (R121). -/
def Hand.readH (h : Hand) (uni : Uniform) (t n : Nat) : LaneRead :=
  (overlay h.outst (.h n) t).getD
    (let r := uni.h.getD n HReg.zero; { value := r.value, tag := r.tag, poison := r.poison.has t })

/-- A read of a predicate by lane `t`; q0 is true (R125). -/
def Hand.readQ (h : Hand) (t n : Nat) : Bool :=
  if n = 0 then true
  else match overlay h.outst (.q n) t with
    | some r => r.value != 0
    | none => (h.q.getD n 0).has t

/-- A read of a c register. -/
def Hand.readC (h : Hand) (uni : Uniform) (t n : Nat) : Word :=
  match overlay h.outst (.c n) t with
  | some r => r.value.setWidth 32
  | none => uni.c.getD n 0

/-! ## Writes -/

/-- Put lane values into a register: their words are stored afresh. -/
def GReg.put (r : GReg) (lanes : Lanes) (f : Nat → Word) (bad : Lanes) : GReg :=
  { r with value := allLanes.map (fun t => if lanes.has t then f t else r.value.getD t 0),
           poison := (r.poison &&& ~~~lanes) ||| (bad &&& lanes),
           err := r.err &&& ~~~lanes, soft := r.soft &&& ~~~lanes }

/-- What the Squirrel reads of a register: a lane whose word is uncorrectable is poisoned in the image (R220). -/
def GReg.image (r : GReg) : GReg := { r with poison := r.poison ||| r.err, err := 0, soft := 0 }

/-- The tag of a register after a write (R126, R132, R133): a full write takes the written tag; a partial write keeps
an equal tag, takes the written tag over POISON, is no different with tag POISON, and otherwise leaves MIXED. -/
def tagAfter (old new : BitVec 4) (full : Bool) : BitVec 4 :=
  if full || old == new || old == 0xF then new else if new == 0xF then old else 0xE

/-- Write lanes of a register with a tag. A write of tag POISON sets every poison bit. -/
def GReg.write (r : GReg) (lanes : Lanes) (f : Nat → Word) (bad : Lanes) (tag : BitVec 4) (full : Bool) : GReg :=
  let r' := r.put lanes f bad
  let tg := tagAfter r.tag tag full
  { r' with tag := tg, poison := if tg == 0xF then 0xFFFFFFFF else r'.poison }

/-- A physical register that is free: the lowest one (the spec gives no order of allocation). -/
def firstFree (pool : List PReg) : Nat → Nat → Option Nat
  | 0, _ => none
  | fuel + 1, i => if pool.any (fun p => p.idx = i) then firstFree pool fuel (i + 1) else some i

/-- The lowest free register of the 1,984 that are not the trap pool (R114). -/
def Core.freeReg (c : Core) : Option Nat := firstFree c.pool 1984 0

/-- The core's pool has `n` free registers. -/
def Core.hasFree (c : Core) (n : Nat) : Bool := c.pool.length + n ≤ 1984

/-- A write replaces what earlier results, still outstanding, would bring to the same lanes (R121). -/
def supersede (d : Dst) (lanes : Lanes) (os : List Outst) (tag : List (BitVec 4) := []) : List Outst :=
  os.map (fun o => { o with dsts := updWhere (fun x => x.dst = d) (fun x => { x with skip := x.skip ||| lanes, later := x.later ++ tag }) o.dsts })

/-- The active lanes of a write include every thread that has not exited (R126). -/
def Hand.coveredBy (h : Hand) (act : Lanes) : Bool := (h.live &&& ~~~act) == 0

/-- Write lanes of a g destination of a hand, mapping an unmapped name to the register `phys` (R126). A spilled name
that is written takes `phys` too; a full write of it leaves nothing of its image (R129). -/
def Hand.putG (h : Hand) (d : Dst) (lanes : Lanes) (f : Nat → Word) (bad : Lanes) (tag : BitVec 4) (full : Bool) (phys : Nat) : Hand :=
  match d with
  | .trapG n => { h with trapWin := putAt 16 GReg.zero (fun r => r.write lanes f bad tag full) (n - 16) h.trapWin }
  | .g win n =>
    match h.mapping win n with
    | none =>
      { h with map := h.map ++ [{ win := win, name := n, loc := .phys phys, fresh := false,
                                  reg := GReg.zero.write lanes f bad tag true }] }
    | some _ =>
      let place (l : Loc) : Loc := match l with | .spill _ => .phys phys | .phys i => .phys i
      let anew (e : MapEntry) : Bool := e.fresh || (full && match e.loc with | .spill _ => true | .phys _ => false)
      let wr (e : MapEntry) : GReg :=
        if anew e then GReg.zero.write lanes f bad tag true else e.reg.write lanes f bad tag full
      let upd (e : MapEntry) : MapEntry := { e with reg := wr e, loc := place e.loc, fresh := false }
      { h with map := updWhere (fun e => decide (e.win = win) && e.name == n) upd h.map }
  | _ => h

/-- Whether a g destination needs a physical register to be written. -/
def Hand.needsPhys (h : Hand) (d : Dst) : Bool :=
  match d with
  | .g win n => match h.mapping win n with
    | none => true
    | some e => match e.loc with | .spill _ => true | .phys _ => false
  | _ => false

/-- A name takes a free register of the hand's core for a result that is to come: an unmapped name, in whose register nothing has been
written yet, or a spilled one, whose write is a full one and whose slot is free again (R126, R129). -/
def State.allocFresh (s : State) (k : Nat) (d : Dst) : State :=
  let h := s.hand k
  let p := ((s.core h.core).freeReg).getD 0
  let s' := s.updCore h.core (fun c => { c with pool := { idx := p, owner := k } :: c.pool })
  match d with
  | .g win n =>
    match h.mapping win n with
    | some e => match e.loc with
      | .phys _ => s
      | .spill _ => s'.updHand k (fun h =>
        { h with map := updWhere (fun e => decide (e.win = win) && e.name == n) (fun e => { e with loc := .phys p }) h.map, newcomer := false })
    | none => s'.updHand k (fun h =>
        { h with map := h.map ++ [{ win := win, name := n, loc := .phys p, reg := GReg.zero, fresh := true }], newcomer := false })
  | _ => s

/-- Write lanes of a g destination, allocating a register when the name has none; `full` says that the whole write is one (R126). -/
def State.writeDst (s : State) (k : Nat) (d : Dst) (lanes : Lanes) (f : Nat → Word) (bad : Lanes) (tag : BitVec 4) (full : Bool) :
    State :=
  let h := s.hand k
  if h.needsPhys d then
    let p := ((s.core h.core).freeReg).getD 0
    (s.updCore h.core (fun c => { c with pool := { idx := p, owner := k } :: c.pool })).updHand k
      (fun h => { h.putG d lanes f bad tag full p with newcomer := false })
  else s.updHand k (fun h => h.putG d lanes f bad tag full 0)

/-- The distinct places in which lanes resolve a name, with the lanes of each. -/
def Hand.places (h : Hand) (lanes : Lanes) (n : Nat) : List (Dst × Lanes) :=
  lanes.list.foldl (fun acc t =>
    let d := h.resolve t n
    if acc.any (fun p => p.1 = d) then acc.map (fun p => if p.1 = d then (p.1, p.2 ||| Lanes.one t) else p)
    else acc ++ [(d, Lanes.one t)]) []

/-- An in-order write of one register in lanes; it replaces earlier outstanding results. -/
def State.writePlace (s : State) (k : Nat) (full : Bool) (f : Nat → Word) (tag : BitVec 4) (p : Dst × Lanes) : State :=
  (s.writeDst k p.1 p.2 f 0 tag full).updHand k (fun h => { h with outst := supersede p.1 p.2 h.outst [tag] })

/-- An in-order write of g name `n` in lanes, each in its own window. -/
def State.writeG (s : State) (k n : Nat) (lanes : Lanes) (f : Nat → Word) (tag : BitVec 4) : State :=
  let full := (s.hand k).coveredBy lanes
  ((s.hand k).places lanes n).foldl (fun s p => s.writePlace k full f tag p) s

/-- A write of an h register; its poison mask is cleared. -/
def Hand.putH (h : Hand) (n : Nat) (v : DWord) (tag : BitVec 4) (poison : Lanes) : Hand :=
  { h with uni := { h.uni with h := putAt 32 HReg.zero (fun _ => { value := v, tag := tag, poison := poison }) n h.uni.h } }

def State.writeH (s : State) (k n : Nat) (v : DWord) (tag : BitVec 4) : State :=
  s.updHand k (fun h => { h.putH n v tag 0 with outst := supersede (.h n) 0xFFFFFFFF h.outst })

/-- A write of a predicate in lanes; a write of q0 is discarded (R125). -/
def Hand.putQ (h : Hand) (n : Nat) (lanes : Lanes) (f : Nat → Bool) : Hand :=
  if n = 0 then h
  else { h with q := putAt 16 0 (fun m => (m &&& ~~~lanes) ||| (Lanes.of f &&& lanes)) n h.q }

def State.writeQ (s : State) (k n : Nat) (lanes : Lanes) (f : Nat → Bool) : State :=
  s.updHand k (fun h => { h.putQ n lanes f with outst := supersede (.q n) lanes h.outst })

def Hand.putK (h : Hand) (n : Nat) (v : BitVec 16) : Hand :=
  { h with uni := { h.uni with k := putAt 8 0 (fun _ => v) n h.uni.k } }

def Hand.putC (h : Hand) (n : Nat) (v : Word) : Hand :=
  { h with uni := { h.uni with c := putAt 16 0 (fun _ => v) n h.uni.c } }

/-! ## Freeing and rotating names -/

/-- Give a physical register back to the pool. -/
def State.releasePhys (s : State) (core : Nat) (l : Loc) : State :=
  match l with
  | .phys i => s.updCore core (fun c => { c with pool := c.pool.filter (fun p => p.idx ≠ i) })
  | .spill _ => s

/-- Free a name (R127): its register or spill slot is given back, the name is unmapped, and results that are still
outstanding for it will be discarded. -/
def State.freeName (s : State) (k : Nat) (d : Dst) : State :=
  match d with
  | .g win n =>
    let h := s.hand k
    match h.mapping win n with
    | none => s
    | some e =>
      (s.releasePhys h.core e.loc).updHand k (fun h =>
        { h with map := h.map.filter (fun x => !(x.win = win && x.name == n)), outst := supersede d 0xFFFFFFFF h.outst })
  | _ => s

/-- Free every name of the windows at depths at or above `d` at or above which no thread stands any more (R130). -/
def State.freeWindows (s : State) (k d : Nat) : State :=
  let h := s.hand k
  let top := h.live.list.foldl (fun m t => max m (max (h.depthOf t) (h.trapDepth.getD t 0))) 0
  let gone := h.map.filter (fun e => match e.win with | some w => d ≤ w && top < w | none => false)
  gone.foldl (fun s e => s.freeName k (.g e.win e.name)) s

/-- The name that rotation moves a mapping of the window to (R137). -/
def rotName (base rsize n : Nat) : Nat :=
  if base ≤ n ∧ n < base + rsize then (if n = base + rsize - 1 then base else n + 1) else n

/-- Rotate the names of a level in the window of a depth: mappings, and results outstanding for them. -/
def Hand.rotate (h : Hand) (depth base rsize : Nat) : Hand :=
  { h with
    map := h.map.map (fun e => if e.win = some depth then { e with name := rotName base rsize e.name } else e),
    outst := h.outst.map (fun o => { o with dsts := o.dsts.map (fun x =>
      match x.dst with
      | .g (some w) n => if w = depth then { x with dst := .g (some w) (rotName base rsize n) } else x
      | _ => x) }) }

/-- Registers mapped to g names in resident windows (R128). -/
def Hand.footprint (h : Hand) : Nat :=
  (h.map.filter (fun e => e.loc.isPhys)).length

/-- Spill slots of the hand's spill area (R204). -/
def Hand.slotCount (h : Hand) : Nat := (h.spsz * 65536 - 16384) / 256

/-- The lowest free spill slot. -/
def Hand.freeSlot (h : Hand) : Option Nat :=
  (List.range (min h.slotCount (h.map.length + 1))).find? (fun j => !h.map.any (fun e => e.loc == .spill j))

/-! ## hstat (R242) -/

/-- OR flags INV, DZ, OF, UF, NX into the hand's sticky flags. -/
def Hand.orFlags (h : Hand) (f : BitVec 5) : Hand := { h with hstat := h.hstat ||| f.zeroExtend 64 }

/-- Add to UNCHK, which holds at 0xFFFF. -/
def Hand.addUnchecked (h : Hand) (n : Nat) : Hand :=
  let u := min 0xFFFF (bits h.hstat.toNat 16 16 + n)
  { h with hstat := (h.hstat &&& 0x1F) ||| BitVec.ofNat 64 (u * 2 ^ 16) }

/-! ## Parked splits (R81, R85, R120) -/

/-- Every split of the hand that could vote is parked (R81). -/
def Hand.allParked (h : Hand) : Bool :=
  ((if h.inTrap then h.trapMode &&& h.live else h.live) &&& ~~~h.parked) == 0

/-- The scheduling state of a hand whose run has ended (R85). -/
def Hand.afterRun (h : Hand) : HandState :=
  let held := if h.inTrap then h.trapMode &&& h.live else h.live
  if h.pendTrap.isSome || (held &&& ~~~h.parked) != 0 then .ready else .parked

/-- Threads parked at a marker go on when every result outstanding for them has returned (R120), and threads that wait
for one result when it has. -/
def Hand.unpark (h : Hand) : Hand :=
  let open_ := h.outst.filter (fun o => !o.returned)
  { h with parks := h.parks.filter (fun p =>
      match p.2 with
      | .marker => open_.any (fun o => (o.split &&& p.1) != 0)
      | .result id => open_.any (fun o => o.id = id)
      | .squirrel => !h.squirrel.isEmpty
      | .page _ _ _ _ | .tile _ | .stores | .compare | .entry _ | .trap => true) }

/-- A PARKED hand with a split that is no longer parked is READY (R85). -/
def Hand.wakeUp (h : Hand) : Hand :=
  let h := h.unpark
  if h.state == .parked && h.afterRun == .ready then { h with state := .ready } else h

end Sys2Proof.Machine
end

