-- ==== Sys2Proof/Machine/Flit.lean ====
section
/-!
DEFINITION. The 256-byte flit of a peer port (spec/01 R20 to R23): its layout, its CRC, and the message that the bytes of a flit hold.
-/
namespace Sys2Proof.Machine

/-- CRC-64/ECMA-182 (R20, R217): one bit, then bytes from their most significant bit on (log 75). -/
def crcBit (c : DWord) (b : Bool) : DWord :=
  if c.getLsbD 63 ^^ b then (c <<< 1) ^^^ 0x42F0E1EBA9EA3693 else c <<< 1
def crcBytes (c : DWord) (bs : List (BitVec 8)) : DWord :=
  bs.foldl (fun c b => (List.range 8).foldl (fun c i => crcBit c (b.getLsbD (7 - i))) c) c

/-- Kinds of R22. -/
def kindACK : BitVec 8 := 0x01
def kindREPLAY : BitVec 8 := 0x02
def kindCREDIT : BitVec 8 := 0x03
def kindRD : BitVec 8 := 0x10
def kindRDR : BitVec 8 := 0x11
def kindWR : BitVec 8 := 0x12
def kindWRA : BitVec 8 := 0x13
def kindSTEP : BitVec 8 := 0x20
def kindSTEPA : BitVec 8 := 0x21
def kindCELL : BitVec 8 := 0x22
def kindCELLA : BitVec 8 := 0x23

/-- The kinds that R22 lists. -/
def listedKind (k : BitVec 8) : Bool :=
  [0x01, 0x02, 0x03, 0x10, 0x11, 0x12, 0x13, 0x20, 0x21, 0x22, 0x23].contains k.toNat

/-- HDR (R20). -/
def flitHdr (dst src : BitVec 16) (kind : BitVec 8) (seq : BitVec 24) : Nat :=
  dst.toNat + src.toNat * 2 ^ 16 + kind.toNat * 2 ^ 32 + seq.toNat * 2 ^ 40

/-- PAY of a request or a response (R23). -/
def msgPay (m : PeerMsg) : Nat :=
  m.tag.toNat + m.die.toNat * 2 ^ 16 + m.size.toNat * 2 ^ 18 + m.status.toNat * 2 ^ 21 + m.addr.toNat * 2 ^ 64 +
    m.mask.toNat * 2 ^ 128 + m.data.toNat * 2 ^ 256

/-- The bytes of a flit: HDR, PAY and CHK, the CRC of bytes 0 to 247 (R20). -/
def flitBytes (hdr pay : Nat) : List (BitVec 8) :=
  let bs := leBytes hdr 8 ++ leBytes pay 240
  bs ++ leBytes (crcBytes 0 bs).toNat 8

/-- A sequenced flit of a port, and a link-control flit, which carries sequence 0 (R22). -/
def msgFlit (m : PeerMsg) (kind : BitVec 8) : List (BitVec 8) := flitBytes (flitHdr m.dst m.src kind m.seq) (msgPay m)
def controlFlit (dst src : BitVec 16) (kind : BitVec 8) (arg : BitVec 24) : List (BitVec 8) :=
  flitBytes (flitHdr dst src kind 0) arg.toNat

/-- The message in the header and payload of a flit. -/
def payMsg (hdr pay : Nat) : PeerMsg :=
  { dst := BitVec.ofNat 16 hdr, src := BitVec.ofNat 16 (bits hdr 16 16), seq := BitVec.ofNat 24 (bits hdr 40 24),
    tag := BitVec.ofNat 16 pay, die := BitVec.ofNat 2 (bits pay 16 2), size := BitVec.ofNat 3 (bits pay 18 3),
    status := BitVec.ofNat 3 (bits pay 21 3), addr := BitVec.ofNat 64 (bits pay 64 64), mask := BitVec.ofNat 64 (bits pay 128 64),
    data := BitVec.ofNat 512 (bits pay 256 512) }

/-- CHK matches (R21). -/
def chkOk (bs : List (BitVec 8)) : Bool := bs.drop 248 == leBytes (crcBytes 0 (bs.take 248)).toNat 8

/-- What the bytes that arrive at a port are (R21, R22): a flit whose CHK does not match, one of an unlisted kind, or a message. -/
def flitInstr (p : Nat) (bs : List (BitVec 8)) : Instr × StepArgs :=
  let x : StepArgs := { (default : StepArgs) with n := p }
  if !chkOk bs then (.flitChkMismatch, x)
  else
    let hdr := leNat (bs.take 8)
    let pay := leNat ((bs.drop 8).take 240)
    let m := payMsg hdr pay
    let i : Instr := match bits hdr 32 8 with
      | 0x01 => .ack p (BitVec.ofNat 24 pay)
      | 0x02 => .replay p (BitVec.ofNat 24 pay)
      | 0x03 => .credit p (BitVec.ofNat 16 pay)
      | 0x10 => .rd p m
      | 0x11 => .rdr p m
      | 0x12 => .wr p m
      | 0x13 => .wra p m
      | 0x20 => .peerStep p m
      | 0x21 => .stepa p m
      | 0x22 => .cell p m
      | 0x23 => .cella p m
      | _ => .flitUnlistedKind
    (i, { x with m := m.seq.toNat, code := BitVec.ofNat 8 (bits hdr 32 8) })

end Sys2Proof.Machine
end

