-- ==== Sys2Proof/Machine/Chain.lean ====
section
/-!
DEFINITION. Segments and tokens as the Decks see them (spec/04 R93 to R102): chains, likelihoods, confirmation (R108) and the order of
commits (R110).
-/
namespace Sys2Proof.Machine

/-! ## Deck entries -/

/-- A segment's entry in its die's Deck. -/
def State.seg? (s : State) (p : Nat × Nat) : Option Seg := (s.die p.1).deck.find? (fun e => e.idx = p.2)
def State.updSeg (s : State) (p : Nat × Nat) (f : Seg → Seg) : State :=
  s.updDie p.1 (fun d => { d with deck := updWhere (fun e => e.idx = p.2) f d.deck })
def State.freeSeg (s : State) (p : Nat × Nat) : State :=
  s.updDie p.1 (fun d => { d with deck := d.deck.filter (fun e => e.idx ≠ p.2) })

/-- The segments of a killed hand's segment count their parent as committed (R209, R102). -/
def State.orphan (s : State) (p : Nat × Nat) : State :=
  match s.seg? p with
  | none => s
  | some e =>
    { s with dies := s.dies.map (fun (d : Die) => { d with deck := d.deck.map (fun (x : Seg) =>
        if x.parent == some (p.1, p.2, e.seq) then { x with parent := none } else x) }) }

/-- The hand runs a segment that is SPECRUN (R104, R106). -/
def State.specRun (s : State) (h : Hand) : Bool :=
  match h.seg with
  | none => false
  | some p => match s.seg? p with
    | some e => e.state == 3
    | none => false

/-! ## Tokens (R93, R94) -/

def nullToken : Word := 0xFFFFFFFF

def tokenDie (t : Word) : Nat := bits t.toNat 12 2

/-- The entry of a token, presented by a hand of a launch; none for the null token, a generation mismatch, or another
launch's token. -/
def State.token? (s : State) (lid t : Word) : Option Token :=
  if t == nullToken then none
  else (s.die (tokenDie t)).tokens.find? (fun e =>
    e.idx = bits t.toNat 0 12 && e.gen == BitVec.ofNat 18 (bits t.toNat 14 18) && e.state != 0 && e.lid == lid)

/-- A token as a die sees it: 1 OPEN until the resolution has reached the die, 2 TRUE, 3 FALSE; 0 for none (R96). -/
def State.tokenAt (s : State) (die : Nat) (lid t : Word) : BitVec 2 :=
  match s.token? lid t with
  | none => 0
  | some e => if s.resolutions.any (fun r => r.die = die && r.token == t) then 1 else e.state

/-! ## Chains and likelihood (R97, R98, R102) -/

/-- The parent entry that a segment still depends on. -/
def State.parentSeg (s : State) (e : Seg) : Option Seg :=
  match e.parent with
  | none => none
  | some (d, idx, seq) => (s.seg? (d, idx)).filter (fun p => p.seq == seq)

/-- A segment and its ancestors, up to the first that counts as committed. -/
def State.chain (s : State) : Nat → Seg → List Seg
  | 0, e => [e]
  | fuel + 1, e => match s.parentSeg e with
    | some p => e :: State.chain s fuel p
    | none => [e]

/-- Entries of all Decks. -/
def State.segCount (s : State) : Nat := s.dies.foldl (fun n d => n + d.deck.length) 0

/-- Likelihood of a segment from its parent's. -/
def State.cumOf (s : State) : Nat → Seg → Nat
  | 0, e => e.own.toNat
  | fuel + 1, e => match s.parentSeg e with
    | some p => State.cumOf s fuel p * e.own.toNat / 2 ^ 15
    | none => 0x8000 * e.own.toNat / 2 ^ 15

/-- Distinct open tokens on a chain, as a die sees them. -/
def State.openTokens (s : State) (die : Nat) (es : List Seg) : List Word :=
  es.foldl (fun acc e => if s.tokenAt die e.lid e.token == 1 && !acc.contains e.token then e.token :: acc else acc) []

def State.depthOf (s : State) (die : Nat) (e : Seg) : Nat := (s.openTokens die (s.chain s.segCount e)).length

/-- Every token on the chain has resolved to the polarity that the chain requires. -/
def State.confirmed (s : State) (die : Nat) (e : Seg) : Bool :=
  (s.chain s.segCount e).all (fun x => x.token == nullToken || s.tokenAt die x.lid x.token == (if x.pol then 2 else 3))

/-- Compute CUM and DEPTH again for every entry (R98); CUM of a confirmed one is 0x8000 (R108). -/
def State.refresh (s : State) : State :=
  let n := s.segCount
  { s with dies := (List.range s.dies.length).map (fun d => let x := s.die d
      { x with deck := x.deck.map (fun (e : Seg) =>
          { e with cum := if s.confirmed d e then 0x8000 else BitVec.ofNat 16 (s.cumOf n e), depth := min 15 (s.depthOf d e) }) }) }

/-- The word of `segq`. -/
def Seg.word (e : Seg) : DWord :=
  BitVec.ofNat 64 (e.state.toNat + (if e.pol then 8 else 0) + e.depth % 16 * 2 ^ 8 + e.cum.toNat * 2 ^ 16 + e.seq.toNat * 2 ^ 32)

/-- An earlier spawn or resolution of a hand has not been applied at a Deck yet (R379). -/
def State.deckEarlier (s : State) (h : Hand) (deck id : Nat) : Bool :=
  (h.outst.takeWhile (fun x => x.id ≠ id)).any (fun x => !x.returned &&
    (match x.work with
    | .spawn d _ _ _ _ _ _ _ _ _ _ => d == deck
    | .segq d _ => d == deck
    | _ => false)) ||
  s.resolutions.any (fun r => r.hand = h.key && r.die == deck && r.order ≤ id)

/-- What a `segq` reads of an entry: 0 where there is none of the launch, of which a twin is a hand too (R216). -/
def State.segWord (s : State) (h : Hand) (deck idx : Nat) : DWord :=
  match s.seg? (deck, idx) with
  | some e => if e.lid = h.lid ∨ h.pair = 2 ∧ e.lid = ~~~h.lid then e.word else 0
  | none => 0

/-! ## Confirmation (R108, R110) -/

/-- The commit of a segment has begun. -/
def Seg.committed (e : Seg) : Bool := e.state == 6 || e.state == 7 || (e.state == 5 && e.draining)

/-- Every ancestor of a segment has committed and its region has drained: only then the segment's stores may drain (R110). -/
def State.ancestorsDrained (s : State) (e : Seg) : Bool :=
  (s.chain s.segCount e).tail.all (fun x => x.region.isEmpty && x.committed)

/-- Older stores of threads stand in store buffers, or in the region of their hand's segment or an ancestor's while it drains. -/
def State.storesOpen (s : State) (h : Hand) (m : Lanes) : Bool :=
  m.list.any (fun t => !(h.mem.getD t default).sb.isEmpty) ||
    (match h.seg.bind s.seg? with
    | some g => g.draining && g.state != 3
    | none => false)

/-- Threads that wait for their older stores go on once these have drained (R372, R108). -/
def State.wakeStores (s : State) (k : Nat) : State :=
  let isOver (p : Lanes × Park) : Bool := p.2 == .stores && !s.storesOpen (s.hand k) p.1
  s.updHand k (fun h =>
    if h.parks.any isOver then Hand.wakeUp { h with parks := h.parks.filter (fun p => !isOver p) } else h)

/-- Segments of all dies with their places. -/
def State.allSegs (s : State) : List (Nat × Seg) :=
  (List.range s.dies.length).foldr (fun d acc => (s.die d).deck.map (fun e => (d, e)) ++ acc) []

/-- The hand of a segment has exited. -/
def State.segDone (s : State) (e : Seg) : Bool := e.state == 5 || (e.state == 6 && e.hand.any (fun k => (s.hand k).state == .done))

/-- Regions that have drained, as their ancestors' have: the segment is FREE when its hand has exited, and goes on otherwise (R108,
R110). -/
def State.endDrains : Nat → State → State
  | 0, s => s
  | fuel + 1, s =>
    match s.allSegs.find? (fun x => x.2.draining && x.2.region.isEmpty && s.ancestorsDrained x.2) with
    | none => s
    | some (d, e) =>
      let p := (d, e.idx)
      State.endDrains fuel (
        if s.segDone e then s.freeSeg p
        else
          let s := s.updSeg p (fun e => { e with draining := false, hasRegion := false })
          match e.hand with
          | some k => s.wakeStores k
          | none => s)

/-- A segment's chain is confirmed (R108). -/
def State.confirm (s : State) (p : Nat × Nat) : State :=
  match s.seg? p with
  | none => s
  | some e =>
    let st (n : BitVec 3) : State := s.updSeg p (fun e => { e with state := n, draining := true })
    match e.state.toNat with
    | 1 | 2 => s.updSeg p (fun e => { e with state := 1 })
    | 3 => st 6
    | 4 => st 7
    | 5 => st 5
    | _ => s

/-- Factors of chains may have changed: CUM and DEPTH are computed again, and every segment whose chain is confirmed on its die commits
(R98, R108), and regions drain; once more when that frees a parent. -/
def State.settleSegs : Nat → State → State
  | 0, s => s
  | fuel + 1, s =>
    let s := s.refresh
    let s' := s.allSegs.foldl (fun s (x : Nat × Seg) =>
      match s.seg? (x.1, x.2.idx) with
      | some e => if e.seq == x.2.seq && s.confirmed x.1 e then s.confirm (x.1, e.idx) else s
      | none => s) s
    let s' := s'.endDrains s'.segCount
    if s'.segCount = s.segCount then s' else State.settleSegs fuel s'

def State.settle (s : State) : State := if s.segCount = 0 then s else s.settleSegs s.segCount

end Sys2Proof.Machine
end

