-- ==== Sys2Proof/Machine/Ctx.lean ====
section
/-!
DEFINITION. The spill area of a hand: spill slots (spec/05 R129) and the context record (spec/08 R204, R205).
-/
namespace Sys2Proof.Machine

/-- The hand's spill area starts here (R68). A twin, which shares its primary's hid, has the same bytes, as no rule places its area
elsewhere (log 124). -/
def Hand.area (h : Hand) : DWord := h.spbase + BitVec.ofNat 64 (h.hid * h.spsz * 65536)

/-- Location of a byte of the spill area, by its virtual address under the launch's ASID (log 30). -/
def State.areaLoc (s : State) (h : Hand) (off : Nat) : Option Nat :=
  s.locOf h.asid (h.area + BitVec.ofNat 64 off) .read h.core

/-- The Squirrel writes bytes into the spill area, word by word; a word that does not translate is lost (log 30). -/
def State.areaWrite (s : State) (h : Hand) (off : Nat) : List (BitVec 8) → State
  | b0 :: b1 :: b2 :: b3 :: b4 :: b5 :: b6 :: b7 :: bs =>
    State.areaWrite (match s.areaLoc h off with
      | some loc => (s.crossHome (coreDie h.core) loc).writeBytes loc [b0, b1, b2, b3, b4, b5, b6, b7] (coreParty h.core)
      | none => s) h (off + 8) bs
  | _ => s

/-- The word of the spill area at an offset, when it translates. -/
def State.areaWord (s : State) (h : Hand) (off : Nat) : Option Nat :=
  (s.areaLoc h off).map (fun loc => readN s.mem loc 8)

/-- Replace `width` bits at `lo`. -/
def setField (v : DWord) (lo width x : Nat) : DWord :=
  let m : DWord := BitVec.ofNat 64 ((2 ^ width - 1) * 2 ^ lo)
  (v &&& ~~~m) ||| (BitVec.ofNat 64 (x % 2 ^ width * 2 ^ lo))

def getField (v : DWord) (lo width : Nat) : Nat := bits v.toNat lo width

/-- A number as bytes, padded to `n`. -/
def field (v n : Nat) : List (BitVec 8) := leBytes v n

/-- Words of `n` bytes each. -/
def fieldsOf (n : Nat) (vs : List Nat) : List (BitVec 8) := vs.foldr (fun v acc => leBytes v n ++ acc) []

/-! ## Spill slots -/

/-- The image of a register in a spill slot (R129): 128 value bytes, then tag, poison mask, name and depth in the
places that log 31 chooses. -/
def slotImage (r : GReg) (name depth : Nat) : List (BitVec 8) :=
  fieldsOf 4 (r.value.map BitVec.toNat) ++ field r.tag.toNat 4 ++ field r.poison.toNat 4 ++ field name 4 ++
    field depth 4

/-- A register read back from a slot. -/
def State.readSlot (s : State) (h : Hand) (j : Nat) : Option GReg :=
  let off := 16384 + 256 * j
  let words := (List.range 18).map (fun i => s.areaWord h (off + 8 * i))
  if words.any Option.isNone then none
  else
    let ws := words.map (fun w => w.getD 0)
    some { value := allLanes.map (fun t => BitVec.ofNat 32 (bits (ws.getD (t / 2) 0) (32 * (t % 2)) 32)),
           tag := BitVec.ofNat 4 (ws.getD 16 0), poison := BitVec.ofNat 32 (bits (ws.getD 16 0) 32 32) }

/-- Spill one mapped register to a free slot (R128, R129): its image is written and its physical register freed. -/
def State.spillEntry (s : State) (k : Nat) (win : Option Nat) (name : Nat) : State :=
  let h := s.hand k
  match h.mapping win name with
  | none => s
  | some e =>
    match e.loc, h.freeSlot with
    | .phys _, some j =>
      let s := s.areaWrite h (16384 + 256 * j) (slotImage e.reg.image name (win.getD 0))
      (s.releasePhys h.core e.loc).updHand k (fun h =>
        { h with map := updWhere (fun x => decide (x.win = win) && x.name == name) (fun x => { x with loc := .spill j, reg := x.reg.image }) h.map })
    | _, _ => s

/-- Refill a spilled name (R129): it takes a free physical register and the slot's contents. -/
def State.refillEntry (s : State) (k : Nat) (win : Option Nat) (name : Nat) : State :=
  let h := s.hand k
  match h.mapping win name with
  | none => s
  | some e =>
    match e.loc with
    | .phys _ => s
    | .spill j =>
      let r := (s.readSlot h j).getD e.reg
      let p := ((s.core h.core).freeReg).getD 0
      (s.updCore h.core (fun c => { c with pool := { idx := p, owner := k } :: c.pool })).updHand k (fun h =>
        { h with map := updWhere (fun x => decide (x.win = win) && x.name == name)
                   (fun x => { x with loc := .phys p, reg := r }) h.map, newcomer := false })

/-! ## The context record (R204) -/

/-- The bits of registers that are not zero bits (R200, R242, R360). -/
def xcauseBits : DWord := 0xFFFF03FF
def hstatBits : DWord := 0xFFFF001F
def gangBits : DWord := 0x0000FFFF00FF0FFF

/-- The 320-bit image of a loop-control register (R134). -/
def Level.image (l : Level) : Nat :=
  l.start.toNat + l.end_.toNat * 2 ^ 64 + l.trip.toNat * 2 ^ 128 + l.pass.toNat * 2 ^ 160 + l.memb.toNat * 2 ^ 192 +
    l.edge.toNat * 2 ^ 224 + l.base.toNat * 2 ^ 256 + l.rsize.toNat * 2 ^ 262 + l.s.toNat * 2 ^ 266 +
    l.stg.toNat * 2 ^ 269 + l.depth.toNat * 2 ^ 276 + (if l.until_ then 2 ^ 281 else 0) + l.uq.toNat * 2 ^ 282 +
    (if l.valid then 2 ^ 286 else 0)

/-- A level read back from its image; the address that follows END is kept, and of a level that was valid the order of declaration. -/
def Level.ofImage (old : Level) (n : Nat) : Level :=
  { start := BitVec.ofNat 64 n, end_ := BitVec.ofNat 64 (bits n 64 64), trip := BitVec.ofNat 32 (bits n 128 32),
    pass := BitVec.ofNat 32 (bits n 160 32), memb := BitVec.ofNat 32 (bits n 192 32),
    edge := BitVec.ofNat 32 (bits n 224 32), base := BitVec.ofNat 6 (bits n 256 6), rsize := BitVec.ofNat 4 (bits n 262 4),
    s := BitVec.ofNat 3 (bits n 266 3), stg := BitVec.ofNat 7 (bits n 269 7), depth := BitVec.ofNat 5 (bits n 276 5),
    until_ := bits n 281 1 == 1, uq := BitVec.ofNat 4 (bits n 282 4), valid := bits n 286 1 == 1,
    order := if old.valid then old.order else 0, nextEnd := old.nextEnd }

/-- A level that breaks one of the conditions of R135 on a level alone. -/
def Level.broken (l : Level) : Bool :=
  l.valid && (l.end_.toNat < l.start.toNat || l.s == 0 || (l.until_ && l.s.toNat > 1) ||
    (l.rsize != 0 && (l.base.toNat < 16 || l.base.toNat > 30)) ||
    (l.until_ && 1 ≤ l.uq.toNat && l.uq.toNat ≤ l.s.toNat))

/-- A level lies inside another one of its depth, with members of it alone. -/
def Level.inside (l m : Level) : Bool :=
  l.depth == m.depth && m.start.toNat ≤ l.start.toNat && l.end_.toNat < m.end_.toNat && (l.memb &&& ~~~m.memb) == 0

/-- Two valid levels at one depth may stand together (R135): one lies inside the other, and their rotating ranges do not overlap. -/
def Level.fits (l m : Level) : Bool :=
  !(l.valid && m.valid && l.depth == m.depth) ||
    ((l.inside m || m.inside l) &&
      !(l.rsize != 0 && m.rsize != 0 && l.base.toNat < m.base.toNat + m.rsize.toNat && m.base.toNat < l.base.toNat + l.rsize.toNat))

/-- Loop-control images that break a condition of R135 (R205). -/
def badLevels (ls : List Level) : Bool :=
  ls.any Level.broken || !(List.range ls.length).all (fun i => (List.range i).all (fun j => (ls.getD i default).fits (ls.getD j default)))

/-- Levels in an order of declaration that their nesting admits: the one they have, or where software has written other levels, outer ones
first (R135). -/
def orderLevels (ls : List Level) : List Level :=
  let valid := ls.filter Level.valid
  let before (m l : Level) : Bool := m.depth.toNat < l.depth.toNat || (m.depth == l.depth && l.end_.toNat < m.end_.toNat)
  if valid.all (fun l => l.order != 0 && valid.all (fun m => !l.inside m || m.order < l.order)) then ls
  else ls.map (fun l => if l.valid then { l with order := 1 + (valid.filter (fun m => before m l)).length } else l)

/-- The number of the hand's launch, as the hand sees it: twins are kept under the complement (log 66). -/
def Hand.shownLid (h : Hand) : Word := if h.pair = 2 then ~~~h.lid else h.lid

/-- The header (R204). -/
def Hand.ctxHeader (h : Hand) (halt : Bool) : List (BitVec 8) :=
  field (1 + 2 ^ 16 + h.ctxStatus.toNat * 2 ^ 17 + (if h.inTrap then 2 ^ 19 else 0) +
      (if h.pendInt.isSome then 2 ^ 20 else 0) + (if halt then 2 ^ 21 else 0) + h.hid * 2 ^ 32) 8 ++
    field (h.shownLid.toNat + (h.quota % 512) * 2 ^ 32 + (h.footprint % 2 ^ 16) * 2 ^ 48) 8 ++ List.replicate 48 0

/-- A map entry: KIND and INDEX. -/
def Hand.mapWord (h : Hand) (win : Option Nat) (name : Nat) : Nat :=
  match h.mapping win name with
  | none => 0
  | some e => match e.loc with
    | .phys i => 1 + 4 * i
    | .spill j => 2 + 4 * j

/-- One entry of the trap window: value, tag, poison mask. -/
def trapEntryBytes (r : GReg) : List (BitVec 8) :=
  fieldsOf 4 (r.value.map BitVec.toNat) ++ field r.tag.toNat 12 ++ field r.image.poison.toNat 4

/-- The trap-window part of the record. -/
def Hand.trapImage (h : Hand) : List (BitVec 8) :=
  (allLanes.take 16).foldr (fun i acc => trapEntryBytes (h.trapWin.getD i GReg.zero) ++ acc) []

/-- The context record: the listed bytes, up to offset 0x26BF, and zeros up to the place of the time-out record, 0x2800 (R335, log 98). -/
def Hand.ctxBytes (h : Hand) (halt : Bool) : List (BitVec 8) :=
  h.ctxHeader halt ++
  fieldsOf 8 (allLanes.map (fun t => (h.pc.getD t 0).toNat)) ++
  field (h.exited.toNat + h.trapMode.toNat * 2 ^ 32 + h.heldTret.toNat * 2 ^ 64 +
    allLanes.foldl (fun a t => a + (h.depthOf t) * 2 ^ (96 + 5 * t)) 0) 64 ++
  fieldsOf 4 ((List.range 16).map (fun n => if n = 0 then 0xFFFFFFFF else (h.q.getD n 0).toNat)) ++
  fieldsOf 2 ((List.range 8).map (fun n => (h.uni.k.getD n 0).toNat)) ++
  fieldsOf 2 ((List.range 4).map (fun i => h.groups.getD i 0xFFFF)) ++
  field h.gang.toNat 8 ++ field h.hstat.toNat 8 ++
  field ((h.pendInt.map (fun p => p.1.toNat + p.2.toNat * 2 ^ 16)).getD 0) 10 ++ field h.rcell.toNat 14 ++
  fieldsOf 4 ((List.range 16).map (fun n => (h.uni.c.getD n 0).toNat)) ++
  fieldsOf 8 [h.trapRegs.xcause.toNat, h.trapRegs.xpc.toNat, h.trapRegs.xval.toNat, h.trapRegs.xmask.toNat,
    h.trapRegs.xvec.toNat, 0, 0, 0] ++
  fieldsOf 40 ((List.range 6).map (fun i => (h.lc.getD i default).image)) ++ List.replicate 16 0 ++
  fieldsOf 16 (allLanes.map (fun n => let r := h.uni.h.getD n HReg.zero
    r.value.toNat + r.tag.toNat * 2 ^ 64 + r.poison.toNat * 2 ^ 96)) ++
  h.trapImage ++
  fieldsOf 4 ((List.range 16).map (fun n => h.mapWord none n)) ++
  allLanes.foldr (fun d acc =>
    fieldsOf 4 ((List.range 47).map (fun i => h.mapWord (some d) (16 + i))) ++ field 0 4 ++ acc) [] ++
  List.replicate 320 0

/-- The Squirrel writes the record (R88, R203, R204). -/
def State.writeCtx (s : State) (k : Nat) (halt : Bool) : State :=
  let h := s.hand k
  s.areaWrite h 0 (h.ctxBytes halt)

/-- `n` bytes of the record as a number; a byte that does not translate reads 0. -/
def State.ctxN (s : State) (h : Hand) (off n : Nat) : Nat :=
  match s.areaLoc h off with
  | some loc => readN s.mem loc n
  | none => 0

/-- A map entry read back; `none` is an entry that R205 refuses. -/
def State.ctxMapEntry (s : State) (h : Hand) (win : Option Nat) (name off : Nat) : Option (Option MapEntry) :=
  let w := s.ctxN h off 4
  let idx := bits w 2 16
  match w % 4 with
  | 0 => some none
  | 1 =>
    if (s.core h.core).pool.any (fun p => p.idx == idx && p.owner == h.key) then
      some ((h.map.find? (fun e => e.loc == .phys idx)).map (fun e => { e with win := win, name := name }))
    else none
  | 2 => if idx < h.slotCount then
      some (some { win := win, name := name, loc := .spill idx, reg := (s.readSlot h idx).getD GReg.zero, fresh := false })
    else none
  | _ => none

/-- The offsets of the record's map entries, with window and name. -/
def ctxMapSlots : List (Option Nat × Nat × Nat) :=
  (List.range 16).map (fun n => (none, n, 0xE80 + 4 * n)) ++
    allLanes.foldr (fun d acc => (List.range 47).map (fun i => (some d, 16 + i, 0xEC0 + 192 * d + 4 * i)) ++ acc) []

/-- The trap window as the record holds it; what does not translate stays as it is (log 30). -/
def State.ctxTrapWin (s : State) (h : Hand) : List GReg :=
  (List.range 16).map (fun i =>
    if (s.areaLoc h (0x580 + 144 * i)).isNone then h.trapWin.getD i GReg.zero
    else { value := allLanes.map (fun t => BitVec.ofNat 32 (s.ctxN h (0x580 + 144 * i + 4 * t) 4)),
           tag := BitVec.ofNat 4 (s.ctxN h (0x600 + 144 * i) 1), poison := BitVec.ofNat 32 (s.ctxN h (0x60C + 144 * i) 4) })

/-- The hand as its record restores it (R88, R141, R204), or `none` when the record is BADCTX (R205). A record that does not translate
has no VER 0x0001 (log 30); a map entry of KIND 3 is refused (log 98). The zero bits of its registers read 0 (R7). -/
def State.readCtx (s : State) (h : Hand) : Option Hand :=
  let hdr := s.ctxN h 0 8
  let entries := ctxMapSlots.map (fun (w, n, off) => s.ctxMapEntry h w n off)
  let lc := (List.range 6).map (fun i => Level.ofImage (h.lc.getD i default) (s.ctxN h (0x280 + 40 * i) 40))
  if bits hdr 0 16 ≠ 1 ∨ entries.any Option.isNone ∨ badLevels lc then none
  else
    let w64 (off : Nat) : DWord := BitVec.ofNat 64 (s.ctxN h off 8)
    let w32 (off : Nat) : Word := BitVec.ofNat 32 (s.ctxN h off 4)
    let depths := s.ctxN h 0x14C 20
    some { h with
      pc := allLanes.map (fun t => w64 (0x40 + 8 * t) &&& ~~~3),
      exited := w32 0x140, trapMode := w32 0x144, heldTret := w32 0x148, trapSplit := w32 0x144 ||| w32 0x148,
      depth := allLanes.map (fun t => bits depths (5 * t) 5),
      q := (List.range 16).map (fun n => w32 (0x180 + 4 * n)),
      uni := { h := allLanes.map (fun n => { value := w64 (0x380 + 16 * n), tag := BitVec.ofNat 4 (s.ctxN h (0x388 + 16 * n) 1),
                                             poison := w32 (0x38C + 16 * n) }),
               k := (List.range 8).map (fun n => BitVec.ofNat 16 (s.ctxN h (0x1C0 + 2 * n) 2)),
               c := (List.range 16).map (fun n => w32 (0x200 + 4 * n)) },
      groups := ((List.range 4).map (fun i => s.ctxN h (0x1D0 + 2 * i) 2)).filter (· ≠ 0xFFFF),
      gang := w64 0x1D8 &&& gangBits, hstat := w64 0x1E0 &&& hstatBits,
      pendInt := if bits hdr 20 1 = 1 then some (BitVec.ofNat 16 (s.ctxN h 0x1E8 2), w64 0x1EA) else none,
      rcell := w64 0x1F2,
      trapRegs := { xcause := w64 0x240 &&& xcauseBits, xpc := w64 0x248 &&& ~~~3, xval := w64 0x250, xmask := w64 0x258 &&& 0xFFFFFFFF,
                    xvec := w64 0x260 &&& ~~~2 },
      lc := orderLevels lc,
      trapWin := s.ctxTrapWin h,
      map := entries.filterMap (fun e => e.bind id) }

/-! ## Changes of a record in memory -/

/-- Put a field of the header of a hand's context record (R204). -/
def State.putHeader (s : State) (h : Hand) (lo width v : Nat) : State :=
  match s.areaWord h 0 with
  | some n => s.areaWrite h 0 (leBytes (setField (BitVec.ofNat 64 n) lo width v).toNat 8)
  | none => s

/-- Bits of the spill area change as they change from one image to another. -/
def State.patchArea (s : State) (h : Hand) : Nat → List (BitVec 8) → List (BitVec 8) → State
  | off, a :: as, b :: bs =>
    let s := if a == b then s else match s.areaLoc h off with
      | some loc => s.writeBytes loc [(BitVec.ofNat 8 (readN s.mem loc 1) &&& ~~~(a ^^^ b)) ||| (b &&& (a ^^^ b))] (coreParty h.core)
      | none => s
    s.patchArea h (off + 1) as bs
  | _, _, _ => s

/-- A hand that is not resident stands in its context record. -/
def Hand.inRecord (h : Hand) : Bool := h.state == .swapped || h.state == .swappedAsleep || h.state == .halted

/-- A hand that stands in its record is taken from there, as software may have changed it. -/
def State.reload (s : State) (k : Nat) : State :=
  if (s.hand k).inRecord then (match s.readCtx (s.hand k) with
    | some h => s.setHand h
    | none => s)
  else s

/-- The hand's trap-window image stands in its record, since another hand has taken its window and it has not been loaded again (R199). -/
def State.windowAway (s : State) (h : Hand) : Bool :=
  h.trapSplit != 0 && (!(s.core h.core).slots.any (fun x => x.winOwner == some h.key) || h.squirrel.contains (.trapMove true))

/-- What has changed in a hand since `before` changes in its record (R204, R366), when it stands there; or in the trap-window image
there. -/
def State.patchCtx (s : State) (before : Hand) : State :=
  let h := s.hand before.key
  if h.inRecord then s.patchArea h 0 (before.ctxBytes false) (h.ctxBytes false)
  else if s.windowAway h then s.patchArea h 0x580 before.trapImage h.trapImage
  else s

/-- Change a hand wherever it stands: in its place, or in its context record. -/
def State.updSaved (s : State) (k : Nat) (f : Hand → Hand) : State :=
  let s := s.reload k
  (s.updHand k f).patchCtx (s.hand k)

end Sys2Proof.Machine
end

