-- ==== Sys2Proof/Machine/Life.lean ====
section
/-!
DEFINITION. The life of a hand outside its instructions: creation (spec/03 R70), places and share allocations (R72),
the end of a hand (R85), barrier completion (spec/14 R333), swap (spec/03 R88, R89) and the gang kill with its relaunch
(spec/09 R209 to R214). The Magpie (R224) is here too.
-/
namespace Sys2Proof.Machine

/-! ## The Magpie (R224) -/

/-- Append a record to a die's ring of 4,096. -/
def State.magpie (s : State) (d unit : Nat) (code : BitVec 8) (detail : List Nat) : State :=
  s.updDie d (fun x =>
    let l := x.magpie ++ [(x.magSeq, unit, code, detail)]
    { x with magpie := l.drop (l.length - 4096), magSeq := x.magSeq + 1 })

/-- Units of Magpie records that the model uses (log 32). -/
def unitHand : Nat := 0
def unitFrontEnd : Nat := 1
def unitLink : Nat := 2
def unitBank : Nat := 3
def unitManagement : Nat := 4

/-! ## Error banks (R222, R223)

Syndromes, and the place of a hand slot and a register in LOC, have no encoding in the spec: free values. -/

/-- An uncorrectable error is applied: it replaces a corrected error or a DISCARD; a further one sets OVF. -/
def Bank.uncorrectable (b : Bank) (unit : BitVec 4) (synd : BitVec 8) (loc : DWord) : Bank :=
  if b.valid && b.ue then { b with ovf := true }
  else { b with valid := true, ue := true, disc := false, unit := unit, synd := synd, loc := loc }

/-- Corrected errors: each is counted, and the first fills an empty bank. -/
def Bank.corrected (b : Bank) (n : Nat) (unit : BitVec 4) (synd : BitVec 8) (loc : DWord) : Bank :=
  if n = 0 then b
  else
    let b := { b with cecnt := BitVec.ofNat 32 (min 0xFFFFFFFF (b.cecnt.toNat + n)) }
    if b.valid then b else { b with valid := true, ue := false, disc := false, unit := unit, synd := synd, loc := loc }

/-- A DISCARD fills an empty bank; at a full one, which R223 leaves open, it is lost (log 123). -/
def Bank.discard (b : Bank) (synd : BitVec 8) (loc : DWord) : Bank :=
  if b.valid then b else { b with valid := true, ue := false, disc := true, unit := 0, synd := synd, loc := loc }

/-- An access finds an uncorrectable word of device memory or of scratch: the bank of its slice or cluster, and the Magpie. -/
def State.logUE (s : State) (loc : Nat) : State :=
  let synd : BitVec 8 := (Config.freeWord s.tick).setWidth 8
  match spaceOf loc with
  | .device =>
    { s with sliceBanks := putAt 64 Bank.init (fun b => b.uncorrectable 5 synd (BitVec.ofNat 64 loc)) (homeOf loc) s.sliceBanks }.magpie
      (homeOf loc / 16) unitBank 0x12 [5, loc]
  | .scratch =>
    let c := scratchCore loc
    let a := c % 32 * 2 ^ 24 + (loc - 2 ^ 60) % 2 ^ 20
    { s with cluBanks := putAt 32 Bank.init (fun b => b.uncorrectable 3 synd (BitVec.ofNat 64 a)) (c / 32) s.cluBanks }.magpie
      (coreDie c) unitBank 0x12 [3, a]
  | _ => s

/-- Change the bank of a core's cluster. -/
def State.updCluBank (s : State) (c : Nat) (f : Bank → Bank) : State :=
  { s with cluBanks := putAt 32 Bank.init f (coreCluster c) s.cluBanks }

/-- Words of a register are read on a core, through SECDED (R220): corrections are counted in the cluster's bank, and each
uncorrectable word is logged there and by the Magpie. -/
def State.readErrs (s : State) (c : Nat) (err soft : Nat) : State :=
  let synd : BitVec 8 := (Config.freeWord s.tick).setWidth 8
  let loc := Config.freeDWord s.tick
  let s := if soft = 0 then s else s.updCluBank c (fun b => b.corrected soft 0 synd loc)
  (List.range err).foldl (fun s _ => (s.updCluBank c (fun b => b.uncorrectable 0 synd loc)).magpie (coreDie c) unitBank 0x12 [0, loc.toNat]) s

/-- A bit error in a stored register word: of a mapped name that is not spilled, of a trap window or of an h register. -/
def State.upset (s : State) (k : Nat) (d : Dst) (lane : Nat) (hard : Bool) : State :=
  let m := Lanes.one (lane % 32)
  let hit (r : GReg) : GReg := if hard then { r with err := r.err ||| m, soft := r.soft &&& ~~~m } else { r with soft := r.soft ||| (m &&& ~~~r.err) }
  s.updHand k (fun h => match d with
    | .g w n => { h with map := updWhere (fun e => decide (e.win = w) && e.name == n && e.loc.isPhys) (fun e => { e with reg := hit e.reg }) h.map }
    | .trapG n => { h with trapWin := putAt 16 GReg.zero hit (n - 16) h.trapWin }
    | .h n =>
      let bad (r : HReg) : HReg := if hard then { r with err := true, soft := false } else { r with soft := !r.err }
      { h with uni := { h.uni with h := putAt 32 HReg.zero bad n h.uni.h } }
    | .q _ | .k _ | .c _ => h)

/-- The Squirrel spills a register (R128, R129, R220). -/
def State.spill (s : State) (k : Nat) (win : Option Nat) (name : Nat) : State :=
  let h := s.hand k
  match h.mapping win name with
  | none => s
  | some e => (s.readErrs h.core e.reg.err.list.length e.reg.soft.list.length).spillEntry k win name

/-- A name's results are all in its register: only then the Squirrel spills it (R204). -/
def Hand.settled (h : Hand) (e : MapEntry) : Bool :=
  !e.fresh && !h.outst.any (fun o => o.dsts.any (fun d => d.dst = .g e.win e.name && d.skip != 0xFFFFFFFF))

def Hand.allSettled (h : Hand) : Bool := h.map.all (fun e => !e.loc.isPhys || h.settled e)

/-- Spill every register that a hand still has in its core's pool (R89). -/
def State.spillAll (s : State) (k : Nat) : State := (s.hand k).map.foldl (fun s e => s.spill k e.win e.name) s

/-- The number of a register, and the registers of a hand with their poisoned lanes. -/
def Dst.num : Dst → Nat
  | .g _ n | .trapG n | .h n | .q n | .k n | .c n => n

def Hand.poisons (h : Hand) : List (Dst × Lanes) :=
  (h.map.filter (fun e => e.reg.poison != 0)).map (fun e => (Dst.g e.win e.name, e.reg.poison)) ++
    (List.range 16).filterMap (fun i => let r := h.trapWin.getD i GReg.zero
      if r.poison != 0 then some (.trapG (16 + i), r.poison) else none) ++
    (List.range 32).filterMap (fun n => let r := h.uni.h.getD n HReg.zero
      if r.poison != 0 then some (.h n, r.poison) else none)

def Hand.poisonOf (h : Hand) (d : Dst) : Lanes := ((h.poisons.find? (fun p => p.1 = d)).map Prod.snd).getD 0

/-- After a change of a hand's registers, poisoned lanes that were overwritten or freed before any active lane read them are a
discarded error in the cluster's bank (R220). -/
def State.logDiscards (s : State) (h : Hand) : State :=
  if h.poisons.isEmpty then s
  else
    let h' := s.hand h.key
    let gone := h'.state == .done || h'.state == .killed
    let left (d : Dst) : Lanes := if gone then 0 else h'.poisonOf d
    let seen (n : Nat) : Lanes := (h.seen.filter (fun x => x.1 = n)).foldl (fun m x => m ||| x.2) 0
    let lost := h.poisons.any (fun p => (p.2 &&& ~~~(left p.1) &&& ~~~(seen p.1.num)) != 0)
    let s := s.updHand h.key (fun x => { x with seen := x.seen.filter (fun y => h'.poisons.any (fun p => p.1.num = y.1)) })
    if lost then
      { s with cluBanks := putAt 32 Bank.init (fun b => b.discard ((Config.freeWord s.tick).setWidth 8) (Config.freeDWord s.tick)) (coreCluster h.core) s.cluBanks }
    else s

/-- An active lane has read poison. -/
def State.readPoison (s : State) (k : Nat) (name : BitVec 16) (lanes : Lanes) : State :=
  s.updHand k (fun h => { h with seen := h.seen ++ [(name.toNat, lanes)] })

/-! ## Fields of 64-bit registers -/

/-! ## Groups -/

/-- The group-table entry of a launch. -/
def Launch.group (l : Launch) (g : Nat) : Group := l.groups.getD g default

def State.updGroup (s : State) (lid : Word) (g : Nat) (f : Group → Group) : State :=
  s.updLaunch lid (fun l => { l with groups := updAt f g l.groups })

/-- The hand of a launch with an index; when it has been relaunched, its present incarnation. -/
def State.handOf (s : State) (lid : Word) (hid : Nat) : Option Hand :=
  s.hands.find? (fun h => h.lid = lid && h.hid == hid && h.state != .killed)

/-- A member is complete (R333): every thread that has not exited has arrived, or the hand is DONE or KILLED. A hand
that was never placed has arrived nowhere. -/
def State.memberComplete (s : State) (lid : Word) (g : Group) (hid : Nat) : Bool :=
  match s.handOf lid hid with
  | none => true
  | some h => h.state == .done ||
      (h.live &&& ~~~(lookupD hid 0 g.arrived)) == 0

/-- Complete the phase of a barrier when its last member has become complete (R333). -/
def State.barCheck (s : State) (lid : Word) (gi : Nat) : State :=
  let g := (s.launch lid).group gi
  if g.kind = 0 ∧ g.arrived ≠ [] ∧ g.members.all (s.memberComplete lid g) then
    s.updGroup lid gi (fun g => { g with phase := g.phase + 1, arrived := [], failed := 0 })
  else s

/-- Check every barrier that a hand belongs to. -/
def State.barCheckAll (s : State) (h : Hand) : State := h.groups.foldl (fun s g => s.barCheck h.lid g) s

/-! ## Share allocations (R72, R78) -/

/-- The pipeline instance of a hand that was created from the descriptor (R78). -/
def State.instanceOf (s : State) (h : Hand) : Option Nat :=
  let l := s.launch h.lid
  match l.pipe with
  | some p => if p.nl + p.nc + p.ns = 0 ∨ l.nhand ≤ h.hid then none else some (h.hid / (p.nl + p.nc + p.ns))
  | none => none

/-- Share allocations are named by their group, and pipe allocations by 256 + instance. -/
def pipeAlloc (inst : Nat) : Nat := 256 + inst

/-- The allocation of a launch with a name: its core, offset and size. -/
def State.allocOf (s : State) (lid : Word) (name : Nat) : Option (Nat × Nat × Nat) :=
  s.cores.foldl (fun acc (c : Nat × Core) =>
    match acc with
    | some x => some x
    | none => (c.2.allocs.find? (fun a => a.1 = lid && a.2.1 == name)).map (fun a => (c.1, a.2.2.1, a.2.2.2))) none

/-- Release the allocations of a hand's share groups, and of its instance's pipes, whose last member has ended (R72). -/
def State.releaseAllocs (s : State) (h : Hand) : State :=
  let l := s.launch h.lid
  let isOver (ms : List Nat) : Bool := ms.all (fun m => match s.handOf h.lid m with
    | none => true
    | some x => x.state == .done)
  let pipes := match s.instanceOf h, h.gangId with
    | some n, some g => if isOver (l.group g).members then [pipeAlloc n] else []
    | _, _ => []
  let names := h.groups.filter (fun g => isOver (l.group g).members) ++ pipes
  { s with cores := s.cores.map (fun (c : Nat × Core) =>
      (c.1, { c.2 with allocs := c.2.allocs.filter (fun a => !(a.1 = h.lid && names.contains a.2.1)) })) }

/-! ## Places -/

/-- Free the place of a hand: its hand slot, and the issue slot when it holds one. -/
def State.freePlace (s : State) (k : Nat) : State :=
  s.updCore (s.hand k).core (fun c =>
    { c with hands := c.hands.map (fun x => if x = some k then none else x),
             slots := updWhere (fun x => x.hand = some k)
               (fun x => { x with hand := none, count := 0, second := none, ending := false, fate := .plain }) c.slots })

/-- Give back every physical register of a hand without spilling it. -/
def State.dropRegs (s : State) (k : Nat) : State :=
  (s.updCore (s.hand k).core (fun c => { c with pool := c.pool.filter (fun p => p.owner ≠ k) })).updHand k
    (fun h => { h with map := [] })

/-- Take a hand out of the wait-and-wake table. -/
def State.unwait (s : State) (k : Nat) : State :=
  let cut := s.wake.map (fun e => { e with hands := e.hands.filter (fun x => x ≠ k) })
  { s with wake := cut.filter (fun e => !(e.hands.isEmpty && e.queues.isEmpty && e.line.isNone)) }

/-! ## Gang rounds broken by a member (R362) -/

/-- Fail the round for a hand that has arrived: ARR 0, DONE 1, ERR 1, ECODE and ROUNDS + 1. -/
def failRound (code : Nat) (h : Hand) : Hand :=
  let g := setField (setField (setField (setField h.gang 9 1 0) 10 1 1) 11 1 1) 16 8 code
  { h with gang := setField g 32 16 (getField g 32 16 + 1), arrival := none }

/-- The keys of a hand's gang. -/
def State.gangKeys (s : State) (h : Hand) : List Nat :=
  match h.gangId with
  | none => [h.key]
  | some gi => ((s.launch h.lid).group gi).members.filterMap (fun m => (s.handOf h.lid m).map Hand.key)

/-- The hands that take part in a hand's gang rounds: its gang, or in a pipeline launch the computers of its instance
(R397). -/
def State.roundKeys (s : State) (h : Hand) : List Nat :=
  if (s.launch h.lid).pipe.isSome then (s.gangKeys h).filter (fun k => (s.hand k).kid == 1) else s.gangKeys h

/-- When a member becomes DONE while another has arrived and it has not, the round fails at once. -/
def State.gangDone (s : State) (k : Nat) : State :=
  let h := s.hand k
  let ks := s.roundKeys h
  if h.gangId.isNone ∨ h.arrival.isSome ∨ ks.contains k = false then s
  else ks.foldl (fun s j => s.updSaved j (fun x => if x.arrival.isSome then failRound 0x0A x else x)) s

/-! ## Creation (R70) -/

/-- The lowest index that is not in use. -/
def lowestFree (used : List Nat) : Nat → Nat → Nat
  | 0, i => i
  | fuel + 1, i => if used.contains i then lowestFree used fuel (i + 1) else i

/-- Sequences and log of a hand that has announced nothing (R211, R212). -/
def Retained.init (lid : Word) (hid : Nat) : Retained :=
  { lid := lid, hid := hid, nextSeq := List.replicate 32 1, epoch := 0, reln := 0, chv := false, rlo := 0, rhi := 0,
    rngAgain := false, bound := List.replicate 32 0, log := [], part := 0, block := none }

def State.retain (s : State) (lid : Word) (hid : Nat) : Retained :=
  (s.retained.find? (fun r => r.lid = lid && r.hid == hid)).getD (Retained.init lid hid)

/-- Bytes of a block (R211). -/
def blockBytes : Nat := 8576

/-- The fields of a block with their offsets; every other byte is 0 (R211). -/
def Retained.fields (r : Retained) : List (Nat × List (BitVec 8)) :=
  allLanes.map (fun t => (4 * t, leBytes (r.nextSeq.getD t 1).toNat 4)) ++
    [(0x80, leBytes (r.epoch.toNat + r.reln.toNat * 2 ^ 8 + r.chv.toNat * 2 ^ 16) 4), (0x88, leBytes r.rlo.toNat 8),
     (0x90, leBytes r.rhi.toNat 8)] ++
    r.log.map (fun e => (0x180 + 256 * e.1 + 16 * e.2.1, leBytes (e.2.2.1.toNat + e.2.2.2.1.toNat * 2 ^ 32 + e.2.2.2.2.toNat * 2 ^ 64) 16))

/-- The place of a hand's block in the pool of its partition, when device memory is there. -/
def State.blockAddr (s : State) (r : Retained) : Option Nat :=
  (r.block.map (fun n => (s.part r.part).cfg.rlrbase.toNat + blockBytes * n)).filter (fun a => deviceExists a && deviceExists (a + blockBytes - 1))

def State.putFields (s : State) (r : Retained) (fs : List (Nat × List (BitVec 8))) : State :=
  match s.blockAddr r with
  | some a => fs.foldl (fun s f => s.writeBytes (a + f.1) f.2 Party.nobody) s
  | none => s

/-- Change a hand's block: the fields that change are written to it (log 100). -/
def State.setRetain (s : State) (r : Retained) : State :=
  let old := (s.retain r.lid r.hid).fields
  { s.putFields r (r.fields.filter (fun f => !old.contains f)) with
    retained := r :: s.retained.filter (fun x => !(x.lid = r.lid && x.hid == r.hid)) }

/-- A hand takes the lowest free block of its partition's pool, with a given content (R211). -/
def State.takeBlock (s : State) (part : Nat) (r : Retained) : State :=
  let used := s.retained.filterMap (fun x => if x.part = part then x.block else none)
  let r := { r with part := part, block := some (lowestFree used used.length 0) }
  let held (c : Host.Cell) : Option Nat := (s.blockAddr r).bind (fun a => if a ≤ c.1 ∧ c.1 < a + blockBytes then some (wordOf c.1) else none)
  let s := ((s.mem.filterMap held).eraseDups).foldl (fun s w => s.writeBytes w (leBytes 0 8) Party.nobody) s
  { s.putFields r (r.fields.filter (fun f => f.2.any (· != 0))) with retained := s.retained ++ [r] }

/-- Blocks of a partition's pool in use. -/
def State.blocksUsed (s : State) (part : Nat) : Nat := (s.retained.filter (fun r => r.part = part && r.block.isSome)).length

/-- Base class of a role (R82): 3 loader, 2 storer, 1 computer or plain hand. -/
def baseClass (kid : Nat) : Nat := if kid = 3 then 3 else if kid = 2 then 2 else 1

/-- `gang` of a new hand (R360): N and POS, in a pipeline launch among the computers of its instance (R397), and DONE. -/
def newGang (l : Launch) (gang : Option Nat) (hid kid : Nat) : DWord :=
  let v := setField 0 10 1 1
  let put (n pos : Nat) : DWord := setField (setField v 0 3 n) 3 3 pos
  match l.pipe with
  | some p =>
    if kid = 1 ∧ 2 ≤ p.nc then put p.nc (hid % (p.nl + p.nc + p.ns) - p.nl) else v
  | none => match gang with
    | none => v
    | some g => let ms := (l.group g).members
      put ms.length (ms.findIdx (fun m => m = hid))

/-- A hand in the state of R70, not placed. -/
def newHand (l : Launch) (key hid kid : Nat) (entry : DWord) (args : List DWord) (view : View) : Hand :=
  let groups := (List.range l.groups.length).filter (fun g => ((l.group g).members.contains hid))
  let gang := groups.find? (fun g => (l.group g).kind = 2)
  { (default : Hand) with
    key := key, lid := l.lid, hid := hid, part := l.part, asid := l.asid, kid := kid, entry := entry,
    state := .unplaced, core := 0, hslot := 0, quota := l.quota, spbase := l.spbase, spsz := l.spsz,
    groups := groups, gangId := gang,
    pc := List.replicate 32 entry, depth := List.replicate 32 0, exited := 0, parks := [], trapMode := 0, trapSplit := 0,
    heldTret := 0, q := List.replicate 16 0,
    uni := { Uniform.init with h := (List.range 32).map (fun i =>
      if i < 8 then { value := args.getD i 0, tag := 0, poison := 0 } else HReg.zero) },
    lc := List.replicate 6 default, map := [], squirrel := [], trapWin := List.replicate 16 GReg.zero,
    trapRegs := { xcause := 0, xpc := 0, xval := 0, xmask := 0, xvec := 0 }, pendTrap := none, pendInt := none,
    hstat := 0, rcell := 0,
    gang := newGang l gang hid kid,
    outst := [], nextId := 0,
    mem := List.replicate 32 { view := view, fview := [], fscope := 0, pend := [], sb := [], sbNext := 0 },
    own := List.replicate 32 none, redo := [], seen := [], yields := 0, losses := 0, cls := baseClass kid, lastGrant := none,
    key64 := none, seg := none, range := l.rangeId, fresh := true, newcomer := true, arrival := none, slice := none,
    stepHalt := false, haltReq := false, ctxStatus := 0,
    pair := if l.nhand ≤ hid then 0 else if l.twinOf.isSome then 2 else if l.pair then 1 else 0,
    sig := 0, records := [], sigs := [], sends := List.replicate 32 0, fwd := [] }

/-! ## Nodes of launch graphs (R41, R44, R45) -/

/-- A node of a die's table; one that has not been written is 0. -/
def State.node (s : State) (d i : Nat) : Node :=
  ((s.die d).nodes.find? (fun n => n.idx = i)).getD { (default : Node) with idx := i }

def State.updNode (s : State) (d i : Nat) (f : Node → Node) : State :=
  let n := f (s.node d i)
  s.updDie d (fun x => { x with nodes := { n with idx := i } :: x.nodes.filter (fun m => m.idx ≠ i) })

/-- The running graph that holds a node. -/
def State.graphOf (s : State) (d i : Nat) : Option Graph :=
  s.graphs.find? (fun g => g.die = d && g.first ≤ i && i < g.first + g.count)

/-- Where the window of a consumer's group stands: open, complete, or settled with a failed producer group. -/
inductive Window1 where
  | unsettled | complete | failed
  deriving DecidableEq, Repr

/-- The window of group `g` of a node in MODE 1: a producer group past the producer's group table is complete. -/
def State.window (s : State) (d i g : Nat) : Window1 :=
  let n := s.node d i
  let p := s.node d n.prod.toNat
  let names := (List.range n.tw.toNat).map (fun j => n.ta.toNat * g + n.tb.toNat + j)
  let beyond (x : Nat) : Bool := 256 ≤ x || (match p.ngrp with | some k => max k 1 ≤ x | none => false)
  let done (x : Nat) : Bool := beyond x || p.donemap.getLsbD x
  let failed (x : Nat) : Bool := !beyond x && p.failmap.getLsbD x
  if names.all done then .complete
  else if names.all (fun x => done x || failed x) then .failed
  else .unsettled

/-- The groups of a launch whose windows hold a hand back: with NGRP 0 a single group 0 of all its hands; its thief and segment hands join
none (R45). The gangs of a pipeline's instances are not among them. -/
def Launch.windows (l : Launch) (h : Hand) : List Nat :=
  if l.nhand ≤ h.hid then [] else if l.ngrp = 0 then [0] else h.groups.filter (fun g => g < l.ngrp)

/-- Latch the groups of a launch whose member hands are all DONE, and those with a member reported FAILED (R45). -/
def State.markGroups (s : State) (lid : Word) : State :=
  match s.launch? lid with
  | none => s
  | some l => match (if l.twinOf.isSome then none else l.node) with
    | none => s
    | some (d, i) =>
      let bitsOf (p : Group → Bool) : BitVec 256 := BitVec.ofNat 256 ((List.range l.ngrp).foldl
        (fun n g => if p (l.group g) then n + 2 ^ g else n) 0)
      let done (g : Group) : Bool := g.members.all (fun m => match s.handOf lid m with | some h => h.state == .done | none => false)
      let failed (g : Group) : Bool := g.members.any (fun m => l.reports.any (fun r => r.hid = m && r.fail))
      s.updNode d i (fun n => { n with donemap := n.donemap ||| bitsOf done, failmap := n.failmap ||| bitsOf failed })

/-! ## The end of a hand -/

/-- The last thread of a hand has exited (R85, R108): the hand is DONE, its place and registers are free, with what they hold (R402), share
allocations without members are released, barriers that waited for it may complete, a gang round it had not reached
fails (R362), and a segment becomes SPECDONE, or FREE when its region and its ancestors' have drained (R110). -/
def State.handDone (s : State) (k : Nat) : State :=
  let h := s.hand k
  let s := ((s.dropRegs k).freePlace k).updHand k (fun x => { x with state := .done, parks := [], squirrel := [], last := h.map })
  let s := s.gangDone k
  let s := ((s.releaseAllocs h).barCheckAll h).markGroups h.lid
  let s := { s with retained := s.retained.filter (fun r => !(r.lid = h.lid && r.hid == h.hid)) }
  match h.seg with
  | none => s
  | some p => match s.seg? p with
    | none => s
    | some e =>
      if e.state == 3 then s.updSeg p (fun e => { e with state := 5 })
      else if e.draining then s
      else (s.freeSeg p).settle

/-! ## Swap (R88, R89) -/

/-- Swap a hand out: its record is written, its place is free for a newcomer, and its registers stay in the pool as a victim's. -/
def State.swapOut (s : State) (k : Nat) (st : HandState) : State :=
  let s := s.updHand k (fun h => { h with squirrel := [], parks := h.parks.filter (fun p => p.2 != .squirrel) })
  let s := s.writeCtx k (st == .halted)
  let h := s.hand k
  let s := if (s.core h.core).hands.contains (some k) then s.updCore h.core (fun c => { c with vacant := c.vacant ++ [h.hslot] }) else s
  (s.freePlace k).updHand k (fun h => { h with state := st, lastGrant := none })

/-! ## The gang kill (R209) -/

/-- Report a hand as an item of its launch (R92). -/
def State.report (s : State) (h : Hand) (fail : Bool) (code : BitVec 8) (pc : DWord) : State :=
  (s.updLaunch h.lid (fun l => { l with reports := l.reports.filter (fun r => r.hid ≠ h.hid) ++
    [{ hid := h.hid, fail := fail, code := code, pc := pc }] })).markGroups h.lid

/-- Lowest PC among the threads that have not exited (R92). -/
def Hand.reportPc (h : Hand) : DWord := (h.lowestPc h.live).getD 0

/-! ## Engine threads (R181) -/

/-- Change what the ordering machine keeps for a thread. -/
def State.updThread (s : State) (k t : Nat) (f : ThreadMem → ThreadMem) : State :=
  s.updHand k (fun h => { h with mem := putAt 32 default f t h.mem })

def Hand.thread (h : Hand) (t : Nat) : ThreadMem := h.mem.getD t default

/-- Stores of a thread that are older than a place in its program order. -/
def ThreadMem.older (m : ThreadMem) (seq : Nat) : List StoreEntry := m.sb.filter (fun e => e.seq < seq)

/-- Threads of a hand have no older stores in their store buffers. -/
def Hand.drained (h : Hand) (seqs : List (Nat × Nat)) : Bool := seqs.all (fun q => ((h.thread q.1).older q.2).isEmpty)

/-- The join of threads' views. -/
def Hand.joined (h : Hand) (lanes : List Nat) : View := lanes.foldl (fun v t => View.join v (h.thread t).view) []

/-- An engine thread starts once every older store of its issuers has drained, with their views at that moment (R181). -/
def Hand.begin (h : Hand) (f : Fork) : Fork :=
  if f.hand ≠ h.key || f.started || !h.drained f.seqs then f else { f with started := true, view := h.joined (f.seqs.map Prod.fst) }

/-- The engine thread that threads of a hand fork. -/
def Hand.fork (h : Hand) (lanes : List Nat) : Fork :=
  h.begin { hand := h.key, view := [], seqs := lanes.map (fun t => (t, (h.thread t).sbNext)), started := false }

/-- The engine thread may start. -/
def State.forkReady (s : State) (f : Fork) : Bool := f.started || (s.hand f.hand).drained f.seqs

/-- The view of an engine thread. -/
def State.forkView (s : State) (f : Fork) : View := ((s.hand f.hand).begin f).view

/-- Engine threads that wait for stores of a hand start. -/
def State.startForks (s : State) (k : Nat) : State :=
  let h := s.hand k
  let go (f : Fork) : Fork := h.begin f
  let work (o : Outst) : Outst := match o.work with
    | .wbind w l f => { o with work := .wbind w l (go f) }
    | _ => o
  { s with
    copies := s.copies.map (fun (c : Copy) => { c with fork := go c.fork }),
    jobs := s.jobs.map (fun (j : Job) => { j with fork := go j.fork }),
    clusters := s.clusters.map (fun (c : Nat × Cluster) =>
      (c.1, { c.2 with windows := c.2.windows.map (fun (x : Window) => { x with fork := go x.fork }) })),
    cores := s.cores.map (fun (c : Nat × Core) => (c.1, { c.2 with work := c.2.work.map (fun (x : TileWork) => { x with fork := go x.fork }) })),
    hands := s.hands.map (fun (x : Hand) =>
      { x with
        arrival := x.arrival.map (fun (a : Arrival) => { a with fork := go a.fork }),
        slice := x.slice.map (fun (z : Slice) => { z with forks := z.forks.map go }),
        outst := if x.key = k then x.outst.map work else x.outst }) }

/-- Handlers that waited for tile work that is gone go on (R202). -/
def State.freeTileParks (s : State) : State :=
  let gone (h : Hand) (p : Lanes × Park) : Bool := match p.2 with
    | .tile id => !(s.core h.core).work.any (fun x => x.id = id)
    | _ => false
  { s with hands := s.hands.map (fun (h : Hand) => if h.parks.any (gone h) then Hand.wakeUp { h with parks := h.parks.filter (fun p => !gone h p) } else h) }

/-! ## Order of a core's work (R353) -/

/-- What tile work reads and writes: a tile with its planes and check vector, a block of accumulator elements, or check elements of rows. -/
inductive TileRes where
  | tile (t : Nat)
  | acc (row col nr nc : Nat)
  | chk (row nr : Nat)
  deriving DecidableEq, Repr, Inhabited

/-- Two ranges meet. -/
def spansMeet (a n b m : Nat) : Bool := a < b + m && b < a + n

def TileRes.meets : TileRes → TileRes → Bool
  | .tile a, .tile b => a == b
  | .acc r c n m, .acc r' c' n' m' => spansMeet r n r' n' && spansMeet c m c' m'
  | .chk r n, .chk r' n' => spansMeet r n r' n'
  | _, _ => false

def meetsRes (a b : List TileRes) : Bool := a.any (fun x => b.any x.meets)

/-- A block of accumulator elements with the check elements of its rows. -/
def block (row col nr nc : Nat) : List TileRes := [.acc row col nr nc, .chk row nr]

/-- What work reads, beside what it writes: `epi` checks whole rows (R218). -/
def TileWork.reads (x : TileWork) : List TileRes :=
  match x.op with
  | .bcast t _ | .store t _ => [.tile t]
  | .mma _ _ ta tb _ => [.tile ta, .tile tb]
  | .slice _ _ b _ => [.tile b]
  | .acst r c nr nc _ _ | .drain r c nr nc _ _ _ => [.acc r c nr nc]
  | .epi r _ nr _ _ _ _ _ _ _ _ _ => block r 0 nr 256
  | _ => []

def TileWork.writes (x : TileWork) : List TileRes :=
  match x.op with
  | .cfg t | .load t _ _ => [.tile t]
  | .mma r c _ _ rows => block r c rows.length (getField x.shB 9 9)
  | .slice r c _ n => block r c n (getField x.shB 9 9)
  | .acz r c nr nc | .acld r c nr nc _ => block r c nr nc
  | .sums r c vals => block r c vals.length (vals.headD []).length
  | _ => []

/-- What an instruction reads for a handler's park (R202): a matrix operation also the rows that it accumulates onto. -/
def TileWork.needs (x : TileWork) : List TileRes :=
  x.reads ++ (match x.op with | .mma _ _ _ _ _ => x.writes | _ => [])

/-- Reads and writes that must wait for earlier work. -/
def conflicts (earlier : List TileWork) (rd wr : List TileRes) : Bool :=
  earlier.any (fun e => meetsRes e.writes (rd ++ wr) || meetsRes e.reads wr)

/-- Work that stands before a number in a core's order. -/
def Core.before (c : Core) (id : Nat) : List TileWork := c.work.takeWhile (fun x => x.id ≠ id)

/-- Work leaves its core's order; a handler that waits for it goes on (R202). -/
def State.dropWork (s : State) (c id : Nat) : State :=
  let s := s.updCore c (fun x => { x with work := x.work.filter (fun (y : TileWork) => y.id ≠ id) })
  s.freeTileParks

def State.addWork (s : State) (c : Nat) (x : TileWork) : State := s.updCore c (fun y => { y with work := y.work ++ [x] })

/-- The planes and check vector that `tcfg` leaves, and of the uncorrectable words those of the data (R350). -/
def Tile.cleared (t : Tile) : Tile :=
  { t with micro := [], band := [], check := [], bad := t.bad.filter (fun u => 8 * u < t.data.length) }

/-- Do the work that leaves nothing outstanding and that nothing before it holds: the planes of `tcfg`, and the broadcast of
a leader's A tile to the members' slices (R350, R361). -/
def State.kick : Nat → State → Nat → State
  | 0, s, _ => s
  | fuel + 1, s, c =>
    let core := s.core c
    let ready (x : TileWork) : Bool :=
      (match x.op with | .cfg _ | .bcast _ _ => true | _ => false) && !conflicts (core.before x.id) x.reads x.writes
    match core.work.find? ready with
    | none => s
    | some x =>
      let s := match x.op with
        | .cfg t => s.updCore c (fun y => { y with tiles := putAt 16 Tile.init Tile.cleared t y.tiles })
        | .bcast t keys =>
          let a := core.tiles.getD t Tile.init
          keys.foldl (fun s k => s.updHand k (fun h => { h with slice := h.slice.map (fun (z : Slice) => { z with a := some a }) })) s
        | _ => s
      State.kick fuel (s.dropWork c x.id) c

/-- Work that nothing holds any more is done on every core. -/
def State.kickCores (s : State) : State := s.cores.foldl (fun s c => s.kick c.2.work.length c.1) s

/-! ## Killed members -/

/-- One member becomes KILLED: its registers are freed without spill, entries of its store buffer that have not drained
are discarded, its engine results will be discarded, its tile work in flight is dropped, and its records are to be cancelled (R209, R210,
R366, log 45). -/
def State.killMember (s : State) (k : Nat) : State :=
  let h := s.hand k
  let s := (((s.dropRegs k).freePlace k).unwait k).updHand k (fun h =>
    { h with state := .killed, parks := [], squirrel := [], outst := [], pendTrap := none, laterTraps := [], pendInt := none,
             mem := h.mem.map (fun m => { m with sb := [] }), arrival := none, slice := none })
  let s := (s.startForks k).logDiscards h
  let s := { s with cores := s.cores.map (fun (c : Nat × Core) => (c.1, { c.2 with work := c.2.work.filter (fun x => x.fork.hand ≠ k) })) }.freeTileParks.kickCores
  { s with
    recs := updWhere (fun r => decide (r.lid = h.lid) && r.hid == h.hid && r.dev.isNone)
      (fun r => { r with killed := true }) s.recs,
    peerCancels := s.peerCancels ++ allLanes.filterMap (fun t => ((h.own[t]?).join).bind (fun o =>
      if h.pair != 2 && spaceOf o.obj = .peer && o.replay.isNone then
        some { obj := o.obj, ticket := o.ticket, lid := h.lid, hid := h.hid, lane := t, seq := o.seq }
      else none)),
    copies := updWhere (fun c => c.fork.hand = k) (fun c => { c with discarded := true }) s.copies }

/-- Records of killed owners that are terminal are freed once their gang has been relaunched or their launch has completed
(R318). -/
def State.sweepRecs (s : State) : State :=
  let isOver (r : AnnRec) : Bool :=
    r.killed && (r.state == 2 || r.state == 3 || r.state == 4) &&
      (r.dev.isSome || (s.launch? r.lid).isNone || s.retained.any (fun b => b.lid = r.lid && b.hid == r.hid && b.epoch != r.epoch))
  { s with recs := s.recs.filter (fun r => !isOver r) }

/-- A member may be relaunched (R213). -/
def Retained.relaunchable (r : Retained) : Bool := r.reln.toNat < 3 && r.nextSeq.all (fun n => n.toNat ≤ 17)

/-- The retained block after a relaunch: EPOCH and RELN rise, each thread's sequence restarts below its replay bound. -/
def Retained.relaunch (r : Retained) : Retained :=
  { r with epoch := r.epoch + 1, reln := r.reln + 1, bound := r.nextSeq.map (fun n => n - 1),
           nextSeq := List.replicate 32 1, rngAgain := r.chv }

/-- Create a killed hand again in the state of R70 (R213, R214). A member of its gang that was DONE gave its retained block back (R211) and
takes no other, which the spec leaves open (log 122). -/
def State.recreate (s : State) (k : Nat) : State :=
  let h := s.hand k
  let l := s.launch h.lid
  let args := match h.seg.bind s.seg? with
    | some e => e.args
    | none => l.args
  let n := newHand l s.nextHand h.hid h.kid h.entry args
    (match h.seg.bind s.seg? with | some e => e.view | none => l.view)
  let n := { n with seg := h.seg, range := h.range, groups := h.groups, gangId := h.gangId, quota := h.quota }
  let s := s.setRetain (s.retain h.lid h.hid).relaunch
  let s := match h.seg with
    | some p => s.updSeg p (fun e => { e with hand := some n.key })
    | none => s
  { s with hands := s.hands.filter (fun x => x.key ≠ k) ++ [n], nextHand := s.nextHand + 1 }

/-- An APPEND on its way to a peer whose thread is gone: its launch, hand and lane (R23, R317). -/
def State.orphanAppend (s : State) (r : PeerReq) : Option (Word × Nat × Nat) :=
  let d := r.msg.data.toNat
  match r.use with
  | .step k _ _ =>
    if bits d 0 8 = 0 ∧ (s.hands.any (fun h => h.key = k && h.state != .killed)) = false then
      some (BitVec.ofNat 32 (bits d 384 32), bits d 416 14, bits d 430 5)
    else none
  | _ => none

/-- A record of a hand's killed predecessor is not settled yet (R210): it may still be cancelled, or a peer has not answered for it. The
relaunched hand waits for that before it is placed (log 101). -/
def State.unsettled (s : State) (h : Hand) : Bool :=
  s.recs.any (fun r => r.killed && r.lid = h.lid && r.hid == h.hid && r.dev.isNone && r.state == 1 && r.prog == 0 && r.op != 0x3F) ||
    s.peerCancels.any (fun x => x.lid = h.lid && x.hid == h.hid) ||
    s.reqs.any (fun r => match r.use, s.orphanAppend r with
      | .cancel l n _ _, _ => decide (l = h.lid) && n == h.hid
      | _, some x => decide (x.1 = h.lid) && x.2.1 == h.hid
      | _, _ => false)

/-- The other hand of a pair (R216): the twin of a primary, the primary of a twin. -/
def State.pairOf (s : State) (h : Hand) : Option Hand :=
  match h.pair.toNat with
  | 1 => (s.launches.find? (fun l => l.twinOf == some h.lid)).bind (fun l => s.handOf l.lid h.hid)
  | 2 => ((s.launch? h.lid).bind Launch.twinOf).bind (fun lid => s.handOf lid h.hid)
  | _ => none

/-- The hand whose gang a kill names: of a twin, its primary. -/
def State.primaryOf (s : State) (k : Nat) : Nat :=
  let h := s.hand k
  if h.pair = 2 then ((s.pairOf h).map Hand.key).getD k else k

/-- The gang kill of R209, with the settlement R210 starts, and the relaunch or the report of R213 and R214. `pc?` gives
the faulting hand's PC for its report. A pair dies together (log 66). A SPECRUN segment hand is only discarded: its entry returns to PENDING (R214). -/
def State.killGang (s : State) (k : Nat) (code : BitVec 8) (pc? : Option DWord) (reset : Bool) : State :=
  let k := s.primaryOf k
  let h := s.hand k
  if h.state == .killed then s
  else if s.specRun h then
    let s := (if reset then s else s.magpie (coreDie h.core) unitHand code [h.lid.toNat, h.hid, 1]).killMember k
    let s := match h.seg with
      | some p => ((s.orphan p).updSeg p (fun e => { e with state := 1, hand := none, region := [], hasRegion := false })).settle
      | none => s
    { s with hands := s.hands.filter (fun x => x.key ≠ k),
             retained := s.retained.filter (fun r => !(r.lid = h.lid && r.hid == h.hid)) }
  else
    let keys := s.gangKeys h
    let members := keys.map s.hand
    let twins := members.filterMap s.pairOf
    let lowest := members.foldl (fun m x => min m x.hid) h.hid
    let record (s : State) (x : Hand) (n : Nat) : State := s.magpie (coreDie x.core) unitHand code [h.lid.toNat, lowest, n]
    let s := if reset then s else (twins.take 1).foldl (fun s x => record s x twins.length) (record s h keys.length)
    let s := keys.foldl (fun s j => s.killMember j) s
    let s := twins.foldl (fun s x => (s.killMember x.key).releaseAllocs x) s
    let s := members.foldl (fun s x => match x.seg with | some p => ((s.releaseAllocs x).orphan p).settle | none => s.releaseAllocs x) s
    let again := !reset && members.all (fun x => (s.retain x.lid x.hid).relaunchable) && (s.launch? h.lid).isSome
    if again then
      let s := (twins.foldl (fun s x => s.recreate x.key) (keys.foldl (fun s j => s.recreate j) s)).sweepRecs
      (twins.take 1).foldl (fun s x => record s x (s.retain x.lid x.hid).reln.toNat) (record s h (s.retain h.lid h.hid).reln.toNat)
    else
      let s := members.foldl (fun s x =>
        s.report x true code (if x.key = k then pc?.getD x.reportPc else x.reportPc)) s
      let s := members.foldl (fun s x => s.barCheckAll x) s
      { s with dies := s.dies.map (fun d => { d with deck := d.deck.filter (fun e =>
                 !members.any (fun x => x.seg.isSome && e.hand == some x.key)) }) }

end Sys2Proof.Machine
end

