-- ==== Sys2Proof/Machine/Pair.lean ====
section
/-!
DEFINITION. Paired mode (spec/09 R216, R217): the store signature of a hand, its comparison with the other hand's, and the results
that a primary hands to its twin.
-/
namespace Sys2Proof.Machine

/-! ## The signature (R217) -/

/-- The space and the word address of a store word. -/
def recordPlace (w : Nat) : Nat × Nat :=
  match spaceOf w with
  | .device => (0, w)
  | .scratch => (1, scratchCore w % 32 * 2 ^ 24 + (w - 2 ^ 60) % 2 ^ 20)
  | .host => (2, w - hostLoc 0)
  | .peer => (3, peerAddr w)

/-- The 16-byte record of a store word; a `bbar.post` counts as the store of its four bytes of EXPECT (log 66). -/
def storeRecord (e : StoreEntry) : List (BitVec 8) :=
  let p := recordPlace e.word
  let mask : BitVec 8 := if e.post then 0x0F else e.mask
  leBytes (mask.toNat + p.2 / 8 % 2 ^ 54 * 2 ^ 8 + p.1 * 2 ^ 62) 8 ++ leBytes (mergeBytes mask e.data 0).toNat 8

/-- A signature is complete, be it over no record: it waits for the other hand's, and the next one starts at 0. -/
def Hand.cutSig (h : Hand) : Hand :=
  { h with sigs := h.sigs ++ [(h.sig, h.records)], sig := 0, records := [] }

/-- A store word of a paired hand enters the store buffer: after 64 records the signature is complete. -/
def Hand.sign (h : Hand) (t : Nat) (e : StoreEntry) : Hand :=
  if h.pair = 0 then h
  else
    let h := { h with sig := crcBytes h.sig (storeRecord e), records := h.records ++ [(t, e.seq)] }
    if 64 ≤ h.records.length then h.cutSig else h

/-- A store of a primary has not been compared yet. -/
def Hand.uncompared (h : Hand) (t : Nat) (e : StoreEntry) : Bool :=
  h.records.contains (t, e.seq) || h.sigs.any (fun x => x.2.contains (t, e.seq))

/-- An entry of a paired hand may leave its store buffer (R216, R217): a primary's once it has been compared, a twin's when it
lies in scratch. -/
def Hand.pairDrains (h : Hand) (t : Nat) (e : StoreEntry) : Bool :=
  match h.pair.toNat with
  | 1 => !h.uncompared t e
  | 2 => spaceOf e.word == .scratch
  | _ => true

/-- A split of a paired hand has not passed the compare point of its instruction. -/
def Hand.beforeCompare (h : Hand) (lanes : Lanes) : Bool := h.pair != 0 && h.passed &&& lanes != lanes

/-- A primary's signatures have been compared: its waiting splits go on. -/
def Hand.compared (h : Hand) : Hand :=
  let h := if h.sigs.isEmpty then { h with
      passed := (h.parks.filter (fun p => p.2 == .compare)).foldl (fun m p => m ||| p.1) h.passed,
      parks := h.parks.filter (fun p => p.2 != .compare) }
    else h
  let held := if h.inTrap then h.trapMode &&& h.live else h.live
  if h.state == .parked && (held &&& ~~~h.parked) != 0 then { h with state := .ready } else h

/-- A twin's entries of a matched signature, but those in scratch, are gone: they never drain (R216, log 66). -/
def Hand.dropMatched (h : Hand) (rs : List (Nat × Nat)) : Hand :=
  { h with mem := (List.range h.mem.length).map (fun t =>
      let m := h.mem.getD t default
      { m with sb := m.sb.filter (fun e => spaceOf e.word == .scratch || !rs.contains (t, e.seq)) }) }

/-- Compare the signatures that both hands of a pair have completed: a match lets the entries drain, a mismatch raises SIGMIS in
both, which are killed. -/
def State.compareSigs : Nat → State → Nat → State
  | 0, s, _ => s
  | fuel + 1, s, k =>
    let p := s.hand (s.primaryOf k)
    match s.pairOf p with
    | none => s
    | some t =>
      match p.sigs, t.sigs with
      | a :: as, b :: bs =>
        if a.1 == b.1 then
          let s := s.updHand p.key (fun h => ({ h with sigs := as }).compared)
          let s := s.updHand t.key (fun h => ({ h with sigs := bs }).dropMatched b.2)
          State.compareSigs fuel s p.key
        else s.killGang p.key 0x17 none false
      | _, _ => s

def State.comparePair (s : State) (k : Nat) : State :=
  let h := s.hand k
  if h.pair = 0 then s else s.compareSigs (h.sigs.length + 1) k

/-- A split of a hand comes to a compare point: a primary's waits there until the signatures have been compared. -/
def State.atCompare (s : State) (k : Nat) (lanes : Lanes) : State :=
  let s := (s.updHand k Hand.cutSig).comparePair k
  s.updHand k (fun h => if h.pair == 1 && !h.sigs.isEmpty then { h with parks := h.parks ++ [(lanes, .compare)] }
    else { h with passed := h.passed ||| lanes })

/-! ## Results of a primary (R216) -/

/-- Work that a hand sends to memory or an engine outside its cluster. -/
def Work.sends : Work → Bool
  | .sent | .twin _ _ _ | .acq _ | .rel _ | .bind _ _ _ _ | .ann _ _ _ _ _ | .copy _ | .xcnt _ _ | .spawn _ _ _ _ _ _ _ _ _ _ _ => true
  | _ => false

/-- What a twin does in its place. A copy also claims and fills its own scratch. -/
def Work.asTwin (keys : List (Nat × Nat)) : Work → Work
  | .copy id => .copy id
  | .ann kind _ _ _ ls => .twin keys (some kind) (ls.map (fun l => (l.lane, l.obj, l.va)))
  | _ => .twin keys none []

/-- The thread's uncollected record (R232). -/
def Hand.ownOf (h : Hand) (t : Nat) : Option OwnRec := (h.own[t]?).join

/-- A primary's result is kept for its twin. -/
def Hand.forward (h : Hand) (id : Nat) : Hand :=
  match (if h.pair = 1 then h.outst.find? (fun o => o.id = id) else none) with
  | none => h
  | some o =>
    let of (t : Nat) (d : OutDst) : List LaneVal :=
      let mine := d.vals.filter (fun v => v.lane = t)
      if mine.isEmpty then d.vals.take 1 else mine
    { h with fwd := h.fwd ++ o.sent.map (fun x =>
        { lane := x.1, num := x.2, vals := o.dsts.map (of x.1), flags := o.flags,
          joins := (o.joins.filter (fun j => j.1 = x.1)).map Prod.snd, data := o.data,
          own := match o.work with
            | .ann 0 _ _ _ ls | .ann 2 _ _ _ ls => some ((ls.find? (fun l => l.lane = x.1)).bind AnnLane.kept)
            | _ => none }) }

/-- The primary's results under some keys; none while one is missing. -/
def State.forwards (s : State) (h : Hand) (keys : List (Nat × Nat)) : Option (List Forward) :=
  (s.pairOf h).bind (fun p => keys.mapM (fun x => p.fwd.find? (fun f => f.lane = x.1 && f.num == x.2)))

/-- A result of a twin, filled in with its primary's. -/
def Outst.take (o : Outst) (fs : List Forward) : Outst :=
  { o with
    back := o.lanes, flags := fs.foldl (fun n f => n ||| f.flags) o.flags,
    joins := fs.foldr (fun f acc => f.joins.map (fun v => (f.lane, v)) ++ acc) o.joins,
    dsts := (List.range o.dsts.length).map (fun j =>
      { (o.dsts.getD j default) with vals := fs.foldr (fun f acc => (f.vals.getD j []) ++ acc) [] }) }

/-- A twin takes the uncollected records of its primary's threads as result `id` left them (R216, R232). A `coll` that returns before the
`ann` of its record leaves that one nothing to give its lanes. -/
def State.takeOwn (s : State) (k id : Nat) (kind : Option Nat) (lanes : List Nat) (fs : List Forward) : State :=
  let fs := fs.filter (fun f => f.own.isSome && lanes.contains f.lane)
  let s := fs.foldl (fun s f => s.updHand k (fun h => { h with own := putAt 32 none (fun _ => f.own.join) f.lane h.own })) s
  let settled (o : Outst) : Outst := match o.work with
    | .twin keys (some 0) ls => if o.id < id then { o with work := .twin keys (some 0) (ls.filter (fun l => !fs.any (fun f => f.lane = l.1))) } else o
    | _ => o
  if kind = some 2 then s.updHand k (fun h => { h with outst := h.outst.map settled }) else s

/-- The twin has taken results: the primary forgets them. -/
def State.dropForwards (s : State) (h : Hand) (keys : List (Nat × Nat)) : State :=
  match s.pairOf h with
  | none => s
  | some p => s.updHand p.key (fun x => { x with fwd := x.fwd.filter (fun f => !keys.contains (f.lane, f.num)) })

end Sys2Proof.Machine
end

