-- ==== Sys2Proof/Machine/Ops.lean ====
section
/-!
DEFINITION. The operations that every instruction shares: raising a fault, taking an exception and returning from one
(spec/08), parking and outstanding results (spec/05 R119 to R121), registers that have to be spilled or refilled
(R128, R129), loop levels (R134 to R141), the end of a run (spec/03 R81, R85) and retiring an instruction.
-/
namespace Sys2Proof.Machine

/-- What an instruction with active lanes does: its effect; its effect with a PC given to some threads; a fault, with
no effect but steps accepted before it (R190, R192); nothing yet, its split being parked; the death of its hand, an active lane
having read an uncorrectable register word (R220); or an effect edge (R107). -/
inductive Done where
  | ok (s : State)
  | moved (s : State) (lanes : Lanes)
  | trap (s : State) (t : TrapInfo)
  | stall (s : State)
  | kill (s : State)
  | edge

/-- A fault of a split: code, INFO, `xval` and `xmask` (R208). -/
def SplitIssue.fault (i : SplitIssue) (act : Lanes) (code : BitVec 8) (info : BitVec 16) (val : DWord) (mask : Lanes) :
    TrapInfo :=
  { code := code, kind := 0, info := info, pc := i.pc, val := val, mask := mask, split := act }

/-- A fault with the values that R208 gives unless its table says otherwise: word 0 and the whole trapped split. -/
def SplitIssue.faultW (i : SplitIssue) (act : Lanes) (code : BitVec 8) (info : BitVec 16) : TrapInfo :=
  i.fault act code info (i.word0.zeroExtend 64) act

/-! ## Loop levels -/

/-- The index of the innermost VALID level at a depth that satisfies a test: the one declared last. -/
def innermost (lc : List Level) (p : Level → Bool) : Option Nat :=
  (List.range lc.length).foldl (fun best i =>
    let l := lc.getD i default
    if l.valid && p l then
      match best with
      | none => some i
      | some j => if (lc.getD j default).order < l.order then some i else some j
    else best) none

/-- Write STG into q1 to qS of a level's members (R135, R136, R139). Like every write, it replaces what earlier results, still
outstanding, would bring to them (R121, R140). -/
def driveStages (h : Hand) (l : Level) : Hand :=
  { h with
    q := (List.range h.q.length).map (fun n =>
      let m := h.q.getD n 0
      if 1 ≤ n ∧ n ≤ l.s.toNat then
        (if l.stg.getLsbD (n - 1) then m ||| l.memb else m &&& ~~~l.memb)
      else m),
    outst := (List.range l.s.toNat).foldl (fun os n => supersede (.q (n + 1)) l.memb os) h.outst }

/-- Retire one level: the innermost level that remains at its depth drives its members' stage predicates again (R139). -/
def Hand.retireOne (h : Hand) (idx : Nat) : Hand :=
  let l := h.lc.getD idx default
  let lc := putAt 6 default (fun x => { x with valid := false }) idx h.lc
  let h := { h with lc := lc }
  match innermost lc (fun x => x.depth == l.depth) with
  | some j => driveStages h (lc.getD j default)
  | none => h

/-- Retire the levels of a depth that were declared from some moment on, the last one first. -/
def Hand.retireFrom (depth : BitVec 5) (order : Nat) : Nat → Hand → Hand
  | 0, h => h
  | fuel + 1, h =>
    match innermost h.lc (fun x => x.depth == depth && order ≤ x.order) with
    | some j => Hand.retireFrom depth order fuel (h.retireOne j)
    | none => h

/-- Retire a level (R139): every level declared after it at its depth first, the last one first, then it. -/
def Hand.retireLevel (h : Hand) (idx : Nat) : Hand :=
  let l := h.lc.getD idx default
  Hand.retireFrom l.depth l.order 6 h

/-- Retire the levels that have lost their last member (R139). -/
def Hand.retireEmpty (h : Hand) : Hand :=
  (List.range 6).foldl (fun h i =>
    let l := h.lc.getD i default
    if l.valid && l.memb == 0 then h.retireLevel i else h) h

/-- Threads leave the levels that satisfy a test (R138). -/
def Hand.leaveLevels (h : Hand) (out : Level → Nat → Bool) : Hand :=
  let cut (l : Level) : Level :=
    if l.valid then
      let gone := Lanes.of (fun t => l.memb.has t && out l t)
      { l with memb := l.memb &&& ~~~gone, edge := l.edge &&& ~~~gone }
    else l
  { h with lc := h.lc.map cut }.retireEmpty

/-- A taken branch to an address outside [START, END] leaves every level at the thread's depth whose range it has left
(R138). -/
def Hand.leaveByBranch (h : Hand) (lanes : Lanes) : Hand :=
  h.leaveLevels (fun l t => lanes.has t && l.depth.toNat == h.depthOf t &&
    ((h.pcOf t).toNat < l.start.toNat || l.end_.toNat < (h.pcOf t).toNat))

/-- Threads that retire the instruction at `pc` and fall through reach the edge of the innermost level at their depth
that they are members of and whose END is that address (R136); not in trap mode (R141). -/
def Hand.reachEdge (h : Hand) (lanes : Lanes) (pc : DWord) : Hand :=
  if h.inTrap then h
  else { h with lc := (List.range h.lc.length).map (fun i =>
    let l := h.lc.getD i default
    if l.valid && l.end_ == pc then
      let hit := Lanes.of (fun t => lanes.has t && l.memb.has t && l.depth.toNat == h.depthOf t &&
        innermost h.lc (fun x => x.memb.has t && x.depth.toNat == h.depthOf t && x.end_ == pc) == some i)
      { l with edge := l.edge ||| hit }
    else l) }

/-- A level whose back edge is due (R136), the innermost first (R306). -/
def Hand.dueLevel (h : Hand) : Option Nat :=
  if h.inTrap then none else innermost h.lc (fun l => l.memb != 0 && l.edge == l.memb)

/-! ## Run end -/

/-- A hand may be swapped at a `yield` (R86). -/
def Hand.candidate (h : Hand) : Bool :=
  h.state == .asleep || (h.yields ≥ 16 && (h.state == .ready || h.state == .running || h.state == .parked))

/-- The run of a slot ends (R81): the slot is free to arbitrate, and the hand takes its next state. A `yield` leaves the
hand in the order of a swap (`swapAt` decides), a `yieldw` asleep (R85). A debugger's HALT is applied here (R203). -/
def State.endRun (s : State) (c k : Nat) (swapAt : State → Nat → State) : State :=
  let sl := s.slot c k
  match sl.hand with
  | none => s
  | some hk =>
    let s := s.updSlot c k (fun x => { x with hand := none, count := 0, second := none, ending := false, fate := .plain })
    let h := s.hand hk
    if h.state != .running then s
    else if h.haltReq || h.stepHalt then
      ((s.unwait hk).updHand hk (fun h => { h with haltReq := false, stepHalt := false, key64 := none })).swapOut hk .halted
    else match sl.fate with
      | .asleep => s.updHand hk (fun h => { h with state := .asleep })
      | .yielded => swapAt (s.updHand hk (fun h => { h with state := h.afterRun })) hk
      | .plain => s.updHand hk (fun h => { h with state := h.afterRun })

/-! ## Placement of one item (R73), used by the swap condition of R86 -/

/-- Quotas of the hands resident on a core. -/
def State.coreLoad (s : State) (c : Nat) : Nat :=
  (s.core c).hands.foldl (fun n x => match x with | some k => n + (s.hand k).quota | none => n) 0

/-- A core has a place for a hand of a quota (R73). -/
def State.hasPlace (s : State) (c quota : Nat) : Bool :=
  (s.core c).hands.any Option.isNone && s.coreLoad c + quota ≤ 1984

/-- Lowest 256-byte-aligned offset of a scratchpad at which `size` bytes are free (R72). -/
def State.freeScratch (s : State) (c size : Nat) : Option Nat :=
  let used := (s.core c).allocs.map (fun a => (a.2.2.1, a.2.2.2))
  ((0 :: used.map (fun u => (u.1 + u.2 + 255) / 256 * 256)).filter (fun o =>
      o + size ≤ 524288 && used.all (fun u => o + size ≤ u.1 || u.1 + u.2 ≤ o))).foldl
    (fun best o => match best with | none => some o | some b => some (min b o)) none

/-- The cores of a partition in placement order (R73): clusters ascending, then cores. -/
def State.partCores (s : State) (p : Nat) : List Nat :=
  let cl := (List.range 32).filter (fun c => (s.part p).cfg.clusters.getLsbD c)
  cl.foldr (fun c acc => (List.range 32).map (fun k => 32 * c + k) ++ acc) []

/-- Slots and slot bytes of a pipe-table entry, and the bytes of its slots (R77). -/
def pipeSlotBytes (e : DWord) : Nat := getField e 32 8 * getField e 16 16 * 256

/-- Offset of the first control block of a pipe allocation, and its size (R78). -/
def Pipe.blocksAt (p : Pipe) : Nat := (p.pipes.foldl (fun n e => n + pipeSlotBytes e) 0 + 127) / 128 * 128
def Pipe.size (p : Pipe) : Nat := (p.blocksAt + 128 * p.pipes.length + 4095) / 4096 * 4096

/-- Take scratch of a core for an allocation. -/
def State.takeScratch (s : State) (c : Nat) (lid : Word) (name size : Nat) : Option State :=
  (s.freeScratch c size).map (fun o => s.updCore c (fun x => { x with allocs := x.allocs ++ [(lid, name, o, size)] }))

/-- The groups linked to some groups of a launch through members that they share: share groups and gangs (R71). -/
def Launch.linked (l : Launch) : Nat → List Nat → List Nat
  | 0, gs => gs
  | fuel + 1, gs =>
    let hids := gs.foldl (fun acc g => acc ++ (l.group g).members) []
    let next := (List.range l.groups.length).filter (fun g => (l.group g).kind != 0 && (l.group g).members.any hids.contains)
    if next.length = gs.length then gs else Launch.linked l fuel next

/-- The cluster to which the share groups of a hand bind it (R71, R73): that of any placed allocation of a linked share
group, or of its instance's pipes. -/
def State.boundCluster (s : State) (h : Hand) : Option Nat :=
  let l := s.launch h.lid
  let own := h.groups.filter (fun g => (l.group g).kind != 0)
  let names := (l.linked l.groups.length own) ++ (match s.instanceOf h with | some n => [pipeAlloc n] | none => [])
  (names.filterMap (fun n => s.allocOf h.lid n)).head?.map (fun a => coreCluster a.1)

/-- The registers that a swapped hand still has in its core's pool (R88). -/
def Hand.inPool (h : Hand) : Nat := (h.map.filter (fun e => e.loc.isPhys)).length

/-- Free spill slots of a hand. -/
def Hand.freeSlots (h : Hand) : Nat :=
  h.slotCount - (h.map.filter (fun e => match e.loc with | .phys _ => false | .spill _ => true)).length

/-- A hand goes to a core (R72, R73, R78): a place, another cluster than its pair's (R216), the cluster of its share groups, and room for the pipes of its instance
and the share groups that it places first, which are allocated. A hand swapped out on another core needs a spill slot for
each register that is still there, and their results must have returned (R89, R204). -/
def State.allocFor (s : State) (h : Hand) (c : Nat) : Option State :=
  let l := s.launch h.lid
  let moves := h.state == .swapped && h.core ≠ c
  let paired := match s.pairOf h with
    | some x => x.state != .unplaced && coreCluster x.core == coreCluster c
    | none => false
  let away := paired || (match s.boundCluster h with | some x => x != coreCluster c | none => false)
  if !s.hasPlace c h.quota || away || (moves && (h.freeSlots < h.inPool || !h.allSettled)) then none
  else
    let s? := match s.instanceOf h, l.pipe with
      | some n, some p =>
        if (s.allocOf h.lid (pipeAlloc n)).isSome then some s else s.takeScratch c h.lid (pipeAlloc n) p.size
      | _, _ => some s
    (h.groups.filter (fun g => (l.group g).kind = 1)).foldl (fun s? gi => s?.bind (fun s =>
      if (s.allocOf h.lid gi).isSome then some s
      else s.takeScratch c h.lid gi (l.group gi).ssize)) s?

/-- A hand is resident on a core. -/
def Hand.resident (h : Hand) : Bool := h.state == .ready || h.state == .running || h.state == .parked || h.state == .asleep

/-- The place of a hand in its gang's MLIST (R73); 0 for a plain hand. -/
def State.offsetOf (s : State) (h : Hand) : Nat :=
  match h.gangId with
  | none => 0
  | some g => ((s.launch h.lid).group g).members.findIdx (fun m => m = h.hid)

/-- The consecutive cores that a hand's gang stands on; 1 for a plain hand. -/
def State.itemSpan (s : State) (h : Hand) : Nat :=
  match h.gangId with
  | none => 1
  | some g => ((s.launch h.lid).group g).members.length

/-- A gang that stands from a core on has its resident members where they are. -/
def State.besideMates (s : State) (h : Hand) (c : Nat) : Bool :=
  (s.gangKeys h).all (fun k => let x := s.hand k
    !x.resident || x.core == c + s.offsetOf x)

/-- The members of an item go to the cores of their places. -/
def State.allocItem (s : State) (keys : List Nat) (c : Nat) : Option State :=
  keys.foldl (fun (s? : Option State) k => s?.bind (fun s => s.allocFor (s.hand k) (c + s.offsetOf (s.hand k)))) (some s)

/-- The first core from which an item, a hand or a gang in MLIST order, can be placed at once, and the state with its
allocations (R73). -/
def State.fitItem (s : State) (keys : List Nat) : Option (Nat × State) :=
  let h := s.hand (keys.headD 0)
  let n := s.itemSpan h
  ((s.partCores h.part).filter (fun c => (n ≤ 1 || c % 8 + n ≤ 8) && s.besideMates h c)).findSome? (fun c =>
    (s.allocItem keys c).map (fun s => (c, s)))

/-- In MODE 1, the window of every group of a hand is complete (R45). -/
def State.windowsOpen (s : State) (h : Hand) : Bool :=
  match (s.launch h.lid).node with
  | none => true
  | some (d, i) =>
    !(s.graphOf d i).any Graph.mode || ((s.launch h.lid).windows h).all (fun g => s.window d i g == .complete)

/-- A hand that placement tries: not resident, not asleep, its memberships fit (R206), the records of its predecessor are settled, and no
segment at an effect edge,
which only the Dealer places again (R104). -/
def State.placeable (s : State) (h : Hand) : Bool :=
  (h.state == .unplaced || h.state == .swapped) && h.ctxStatus != 1 && !s.unsettled h &&
    (h.state == .swapped || s.windowsOpen h) &&
    (match h.seg.bind s.seg? with
    | some e => e.state != 4 && e.state != 7
    | none => true)

/-- A running checkpoint or restore covers a partition (R57, R61). -/
def State.covered (s : State) (p : Nat) : Bool := match s.ckpt with | some c => c.parts.getLsbD p | none => false

/-- A member of a gang that the placement of the gang passes over (R87): it is resident already, has ended, or is halted. -/
def Hand.passedOver (h : Hand) : Bool := h.resident || h.state == .done || h.state == .killed || h.state == .halted

/-- Non-resident work of a partition in placement order (R74, R87): each item is the keys of a hand or of its gang, of which members
that stay out of the placement are left out. -/
def State.waiting (s : State) (p : Nat) : List (List Nat) :=
  if !(s.part p).cfg.en || (s.part p).quiesced || s.covered p then []
  else
    let hs := s.launches.foldr (fun l acc =>
      (if l.part = p then
        (List.range (l.nextHid)).filterMap (fun hid => s.handOf l.lid hid)
      else []) ++ acc) []
    (hs.filter s.placeable).filterMap (fun h =>
      let ms := ((s.gangKeys h).map s.hand).filter (fun x => !x.passedOver)
      if ms.all s.placeable && ms.all (fun x => h.hid ≤ x.hid) then some (ms.map Hand.key) else none)

/-- Some item of the partition fits at once: the head, or in order what R74 lets pass it (R73 to R75). -/
def State.someItemFits (s : State) (p : Nat) : Bool :=
  let items := s.waiting p
  match items with
  | [] => false
  | hd :: rest =>
    (s.fitItem hd).isSome ||
      (!(s.part p).reserve && rest.any (fun it => (s.hand (it.headD 0)).lid != (s.hand (hd.headD 0)).lid &&
        (s.fitItem it).isSome))

/-- The swap condition of R86 for one candidate: freeing its places, or its whole gang's, lets an item be placed at once.
A gang is swapped only when every member is a candidate. -/
def State.swapHelps (s : State) (k : Nat) : Bool :=
  let h := s.hand k
  let ks := s.gangKeys h
  ks.all (fun j => (s.hand j).candidate) && (ks.foldl (fun s j => s.freePlace j) s).someItemFits h.part

/-- A `yield` retires on a core (R85, R86): when the swap condition holds, the retiring hand is swapped if it is a
candidate, otherwise the candidate with the lowest hand-slot number; a gang is swapped as a whole. -/
def State.yieldSwap (s : State) (k : Nat) : State :=
  let h := s.hand k
  let onCore := (s.core h.core).hands.filterMap id
  let cands := onCore.filter (fun j => (s.hand j).part == h.part && (s.hand j).candidate && s.swapHelps j)
  match (if cands.contains k then some k else cands.head?) with
  | none => s
  | some v => (s.gangKeys (s.hand v)).foldl (fun s j =>
      s.swapOut j (if (s.hand j).state == .asleep then .swappedAsleep else .swapped)) s

/-- The cycle of a slot is complete (R115, R117): unless the second fetch port still has to issue, the run ends where
R81 says so, and a hand whose last thread has exited is DONE. -/
def State.finishCycle (s : State) (c k : Nat) : State :=
  let sl := s.slot c k
  match sl.hand, sl.second with
  | some hk, none =>
    let h := s.hand hk
    if h.state != .running then s
    else if h.live == 0 then s.handDone hk
    else if sl.ending || h.pendTrap.isSome || h.allParked then s.endRun c k State.yieldSwap
    else s
  | _, _ => s

/-! ## Effect edges (R107) -/

/-- A SPECRUN hand reaches an effect edge: its context is saved with its threads at the instruction, its place is free
and its segment waits. -/
def State.effectEdge (s : State) (hk : Nat) : State :=
  match (s.hand hk).seg with
  | none => s
  | some p => (s.swapOut hk .swapped).updSeg p (fun e => { e with state := 4 })

/-! ## Raising a fault (R189 to R191, R193) -/

/-- Raise a fault, `trap` or `brk` for a split. PAGE is served: the split parks and re-executes. CHKSUM and SIGMIS kill.
A HAND-class trap is taken at the hand's next grant (R196), or fails the hand when `xvec`.EN is 0 or a thread of the
split is in trap mode (R189, R197). When the other instruction of the cycle has trapped, this one has no effect and its
threads stay (R190). -/
def State.raise (s : State) (i : SplitIssue) (t : TrapInfo) : State :=
  let h := s.hand i.hand
  if h.state != .running || h.pendTrap.isSome then s
  else if s.specRun h then s.effectEdge i.hand
  else if t.code == 0x0B && t.kind == 0 then
    let s := match s.translate h.asid t.val .read with
      | .page home e => s.requestPage h.core h.asid t.val home e
      | _ => s
    s.updHand i.hand (fun h => { h with parks := h.parks ++ [(t.split, .page h.asid t.val t.mask none)] })
  else if t.code == 0x16 || t.code == 0x17 then s.killGang i.hand t.code (some i.pc) false
  else if (t.split &&& h.trapMode) != 0 || !h.trapRegs.xvec.getLsbD 0 then s.killGang i.hand t.code (some i.pc) false
  else
    (s.updHand i.hand (fun h => { h with pendTrap := some t, yields := if t.kind == 0 then h.yields else 0 })).updSlot
      i.core i.slot (fun x => { x with ending := true })

/-! ## Taking an exception (R196) and returning from one (R198) -/

/-- `xcause` of a trap (R200). -/
def TrapInfo.cause (t : TrapInfo) : DWord :=
  BitVec.ofNat 64 ((if t.kind == 0 then t.code.toNat else 0) + t.kind.toNat * 2 ^ 8 + t.info.toNat * 2 ^ 16)

/-- Hand-side part of trap entry: the trap registers, trap mode of the trapped split, a zeroed trap window, and PCs at
`xvec`[63:2] × 4. -/
def Hand.enterTrap (h : Hand) (t : TrapInfo) : Hand :=
  { h with
    trapRegs := { h.trapRegs with xcause := t.cause, xpc := t.pc, xval := t.val, xmask := t.mask.zeroExtend 64 },
    trapMode := t.split, trapSplit := t.split, heldTret := 0, trapDepth := h.depth, passed := h.passed &&& ~~~t.split,
    trapWin := List.replicate 16 GReg.zero,
    pc := (List.range 32).map (fun n => if t.split.has n then h.trapRegs.xvec &&& ~~~3 else h.pc.getD n 0),
    pendTrap := none }

/-- The trap window of slot `k` is the hand's, and of no other slot. -/
def State.ownWindow (s : State) (c k hk : Nat) : State :=
  s.updCore c (fun x => { x with slots := (List.range x.slots.length).map (fun j =>
    let y := x.slots.getD j Slot.init
    if j = k then { y with winOwner := some hk } else if y.winOwner == some hk then { y with winOwner := none } else y) })

/-- The slot's trap window becomes the hand's (R199): the Squirrel first writes the image it holds to its owner's context
record, and then, for a hand that was in trap mode already, loads its own; the split waits for the moves. Its own image goes to its
record first when another slot's window holds it (log 99). -/
def State.claimWindow (s : State) (c k hk : Nat) (load : Bool) : State :=
  match (s.slot c k).winOwner with
  | none => s.ownWindow c k hk
  | some o =>
    if o = hk then s
    else
      let save (s : State) (h : Hand) : State := s.areaWrite h 0x580 h.trapImage
      let s := match s.hand? o with
        | some oh => save s oh
        | none => s
      let h := s.hand hk
      let s := if load && !s.windowAway h then save s h else s
      (s.ownWindow c k hk).updHand hk (fun h =>
        { h with squirrel := h.squirrel ++ [.trapMove load], parks := h.parks ++ [(h.trapMode, .squirrel)] })

/-- Take an exception at the hand's grant in a slot (R196). With debug enabled, `brk` then halts its hand (R203). -/
def State.takeTrap (s : State) (c k hk : Nat) (t : TrapInfo) : State :=
  let s := (s.updHand hk (fun h => h.enterTrap t)).claimWindow c k hk false
  if t.kind == 2 && (s.part (s.hand hk).part).cfg.dbg then
    (s.updHand hk (fun h => { h with haltReq := true })).endRun c k (fun s _ => s)
  else s

/-- A trap of the hand is pending or has not ended yet. -/
def Hand.trapBusy (h : Hand) : Bool := h.pendTrap.isSome || h.trapSplit != 0

/-- The next of the traps that waited is pending. -/
def Hand.nextTrap (h : Hand) : Hand :=
  match h.laterTraps with
  | [] => h
  | t :: ts => { h with pendTrap := some t, laterTraps := ts, parks := h.parks.filter (fun p => !(p.1 == t.split && p.2 == .trap)) }

/-- End trap mode when its last thread has executed `tret` or exited (R195, R198): every thread of the trapped split that
did not exit continues at `xpc`, in its original depth, and the held threads vote again. -/
def Hand.endTrapMode (h : Hand) : Hand :=
  if h.trapSplit != 0 && (h.trapMode &&& h.live) == 0 then
    { h with
      pc := (List.range 32).map (fun n =>
        if h.trapSplit.has n && h.live.has n then h.trapRegs.xpc else h.pc.getD n 0),
      depth := if h.trapDepth.isEmpty then h.depth else (List.range 32).map (fun n =>
        if h.trapSplit.has n then h.trapDepth.getD n 0 else h.depthOf n),
      redo := h.redo.filter (fun r => !h.trapSplit.has r.lane || r.pc == h.trapRegs.xpc),
      trapMode := 0, trapSplit := 0, heldTret := 0, trapDepth := [] }.nextTrap
  else h

/-- Return from an exception: the threads leave trap mode and are held until it has ended (R195, R198). -/
def Hand.returnFromTrap (h : Hand) (lanes : Lanes) : Hand :=
  ({ h with trapMode := h.trapMode &&& ~~~lanes, heldTret := h.heldTret ||| lanes }).endTrapMode

/-! ## Outstanding results -/

/-- The threads of the issuing split. -/
def State.issuing (s : State) : Lanes :=
  match s.cur with
  | some (.split i) => i.lanes
  | _ => 0

/-- A result with its destinations becomes outstanding for every thread of the issuing split, and brings values to `lanes`
(R119); unmapped g destinations are mapped. The number of the result is the hand's `nextId`. -/
def State.addOutst (s : State) (k : Nat) (lanes : Lanes) (work : Work) (dsts : List OutDst) (back : Lanes)
    (flags : BitVec 5) : State :=
  let s := dsts.foldl (fun s d => s.allocFresh k d.dst) s
  s.updHand k (fun h =>
    let sent := if h.pair != 0 && work.sends then lanes.list.map (fun t => (t, h.sends.getD t 0)) else []
    { h with nextId := h.nextId + 1,
             sends := if sent.isEmpty then h.sends else sent.foldl (fun l x => putAt 32 0 (fun n => n + 1) x.1 l) h.sends,
             outst := h.outst ++ [{ id := h.nextId, lanes := lanes,
                                    work := if h.pair == 2 && !sent.isEmpty then work.asTwin sent else work,
                                    dsts := dsts, back := back, returned := false, flags := flags, joins := [], sent := sent,
                                    data := [], split := lanes ||| s.issuing }] })

/-- A hand-level destination with a fixed value, the same for every lane. -/
def uniformDst (d : Dst) (tag : BitVec 4) (v : DWord) : OutDst :=
  { dst := d, tag := tag, skip := 0, vals := allLanes.map (fun t => { lane := t, value := v, bad := false }) }

/-- A hand-level destination whose data did not arrive: 0 with tag POISON (R155, R313). -/
def poisonedDst (d : Dst) (tag : BitVec 4) : OutDst :=
  { dst := d, tag := tag, skip := 0, vals := allLanes.map (fun t => { lane := t, value := 0, bad := true, lost := true }) }

/-- A hand-level destination whose value is not known yet. -/
def pendingDst (d : Dst) (tag : BitVec 4) : OutDst := { dst := d, tag := tag, skip := 0, vals := [] }

/-- A g destination of lanes, one entry for each place in which they resolve the name. -/
def Hand.gDsts (h : Hand) (lanes : Lanes) (n : Nat) (tag : BitVec 4) (zeroName : Nat) : List OutDst :=
  if n = zeroName then []
  else (h.places lanes n).map (fun p => { dst := p.1, tag := tag, skip := ~~~p.2, vals := [] })

/-- Write a returned destination into the registers, in lanes whose threads have not exited (R294). A write for none of whose lanes
data came is one of tag POISON. A full write gives its tag, and later writes of the program that have come first then leave theirs. -/
def State.commitDst (s : State) (k : Nat) (back : Lanes) (full : Bool) (d : OutDst) : State :=
  let h := s.hand k
  let val (t : Nat) : LaneVal := (d.vals.find? (fun v => v.lane = t)).getD { lane := t, value := 0, bad := false }
  let has (t : Nat) : Bool := d.vals.any (fun v => v.lane = t)
  match d.dst with
  | .g _ _ | .trapG _ =>
    let m := Lanes.of (fun t => back.has t && has t && !d.skip.has t && h.live.has t)
    let own := if m.list.all (fun t => (val t).lost) then 0xF else d.tag
    let tag := if full then d.later.foldl (fun old new => tagAfter old new false) own else own
    if m == 0 then s
    else s.writeDst k d.dst m (fun t => (val t).value.setWidth 32) (Lanes.of (fun t => (val t).bad)) tag full
  | .h n =>
    match d.vals.head? with
    | none => s
    | some v => if d.skip == 0xFFFFFFFF then s
      else s.updHand k (fun h => h.putH n v.value (if v.lost then 0xF else d.tag) (if v.bad then 0xFFFFFFFF else 0))
  | .q n =>
    let m := Lanes.of (fun t => back.has t && has t && !d.skip.has t && h.live.has t)
    s.updHand k (fun h => h.putQ n m (fun t => (val t).value != 0))
  | .k n =>
    match d.vals.head? with
    | none => s
    | some v => if d.skip == 0xFFFFFFFF then s else s.updHand k (fun h => h.putK n (v.value.setWidth 16))
  | .c n =>
    match d.vals.head? with
    | none => s
    | some v => if d.skip == 0xFFFFFFFF then s else s.updHand k (fun h => h.putC n (v.value.setWidth 32))

/-- Two destination lists share a name. -/
def sharesDst (a b : List OutDst) : Bool := a.any (fun x => b.any (fun y => y.dst = x.dst))

/-- Of outstanding results in program order, those that can be written now: returned, and no earlier one that has not
returned names the same destination (R121). -/
def committable (earlier : List Outst) : List Outst → List Outst
  | [] => []
  | o :: os =>
    if o.returned && !earlier.any (fun e => sharesDst e.dsts o.dsts) then o :: committable earlier os
    else committable (earlier ++ [o]) os

/-- A thread is parked at a switch marker. -/
def Hand.atMarker (h : Hand) (t : Nat) : Bool := h.parks.any (fun p => p.1.has t && p.2 == .marker)

/-- Threads come to a switch marker: they join the views of the engine results that it covers (R182). -/
def Hand.takeOwed (h : Hand) (lanes : Lanes) : Hand :=
  { h with
    mem := (List.range h.mem.length).map (fun t =>
      let m := h.mem.getD t default
      if lanes.has t then { m with view := h.owed.foldl (fun v j => if j.1 = t then View.join v j.2 else v) m.view } else m),
    owed := h.owed.filter (fun j => !lanes.has j.1) }

/-- A result returns (R119): its flags and joins take effect, it is written into the registers in program order, and
splits that waited for it wake. A result whose threads have all exited is discarded (R294). A hand that is not resident takes it in its context record (R366). -/
def State.returnResult (s : State) (k id : Nat) : State :=
  let s := s.reload k
  let before := s.hand k
  let s := s.updHand k (fun h =>
    match h.outst.find? (fun o => o.id = id) with
    | none => h
    | some o =>
      let h := (h.orFlags o.flags).forward id
      { h with
        mem := (List.range h.mem.length).map (fun t =>
          let m := h.mem.getD t default
          { m with view := (o.joins ++ o.owed.filter (fun j => h.atMarker j.1)).foldl (fun v j => if j.1 = t then View.join v j.2 else v) m.view }),
        owed := h.owed ++ o.owed.filter (fun j => !h.atMarker j.1),
        outst := updWhere (fun x => x.id = id) (fun x => { x with returned := true }) h.outst })
  let now := committable [] (s.hand k).outst
  let s := now.foldl (fun s o =>
    if (o.split &&& (s.hand k).live) == 0 then s else o.dsts.foldl (fun s d => s.commitDst k o.back ((s.hand k).coveredBy o.back) d) s) s
  let s := s.updHand k (fun h =>
    ({ h with outst := h.outst.filter (fun o => !now.any (fun n => n.id = o.id)) }).wakeUp)
  (s.logDiscards before).patchCtx before

/-- Change an outstanding result. -/
def State.updOutst (s : State) (k id : Nat) (f : Outst → Outst) : State :=
  s.updHand k (fun h => { h with outst := updWhere (fun o => o.id = id) f h.outst })

/-- Return a result once every one of its lanes has its value. -/
def State.returnIfDone (s : State) (k id : Nat) : State :=
  match (s.hand k).outst.find? (fun o => o.id = id) with
  | some o => if !o.returned && (o.lanes &&& ~~~o.back) == 0 then s.returnResult k id else s
  | none => s

/-- The values of a result are known: each lane sees them from a moment of its own (the step's lanes now, the others in later
steps RESULT_RETURN, R118, R121), and the result returns when all of its lanes do. -/
def State.deliverResult (s : State) (k id : Nat) : State :=
  (s.updOutst k id (fun o => { o with work := .value, back := o.back ||| s.args.lanes })).returnIfDone k id

/-- Give a lane of a result its values, one for each logical destination; a destination that lanes resolve in several
places has one entry for each. A lane for which no data came takes tag POISON (R155, R159). -/
def Outst.fill (o : Outst) (lane : Nat) (vals : List (DWord × Bool)) (lost : Bool := false) : Outst :=
  let per := o.dsts.length / vals.length
  let put (k : Nat) (d : OutDst) : OutDst :=
    if d.skip.has lane && (match d.dst with | .g _ _ | .trapG _ => true | _ => false) then d
    else match vals[k / per]? with
      | some v => { d with vals := d.vals ++ [{ lane := lane, value := v.1, bad := v.2, lost := lost }] }
      | none => d
  { o with back := o.back ||| Lanes.one lane, dsts := (List.range o.dsts.length).map (fun k => put k (o.dsts.getD k default)) }

/-- A hand-level result of an instruction that acts outside the cluster. A twin acts on nothing, and takes its primary's result
(R216). -/
def State.sentAnswer (i : SplitIssue) (act : Lanes) (dsts : List Dst) (act? : State → List OutDst × State) (s : State) : Done :=
  if (s.hand i.hand).pair = 2 then .ok (s.addOutst i.hand act .sent (dsts.map (fun d => pendingDst d 0)) 0 0)
  else
    let (ds, s) := act? s
    .ok (s.addOutst i.hand act .sent ds 0 0)

/-! ## Registers that must be spilled or refilled (R128, R129, R88) -/

/-- What stands between an instruction and its registers. -/
inductive RegNeed where
  | ready
  | job (j : SquirrelJob)
  | spillx
  deriving DecidableEq, Repr

/-- The bank whose victims' registers are spilled before a hand allocates `n` registers: that of the newcomer's first allocation, where it
holds registers of a hand that has been swapped out (R88); and when too few are free, one that holds such registers (log 48). -/
def State.victimBank (s : State) (h : Hand) (n : Nat) : Option Nat :=
  let c := h.core
  let pool := (s.core c).pool
  let victims := pool.filter (fun p => let h := s.hand p.owner
    (h.state == .swapped || h.state == .swappedAsleep || h.state == .halted) && h.freeSlot.isSome)
  match (if (s.core c).hasFree n then (s.core c).freeReg else none) with
  | some i => if h.newcomer && victims.any (fun p => p.idx / 128 == i / 128) then some (i / 128) else none
  | none => victims.head?.map (fun p => p.idx / 128)

/-- The victim of a spill under the quota (R128). A window with a register that the instruction names counts as one in which threads
stand: of a call both that of its source and that of its link (log 111). -/
def Hand.spillVictim (h : Hand) (named : List Dst) : Option SquirrelJob :=
  let phys := h.map.filter (fun e => e.loc.isPhys)
  let stands (d : Nat) : Bool := h.live.list.any (fun t => h.depthOf t == d) ||
    named.any (fun x => match x with | .g (some w) _ => w == d | _ => false)
  let whole := (List.range 32).find? (fun d => !stands d && phys.any (fun e => e.win == some d))
  match whole with
  | some d => some (.spillWindow d)
  | none =>
    let free := phys.filter (fun e => !named.contains (.g e.win e.name))
    let rank (e : MapEntry) : Nat := (match e.win with | some d => d | none => 32) * 64 + e.name
    let best := free.foldl (fun b e => match b with
      | none => some e
      | some x => if rank e < rank x then some e else some x) (none : Option MapEntry)
    best.map (fun e => .spillReg e.win e.name)

/-- The spill slots that a spill takes. -/
def Hand.spillSize (h : Hand) (j : SquirrelJob) : Nat :=
  match j with
  | .spillWindow d => (h.map.filter (fun e => e.win == some d && e.loc.isPhys)).length
  | _ => 1

/-- What the Squirrel has to do before an instruction has its registers: those it reads and writes, with whether its write is a full
one (R126), and the other registers that it names. `freed` are the names that the instruction's LR bits free before its write (R127). -/
def State.needOf (s : State) (k : Nat) (rd wr named : List Dst) (full : Bool) (freed : List Dst) : RegNeed :=
  let h := s.hand k
  let spilled (d : Dst) : Bool := match d with
    | .g w n => match h.mapping w n with
      | some e => (match e.loc with | .spill _ => true | .phys _ => false)
      | none => false
    | _ => false
  let refill := rd.filter spilled ++ wr.filter (fun d => spilled d && !full && !freed.contains d)
  let fresh := (wr.filter (fun d => h.needsPhys d || freed.contains d)).length
  let back := (h.map.filter (fun e => e.loc.isPhys && freed.contains (.g e.win e.name))).length
  let makeRoom : RegNeed := match h.spillVictim (rd ++ wr ++ named) with
    | some j => if h.freeSlots < h.spillSize j then .spillx else .job j
    | none => .spillx
  match refill with
  | .g w n :: _ =>
    if h.footprint + 1 > h.quota then makeRoom
    else match s.victimBank h 1 with
      | some b => .job (.spillBank b)
      | none => if (s.core h.core).hasFree 1 then .job (.refill w n) else .spillx
  | _ =>
    if fresh = 0 then .ready
    else if h.footprint + fresh > h.quota + back then makeRoom
    else match s.victimBank h (fresh - back) with
      | some b => .job (.spillBank b)
      | none => if (s.core h.core).hasFree (fresh - back) then .ready else .spillx

/-- Whether the hand has the registers that an instruction reads and writes in its active lanes. -/
def State.regNeed (s : State) (k : Nat) (act : Lanes) (reads writes : List Nat) (freed : List Dst) : RegNeed :=
  let h := s.hand k
  let at_ (ns : List Nat) : List Dst := ns.foldl (fun acc n => acc ++ (h.places act n).map Prod.fst) []
  s.needOf k (at_ reads) (at_ writes) [] (h.coveredBy act) freed

/-- Park threads as an engine wait on the Squirrel (R128, R129). -/
def State.waitSquirrel (s : State) (k : Nat) (lanes : Lanes) (j : SquirrelJob) : State :=
  s.updHand k (fun h => { h with squirrel := h.squirrel ++ [j], parks := h.parks ++ [(lanes, .squirrel)] })

/-! ## Issue and retirement -/

/-- The active lanes of an issue (R254). -/
def SplitIssue.active (i : SplitIssue) (h : Hand) (w : CoreWords) : Lanes :=
  let (n, inv) := w.pred
  Lanes.of (fun t => i.lanes.has t && (h.readQ t n ^^ inv))

/-- Count an issued instruction towards the run (R81, R117): RB ends it when the instruction retires, and in a cycle that issues two
instructions in any case; so does the 24th instruction, which without RB adds to the core's forced-boundary counter. -/
def State.countIssue (s : State) (i : SplitIssue) (rb : Bool) (retires : Bool := true) : State :=
  let sl := s.slot i.core i.slot
  let last := sl.count + 1 ≥ 24
  let ends := last || (rb && (retires || i.second || sl.second.isSome))
  let s := s.updSlot i.core i.slot (fun x => { x with count := x.count + 1, ending := x.ending || ends })
  if last && !rb then s.updCore i.core (fun c => { c with forced := c.forced + 1 }) else s

/-- Retire an instruction: threads of the split that were given no PC continue at the next instruction, and reach the
edge of a level there (R136); an instruction that acts outside the hand returns the yield count to 0 (R86); SW parks the
split until its outstanding results have returned (R120); the instruction counts towards the run. -/
def State.retire (s : State) (i : SplitIssue) (w : CoreWords) (moved : Lanes) (outside : Bool) : State :=
  let fall := i.lanes &&& ~~~moved
  let s := s.updHand i.hand (fun h =>
    let h := { h with
      pc := (List.range 32).map (fun t => if fall.has t && h.live.has t then i.next else h.pc.getD t 0),
      yields := if outside then 0 else h.yields, passed := h.passed &&& ~~~i.lanes }
    let h := h.reachEdge (fall &&& h.live) i.pc
    let h := if w.sw && !h.owed.isEmpty then h.takeOwed i.lanes else h
    if w.sw && h.outst.any (fun o => !o.returned && (o.split &&& i.lanes) != 0) then
      { h with parks := h.parks ++ [(i.lanes &&& h.live, .marker)] }
    else h)
  (s.countIssue i w.rb).finishCycle i.core i.slot

/-- How an instruction counts: whether it acts outside the hand (R86), whether it is an effect edge of a SPECRUN hand (R107), and
for a paired hand whether signatures are compared before it, or after it (R217). -/
structure Kind where
  outside : Bool := false
  edge : Bool := false
  sync : Bool := false
  signs : Bool := false

/-- Execute a core instruction of the issuing split: with no active lane it only retires (R254); in a SPECRUN hand an
effect edge stops the hand there (R107); otherwise its body decides. -/
def execCore (kind : Kind) (w : CoreWords) (s : State) (body : SplitIssue → Lanes → State → Done) :
    Host.Outcome State Fault Refusal :=
  match s.cur with
  | some (.split i) =>
    let h := s.hand i.hand
    let act := i.active h w
    .next (
      if act == 0 then s.retire i w 0 false
      else if kind.edge && s.specRun h then (s.effectEdge i.hand).finishCycle i.core i.slot
      else if kind.sync && h.beforeCompare i.lanes then ((s.atCompare i.hand i.lanes).countIssue i w.rb false).finishCycle i.core i.slot
      else match body i act s with
        | .ok s' =>
          let s' := (s'.retire i w 0 kind.outside).logDiscards h
          if kind.signs then s'.comparePair i.hand else s'
        | .moved s' m => (s'.retire i w m kind.outside).logDiscards h
        | .trap s' t =>
          let s' := if s.specRun h || h.pendTrap.isSome then s else s'
          let s' := if t.code == 0x12 then s'.readPoison i.hand t.info t.mask else s'
          ((s'.countIssue i w.rb false).raise i t).finishCycle i.core i.slot
        | .stall s' => (s'.countIssue i w.rb false).finishCycle i.core i.slot
        | .kill s' => ((s'.countIssue i w.rb false).killGang i.hand 0x12 (some i.pc) false).finishCycle i.core i.slot
        | .edge => (s.effectEdge i.hand).finishCycle i.core i.slot)
  | _ => .refused .noIssuer

end Sys2Proof.Machine
end

