-- ==== Sys2Proof/Machine/Operands.lean ====
section
/-!
DEFINITION. Operand forms: what each source position reads (spec/12 R250 to R253, spec/13 R286), the checks of R131,
R132 and R133 in the order of R193, last-read bits (R127), and the shared shape of an instruction that reads registers
and writes them.
-/
namespace Sys2Proof.Machine

/-- A source as the instruction names it. -/
inductive Operand where
  /-- The literal-or-zero name (R252). -/
  | lit (v : DWord)
  | g (n : Nat)
  /-- A g pair: low word in `n`, high word in `n + 1` (R286). -/
  | pair (n : Nat)
  /-- A quad of g names (R320). -/
  | quad (n : Nat)
  | h (n : Nat)
  deriving DecidableEq, Repr

/-- What an instruction checks of a source: only poison; or also that it is tagged S32, N32, RAW32 or ADDR (R131). -/
inductive Check where
  | move | int
  deriving DecidableEq, Repr

/-- The g names of a source. -/
def Operand.gNames : Operand → List Nat
  | .g n => [n]
  | .pair n => [n, n + 1]
  | .quad n => [n, n + 1, n + 2, n + 3]
  | _ => []

end Sys2Proof.Machine

namespace Sys2Proof
open Sys2Proof.Machine

def CoreWords.gName (w : CoreWords) (n : Nat) : Operand := if n = w.zeroName then .lit w.litVal else .g n
def CoreWords.pairName (w : CoreWords) (n : Nat) : Operand := if n = w.zeroName then .lit w.litVal else .pair n

/-- The sources A, B and C of class g, and A of class h. -/
def CoreWords.gA (w : CoreWords) : Operand := w.gName w.nameA
def CoreWords.gB (w : CoreWords) : Operand := w.gName w.nameB
def CoreWords.gC (w : CoreWords) : Operand := w.gName w.nameC
def CoreWords.hA (w : CoreWords) : Operand := .h w.nameA
def CoreWords.hB (w : CoreWords) : Operand := .h w.nameB
def CoreWords.pA (w : CoreWords) : Operand := w.pairName w.nameA
def CoreWords.pB (w : CoreWords) : Operand := w.pairName w.nameB

/-- The g names that an instruction's LR bits name, by position (R127, R248). -/
def CoreWords.lrNames (w : CoreWords) (a b c : Operand) : List Nat :=
  (if w.x.lr.getLsbD 0 then a.gNames else []) ++ (if w.x.lr.getLsbD 1 then b.gNames else []) ++
    (if w.x.lr.getLsbD 2 then c.gNames else [])

/-- The destination names of class g, none for the discarded literal-or-zero name (R125). -/
def CoreWords.gDst (w : CoreWords) : List Nat := if w.nameD = w.zeroName then [] else [w.nameD]
def CoreWords.pairDst (w : CoreWords) : List Nat := if w.nameD = w.zeroName then [] else [w.nameD, w.nameD + 1]

/-- The lowest lane of a mask. -/
def Lanes.lowest (m : Lanes) : Nat := (m.list.head?).getD 0

end Sys2Proof

namespace Sys2Proof.Machine

/-- The registers of a source, by name, as a lane reads them. -/
def Operand.reads (o : Operand) (h : Hand) (uni : Uniform) (t : Nat) : List (Nat × LaneRead) :=
  match o with
  | .lit _ => []
  | .h n => [(n, h.readH uni t n)]
  | .g n => [(n, h.readG t n)]
  | .pair n => [(n, h.readG t n), (n + 1, h.readG t (n + 1))]
  | .quad n => [(n, h.readG t n), (n + 1, h.readG t (n + 1)), (n + 2, h.readG t (n + 2)), (n + 3, h.readG t (n + 3))]

/-- The 64-bit value of a source in a lane: a g register gives its word, zero-extended. -/
def Operand.val (o : Operand) (h : Hand) (uni : Uniform) (t : Nat) : DWord :=
  match o with
  | .lit v => v
  | .h n => (h.readH uni t n).value
  | .g n => (h.readG t n).value
  | .pair n => ((h.readG t (n + 1)).value <<< 32) ||| (h.readG t n).value
  | .quad n => ((h.readG t (n + 1)).value <<< 32) ||| (h.readG t n).value

/-- The word of a source in a lane: bits [31:0] (R250, R253). -/
def Operand.word (o : Operand) (h : Hand) (uni : Uniform) (t : Nat) : Word := (o.val h uni t).setWidth 32

/-- The tag that a source carries in a lane; RAW32 for a literal. -/
def Operand.tag (o : Operand) (h : Hand) (uni : Uniform) (t : Nat) : BitVec 4 :=
  match o.reads h uni t with
  | (_, r) :: _ => r.tag
  | [] => 0

/-- The number of the first register of a source that fails a test in an active lane, with the lanes that fail. -/
def firstBad (act : Lanes) (h : Hand) (uni : Uniform) (o : Operand) (bad : LaneRead → Bool) : Option (Nat × Lanes) :=
  ((o.reads h uni 0).map Prod.fst).foldl (fun acc n =>
    match acc with
    | some x => some x
    | none =>
      let m := Lanes.of (fun t => act.has t && (o.reads h uni t).any (fun p => p.1 = n && bad p.2))
      if m == 0 then none else some (n, m)) none

/-- A tag that integer instructions accept (R131). -/
def intTag (t : BitVec 4) : Bool := t == 0 || t == 1 || t == 2 || t == 0xD

/-- An ADDR tag counts as S32 in checks (R233). -/
def checkTag (t : BitVec 4) : BitVec 4 := if t == 0xD then 1 else t

/-- The first of a list of tests over sources that finds a fault. -/
def firstSome {α β : Type} (f : α → Option β) : List α → Option β
  | [] => none
  | a :: l => match f a with
    | some b => some b
    | none => firstSome f l

/-- POISON of a source (R133): INFO names the register, `xmask` holds the poisoned active lanes. -/
def poisonOf (i : SplitIssue) (act : Lanes) (h : Hand) (o : Operand) : Option TrapInfo :=
  (firstBad act h i.uni o LaneRead.poison).map (fun p =>
    i.fault act 0x12 (BitVec.ofNat 16 p.1) (i.word0.zeroExtend 64) p.2)

/-- TAGMIX of a source (R132). -/
def mixedOf (i : SplitIssue) (act : Lanes) (h : Hand) (o : Operand) : Option TrapInfo :=
  (firstBad act h i.uni o (fun r => r.tag == 0xE)).map (fun p => i.faultW act 0x05 (BitVec.ofNat 16 p.1))

/-- TAGMIS of a source whose tag fails a test: INFO holds the name and the tag of the lowest lane that fails (R131). -/
def tagmisOf (i : SplitIssue) (act : Lanes) (h : Hand) (o : Operand) (ok : BitVec 4 → Bool) : Option TrapInfo :=
  (firstBad act h i.uni o (fun r => !ok r.tag)).map (fun p =>
    let tg := (((o.reads h i.uni (Lanes.lowest p.2)).find? (fun x => x.1 = p.1)).map (fun x => x.2.tag)).getD 0
    i.faultW act 0x04 (BitVec.ofNat 16 (p.1 + tg.toNat * 256)))

/-- Items 3, 5 and 6 of R193 over the sources of an instruction, each in the order A, B, C. -/
def checkSources (i : SplitIssue) (act : Lanes) (h : Hand) (ops : List (Operand × Check)) : Option TrapInfo :=
  let ints := ops.filter (fun p => p.2 == .int)
  match firstSome (fun p => poisonOf i act h p.1) ops with
  | some t => some t
  | none =>
    match firstSome (fun p => mixedOf i act h p.1) ints with
    | some t => some t
    | none => firstSome (fun p => tagmisOf i act h p.1 intTag) ints

/-- A request to free names takes effect only when the split holds every thread of the hand that has not exited (R127). -/
def State.freeNames (s : State) (i : SplitIssue) (lanes : Lanes) (names : List Nat) : State :=
  let h := s.hand i.hand
  if (h.live &&& ~~~i.lanes) != 0 then s
  else names.foldl (fun s n => (h.places lanes n).foldl (fun s p => s.freeName i.hand p.1) s) s

/-- The registers that a request to free names frees. -/
def State.freedDsts (s : State) (i : SplitIssue) (lanes : Lanes) (names : List Nat) : List Dst :=
  let h := s.hand i.hand
  if (h.live &&& ~~~i.lanes) != 0 then [] else names.foldl (fun acc n => acc ++ (h.places lanes n).map Prod.fst) []

/-- The stored words of a register that are uncorrectable, and those that a read corrects, by lane (R220). -/
def Hand.storedErrs (h : Hand) (d : Dst) : Lanes × Lanes :=
  let ofReg (r : GReg) : Lanes × Lanes := (r.err, r.soft)
  match d with
  | .g w n => match h.mapping w n with
    | some e => ofReg e.reg
    | none => (0, 0)
  | .trapG n => ofReg (h.trapWin.getD (n - 16) GReg.zero)
  | .h n => let r := h.uni.h.getD n HReg.zero; (if r.err then 0xFFFFFFFF else 0, if r.soft then 1 else 0)
  | .q _ | .k _ | .c _ => (0, 0)

/-- The registers of a source, with the lanes that read each actively. -/
def Operand.regs (o : Operand) (h : Hand) (act : Lanes) : List (Dst × Lanes) :=
  match o with
  | .h n => [(.h n, act)]
  | o => o.gNames.foldl (fun acc n => acc ++ h.places act n) []

def regsOf (h : Hand) (act : Lanes) (ops : List Operand) : List (Dst × Lanes) := ops.foldl (fun acc o => acc ++ o.regs h act) []

/-- Some registers are read through SECDED without an error. -/
def Hand.intact (h : Hand) (rs : List (Dst × Lanes)) : Bool := rs.all (fun p => h.storedErrs p.1 == (0, 0))

/-- Corrections in lanes of a slot's register storage are counted; the sixteenth in a lane has the lane retired (R221). -/
def State.countCorrections (s : State) (c k : Nat) (lanes : Lanes) : State :=
  let due := lanes.list.filter (fun t => (s.slot c k).corrections.getD t 0 + 1 == 16)
  let s := s.updSlot c k (fun x => { x with corrections := (List.range 32).map (fun t => x.corrections.getD t 0 + (if lanes.has t then 1 else 0)) })
  { s with agenda := s.agenda ++ due.map (fun t => .event .laneRetire { (default : StepArgs) with n := c, m := k, k := t }) }

/-- Read registers through SECDED, each for the lanes whose words are read actively (R220): whether one of those is uncorrectable, and
the state with the errors logged and counted, and the uncorrectable words of other lanes poisoned. -/
def State.scan (s : State) (i : SplitIssue) (rs : List (Dst × Lanes)) : Bool × State :=
  let h := s.hand i.hand
  if h.intact rs then (false, s)
  else rs.foldl (fun (acc : Bool × State) p =>
    let e := h.storedErrs p.1
    let s := (acc.2.readErrs i.core e.1.list.length e.2.list.length)
    let s := match p.1 with
      | .h _ => s
      | _ => s.countCorrections i.core i.slot e.2
    let poison (r : GReg) : GReg := { r with poison := r.poison ||| r.err, err := 0 }
    let s := s.updHand i.hand (fun h => match p.1 with
      | .g w n => { h with map := updWhere (fun x => decide (x.win = w) && x.name == n) (fun x => { x with reg := poison x.reg }) h.map }
      | .trapG n => { h with trapWin := putAt 16 GReg.zero poison (n - 16) h.trapWin }
      | _ => h)
    (acc.1 || (e.1 &&& p.2) != 0, s)) (false, s)

/-- The size of a hand's spill area in bytes. -/
def Hand.areaSize (h : Hand) : Nat := h.spsz * 65536

/-- The shared shape of an instruction over registers: its sources are checked, spilled or missing registers are brought
in first (R128, R129), the sources are read from the hand as it stands, through SECDED (R220), the LR names are freed, and then the effect
writes its destinations (R127). A fault frees no names (R190): what else the effect leaves then, it leaves on them. -/
def withRegs (i : SplitIssue) (act : Lanes) (s : State) (ops : List (Operand × Check)) (dsts lr : List Nat)
    (effect : Hand → State → Done) : Done :=
  let h := s.hand i.hand
  match checkSources i act h ops with
  | some t => .trap s t
  | none =>
    let names := ops.foldl (fun acc p => acc ++ p.1.gNames) []
    let freed := if lr.isEmpty then [] else s.freedDsts i i.lanes lr
    match s.regNeed i.hand act names dsts freed with
    | .job j => .stall (s.waitSquirrel i.hand i.lanes j)
    | .spillx => .trap s (i.fault act 0x13 0 (BitVec.ofNat 64 h.areaSize) act)
    | .ready =>
      match s.scan i (regsOf h act (ops.map Prod.fst)) with
      | (true, s) => .kill s
      | (false, s) =>
        match effect h (if lr.isEmpty then s else s.freeNames i i.lanes lr) with
        | .trap _ t => match effect h s with
          | .trap s' _ => .trap s' t
          | _ => .trap s t
        | d => d

/-- Write the g destination D in the active lanes (R125, R126). -/
def State.writeD (s : State) (i : SplitIssue) (w : CoreWords) (act : Lanes) (f : Nat → Word) (tag : BitVec 4) : State :=
  if w.nameD = w.zeroName then s else s.writeG i.hand w.nameD act f tag

/-- The tag that a write carries whose lanes take values of given tags: MIXED when they differ (R284). -/
def commonTag (lanes : Lanes) (tag : Nat → BitVec 4) : BitVec 4 :=
  let t0 := tag (Lanes.lowest lanes)
  if lanes.list.all (fun t => tag t == t0) then t0 else 0xE

/-- Write the g destination D in the active lanes, each lane with the tag of what it takes: a register that lanes share takes their
common tag. Whether the write is a full one is one question for all of its lanes (R126). -/
def State.writeDTags (s : State) (i : SplitIssue) (w : CoreWords) (act : Lanes) (f : Nat → Word) (tag : Nat → BitVec 4) : State :=
  if w.nameD = w.zeroName then s
  else
    let full := (s.hand i.hand).coveredBy act
    ((s.hand i.hand).places act w.nameD).foldl (fun s p => s.writePlace i.hand full f (commonTag p.2 tag) p) s

/-- Write the pair D, D + 1. -/
def State.writePairD (s : State) (i : SplitIssue) (w : CoreWords) (act : Lanes) (f : Nat → DWord) (tag : BitVec 4) :
    State :=
  if w.nameD = w.zeroName then s
  else (s.writeG i.hand w.nameD act (fun t => (f t).setWidth 32) tag).writeG i.hand (w.nameD + 1) act
    (fun t => (f t).extractLsb' 32 32) tag

/-- Write the predicate D in the active lanes (R125). -/
def State.writeQD (s : State) (i : SplitIssue) (w : CoreWords) (act : Lanes) (f : Nat → Bool) : State :=
  s.writeQ i.hand w.nameD act f

/-- The value of a uniform operand: as the lowest active lane reads it. -/
def uniVal (i : SplitIssue) (act : Lanes) (h : Hand) (n : Nat) : DWord := (h.readH i.uni (Lanes.lowest act) n).value

end Sys2Proof.Machine
end

