-- ==== Sys2Proof/Machine/Flags.lean ====
section
/-!
DEFINITION. Number formats and arithmetic (spec/11): exact values, decoding and rounding (R233 to R240), conversions
(R241), the flags INV, DZ, OF, UF and NX (R242), and the elementary functions of R341.
-/
namespace Sys2Proof.Machine

/-- Flags as bits [4:0] of `hstat` (R242). -/
abbrev Flags := BitVec 5

def flagINV : Flags := 1
def flagDZ : Flags := 2
def flagOF : Flags := 4
def flagUF : Flags := 8
def flagNX : Flags := 16

/-- The floating formats of R234, with the block scale of R236. -/
inductive FFmt where
  | f32 | f16 | bf16 | e5m2 | e4m3 | e2m1 | e3m5
  deriving DecidableEq, Repr, Inhabited

/-- Width in bits, mantissa bits and bias (R234, R236). -/
def FFmt.width : FFmt → Nat
  | .f32 => 32
  | .f16 | .bf16 => 16
  | .e5m2 | .e4m3 | .e3m5 => 8
  | .e2m1 => 4

def FFmt.mant : FFmt → Nat
  | .f32 => 23
  | .f16 => 10
  | .bf16 => 7
  | .e5m2 => 2
  | .e4m3 => 3
  | .e2m1 => 1
  | .e3m5 => 5

def FFmt.bias : FFmt → Int
  | .f32 | .bf16 => 127
  | .f16 | .e5m2 => 15
  | .e4m3 => 7
  | .e2m1 => 1
  | .e3m5 => 3

/-- The magnitude code of the largest finite value. -/
def FFmt.maxCode : FFmt → Nat
  | .f32 => 0x7F7FFFFF
  | .f16 => 0x7BFF
  | .bf16 => 0x7F7F
  | .e5m2 => 0x7B
  | .e4m3 => 0x7E
  | .e2m1 => 7
  | .e3m5 => 0xFE

/-- The format has infinities: the code after the largest finite value. -/
def FFmt.hasInf : FFmt → Bool
  | .f32 | .f16 | .bf16 | .e5m2 => true
  | _ => false

/-- The format has a sign bit. -/
def FFmt.signed : FFmt → Bool
  | .e3m5 => false
  | _ => true

/-- The canonical NaN (R235, R236); E2M1 has none. -/
def FFmt.nanCode : FFmt → Nat
  | .f32 => 0x7FC00000
  | .f16 => 0x7E00
  | .bf16 => 0x7FC0
  | .e5m2 => 0x7E
  | .e4m3 => 0x7F
  | .e2m1 => 0
  | .e3m5 => 0xFF

/-- The float format of a tag (R233). -/
def FFmt.ofTag (tag : BitVec 4) : Option FFmt :=
  match tag.toNat with
  | 3 => some .f32
  | 4 => some .bf16
  | 5 => some .f16
  | 6 => some .e4m3
  | 7 => some .e5m2
  | 8 => some .e2m1
  | 12 => some .e3m5
  | _ => none

/-- A value: NaN, ±∞, or (−1)^neg × m × 2^e. -/
inductive Num where
  | nan (signalling : Bool)
  | inf (neg : Bool)
  | fin (neg : Bool) (m : Nat) (e : Int)
  deriving DecidableEq, Repr, Inhabited

/-- Decode a code of a format (R234 to R236). -/
def FFmt.decode (f : FFmt) (code : Nat) : Num :=
  let neg := f.signed && code.testBit (f.width - 1)
  let mag := if f.signed then code % 2 ^ (f.width - 1) else code % 2 ^ f.width
  let field := mag / 2 ^ f.mant
  let frac := mag % 2 ^ f.mant
  if mag > f.maxCode then
    if f.hasInf then
      if mag = f.maxCode + 1 then .inf neg else .nan (!frac.testBit (f.mant - 1))
    else .nan false
  else if field = 0 then .fin neg frac (1 - f.bias - f.mant)
  else .fin neg (frac + 2 ^ f.mant) (field - f.bias - f.mant)

/-- A magnitude to be rounded: it lies in [m × 2^e, (m + 1) × 2^e), and is m × 2^e itself unless `sticky`. -/
structure Mag where
  m : Nat
  e : Int
  sticky : Bool
  deriving DecidableEq, Repr, Inhabited

/-- Round an integer quotient: `n` units with a remainder below one unit, given by its relation to a half. -/
def roundUnit (neg : Bool) (rnd : Nat) (n : Nat) (inexact : Bool) (half : Ordering) : Nat :=
  match rnd with
  | 0 => match half with
    | .lt => n
    | .gt => n + 1
    | .eq => if n % 2 = 1 then n + 1 else n
  | 1 => n
  | 2 => if inexact && !neg then n + 1 else n
  | _ => if inexact && neg then n + 1 else n

/-- Round a magnitude to a multiple of 2^q under RND (R239): the multiple, and whether it is inexact. -/
def Mag.roundTo (x : Mag) (neg : Bool) (rnd : Nat) (q : Int) : Nat × Bool :=
  if q ≤ x.e then
    let n := x.m * 2 ^ (x.e - q).toNat
    (roundUnit neg rnd n x.sticky .lt, x.sticky)
  else
    let d := (q - x.e).toNat
    let n := x.m / 2 ^ d
    let rem := x.m % 2 ^ d
    let inexact := rem != 0 || x.sticky
    let half := 2 ^ (d - 1)
    let ord : Ordering :=
      if rem < half then .lt else if rem = half && !x.sticky then (if inexact then .eq else .lt) else .gt
    (roundUnit neg rnd n inexact ord, inexact)

/-- The overflow result of a format (R240). -/
def FFmt.overflow (f : FFmt) (neg : Bool) (rnd : Nat) (sat : Bool) : Nat :=
  let sign := if f.signed && neg then 2 ^ (f.width - 1) else 0
  match f with
  | .e4m3 => if sat then sign + f.maxCode else f.nanCode
  | .e2m1 => sign + f.maxCode
  | .e3m5 => if sat then 0xFE else 0xFF
  | _ =>
    let away := rnd = 0 ∨ (rnd = 2 ∧ neg = false) ∨ (rnd = 3 ∧ neg = true)
    if !sat && decide away then sign + f.maxCode + 1 else sign + f.maxCode

/-- Round a non-zero magnitude once (R240). -/
def FFmt.roundMag (f : FFmt) (neg : Bool) (x : Mag) (rnd : Nat) (sat : Bool) : Nat × Flags :=
  if !f.signed && neg then (0, flagINV)
  else
    let sign := if f.signed && neg then 2 ^ (f.width - 1) else 0
    let emin := 1 - f.bias
    let top := x.e + x.m.log2
    let q := max top emin - f.mant
    let (n, inexact) := x.roundTo neg rnd q
    let code := (q - (emin - f.mant)).toNat * 2 ^ f.mant + n
    if code > f.maxCode then (f.overflow neg rnd sat, flagOF ||| flagNX)
    else
      (sign + code, (if inexact then flagNX else 0) ||| (if inexact && code < 2 ^ f.mant then flagUF else 0))

/-- Round an exact value into a format (R240). A signalling NaN sets INV as an operand (R235). -/
def FFmt.round (f : FFmt) (v : Num) (rnd : Nat) (sat : Bool) : Nat × Flags :=
  match v with
  | .nan s => (f.nanCode, if s || f == .e2m1 then flagINV else 0)
  | .inf neg =>
    if f.hasInf then ((if neg then 2 ^ (f.width - 1) else 0) + f.maxCode + 1, 0)
    else if !f.signed && neg then (0, flagINV)
    else (f.overflow neg rnd sat, flagOF ||| flagNX)
  | .fin neg m e =>
    if m = 0 then (if f.signed && neg then 2 ^ (f.width - 1) else 0, 0)
    else f.roundMag neg { m := m, e := e, sticky := false } rnd sat

/-! ## Exact arithmetic (R243, R339) -/

def Num.isNaN : Num → Bool
  | .nan _ => true
  | _ => false

/-- INV for a signalling NaN operand (R235). -/
def Num.sig : Num → Flags
  | .nan true => flagINV
  | _ => 0

def Num.neg : Num → Num
  | .nan s => .nan s
  | .inf n => .inf (!n)
  | .fin n m e => .fin (!n) m e

/-- The integer of a finite value in units of 2^u, for u at or below its exponent. -/
def scaled (neg : Bool) (m : Nat) (e u : Int) : Int :=
  let k : Int := Int.ofNat (m * 2 ^ (e - u).toNat)
  if neg then -k else k

/-- A signed integer of units 2^e; `zneg` is the sign of a zero result. -/
def Num.ofScaled (k e : Int) (zneg : Bool) : Num :=
  if k = 0 then .fin zneg 0 0 else .fin (decide (k < 0)) k.natAbs e

/-- The exact sum: ∞ − ∞ is NaN with INV; an exact zero sum of opposite signs is +0, or −0 under RDN. -/
def Num.add (a b : Num) (rnd : Nat) : Num × Flags :=
  match a, b with
  | .nan _, _ => (.nan false, a.sig ||| b.sig)
  | _, .nan _ => (.nan false, b.sig)
  | .inf x, .inf y => if x == y then (.inf x, 0) else (.nan false, flagINV)
  | .inf x, _ => (.inf x, 0)
  | _, .inf y => (.inf y, 0)
  | .fin n m e, .fin n' m' e' =>
    let u := min e e'
    (Num.ofScaled (scaled n m e u + scaled n' m' e' u) u (if n == n' then n else rnd == 3), 0)

/-- The exact product: 0 × ∞ is NaN with INV. -/
def Num.mul (a b : Num) : Num × Flags :=
  match a, b with
  | .nan _, _ => (.nan false, a.sig ||| b.sig)
  | _, .nan _ => (.nan false, b.sig)
  | .inf x, .inf y => (.inf (x ^^ y), 0)
  | .inf x, .fin n m _ => if m = 0 then (.nan false, flagINV) else (.inf (x ^^ n), 0)
  | .fin n m _, .inf y => if m = 0 then (.nan false, flagINV) else (.inf (n ^^ y), 0)
  | .fin n m e, .fin n' m' e' => (.fin (n ^^ n') (m * m') (e + e'), 0)

/-- a × b + c, exact (R243). -/
def Num.fma (a b c : Num) (rnd : Nat) : Num × Flags :=
  let (p, f) := a.mul b
  let (r, f') := p.add c rnd
  (r, f ||| f')

/-- Compare values that are not NaN, −0 equal to +0 (R347). -/
def Num.cmp (a b : Num) : Ordering :=
  match a, b with
  | .inf x, .inf y => if x == y then .eq else if x then .lt else .gt
  | .inf x, _ => if x then .lt else .gt
  | _, .inf y => if y then .gt else .lt
  | .fin n m e, .fin n' m' e' =>
    let u := min e e'
    compare (scaled n m e u) (scaled n' m' e' u)
  | _, _ => .eq

/-- The sign of a value. -/
def Num.isNeg : Num → Bool
  | .nan _ => false
  | .inf n => n
  | .fin n _ _ => n

/-- `fmin` and `fmax` over codes of a format (R340). -/
def FFmt.minMax (f : FFmt) (wantMax : Bool) (x y : Nat) : Nat × Flags :=
  let a := f.decode x
  let b := f.decode y
  let fl := a.sig ||| b.sig
  if a.isNaN && b.isNaN then (f.nanCode, fl)
  else if a.isNaN then (y, fl)
  else if b.isNaN then (x, fl)
  else
    let less : Bool := match a.cmp b with
      | .lt => true
      | .gt => false
      | .eq => a.isNeg && !b.isNeg
    (if less != wantMax then x else y, fl)

/-! ## Elements of a lane word (R233) -/

/-- Elements per lane word of a tag, and bits per element. -/
def tagElems (tag : BitVec 4) : Nat :=
  match tag.toNat with
  | 4 | 5 => 2
  | 6 | 7 | 10 | 12 => 4
  | 8 | 11 => 8
  | 9 => 20
  | _ => 1

def elemBits (tag : BitVec 4) : Nat := 32 / tagElems tag

/-- Element `i` of a lane word. -/
def elemOf (tag : BitVec 4) (v : Word) (i : Nat) : Nat := bits v.toNat (elemBits tag * i) (elemBits tag)

/-- Elements, low first, as a lane word. -/
def packElems (width : Nat) : List Nat → Nat
  | [] => 0
  | x :: xs => x % 2 ^ width + 2 ^ width * packElems width xs

/-- Put elements from position `at_` on into a word, keeping its other bits. -/
def putElems (old : Word) (width at_ : Nat) (xs : List Nat) : Word :=
  let m := (2 ^ (width * xs.length) - 1) * 2 ^ (width * at_)
  (old &&& ~~~(BitVec.ofNat 32 m)) ||| BitVec.ofNat 32 (packElems width xs * 2 ^ (width * at_))

/-- Trit `i` of a T5 byte, with whether the byte is reserved (R237). -/
def tritOf (byte i : Nat) : Int × Bool :=
  if byte ≥ 243 then (0, true)
  else match byte / 3 ^ i % 3 with
    | 1 => (1, false)
    | 2 => (-1, false)
    | _ => (0, false)

/-- An integer as a value. -/
def Num.ofInt (k : Int) : Num := .fin (decide (k < 0)) k.natAbs 0

/-- Element `i` of a T5x4 word (R237), with INV for a reserved byte. -/
def tritNum (v : Word) (i : Nat) : Num × Flags :=
  let (k, bad) := tritOf (bits v.toNat (8 * (i / 5)) 8) (i % 5)
  (.ofInt k, if bad then flagINV else 0)

/-- A float or T5 element of a lane word as a value. -/
def elemNum (tag : BitVec 4) (v : Word) (i : Nat) : Num × Flags :=
  match FFmt.ofTag tag with
  | some f => (f.decode (elemOf tag v i), 0)
  | none => if tag == 9 then tritNum v i else (.fin false 0 0, 0)

/-- A block scale (R236): its value; the NaN scale sets INV. -/
def scaleNum (code : Nat) : Num × Flags :=
  (FFmt.e3m5.decode code, if code % 256 = 255 then flagINV else 0)

/-! ## Integers (R241) -/

/-- Bounds and width of an integer tag: S32, N32, S8 and S4. -/
def intBounds (tag : BitVec 4) : Option (Int × Int × Nat) :=
  match tag.toNat with
  | 1 => some (-2147483648, 2147483647, 32)
  | 2 => some (0, 4294967295, 32)
  | 10 => some (-128, 127, 8)
  | 11 => some (-8, 7, 4)
  | _ => none

/-- The integer of an element. -/
def intOf (tag : BitVec 4) (code : Nat) : Int :=
  match intBounds tag with
  | some (lo, _, w) => if lo < 0 ∧ code.testBit (w - 1) then Int.ofNat (code % 2 ^ w) - 2 ^ w else Int.ofNat (code % 2 ^ w)
  | none => 0

/-- An integer's low bits. -/
def intCode (w : Nat) (k : Int) : Nat := (k % (2 ^ w : Int)).toNat

/-- A value rounded to an integer tag: a NaN gives 0, an out-of-range value the nearest bound, both with INV (R241). -/
def toInt (v : Num) (tag : BitVec 4) (rnd : Nat) : Nat × Flags :=
  match intBounds tag with
  | none => (0, 0)
  | some (lo, hi, w) =>
    match v with
    | .nan _ => (0, flagINV)
    | .inf neg => (intCode w (if neg then lo else hi), flagINV)
    | .fin neg m e =>
      let (n, inexact) := ({ m := m, e := e, sticky := false } : Mag).roundTo neg rnd 0
      let k : Int := if neg then -(Int.ofNat n) else Int.ofNat n
      if k < lo then (intCode w lo, flagINV)
      else if hi < k then (intCode w hi, flagINV)
      else (intCode w k, if inexact then flagNX else 0)

/-- Between integer tags: clamped under SAT 1, low bits under SAT 0, no flag (R241). -/
def intToInt (k : Int) (tag : BitVec 4) (sat : Bool) : Nat :=
  match intBounds tag with
  | none => 0
  | some (lo, hi, w) => intCode w (if sat then max lo (min hi k) else k)

/-- Convert one element (R241). -/
def convElem (src dst : BitVec 4) (v : Word) (i rnd : Nat) (sat : Bool) : Nat × Flags :=
  match intBounds src with
  | some _ =>
    let k := intOf src (elemOf src v i)
    match FFmt.ofTag dst with
    | some f => f.round (.ofInt k) rnd sat
    | none => (intToInt k dst sat, 0)
  | none =>
    let (x, fl) := elemNum src v i
    match FFmt.ofTag dst with
    | some f =>
      let (c, fl') := f.round x rnd sat
      (c, fl ||| fl')
    | none =>
      let (c, fl') := toInt x dst rnd
      (c, fl ||| fl')

/-- The conversions that R241 lists. -/
def convListed (src dst : BitVec 4) : Bool :=
  let float (t : BitVec 4) : Bool := 3 ≤ t.toNat && t.toNat ≤ 8
  let int (t : BitVec 4) : Bool := (intBounds t).isSome
  if float src then float dst || int dst || (src == 3 && dst == 12)
  else if src == 12 then dst == 3
  else if int src then
    float dst || (int dst && (src == 1 || src == 2 || src == 10) && src != dst &&
      !(src == 10 && dst != 11))
  else if src == 9 then dst == 10 || dst == 6 || dst == 5 || dst == 4 || dst == 3
  else false

/-! ## Elementary functions (R341)

Each is computed to 256 bits beyond the binary point and then rounded once; no operand of a 32-bit or 16-bit format lies
so near a rounding boundary that the remaining error could show. -/

/-- Bits of the fixed-point numbers below. -/
def fracBits : Nat := 256
def fixOne : Nat := 2 ^ fracBits

/-- Sum of z^(2i+1)/(2i+1) for `fuel` terms: artanh z in fixed point; `p` is z^(2i+1), `z2` is z². -/
def artanhSum (z2 : Nat) : Nat → Nat → Nat → Nat
  | 0, _, _ => 0
  | fuel + 1, p, k => p / k + artanhSum z2 fuel (p * z2 / fixOne) (k + 2)

/-- artanh of num/den, below 1/2, in fixed point. -/
def artanhFix (num den : Nat) : Nat :=
  let z := num * fixOne / den
  artanhSum (z * z / fixOne) 140 z 1

/-- ln 2 = 2 artanh(1/3). -/
def ln2Fix : Nat := 2 * artanhFix 1 3

/-- Sum of r^i/i! in fixed point; `p` is r^i/i!. -/
def expSum (r : Nat) : Nat → Nat → Nat → Nat
  | 0, _, _ => 0
  | fuel + 1, p, i => p + expSum r fuel (p * r / fixOne / (i + 1)) (i + 1)

/-- e^r for a fixed-point r in [0, 1). -/
def expFix (r : Nat) : Nat := expSum r 80 fixOne 0

/-- The square root of a number, rounded down, by bits from 2^k downwards. -/
def sqrtFrom (n : Nat) : Nat → Nat → Nat
  | 0, acc => acc
  | k + 1, acc =>
    let x := acc + 2 ^ k
    sqrtFrom n k (if x * x ≤ n then x else acc)

def natSqrt (n : Nat) : Nat := sqrtFrom n (n.log2 / 2 + 1) 0

/-- 1/x. -/
def magRcp (m : Nat) (e : Int) : Mag :=
  let k := m.log2 + 64
  { m := 2 ^ k / m, e := -e - k, sticky := 2 ^ k % m != 0 }

/-- 1/√x. -/
def magRsq (m : Nat) (e : Int) : Mag :=
  let k := 2 * m.log2 + 160 + (if e % 2 = 0 then 0 else 1)
  let n := 2 ^ k / m
  let r := natSqrt n
  { m := r, e := (-e - k) / 2, sticky := !(r * r == n && 2 ^ k % m == 0) }

/-- 2^x for x = ±m × 2^e, not zero. -/
def magEx2 (neg : Bool) (m : Nat) (e : Int) : Mag :=
  if e + m.log2 ≥ 13 then { m := 1, e := if neg then -5000 else 5000, sticky := true }
  else if e + m.log2 < -100 then
    if neg then { m := 2 ^ 100 - 1, e := -100, sticky := true } else { m := 2 ^ 100, e := -100, sticky := true }
  else if 0 ≤ e then
    let k : Int := Int.ofNat (m * 2 ^ e.toNat)
    { m := 1, e := if neg then -k else k, sticky := false }
  else
    let d := (-e).toNat
    let whole : Int := Int.ofNat (m / 2 ^ d)
    let frac := m % 2 ^ d
    if frac = 0 then { m := 1, e := if neg then -whole else whole, sticky := false }
    else
      let n : Int := if neg then -whole - 1 else whole
      let f := if neg then 2 ^ d - frac else frac
      { m := expFix (f * ln2Fix / 2 ^ d), e := n - fracBits, sticky := true }

/-- log2 of x = m × 2^e, not zero: its sign and magnitude, which is exact for a power of two. -/
def numLg2 (m : Nat) (e : Int) : Bool × Mag :=
  let n : Int := e + m.log2
  let one := 2 ^ m.log2
  if m = one then (decide (n < 0), { m := n.natAbs, e := 0, sticky := false })
  else
    let l : Int := Int.ofNat (2 * artanhFix (m - one) (m + one) * fixOne / ln2Fix)
    let x : Int := n * Int.ofNat fixOne + l
    (decide (x < 0), { m := if x < 0 then x.natAbs - 1 else x.natAbs, e := -fracBits, sticky := true })

/-- tanh of x = m × 2^e, not zero. -/
def magTanh (m : Nat) (e : Int) : Mag :=
  if e + m.log2 ≥ 6 then { m := 2 ^ 100 - 1, e := -100, sticky := true }
  else if e + m.log2 < -60 then { m := m * 2 ^ 100 - 1, e := e - 100, sticky := true }
  else
    let y := if 0 ≤ e then m * 2 ^ (e.toNat + 1) * fixOne else m * 2 * fixOne / 2 ^ (-e).toNat
    let n := y / ln2Fix
    let ex := expFix (y % ln2Fix) * 2 ^ n
    { m := (ex - fixOne) * fixOne / (ex + fixOne), e := -fracBits, sticky := true }

/-- The function of a class-4 instruction: 0 rcp, 1 rsq, 2 ex2, 3 lg2, 4 tanh (R341). -/
def FFmt.elementary (f : FFmt) (fn : Nat) (code rnd : Nat) (sat : Bool) : Nat × Flags :=
  let out (neg : Bool) (x : Mag) : Nat × Flags :=
    if x.m = 0 && !x.sticky then f.round (.fin false 0 0) rnd sat else f.roundMag neg x rnd sat
  let num (v : Num) : Nat × Flags := f.round v rnd sat
  let v := f.decode code
  match fn, v with
  | _, .nan s => (f.nanCode, if s then flagINV else 0)
  | 0, .inf neg => num (.fin neg 0 0)
  | 0, .fin neg m e => if m = 0 then ((num (.inf neg)).1, flagDZ) else out neg (magRcp m e)
  | 1, .inf neg => if neg then (f.nanCode, flagINV) else num (.fin false 0 0)
  | 1, .fin neg m e =>
    if m = 0 then ((num (.inf neg)).1, flagDZ)
    else if neg then (f.nanCode, flagINV)
    else out false (magRsq m e)
  | 2, .inf neg => if neg then num (.fin false 0 0) else num (.inf false)
  | 2, .fin neg m e => if m = 0 then num (.fin false 1 0) else out false (magEx2 neg m e)
  | 3, .inf neg => if neg then (f.nanCode, flagINV) else num (.inf false)
  | 3, .fin neg m e =>
    if m = 0 then ((num (.inf true)).1, flagDZ)
    else if neg then (f.nanCode, flagINV)
    else let (n, x) := numLg2 m e
      out n x
  | _, .inf neg => num (.fin neg 1 0)
  | _, .fin neg m e => if m = 0 then num v else out neg (magTanh m e)

end Sys2Proof.Machine
end

