-- ==== Sys2Proof/Machine/Access.lean ====
section
/-!
DEFINITION. Accesses shared by instructions and units: fetching an instruction's bytes (spec/12 R246), writes that leave
for the host (spec/02 R55), queue descriptors (R31), the wait-and-wake table (R50, R51), and the Owl's count (spec/03 R90).
-/
namespace Sys2Proof.Machine

/-! ## Fetch -/

/-- What a fetch of one word gives: the word, with the translation entered into the TLBs, or a fault at an address. -/
inductive Fetch where
  | ok (w : Word) (s : State)
  | fault (code : BitVec 8) (va : DWord)

/-- The oldest write of a word that a fetch for certain launches may still give: the last one when the oldest of those launches was
accepted (spec/05 R122). -/
def State.oldestFor (s : State) (w : Nat) (mine : Launch → Bool) : Nat :=
  s.launches.foldl (fun n l => if mine l then min n (View.get l.view w) else n) (s.lastIdx w)
def State.fetchOldest (s : State) (asid : BitVec 16) (w : Nat) : Nat := s.oldestFor w (fun l => l.asid = asid)

/-- Whether the fetch of the instruction at an address gives the new encoding, where it has been written while a launch that may
fetch it runs, or else the old one: a free value for each fetch (spec/05 R122, log 28). -/
def State.fetchNew (s : State) (pc : DWord) : Bool := Config.fetchPick s.tick pc % 2 == 1

/-- Fetch the 32-bit word at an address with X permission (R246) for a core, as a word of the instruction at `pc`; address bits [1:0] are taken
as 0. Every word of an instruction is of the encoding that its fetch gives (R122). -/
def State.fetchWord (s : State) (who : Nat) (asid : BitVec 16) (pc va : DWord) : Fetch :=
  let a := va &&& ~~~3
  match s.translate asid a .fetch who with
  | .ok loc e =>
    let w := wordOf loc
    let old := s.fetchOldest asid w
    let last := s.lastIdx w
    let word : Word :=
      if last ≤ old || s.fetchNew pc then BitVec.ofNat 32 (readN s.mem loc 4)
      else (s.writeAt w old).value.extractLsb' (8 * (loc - w)) 32
    .ok word (s.tlbAdd e)
  | .prot => .fault 0x0A a
  | .page _ _ => .fault 0x0B a

/-- Fetch `n` consecutive words of the instruction at `pc`; the first that cannot be fetched faults. -/
def State.fetchWords (who : Nat) (asid : BitVec 16) (pc : DWord) : Nat → DWord → State → List Word → Except (BitVec 8 × DWord) (List Word × State)
  | 0, _, s, acc => .ok (acc, s)
  | n + 1, va, s, acc =>
    match s.fetchWord who asid pc va with
    | .ok w s' => State.fetchWords who asid pc n (va + 4) s' (acc ++ [w])
    | .fault c a => .error (c, a)

/-! ## Writes that leave the device -/

/-- A host-bound request has completed: the run of time-outs is over (R55, log 14). -/
def State.hostAnswered (s : State) : State := { s with hostLink := { s.hostLink with timeouts := 0 } }

/-- So has a read of a location, where that lies in host memory and the host is not lost. -/
def State.hostRead (s : State) (loc : Nat) : State := if spaceOf loc = .host ∧ s.hostLink.lost = false then s.hostAnswered else s

/-- Entries that the 256 MiB park buffer holds (R55), of eight data bytes each. -/
def parkCapacity : Nat := 33554432

/-- Drop a host-bound write: it is counted and logged (R224), the first drop with code 0x8B (R55). -/
def State.dropHostWrite (s : State) : State :=
  let s' := { s with hostLink := { s.hostLink with dropped := s.hostLink.dropped + 1 } }
  s'.magpie 0 unitFrontEnd (if s.hostLink.dropped = 0 then 0x8B else 0) []

/-- A store to a barrier's words starts it afresh: what its phases have counted is forgotten (R164, R165). -/
def State.forgetBBar (s : State) (w : Nat) : State :=
  { s with bbarViews := s.bbarViews.filter (fun x => x.1 ≠ w && x.1 + 8 ≠ w) }

/-- A write reaches the home of its word (R168, R171). While the host is lost, a host-bound write is parked in issue
order, or dropped when the buffer is full (R55). -/
def State.putWord (s : State) (w : Nat) (mask : BitVec 8) (data : DWord) (msg : View) (scope : BitVec 3)
    (writer : Party) (owner : Owner := .none) : State :=
  if spaceOf w = .host ∧ s.hostLink.lost = true then
    if s.hostLink.parked.length < parkCapacity then
      { s with hostLink := { s.hostLink with
        parked := s.hostLink.parked ++ [{ word := w, mask := mask, data := data, msg := msg, scope := scope, writer := writer, owner := owner }] } }
    else s.dropHostWrite
  else (s.forgetBBar w).appendWrite w mask data msg scope writer

/-- Write bytes word by word through `putWord`, with an empty message. -/
def State.putBytes (s : State) (a : Nat) (bs : List (BitVec 8)) (writer : Party) : State :=
  (wordsOf a bs.length).foldl (fun s w =>
    let data := (List.range 8).foldl (fun acc i =>
      if a ≤ w + i then acc ||| ((bs.getD (w + i - a) 0).zeroExtend 64 <<< (8 * i)) else acc) (0 : DWord)
    s.putWord w (maskIn a bs.length w) data [] 0 writer) s

/-- Write the masked bytes of a 64-byte block, word by word, as an external party with a message and its scope (R185). -/
def State.writeBlock (s : State) (base : Nat) (mask : BitVec 64) (data : BitVec 512) (msg : View) (scope : BitVec 3) : State :=
  (List.range 8).foldl (fun s i =>
    let mk := mask.extractLsb' (8 * i) 8
    if mk == 0 then s else s.putWord (base + 8 * i) mk (data.extractLsb' (64 * i) 64) msg scope Party.nobody) s

/-- A view with the words of a block that a mask writes. -/
def State.blockView (s : State) (base : Nat) (mask : BitVec 64) (v : View) : View :=
  (List.range 8).foldl (fun v i =>
    if mask.extractLsb' (8 * i) 8 == 0 then v else View.raise (base + 8 * i) (s.lastIdx (base + 8 * i)) v) v

/-- A host write to a block of device memory, or of host memory; under the host's release it carries what the host has written and
acquired before. -/
def State.hostWrite (s : State) (base : Nat) (x : HostWrite) : State :=
  let s := s.writeBlock base x.mask x.data (if x.rel then s.hostView else []) (if x.rel then 5 else 0)
  { s with hostView := s.blockView base x.mask s.hostView }

/-- A peer's write to a block of device memory: its writes are ordered as they arrive (log 88). -/
def State.peerWrite (s : State) (dev base : Nat) (mask : BitVec 64) (data : BitVec 512) : State :=
  let v := lookupD dev [] s.peerViews
  let s := s.writeBlock base mask data v 5
  { s with peerViews := insertK dev (s.blockView base mask v) s.peerViews }

/-- The host reads a word and acquires what its last write carries. -/
def State.hostAcquire (s : State) (loc : Nat) : State :=
  let w := wordOf loc
  let r := s.lastWrite w
  let v := View.raise w (s.lastIdx w) s.hostView
  { s with hostView := if r.scope == 5 then View.join v r.msg else v }

/-- Write an 8-byte word. -/
def State.put64 (s : State) (a : Nat) (v : DWord) (writer : Party) : State := s.putBytes a (leBytes v.toNat 8) writer

/-! ## The wait-and-wake table -/

/-- Capacity of the table (R50). -/
def wakeCapacity : Nat := 4096

/-- The entry of a key. -/
def State.wakeEntry (s : State) (asid : BitVec 16) (key : DWord) : Option WakeEntry :=
  s.wake.find? (fun e => e.asid = asid && e.key == key)

/-- Change the entry of a key, allocating it when there is none; `none` when the table is full (R51). -/
def State.registerWaiter (s : State) (asid : BitVec 16) (key : DWord) (f : WakeEntry → WakeEntry) : Option State :=
  match s.wakeEntry asid key with
  | some _ => some { s with wake := updWhere (fun e => decide (e.asid = asid) && e.key == key) f s.wake }
  | none =>
    if s.wake.length ≥ wakeCapacity then none
    else some { s with wake := s.wake ++ [f { asid := asid, key := key, hands := [], queues := [], line := none }] }

/-- Change an entry, which is freed when nothing is left in it (R67). -/
def State.withdrawWaiter (s : State) (asid : BitVec 16) (key : DWord) (f : WakeEntry → WakeEntry) : State :=
  let t := updWhere (fun e => decide (e.asid = asid) && e.key == key) f s.wake
  { s with wake := t.filter (fun e => !(e.hands.isEmpty && e.queues.isEmpty && e.line.isNone)) }

/-- A queue that the front end keeps. -/
def State.queue? (s : State) (q : Nat × Nat) : Option Queue := s.queues.find? (fun x => x.fn = q.1 && x.idx == q.2)
def State.updQueue (s : State) (q : Nat × Nat) (f : Queue → Queue) : State :=
  { s with queues := updWhere (fun x => decide (x.fn = q.1) && x.idx == q.2) f s.queues }

/-- The party of a die's front end (R172). -/
def frontParty (d : Nat) : Party := { external := false, die := d, cluster := 1024, core := 1024, hand := none }

/-- STATE codes of a queue (R31). -/
def qIdle : Nat := 0
def qReady : Nat := 1
def qActive : Nat := 2
def qWaiting : Nat := 3
def qFaulted : Nat := 4
def qDraining : Nat := 5

/-- A queue of the partition is DRAINING: the Owl of one of them has expired, and the reset is pending (R91). -/
def State.partDrains (s : State) (p : Nat) : Bool := s.queues.any (fun q => q.part == p && q.paused.isSome)

/-- Issue is stopped in the clusters of a partition that drains (R91). -/
def State.coreStops (s : State) (c : Nat) : Bool :=
  s.queues.any (fun q => q.paused.isSome && (s.part q.part).cfg.clusters.getLsbD (coreCluster c))

/-- Fields of a queue's descriptor in memory, and a write of some of its bytes by the front end (R31). -/
def State.qField (s : State) (q : Queue) (lo width : Nat) : Nat := bits (readN s.mem (q.desc + lo / 8) 8) (lo % 8) width
def State.qState (s : State) (q : Queue) : Nat := s.qField q 192 3
def State.qRptr (s : State) (q : Queue) : Word := BitVec.ofNat 32 (s.qField q 128 32)
def State.qWptr (s : State) (q : Queue) : Word := BitVec.ofNat 32 (s.qField q 160 32)
def State.qPut (s : State) (q : Queue) (byte v n : Nat) : State := s.writeBytes (q.desc + byte) (leBytes v n) (frontParty q.die)
def State.qPutState (s : State) (q : Queue) (st : Nat) : State := s.qPut q 24 st 1

/-- A WAITING queue becomes READY (R40, R410). -/
def State.qWake (s : State) (k : Nat × Nat) : State :=
  match s.queue? k with
  | none => s
  | some q =>
    let s := s.updQueue k (fun x => { x with await := .none })
    if s.qState q = qWaiting then s.qPutState q qReady else s

/-- Wake a hand (R85): ASLEEP to READY, SWAPPED (asleep) to SWAPPED; a hand whose run is just ending asleep stays awake. -/
def State.wakeHand (s : State) (k : Nat) : State :=
  let h := s.hand k
  match h.state with
  | .asleep => s.updHand k (fun h => { h with state := .ready, key64 := none })
  | .swappedAsleep => s.updHand k (fun h => { h with state := .swapped, key64 := none })
  | .running =>
    (s.updHand k (fun h => { h with key64 := none })).updCore h.core (fun c =>
      { c with slots := updWhere (fun x => decide (x.hand = some k) && x.fate == .asleep) (fun x => { x with fate := .plain }) c.slots })
  | _ => s

/-- A wake on a key (R50): hands and queues are re-armed, the host line is incremented, the entry is freed. -/
def State.wakeKey (s : State) (asid : BitVec 16) (key : DWord) : State :=
  match s.wakeEntry asid key with
  | none => s
  | some e =>
    let s := { s with wake := s.wake.filter (fun x => !(x.asid = asid && x.key == key)) }
    let s := e.hands.foldl (fun s k => s.wakeHand k) s
    let s := e.queues.foldl (fun s q => s.qWake q) s
    match e.line with
    | none => s
    | some l => s.put64 (hostLoc l.toNat) (readWord s.mem (hostLoc l.toNat) + 1) Party.nobody

/-! ## The Owl's count (R90) -/

/-- The oldest running launch of a queue: the launch in flight with the lowest number. -/
def State.oldestLaunch (s : State) (q : Nat × Nat) : Option Launch :=
  s.launches.find? (fun l => l.queue = q && s.launches.all (fun x => x.queue ≠ q || l.lid.toNat ≤ x.lid.toNat))

/-- A hand of a launch retires `yield` or `yieldw`, or exits: the count of its queue restarts. -/
def State.owlReset (s : State) (lid : Word) : State :=
  let q := (s.launch lid).queue
  if ((s.oldestLaunch q).map Launch.lid) = some lid then
    s.updQueue q (fun x => if x.owl == .counting then { x with owlCount := 0 } else x)
  else s

end Sys2Proof.Machine
end

