-- ==== Sys2Proof/Machine/Peer.lean ====
section
/-!
DEFINITION. Sending to peers (spec/01 R20 to R24) and what a request to a peer without a working port does (spec/06 R155).
-/
namespace Sys2Proof.Machine

def State.port (s : State) (p : Nat) : Port := s.ports.getD p Port.init
def State.updPort (s : State) (p : Nat) (f : Port → Port) : State := { s with ports := putAt 18 Port.init f p s.ports }

/-- The die of a port (R19). -/
def portDie (p : Nat) : Nat := if p < 5 then 0 else if p < 9 then 1 else if p < 14 then 2 else 3

/-- The port over which traffic to a device goes: of those that are up and lead to it, which R21 leaves open, the lowest-numbered one
(log 77). -/
def State.portTo (s : State) (dev : BitVec 16) : Option Nat :=
  (List.range s.ports.length).find? (fun p => (s.port p).up && Config.peerOf p == dev)

/-- Send waiting flits while the port holds credit and fewer than 4,096 flits are unacknowledged (R24). -/
def flushFlits (me peer : BitVec 16) : Nat → Port → Port
  | 0, p => p
  | fuel + 1, p =>
    match p.waiting with
    | [] => p
    | (kind, m) :: rest =>
      if p.credit = 0 ∨ 4096 ≤ p.retained.length then p
      else
        let f : BitVec 24 × BitVec 8 × PeerMsg := (p.seqTx, kind, { m with dst := peer, src := me, seq := p.seqTx })
        flushFlits me peer fuel
        { p with waiting := rest, credit := p.credit - 1, seqTx := p.seqTx + 1,
                 retained := p.retained ++ [f], wire := p.wire ++ [f] }

def State.flushPort (s : State) (p : Nat) : State :=
  s.updPort p (fun x => flushFlits s.devNum (Config.peerOf p) x.waiting.length x)

/-- Send a sequenced flit on a port, or when it is down on another one to the same peer; without one the flit is lost (R21). -/
def State.sendFlit (s : State) (p : Nat) (kind : BitVec 8) (m : PeerMsg) : State :=
  match (if (s.port p).up then some p else s.portTo (Config.peerOf p)) with
  | none => s
  | some p => (s.updPort p (fun x => { x with waiting := x.waiting ++ [(kind, m)] })).flushPort p

/-- The first TAG from `t` on that no outstanding request to a device has (R23). Each request to it can take one of them. -/
def State.freeTag (s : State) (dev : BitVec 16) : Nat → Nat → Nat
  | 0, t => t
  | fuel + 1, t =>
    if s.reqs.any (fun r => r.dev == dev && r.tag == BitVec.ofNat 16 t) then s.freeTag dev fuel (t + 1) else t

/-- Send a request to a peer under a TAG that no outstanding request to it has (log 78), its die's traffic crossing to the port's
die; `none` when no port to the peer is up. -/
def State.request (s : State) (dev : BitVec 16) (die : Nat) (kind : BitVec 8) (m : PeerMsg) (use : PeerUse) : Option State :=
  match s.portTo dev with
  | none => none
  | some p =>
    let t := s.freeTag dev s.reqs.length s.nextTag
    let tag := BitVec.ofNat 16 t
    let m := { m with tag := tag, die := BitVec.ofNat 2 die, status := 0 }
    let r : PeerReq := { dev := dev, die := die, tag := tag, kind := kind, msg := m, use := use }
    let s := s.cross die (portDie p) (peerLoc dev.toNat m.addr.toNat)
    some (({ s with nextTag := t + 1, reqs := s.reqs ++ [r] }).sendFlit p kind m)

/-- SIZE code of an access of `n` bytes (R23). -/
def sizeCode (n : Nat) : BitVec 3 :=
  match n with
  | 1 => 0
  | 2 => 1
  | 4 => 2
  | 8 => 3
  | 16 => 4
  | _ => 5

/-- An RD for a lane's access. -/
def State.readPeer (s : State) (die loc n : Nat) (use : PeerUse) : Option State :=
  s.request (BitVec.ofNat 16 (peerDev loc)) die kindRD
    { (default : PeerMsg) with size := sizeCode n, addr := BitVec.ofNat 64 (peerAddr loc) } use

/-- `yieldw` acts as `yield` for a hand that waits on a key: the word has moved, or cannot be read (R298). -/
def State.watchEnds (s : State) (k : Nat) (key : DWord) : State :=
  let h := s.hand k
  if h.key64 = some key then
    ((s.withdrawWaiter h.asid key (fun x => { x with hands := x.hands.filter (fun j => j ≠ k) })).updHand k
      (fun h => { h with yields := h.yields + 1 })).wakeHand k
  else s

/-- A WR of one word with its byte mask, over the 64-byte block that holds it. -/
def State.writePeer (s : State) (die w : Nat) (mask : BitVec 8) (data : DWord) : Option State :=
  let off := peerAddr w % 64
  s.request (BitVec.ofNat 16 (peerDev w)) die kindWR
    { (default : PeerMsg) with
      size := 3, addr := BitVec.ofNat 64 (peerAddr w), mask := mask.zeroExtend 64 <<< off,
      data := data.zeroExtend 512 <<< (8 * off) } .none

/-- DATA of a STEP: MSG, step number, the owner's device, ticket, and words 1 to 7. -/
def stepData (msg step : Nat) (dev : BitVec 16) (ticket rest : Nat) : BitVec 512 :=
  BitVec.ofNat 512 (msg + step * 2 ^ 8 + dev.toNat * 2 ^ 16 + ticket * 2 ^ 32 + rest * 2 ^ 64)

def State.sendStep (s : State) (die obj : Nat) (data : BitVec 512) (use : PeerUse) : Option State :=
  s.request (BitVec.ofNat 16 (peerDev obj)) die kindSTEP
    { (default : PeerMsg) with size := 3, addr := BitVec.ofNat 64 (peerAddr obj), data := data } use

/-- A store to a peer without a working port is discarded, counted and logged to the Magpie (R155). -/
def State.dropPeerStore (s : State) (die : Nat) : State :=
  (s.updDie die (fun d => { d with peerDrops := d.peerDrops + 1 })).magpie die unitLink 0 []

end Sys2Proof.Machine
end

