-- ==== Sys2Proof/Machine/MemOps.lean ====
section
/-!
DEFINITION. Memory operations of threads: effective addresses and their checks (spec/14 R307, R312), share bounds
(spec/06 R146), first touches of windows (R159), loads (spec/07 R170, R184) and stores (R171), and the speculation
regions (spec/04 R106).
-/
namespace Sys2Proof.Machine

/-! ## Shares (R146, R72, R78) -/

/-- The allocations of a hand's share groups, as location intervals. A segment hand has none (R106). -/
def State.shares (s : State) (h : Hand) : List (Nat × Nat) :=
  if h.seg.isSome then []
  else
    let inst := s.instanceOf h
    s.cores.foldl (fun acc (c, x) => acc ++ (x.allocs.filter (fun a => a.1 = h.lid &&
        (h.groups.contains a.2.1 || (match inst with | some n => a.2.1 == pipeAlloc n | none => false)))).map
      (fun a => (scratchLoc c a.2.2.1, a.2.2.2))) []

/-- A byte range lies inside one allocation of the hand. -/
def State.inShare (s : State) (h : Hand) (loc n : Nat) : Bool :=
  (s.shares h).any (fun a => a.1 ≤ loc && loc + n ≤ a.1 + a.2)

/-! ## Addresses (R307, R312) -/

/-- Bytes of an access (word 2, SIZE). -/
def memSize (w : CoreWords) : Nat :=
  match w.f2 24 3 with
  | 1 => 1
  | 2 => 2
  | 3 => 8
  | _ => 4

/-- The signed offset OFF of word 2. -/
def memOff (w : CoreWords) : DWord := (BitVec.ofNat 24 (w.f2 0 24)).signExtend 64

/-- Effective addresses: base, signed 32-bit lane offset and OFF, modulo 2^64, or 2^32 for scratch. -/
def effAddr (scratch : Bool) (w : CoreWords) (a b : Operand) (h : Hand) (uni : Uniform) (t : Nat) : DWord :=
  let x := a.val h uni t + (b.word h uni t).signExtend 64 + memOff w
  if scratch then (x.setWidth 32).zeroExtend 64 else x

/-- A fault that some lanes find, at the address of the lowest of them (R208). -/
def addrFault (i : SplitIssue) (act lanes : Lanes) (code : BitVec 8) (ea : Nat → DWord) : TrapInfo :=
  i.fault act code 0 (ea (Lanes.lowest lanes)) lanes

/-- Enter the translations of lanes into the TLBs. -/
def State.tlbAddAll (s : State) (es : List TlbEntry) : State := es.foldl (fun s e => s.tlbAdd e) s

/-- The checks of R312 over the active lanes, for accesses of `n` bytes aligned to `align`: the location of each lane, in
lane order, or a fault, with the page requests that its lanes send (R153). -/
def State.checkAccess (s : State) (i : SplitIssue) (act : Lanes) (scratch : Bool) (acc : Access) (align n : Nat)
    (ea : Nat → DWord) : Except (State × TrapInfo) (List (Nat × Nat) × State) :=
  let h := s.hand i.hand
  let fails (p : Nat → Bool) : Lanes := Lanes.of (fun t => act.has t && p t)
  let misaligned := fails (fun t => (ea t).toNat % align != 0)
  if misaligned != 0 then .error (s, addrFault i act misaligned 0x09 ea)
  else if scratch then
    let bad := fails (fun t => (clusterLoc (coreCluster h.core) (ea t).toNat).isNone)
    if bad != 0 then .error (s, addrFault i act bad 0x0A ea)
    else
      let loc (t : Nat) : Nat := (clusterLoc (coreCluster h.core) (ea t).toNat).getD 0
      let out := fails (fun t => !s.inShare h (loc t) n)
      if out != 0 then .error (s, addrFault i act out 0x0C ea)
      else .ok (act.list.map (fun t => (t, loc t)), s)
  else
    let x (t : Nat) : Xlat := s.translate h.asid (ea t) acc
    let prot := fails (fun t => match x t with | .prot => true | _ => false)
    if prot != 0 then .error (s, addrFault i act prot 0x0A ea)
    else
      let page := fails (fun t => match x t with | .page _ _ => true | _ => false)
      if page != 0 then
        .error (page.list.foldl (fun s t => match x t with
          | .page home e => s.requestPage h.core h.asid (ea t) home e
          | _ => s) s, addrFault i act page 0x0B ea)
      else
        .ok (act.list.map (fun t => (t, match x t with | .ok loc _ => loc | _ => 0)),
          s.tlbAddAll (act.list.filterMap (fun t => match x t with | .ok _ e => some e | _ => none)))

/-! ## Engine accesses (R170, R181) -/

/-- Bytes that an engine thread reads, one choice of index for each word (R170), the words that are uncorrectable, and its
view after. -/
def State.engRead (s : State) (v : View) (loc n : Nat) (picks : List Nat) : List (BitVec 8) × List Nat × View :=
  let r := (wordsOf loc n).foldl (fun (acc : List (BitVec 8) × List Nat × View × List Nat) w =>
    let (bs, bad, v, ps) := acc
    let last := s.lastIdx w
    let i := max (v.get w) (min (ps.headD last) last)
    let x := s.writeAt w i
    (bs ++ leBytes x.value.toNat 8, if x.bad then bad ++ [w] else bad, View.raise w i v, ps.tail)) ([], [], v, picks)
  ((r.1.drop (loc % 8)).take n, r.2.1, r.2.2.1)

/-! ## Copy handles (R156) -/

/-- A valid entry of a handle table. -/
structure Handle where
  tier : Nat
  wr : Bool
  rd : Bool
  base : Nat
  len : Nat
  pwin : Nat

/-- The entry of a handle; none when the handle is invalid. -/
def State.handle? (s : State) (part : Nat) (h : Word) : Option Handle :=
  let e := readN s.mem ((s.part part).cfg.htab.toNat + 32 * bits h.toNat 0 12) 32
  if bits h.toNat 28 4 ≠ 0 ∨ e % 2 = 0 ∨ bits e 16 16 ≠ bits h.toNat 12 16 ∨ bits e 5 11 ≠ 0 ∨ bits e 32 32 ≠ 0 ∨
      bits e 200 56 ≠ 0 then none
  else some { tier := bits e 3 2, wr := bits e 1 1 == 1, rd := bits e 2 1 == 1, base := bits e 64 64, len := bits e 128 64,
              pwin := bits e 192 8 }

/-- Bytes of the vault stand above every other location. -/
def vaultLoc (a : Nat) : Nat := 2 ^ 90 + a

/-- The location of a byte of a handle's range; none where nothing is: no memory (R147), or no peer window (R155). -/
def State.handleLoc (s : State) (h : Handle) (off : Nat) : Option Nat :=
  let a := (h.base + off) % 2 ^ 64
  match h.tier with
  | 0 => if deviceExists a then some a else none
  | 1 => (s.peerWin.find? (fun p => p.1 = h.pwin)).map (fun p => peerLoc p.2.toNat a)
  | 2 => some (hostLoc a)
  | _ => some (vaultLoc a)

/-- Request lines that lie in a peer from it (R23); a line without a port to the peer fails (R155). -/
def State.requestLines (s : State) (die : Nat) (h : Handle) (id : Nat) (offs : List Nat) : State :=
  if h.tier ≠ 1 ∨ !h.rd then s
  else (List.range offs.length).foldl (fun s k =>
    match s.handleLoc h (offs.getD k 0) with
    | none => s
    | some loc => match s.readPeer die loc 64 (.line id k) with
      | some s => s
      | none => { s with lineFails := (id, k) :: s.lineFails }) s

/-- Writes of bytes as an engine thread: a chunk for each word, or one for a line in a peer or the vault. -/
def chunksOf (a : Nat) (bs : List (BitVec 8)) : List Chunk :=
  if spaceOf a = .peer then [(a, bs)]
  else (wordsOf a bs.length).map (fun w =>
    let lo := max a w
    (lo, (bs.drop (lo - a)).take (w + 8 - lo)))

/-- A write of an engine thread drains (R181); none when it lies in a peer to which no port is up (R155). `use` says who waits for the
peer's answer. -/
def State.writeChunk (s : State) (p : Party) (v : View) (x : Chunk) (use : PeerUse := .none) : Option (State × View) :=
  if vaultLoc 0 ≤ x.1 then some ({ s with vault := writeCells (x.1 - vaultLoc 0) x.2 s.vault }, v)
  else
    let done (s : State) : State × View := let s := s.putBytes x.1 x.2 p; (s, s.viewOver x.1 x.2.length v)
    if spaceOf x.1 = .peer then
      (s.request (BitVec.ofNat 16 (peerDev x.1)) p.die kindWR
        { (default : PeerMsg) with size := 5, addr := BitVec.ofNat 64 (peerAddr x.1), mask := ~~~0,
                                   data := BitVec.ofNat 512 (leNat x.2) } use).map done
    else some (done (s.crossHome p.die x.1))

/-- All writes of an engine thread drain. -/
def State.writeChunks (p : Party) : List Chunk → State × View → State × View
  | [], x => x
  | c :: cs, x => State.writeChunks p cs ((x.1.writeChunk p x.2 c).getD x)

/-- Offsets in the handle's range of the lines of a window's fill (R158). -/
def Window.lineOffs (x : Window) : List Nat :=
  (List.range x.rows).foldr (fun r acc =>
    (List.range x.rowl).map (fun j => x.offset.toNat + r * x.stride + 64 * j) ++ acc) []

/-! ## Windows (R159) -/

/-- The location interval of a window of a cluster. -/
def Window.range (x : Window) (cluster : Nat) : Nat × Nat := ((clusterLoc cluster x.saddr).getD 0, x.slen * 256)

/-- A window covers some byte of a range. -/
def Window.meets (x : Window) (cluster loc n : Nat) : Bool :=
  let (lo, len) := x.range cluster
  loc < lo + len && lo < loc + n

/-- Add 1 to an expert use counter of a partition, which stays at 0xFFFF_FFFF (R161). -/
def State.countExpert (s : State) (p e : Nat) : State :=
  s.updPart p (fun x =>
    let c := lookupD e (0 : Word) x.xcnt
    { x with xcnt := insertK e (if c == 0xFFFFFFFF then c else c + 1) x.xcnt })

/-- A first touch: an ABSENT window starts its fill, which forks from the toucher (R181), and its expert is counted. Lines
in a peer are requested from it. -/
def State.touch (s : State) (h : Hand) (lanes : List Nat) (c idx : Nat) : State :=
  match (s.cluster c).windows.find? (fun x => x.idx = idx) with
  | none => s
  | some x =>
    if x.state != 0 then s
    else
      let id := s.nextCopy
      let start (z : Window) : Window :=
        { z with state := 1, err := false, part := h.part, fill := id, fork := h.fork lanes, prog := default }
      let s := { s with nextCopy := id + 1 }.updCluster c (fun y => { windows := updWhere (fun z => z.idx = idx) start y.windows })
      let s := match s.handle? h.part x.handle with
        | some hd => s.requestLines (c / 8) hd id x.lineOffs
        | none => s
      if x.noexp then s else s.countExpert h.part x.expert

/-- Touch the windows of the hand's cluster that a range of scratch bytes meets, by some of its threads. -/
def State.touchRange (s : State) (h : Hand) (lanes : List Nat) (loc n : Nat) : State :=
  let c := scratchCore loc / 32
  ((s.cluster c).windows.filter (fun x => x.meets c loc n)).foldl (fun s x => s.touch h lanes c x.idx) s

/-- The views of the fills of PRESENT windows that a range meets: a load of the range joins them (R182). -/
def State.windowViews (s : State) (loc n : Nat) : List View :=
  let c := scratchCore loc / 32
  if spaceOf loc = .scratch then
    ((s.cluster c).windows.filter (fun x => x.state == 2 && x.meets c loc n)).map (fun x => x.fork.view)
  else []

/-- A window that is FILLING and meets a range. -/
def State.fillingAt (s : State) (loc n : Nat) : Option Nat :=
  let c := scratchCore loc / 32
  ((s.cluster c).windows.find? (fun x => x.state == 1 && x.meets c loc n)).map Window.idx

/-! ## Speculation regions (R106) -/

/-- The stores of an ancestor's region that a segment's loads see: those issued before the spawn, and of the later ones a free number
(R106). -/
def State.seenOf (s : State) (e q : Seg) (die : Nat) : List StoreEntry :=
  let sure := ((e.before.find? (fun b => b.1 = die && b.2.1 == q.idx && b.2.2.1 == q.seq)).map (fun b => b.2.2.2)).getD 0 - q.drained
  let later := (Config.freeWord s.tick).toNat % (q.region.length - sure + 1)
  (q.region.take (sure + later)).map Prod.snd

/-- The regions that the loads of a segment see, nearest ancestor first, up to the first committed one that has drained. -/
def State.regionChain (s : State) (e : Seg) : Nat → Seg → List (List StoreEntry)
  | 0, _ => []
  | fuel + 1, x =>
    match x.parent, s.parentSeg x with
    | some (d, _, _), some q =>
      if q.state == 3 || q.state == 4 || q.draining then s.seenOf e q d :: State.regionChain s e fuel q else []
    | _, _ => []

/-- The regions that a load of threads of a segment hand sees: of its own, not the later stores of these threads; then its
ancestors'. -/
def State.chainOf (s : State) (h : Hand) (seqs : List (Nat × Nat)) : List (List StoreEntry) :=
  match h.seg.bind s.seg? with
  | none => []
  | some e => (e.region.filter (fun x => !seqs.any (fun q => q.1 = x.1 && q.2 ≤ x.2.seq))).map Prod.snd :: s.regionChain e s.segCount e

/-- The byte that the youngest of some entries for a word gives. -/
def entryByte (es : List StoreEntry) (w b : Nat) : Option (BitVec 8) :=
  es.foldl (fun acc e => if e.word = w && e.mask.getLsbD b then some (e.data.extractLsb' (8 * b) 8) else acc) none

/-- The byte that regions give, nearest first. -/
def chainByte : List (List StoreEntry) → Nat → Nat → Option (BitVec 8)
  | [], _, _ => none
  | r :: rs, w, b => match entryByte r w b with
    | some x => some x
    | none => chainByte rs w b

/-! ## Loads -/

/-- What an access of a word returns: its bytes as a number, whether they are uncorrectable, whether none came (R55), and the index and write read
from the word's order, when some byte came from there. -/
structure Loaded where
  value : Nat
  bad : Bool
  lost : Bool := false
  from_ : Option (Nat × WriteRec)
  deriving Inhabited

/-- Read `n` bytes inside one word (R170): bytes of the given store-buffer entries first, then of the regions, then of the
write at the chosen index, which is not below the view's. -/
def State.loadWord (s : State) (sb : List StoreEntry) (chain : List (List StoreEntry)) (view : View) (loc n pick : Nat) :
    Loaded :=
  let w := wordOf loc
  if spaceOf loc = .host ∧ s.hostLink.lost = true then { value := 0, bad := false, lost := true, from_ := none }
  else
    let off := loc - w
    let own (b : Nat) : Option (BitVec 8) := match entryByte sb w b with
      | some x => some x
      | none => chainByte chain w b
    let bytes := (List.range n).map (fun k => own (off + k))
    if bytes.all Option.isSome then { value := leNat (bytes.map (fun b => b.getD 0)), bad := false, from_ := none }
    else
      let i := max (view.get w) (min pick (s.lastIdx w))
      let r := s.writeAt w i
      { value := leNat ((List.range n).map (fun k => ((bytes.getD k none).getD (r.value.extractLsb' (8 * (off + k)) 8)))),
        bad := r.bad, from_ := some (i, r) }

/-- A thread has read a write: its view advances and the write's message is pending (R170). -/
def ThreadMem.saw (m : ThreadMem) (w : Nat) (from_ : Option (Nat × WriteRec)) : ThreadMem :=
  match from_ with
  | none => m
  | some (i, r) =>
    { m with view := View.raise w i m.view,
             pend := if r.msg.isEmpty then m.pend
               else m.pend ++ [{ msg := r.msg, scope := r.scope, writer := r.writer }] }

/-- Extend the bytes of a load (R309): S32 sign-extends sub-word elements; the result is a 64-bit number. -/
def extendLoad (n : Nat) (fmt : BitVec 4) (v : Nat) : DWord :=
  let x := BitVec.ofNat 64 v
  if fmt == 1 && n == 1 then (x.setWidth 8).signExtend 64
  else if fmt == 1 && n == 2 then (x.setWidth 16).signExtend 64
  else x

/-- The values that a lane's bytes give to the destinations: one word, or the two words of a pair. -/
def laneVals (n : Nat) (fmt : BitVec 4) (v : Nat) (bad : Bool) : List (DWord × Bool) :=
  let x := extendLoad n fmt v
  if n = 8 then [((x.setWidth 32).zeroExtend 64, bad), (x >>> 32, bad)] else [(x, bad)]

/-- An `ld.inv` of a word (R184): its value at the launch's acceptance while it is kept; any value of its order once a
write has broken that, and from then on. -/
def State.invWord (s : State) (lid : Word) (w pick : Nat) : WriteRec × State :=
  let at_ := (s.launch lid).view.get w
  let broken := s.invBroken.contains w || s.lastIdx w != at_
  if broken then
    (s.writeAt w (min pick (s.lastIdx w)), { s with invBroken := if s.invBroken.contains w then s.invBroken else w :: s.invBroken })
  else (s.writeAt w at_, s)

/-! ## Stores -/

/-- The lines of 64 bytes of a region. -/
def regionLines (r : List (Nat × StoreEntry)) : List Nat :=
  r.foldl (fun acc e => if acc.contains (e.2.word / 64) then acc else e.2.word / 64 :: acc) []

/-- Lines that a partition's region holds (R105): SPECREG 0 to 4 are 16 to 256 KiB. -/
def State.regionCapacity (s : State) (p : Nat) : Nat := 256 * 2 ^ (s.part p).cfg.specreg.toNat

/-- A store entry for `n` bytes at a location. -/
def storeEntry (loc n : Nat) (data : DWord) (rel : Option (BitVec 3)) (seq : Nat) : StoreEntry :=
  let w := wordOf loc
  { word := w, mask := maskIn loc n w, data := data <<< (8 * (loc - w)), rel := rel, seq := seq }

/-- The stores of a segment hand go to its region: while it is SPECRUN, and while neither it nor an ancestor's has drained, which the
segment's stores must not overtake (R106, R110). -/
def State.buffersStores (s : State) (h : Hand) (p : Nat × Nat) : Bool :=
  s.specRun h || (s.seg? p).any Seg.draining

/-- A lane appends a store to its thread's store buffer, or to its segment's region, in issue order (R106, R110, R171). -/
def State.appendStore (s : State) (k t loc n : Nat) (data : DWord) (rel : Option (BitVec 3)) : State :=
  let h := s.hand k
  let e := storeEntry loc n data rel (h.thread t).sbNext
  match h.seg with
  | some p =>
    if s.buffersStores h p then
      (s.updSeg p (fun g => { g with region := g.region ++ [(t, e)], hasRegion := true })).updThread k t (fun m => { m with sbNext := m.sbNext + 1 })
    else s.updThread k t (fun m => { m with sb := m.sb ++ [e], sbNext := m.sbNext + 1 })
  | none => (s.updThread k t (fun m => { m with sb := m.sb ++ [e], sbNext := m.sbNext + 1 })).updHand k (fun h => h.sign t e)

/-! ## Byte-counting barriers (R164, R165) -/

/-- A barrier object: EXPECT, ARRIVED, POSTED, OVER and PHASE, with the bits that must be 0. -/
structure BBar where
  expect : Word
  arrived : Nat
  posted : Bool
  isOver : Bool
  phase : BitVec 16
  rest : Nat

def State.readBBar (s : State) (loc : Nat) : BBar :=
  let a := (s.lastWrite loc).value.toNat
  let b := (s.lastWrite (loc + 8)).value.toNat
  { expect := BitVec.ofNat 32 a, arrived := bits a 32 32, posted := bits b 0 1 == 1, isOver := bits b 1 1 == 1,
    phase := BitVec.ofNat 16 (bits b 16 16), rest := b - b % 2 ^ 32 + bits b 2 14 * 4 }

/-- Write a barrier after an action, with a message. When its phase has ended, the copies that this phase counted are those of the last
completed one, and earlier ones are forgotten (R165). -/
def State.writeBBar (s : State) (loc : Nat) (b : BBar) (msg : View) (scope : BitVec 3) (writer : Party) : State :=
  let old := (s.readBBar loc).phase
  let lo : DWord := BitVec.ofNat 64 (b.expect.toNat + b.arrived * 2 ^ 32)
  let hi : DWord := BitVec.ofNat 64 (b.rest + (if b.posted then 1 else 0) + (if b.isOver then 2 else 0) + b.phase.toNat * 2 ^ 16)
  { (s.putWord loc 0xFF lo msg scope writer).putWord (loc + 8) 0xFF hi msg scope writer with
    bbarViews := if b.phase == old then s.bbarViews else s.bbarViews.filter (fun x => x.1 ≠ loc || x.2.1 == old) }

/-- check() of R165. -/
def BBar.check (b : BBar) : BBar :=
  if !b.isOver && b.posted then
    if (b.arrived : Int) = b.expect.toInt then { b with phase := b.phase + 1, arrived := 0, posted := false }
    else if b.expect.toInt < (b.arrived : Int) then { b with isOver := true }
    else b
  else b

/-- post(v) of R165. -/
def BBar.post (b : BBar) (v : Word) : BBar :=
  (if b.posted || v.toInt < 0 then { b with isOver := true } else { b with expect := v, posted := true }).check

/-- add(n) of R165. -/
def BBar.add (b : BBar) (n : Nat) : BBar :=
  (if 0xFFFFFFFF < b.arrived + n then { b with isOver := true } else { b with arrived := b.arrived + n }).check

/-- `bbar.post` is a plain store of the split (R188): it stands in the store buffer of its lowest thread, and is applied when it drains,
after the older stores of all its threads to the barrier (log 97). -/
def State.appendPost (s : State) (k : Nat) (lanes : Lanes) (loc : Nat) (v : Word) : State :=
  let h := s.hand k
  let t := lanes.lowest
  let e : StoreEntry := { word := loc, mask := 0, data := v.zeroExtend 64, rel := none, seq := (h.thread t).sbNext, post := true,
                          also := lanes.list.map (fun t => (t, (h.thread t).sbNext)) }
  s.updThread k t (fun m => { m with sb := m.sb ++ [e], sbNext := m.sbNext + 1 })

end Sys2Proof.Machine
end

