-- ==== Sys2Proof/Machine/MemInstr.lean ====
section
/-!
DEFINITION. Class 2: loads, stores, prefetches, fences and `bind` (spec/14 R307 to R316). Their results are asynchronous:
they are performed and return in the step RESULT_RETURN, and stores drain in STORE_DRAIN.
-/
namespace Sys2Proof.Machine

/-- The destinations of an asynchronous result in g names, one group for each name. -/
def asyncDsts (h : Hand) (act : Lanes) (w : CoreWords) (names : List Nat) (tag : BitVec 4) : List OutDst :=
  if w.nameD = w.zeroName then [] else names.foldl (fun acc n => acc ++ h.gDsts act n tag 64) []

/-- Base A of a memory operand: a pair for device memory, one g for scratch, or an h register in an H form. -/
def memBase (scratch hForm : Bool) (w : CoreWords) : Operand :=
  if hForm then w.hA else if scratch then w.gA else w.pA

/-- The acquire scope of a load or the scope of a release store: 0 when plain (R174). -/
def ordScope (w : CoreWords) : BitVec 3 := if w.x.ord.getLsbD 3 then w.x.ord.extractLsb' 0 3 else 0

/-- The lanes of a load with their locations: those that touch a FILLING window wait for its fill (R159), and those in peer
memory send their reads, or fail when no port to the peer is up (R155). -/
def loadLanes (k id n : Nat) (scratch : Bool) : List (Nat × Nat) → State → List LoadLane × State
  | [], s => ([], s)
  | (t, loc) :: rest, s =>
    let h := s.hand k
    let s := if scratch then s.touchRange h [t] loc n else s
    let (failed, s) :=
      if spaceOf loc = .peer then
        match s.readPeer (coreDie h.core) loc n (.load k id t) with
        | some s' => (false, s')
        | none => (true, s)
      else (false, s)
    let l : LoadLane := { lane := t, loc := loc, seq := (h.thread t).sbNext,
                          win := if scratch then s.fillingAt loc n else none, failed := failed,
                          seen := if scratch then (s.windowViews loc n).foldl View.join [] else [] }
    let (ls, s) := loadLanes k id n scratch rest s
    (l :: ls, s)

/-- `ld`, `lds` and `ld.inv` (R310). -/
def loadOp (scratch inv hForm : Bool) (w : CoreWords) (s : State) : Host.Outcome State Fault Refusal :=
  execCore {} w s fun i act s =>
    let n := memSize w
    let a := memBase scratch hForm w
    let b := w.gB
    let names := if n = 8 then w.pairDst else w.gDst
    withRegs i act s [(a, .move), (b, .move)] names (w.lrNames a b (.lit 0)) fun h s =>
      match s.checkAccess i act scratch .read n n (effAddr scratch w a b h i.uni) with
      | .error (s', t) => .trap s' t
      | .ok (locs, s) =>
        if s.specRun h && locs.any (fun l => spaceOf l.2 == .host) then .edge
        else
          let id := (s.hand i.hand).nextId
          let (ls, s) := loadLanes i.hand id n scratch locs s
          let work : Work := if inv then .inv n w.x.fmt ls else .load n w.x.fmt (ordScope w) ls
          .ok (s.addOutst i.hand act work (asyncDsts (s.hand i.hand) act w names w.x.fmt) 0 0)

/-- `ld`. -/
def execLd : CoreWords → State → Host.Outcome State Fault Refusal := loadOp false false false
/-- `ld`, H form. -/
def execLdH : CoreWords → State → Host.Outcome State Fault Refusal := loadOp false false true
/-- `lds`. -/
def execLds : CoreWords → State → Host.Outcome State Fault Refusal := loadOp true false false
/-- `lds`, H form. -/
def execLdsH : CoreWords → State → Host.Outcome State Fault Refusal := loadOp true false true
/-- `ld.inv`. -/
def execLdInv : CoreWords → State → Host.Outcome State Fault Refusal := loadOp false true false
/-- `ld.inv`, H form. -/
def execLdInvH : CoreWords → State → Host.Outcome State Fault Refusal := loadOp false true true

/-- A SPECRUN hand's region has no room for the lines that stores need (R107). -/
def State.regionFull (s : State) (h : Hand) (locs : List (Nat × Nat)) : Bool :=
  match h.seg.bind s.seg? with
  | none => false
  | some g =>
    let old := regionLines g.region
    let all := locs.foldl (fun acc l => if acc.contains (l.2 / 64) then acc else l.2 / 64 :: acc) old
    old.length < all.length && s.regionCapacity h.part < all.length

/-- `st` and `sts` (R311): each active lane appends one store. -/
def storeOp (scratch hForm : Bool) (w : CoreWords) (s : State) : Host.Outcome State Fault Refusal :=
  execCore { outside := true, signs := true } w s fun i act s =>
    let n := memSize w
    let a := memBase scratch hForm w
    let b := w.gB
    let d := if n = 8 then w.pairName w.nameD else w.gName w.nameD
    withRegs i act s [(a, .move), (b, .move), (d, .move)] [] (w.lrNames a b (.lit 0)) fun h s =>
      match s.checkAccess i act scratch .write n n (effAddr scratch w a b h i.uni) with
      | .error (s', t) => .trap s' t
      | .ok (locs, s) =>
        if s.specRun h && (locs.any (fun l => spaceOf l.2 == .host) || s.regionFull h locs) then .edge
        else if h.beforeCompare i.lanes && locs.any (fun l => spaceOf l.2 == .host) then .stall (s.atCompare i.hand i.lanes)
        else
          let rel := if ordScope w == 0 then none else some (ordScope w)
          .ok (locs.foldl (fun s l => s.appendStore i.hand l.1 l.2 n (d.val h i.uni l.1) rel) s)

/-- `st`. -/
def execSt : CoreWords → State → Host.Outcome State Fault Refusal := storeOp false false
/-- `st`, H form. -/
def execStH : CoreWords → State → Host.Outcome State Fault Refusal := storeOp false true
/-- `sts`. -/
def execSts : CoreWords → State → Host.Outcome State Fault Refusal := storeOp true false
/-- `sts`, H form. -/
def execStsH : CoreWords → State → Host.Outcome State Fault Refusal := storeOp true true

/-- `ldh` (R313): one access of the issuing split. -/
def execLdh (w : CoreWords) (s : State) : Host.Outcome State Fault Refusal :=
  execCore {} w s fun i act s =>
    withRegs i act s [(w.hA, .move)] [] [] fun h s =>
      let ea (_ : Nat) : DWord := uniVal i act h w.nameA + (w.litVal.setWidth 32 : Word).signExtend 64 + memOff w
      match s.checkAccess i act false .read 8 8 ea with
      | .error (s', t) => .trap s' t
      | .ok (locs, s) =>
        let loc := ((locs.head?).map Prod.snd).getD 0
        if s.specRun h && spaceOf loc == .host then .edge
        else
          let seqs := i.lanes.list.map (fun t => (t, (h.thread t).sbNext))
          let id := (s.hand i.hand).nextId
          let sent : Option State := if spaceOf loc = .peer then
              s.readPeer (coreDie h.core) loc 8 (.load i.hand id (Lanes.lowest act)) else some s
          match sent with
          | some s => .ok (s.addOutst i.hand act (.loadH loc w.x.fmt seqs false) [pendingDst (.h w.nameD) w.x.fmt] 0 0)
          | none => .ok (s.addOutst i.hand act .value [poisonedDst (.h w.nameD) w.x.fmt] 0 0)

/-- `pref` (R314): a request to the last-level cache, which the model does not hold; no fault, no view, no register. -/
def prefOp (hForm : Bool) (w : CoreWords) (s : State) : Host.Outcome State Fault Refusal :=
  execCore {} w s fun i act s =>
    let a := memBase false hForm w
    withRegs i act s [(a, .move), (w.gB, .move)] [] (w.lrNames a w.gB (.lit 0)) fun _ s => .ok s

/-- `pref`. -/
def execPref : CoreWords → State → Host.Outcome State Fault Refusal := prefOp false
/-- `pref`, H form. -/
def execPrefH : CoreWords → State → Host.Outcome State Fault Refusal := prefOp true

/-- `fence` (R315): R173 for each active thread, with the stores that are older. -/
def execFence (w : CoreWords) (s : State) : Host.Outcome State Fault Refusal :=
  execCore { sync := true } w s fun i act s =>
    let h := s.hand i.hand
    .ok (s.addOutst i.hand act (.fence (ordScope w) (act.list.map (fun t => (t, (h.thread t).sbNext)))) [] 0 0)

/-- A bind-table entry is well formed (R175); LAST is not looked at. -/
def bindOk (obj base len rest : DWord) : Bool :=
  obj.toNat % 8 == 0 && base.toNat % 64 == 0 && len.toNat % 64 == 0 && len != 0 && rest >>> 1 == 0

/-- A word that an instruction reads at its issue as a load of threads (R170): own buffered stores first, and else a write that their view
allows, the latest unless a free value says otherwise. The read raises no view: the instruction has no rule of R170 to R174 (log 104). -/
def State.issueWord (s : State) (h : Hand) (lanes : List Nat) (loc : Nat) : Loaded :=
  let seqs := lanes.map (fun t => (t, (h.thread t).sbNext))
  let view := seqs.foldl (fun v l => View.join v (h.thread l.1).view) []
  let sbs := (seqs.map (fun l => (h.thread l.1).older l.2)).filter (fun es => es.any (fun e => e.word = wordOf loc))
  let first := if sbs.length < 2 then 0 else (Config.freeWord s.tick).toNat % sbs.length
  let pick := if s.lastIdx (wordOf loc) ≤ View.get view (wordOf loc) then 0 else (Config.freeDWord (s.tick + loc)).toNat
  s.loadWord ((sbs.drop first ++ sbs.take first).flatten) (s.chainOf h seqs) view loc 8 pick

/-- A `bind` whose entry lies in a peer asks for it, and its split waits (R148); without a port no data come (R155). -/
def State.askEntry (s : State) (i : SplitIssue) (loc : Nat) : State :=
  match s.readPeer (coreDie (s.hand i.hand).core) (loc - loc % 64) 64 (.entry i.hand loc) with
  | some s => s.updHand i.hand (fun h => { h with parks := h.parks ++ [(i.lanes, .entry loc)] })
  | none => { s with entryReads := (i.hand, loc, false) :: s.entryReads }

/-- `bind` (R316): reads the entry, translates OBJ and sends the registration. The result of an entry that cannot be read is poisoned, as a
load's (log 104). -/
def execBind (w : CoreWords) (s : State) : Host.Outcome State Fault Refusal :=
  execCore { outside := true, edge := true, sync := true } w s fun i act s =>
    withRegs i act s [(w.hA, .move)] [] [] fun h s =>
      match s.checkAccess i act false .read 32 32 (fun _ => uniVal i act h w.nameA) with
      | .error (s', t) => .trap s' t
      | .ok (locs, s) =>
        let loc := ((locs.head?).map Prod.snd).getD 0
        let got := s.entryReads.find? (fun x => x.1 = i.hand && x.2.1 == loc)
        if spaceOf loc = .peer ∧ got.isNone = true then .stall (s.askEntry i loc)
        else
          let came := (got.map (fun x => x.2.2)).getD true
          let ws := (List.range 4).map (fun k => s.issueWord h i.lanes.list (loc + 8 * k))
          let word (k : Nat) : DWord := BitVec.ofNat 64 ((ws[k]?.map Loaded.value).getD 0)
          let s := (ws.zipIdx.filter (fun x => x.1.bad)).foldl (fun s x => s.logUE (loc + 8 * x.2)) s
          let s := { (s.crossHome (coreDie h.core) loc).hostRead loc with
            entryReads := s.entryReads.filter (fun x => !(x.1 = i.hand && x.2.1 == loc)) }
          if !came || ws.any (fun x => x.bad || x.lost) then .ok (s.addOutst i.hand act .value [poisonedDst (.h w.nameD) 2] 0 0)
          else match s.checkAccess i act false .read 1 8 (fun _ => word 0) with
            | .error (s', t) => .trap s' t
            | .ok (objs, s) =>
              .ok (s.addOutst i.hand act (.bind (((objs.head?).map Prod.snd).getD 0) (word 1) (word 2)
                (bindOk (word 0) (word 1) (word 2) (word 3))) [pendingDst (.h w.nameD) 2] 0 0)

end Sys2Proof.Machine
end

