-- ==== Sys2Proof/Machine/Results.lean ====
section
/-!
DEFINITION. Performing loads and fences (spec/05 R119 to R121, spec/07 R170, R173, R174, R184), and the step STORE_DRAIN (R171,
R173, R174).
-/
namespace Sys2Proof.Machine

/-- A lane's read in peer memory has been answered. -/
def State.answered (s : State) (k id t : Nat) : Bool := !s.reqs.any (fun r => r.use == .load k id t)

/-- Perform one lane of a load (R170), with the join of an acquire (R174) and those of the window fills that it completes from, whose bytes
it reads (R159, R182). -/
def State.performLane (s : State) (k id n : Nat) (fmt : BitVec 4) (acq : BitVec 3) (l : LoadLane) (pick : Nat) : State :=
  let h := s.hand k
  let m := h.thread l.lane
  let fills := (s.windowViews l.loc n).foldl View.join l.seen
  let x := s.loadWord (m.older l.seq) (s.chainOf h [(l.lane, l.seq)]) (View.join m.view fills) l.loc n pick
  let joins : List (Nat × View) := match x.from_ with
    | some (_, r) => if acq != 0 && within (narrower acq r.scope) h.party r.writer then [(l.lane, r.msg)] else []
    | none => []
  let s := if x.bad then s.logUE l.loc else s
  let s := if x.from_.isSome then (s.crossHome (coreDie h.core) l.loc).hostRead l.loc else s
  (s.updThread k l.lane (fun m => m.saw (wordOf l.loc) x.from_)).updOutst k id (fun o =>
    let none_ := x.lost || l.failed
    let o := o.fill l.lane (laneVals n fmt x.value (x.bad || none_)) none_
    { o with joins := o.joins ++ joins ++ (if fills.isEmpty then [] else [(l.lane, fills)]) })

/-- Perform one lane of an `ld.inv` (R184). -/
def State.performInv (s : State) (k id n : Nat) (fmt : BitVec 4) (l : LoadLane) (pick : Nat) : State :=
  let h := s.hand k
  let lost := spaceOf l.loc == .host && s.hostLink.lost
  let (r, s) := s.invWord h.lid (wordOf l.loc) pick
  let s := ((if r.bad then s.logUE l.loc else s).crossHome (coreDie h.core) l.loc).hostRead l.loc
  let v := bits r.value.toNat (8 * (l.loc % 8)) (8 * n)
  s.updOutst k id (fun o => o.fill l.lane (laneVals n fmt (if lost then 0 else v) (lost || l.failed || r.bad)) (lost || l.failed))

/-- Perform lanes of a load, one choice of index for each. -/
def performLanes (f : State → LoadLane → Nat → State) : List LoadLane → List Nat → State → State
  | [], _, s => s
  | l :: ls, ps, s => performLanes f ls ps.tail (f s l (ps.headD 0))

/-- Perform the fence of one lane (R173), once its older stores have drained: its fence view is taken, and the joins of
its pending set take effect when the result returns. -/
def State.performFence (s : State) (k id : Nat) (scope : BitVec 3) (l : Nat × Nat) : State :=
  let h := s.hand k
  let m := h.thread l.1
  let drained : Bool := match h.seg.bind s.seg? with
    | some g => g.region.isEmpty || g.state == 3
    | none => true
  if !drained || !(m.older l.2).isEmpty then s
  else
    let joins := (m.pend.filter (fun p => within (narrower p.scope scope) h.party p.writer)).map (fun p => (l.1, p.msg))
    (s.updThread k l.1 (fun m => { m with fview := m.view, fscope := scope, pend := [] })).updOutst k id (fun o =>
      { o with back := o.back ||| Lanes.one l.1, joins := o.joins ++ joins })

/-! ## Draining stores -/

/-- An instruction older than a store keeps it in the buffer: a fence of its lane that has not been performed (R173). A load does not
(R171, log 41). -/
def Outst.holds (o : Outst) (t : Nat) (e : StoreEntry) : Bool :=
  !o.back.has t && !o.returned &&
  match o.work with
  | .fence _ ls => ls.any (fun l => l.1 == t && l.2 ≤ e.seq)
  | _ => false

/-- The words of an entry: a barrier has two. -/
def StoreEntry.words (e : StoreEntry) : List Nat := if e.post then [e.word, e.word + 8] else [e.word]

/-- Two entries share a word. -/
def StoreEntry.meets (x e : StoreEntry) : Bool := x.words.any (fun w => e.words.contains w)

/-- An entry may drain (R171, R174): no older entry for its word, for a release store no older entry at all, and nothing
older that holds it. -/
def Hand.mayDrain (h : Hand) (t : Nat) (e : StoreEntry) : Bool :=
  let older := (h.thread t).older e.seq
  (if e.rel.isSome then older.isEmpty else !older.any (fun x => x.meets e)) &&
    e.also.all (fun q => !((h.thread q.1).older q.2).any (fun x => x.meets e)) && h.pairDrains t e && !h.outst.any (fun o => o.holds t e)

/-- A store reaches its word's home: the write carries the fence view, or for a release store the thread's view, and the
thread's view takes its index. A store to a peer without a port is dropped (R155). -/
def State.drain (s : State) (k t : Nat) (e : StoreEntry) : State :=
  let h := s.hand k
  let m := h.thread t
  let s := s.updThread k t (fun m => { m with sb := m.sb.filter (fun x => x.seq ≠ e.seq) })
  let put (s : State) : State :=
    let s' := if e.post then s.writeBBar e.word ((s.readBBar e.word).post (e.data.setWidth 32)) m.fview m.fscope h.party
      else match e.rel with
      | some sc => s.putWord e.word e.mask e.data m.view sc h.party (.thread k t)
      | none => s.putWord e.word e.mask e.data m.fview m.fscope h.party (.thread k t)
    s'.updThread k t (fun m => { m with view := e.words.foldl (fun v w => View.raise w (s'.lastIdx w) v) m.view })
  if spaceOf e.word = .peer then
    match s.writePeer (coreDie h.core) e.word e.mask e.data with
    | some s' => put s'
    | none => s.dropPeerStore (coreDie h.core)
  else put (s.crossHome (coreDie h.core) e.word)

/-- A store of a thread drains, and engine threads that waited for it start. -/
def State.drainStore (s : State) (k t : Nat) (e : StoreEntry) : State := (s.drain k t e).startForks k

/-- STORE_DRAIN. -/
def execStoreDrain (s : State) : Host.Outcome State Fault Refusal :=
  let k := s.args.n
  let t := s.args.m
  let h := s.hand k
  match (h.thread t).sb[s.args.k]? with
  | none => .next s
  | some e => if h.mayDrain t e then .next ((s.drainStore k t e).wakeStores k) else .next s

end Sys2Proof.Machine
end

