-- ==== Sys2Proof/Machine/Announce.lean ====
section
/-!
DEFINITION. Announcement records at their homes (spec/14 R317 to R324, R328, R329; spec/07 R178 to R180; spec/02 R52 to R54):
lists, apply heads, the steps that a home accepts or rejects, and the needed step of R325.
-/
namespace Sys2Proof.Machine

/-! ## Regions and publish entries (R175 to R177) -/

/-- A region of a launch as location intervals, page by page; a page that is not mapped is left out. -/
def State.regionLocs (s : State) (who : Nat) (asid : BitVec 16) (base len : DWord) : List (Nat × Nat) :=
  let first := base.toNat / 65536
  let stop := base.toNat + len.toNat
  (List.range ((stop + 65535) / 65536 - first)).filterMap (fun i =>
    let lo := max base.toNat ((first + i) * 65536)
    let hi := min stop ((first + i + 1) * 65536)
    (s.locOf asid (BitVec.ofNat 64 lo) .read who).map (fun loc => (loc, hi - lo)))

/-- The regions that a launch has bound to an object. -/
def State.regions (s : State) (lid : Word) (obj : Nat) : List (Nat × Nat) :=
  (s.binds.filter (fun b => b.lid = lid && b.obj == obj)).foldr
    (fun b acc => s.regionLocs (2048 + homeOf obj / 16 % 4) (s.launch lid).asid b.base b.len ++ acc) []

/-- A view restricted to a launch's regions of an object. -/
def State.restrictTo (s : State) (lid : Word) (obj : Nat) (v : View) : View := v.restrict (s.regions lid obj)

/-- An apply step acts as an acquire and a release on the object's publish entry, when it has one (R179). -/
def State.publish (s : State) (obj : Nat) (v : View) : View × State :=
  match s.pubs.find? (fun p => p.obj = obj) with
  | none => (v, s)
  | some p =>
    let v := View.join v p.pub
    (v, { s with pubs := updWhere (fun q => q.obj = obj) (fun q => { q with ver := q.ver + 1, pub := View.join q.pub v }) s.pubs })

/-! ## Records and lists (R52, R317, R318) -/

def holdOp : Nat := 0x3F
def mcasOp : Nat := 8
def bktOp : Nat := 9

def AnnRec.ticket (r : AnnRec) : Nat := r.idx + r.home * 8192
def State.rec? (s : State) (t : Nat) : Option AnnRec := s.recs.find? (fun r => r.ticket = t)
def State.updRec (s : State) (t : Nat) (f : AnnRec → AnnRec) : State :=
  { s with recs := updWhere (fun r => r.ticket = t) f s.recs }

/-- The tickets on an object's list, oldest first. -/
def State.objList (s : State) (obj : Nat) : List Nat :=
  match s.lists.find? (fun l => l.obj = obj) with
  | some l => l.recs
  | none => []

def State.setList (s : State) (obj : Nat) (ts : List Nat) : State :=
  let others := s.lists.filter (fun l => l.obj ≠ obj)
  { s with lists := if ts.isEmpty then others else { obj := obj, recs := ts } :: others }

/-- NEXT of a record: the ticket behind it on its object's list, 0xFFFF_FFFF at the tail (R317). -/
def State.nextOnList (s : State) (r : AnnRec) : Nat :=
  (((s.objList r.obj).dropWhile (fun t => t ≠ r.ticket)).getD 1 0xFFFFFFFF)

/-- One home action: a record is allocated at the lowest free index of its home and appended to its object's list; none
when the home's 8,192 records are in use (R317, R318). -/
def State.allocRec (s : State) (home : Nat) (r : AnnRec) : Option (Nat × State) :=
  let used := (s.recs.filter (fun x => x.home = home)).map AnnRec.idx
  let i := lowestFree used used.length 0
  if 8192 ≤ i then none
  else
    let r := { r with home := home, idx := i }
    some (r.ticket, { s with recs := s.recs ++ [r] }.setList r.obj (s.objList r.obj ++ [r.ticket]))

def State.unlist (s : State) (r : AnnRec) : State := s.setList r.obj ((s.objList r.obj).filter (fun t => t ≠ r.ticket))

/-- Take a record off its list and free it. -/
def State.dropRec (s : State) (t : Nat) : State :=
  match s.rec? t with
  | none => s
  | some r => { s.unlist r with recs := s.recs.filter (fun x => x.ticket ≠ t) }

/-- The hold records of an `ann.mcas` record (R329). -/
def State.holdsOf (s : State) (t : Nat) : List AnnRec := s.recs.filter (fun r => r.op = holdOp && r.opB.toNat == t)

def State.holdOn (s : State) (t obj : Nat) : Option Nat := ((s.holdsOf t).find? (fun r => r.obj = obj)).map AnnRec.ticket

/-- The number of words of an `ann.mcas` record. -/
def AnnRec.nw (r : AnnRec) : Nat := r.opB.toNat

/-- A record keeps the apply head of its list: it still has an apply step to be accepted, or it holds the word (R318,
R329). -/
def AnnRec.keepsHead (r : AnnRec) : Bool :=
  r.state == 1 && (r.op == holdOp || (if r.op == mcasOp then r.prog < r.nw + 2 else r.prog == 0))

/-- The apply head of an object. -/
def State.applyHead (s : State) (obj : Nat) : Option Nat :=
  (s.objList obj).find? (fun t => (s.rec? t).any AnnRec.keepsHead)

/-- A record reaches a terminal state: it leaves its list with any holds it has left, and a killed owner's record is freed
(R318). -/
def State.endRec (s : State) (r : AnnRec) (st : BitVec 3) : State :=
  let s := (s.holdsOf r.ticket).foldl (fun s h => s.dropRec h.ticket) s
  ((s.unlist r).updRec r.ticket (fun r => { r with state := st })).sweepRecs

/-- Write the log entry of a result (R212): SEQ 0 has none (R376), nor has an owner that has ended. -/
def State.writeLog (s : State) (lid : Word) (hid lane : Nat) (seq : Word) (fail : Bool) (v : DWord) : State :=
  match s.handOf lid hid with
  | none => s
  | some h =>
    if seq == 0 || h.state == .done then s
    else
      let b := s.retain lid hid
      let e := (seq.toNat - 1) % 16
      s.setRetain { b with log := (lane, e, seq, fail, v) :: b.log.filter (fun x => !(x.1 = lane && x.2.1 == e)) }

/-- Write the log entry of a record's result; the owner's device writes that of a record whose owner is there. -/
def State.logResult (s : State) (r : AnnRec) (fail : Bool) (v : DWord) : State :=
  if r.dev.isSome then s else s.writeLog r.lid r.hid r.lane r.seq fail v

/-- A record ends FAILED at a step that is accepted. -/
def State.failRec (s : State) (r : AnnRec) (k : Nat) (fdet : Word) : State :=
  let s := (s.updRec r.ticket (fun r => { r with prog := k, fdet := fdet })).logResult r true (fdet.zeroExtend 64)
  s.endRec r 4

/-- A step is accepted; after the last one the record is DELIVERED, or APPLIED without a cell (R323). -/
def State.acceptStep (s : State) (r : AnnRec) (k : Nat) : State :=
  let s := s.updRec r.ticket (fun r => { r with prog := k })
  if k = r.nsteps then s.endRec r (if r.nocell then 2 else 3) else s

/-! ## Operations (R321, R322) -/

def lowBits (type : Nat) (x : DWord) : DWord := if type < 3 then (x.setWidth 32).zeroExtend 64 else x

/-- The new value of a word of the type's width, with the flags of a float apply. -/
def annNew (op type : Nat) (a b old : DWord) : DWord × Flags :=
  let a := lowBits type a
  let old := lowBits type old
  let less (x y : DWord) : Bool :=
    match type with
    | 0 => (x.setWidth 32 : Word).slt (y.setWidth 32)
    | 3 => x.slt y
    | _ => x.ult y
  let pick (big : Bool) : DWord × Flags :=
    if type = 2 then
      let (v, f) := FFmt.f32.minMax big old.toNat a.toNat
      (BitVec.ofNat 64 v, f)
    else (if (if big then less old a else less a old) then a else old, 0)
  match op with
  | 0 =>
    if type = 2 then
      let x := FFmt.f32.decode old.toNat
      let y := FFmt.f32.decode a.toNat
      let (z, f) := Num.add x y 0
      let (c, g) := FFmt.f32.round z 0 false
      (BitVec.ofNat 64 c, x.sig ||| y.sig ||| f ||| g)
    else (lowBits type (old + a), 0)
  | 1 => pick false
  | 2 => pick true
  | 3 => (old &&& a, 0)
  | 4 => (old ||| a, 0)
  | 5 => (old ^^^ a, 0)
  | 6 => (a, 0)
  | _ => (if old == a then lowBits type b else old, 0)

/-- The value that a result cell receives (R321). -/
def cellValue (type : Nat) (v : DWord) : DWord := if type = 0 then (v.setWidth 32 : Word).signExtend 64 else v

/-- Write a word of a location for a die of the device: a word in a peer goes out as a WR, or is dropped without a port (R155); one of the
diagonal die takes its way (R11). -/
def State.storeWord (s : State) (die w : Nat) (mask : BitVec 8) (data : DWord) (msg : View) (scope : BitVec 3)
    (writer : Party) (owner : Owner := .none) : State :=
  if spaceOf w = .peer then
    match s.writePeer die w mask data with
    | some s' => s'.putWord w mask data msg scope writer
    | none => s.dropPeerStore die
  else (s.crossHome die w).putWord w mask data msg scope writer owner

/-- The slot of a bucket (R323): a write of 4 bytes at the object + 8 + 4 × RES, of no party. -/
def State.bucketSlot (s : State) (r : AnnRec) : State :=
  let a := r.obj + 8 + 4 * r.res.toNat
  if deviceExists a then s.putBytes a (leBytes r.opA.toNat 4) Party.nobody else s

/-! ## Steps -/

/-- What a home makes of a step that reaches it. -/
inductive StepOut where
  /-- The home answers: accepted or rejected. -/
  | answered (s : State) (accepted : Bool)
  /-- No free record for an install (R329): rejected, FULL. -/
  | full (s : State)
  /-- The delivery's translation is PAGE: the sender takes the fault (R319). -/
  | page (s : State) (asid : BitVec 16) (va : DWord)
  /-- A CELL has been sent to the owner's device (R23); the answer follows its CELLA. -/
  | remote (s : State)

/-- Word `j` of an `ann.mcas` record as a step reads it (R328): its location, EXP and NEW. -/
inductive McasWord where
  | ok (loc : Nat) (exp new : DWord) (s : State)
  | prot
  | page (va : DWord)

/-- The last writes of the words of a descriptor, where they are mapped (R328). -/
def State.descView (s : State) (asid : BitVec 16) (desc : DWord) (nw who : Nat) : View :=
  (List.range (3 * nw)).foldl (fun v j =>
    match s.locOf asid (desc + BitVec.ofNat 64 (8 * j)) .read who with
    | some loc => View.raise (wordOf loc) (s.lastIdx (wordOf loc)) v
    | none => v) []

/-- A word of a record's descriptor as a step reads it (R328): as last written, or any value ever written to it when it has been written
since the append (log 115). -/
def State.descWord (s : State) (r : AnnRec) (loc : Nat) : DWord :=
  let n := s.lastIdx loc
  (s.writeAt loc (if n ≤ View.get r.desc loc then n else Config.fetchPick s.tick (BitVec.ofNat 64 loc))).value

def State.mcasWord (s : State) (r : AnnRec) (j : Nat) : McasWord :=
  let at_ (k : Nat) : DWord := r.opA + BitVec.ofNat 64 (24 * (j - 1) + 8 * k)
  let who := 2048 + r.home / 16
  match s.translate r.asid (at_ 0) .read who, s.translate r.asid (at_ 1) .read who, s.translate r.asid (at_ 2) .read who with
  | .ok a ea, .ok b _, .ok c ec =>
    let va := s.descWord r a
    match s.translate r.asid va .write who with
    | .ok loc e =>
      if loc % 8 ≠ 0 ∨ spaceOf loc ≠ .device then .prot
      else .ok loc (s.descWord r b) (s.descWord r c) (((s.tlbAdd ea).tlbAdd ec).tlbAdd e)
    | .prot => .prot
    | .page _ _ => .page va
  | .page _ _, _, _ => .page (at_ 0)
  | _, .page _ _, _ => .page (at_ 1)
  | _, _, .page _ _ => .page (at_ 2)
  | _, _, _ => .prot

/-- A word step of an `ann.mcas` record, whose word's translation may end it (R329, R319). -/
def State.withWord (s : State) (r : AnnRec) (k j : Nat) (f : Nat → DWord → DWord → State → StepOut) : StepOut :=
  match s.mcasWord r j with
  | .ok loc e n s => f loc e n s
  | .prot => .answered (s.failRec r k 0x0000000A) true
  | .page va => .page s r.asid va

/-- An accepted install compares the word with EXP (R329). -/
def State.acceptInstall (s : State) (r : AnnRec) (j loc : Nat) (exp : DWord) : StepOut :=
  let differs := (s.lastWrite loc).value != exp
  .answered ((s.updRec r.ticket (fun r => { r with res := if differs then r.res ||| BitVec.ofNat 64 (2 ^ (j - 1)) else r.res })).acceptStep r j)
    true

/-- Install `j` (R329). -/
def State.install (s : State) (r : AnnRec) (j : Nat) : StepOut :=
  if j = 1 then
    if s.applyHead r.obj ≠ some r.ticket then .answered s false
    else s.withWord r 1 1 (fun loc e _ s => s.acceptInstall r 1 loc e)
  else s.withWord r j j (fun loc e _ s =>
    let go (h : Nat) (s : State) : StepOut :=
      if s.applyHead loc = some h then s.acceptInstall r j loc e else .answered s false
    match s.holdOn r.ticket loc with
    | some h => go h s
    | none =>
      match s.allocRec (homeOf loc) { r with op := holdOp, obj := loc, state := 1, prog := 0, opB := BitVec.ofNat 64 r.ticket } with
      | none => .full s
      | some (h, s) => go h s)

/-- Update `j` (R329): on success NEW is written as an apply (R179), then the hold is released. -/
def State.updateStep (s : State) (r : AnnRec) (k j : Nat) : StepOut :=
  s.withWord r k j (fun loc _ n s =>
    let s :=
      if r.res == 0 then
        let s := s.putWord loc 0xFF n [] 0 Party.nobody
        let (v, s) := s.publish loc r.view
        s.updRec r.ticket (fun r => { r with view := v })
      else s
    let s := match (if j = 1 then none else s.holdOn r.ticket loc) with
      | some h => s.dropRec h
      | none => s
    .answered (s.acceptStep r k) true)

/-- Step 1 of a single-word record on an object of this device (R322, R323). A full bucket's object does not change (R179). The message and
the writer of the step's own write, which no rule gives, are an empty one and no party (log 121). -/
def State.applyRec (s : State) (r : AnnRec) : State :=
  let old := (s.lastWrite r.obj).value
  let s :=
    if r.op = bktOp then
      let cap := bits old.toNat 32 32
      let count := bits old.toNat 0 32
      if count < cap then
        let s := s.putWord r.obj 0x0F (BitVec.ofNat 64 (count + 1)) [] 0 Party.nobody
        let s := s.updRec r.ticket (fun r => { r with res := BitVec.ofNat 64 count })
        if r.nocell then s.bucketSlot { r with res := BitVec.ofNat 64 count } else s
      else s.updRec r.ticket (fun r => { r with res := 0xFFFFFFFF })
    else
      let (v, f) := annNew r.op r.type r.opA r.opB old
      (s.putWord r.obj (if r.type < 3 then 0x0F else 0xFF) v [] 0 Party.nobody).updRec r.ticket
        (fun r => { r with res := lowBits r.type old, flg := f })
  let res := ((s.rec? r.ticket).map AnnRec.res).getD 0
  let (v, s) := if r.op = bktOp && res == 0xFFFFFFFF then (r.view, s) else s.publish r.obj r.view
  let s := s.updRec r.ticket (fun r => { r with view := v })
  (s.logResult r false res).acceptStep r 1

/-- Host memory takes the operation (R53, R323). -/
def hostKind (op type : Nat) : Bool :=
  (op == 0 && (type == 0 || type == 1 || type == 3 || type == 4)) ||
    op == 6 || op == 7

/-- The proxy's step 1 (R53): it claims the step by issuing one AtomicOp, whose completion is a step of its own. While a
TLP is outstanding, and while the host is lost, the attempt is rejected. -/
def State.hostStep (s : State) (r : AnnRec) : StepOut :=
  if s.hostLink.lost || s.atomics.contains r.ticket then .answered s false
  else if !hostKind r.op r.type then .answered (s.failRec r 1 0x00000011) true
  else .answered { s with atomics := s.atomics ++ [r.ticket] } false

/-- The delivery write of a result cell (R180, R319, R323). -/
def State.writeCellAt (s : State) (die loc type : Nat) (v : DWord) : State :=
  s.storeWord die loc 0xFF (cellValue type v) [] 0 Party.nobody

/-- Data of a CELL (R23). -/
def AnnRec.cellData (r : AnnRec) : BitVec 512 :=
  BitVec.ofNat 512 (r.ticket + r.res.toNat * 2 ^ 64 + r.lid.toNat * 2 ^ 128 + r.hid * 2 ^ 160 + r.lane * 2 ^ 174)

/-- The delivery step: the slot of a bucket, then the cell (R323). The cell of an owner in another device is written there (R23). -/
def State.deliver (s : State) (r : AnnRec) : StepOut :=
  let slot (s : State) : State := if r.op = bktOp && r.res != 0xFFFFFFFF then s.bucketSlot r else s
  match r.dev with
  | some dev =>
    match s.request dev (r.home / 16 % 4) kindCELL
        { (default : PeerMsg) with size := 3, addr := r.cell, data := r.cellData } (.cell r.home r.idx) with
    | some s' => .remote (slot s')
    | none => .answered s false
  | none =>
    match s.translate r.asid r.cell .write (2048 + r.home / 16 % 4) with
    | .prot => .answered (s.failRec r r.nsteps 0x0000000A) true
    | .page _ _ => .page s r.asid r.cell
    | .ok loc e =>
      let s := ((slot s).tlbAdd e).writeCellAt (r.home / 16 % 4) loc r.type r.res
      .answered ((s.updRec r.ticket (fun r => { r with delivered := [(wordOf loc, s.lastIdx (wordOf loc))] })).acceptStep
        r r.nsteps) true

/-- A step reaches its home (R179, R324). A step whose number is not PROG + 1, or of a record that is not QUEUED, is
rejected, and nothing changes. -/
def State.homeStep (s : State) (t k : Nat) : StepOut :=
  match s.rec? t with
  | none => .answered s false
  | some r =>
    if r.state != 1 || r.op == holdOp || r.prog + 1 != k || r.nsteps < k || s.reqs.any (fun q => q.use == .cell r.home r.idx) then .answered s false
    else if r.op = mcasOp then
      if k ≤ r.nw then s.install r k
      else if k = r.nw + 1 then .answered ((s.logResult r false r.res).acceptStep r k) true
      else if k ≤ 2 * r.nw + 1 then s.updateStep r k (k - r.nw - 1)
      else s.deliver r
    else if k = 1 then
      if s.applyHead r.obj ≠ some t then .answered s false
      else if r.host then s.hostStep r
      else .answered (s.applyRec r) true
    else s.deliver r

/-! ## Host completions (R54) -/

/-- The AtomicOp, or the read and write in its place, has been performed on a host word that held `old`. -/
def State.hostDone (s : State) (r : AnnRec) (old : DWord) : State :=
  let w := wordOf r.obj
  let mask : BitVec 8 := if r.type < 3 then 0x0F else 0xFF
  let s := if lowBits r.type (s.lastWrite w).value == lowBits r.type old then s else s.appendWrite w mask old [] 5 Party.nobody
  let (v, f) := annNew r.op r.type r.opA r.opB old
  let s := s.appendWrite w mask v [] 0 Party.nobody
  let (view, s) := s.publish r.obj r.view
  let s := s.updRec r.ticket (fun r => { r with res := lowBits r.type old, flg := f, view := view })
  (s.logResult r false (lowBits r.type old)).acceptStep r 1

/-- A host-bound request reached completion time-out; the sixteenth in a row loses the host (R55). -/
def State.hostTimeout (s : State) : State :=
  let l := s.hostLink
  let n := l.timeouts + 1
  { s with hostLink := if !l.lost && 16 ≤ n then { l with timeouts := n, lost := true, choice := none } else { l with timeouts := n } }

/-- ATOMICOP_COMPLETION. -/
def execAtomicopCompletion (s : State) : Host.Outcome State Fault Refusal :=
  let t := 64 * 8192 + s.args.n
  match s.rec? t with
  | none => .next s
  | some r =>
    if !s.atomics.contains t then .next s
    else
      let s := { s with atomics := s.atomics.filter (fun x => x ≠ t) }.hostAnswered
      if s.args.ok && !r.dx then .next (s.failRec r 1 0x00000011)
      else .next (s.hostDone r s.args.value)

/-- ATOMICOP_TIMEOUT. -/
def execAtomicopTimeout (s : State) : Host.Outcome State Fault Refusal :=
  let t := 64 * 8192 + s.args.n
  match s.rec? t with
  | none => .next s
  | some r =>
    if !s.atomics.contains t then .next s
    else
      let s := { s with atomics := s.atomics.filter (fun x => x ≠ t) }
      let w := wordOf r.obj
      let s := if s.args.ok then
          s.appendWrite w (if r.type < 3 then 0x0F else 0xFF) (annNew r.op r.type r.opA r.opB (s.lastWrite w).value).1 [] 0 Party.nobody
        else s
      .next (s.hostTimeout.failRec r 1 0x00010011)

/-! ## Cancels (R210) -/

/-- RECORD_CANCEL: a killed owner's record that has made no progress is CANCELLED; every other is left to its helpers. The home in
a peer is asked to do the same; `n` is then 128 + device, and `m` the ticket. -/
def execRecordCancel (s : State) : Host.Outcome State Fault Refusal :=
  let t := s.args.n * 8192 + s.args.m
  match s.peerCancels.find? (fun x => homeOf x.obj = s.args.n && x.ticket == s.args.m) with
  | some x =>
    let s := { s with peerCancels := s.peerCancels.filter (fun y => y ≠ x) }
    .next ((s.sendStep 0 x.obj (stepData 2 0 s.devNum x.ticket 0) (.cancel x.lid x.hid x.lane x.seq)).getD s)
  | none =>
  match s.rec? t with
  | none => .next s
  | some r =>
    if r.killed && r.state == 1 && r.prog == 0 && r.op != holdOp && !s.atomics.contains t then
      .next (s.updRec t (fun r => { r with state := 5 }))
    else .next s

/-! ## The needed step (R325) -/

/-- The next step of a record. -/
def State.nextStep (s : State) (t : Nat) : Option (Nat × Nat) :=
  match s.rec? t with
  | some r => if r.state == 1 && r.op != holdOp then some (t, r.prog + 1) else none
  | none => none

/-- The hold on which a record's next step waits: its next step is an install whose hold stands on a list, not as its
apply head; the word and the hold. -/
def State.blockedHold (s : State) (t : Nat) : Option (Nat × Nat) :=
  match s.rec? t with
  | none => none
  | some r =>
    if r.op = mcasOp ∧ r.state = 1 ∧ 1 ≤ r.prog ∧ r.prog < r.nw then
      match s.mcasWord r (r.prog + 1) with
      | .ok loc _ _ _ => match s.holdOn t loc with
        | some h => if s.applyHead loc = some h then none else some (loc, h)
        | none => none
      | _ => none
    else none

/-- The needed step on an object: of the oldest live record ahead of `own`, with the two cases of R325. A CANCELLED record
met on the way is removed. -/
def State.needed : Nat → State → Nat → Option Nat → State × Option (Nat × Nat)
  | 0, s, _, _ => (s, none)
  | fuel + 1, s, obj, own =>
    match s.objList obj with
    | [] => (s, none)
    | t :: ts =>
      if own == some t || own.any (fun o => !ts.contains o) then (s, none)
      else match s.rec? t with
        | none => (s, none)
        | some r =>
          if r.state == 5 then State.needed fuel (s.dropRec t) obj own
          else
            let m := if r.op = holdOp then r.opB.toNat else t
            match s.blockedHold m with
            | some (w, h) => match State.needed fuel s w (some h) with
              | (s, some x) => (s, some x)
              | (s, none) => (s, s.nextStep m)
            | none => (s, s.nextStep m)

/-- The helping step that an instruction sends next. An own install that waits behind other records of its word needs the
needed step there (R325, R331). -/
def State.helpStep (s : State) (obj : Nat) (own : Option Nat) : State × Option (Nat × Nat) :=
  let fuel := 2 * s.recs.length + 2
  match State.needed fuel s obj own with
  | (s, some x) => (s, some x)
  | (s, none) =>
    match own.bind s.blockedHold with
    | some (w, h) => State.needed fuel s w (some h)
    | none => (s, none)

/-- The own record's next step when it meets R324. -/
def State.ownStep (s : State) (t : Nat) : Option (Nat × Nat) :=
  match s.nextStep t, s.rec? t with
  | some (t, k), some r =>
    if k = 1 then (if s.applyHead r.obj = some t then some (t, k) else none)
    else if (s.blockedHold t).isSome then none
    else some (t, k)
  | _, _ => none

end Sys2Proof.Machine
end

