-- ==== Sys2Proof/Machine/Objects.lean ====
section
/-!
DEFINITION. Class 3: announcing, helping and collecting (spec/14 R318 to R331, spec/09 R212, R215, spec/16 R376), acquire and
release (R332), group barriers (R333 to R335) and byte-counting barriers (R336, spec/06 R165), with the steps ANNOUNCE_STEP,
ACQ_APPLY, REL_APPLY, BIND_REGISTER and BAR_ARRIVAL.
-/
namespace Sys2Proof.Machine

/-! ## The lanes of an announcement -/

/-- Change one lane of an `ann`, `help`, `coll` or `bkt`. -/
def State.setAnnLane (s : State) (k id : Nat) (l : AnnLane) : State :=
  s.updOutst k id (fun o => match o.work with
    | .ann kind op type pc ls => { o with work := .ann kind op type pc (updWhere (fun x => x.lane = l.lane) (fun _ => l) ls) }
    | _ => o)

/-- Every older store of a thread has drained, and no region of its hand has stores left (R171, R183). -/
def State.storesDrained (s : State) (h : Hand) (t seq : Nat) : Bool :=
  ((h.thread t).older seq).isEmpty &&
    (match h.seg.bind s.seg? with
    | some g => g.region.isEmpty
    | none => true)

/-- Give a lane its status and, unless it stays as it is, the second word with its tag. The destination words of one name
that get different tags in one issue end MIXED (R126). -/
def Outst.fillPair (o : Outst) (t : Nat) (status : Nat) (second : Option (DWord × BitVec 4)) : Outst :=
  let half := o.dsts.length / 2
  let put (i : Nat) (d : OutDst) : OutDst :=
    if i < half then { d with vals := d.vals ++ [{ lane := t, value := BitVec.ofNat 64 status, bad := false }] }
    else match second with
      | none => { d with skip := d.skip ||| Lanes.one t }
      | some (v, tag) =>
        { d with tag := if d.vals.isEmpty || d.tag == tag then tag else 0xE,
                 vals := d.vals ++ [{ lane := t, value := v, bad := false }] }
  { o with back := o.back ||| Lanes.one t, dsts := (List.range o.dsts.length).map (fun i => put i (o.dsts.getD i default)) }

/-- A lane is finished: its results are filled in, and the result returns when every lane is. -/
def State.finishPair (s : State) (k id : Nat) (l : AnnLane) (status : Nat) (second : Option (DWord × BitVec 4)) : State :=
  let s := s.setAnnLane k id { l with phase := .done, kept := (s.hand k).ownOf l.lane }
  (s.updOutst k id (fun o => o.fillPair l.lane status second)).returnIfDone k id

/-- Set a thread's uncollected record (R232). -/
def State.setOwn (s : State) (k t : Nat) (o : Option OwnRec) : State :=
  s.updHand k (fun h => { h with own := putAt 32 none (fun _ => o) t h.own })

/-- Status codes of R232. -/
def stDone : Nat := 0
def stPending : Nat := 1
def stFull : Nat := 2
def stFailed : Nat := 3

def noTicket : DWord := 0xFFFFFFFF

/-- The tag of a collected result (R321, R326). -/
def OwnRec.resultTag (o : OwnRec) : BitVec 4 :=
  if o.op = mcasOp then 2 else match o.type with
    | 0 => 1
    | 1 => 2
    | 2 => 3
    | _ => 0

/-- The latest STATE of an own record, with its result and fault detail: of this device's record, or from a peer's last
answer. -/
def State.ownState (s : State) (o : OwnRec) : BitVec 3 × DWord × Word :=
  if spaceOf o.obj = .peer then (o.answer.1, o.answer.2.2, o.answer.2.2.setWidth 32)
  else match s.rec? o.ticket with
    | some r => (r.state, r.res, r.fdet)
    | none => (1, 0, 0)

/-- An `ann` reports (R326). -/
def State.finishAnn (s : State) (k id : Nat) (l : AnnLane) : State :=
  match (s.hand k).ownOf l.lane with
  | none => s.finishPair k id l stFailed (some (noTicket, 2))
  | some o =>
    let st := (s.ownState o).1
    s.finishPair k id l (if st == 2 || st == 3 then stDone else stPending) (some (BitVec.ofNat 64 o.ticket, 2))

/-- A `help` reports (R326): DONE when no live record is left on the list. A peer's list has none left when its loop has ended before four
steps, and after four of them a free value says so (log 42). -/
def State.finishHelp (s : State) (k id : Nat) (l : AnnLane) : State :=
  let live := if spaceOf l.obj = .peer then 4 ≤ l.sent && (Config.freeDWord s.tick).getLsbD 1
    else (s.objList l.obj).any (fun t => (s.rec? t).any (fun r => r.state == 1))
  s.finishPair k id l (if live then stPending else stDone) (some (BitVec.ofNat 64 l.sent, 2))

/-- Flags and views that a lane's result brings its thread when it returns. -/
def State.addJoins (s : State) (k id t : Nat) (flags : Flags) (vs : List View) : State :=
  s.updOutst k id (fun o => { o with flags := o.flags ||| flags, joins := o.joins ++ vs.map (fun v => (t, v)) })

/-- Views that a result brings every thread of the split that issued it. -/
def State.addSplitJoins (s : State) (k id : Nat) (vs : List View) : State :=
  s.updOutst k id (fun o =>
    { o with joins := o.joins ++ o.split.list.foldr (fun t acc => vs.map (fun v => (t, v)) ++ acc) [] })

/-- The views that collecting a record of this device gives: its own, and that of its delivery write (R180). -/
def State.recViews (s : State) (r : AnnRec) : List View :=
  if r.state == 4 then [] else [s.restrictTo r.lid r.obj r.view, r.delivered]

/-- What a collected record of this device gives its owner: its flags, its view and the view of its delivery write (R180,
R326); it is freed. -/
def State.collect (s : State) (k id t ticket : Nat) : State :=
  match s.rec? ticket with
  | none => s
  | some r =>
    (s.addJoins k id t (if r.state == 4 then 0 else r.flg) (s.recViews r)).dropRec ticket

/-- What a collected record at a peer's home gives its owner; its home frees it (log 58). A STEPA carries no flags: they are those of the
operation on RES. -/
def State.collectPeer (s : State) (k id t : Nat) (o : OwnRec) (res : DWord) : State :=
  s.addJoins k id t (annNew o.op o.type o.opA o.opB res).2 [s.restrictTo (s.hand k).lid o.obj o.view, o.delivered]

/-- A `coll` reports (R326). -/
def State.finishColl (s : State) (k id : Nat) (l : AnnLane) : State :=
  match (s.hand k).ownOf l.lane with
  | none => s.finishPair k id l stFailed (some (0x10, 2))
  | some o =>
    match o.replay with
    | some (fail, v) =>
      (s.setOwn k l.lane none).finishPair k id l (if fail then stFailed else stDone)
        (some ((v.setWidth 32 : Word).zeroExtend 64, if fail then 2 else o.resultTag))
    | none =>
      let (st, res, fdet) := s.ownState o
      if st == 2 || st == 3 then
        let s := if spaceOf o.obj = .peer then s.collectPeer k id l.lane o res else s.collect k id l.lane o.ticket
        (s.setOwn k l.lane none).finishPair k id l stDone
          (some ((res.setWidth 32 : Word).zeroExtend 64, o.resultTag))
      else if st == 4 then
        let s := if spaceOf o.obj = .peer then s else s.collect k id l.lane o.ticket
        (s.setOwn k l.lane none).finishPair k id l stFailed (some (fdet.zeroExtend 64, 2))
      else s.finishPair k id l stPending none

/-- A lane of `bkt` receives its slot index, and every thread of the split the record's view (R376). -/
def State.finishBkt (s : State) (k id : Nat) (l : AnnLane) (v : DWord) : State :=
  let s := match l.own.bind s.rec? with
    | some r => (s.addSplitJoins k id (s.recViews r)).dropRec r.ticket
    | none => s
  let s := s.setAnnLane k id { l with phase := .done }
  (s.updOutst k id (fun o => o.fill l.lane [(v, false)])).returnIfDone k id

/-- The end of a lane's steps (R326, R376). -/
def State.finishLane (s : State) (kind k id : Nat) (l : AnnLane) : State :=
  match kind with
  | 0 => s.finishAnn k id l
  | 1 => s.finishHelp k id l
  | 2 => s.finishColl k id l
  | _ =>
    if spaceOf l.obj = .peer then
      if l.answer.1 == 1 then s.setAnnLane k id { l with phase := .peer, sent := 0 }
      else (s.addSplitJoins k id [s.restrictTo (s.hand k).lid l.obj l.view]).finishBkt k id { l with own := none } l.answer.2.2
    else match l.own.bind s.rec? with
    | some r => if r.state == 1 then s.setAnnLane k id { l with phase := .start, sent := 0 } else s.finishBkt k id l r.res
    | none => s.finishBkt k id l 0xFFFFFFFE

/-- The step that a lane sends next (R325): up to four helping steps, then its own. -/
def State.advanceLane (s : State) (kind k id : Nat) (l : AnnLane) : State :=
  let (s, help) := if l.sent < 4 then s.helpStep l.obj l.own else (s, none)
  match help with
  | some (t, j) => s.setAnnLane k id { l with phase := .send t j false }
  | none =>
    match (if kind = 1 then none else l.own.bind s.ownStep) with
    | some (t, j) => s.setAnnLane k id { l with phase := .send t j true }
    | none => s.finishLane kind k id l

/-! ## Messages to a peer's home (R23) -/

/-- Words 1 to 7 of a record as the owner's device fills them (R317). -/
def AnnRec.words (r : AnnRec) : Nat :=
  peerAddr r.obj + r.opA.toNat * 2 ^ 64 + r.opB.toNat * 2 ^ 128 + r.cell.toNat * 2 ^ 256 +
    (r.lid.toNat + r.hid * 2 ^ 32 + r.lane * 2 ^ 46 + r.part * 2 ^ 51 + r.epoch.toNat * 2 ^ 55) * 2 ^ 320 +
    0xFFFFFFFF * 2 ^ 384

/-- Send the own step of a record at a peer. -/
def State.peerOwnStep (s : State) (kind k id : Nat) (l : AnnLane) : State :=
  let h := s.hand k
  match l.own with
  | none => s.finishLane kind k id l
  | some t =>
    if l.answer.1 != 1 then s.finishLane kind k id l
    else match s.sendStep (coreDie h.core) l.obj (stepData 1 (l.answer.2.1 + 1) s.devNum t 0) (.step k id l.lane) with
      | some s' => s'.setAnnLane k id { l with phase := .await false, sent := l.sent + 1 }
      | none => if kind = 3 then s.finishBkt k id l 0xFFFFFFFE else s.finishLane kind k id l

/-- The needed step on an object of a peer (R325), whose list the sender does not see: free values say whether a live record stands ahead,
which one, and its next step (log 42). -/
def State.peerNeeded (s : State) (own : Option Nat) : Option (Nat × Nat) :=
  let f := (Config.freeDWord s.tick).toNat
  let t := bits f 32 32
  if bits f 0 1 = 0 || own == some t then none else some (t, bits f 8 8)

/-- The next message of a lane to a peer's home (R325): up to four helping steps, then its own. A helping step that no port carries counts as
rejected (R155). -/
def State.peerStep (s : State) (kind k id : Nat) (l : AnnLane) : State :=
  match (if l.sent < 4 then s.peerNeeded l.own else none) with
  | some (t, j) =>
    match s.sendStep (coreDie (s.hand k).core) l.obj (stepData 1 j s.devNum t 0) (.step k id l.lane) with
    | some s' => s'.setAnnLane k id { l with phase := .await true, sent := l.sent + 1 }
    | none => s.setAnnLane k id { l with phase := .peer, sent := l.sent + 1 }
  | none => s.peerOwnStep kind k id l

/-! ## Append (R178, R180, R212, R215) -/

/-- Steps of an operation (R323). -/
def stepCount (op nw : Nat) (nocell : Bool) : Nat := (if op = mcasOp then 2 * nw + 2 else 2) - (if nocell then 1 else 0)

/-- The record that a lane announces. -/
def State.newRec (s : State) (h : Hand) (kind op type : Nat) (l : AnnLane) : AnnRec :=
  let b := s.retain h.lid h.hid
  let nocell := kind = 3 || l.cell == 0
  { (default : AnnRec) with
    state := 1, op := op, nsteps := stepCount op l.opB.toNat nocell, type := type, nocell := nocell,
    host := spaceOf l.obj = .host, seq := if kind = 3 then 0 else b.nextSeq.getD l.lane 1, obj := l.obj, opA := l.opA,
    opB := l.opB, cell := if nocell then 0 else l.cell, lid := h.lid, hid := h.hid,
    lane := l.lane, part := h.part, epoch := b.epoch,
    view := s.restrictTo h.lid l.obj (h.thread l.lane).view, asid := h.asid, dx := l.dx,
    desc := if op = mcasOp then s.descView h.asid l.opA l.opB.toNat h.core else [] }

/-- A thread's sequence advances (R212). -/
def State.takeSeq (s : State) (h : Hand) (t : Nat) : State :=
  let b := s.retain h.lid h.hid
  s.setRetain { b with nextSeq := putAt 32 1 (fun n => n + 1) t b.nextSeq }

/-- The log entry that an `ann` below its replay bound finds (R215). -/
def State.replayOf (s : State) (h : Hand) (t : Nat) : Option (Bool × DWord) :=
  let b := s.retain h.lid h.hid
  let n := b.nextSeq.getD t 1
  if b.bound.getD t 0 < n then none
  else (b.log.find? (fun x => x.1 = t && x.2.1 == (n.toNat - 1) % 16 && x.2.2.1 == n)).map (fun x => x.2.2.2)

/-- A step of the lane met PAGE: the page is requested, the split takes the fault and starts again from this point once the
page has been served, with the count of R325 of every unfinished lane at 0 (R192, R319, R400). -/
def State.annPage (s : State) (k id : Nat) (l : AnnLane) (asid : BitVec 16) (va : DWord) : State :=
  let s := match s.translate asid va .write (s.hand k).core with
    | .page home e => s.requestPage (s.hand k).core asid va home e
    | _ => s
  let lanes := (((s.hand k).outst.find? (fun o => o.id = id)).map Outst.lanes).getD 0
  let again (o : Outst) : Outst := match o.work with
    | .ann kind op type pc ls => { o with work := .ann kind op type pc (ls.map (fun z => if z.phase == .done then z else { z with sent := 0 })) }
    | _ => o
  (s.updOutst k id again).updHand k (fun h => { h with parks := h.parks ++ [(lanes, .page asid va (Lanes.one l.lane) (some id))] })

/-- The own record of a lane's `ann` (R232). -/
def AnnLane.newOwn (l : AnnLane) (op type ticket : Nat) (seq : Word) : OwnRec :=
  { ticket := ticket, obj := l.obj, va := l.va, replay := none, op := op, type := type, opA := l.opA, opB := l.opB, seq := seq, answer := (1, 0, 0),
    view := [], delivered := [] }

/-- An `ann` that the log answers (R215): the cell is written, and no record is allocated. -/
def State.replayAnn (s : State) (k id op type : Nat) (l : AnnLane) (e : Bool × DWord) : State :=
  let h := s.hand k
  let own (fail : Bool) (v : DWord) : OwnRec := { l.newOwn op type 0xFFFFFFFF 0 with replay := some (fail, v) }
  let finish (s : State) (st : Nat) (o : OwnRec) : State :=
    ((s.takeSeq h l.lane).setOwn k l.lane (some o)).finishPair k id l st (some (noTicket, 2))
  if l.cell == 0 then finish s stDone (own e.1 e.2)
  else
    match s.translate h.asid l.cell .write h.core with
    | .page _ _ => s.annPage k id l h.asid l.cell
    | .prot => finish s stFailed (own true 0x0000000A)
    | .ok loc x => finish ((s.tlbAdd x).writeCellAt (coreDie h.core) loc type e.2) stDone (own e.1 e.2)

/-- The append of a lane of `ann` or `bkt`. -/
def State.appendAnn (s : State) (kind k id op type : Nat) (l : AnnLane) : State :=
  let h := s.hand k
  let r := s.newRec h kind op type l
  match (if kind = 0 then s.replayOf h l.lane else none) with
  | some e => s.replayAnn k id op type l e
  | none =>
    if spaceOf l.obj = .peer then
      match s.sendStep (coreDie h.core) l.obj (stepData 0 0 s.devNum 0 r.words) (.step k id l.lane) with
      | some s' => s'.setAnnLane k id { l with phase := .await false, view := r.view }
      | none => if kind = 0 then s.finishPair k id l stFailed (some (noTicket, 2)) else s.finishBkt k id l 0xFFFFFFFE
    else
      match s.allocRec (homeOf l.obj) r with
      | none =>
        if kind = 0 then s.finishPair k id l stFull (some (noTicket, 2))
        else if 16 ≤ l.tries then s.finishBkt k id l 0xFFFFFFFE
        else s.setAnnLane k id { l with tries := l.tries + 1 }
      | some (t, s) =>
        let s := s.crossHome (coreDie h.core) l.obj
        let s := if kind = 0 then (s.takeSeq h l.lane).setOwn k l.lane (some (l.newOwn op type t r.seq)) else s
        let s := match s.rec? t with
          | some r => if r.host && s.hostLink.lost then s.failRec r 0 0x00020011 else s
          | none => s
        s.advanceLane kind k id { l with own := some t }

/-! ## ANNOUNCE_STEP -/

/-- A lane may act: its thread's earlier announcements have finished, it is parked at no page, and at the start the lower
lanes of the issue have begun (R327) and its older stores have drained (R180). -/
def State.annReady (s : State) (h : Hand) (o : Outst) (kind : Nat) (ls : List AnnLane) (l : AnnLane) : Bool :=
  let earlier := (h.outst.takeWhile (fun x => x.id ≠ o.id)).any (fun x => match x.work with
    | .ann _ _ _ _ zs => zs.any (fun z => z.lane = l.lane && z.phase != .done)
    | _ => false)
  let paged := h.parks.any (fun p => p.1.has l.lane && (match p.2 with | .page _ _ _ _ => true | _ => false))
  let turn := l.phase != .start || ls.all (fun z => l.lane ≤ z.lane || z.phase != .start || z.own.isSome)
  let drained := l.phase != .start || l.own.isSome || !(kind == 0 || kind == 3) || s.storesDrained h l.lane l.seq
  !o.returned && !earlier && !paged && turn && drained

/-- The first action of a lane. -/
def State.startLane (s : State) (kind k id op type : Nat) (l : AnnLane) : State :=
  match kind with
  | 1 => if spaceOf l.obj = .peer then s.peerStep 1 k id l else s.advanceLane 1 k id l
  | 2 =>
    match (s.hand k).ownOf l.lane with
    | none => s.finishColl k id l
    | some o =>
      let l := { l with own := some o.ticket, answer := o.answer }
      if o.replay.isSome || (s.ownState o).1 != 1 then s.finishColl k id l
      else if spaceOf o.obj = .peer then s.peerStep 2 k id l
      else s.advanceLane 2 k id l
  | kind =>
    if l.own.isNone then s.appendAnn kind k id op type l
    else if spaceOf l.obj = .peer then s.peerStep kind k id l
    else s.advanceLane kind k id l

/-- A home has answered a step of a lane. -/
def State.stepAnswered (s : State) (kind k id : Nat) (l : AnnLane) (own : Bool) : State :=
  let l := { l with sent := l.sent + 1 }
  if own then s.finishLane kind k id l else s.advanceLane kind k id l

/-- ANNOUNCE_STEP: one lane makes its append or sends its next step, and the home accepts or rejects it. -/
def execAnnounceStep (s : State) : Host.Outcome State Fault Refusal :=
  let k := s.args.n
  let id := s.args.m
  let h := s.hand k
  match h.outst.find? (fun o => o.id = id) with
  | none => .next s
  | some o =>
    match o.work with
    | .ann kind op type _ ls =>
      match ls.find? (fun l => l.lane = s.args.k) with
      | none => .next s
      | some l =>
        if !s.annReady h o kind ls l then .next s
        else match l.phase with
          | .start => .next (s.startLane kind k id op type l)
          | .send t j own =>
            match (s.crossHome (coreDie h.core) l.obj).homeStep t j with
            | .answered s _ | .full s => .next (s.stepAnswered kind k id l own)
            | .page s asid va => .next (s.annPage k id l asid va)
            | .remote s => .next (s.setAnnLane k id { l with phase := .cell t j own })
          | .peer => .next (s.peerStep kind k id l)
          | .await _ | .cell _ _ _ | .done => .next s
    | _ => .next s

/-- A message of a lane went to a peer without a working port (R24, R155): an append fails, a step counts as rejected. -/
def State.annLost (s : State) (k id t : Nat) : State :=
  match ((s.hand k).outst.find? (fun o => o.id = id)).map Outst.work with
  | some (.ann kind _ _ _ ls) =>
    match ls.find? (fun l => l.lane = t) with
    | none => s
    | some l =>
      if l.phase == .await true then s.setAnnLane k id { l with phase := .peer }
      else if kind = 3 then s.finishBkt k id { l with own := none } 0xFFFFFFFE
      else if l.own.isNone then s.finishPair k id l stFailed (some (noTicket, 2))
      else s.finishLane kind k id l
  | _ => s

/-- A peer's answer shows that step 1 of a record has been accepted, and whether the record had failed at it. -/
def appliedBy (new : BitVec 3 × Nat × DWord) : Bool := (if new.1 == 4 then 2 else 1) ≤ new.2.1
def failedBy (new : BitVec 3 × Nat × DWord) : Bool := new.1 == 4 && new.2.1 = 1

/-- A peer's answer is the first to show the record's step 1 accepted: it acts as an acquire and a release on what is held here of the
object's publish entry (R179, log 58), and the result is logged (R212). -/
def State.peerApplied (s : State) (h : Hand) (t op obj : Nat) (seq : Word) (view : View) (old new : BitVec 3 × Nat × DWord) : View × State :=
  if old.2.1 ≠ 0 then (view, s)
  else
    let s := if appliedBy new || failedBy new then s.writeLog h.lid h.hid t seq (failedBy new) new.2.2 else s
    if appliedBy new && !(op = bktOp && new.2.2 == 0xFFFFFFFF) then s.publish obj view else (view, s)

/-- The answer of a peer's home to a lane's message (R23): an append gives the ticket, a step the record's state. -/
def State.annAnswer (s : State) (k id t : Nat) (status : BitVec 3) (data : BitVec 512) : State :=
  let h := s.hand k
  match (h.outst.find? (fun o => o.id = id)).map Outst.work with
  | some (.ann kind op type _ ls) =>
    match ls.find? (fun l => l.lane = t) with
    | none => s
    | some l =>
      let l0 := l
      let d := data.toNat
      let ans : BitVec 3 × Nat × DWord := (BitVec.ofNat 3 d, bits d 3 5, BitVec.ofNat 64 (bits d 64 64))
      let ticket := bits d 32 32
      if l.phase == .await true then s.setAnnLane k id { l with phase := .peer }
      else if l.own.isNone then
        if status == 3 then
          if kind = 0 then s.finishPair k id l stFull (some (noTicket, 2))
          else if 16 ≤ l.tries then s.finishBkt k id l 0xFFFFFFFE
          else s.setAnnLane k id { l with phase := .start, tries := l.tries + 1 }
        else if status != 0 then s.annLost k id t
        else
          let seq : Word := if kind = 3 then 0 else (s.retain h.lid h.hid).nextSeq.getD t 1
          let (view, s) := s.peerApplied h t op l.obj seq l.view (1, 0, 0) ans
          let o : OwnRec := { l.newOwn op type ticket seq with answer := ans, view := view }
          let s := if kind = 0 then (s.takeSeq h t).setOwn k t (some o) else s
          s.setAnnLane k id { l with phase := .peer, own := some ticket, answer := ans, view := view }
      else
        let own := if kind = 3 then none else h.ownOf t
        let (view, s) := match own with
          | some o => s.peerApplied h t o.op o.obj o.seq o.view o.answer ans
          | none => s.peerApplied h t op l.obj 0 l.view l.answer ans
        let s := if kind = 3 then s else s.setOwn k t (own.map (fun o => { o with answer := ans, view := view }))
        let l := { l with answer := ans, paged := false, view := view }
        if l0.paged && ans.1 == 1 then s.peerOwnStep kind k id { l with sent := 0 } else s.finishLane kind k id l
  | _ => s

/-- A peer's home has answered a cancel: a result that the record had is logged (R212). -/
def State.cancelAnswer (s : State) (lid : Word) (hid lane : Nat) (seq : Word) (data : BitVec 512) : State :=
  let d := data.toNat
  let ans : BitVec 3 × Nat × DWord := (BitVec.ofNat 3 d, bits d 3 5, BitVec.ofNat 64 (bits d 64 64))
  if appliedBy ans || failedBy ans then s.writeLog lid hid lane seq (failedBy ans) ans.2.2 else s

/-- The answer to an APPEND whose thread has been killed: its record took the thread's next sequence (R212), and is to be cancelled
(R210, log 101). -/
def State.orphanAnswer (s : State) (r : PeerReq) (status : BitVec 3) (data : BitVec 512) : State :=
  match s.orphanAppend r with
  | none => s
  | some (lid, hid, t) =>
    if status != 0 then s
    else
      let b := s.retain lid hid
      let seq := b.bound.getD t 0 + 1
      let x : PeerCancel := { obj := peerLoc r.dev.toNat r.msg.addr.toNat, ticket := bits data.toNat 32 32, lid := lid, hid := hid, lane := t, seq := seq }
      { s.setRetain { b with bound := putAt 32 0 (fun _ => seq) t b.bound } with peerCancels := s.peerCancels ++ [x] }

/-! ## Issue of class-3 announcements -/

/-- Addresses that lanes check one after another (R312, R327): alignment to 8, then PROT over PAGE. -/
def State.checkAddrs (s : State) (i : SplitIssue) (act : Lanes) (xs : List (Nat × DWord × Access)) :
    Except (State × TrapInfo) State :=
  let h := s.hand i.hand
  let failing (p : DWord → Access → Bool) : Lanes := Lanes.of (fun t => xs.any (fun x => x.1 = t && p x.2.1 x.2.2))
  let fault (m : Lanes) (code : BitVec 8) (p : DWord → Access → Bool) : TrapInfo :=
    let va := ((xs.find? (fun x => x.1 = Lanes.lowest m && p x.2.1 x.2.2)).map (fun x => x.2.1)).getD 0
    i.fault act code 0 va m
  let odd (va : DWord) (_ : Access) : Bool := va.toNat % 8 != 0
  let prot (va : DWord) (a : Access) : Bool := match s.translate h.asid va a with | .prot => true | _ => false
  let page (va : DWord) (a : Access) : Bool := match s.translate h.asid va a with | .page _ _ => true | _ => false
  if failing odd != 0 then .error (s, fault (failing odd) 0x09 odd)
  else if failing prot != 0 then .error (s, fault (failing prot) 0x0A prot)
  else if failing page != 0 then
    .error (xs.foldl (fun s x => match s.translate h.asid x.2.1 x.2.2 with
      | .page home e => s.requestPage h.core h.asid x.2.1 home e
      | _ => s) s, fault (failing page) 0x0B page)
  else .ok (xs.foldl (fun s x => match s.translate h.asid x.2.1 x.2.2 with
    | .ok _ e => s.tlbAdd e
    | _ => s) s)

/-- The location of an address that has been checked, and whether its page is device-exclusive (R54). -/
def State.placed (s : State) (asid : BitVec 16) (va : DWord) (acc : Access) : Nat × Bool :=
  match s.translate asid va acc with
  | .ok loc e => (loc, e.leaf.getLsbD 4)
  | _ => (0, false)

/-- C of a base form is absent and reads 0 (R320). -/
def annC (w : CoreWords) : Operand := if w.ext.isSome then w.gC else .lit 0

def annAddr (w : CoreWords) (h : Hand) (uni : Uniform) (t : Nat) : DWord :=
  w.hA.val h uni t + ((annC w).word h uni t).signExtend 64

/-- The lane's re-execution of this instruction, when it has one (R400). -/
def Hand.redoOf (h : Hand) (pc : DWord) (t : Nat) : Option Redo := h.redo.find? (fun r => r.lane = t && r.pc == pc)

def Hand.takeRedo (h : Hand) (pc : DWord) (act : Lanes) : Hand :=
  { h with redo := h.redo.filter (fun r => !(r.pc == pc && act.has r.lane)) }

/-- A lane's thread has an `ann` whose append has not been answered. -/
def Hand.announcing (h : Hand) (t : Nat) : Bool :=
  h.outst.any (fun o => match o.work with
    | .ann 0 _ _ _ ls => ls.any (fun l => l.lane = t && l.phase != .done)
    | .twin _ (some 0) ls => !o.returned && ls.any (fun l => l.1 = t)
    | _ => false)

/-- A lane at its start, or at the step of its re-execution. -/
def Hand.newLane (h : Hand) (pc : DWord) (t : Nat) (obj : Nat × Bool) (va opA opB : DWord) : AnnLane :=
  let r := h.redoOf pc t
  { lane := t, obj := obj.1, va := va, dx := obj.2, seq := (h.thread t).sbNext, opA := opA, opB := opB,
    cell := if h.rcell == 0 then 0 else h.rcell + BitVec.ofNat 64 (8 * t), own := r.bind Redo.own,
    phase := match r with
      | some r => if r.done.isSome then .done else if spaceOf obj.1 = .peer then .peer else .send r.ticket r.step false
      | none => .start,
    sent := 0, tries := 0, answer := (1, 0, 0), paged := false, view := (r.map Redo.view).getD [] }

/-- ANNBAD of the whole split, at the object address of the lowest lane that has it (R208, R327). -/
def annBad (i : SplitIssue) (act bad : Lanes) (ea : Nat → DWord) : TrapInfo :=
  i.fault act 0x10 0 (ea (Lanes.lowest bad)) act

/-- A non-zero `rcell` that breaks R319. -/
def badRcell (v : DWord) : Bool := v != 0 && (!canonical v || v.toNat % 256 != 0)

/-- The lanes become outstanding with the destination pair, or the one word of `bkt`. -/
def State.launchAnn (s : State) (i : SplitIssue) (act : Lanes) (w : CoreWords) (kind op type : Nat) (names : List Nat)
    (ls : List AnnLane) : State :=
  let h := s.hand i.hand
  let finished := act.list.filterMap (fun t => (h.redoOf i.pc t).bind (fun r => r.done.map (fun v => (t, v))))
  let s := s.updHand i.hand (fun h => h.takeRedo i.pc act)
  let s := s.addOutst i.hand act (.ann kind op type i.pc ls) (asyncDsts (s.hand i.hand) act w names 2) 0 0
  let put (o : Outst) (x : Nat × DWord × Option (DWord × BitVec 4)) : Outst :=
    if kind = 3 then o.fill x.1 [(x.2.1, false)] else o.fillPair x.1 x.2.1.toNat x.2.2
  (s.updOutst i.hand h.nextId (fun o => finished.foldl put o)).returnIfDone i.hand h.nextId

/-- `ann` of one operation on one word (R320 to R327). `ops` gives operands A and B of a lane. -/
def annOp (op : Nat) (b : CoreWords → Operand) (ops : CoreWords → Operand → Hand → Uniform → Nat → DWord × DWord)
    (w : CoreWords) (s : State) : Host.Outcome State Fault Refusal :=
  execCore { outside := true, edge := true, sync := true } w s fun i act s =>
    let b := b w
    withRegs i act s [(w.hA, .move), (b, .move), (annC w, .move)] w.pairDst (w.lrNames (.lit 0) b (annC w)) fun h s =>
      let ea := annAddr w h i.uni
      let busy := Lanes.of (fun t => act.has t && (h.redoOf i.pc t).isNone && ((h.ownOf t).isSome || h.announcing t))
      if busy != 0 then .trap s (annBad i act busy ea)
      else if badRcell h.rcell then .trap s (annBad i act act ea)
      else match s.checkAddrs i act (act.list.map (fun t => (t, ea t, .write))) with
        | .error (s', t) => .trap s' t
        | .ok s =>
          let lane (t : Nat) : AnnLane :=
            let (x, y) := ops w b h i.uni t
            h.newLane i.pc t (s.placed h.asid (ea t) .write) (ea t) x y
          .ok (s.launchAnn i act w 0 op (w.f2 0 3) w.pairDst (act.list.map lane))

/-- Operand B of a single-word operation: a word, or a pair for the 64-bit types (R320, R321). -/
def annB (w : CoreWords) : Operand := if w.f2 0 3 < 3 then w.gB else w.pB
def annOps (w : CoreWords) (b : Operand) (h : Hand) (uni : Uniform) (t : Nat) : DWord × DWord :=
  (lowBits (w.f2 0 3) (b.val h uni t), 0)

def execAnnFadd : CoreWords → State → Host.Outcome State Fault Refusal := annOp 0 annB annOps
def execAnnFmin : CoreWords → State → Host.Outcome State Fault Refusal := annOp 1 annB annOps
def execAnnFmax : CoreWords → State → Host.Outcome State Fault Refusal := annOp 2 annB annOps
def execAnnAnd : CoreWords → State → Host.Outcome State Fault Refusal := annOp 3 annB annOps
def execAnnOr : CoreWords → State → Host.Outcome State Fault Refusal := annOp 4 annB annOps
def execAnnXor : CoreWords → State → Host.Outcome State Fault Refusal := annOp 5 annB annOps
def execAnnSwap : CoreWords → State → Host.Outcome State Fault Refusal := annOp 6 annB annOps
def execAnnBkt : CoreWords → State → Host.Outcome State Fault Refusal :=
  annOp 9 CoreWords.gB (fun _ b h uni t => ((b.word h uni t).zeroExtend 64, 0))

/-- `ann.cas`: the expected and the new value, from a pair or a quad (R322). -/
def execAnnCas : CoreWords → State → Host.Outcome State Fault Refusal :=
  annOp 7 (fun w => if w.f2 0 3 < 3 then w.pB else .quad w.nameB) (fun w b h uni t =>
    let lo := b.val h uni t
    if w.f2 0 3 < 3 then ((lo.setWidth 32 : Word).zeroExtend 64, lo >>> 32)
    else (lo, ((h.readG t (w.nameB + 3)).value <<< 32) ||| (h.readG t (w.nameB + 2)).value))

/-- The address words of a descriptor, as a lane reads them at its issue (R170, R328). -/
def State.descAddrs (s : State) (h : Hand) (t : Nat) (desc : DWord) (nw : Nat) : List DWord :=
  (List.range nw).map (fun j => BitVec.ofNat 64 (s.issueWord h [t] (s.placed h.asid (desc + BitVec.ofNat 64 (24 * j)) .read).1).value)

/-- The object of an `ann.mcas` is its lowest word (R328); of a descriptor that cannot be read, ANNBAD names the descriptor (log 115). -/
def State.primaryVa (s : State) (h : Hand) (t : Nat) (desc : DWord) (nw : Nat) : DWord :=
  if (List.range nw).all (fun j => (s.locOf h.asid (desc + BitVec.ofNat 64 (24 * j)) .read h.core).isSome) then
    match s.descAddrs h t desc nw with
    | [] => desc
    | a :: as => as.foldl (fun m x => if x.ult m then x else m) a
  else desc

/-- Addresses rise strictly. -/
def rising : List DWord → Bool
  | x :: y :: l => x.ult y && rising (y :: l)
  | _ => true

/-- `ann.mcas` (R327 to R329). -/
def execAnnMcas (w : CoreWords) (s : State) : Host.Outcome State Fault Refusal :=
  execCore { outside := true, edge := true, sync := true } w s fun i act s =>
    let nw := w.f2 0 2 + 1
    withRegs i act s [(w.hA, .move), (annC w, .move)] w.pairDst (w.lrNames (.lit 0) (.lit 0) (annC w)) fun h s =>
      let ea := annAddr w h i.uni
      let busy := Lanes.of (fun t => act.has t && (h.redoOf i.pc t).isNone && ((h.ownOf t).isSome || h.announcing t))
      let desc (t : Nat) : List (Nat × DWord × Access) :=
        (List.range (3 * nw)).map (fun j => (t, ea t + BitVec.ofNat 64 (8 * j), .read))
      let obj (t : Nat) : DWord := s.primaryVa h t (ea t) nw
      if busy != 0 then .trap s (annBad i act busy obj)
      else if badRcell h.rcell then .trap s (annBad i act act obj)
      else match s.checkAddrs i act (act.list.foldr (fun t acc => desc t ++ acc) []) with
        | .error (s', t) => .trap s' t
        | .ok s =>
          let words (t : Nat) : List DWord := s.descAddrs h t (ea t) nw
          match s.checkAddrs i act (act.list.foldr (fun t acc => (words t).map (fun a => (t, a, .write)) ++ acc) []) with
          | .error (s', t) => .trap s' t
          | .ok s =>
            let place (a : DWord) : Nat × Bool := s.placed h.asid a .write
            let bad := Lanes.of (fun t => act.has t &&
              (!rising (words t) || (words t).any (fun a => spaceOf (place a).1 != .device)))
            if bad != 0 then .trap s (annBad i act bad obj)
            else
              let lane (t : Nat) : AnnLane :=
                let a := (words t).headD 0
                h.newLane i.pc t (place a) a (ea t) (BitVec.ofNat 64 nw)
              .ok (s.launchAnn i act w 0 mcasOp 0 w.pairDst (act.list.map lane))

/-- `help` (R330). -/
def execHelp (w : CoreWords) (s : State) : Host.Outcome State Fault Refusal :=
  execCore { edge := true, sync := true } w s fun i act s =>
    withRegs i act s [(w.hA, .move), (annC w, .move)] w.pairDst (w.lrNames (.lit 0) (.lit 0) (annC w)) fun h s =>
      let ea := annAddr w h i.uni
      match s.checkAddrs i act (act.list.map (fun t => (t, ea t, .read))) with
      | .error (s', t) => .trap s' t
      | .ok s =>
        let lane (t : Nat) : AnnLane := h.newLane i.pc t (s.placed h.asid (ea t) .read) (ea t) 0 0
        .ok (s.launchAnn i act w 1 0 0 w.pairDst (act.list.map lane))

/-- The object of the thread's record lies at an address (R327 row 2); an `ann` still on its way names its own object. -/
def State.ownsObject (s : State) (h : Hand) (t : Nat) (va : DWord) : Bool :=
  let same (obj : Nat) (at_ : DWord) : Bool :=
    match s.locOf h.asid va .read with
    | some loc => loc == obj
    | none => va == at_
  match h.ownOf t with
  | some o => same o.obj o.va
  | none => h.outst.any (fun o => match o.work with
    | .ann 0 _ _ _ ls => ls.any (fun l => l.lane = t && l.phase != .done && same l.obj l.va)
    | .twin _ (some 0) ls => !o.returned && ls.any (fun l => l.1 = t && same l.2.1 l.2.2)
    | _ => false)

/-- `coll` (R331). -/
def execColl (w : CoreWords) (s : State) : Host.Outcome State Fault Refusal :=
  execCore { edge := true, sync := true } w s fun i act s =>
    withRegs i act s [(w.hA, .move), (annC w, .move)] w.pairDst (w.lrNames (.lit 0) (.lit 0) (annC w)) fun h s =>
      let ea := annAddr w h i.uni
      let bad := Lanes.of (fun t => act.has t && (h.redoOf i.pc t).isNone && !s.ownsObject h t (ea t))
      if bad != 0 then .trap s (annBad i act bad ea)
      else match s.checkAddrs i act (act.list.map (fun t => (t, ea t, .read))) with
        | .error (s', t) => .trap s' t
        | .ok s =>
          let lane (t : Nat) : AnnLane := h.newLane i.pc t (s.placed h.asid (ea t) .read) (ea t) 0 0
          .ok (s.launchAnn i act w 2 0 0 w.pairDst (act.list.map lane))

/-- `bkt` (R376): one token index to one bucket for each lane, announced by the regroup engine. -/
def execBkt (w : CoreWords) (s : State) : Host.Outcome State Fault Refusal :=
  execCore { outside := true, edge := true, sync := true } w s fun i act s =>
    let b := w.gB
    withRegs i act s [(w.hA, .move), (b, .move)] w.gDst (w.lrNames (.lit 0) b (.lit 0)) fun h s =>
      let a := uniVal i act h w.nameA
      let sh := a.toNat % 32
      let base := a &&& ~~~(63 : DWord)
      let ea (t : Nat) : DWord := base + (((b.word h i.uni t).zeroExtend 64 >>> 20) <<< sh)
      if sh < 3 || a.getLsbD 5 || !canonical base then .trap s (i.fault act 0x0A 0 a act)
      else match s.checkAddrs i act (act.list.map (fun t => (t, ea t, .write))) with
        | .error (s', t) => .trap s' t
        | .ok s =>
          let host := Lanes.of (fun t => act.has t && spaceOf (s.placed h.asid (ea t) .write).1 == .host)
          if host != 0 then .trap s (i.fault act 0x0A 0 (ea (Lanes.lowest host)) host)
          else
            let lane (t : Nat) : AnnLane :=
              h.newLane i.pc t (s.placed h.asid (ea t) .write) (ea t) ((b.word h i.uni t &&& 0xFFFFF).zeroExtend 64) 0
            .ok (s.launchAnn i act w 3 bktOp 0 w.gDst (act.list.map lane))

/-! ## Acquire and release (R332) -/

/-- The objects of the lanes of `acq` and `rel`, checked; `rel` acts outside the hand (R86). -/
def objOp (outside : Bool) (work : Hand → List (Nat × Nat) → Work) (w : CoreWords) (s : State) : Host.Outcome State Fault Refusal :=
  execCore { outside := outside, edge := true, sync := true } w s fun i act s =>
    withRegs i act s [(w.hA, .move), (annC w, .move)] w.gDst (w.lrNames (.lit 0) (.lit 0) (annC w)) fun h s =>
      let ea := annAddr w h i.uni
      match s.checkAddrs i act (act.list.map (fun t => (t, ea t, .read))) with
      | .error (s', t) => .trap s' t
      | .ok s =>
        let objs := act.list.map (fun t => (t, (s.placed h.asid (ea t) .read).1))
        .ok (s.addOutst i.hand act (work h objs) (asyncDsts (s.hand i.hand) act w w.gDst 2) 0 0)

/-- `acq`. -/
def execAcq : CoreWords → State → Host.Outcome State Fault Refusal := objOp false (fun _ objs => .acq objs)

/-- `rel`. -/
def execRel : CoreWords → State → Host.Outcome State Fault Refusal :=
  objOp true (fun h objs => .rel (objs.map (fun x => (x.1, x.2, (h.thread x.1).sbNext))))

/-- A lane of `acq` or `rel` has its version; the joins of an `acq` take effect when the result returns (R177). -/
def State.fillVersion (s : State) (k id t : Nat) (v : Word) (joins : List (Nat × View)) : State :=
  (s.updOutst k id (fun o => { o.fill t [(v.zeroExtend 64, false)] with joins := o.joins ++ joins })).returnIfDone k id

/-- The regions of an object that an `acq` joins. -/
def State.acqJoin (s : State) (h : Hand) (t obj : Nat) : List (Nat × View) :=
  match s.pubs.find? (fun p => p.obj = obj) with
  | some p => [(t, s.restrictTo h.lid obj p.pub)]
  | none => []

/-- A `rel` joins its thread's view into the entry (R176). -/
def State.relJoin (s : State) (h : Hand) (t obj : Nat) : State :=
  let v := s.restrictTo h.lid obj (h.thread t).view
  { s with pubs := updWhere (fun p => p.obj = obj) (fun p => { p with ver := p.ver + 1, pub := View.join p.pub v }) s.pubs }

def State.version (s : State) (obj : Nat) : Word := ((s.pubs.find? (fun p => p.obj = obj)).map Publish.ver).getD 0

/-- The result of an outstanding number, with its work, when lane `t` of it is still to be performed. -/
def State.pendingLane (s : State) (k id t : Nat) : Option Outst :=
  (s.hand k).outst.find? (fun o => o.id = id && !o.returned && !o.back.has t && o.lanes.has t &&
    !s.reqs.any (fun r => r.use == .object k id t))

/-- A peer's home is asked; without a port the version is a free value (log 43). -/
def State.askObject (s : State) (k id t obj msg rest : Nat) : State :=
  match s.sendStep (coreDie (s.hand k).core) obj (stepData msg 0 s.devNum 0 rest) (.object k id t) with
  | some s' => s'
  | none => s.fillVersion k id t (Config.freeWord s.tick) []

/-- ACQ_APPLY (R177). -/
def execAcqApply (s : State) : Host.Outcome State Fault Refusal :=
  let k := s.args.n
  let t := s.args.k
  match s.pendingLane k s.args.m t with
  | none => .next s
  | some o =>
    match o.work with
    | .acq objs =>
      match objs.find? (fun x => x.1 = t) with
      | none => .next s
      | some (_, obj) =>
        if spaceOf obj = .peer then .next (s.askObject k o.id t obj 4 0)
        else .next (s.fillVersion k o.id t (s.version obj) (s.acqJoin (s.hand k) t obj))
    | _ => .next s

/-- REL_APPLY (R176). -/
def execRelApply (s : State) : Host.Outcome State Fault Refusal :=
  let k := s.args.n
  let t := s.args.k
  let h := s.hand k
  match s.pendingLane k s.args.m t with
  | none => .next s
  | some o =>
    match o.work with
    | .rel objs =>
      match objs.find? (fun x => x.1 = t) with
      | none => .next s
      | some (_, obj, seq) =>
        if !s.storesDrained h t seq then .next s
        else
          let s := s.relJoin h t obj
          if spaceOf obj = .peer then .next (s.askObject k o.id t obj 5 0)
          else .next (s.fillVersion k o.id t (s.version obj) [])
    | _ => .next s

/-- Give the status of a `bind`, which returns. -/
def State.fillBind (s : State) (k id status : Nat) : State :=
  (s.updOutst k id (fun o =>
    { o with dsts := o.dsts.map (fun d => { d with vals := (uniformDst d.dst 2 (BitVec.ofNat 64 status)).vals }) })).deliverResult k id

/-- Register a binding at its home, creating the publish entry of the first one (R316). -/
def State.addBinding (s : State) (b : Binding) : State :=
  let s := { s with binds := s.binds ++ [b] }
  if s.pubs.any (fun p => p.obj = b.obj) then s else { s with pubs := s.pubs ++ [{ obj := b.obj, ver := 0, pub := [] }] }

/-- The home of an object has no free publish entry for it (R316). -/
def State.pubsFull (s : State) (obj : Nat) : Bool :=
  !s.pubs.any (fun p => p.obj = obj) && 8192 ≤ (s.pubs.filter (fun p => homeOf p.obj == homeOf obj)).length

/-- Two regions overlap. -/
def overlaps (b1 l1 b2 l2 : DWord) : Bool :=
  b1.toNat < b2.toNat + l2.toNat && b2.toNat < b1.toNat + l1.toNat

/-- The status of a binding (R316). -/
def State.bindStatus (s : State) (lid : Word) (obj : Nat) (base len : DWord) (ok : Bool) : Nat :=
  let mine := s.binds.filter (fun b => b.lid = lid)
  if 64 ≤ mine.length then 1
  else if !ok then 3
  else if mine.any (fun b => overlaps b.base b.len base len) then 2
  else if s.pubsFull obj then 4
  else 0

/-- The regions that hands of a launch have asked peers' homes to register, and that are not answered yet. -/
def State.bindsSent (s : State) (lid : Word) : List (DWord × DWord) :=
  s.reqs.filterMap (fun r => match r.use with
    | .object k id _ => if (s.hand k).lid = lid then ((s.hand k).outst.find? (fun o => o.id = id)).bind (fun o => match o.work with
        | .bind _ base len _ => some (base, len)
        | _ => none) else none
    | _ => none)

/-- A binding has to wait for those under way at peers: with them the launch would hold more than 64, or two whose regions overlap (R316,
log 116). -/
def State.bindWaits (s : State) (lid : Word) (base len : DWord) : Bool :=
  let sent := s.bindsSent lid
  !sent.isEmpty && (64 ≤ (s.binds.filter (fun b => b.lid = lid)).length + sent.length || sent.any (fun x => overlaps x.1 x.2 base len))

/-- BIND_REGISTER (R175, R316). -/
def execBindRegister (s : State) : Host.Outcome State Fault Refusal :=
  let k := s.args.n
  let h := s.hand k
  match h.outst.find? (fun o => o.id = s.args.m && !o.returned) with
  | none => .next s
  | some o =>
    match o.work with
    | .bind obj base len ok =>
      if s.reqs.any (fun r => r.use == .object k o.id (Lanes.lowest o.lanes)) then .next s
      else
        let st := s.bindStatus h.lid obj base len ok
        if st ≠ 0 then .next (s.fillBind k o.id st)
        else if s.bindWaits h.lid base len then .next s
        else if spaceOf obj = .peer then
          match s.sendStep (coreDie h.core) obj
              (stepData 3 0 s.devNum 0 (peerAddr obj + base.toNat * 2 ^ 64 + len.toNat * 2 ^ 128))
              (.object k o.id (Lanes.lowest o.lanes)) with
          | some s' => .next s'
          | none => .next (s.fillBind k o.id (Config.freeWord s.tick).toNat)
        else .next ((s.addBinding { lid := h.lid, obj := obj, base := base, len := len }).fillBind k o.id 0)
    | _ => .next s

/-- A message of `acq`, `rel` or `bind` got no response (R24): its value is a free value (log 43). -/
def State.objectLost (s : State) (k id t : Nat) : State :=
  match (s.hand k).outst.find? (fun o => o.id = id && !o.returned) with
  | none => s
  | some o =>
    match o.work with
    | .bind _ _ _ _ => s.fillBind k id (Config.freeWord s.tick).toNat
    | _ => s.fillVersion k id t (Config.freeWord s.tick) []

/-- The answer of a peer's home to an `acq`, `rel` or `bind` (R23); one that is not OK gives no version (log 43). -/
def State.objectAnswer (s : State) (k id t : Nat) (status : BitVec 3) (data : BitVec 512) : State :=
  let h := s.hand k
  let ver : Word := data.extractLsb' 128 32
  match h.outst.find? (fun o => o.id = id && !o.returned) with
  | none => s
  | some o =>
    match o.work with
    | .acq objs => if status != 0 then s.objectLost k id t else s.fillVersion k id t ver (s.acqJoin h t (lookupD t 0 objs))
    | .rel _ => if status != 0 then s.objectLost k id t else s.fillVersion k id t ver []
    | .bind obj base len _ =>
      if status == 3 then s.fillBind k id 4
      else if status != 0 then s.objectLost k id t
      else (s.addBinding { lid := h.lid, obj := obj, base := base, len := len }).fillBind k id 0
    | _ => s

/-! ## Group barriers (R333 to R335) -/

/-- The group of a barrier instruction: a PROT unless hA names a barrier group that the hand belongs to. -/
def State.barGroup (s : State) (h : Hand) (a : DWord) : Option Nat :=
  let l := s.launch h.lid
  let g := a.toNat
  if g < 256 ∧ g < l.groups.length ∧ (l.group g).kind = 0 ∧ h.groups.contains g then some g else none

/-- `bar.arv` (R333). -/
def execBarArv (w : CoreWords) (s : State) : Host.Outcome State Fault Refusal :=
  execCore { outside := true, edge := true, sync := true } w s fun i act s =>
    withRegs i act s [(w.hA, .move)] w.gDst [] fun h s =>
      let a := uniVal i act h w.nameA
      match s.barGroup h a with
      | none => .trap s (i.faultW act 0x0A 0)
      | some g =>
        let lanes := act.list.map (fun t => (t, (h.thread t).sbNext))
        .ok (s.addOutst i.hand act (.barArv g lanes) (asyncDsts (s.hand i.hand) act w w.gDst 2) 0 0)

/-- An arrival (R333): the thread's bit and view are recorded once in a phase, and the phase completes when every member
is complete. -/
def State.arrive (s : State) (h : Hand) (g t : Nat) : State :=
  let v := (h.thread t).view
  let s := s.updGroup h.lid g (fun x =>
    let m := lookupD h.hid (0 : Lanes) x.arrived
    if m.has t then x
    else { x with arrived := insertK h.hid (m ||| Lanes.one t) x.arrived, views := x.views ++ [(x.phase, v)] })
  s.barCheck h.lid g

/-- BAR_ARRIVAL: a thread's arrival is applied once its older stores have drained; it receives PHASE as it stands. -/
def execBarArrival (s : State) : Host.Outcome State Fault Refusal :=
  let k := s.args.n
  let t := s.args.k
  let h := s.hand k
  match s.pendingLane k s.args.m t with
  | none => .next s
  | some o =>
    match o.work with
    | .barArv g ls =>
      match ls.find? (fun x => x.1 = t) with
      | none => .next s
      | some (_, seq) =>
        if !s.storesDrained h t seq then .next s
        else
          let phase := ((s.launch h.lid).group g).phase
          .next ((s.arrive h g t).fillVersion k o.id t (phase.zeroExtend 32) [])
    | _ => .next s

/-- The PC of a thread in a time-out record (R335): of a hand never placed ENTRY, of a swapped or halted one that of its context
record, when that translates. -/
def State.reportedPc (s : State) (x : Hand) (t : Nat) : DWord :=
  match x.state with
  | .unplaced => x.entry
  | .swapped | .swappedAsleep | .halted =>
    match s.areaWord x (0x40 + 8 * t) with
    | some v => BitVec.ofNat 64 v
    | none => x.pcOf t
  | _ => x.pcOf t

/-- Entries of the time-out record (R335): the threads of the group that have not arrived, in `hid` then lane order. -/
def State.missing (s : State) (lid : Word) (g : Group) : List (Nat × Nat × DWord) :=
  ((List.range 16384).filter (fun hid => g.members.contains hid)).foldr (fun hid acc =>
    (match s.handOf lid hid with
    | none => []
    | some x =>
      if x.state == .done then []
      else ((x.live &&& ~~~(lookupD hid (0 : Lanes) g.arrived)).list.map (fun t =>
        (hid, t, s.reportedPc x t)))) ++ acc) []

/-- Write the time-out record at offset 0x2800 of the tester's spill area (R335). -/
def State.writeTimeout (s : State) (h : Hand) (gi : Nat) (g : Group) : State :=
  let all := s.missing h.lid g
  let es := all.take 383
  let hdr := field (gi + g.phase.toNat * 2 ^ 16 + es.length * 2 ^ 32 + (if 383 < all.length then 2 ^ 41 else 0)) 16
  s.areaWrite h 0x2800 (hdr ++ es.foldr (fun e acc => field (e.1 + e.2.1 * 2 ^ 16 + e.2.2.toNat * 2 ^ 64) 16 ++ acc) [])

/-- The q destination of a test that is still to be answered; q0 is not written. -/
def flagDst (n : Nat) : OutDst := { dst := .q n, tag := 0, skip := if n = 0 then 0xFFFFFFFF else 0, vals := [] }

/-- A test is answered: the lanes where it holds, and the views that they join. -/
def State.fillFlags (s : State) (k id : Nat) (yes : Lanes) (joins : List (Nat × View)) : State :=
  (s.updOutst k id (fun o => { o with
    joins := o.joins ++ joins,
    dsts := o.dsts.map (fun d => { d with
      vals := o.lanes.list.map (fun t => { lane := t, value := if yes.has t then 1 else 0, bad := false }) }) })).deliverResult k id

/-- A test of a group barrier is applied (R334): a true lane joins the views recorded in the phases that have completed since its own. -/
def State.answerBarTst (s : State) (k id g : Nat) (olds : List (Nat × BitVec 16)) : State :=
  let g := (s.launch (s.hand k).lid).group g
  let yes := olds.filter (fun x => g.phase != x.2)
  s.fillFlags k id (Lanes.of (fun t => yes.any (fun x => x.1 = t)))
    (yes.foldr (fun x acc => (g.views.filter (fun p => (p.1 - x.2).toNat < (g.phase - x.2).toNat)).map (fun p => (x.1, p.2)) ++ acc) [])

/-- A test of a byte-counting barrier is applied (R165, R336): a true one joins the copies that its phase counted. -/
def State.answerBbarTst (s : State) (k id loc : Nat) (parity : Bool) (lanes : Lanes) : State :=
  let b := s.readBBar loc
  if b.phase.getLsbD 0 != parity then
    s.fillFlags k id lanes (lanes.list.foldr (fun t acc =>
      (s.bbarViews.filter (fun p => p.1 = loc && p.2.1 == b.phase - 1)).map (fun p => (t, p.2.2)) ++ acc) [])
  else s.fillFlags k id 0 []

/-- `bar.tst` (R334). The faults, and whether the test fails within the budget, are found at issue; the test is applied when its result
returns, and may then find that the phase has ended (R186, log 70). -/
def execBarTst (w : CoreWords) (s : State) : Host.Outcome State Fault Refusal :=
  execCore { edge := true } w s fun i act s =>
    let b := w.gB
    withRegs i act s [(w.hA, .move), (b, .move)] [] (w.lrNames (.lit 0) b (.lit 0)) fun h s =>
      let a := uniVal i act h w.nameA
      match s.barGroup h a with
      | none => .trap s (i.faultW act 0x0A 0)
      | some gi =>
        let g := (s.launch h.lid).group gi
        let olds := act.list.map (fun t => (t, (b.word h i.uni t).setWidth 16))
        let counts := olds.any (fun x => g.phase == x.2) && (s.part h.part).cfg.barb != 0 && !g.arrived.isEmpty
        if counts && 2 ^ (s.part h.part).cfg.barb.toNat < g.failed + 1 then
          .trap ((s.writeTimeout h gi g).updGroup h.lid gi (fun g => { g with failed := 0 }))
            (i.fault act 0x0F 0 (h.area + 0x2800) act)
        else
          let s := if counts then s.updGroup h.lid gi (fun g => { g with failed := g.failed + 1 }) else s
          .ok (s.addOutst i.hand act (.barTst gi olds) [flagDst w.nameD] 0 0)

/-! ## Byte-counting barriers (R164, R165, R336) -/

/-- `bbar.post` (R336, R188). -/
def execBbarPost (w : CoreWords) (s : State) : Host.Outcome State Fault Refusal :=
  execCore { outside := true, edge := true, signs := true } w s fun i act s =>
    withRegs i act s [(w.hA, .move), (w.hB, .move)] [] [] fun h s =>
      match s.checkAccess i act true .write 16 16 (fun _ => uniVal i act h w.nameA) with
      | .error (s', t) => .trap s' t
      | .ok (locs, s) =>
        let loc := ((locs.head?).map Prod.snd).getD 0
        .ok (s.appendPost i.hand i.lanes loc ((uniVal i act h w.nameB).setWidth 32))

/-- `bbar.tst` (R336): BAROVR is found at issue, and the test is applied when its result returns. -/
def execBbarTst (w : CoreWords) (s : State) : Host.Outcome State Fault Refusal :=
  execCore {} w s fun i act s =>
    withRegs i act s [(w.hA, .move), (w.hB, .move)] [] [] fun h s =>
      let a := uniVal i act h w.nameA
      match s.checkAccess i act true .read 16 16 (fun _ => a) with
      | .error (s', t) => .trap s' t
      | .ok (locs, s) =>
        let loc := ((locs.head?).map Prod.snd).getD 0
        if (s.readBBar loc).isOver then .trap s (i.fault act 0x0E 0 a act)
        else
          .ok (s.addOutst i.hand act (.bbarTst loc ((uniVal i act h w.nameB).getLsbD 0)) [flagDst w.nameD] 0 0)

end Sys2Proof.Machine
end

