-- ==== Sys2Proof/Machine/Int.lean ====
section
/-!
DEFINITION. Class 0: the integer and address instructions (spec/13 R280 to R288). An H form takes A from an h register
(R253).
-/
namespace Sys2Proof.Machine

/-- The integer type of FMT (R280): unsigned for N32, otherwise signed. -/
def isUnsigned (w : CoreWords) : Bool := w.x.fmt == 2

/-- The result tag of a typed integer instruction (R281). -/
def typeTag (w : CoreWords) : BitVec 4 := if isUnsigned w then 2 else 1

/-- Source A of an instruction with an H form. -/
def srcA (w : CoreWords) (hForm : Bool) : Operand := if hForm then w.hA else w.gA

/-- The shape of the per-lane instructions with a g destination: sources A, B and C as words, result tag `tag`. -/
def laneOp (hForm : Bool) (chk : Check) (two three : Bool) (tag : CoreWords → BitVec 4)
    (f : CoreWords → Word → Word → Word → Word) (w : CoreWords) (s : State) : Host.Outcome State Fault Refusal :=
  execCore {} w s fun i act s =>
    let a := srcA w hForm
    let b := if two then w.gB else .lit 0
    let c := if three then w.gC else .lit 0
    withRegs i act s [(a, chk), (b, chk), (c, chk)] w.gDst (w.lrNames a b c) fun h s =>
      .ok (s.writeD i w act (fun t => f w (a.word h i.uni t) (b.word h i.uni t) (c.word h i.uni t)) (tag w))

/-- A typed integer instruction of two sources, and one of three. -/
def intOp2 (hForm : Bool) (f : Bool → Word → Word → Word) : CoreWords → State → Host.Outcome State Fault Refusal :=
  laneOp hForm .int true false typeTag (fun w a b _ => f (isUnsigned w) a b)
def intOp3 (hForm : Bool) (f : Word → Word → Word → Word) : CoreWords → State → Host.Outcome State Fault Refusal :=
  laneOp hForm .int true true typeTag (fun _ a b c => f a b c)

/-- A bitwise or shift instruction of one or two sources: no tag check, result RAW32. -/
def rawOp1 (hForm : Bool) (f : Word → Word) : CoreWords → State → Host.Outcome State Fault Refusal :=
  laneOp hForm .move false false (fun _ => 0) (fun _ a _ _ => f a)
def rawOp2 (hForm : Bool) (f : Word → Word → Word) : CoreWords → State → Host.Outcome State Fault Refusal :=
  laneOp hForm .move true false (fun _ => 0) (fun _ a b _ => f a b)

/-! ## Results (R282, R283, R285) -/

/-- Bits [63:32] of the exact product. -/
def mulHigh (uns : Bool) (a b : Word) : Word :=
  if uns then BitVec.ofNat 32 (a.toNat * b.toNat / 2 ^ 32) else BitVec.ofInt 32 (a.toInt * b.toInt / 2 ^ 32)

/-- Signed or unsigned order. -/
def lessThan (uns : Bool) (a b : Word) : Bool := if uns then a.ult b else a.slt b

def minWord (uns : Bool) (a b : Word) : Word := if lessThan uns b a then b else a
def maxWord (uns : Bool) (a b : Word) : Word := if lessThan uns a b then b else a

def shlWord (a b : Word) : Word := if b.toNat < 32 then a <<< b.toNat else 0
def shrWord (a b : Word) : Word := if b.toNat < 32 then a >>> b.toNat else 0
def sarWord (a b : Word) : Word := if b.toNat < 32 then a.sshiftRight b.toNat else if a.msb then 0xFFFFFFFF else 0
def rotlWord (a b : Word) : Word := a.rotateLeft (b.toNat % 32)

/-- Leading zero bits; 32 for 0. -/
def clzWord (a : Word) : Word := if a == 0 then 32 else BitVec.ofNat 32 (31 - a.toNat.log2)
def popcWord (a : Word) : Word := BitVec.ofNat 32 ((allLanes.filter (fun i => a.getLsbD i)).length)
def brevWord (a : Word) : Word := Lanes.of (fun i => a.getLsbD (31 - i))

/-- The field mask of the FLD layout, and its width w. -/
def fldWidth (w : CoreWords) : Nat := min (w.f2 5 6) (32 - w.f2 0 5)
def fldMask (w : CoreWords) : Word := BitVec.ofNat 32 ((2 ^ fldWidth w - 1) * 2 ^ w.f2 0 5)

def bfxWord (w : CoreWords) (a : Word) : Word :=
  let n := fldWidth w
  let f := (a &&& fldMask w) >>> w.f2 0 5
  if !isUnsigned w && n > 0 && f.getLsbD (n - 1) then f ||| ((0xFFFFFFFF : Word) <<< n) else f

def bfiWord (w : CoreWords) (a b : Word) : Word := (a &&& ~~~fldMask w) ||| ((b <<< w.f2 0 5) &&& fldMask w)

/-! ## Shapes with other destinations -/

/-- `sel` (R284): the write carries MIXED when lanes select both sources and the tags of these differ. -/
def selOp (hForm : Bool) (w : CoreWords) (s : State) : Host.Outcome State Fault Refusal :=
  execCore {} w s fun i act s =>
    let a := srcA w hForm
    let b := w.gB
    withRegs i act s [(a, .move), (b, .move)] w.gDst (w.lrNames a b (.lit 0)) fun h s =>
      let takeA (t : Nat) : Bool := h.readQ t w.nameC
      let both := act.list.any takeA && act.list.any (fun t => !takeA t)
      .ok (s.writeDTags i w act (fun t => if takeA t then a.word h i.uni t else b.word h i.uni t)
        (fun t => if both && a.tag h i.uni t != b.tag h i.uni t then 0xE else if takeA t then a.tag h i.uni t else b.tag h i.uni t))

/-- `cmp.op` (R285). -/
def cmpOp (hForm : Bool) (p : Bool → Word → Word → Bool) (w : CoreWords) (s : State) : Host.Outcome State Fault Refusal :=
  execCore {} w s fun i act s =>
    let a := srcA w hForm
    let b := w.gB
    withRegs i act s [(a, .int), (b, .int)] [] (w.lrNames a b (.lit 0)) fun h s =>
      .ok (s.writeQD i w act (fun t => p (isUnsigned w) (a.word h i.uni t) (b.word h i.uni t)))

/-- A 64-bit address result in a g pair, tagged ADDR (R286). -/
def pairOp (b : CoreWords → Operand) (f : CoreWords → DWord → DWord → DWord) (w : CoreWords) (s : State) :
    Host.Outcome State Fault Refusal :=
  execCore {} w s fun i act s =>
    let a := w.pA
    withRegs i act s [(a, .int), (b w, .int)] w.pairDst (w.lrNames a (b w) (.lit 0)) fun h s =>
      .ok (s.writePairD i w act (fun t => f w (a.val h i.uni t) ((b w).val h i.uni t)) 0xD)

/-- `mov` (R287): value and tag of A. -/
def movOp (hForm : Bool) (w : CoreWords) (s : State) : Host.Outcome State Fault Refusal :=
  execCore {} w s fun i act s =>
    let a := srcA w hForm
    withRegs i act s [(a, .move)] w.gDst (w.lrNames a (.lit 0) (.lit 0)) fun h s =>
      .ok (s.writeDTags i w act (fun t => a.word h i.uni t) (fun t => a.tag h i.uni t))

/-- The 64-bit value that `uni` and `uni.chk` promote from a lane (R288). -/
def promoted (a b : Operand) (h : Hand) (uni : Uniform) (t : Nat) : DWord :=
  ((b.word h uni t).zeroExtend 64 <<< 32) ||| (a.word h uni t).zeroExtend 64

/-! ## Meanings, one per instruction -/

/-- `add` (R282): a + b modulo 2^32. -/
def execAdd : CoreWords → State → Host.Outcome State Fault Refusal := intOp2 false (fun _ a b => a + b)

/-- `add` (R282): a + b modulo 2^32. H form. -/
def execAddH : CoreWords → State → Host.Outcome State Fault Refusal := intOp2 true (fun _ a b => a + b)

/-- `sub` (R282): a − b modulo 2^32. -/
def execSub : CoreWords → State → Host.Outcome State Fault Refusal := intOp2 false (fun _ a b => a - b)

/-- `sub` (R282): a − b modulo 2^32. H form. -/
def execSubH : CoreWords → State → Host.Outcome State Fault Refusal := intOp2 true (fun _ a b => a - b)

/-- `mul` (R282): the low 32 bits of the product. -/
def execMul : CoreWords → State → Host.Outcome State Fault Refusal := intOp2 false (fun _ a b => a * b)

/-- `mul` (R282): the low 32 bits of the product. H form. -/
def execMulH : CoreWords → State → Host.Outcome State Fault Refusal := intOp2 true (fun _ a b => a * b)

/-- `mulhi` (R282): bits [63:32] of the exact product. -/
def execMulhi : CoreWords → State → Host.Outcome State Fault Refusal := intOp2 false mulHigh

/-- `mulhi` (R282): bits [63:32] of the exact product. H form. -/
def execMulhiH : CoreWords → State → Host.Outcome State Fault Refusal := intOp2 true mulHigh

/-- `mad` (R282): the low 32 bits of a × b + c. -/
def execMad : CoreWords → State → Host.Outcome State Fault Refusal := intOp3 false (fun a b c => a * b + c)

/-- `mad` (R282): the low 32 bits of a × b + c. H form. -/
def execMadH : CoreWords → State → Host.Outcome State Fault Refusal := intOp3 true (fun a b c => a * b + c)

/-- `min` (R282). -/
def execImin : CoreWords → State → Host.Outcome State Fault Refusal := intOp2 false minWord

/-- `min` (R282). H form. -/
def execMinH : CoreWords → State → Host.Outcome State Fault Refusal := intOp2 true minWord

/-- `max` (R282). -/
def execImax : CoreWords → State → Host.Outcome State Fault Refusal := intOp2 false maxWord

/-- `max` (R282). H form. -/
def execMaxH : CoreWords → State → Host.Outcome State Fault Refusal := intOp2 true maxWord

/-- `and` (R282). -/
def execIand : CoreWords → State → Host.Outcome State Fault Refusal := rawOp2 false (fun a b => a &&& b)

/-- `and` (R282). H form. -/
def execAndH : CoreWords → State → Host.Outcome State Fault Refusal := rawOp2 true (fun a b => a &&& b)

/-- `or` (R282). -/
def execIor : CoreWords → State → Host.Outcome State Fault Refusal := rawOp2 false (fun a b => a ||| b)

/-- `or` (R282). H form. -/
def execOrH : CoreWords → State → Host.Outcome State Fault Refusal := rawOp2 true (fun a b => a ||| b)

/-- `xor` (R282). -/
def execIxor : CoreWords → State → Host.Outcome State Fault Refusal := rawOp2 false (fun a b => a ^^^ b)

/-- `xor` (R282). H form. -/
def execXorH : CoreWords → State → Host.Outcome State Fault Refusal := rawOp2 true (fun a b => a ^^^ b)

/-- `andn` (R282): a and not b. -/
def execAndn : CoreWords → State → Host.Outcome State Fault Refusal := rawOp2 false (fun a b => a &&& ~~~b)

/-- `andn` (R282): a and not b. H form. -/
def execAndnH : CoreWords → State → Host.Outcome State Fault Refusal := rawOp2 true (fun a b => a &&& ~~~b)

/-- `shl` (R282). -/
def execShl : CoreWords → State → Host.Outcome State Fault Refusal := rawOp2 false shlWord

/-- `shl` (R282). H form. -/
def execShlH : CoreWords → State → Host.Outcome State Fault Refusal := rawOp2 true shlWord

/-- `shr` (R282). -/
def execShr : CoreWords → State → Host.Outcome State Fault Refusal := rawOp2 false shrWord

/-- `shr` (R282). H form. -/
def execShrH : CoreWords → State → Host.Outcome State Fault Refusal := rawOp2 true shrWord

/-- `sar` (R282). -/
def execSar : CoreWords → State → Host.Outcome State Fault Refusal := rawOp2 false sarWord

/-- `sar` (R282). H form. -/
def execSarH : CoreWords → State → Host.Outcome State Fault Refusal := rawOp2 true sarWord

/-- `rotl` (R282). -/
def execRotl : CoreWords → State → Host.Outcome State Fault Refusal := rawOp2 false rotlWord

/-- `rotl` (R282). H form. -/
def execRotlH : CoreWords → State → Host.Outcome State Fault Refusal := rawOp2 true rotlWord

/-- `clz` (R282). -/
def execClz : CoreWords → State → Host.Outcome State Fault Refusal := rawOp1 false clzWord

/-- `clz` (R282). H form. -/
def execClzH : CoreWords → State → Host.Outcome State Fault Refusal := rawOp1 true clzWord

/-- `popc` (R282). -/
def execPopc : CoreWords → State → Host.Outcome State Fault Refusal := rawOp1 false popcWord

/-- `popc` (R282). H form. -/
def execPopcH : CoreWords → State → Host.Outcome State Fault Refusal := rawOp1 true popcWord

/-- `brev` (R282). -/
def execBrev : CoreWords → State → Host.Outcome State Fault Refusal := rawOp1 false brevWord

/-- `brev` (R282). H form. -/
def execBrevH : CoreWords → State → Host.Outcome State Fault Refusal := rawOp1 true brevWord

/-- `bfx` (R283). -/
def execBfx : CoreWords → State → Host.Outcome State Fault Refusal := laneOp false .move false false (fun _ => 0) (fun w a _ _ => bfxWord w a)

/-- `bfx` (R283). H form. -/
def execBfxH : CoreWords → State → Host.Outcome State Fault Refusal := laneOp true .move false false (fun _ => 0) (fun w a _ _ => bfxWord w a)

/-- `bfi` (R283). -/
def execBfi : CoreWords → State → Host.Outcome State Fault Refusal := laneOp false .move true false (fun _ => 0) (fun w a b _ => bfiWord w a b)

/-- `bfi` (R283). H form. -/
def execBfiH : CoreWords → State → Host.Outcome State Fault Refusal := laneOp true .move true false (fun _ => 0) (fun w a b _ => bfiWord w a b)

/-- `sel` (R284). -/
def execSel : CoreWords → State → Host.Outcome State Fault Refusal := selOp false

/-- `sel` (R284). H form. -/
def execSelH : CoreWords → State → Host.Outcome State Fault Refusal := selOp true

/-- `cmp.eq` (R285). -/
def execCmpEq : CoreWords → State → Host.Outcome State Fault Refusal := cmpOp false (fun _ a b => a == b)

/-- `cmp.eq` (R285). H form. -/
def execCmpEqH : CoreWords → State → Host.Outcome State Fault Refusal := cmpOp true (fun _ a b => a == b)

/-- `cmp.ne` (R285). -/
def execCmpNe : CoreWords → State → Host.Outcome State Fault Refusal := cmpOp false (fun _ a b => a != b)

/-- `cmp.ne` (R285). H form. -/
def execCmpNeH : CoreWords → State → Host.Outcome State Fault Refusal := cmpOp true (fun _ a b => a != b)

/-- `cmp.lt` (R285). -/
def execCmpLt : CoreWords → State → Host.Outcome State Fault Refusal := cmpOp false lessThan

/-- `cmp.lt` (R285). H form. -/
def execCmpLtH : CoreWords → State → Host.Outcome State Fault Refusal := cmpOp true lessThan

/-- `cmp.le` (R285). -/
def execCmpLe : CoreWords → State → Host.Outcome State Fault Refusal := cmpOp false (fun uns a b => !lessThan uns b a)

/-- `cmp.le` (R285). H form. -/
def execCmpLeH : CoreWords → State → Host.Outcome State Fault Refusal := cmpOp true (fun uns a b => !lessThan uns b a)

/-- `lea` (R286): A + (B extended by type) × 2^SH, modulo 2^64. -/
def execLea : CoreWords → State → Host.Outcome State Fault Refusal := pairOp CoreWords.gB (fun w a b =>
    let b64 : DWord := if isUnsigned w then (b.setWidth 32).zeroExtend 64 else (b.setWidth 32).signExtend 64
    a + b64 <<< w.f2 0 3)

/-- `add64` (R286). -/
def execAdd64 : CoreWords → State → Host.Outcome State Fault Refusal := pairOp CoreWords.pB (fun _ a b => a + b)

/-- `mov` (R287). -/
def execMov : CoreWords → State → Host.Outcome State Fault Refusal := movOp false

/-- `mov` (R287). H form. -/
def execMovH : CoreWords → State → Host.Outcome State Fault Refusal := movOp true

/-- `movl` (R287): the literal into hD, RAW32, no poison. -/
def execMovl (w : CoreWords) (s : State) : Host.Outcome State Fault Refusal :=
  execCore {} w s fun i _ s => .ok (s.writeH i.hand w.nameD w.litVal 0)

/-- `uni` (R288): promotes the lowest active lane, whose reads alone are checked. -/
def execUni (w : CoreWords) (s : State) : Host.Outcome State Fault Refusal :=
  execCore {} w s fun i act s =>
    let l := Lanes.lowest act
    let one := Lanes.one l
    match checkSources i one (s.hand i.hand) [(w.gA, .move), (w.gB, .move)] with
    | some t => .trap s { t with split := act }
    | none =>
      match withRegs i one s [(w.gA, .move), (w.gB, .move)] [] (w.lrNames w.gA w.gB (.lit 0)) fun h s =>
        .ok (s.writeH i.hand w.nameD (promoted w.gA w.gB h i.uni l) (w.gA.tag h i.uni l)) with
      | .trap s t => .trap s { t with mask := act, split := act }
      | d => d

/-- `uni.chk` (R288): NONUNIF when an active lane differs from the lowest one, before a SPILLX (R193). -/
def execUniChk (w : CoreWords) (s : State) : Host.Outcome State Fault Refusal :=
  execCore {} w s fun i act s =>
    let l := Lanes.lowest act
    let v (h : Hand) : DWord := promoted w.gA w.gB h i.uni l
    let differ (h : Hand) : Lanes := Lanes.of (fun t => act.has t && promoted w.gA w.gB h i.uni t != v h)
    let nonunif (h : Hand) : TrapInfo := i.fault act 0x03 0 (v h) (differ h)
    let d := withRegs i act s [(w.gA, .move), (w.gB, .move)] [] (w.lrNames w.gA w.gB (.lit 0)) fun h s =>
      if differ h != 0 then .trap s (nonunif h)
      else .ok (s.writeH i.hand w.nameD (v h) (w.gA.tag h i.uni l))
    match d with
    | .trap s t => .trap s (if t.code == 0x13 && differ (s.hand i.hand) != 0 then nonunif (s.hand i.hand) else t)
    | d => d

end Sys2Proof.Machine
end

