-- ==== Sys2Proof/Machine/Vector.lean ====
section
/-!
DEFINITION. Class 4: vector arithmetic, the elementary functions, conversions, block scales, dot products, reductions,
compares and tags (spec/15 R337 to R348, with the arithmetic of spec/11).
-/
namespace Sys2Proof.Machine

/-! ## Formats and checks (R337) -/

/-- "floats" of R338: F32, BF16x2, F16x2, E4M3x4 and E5M2x4. -/
def isFloatTag (t : BitVec 4) : Bool := 3 ≤ t.toNat && t.toNat ≤ 7

/-- FMT overrides the sources' tags. -/
def overrides (w : CoreWords) : Bool := isFloatTag w.x.fmt

/-- A source that names a register. -/
def Operand.isReg : Operand → Bool
  | .lit _ => false
  | _ => true

/-- The format of an instruction with an override: FMT, or the tag of the first source that names a register, or F32. -/
def fltFmt (i : SplitIssue) (act : Lanes) (h : Hand) (w : CoreWords) (ops : List Operand) : BitVec 4 :=
  if overrides w then w.x.fmt
  else match ops.find? Operand.isReg with
    | some o => checkTag (o.tag h i.uni (Lanes.lowest act))
    | none => 3

/-- Poison, then MIXED, then the tag test, each over the sources in order. -/
def tagChecks (i : SplitIssue) (act : Lanes) (h : Hand) (ops : List Operand) (ok : BitVec 4 → Bool) : Option TrapInfo :=
  match firstSome (fun o => poisonOf i act h o) ops with
  | some t => some t
  | none =>
    match firstSome (fun o => mixedOf i act h o) ops with
    | some t => some t
    | none => firstSome (fun o => tagmisOf i act h o ok) ops

/-- The checks of R337: under an override only poison. -/
def fltCheck (i : SplitIssue) (act : Lanes) (h : Hand) (w : CoreWords) (ops : List Operand) (allowed : BitVec 4 → Bool) :
    Option TrapInfo :=
  if overrides w then firstSome (fun o => poisonOf i act h o) ops
  else
    let fmt := fltFmt i act h w ops
    tagChecks i act h ops (fun t => checkTag t == fmt && allowed (checkTag t))

/-- Apply a function of codes to each element of up to three words. -/
def mapElems (fmt : BitVec 4) (f : Nat → Nat → Nat → Nat × Flags) (x y z : Word) : Word × Flags :=
  let rs := (List.range (tagElems fmt)).map (fun i => f (elemOf fmt x i) (elemOf fmt y i) (elemOf fmt z i))
  (BitVec.ofNat 32 (packElems (elemBits fmt) (rs.map Prod.fst)), rs.foldl (fun a r => a ||| r.2) 0)

/-- Write lane results with their flags (R242). -/
def State.writeFlagged (s : State) (i : SplitIssue) (w : CoreWords) (act : Lanes) (f : Nat → Word × Flags) (tag : BitVec 4) :
    State :=
  let rs := act.list.map (fun t => (t, f t))
  let s := s.writeD i w act (fun t => (lookupD t (0, 0) rs).1) tag
  s.updHand i.hand (fun h => h.orFlags (rs.foldl (fun a r => a ||| r.2.2) 0))

/-- The common shape of the arithmetic with an override (R337 to R341). -/
def fltOp (hForm two three : Bool) (allowed : BitVec 4 → Bool) (f : CoreWords → FFmt → Nat → Nat → Nat → Nat × Flags)
    (w : CoreWords) (s : State) : Host.Outcome State Fault Refusal :=
  execCore {} w s fun i act s =>
    let a := srcA w hForm
    let b := if two then w.gB else .lit 0
    let c := if three then w.gC else .lit 0
    let ops := [a] ++ (if two then [b] else []) ++ (if three then [c] else [])
    let h := s.hand i.hand
    let fmt := fltFmt i act h w ops
    match fltCheck i act h w ops allowed with
    | some t => .trap s t
    | none =>
      withRegs i act s (ops.map (fun o => (o, .move))) w.gDst (w.lrNames a b c) fun h s =>
        let ff := (FFmt.ofTag fmt).getD .f32
        .ok (s.writeFlagged i w act (fun t => mapElems fmt (f w ff) (a.word h i.uni t) (b.word h i.uni t) (c.word h i.uni t)) fmt)

/-- Round an exact result with the flags of forming it (R240). -/
def roundOp (w : CoreWords) (ff : FFmt) (r : Num × Flags) : Nat × Flags :=
  let (c, g) := ff.round r.1 w.x.rnd.toNat w.x.sat
  (c, r.2 ||| g)

def faddElem (w : CoreWords) (ff : FFmt) (x y _ : Nat) : Nat × Flags :=
  roundOp w ff ((ff.decode x).add (ff.decode y) w.x.rnd.toNat)
def fsubElem (w : CoreWords) (ff : FFmt) (x y _ : Nat) : Nat × Flags :=
  roundOp w ff ((ff.decode x).add (ff.decode y).neg w.x.rnd.toNat)
def fmulElem (w : CoreWords) (ff : FFmt) (x y _ : Nat) : Nat × Flags :=
  roundOp w ff ((ff.decode x).mul (ff.decode y))
def fmaElem (w : CoreWords) (ff : FFmt) (x y z : Nat) : Nat × Flags :=
  roundOp w ff ((ff.decode x).fma (ff.decode y) (ff.decode z) w.x.rnd.toNat)

/-! ## Arithmetic (R339, R340, R341) -/

/-- `fadd`. -/
def execFadd : CoreWords → State → Host.Outcome State Fault Refusal := fltOp false true false isFloatTag faddElem
/-- `fsub`. -/
def execFsub : CoreWords → State → Host.Outcome State Fault Refusal := fltOp false true false isFloatTag fsubElem
/-- `fmul`. -/
def execFmul : CoreWords → State → Host.Outcome State Fault Refusal := fltOp false true false isFloatTag fmulElem
/-- `fma`. -/
def execFma : CoreWords → State → Host.Outcome State Fault Refusal := fltOp false true true isFloatTag fmaElem
/-- `fmin`. -/
def execFmin : CoreWords → State → Host.Outcome State Fault Refusal :=
  fltOp false true false isFloatTag (fun _ ff x y _ => ff.minMax false x y)
/-- `fmax`. -/
def execFmax : CoreWords → State → Host.Outcome State Fault Refusal :=
  fltOp false true false isFloatTag (fun _ ff x y _ => ff.minMax true x y)
/-- `fadd`, H form. -/
def execFaddH : CoreWords → State → Host.Outcome State Fault Refusal := fltOp true true false isFloatTag faddElem
/-- `fsub`, H form. -/
def execFsubH : CoreWords → State → Host.Outcome State Fault Refusal := fltOp true true false isFloatTag fsubElem
/-- `fmul`, H form. -/
def execFmulH : CoreWords → State → Host.Outcome State Fault Refusal := fltOp true true false isFloatTag fmulElem
/-- `fma`, H form. -/
def execFmaH : CoreWords → State → Host.Outcome State Fault Refusal := fltOp true true true isFloatTag fmaElem
/-- `fmin`, H form. -/
def execFminH : CoreWords → State → Host.Outcome State Fault Refusal :=
  fltOp true true false isFloatTag (fun _ ff x y _ => ff.minMax false x y)
/-- `fmax`, H form. -/
def execFmaxH : CoreWords → State → Host.Outcome State Fault Refusal :=
  fltOp true true false isFloatTag (fun _ ff x y _ => ff.minMax true x y)

/-- An elementary function: F32, BF16x2 and F16x2 only. -/
def elemOp (fn : Nat) : CoreWords → State → Host.Outcome State Fault Refusal :=
  fltOp false false false (fun t => 3 ≤ t.toNat && t.toNat ≤ 5) (fun w ff x _ _ => ff.elementary fn x w.x.rnd.toNat w.x.sat)

/-- `rcp`. -/
def execRcp : CoreWords → State → Host.Outcome State Fault Refusal := elemOp 0
/-- `rsq`. -/
def execRsq : CoreWords → State → Host.Outcome State Fault Refusal := elemOp 1
/-- `ex2`. -/
def execEx2 : CoreWords → State → Host.Outcome State Fault Refusal := elemOp 2
/-- `lg2`. -/
def execLg2 : CoreWords → State → Host.Outcome State Fault Refusal := elemOp 3
/-- `tanh`. -/
def execTanh : CoreWords → State → Host.Outcome State Fault Refusal := elemOp 4

/-! ## Conversions and block scales (R342 to R344) -/

/-- The converted elements of a word, put over D's word when packing. -/
def convWord (src dst : BitVec 4) (pos rnd : Nat) (sat : Bool) (a old : Word) : Word × Flags :=
  let es := tagElems src
  let ed := tagElems dst
  let conv (k : Nat) : Nat × Flags := convElem src dst a k rnd sat
  if ed ≤ es then
    let p := pos % (es / ed)
    let rs := (List.range ed).map (fun i => conv (p * ed + i))
    (BitVec.ofNat 32 (packElems (elemBits dst) (rs.map Prod.fst)), rs.foldl (fun f r => f ||| r.2) 0)
  else
    let p := pos % (ed / es)
    let rs := (List.range es).map conv
    (putElems old (elemBits dst) (p * es) (rs.map Prod.fst), rs.foldl (fun f r => f ||| r.2) 0)

/-- TAGMIS for a literal whose tag an instruction does not take (R208): its name and that tag. -/
def litMis (i : SplitIssue) (act : Lanes) (name : Nat) (tag : BitVec 4) : TrapInfo :=
  i.faultW act 0x04 (BitVec.ofNat 16 (name + tag.toNat * 256))

/-- `cvt` (R342). -/
def execCvt (w : CoreWords) (s : State) : Host.Outcome State Fault Refusal :=
  execCore {} w s fun i act s =>
    let a := w.gA
    let h := s.hand i.hand
    let srcField : BitVec 4 := BitVec.ofNat 4 (w.f2 5 4)
    let src := if srcField != 0 then srcField else checkTag (a.tag h i.uni (Lanes.lowest act))
    let dst := w.x.fmt
    let packs := tagElems src < tagElems dst
    let d := if packs then w.gName w.nameD else .lit 0
    let tagBad : Option TrapInfo :=
      match firstSome (fun o => poisonOf i act h o) [a, d] with
      | some t => some t
      | none =>
        match tagChecks i act h [a] (fun t => checkTag t == src && convListed src dst) with
        | some t => some t
        | none => if !a.isReg && !convListed src dst then some (litMis i act w.nameA src) else none
    match tagBad with
    | some t => .trap s t
    | none =>
      withRegs i act s [(a, .move), (d, .move)] w.gDst (w.lrNames a (.lit 0) (.lit 0)) fun h s =>
        .ok (s.writeFlagged i w act
          (fun t => convWord src dst (w.f2 0 5) w.x.rnd.toNat w.x.sat (a.word h i.uni t) (d.word h i.uni t)) dst)

/-- The scale code that `pkscl` chooses for a magnitude: the smallest whose value times the format's largest value is not
below it (R343). -/
def scaleCode (fmt : BitVec 4) (v : Num) : Nat × Flags :=
  let ff := (FFmt.ofTag fmt).getD .e2m1
  let largest := ff.decode ff.maxCode
  match v with
  | .nan _ => (0xFF, flagINV)
  | v =>
    let mag : Num := match v with
      | .inf _ => .inf false
      | .fin _ m e => .fin false m e
      | x => x
    match (List.range 255).find? (fun c => ((FFmt.e3m5.decode c).mul largest).1.cmp mag != .lt) with
    | some c => (c, 0)
    | none => (0xFE, flagOF)

/-- `pkscl` (R343). -/
def execPkscl (w : CoreWords) (s : State) : Host.Outcome State Fault Refusal :=
  execCore {} w s fun i act s =>
    let a := w.gA
    let d := w.gName w.nameD
    let h := s.hand i.hand
    match firstSome (fun o => poisonOf i act h o) [a, d], tagChecks i act h [a] (fun t => t == 3) with
    | some t, _ => .trap s t
    | none, some t => .trap s t
    | none, none =>
      withRegs i act s [(a, .move), (d, .move)] w.gDst (w.lrNames a (.lit 0) (.lit 0)) fun h s =>
        .ok (s.writeFlagged i w act (fun t =>
          let (c, f) := scaleCode w.x.fmt (FFmt.f32.decode (a.word h i.uni t).toNat)
          (putElems (d.word h i.uni t) 8 (w.f2 0 2) [c], f)) 0xC)

/-- A scaled element as F32 (R344). -/
def unpkWord (tag : BitVec 4) (pos sb rnd : Nat) (a b : Word) : Word × Flags :=
  let (x, f) := elemNum tag a (pos % tagElems tag)
  let (sc, g) := scaleNum (bits b.toNat (8 * sb) 8)
  let (p, k) := x.mul sc
  let (c, m) := FFmt.f32.round p rnd false
  (BitVec.ofNat 32 c, f ||| g ||| k ||| m)

/-- `unpk` (R344). A literal in A names no format (log 44). -/
def execUnpk (w : CoreWords) (s : State) : Host.Outcome State Fault Refusal :=
  execCore {} w s fun i act s =>
    let a := w.gA
    let b := w.gB
    let h := s.hand i.hand
    let aTag (t : BitVec 4) : Bool := t == 8 || t == 6 || t == 7 || t == 9
    let bad : Option TrapInfo :=
      match firstSome (fun o => poisonOf i act h o) [a, b] with
      | some t => some t
      | none =>
        match firstSome (fun o => mixedOf i act h o) [a, b] with
        | some t => some t
        | none =>
          if !a.isReg then some (litMis i act w.nameA 0)
          else match tagmisOf i act h a aTag with
            | some t => some t
            | none => tagmisOf i act h b (fun t => t == 0xC)
    match bad with
    | some t => .trap s t
    | none =>
      withRegs i act s [(a, .move), (b, .move)] w.gDst (w.lrNames a b (.lit 0)) fun h s =>
        .ok (s.writeFlagged i w act (fun t =>
          unpkWord (a.tag h i.uni t) (w.f2 0 5) (w.f2 5 2) w.x.rnd.toNat (a.word h i.uni t) (b.word h i.uni t)) 3)

/-! ## Dot products (R345) -/

/-- The exact sum of values, from the first on (R244). -/
def numSum (rnd : Nat) : List (Num × Flags) → Num × Flags
  | [] => (.fin false 0 0, 0)
  | x :: xs => xs.foldl (fun acc y =>
      let (z, f) := acc.1.add y.1 rnd
      (z, acc.2 ||| y.2 ||| f)) x

/-- Element `k` of 0 to 7 of a pair: four in each word, or all in the even word for the denser formats. -/
def pairElem (tag : BitVec 4) (v : DWord) (k : Nat) : Num × Flags :=
  if tag == 6 || tag == 7 then elemNum tag (v.extractLsb' (32 * (k / 4)) 32) (k % 4)
  else elemNum tag (v.setWidth 32) k

def numMul (x y : Num × Flags) : Num × Flags :=
  let (z, f) := x.1.mul y.1
  (z, x.2 ||| y.2 ||| f)

/-- C plus the exact sum of eight products, rounded once into F32. -/
def dot8Word (ta tb : BitVec 4) (rnd : Nat) (sat : Bool) (a b : DWord) (c : Word) : Word × Flags :=
  let (s, f) := numSum rnd ((List.range 8).map (fun k => numMul (pairElem ta a k) (pairElem tb b k)))
  let (r, g) := (FFmt.f32.decode c.toNat).add s rnd
  let (v, m) := FFmt.f32.round r rnd sat
  (BitVec.ofNat 32 v, f ||| g ||| m)

/-- The pairs of formats that `dot8` admits. -/
def dotPair (ta tb : BitVec 4) : Bool :=
  let e (t : BitVec 4) : Bool := t == 6 || t == 7
  (ta == 8 && tb == 8) || (e ta && e tb) || (ta == 9 && e tb) || (e ta && tb == 9)

/-- `dot8`. -/
def execDot8 (w : CoreWords) (s : State) : Host.Outcome State Fault Refusal :=
  execCore {} w s fun i act s =>
    let h := s.hand i.hand
    let pa := w.pA
    let pb := w.pB
    let c := w.gC
    let low := Lanes.lowest act
    let rawA := pa.tag h i.uni low
    let rawB := pb.tag h i.uni low
    let ta := if pa.isReg then rawA else if pb.isReg then rawB else 3
    let tb := if pb.isReg then rawB else if pa.isReg then rawA else 3
    let read (o : Operand) (t : BitVec 4) : Operand := match o with
      | .pair n => if t == 6 || t == 7 then .pair n else .g n
      | o => o
    let a := read pa ta
    let b := read pb tb
    let bad : Option TrapInfo :=
      match firstSome (fun o => poisonOf i act h o) [a, b, c] with
      | some t => some t
      | none =>
        match firstSome (fun o => mixedOf i act h o) [a, b, c] with
        | some t => some t
        | none =>
          match firstSome (fun p => tagmisOf i act h p.1 (fun t => t == p.2 && dotPair ta tb)) [(a, ta), (b, tb)] with
          | some t => some t
          | none =>
            if !dotPair ta tb then some (litMis i act w.nameA ta) else tagmisOf i act h c (fun t => t == 3)
    match bad with
    | some t => .trap s t
    | none =>
      withRegs i act s [(a, .move), (b, .move), (c, .move)] w.gDst (w.lrNames pa pb c) fun h s =>
        .ok (s.writeFlagged i w act (fun t =>
          dot8Word ta tb w.x.rnd.toNat w.x.sat (pa.val h i.uni t) (pb.val h i.uni t) (c.word h i.uni t)) 3)

/-! ## Reductions (R245, R346) -/

/-- One level of the tree: lanes at multiples of 2d take their partner's value in. -/
def treeLevel (op : Word → Word → Word × Flags) (d : Nat) (v : List (Option Word)) (f : Flags) : List (Option Word) × Flags :=
  let at_ (t : Nat) : Option Word := (v[t]?).join
  let r (t : Nat) : Option Word × Flags :=
    if t % (2 * d) ≠ 0 then (at_ t, 0)
    else match at_ t, at_ (t + d) with
      | none, y => (y, 0)
      | x, none => (x, 0)
      | some x, some y =>
        let (z, g) := op x y
        (some z, g)
  let rs := allLanes.map r
  (rs.map Prod.fst, rs.foldl (fun a x => a ||| x.2) f)

/-- The tree of R245 over the active lanes. -/
def hredTree (op : Word → Word → Word × Flags) (v : List (Option Word)) : Word × Flags :=
  let (v, f) := [1, 2, 4, 8, 16].foldl (fun acc d => treeLevel op d acc.1 acc.2) (v, 0)
  (((v.head?).join).getD 0, f)

/-- `hred`: the operation on two words of a format. -/
def hredWord (w : CoreWords) (which : Nat) (fmt : BitVec 4) (x y : Word) : Word × Flags :=
  if fmt == 1 || fmt == 2 then
    let uns := fmt == 2
    (match which with | 0 => x + y | 1 => minWord uns x y | _ => maxWord uns x y, 0)
  else
    let ff := (FFmt.ofTag fmt).getD .f32
    match which with
    | 0 => mapElems fmt (faddElem w ff) x y 0
    | 1 => mapElems fmt (fun a b _ => ff.minMax false a b) x y 0
    | _ => mapElems fmt (fun a b _ => ff.minMax true a b) x y 0

def hredOp (which : Nat) (w : CoreWords) (s : State) : Host.Outcome State Fault Refusal :=
  execCore {} w s fun i act s =>
    let a := w.gA
    let h := s.hand i.hand
    let fmt := fltFmt i act h w [a]
    match fltCheck i act h w [a] (fun t => isFloatTag t || t == 1 || t == 2) with
    | some t => .trap s t
    | none =>
      withRegs i act s [(a, .move)] w.gDst (w.lrNames a (.lit 0) (.lit 0)) fun h s =>
        let v := allLanes.map (fun t => if act.has t then some (a.word h i.uni t) else none)
        let (r, f) := hredTree (hredWord w which fmt) v
        .ok ((s.writeD i w act (fun _ => r) fmt).updHand i.hand (fun h => h.orFlags f))

/-- `hred.add`. -/
def execHredAdd : CoreWords → State → Host.Outcome State Fault Refusal := hredOp 0
/-- `hred.min`. -/
def execHredMin : CoreWords → State → Host.Outcome State Fault Refusal := hredOp 1
/-- `hred.max`. -/
def execHredMax : CoreWords → State → Host.Outcome State Fault Refusal := hredOp 2

/-! ## Compares (R347) -/

/-- A comparison of two values: its result and flags. `ordered` ones are false for a NaN and then set INV. -/
def fcmpElem (p : Ordering → Bool) (nanResult ordered : Bool) (x y : Num) : Bool × Flags :=
  let nan := x.isNaN || y.isNaN
  (if nan then nanResult else p (x.cmp y), x.sig ||| y.sig ||| (if nan && ordered then flagINV else 0))

def fcmpOp (hForm : Bool) (p : Ordering → Bool) (nanResult ordered : Bool) (w : CoreWords) (s : State) :
    Host.Outcome State Fault Refusal :=
  execCore {} w s fun i act s =>
    let a := srcA w hForm
    let b := w.gB
    let h := s.hand i.hand
    let fmt := fltFmt i act h w [a, b]
    match fltCheck i act h w [a, b] isFloatTag with
    | some t => .trap s t
    | none =>
      withRegs i act s [(a, .move), (b, .move)] [] (w.lrNames a b (.lit 0)) fun h s =>
        let ff := (FFmt.ofTag fmt).getD .f32
        let pos := w.f2 0 3 % tagElems fmt
        let r (t : Nat) : Bool × Flags :=
          fcmpElem p nanResult ordered (ff.decode (elemOf fmt (a.word h i.uni t) pos)) (ff.decode (elemOf fmt (b.word h i.uni t) pos))
        .ok ((s.writeQD i w act (fun t => (r t).1)).updHand i.hand
          (fun h => h.orFlags (act.list.foldl (fun f t => f ||| (r t).2) 0)))

/-- `fcmp.eq`. -/
def execFcmpEq : CoreWords → State → Host.Outcome State Fault Refusal := fcmpOp false (· == .eq) false false
/-- `fcmp.ne`. -/
def execFcmpNe : CoreWords → State → Host.Outcome State Fault Refusal := fcmpOp false (· != .eq) true false
/-- `fcmp.lt`. -/
def execFcmpLt : CoreWords → State → Host.Outcome State Fault Refusal := fcmpOp false (· == .lt) false true
/-- `fcmp.le`. -/
def execFcmpLe : CoreWords → State → Host.Outcome State Fault Refusal := fcmpOp false (· != .gt) false true
/-- `fcmp.un`. -/
def execFcmpUn : CoreWords → State → Host.Outcome State Fault Refusal := fcmpOp false (fun _ => false) true false
/-- `fcmp.eq`, H form. -/
def execFcmpEqH : CoreWords → State → Host.Outcome State Fault Refusal := fcmpOp true (· == .eq) false false
/-- `fcmp.ne`, H form. -/
def execFcmpNeH : CoreWords → State → Host.Outcome State Fault Refusal := fcmpOp true (· != .eq) true false
/-- `fcmp.lt`, H form. -/
def execFcmpLtH : CoreWords → State → Host.Outcome State Fault Refusal := fcmpOp true (· == .lt) false true
/-- `fcmp.le`, H form. -/
def execFcmpLeH : CoreWords → State → Host.Outcome State Fault Refusal := fcmpOp true (· != .gt) false true

/-! ## Tags (R348) -/

/-- `ftag`. -/
def execFtag (w : CoreWords) (s : State) : Host.Outcome State Fault Refusal :=
  execCore {} w s fun i act s =>
    let a := w.gA
    withRegs i act s [(a, .move)] w.gDst (w.lrNames a (.lit 0) (.lit 0)) fun h s =>
      .ok (s.writeD i w act (fun t => (a.tag h i.uni t).zeroExtend 32) 2)

/-- `stag`. -/
def execStag (w : CoreWords) (s : State) : Host.Outcome State Fault Refusal :=
  execCore {} w s fun i act s =>
    let a := w.gA
    withRegs i act s [(a, .move)] w.gDst (w.lrNames a (.lit 0) (.lit 0)) fun h s =>
      .ok (s.writeD i w act (fun t => a.word h i.uni t) w.x.fmt)

end Sys2Proof.Machine
end

