-- ==== Sys2Proof/Machine/Tile.lean ====
section
/-!
DEFINITION. Class 5: tiles, matrix operations, gang rounds and accumulator blocks (spec/15 R349 to R365), the block sums of
spec/11 R238 and R244 and the check elements of spec/09 R218, with the steps GMMA_SLICE_DONE and ACDRAIN_ADD. An
instruction is checked at issue and takes effect when its work completes in the order of its core (R353).
-/
namespace Sys2Proof.Machine

/-! ## Shapes and elements (R349, R351, R238) -/

def shRows (v : DWord) : Nat := getField v 0 9
def shCols (v : DWord) : Nat := getField v 9 9
def shTag (v : DWord) : BitVec 4 := BitVec.ofNat 4 (getField v 18 4)
def shK (v : DWord) : Bool := v.getLsbD 22
def shScl (v : DWord) : Bool := v.getLsbD 23
def shValid (v : DWord) : Bool := v.getLsbD 24

/-- Bytes of a row. -/
def rowBytes (v : DWord) : Nat :=
  match (shTag v).toNat with
  | 4 | 5 => 2 * shCols v
  | 6 | 7 => shCols v
  | 8 => shCols v / 2
  | _ => 4 * ((shCols v + 19) / 20)

/-- A value that breaks the limits of R349 and R351. -/
def shBroken (v : DWord) : Bool :=
  let side (n : Nat) : Bool := n < 8 || 256 < n || n % 8 != 0
  v >>> 25 != 0 || (shTag v).toNat < 4 || 9 < (shTag v).toNat || (shScl v && (shTag v).toNat < 6) || side (shRows v) ||
    side (shCols v) || 16384 < shRows v * rowBytes v

/-- K-blocks of a tile, bytes of its micro plane and values of its band plane. -/
def shBlocks (v : DWord) : Nat := (if shK v then shRows v else shCols v) / 8
def shLines (v : DWord) : Nat := if shK v then shCols v else shRows v
def microCount (v : DWord) : Nat := shLines v * shBlocks v
def bandCount (v : DWord) : Nat := (shLines v + 31) / 32 * shBlocks v

/-- Bytes of a tile in scratch. -/
def tileBytes (v : DWord) : Nat :=
  shRows v * rowBytes v + (if shScl v then microCount v + 2 * bandCount v else 0)

def Tile.byte (t : Tile) (i : Nat) : Nat := (t.data.getD i 0).toNat

/-- The element at a row and column before scaling. -/
def Tile.elem (t : Tile) (v : DWord) (r c : Nat) : Num × Flags :=
  let at_ := r * rowBytes v
  match (shTag v).toNat with
  | 4 => (FFmt.bf16.decode (t.byte (at_ + 2 * c) + 256 * t.byte (at_ + 2 * c + 1)), 0)
  | 5 => (FFmt.f16.decode (t.byte (at_ + 2 * c) + 256 * t.byte (at_ + 2 * c + 1)), 0)
  | 6 => (FFmt.e4m3.decode (t.byte (at_ + c)), 0)
  | 7 => (FFmt.e5m2.decode (t.byte (at_ + c)), 0)
  | 8 => (FFmt.e2m1.decode (t.byte (at_ + c / 2) / 16 ^ (c % 2) % 16), 0)
  | _ =>
    let (k, bad) := tritOf (t.byte (at_ + c / 5)) (c % 5)
    (Num.ofInt k, if bad then flagINV else 0)

/-- The product of the micro-scale and the band scale of a line (a row of A, a column of B) in a K-block; 1.0 without
scale planes. -/
def Tile.scale (t : Tile) (v : DWord) (line j : Nat) : Num × Flags :=
  if shScl v then
    let m := scaleNum ((t.micro.getD (line * shBlocks v + j) 0x60).toNat)
    let b := FFmt.bf16.decode ((t.band.getD (line / 32 * shBlocks v + j) 0x3F80).toNat)
    numMul m (b, 0)
  else (Num.ofInt 1, 0)

/-- The scaled element of a B tile at depth `k` and column `n`, and of an A tile at row `r`. -/
def Tile.bElem (t : Tile) (v : DWord) (k n : Nat) : Num × Flags := numMul (t.elem v k n) (t.scale v n (k / 8))
def Tile.aElem (t : Tile) (v : DWord) (r k : Nat) : Num × Flags := numMul (t.elem v r k) (t.scale v r (k / 8))

/-! ## Sums (R244, R218) -/

/-- acc + v rounded once to F32. -/
def accAdd (acc : Word) (v : Num × Flags) : Word × Flags :=
  let (z, f) := (FFmt.f32.decode acc.toNat).add v.1 0
  let (c, g) := FFmt.f32.round z 0 false
  (BitVec.ofNat 32 c, v.2 ||| f ||| g)

/-- One K-block of R244. -/
def blockSum (a : Tile) (va : DWord) (r : Nat) (b : Tile) (vb : DWord) (n j : Nat) : Num × Flags :=
  let s := numSum 0 ((List.range 8).map (fun i => numMul (a.elem va r (8 * j + i)) (b.elem vb (8 * j + i) n)))
  numMul s (numMul (a.scale va r j) (b.scale vb n j))

/-- An accumulator element after all K-blocks. -/
def mmaElem (a : Tile) (va : DWord) (r : Nat) (b : Tile) (vb : DWord) (n : Nat) (acc : Word) : Word × Flags :=
  (List.range (shCols va / 8)).foldl (fun x j =>
    let (w, f) := accAdd x.1 (blockSum a va r b vb n j)
    (w, x.2 ||| f)) (acc, 0)

/-- The canonical F32 NaN. -/
def nan32 : Word := 0x7FC00000

/-- A check element after a matrix operation over row `r` of A (R218). -/
def checkElem (a : Tile) (va : DWord) (r : Nat) (b : Tile) (c : Word) : Word :=
  (List.range (shCols va / 8)).foldl (fun x j =>
    (accAdd x (numSum 0 ((List.range 8).map (fun i =>
      let k := 8 * j + i
      numMul (a.aElem va r k) (FFmt.f32.decode (b.check.getD k nan32).toNat, 0))))).1) c

/-- The exact sum of F32 words. -/
def sumWords (ws : List Word) : Num := (numSum 0 (ws.map (fun w => (FFmt.f32.decode w.toNat, 0)))).1

/-- Round a value to F32. -/
def rne32 (v : Num) : Word := BitVec.ofNat 32 (FFmt.f32.round v 0 false).1

/-- Σ over n of B[k, n] for each k (R356). -/
def checkVector (t : Tile) (v : DWord) : List Word :=
  if shK v then (List.range (shRows v)).map (fun k =>
    rne32 (numSum 0 ((List.range (shCols v)).map (fun n => t.bElem v k n))).1)
  else []

/-! ## The accumulator store -/

def Core.accRow (c : Core) (r : Nat) : List Word := lookupD r (List.replicate 256 0) c.acc
def Core.chkElem (c : Core) (r : Nat) : Word := lookupD r 0 c.chk

/-- Put a row and its check element in place. -/
def Core.setRow (c : Core) (r : Nat) (row : List Word) (chk : Word) : Core :=
  let acc := c.acc.filter (fun x => x.1 ≠ r)
  let cs := c.chk.filter (fun x => x.1 ≠ r)
  { c with acc := if row.all (fun w => w == 0) then acc else (r, row) :: acc,
           chk := if chk == 0 then cs else (r, chk) :: cs }

/-- The words of a row from a column on. -/
def rowPart (row : List Word) (col n : Nat) : List Word := (List.range n).map (fun j => row.getD (col + j) 0)

/-- A word of an accumulator block is uncorrectable (R354). -/
def Core.badBlock (c : Core) (row col nr nc : Nat) : Bool :=
  c.accBad.any (fun x => row ≤ x.1 && x.1 < row + nr && col ≤ x.2 && x.2 < col + nc)

/-- The words of a block have been written. -/
def Core.freshBlock (c : Core) (row col nr nc : Nat) : Core :=
  { c with accBad := c.accBad.filter (fun x => !(row ≤ x.1 && x.1 < row + nr && col ≤ x.2 && x.2 < col + nc)) }

/-- An error in a stored word of a tile, at a row and a byte of it, for tiles 0 to 15, or else of the accumulator store. -/
def State.hitTile (s : State) (c tile row col : Nat) : State :=
  s.updCore c (fun y =>
    if tile < 16 then { y with tiles := putAt 16 Tile.init (fun t => { t with hit := (row * rowBytes t.tsh + col) / 8 :: t.hit }) tile y.tiles }
    else { y with accBad := (row % 256, col % 256) :: y.accBad })

/-- A row with the words from a column on replaced. -/
def putRow (row : List Word) (col : Nat) (ws : List Word) : List Word :=
  (List.range 256).map (fun j => if col ≤ j ∧ j < col + ws.length then ws.getD (j - col) 0 else row.getD j 0)

/-- Work has completed. -/
def State.endWork (s : State) (c id : Nat) : State :=
  let s := s.dropWork c id
  s.kick (s.core c).work.length c

/-! ## Engine accesses (R181) -/

/-- Writes of bytes over a list of 64-byte lines from an offset in the first one. -/
def lineChunks : List Nat → Nat → List (BitVec 8) → List Chunk
  | [], _, _ => []
  | l :: ls, off, bs => chunksOf (l + off) (bs.take (64 - off)) ++ lineChunks ls 0 (bs.drop (64 - off))

/-- Writes of bytes at a place in a block of lines. -/
def blockChunks (lines : List Nat) (off at_ : Nat) (bs : List (BitVec 8)) : List Chunk :=
  lineChunks (lines.drop ((off + at_) / 64)) ((off + at_) % 64) bs

/-- The lines of a range that lies in one piece. -/
def linesOf (loc n : Nat) : List Nat := (List.range ((loc % 64 + n + 63) / 64)).map (fun i => loc - loc % 64 + 64 * i)

/-- Two lists have a member in common. -/
def meets (a b : List Nat) : Bool := a.any (fun x => b.contains x)

def rowsFrom (r n : Nat) : List Nat := (List.range n).map (fun i => r + i)

/-! ## What work does when it completes -/

/-- The result of work: a state with flags, the engine thread's view and its writes to memory, or a kill of the hand's gang, with the
writes made before. -/
inductive TileOut where
  | ok (s : State) (f : Flags) (v : View) (ws : List Chunk)
  | kill (s : State) (code : BitVec 8) (ws : List Chunk)

/-- A tile from its bytes in scratch (R356). -/
def tileOf (v : DWord) (bs : List (BitVec 8)) : Tile :=
  let n := shRows v * rowBytes v
  let m := if shScl v then microCount v else 0
  let b := if shScl v then bandCount v else 0
  let t : Tile :=
    { tsh := v, data := bs.take n, micro := (bs.drop n).take m,
      band := (List.range b).map (fun i => BitVec.ofNat 16 (leNat ((bs.drop (n + m + 2 * i)).take 2))), check := [], bad := [], hit := [] }
  { t with check := checkVector t v }

/-- Rows of a tile that hold uncorrectable data under a shape (R354): those whose bytes lie in an uncorrectable word, and all of them when
one lies in a plane. -/
def Tile.badRows (t : Tile) (v : DWord) : List Nat :=
  let words := t.bad ++ t.hit
  if words.any (fun u => shRows v * rowBytes v ≤ 8 * u) then List.range (shRows v)
  else (List.range (shRows v)).filter (fun r => words.any (fun u => 8 * u < (r + 1) * rowBytes v && r * rowBytes v < 8 * u + 8))

/-- The bytes of a row as `tst` writes them: in a T5 tile, trits past COLS as 0 (R351). -/
def storedRow (t : Tile) (v : DWord) (r : Nat) : List (BitVec 8) :=
  (List.range (rowBytes v)).map (fun i =>
    let b := t.byte (r * rowBytes v + i)
    if shTag v == 9 then BitVec.ofNat 8 (if 5 * i + 5 ≤ shCols v then b else b % 3 ^ (shCols v - 5 * i)) else BitVec.ofNat 8 b)

/-- The bytes of a tile in scratch. -/
def storedTile (t : Tile) (v : DWord) : List (BitVec 8) :=
  (List.range (shRows v)).foldr (fun r acc => storedRow t v r ++ acc) [] ++
    (if shScl v then
      (List.range (microCount v)).map (fun i => t.micro.getD i 0x60) ++
        fieldsOf 2 ((List.range (bandCount v)).map (fun i => (t.band.getD i 0x3F80).toNat))
    else [])

/-- The matrix operation over rows of A into a core's accumulator (R358, R218). -/
def Core.mma (c : Core) (row col : Nat) (a : Tile) (va : DWord) (b : Tile) (vb : DWord) (rows : List Nat) : Core × Flags :=
  (List.range rows.length).foldl (fun (x : Core × Flags) m =>
    let r := rows.getD m 0
    let old := x.1.accRow (row + m)
    let es := (List.range (shCols vb)).map (fun n => mmaElem a va r b vb n (old.getD (col + n) 0))
    (x.1.setRow (row + m) (putRow old col (es.map Prod.fst)) (checkElem a va r b (x.1.chkElem (row + m))),
      es.foldl (fun f e => f ||| e.2) x.2)) (c, 0)

/-- A check element after a block write of a row: set for a full row, else corrected by the change of the sum (R363). -/
def chkAfter (full : Bool) (c : Word) (old new : List Word) : Word :=
  if full then rne32 (sumWords new)
  else rne32 (((FFmt.f32.decode c.toNat).add (sumWords new) 0).1.add (sumWords old).neg 0).1

/-- Write a block of words into the accumulator (R363). -/
def Core.writeBlock (c : Core) (row col nr nc : Nat) (f : Nat → List Word) : Core :=
  (List.range nr).foldl (fun (c : Core) m =>
    let old := c.accRow (row + m)
    c.setRow (row + m) (putRow old col (f m)) (chkAfter (nc == 256) (c.chkElem (row + m)) (rowPart old col nc) (f m))) c

/-- Add a block into the accumulator of a target core (R364). -/
def Core.addBlock (c : Core) (row col nr : Nat) (f : Nat → List Word) : Core × Flags :=
  (List.range nr).foldl (fun (x : Core × Flags) m =>
    let old := x.1.accRow (row + m)
    let vs := f m
    let es := (List.range vs.length).map (fun j => accAdd (old.getD (col + j) 0) (FFmt.f32.decode (vs.getD j 0).toNat, 0))
    let chk := rne32 ((FFmt.f32.decode (x.1.chkElem (row + m)).toNat).add (sumWords vs) 0).1
    (x.1.setRow (row + m) (putRow old col (es.map Prod.fst)) chk, es.foldl (fun f e => f ||| e.2) x.2)) (c, 0)

/-- The check of an accumulator row by `epi` (R218): passed, not checked, or CHKSUM. -/
inductive RowCheck where
  | passed | unchecked | failed
  deriving DecidableEq, Repr

def Num.abs : Num → Num
  | .nan s => .nan s
  | .inf _ => .inf false
  | .fin _ m e => .fin false m e

def Num.isFin : Num → Bool
  | .fin _ _ _ => true
  | _ => false

def Core.checkRow (c : Core) (r : Nat) : RowCheck :=
  let row := c.accRow r
  let t := FFmt.f32.decode (rne32 (sumWords row)).toNat
  let k := FFmt.f32.decode (c.chkElem r).toNat
  if !t.isFin || !k.isFin then .unchecked
  else
    let a := (numSum 0 (row.map (fun w => ((FFmt.f32.decode w.toNat).abs, 0)))).1
    let diff := (t.add k.neg 0).1.abs
    let bound := ((a.add k.abs 0).1.mul (.fin false 1 (-12))).1
    if diff.cmp bound == .gt then .failed else .passed

/-- One element of `epi` (R365). -/
def epiElem (scale : Word) (act : Nat) (bias : Option Word) (fmt : BitVec 4) (rnd : Nat) (sat : Bool) (acc : Word) :
    Nat × Flags :=
  let (p, f) := (FFmt.f32.decode acc.toNat).mul (FFmt.f32.decode scale.toNat)
  let (y, g) := match bias with
    | some b => p.add (FFmt.f32.decode b.toNat) 0
    | none => (p, 0)
  let (y, h) := FFmt.f32.round y 0 false
  let (y, k) :=
    if act = 1 then
      let v := FFmt.f32.decode y
      (if !v.isNaN && v.cmp (.fin false 0 0) != .gt then 0 else y, 0)
    else if act = 2 then FFmt.f32.elementary 4 y 0 false
    else (y, 0)
  let (out, m) := ((FFmt.ofTag fmt).getD .f32).round (FFmt.f32.decode y) rnd sat
  (out, f ||| g ||| h ||| k ||| m)

/-- An output row, packed low first. -/
def packBytes (width : Nat) (xs : List Nat) : List (BitVec 8) := leBytes (packElems width xs) (xs.length * width / 8)

/-- The rows of `epi` in order: a row that fails its check kills, and rows already written stay written (R365). -/
def State.epiRows (c row col nc : Nat) (lines : List Nat) (off : Nat) (elem : Nat → Word → Nat × Flags) (width hand : Nat) :
    List Nat → State → Flags → View → List Chunk → TileOut
  | [], s, f, v, ws => .ok s f v ws
  | m :: ms, s, f, v, ws =>
    let core := s.core c
    match core.checkRow (row + m) with
    | .failed => .kill s 0x16 ws
    | res =>
      let s := if res == .unchecked then s.updSaved hand (fun h => h.addUnchecked 1) else s
      let es := (List.range nc).map (fun j => elem j ((core.accRow (row + m)).getD (col + j) 0))
      State.epiRows c row col nc lines off elem width hand ms s (es.foldl (fun f e => f ||| e.2) f) v
        (ws ++ blockChunks lines off (m * (nc * width / 8)) (packBytes width (es.map Prod.fst)))

/-- The cluster's bank and the Magpie log an uncorrectable word of a tile (unit 1) or of the accumulator store (unit 2); LOC is a free value
(R222). -/
def State.logTile (s : State) (c : Nat) (unit : BitVec 4) : State :=
  (s.updCluBank c (fun b => b.uncorrectable unit ((Config.freeWord s.tick).setWidth 8) (Config.freeDWord s.tick))).magpie (coreDie c) unitBank 0x12
    [unit.toNat]

/-- The uncorrectable words that an operation would read, before it writes any element (R354): of tiles, or of the accumulator store. -/
def TileOp.meetsBad (core : Core) (shA shB : DWord) : TileOp → Option (BitVec 4)
  | .store t _ => tileHit t shA none
  | .mma row col ta tb rows =>
    match tileHit ta shA (some rows), tileHit tb shB none with
    | some u, _ => some u
    | none, some u => some u
    | none, none => accHit (core.badBlock row col rows.length (shCols shB))
  | .acz row col nr nc | .acld row col nr nc _ => accHit (nc ≠ 256 && core.badBlock row col nr nc)
  | .acst row col nr nc _ _ | .drain row col nr nc _ _ _ => accHit (core.badBlock row col nr nc)
  | .sums row col vals => accHit (core.badBlock row col vals.length ((vals.headD []).length))
  | .epi row _ nr _ _ _ _ _ _ _ _ _ => accHit (core.badBlock row 0 nr 256)
  | _ => none
where
  tileHit (t : Nat) (v : DWord) (rows : Option (List Nat)) : Option (BitVec 4) :=
    let bad := (core.tiles.getD t Tile.init).badRows v
    if (match rows with | some rs => meets bad rs | none => !bad.isEmpty) then some 1 else none
  accHit (b : Bool) : Option (BitVec 4) := if b then some 2 else none

/-- Do a core's work (R356 to R365) that meets no uncorrectable word of its own core. -/
def State.runWork (s : State) (c : Nat) (x : TileWork) (picks : List Nat) : TileOut :=
  let core := s.core c
  let v := s.forkView x.fork
  let tile (t : Nat) : Tile := core.tiles.getD t Tile.init
  match x.op with
  | .cfg _ | .bcast _ _ | .slice _ _ _ _ => .ok s 0 v []
  | .load t loc failed =>
    let (bs, bad, v) := s.engRead ((x.seen :: s.windowViews loc (tileBytes x.shA)).foldl View.join v) loc (tileBytes x.shA) picks
    let s := bad.foldl State.logUE s
    if bad.any (fun w => !(s.writeAt w (v.get w)).marked) then .kill s 0x12 []
    else
      let words := if failed then List.range ((tileBytes x.shA + 7) / 8) else bad.map (fun w => (w - loc) / 8)
      .ok (s.updCore c (fun y => { y with tiles := putAt 16 Tile.init (fun old => { tileOf x.shA bs with tsh := old.tsh, bad := words }) t y.tiles })) 0 v []
  | .store t loc =>
    .ok s 0 v (chunksOf loc (storedTile (tile t) x.shA))
  | .mma row col ta tb rows =>
    let (core, f) := core.mma row col (tile ta) x.shA (tile tb) x.shB rows
    .ok (s.updCore c (fun _ => core)) f v []
  | .acz row col nr nc =>
    let zeros := List.replicate nc (0 : Word)
    let chk (m : Nat) : Word :=
      if nc = 256 then 0
      else rne32 ((FFmt.f32.decode (core.chkElem (row + m)).toNat).add (sumWords (rowPart (core.accRow (row + m)) col nc)).neg 0).1
    .ok (s.updCore c (fun y => ((List.range nr).foldl (fun (y : Core) m =>
      y.setRow (row + m) (putRow (y.accRow (row + m)) col zeros) (chk m)) y).freshBlock row col nr nc)) 0 v []
  | .acld row col nr nc loc =>
    let (bs, bad, v) := s.engRead v loc (4 * nr * nc) picks
    let s := bad.foldl State.logUE s
    if !bad.isEmpty then .kill s 0x12 []
    else
      let word (i : Nat) : Word := BitVec.ofNat 32 (leNat ((bs.drop (4 * i)).take 4))
      .ok (s.updCore c (fun y =>
        (y.writeBlock row col nr nc (fun m => (List.range nc).map (fun j => word (m * nc + j)))).freshBlock row col nr nc)) 0 v []
  | .acst row col nr nc lines off =>
    let out (m : Nat) : List Chunk := blockChunks lines off (m * (4 * nc)) (fieldsOf 4 ((rowPart (core.accRow (row + m)) col nc).map BitVec.toNat))
    .ok s 0 v ((List.range nr).foldr (fun m acc => out m ++ acc) [])
  | .drain _ _ _ _ _ _ _ => .ok s 0 v []
  | .sums row col vals =>
    let (y, f) := core.addBlock row col vals.length (fun m => vals.getD m [])
    .ok (s.updCore c (fun _ => y)) f v []
  | .epi row col nr nc lines off scale act bias fmt rnd sat =>
    let (bs, bad, v) := match bias with
      | some loc => s.engRead v loc (4 * nc) picks
      | none => ([], [], v)
    let s := bad.foldl State.logUE (match bias with | some loc => s.crossHome (coreDie c) loc | none => s)
    if !bad.isEmpty then .kill s 0x12 []
    else
      let b (j : Nat) : Option Word := bias.map (fun _ => BitVec.ofNat 32 (leNat ((bs.drop (4 * j)).take 4)))
      State.epiRows c row col nc lines off (fun j a => epiElem scale act (b j) fmt rnd sat a) (elemBits fmt) x.fork.hand
        (List.range nr) s 0 v []

/-- Work may start (R181, R353, R159): older stores of its issuer have drained, nothing before it in its core's order
holds it, and no window under a loaded range is filling. -/
def State.workReady (s : State) (c : Nat) (x : TileWork) : Bool :=
  s.forkReady x.fork && !conflicts ((s.core c).before x.id) x.reads x.writes &&
    (match x.op with
    | .load _ loc _ => (s.fillingAt loc (tileBytes x.shA)).isNone
    | _ => true)

/-- Where work stores to. -/
def TileOp.target : TileOp → Option Nat
  | .store _ loc => some loc
  | .acst _ _ _ _ lines _ => lines.head?
  | .epi _ _ _ _ lines _ _ _ _ _ _ _ => lines.head?
  | _ => none

/-- A twin's store outside its scratch changes no memory (R216). -/
def State.twinQuiet (s : State) (k : Nat) (op : TileOp) : Bool := (s.hand k).pair == 2 && op.target.any (fun a => spaceOf a != .scratch)

def State.updWork (s : State) (c wid : Nat) (f : TileWork → TileWork) : State :=
  s.updCore c (fun y => { y with work := updWhere (fun x => x.id = wid) f y.work })

/-- What work of a core does that may start and has not been done. -/
def State.workOut (s : State) (c : Nat) (x : TileWork) (picks : List Nat) : Option TileOut :=
  if x.ran.isSome || !s.workReady c x then none
  else some (match x.op.meetsBad (s.core c) x.shA x.shB with
    | some u => TileOut.kill (if (s.core c).tiles.all (fun t => t.hit.isEmpty) && u == 1 then s else s.logTile c u) 0x12 []
    | none => s.runWork c x picks)

/-- The writes of work that go to memory: a twin's only to its scratch. -/
def State.workWrites (s : State) (k : Nat) (x : TileWork) (ws : List Chunk) : List Chunk := if s.twinQuiet k x.op then [] else ws

/-- Work kills its hand's gang, with the writes made before in place. -/
def State.workKills (s : State) (k c : Nat) (x : TileWork) (code : BitVec 8) (ws : List Chunk) : State :=
  let s := (State.writeChunks (coreParty c) (s.workWrites k x ws) (s, s.forkView x.fork)).1
  if (s.hand k).state == .killed then s.endWork c x.id else s.killGang k code (some x.pc) false

/-- Work of a hand is done; its writes to memory are still to drain. -/
def State.doWork (s : State) (k c : Nat) (x : TileWork) (picks : List Nat) : State :=
  match s.workOut c x picks with
  | none => s
  | some (.kill s code ws) => s.workKills k c x code ws
  | some (.ok s' f v ws) =>
    s'.updWork c x.id (fun y => { y with ran := some f, wait := s.workWrites k x ws, fork := { y.fork with view := v, started := true } })

/-- The write of a core's work at some place drains. -/
def State.workDrain (s : State) (c wid n : Nat) : State :=
  match (s.core c).work.find? (fun x => x.id = wid) with
  | none => s
  | some x => match x.wait[n]? with
    | none => s
    | some w =>
      let (s, v) := State.writeChunks (coreParty c) [w] (s, x.fork.view)
      s.updWork c wid (fun x => { x with wait := x.wait.eraseIdx n, fork := { x.fork with view := v } })

/-- The places that output row `m` of `acst` or `epi` is written to. -/
def TileOp.rowPlaces (m : Nat) : TileOp → List Nat
  | .acst _ _ _ nc lines off => (blockChunks lines off (m * (4 * nc)) (List.replicate (4 * nc) 0)).map Prod.fst
  | .epi _ _ _ nc lines off _ _ _ fmt _ _ =>
    let n := nc * elemBits fmt / 8
    (blockChunks lines off (m * n) (List.replicate n 0)).map Prod.fst
  | _ => []

/-- The CRC that `epi` and `acst` attach to the bytes of an output row (R219). -/
def rowCrc (bs : List (BitVec 8)) : BitVec 64 := crcBytes 0 bs

/-- An output row reaches its home, or scratch, as some bytes (R219): when their CRC is not the row's, nothing of the row is written, and
CHKSUM kills the issuing hand. A row of which a part has been written has passed. -/
def State.rowArrives (s : State) (c wid m : Nat) (arrived : List (BitVec 8)) : State :=
  match (s.core c).work.find? (fun x => x.id = wid) with
  | none => s
  | some x =>
    let places := x.op.rowPlaces m
    let mine := x.wait.filter (fun y => places.contains y.1)
    if mine.isEmpty || mine.length != places.length || rowCrc arrived == rowCrc (mine.foldr (fun y acc => y.2 ++ acc) []) then s
    else if (s.hand x.fork.hand).state == .killed then s.endWork c wid
    else s.killGang x.fork.hand 0x16 (some x.pc) false

/-- The block of an `acdrain` has been read on its core and reaches the target core, whose order it enters (R353, R364). -/
def State.moveDrain (s : State) (k id c : Nat) (x : TileWork) : State :=
  match x.op with
  | .drain row col nr nc target trow tcol =>
    if !s.workReady c x then s
    else match x.op.meetsBad (s.core c) 0 0 with
      | some u => if (s.hand k).state == .killed then s.endWork c x.id else (s.logTile c u).killGang k 0x12 (some x.pc) false
      | none =>
        let vals := (List.range nr).map (fun m => rowPart ((s.core c).accRow (row + m)) col nc)
        let s := (s.endWork c x.id).addWork target { x with op := .sums trow tcol vals }
        s.updOutst k id (fun o => { o with work := .tile target x.id })
  | _ => s

/-- A part of a hand's tile work: it is done, or one of its writes drains. -/
def State.workStep (s : State) (c wid : Nat) (pick : Option Nat) (picks : List Nat) : State :=
  match (s.core c).work.find? (fun x => x.id = wid), pick with
  | some _, some n => s.workDrain c wid n
  | some x, none => match x.op with
    | .cfg _ | .bcast _ _ | .slice _ _ _ _ | .sums _ _ _ => s
    | .drain _ _ _ _ _ _ _ =>
      let k := x.fork.hand
      match (s.hand k).outst.find? (fun o => o.work == .tile c wid) with
      | some o => s.moveDrain k o.id c x
      | none => s.endWork c wid
    | _ => s.doWork x.fork.hand c x picks
  | none, _ => s

/-- Work has been done and its last writes drain: its result returns, with its flags and its join at a switch marker (R182). -/
def State.tileReturns (s : State) (k id c wid : Nat) (f : Flags) (v : View) (ws : List Chunk) : State :=
  let (s, v) := State.writeChunks (coreParty c) ws (s, v)
  let s := s.updOutst k id (fun o =>
    { o with back := o.lanes, flags := o.flags ||| f, owed := o.owed ++ o.split.list.map (fun t => (t, v)) })
  (s.endWork c wid).returnResult k id

/-- Complete a tile result of a hand. -/
def State.completeTile (s : State) (k id c wid : Nat) (picks : List Nat) : State :=
  let s := s.kick (s.core c).work.length c
  match (s.core c).work.find? (fun x => x.id = wid) with
  | none => s
  | some x => match s.workOut c x picks, x.ran with
    | some (.kill s code ws), _ => s.workKills k c x code ws
    | some (.ok s' f v ws), _ => s'.tileReturns k id c wid f v (s.workWrites k x ws)
    | none, some f => s.tileReturns k id c wid f x.fork.view x.wait
    | none, none => s

/-- ACDRAIN_ADD: a drain reaches its target core, or the core applies its sums (R364). -/
def execAcdrainAdd (s : State) : Host.Outcome State Fault Refusal :=
  let k := s.args.n
  match (s.hand k).outst.find? (fun o => o.id = s.args.m && !o.returned) with
  | none => .next s
  | some o =>
    match o.work with
    | .tile c wid =>
      match (s.core c).work.find? (fun x => x.id = wid) with
      | some x => match x.op with
        | .drain _ _ _ _ _ _ _ => .next (s.moveDrain k o.id c x)
        | .sums _ _ _ => .next (s.completeTile k o.id c wid [])
        | _ => .next s
      | none => .next s
    | _ => .next s

/-! ## Issue -/

/-- ACCBND (R144, R352): INFO holds the first row past 255, or the block's first row when only the columns overflow. -/
def accBound (i : SplitIssue) (act : Lanes) (row nr col nc : Nat) : Option TrapInfo :=
  if 256 < row + nr then some (i.faultW act 0x19 (BitVec.ofNat 16 (max row 256)))
  else if 256 < col + nc then some (i.faultW act 0x19 (BitVec.ofNat 16 row))
  else none

/-- TILEX with the shape register of a tile (R208). -/
def tilex (i : SplitIssue) (act : Lanes) (v : DWord) : TrapInfo := i.fault act 0x18 0 v act

/-- The shape of a tile of the issuing core. -/
def State.shapeOf (s : State) (i : SplitIssue) (t : Nat) : DWord := ((s.core i.core).tiles.getD t Tile.init).tsh

/-- Work as it issues; the numbers of the other work of the same step follow its own. -/
def newWork (s : State) (i : SplitIssue) (op : TileOp) (shA shB : DWord) : TileWork :=
  { id := 8 * s.tick, pc := i.pc, op := op, shA := shA, shB := shB, fork := (s.hand i.hand).fork i.lanes.list,
    seen := match op with | .load _ loc _ => (s.windowViews loc (tileBytes shA)).foldl View.join [] | _ => [] }

/-- In a handler, an instruction that reads what work in flight on its core will write parks its split until that has completed (R202). -/
def State.parkHandler (s : State) (i : SplitIssue) (rd : List TileRes) : Option State :=
  let first := (s.core i.core).work.find? (fun e => meetsRes e.writes rd)
  match (if (i.lanes &&& (s.hand i.hand).trapMode) != 0 then first else none) with
  | some e => some (s.updHand i.hand (fun h => { h with parks := h.parks ++ [(i.lanes, .tile e.id)] }))
  | none => none

/-- Work with an outstanding result enters its core's order. -/
def State.issueTile (s : State) (i : SplitIssue) (act : Lanes) (op : TileOp) (shA shB : DWord) : Done :=
  let x := newWork s i op shA shB
  match s.parkHandler i x.needs with
  | some s => .stall s
  | none =>
    .ok ((s.addWork i.core x).addOutst i.hand act (.tile i.core x.id) [] 0 0)

/-- The address of `tld` and `tst`: hA[31:0] + OFF, with hA[63:32], which must be 0. -/
def tileAddr (w : CoreWords) (a : DWord) : DWord :=
  (a &&& 0xFFFFFFFF00000000) ||| ((a.setWidth 32 : Word) + w.x.w2).zeroExtend 64

/-- The scratch range of a tile under its captured shape. -/
def tileAccess (acc : Access) (k : SplitIssue → Lanes → State → Nat → DWord → Done) (w : CoreWords) (i : SplitIssue)
    (act : Lanes) (s : State) : Done :=
  withRegs i act s [(w.hA, .move)] [] [] fun h s =>
    let v := s.shapeOf i w.nameD
    if !shValid v || shBroken (v &&& ~~~((1 : DWord) <<< 24)) then .trap s (tilex i act v)
    else match s.checkAccess i act true acc 64 (tileBytes v) (fun _ => tileAddr w (uniVal i act h w.nameA)) with
      | .error (s', t) => .trap s' t
      | .ok (locs, s) => k i act s (((locs.head?).map Prod.snd).getD 0) v

/-- `tld` (R356). -/
def execTld (w : CoreWords) (s : State) : Host.Outcome State Fault Refusal :=
  execCore { outside := true } w s (tileAccess .read (fun i act s loc v =>
    let s := s.touchRange (s.hand i.hand) act.list loc (tileBytes v)
    s.issueTile i act (.load w.nameD loc false) v 0) w)

/-- `tst` (R356). -/
def execTst (w : CoreWords) (s : State) : Host.Outcome State Fault Refusal :=
  execCore { outside := true, edge := true } w s (tileAccess .write (fun i act s loc v =>
    s.issueTile i act (.store w.nameD loc) v 0) w)

/-- `tcfg` (R350). Without a literal the literal form reads 0 (R252), a shape that raises TILEX. -/
def execTcfg (w : CoreWords) (s : State) : Host.Outcome State Fault Refusal :=
  execCore {} w s fun i act s =>
    let lit := w.nameB = w.zeroName
    withRegs i act s (if lit then [] else [(w.hA, .move)]) [] [] fun h s =>
      let v := (if lit then w.litVal else uniVal i act h w.nameA) &&& ~~~((1 : DWord) <<< 24)
      if shBroken v then .trap s (tilex i act (s.shapeOf i w.nameD))
      else
        let s := s.updCore i.core (fun c => { c with tiles := putAt 16 Tile.init (fun t => { t with tsh := v ||| (1 <<< 24) }) w.nameD c.tiles })
        let s := s.addWork i.core (newWork s i (.cfg w.nameD) v 0)
        .ok (s.kick (s.core i.core).work.length i.core)

/-- The tag pairs of R357. -/
def mmaPair (a b : BitVec 4) : Bool := dotPair a b || (a == 4 && b == 4) || (a == 5 && b == 5)

/-- The base row of an accumulator block: hA + ROW as a 64-bit value. -/
def accRow0 (w : CoreWords) (a : DWord) : Nat := (a + BitVec.ofNat 64 (w.f2 0 8)).toNat

/-- `mma` and `mma.win`: `rows` gives the rows of A that are read, or TILEX. -/
def mmaOp (col : CoreWords → Nat) (rows : CoreWords → DWord → Option (List Nat)) (w : CoreWords) (s : State) :
    Host.Outcome State Fault Refusal :=
  execCore { outside := true } w s fun i act s =>
    withRegs i act s [(w.hA, .move)] [] [] fun h s =>
      let ta := w.nameB
      let tb := w.nameC
      let va := s.shapeOf i ta
      let vb := s.shapeOf i tb
      let row := accRow0 w (uniVal i act h w.nameA)
      if !mmaPair (shTag va) (shTag vb) then .trap s (litMis i act tb (shTag vb))
      else if shK va then .trap s (tilex i act va)
      else if !shK vb || shCols va ≠ shRows vb then .trap s (tilex i act vb)
      else match rows w va with
        | none => .trap s (tilex i act va)
        | some rs => match accBound i act row rs.length (col w) (shCols vb) with
          | some t => .trap s t
          | none => s.issueTile i act (.mma row (col w) ta tb rs) va vb

/-- `mma` (R358). -/
def execMma : CoreWords → State → Host.Outcome State Fault Refusal :=
  mmaOp (fun w => w.f2 8 8) (fun _ va => some (List.range (shRows va)))

/-- `mma.win` (R359). -/
def execMmaWin : CoreWords → State → Host.Outcome State Fault Refusal :=
  mmaOp (fun w => w.f2 24 8) (fun w va =>
    let width := w.f2 13 6
    let r (m : Nat) : Nat := (m / width + w.f2 19 2) * (width + 3) + m % width + w.f2 21 2
    let n := 8 * (w.f2 8 5 + 1)
    if shRows va ≤ r (n - 1) then none else some ((List.range n).map r))

/-- `acz` (R363). -/
def execAcz (w : CoreWords) (s : State) : Host.Outcome State Fault Refusal :=
  execCore { outside := true } w s fun i act s =>
    withRegs i act s [(w.hA, .move)] [] [] fun h s =>
      let row := accRow0 w (uniVal i act h w.nameA)
      let nr := w.f2 16 8 + 1
      let nc := 8 * (w.f2 24 5 + 1)
      match accBound i act row nr (w.f2 8 8) nc with
      | some t => .trap s t
      | none => s.issueTile i act (.acz row (w.f2 8 8) nr nc) 0 0

/-- `acld` (R363). -/
def execAcld (w : CoreWords) (s : State) : Host.Outcome State Fault Refusal :=
  execCore { outside := true } w s fun i act s =>
    withRegs i act s [(w.hA, .move), (w.hB, .move)] [] [] fun h s =>
      let row := accRow0 w (uniVal i act h w.nameA)
      let nr := w.f2 16 8 + 1
      let nc := 8 * (w.f2 24 5 + 1)
      match accBound i act row nr (w.f2 8 8) nc with
      | some t => .trap s t
      | none => match s.checkAccess i act true .read 16 (4 * nr * nc) (fun _ => uniVal i act h w.nameB) with
        | .error (s', t) => .trap s' t
        | .ok (locs, s) => s.issueTile i act (.acld row (w.f2 8 8) nr nc (((locs.head?).map Prod.snd).getD 0)) 0 0

/-- A destination in device memory: 16-byte aligned, every 64-byte line translated, TIER 0 and writable (R363). -/
def State.memLines (s : State) (i : SplitIssue) (act : Lanes) (va : DWord) (n : Nat) :
    Except (State × TrapInfo) (List Nat × Nat × State) :=
  let h := s.hand i.hand
  let off := va.toNat % 64
  let lines := (List.range ((off + n + 63) / 64)).map (fun j => va - BitVec.ofNat 64 off + BitVec.ofNat 64 (64 * j))
  let x (a : DWord) : Xlat := s.translate h.asid a .write
  let prot (a : DWord) : Bool := match x a with
    | .prot => true
    | .ok loc _ => spaceOf loc != .device
    | .page _ _ => false
  let page (a : DWord) : Bool := match x a with | .page _ _ => true | _ => false
  let fault (code : BitVec 8) (a : DWord) : TrapInfo := i.fault act code 0 (if a.toNat < va.toNat then va else a) act
  if va.toNat % 16 ≠ 0 then .error (s, i.fault act 0x09 0 va act)
  else match lines.find? prot, lines.find? page with
    | some a, _ => .error (s, fault 0x0A a)
    | none, some a => .error (lines.foldl (fun s a => match s.translate h.asid a .write with
        | .page home e => s.requestPage h.core h.asid a home e
        | _ => s) s, fault 0x0B a)
    | none, none =>
      .ok (lines.map (fun a => match x a with | .ok loc _ => loc | _ => 0), off,
        s.tlbAddAll (lines.filterMap (fun a => match x a with | .ok _ e => some e | _ => none)))

/-- The destination of `acst` and `epi`: scratch, or device memory with MEM 1. -/
def State.blockDest (s : State) (i : SplitIssue) (act : Lanes) (mem : Bool) (a : DWord) (n : Nat) :
    Except (State × TrapInfo) (List Nat × Nat × State) :=
  if mem then s.memLines i act a n
  else match s.checkAccess i act true .write 16 n (fun _ => a) with
    | .error e => .error e
    | .ok (locs, s) =>
      let loc := ((locs.head?).map Prod.snd).getD 0
      .ok (linesOf loc n, loc % 64, s)

/-- `acst` (R363). -/
def execAcst (w : CoreWords) (s : State) : Host.Outcome State Fault Refusal :=
  execCore { outside := true, edge := true } w s fun i act s =>
    withRegs i act s [(w.hA, .move), (w.hB, .move)] [] [] fun h s =>
      let row := accRow0 w (uniVal i act h w.nameA)
      let nr := w.f2 16 8 + 1
      let nc := 8 * (w.f2 24 5 + 1)
      match accBound i act row nr (w.f2 8 8) nc with
      | some t => .trap s t
      | none => match s.blockDest i act (w.f2 29 1 == 1) (uniVal i act h w.nameB) (4 * nr * nc) with
        | .error (s', t) => .trap s' t
        | .ok (lines, off, s) => s.issueTile i act (.acst row (w.f2 8 8) nr nc lines off) 0 0

/-- `acdrain` (R364). -/
def execAcdrain (w : CoreWords) (s : State) : Host.Outcome State Fault Refusal :=
  execCore { outside := true, edge := true } w s fun i act s =>
    withRegs i act s [(w.hA, .move), (w.hB, .move)] [] [] fun h s =>
      let row := accRow0 w (uniVal i act h w.nameA)
      let b := uniVal i act h w.nameB
      let nr := w.f2 16 8 + 1
      let nc := 8 * (w.f2 24 5 + 1)
      let trow := getField b 0 8
      let tcol := getField b 8 8
      let clu := getField b 21 5
      match accBound i act row nr (w.f2 8 8) nc, accBound i act trow nr tcol nc with
      | some t, _ => .trap s t
      | none, some t => .trap s t
      | none, none =>
        if b >>> 26 != 0 || !(s.part h.part).cfg.clusters.getLsbD clu then .trap s (i.fault act 0x0A 0 b act)
        else s.issueTile i act (.drain row (w.f2 8 8) nr nc (32 * clu + getField b 16 5) trow tcol) 0 0

/-- `epi` (R365). -/
def execEpi (w : CoreWords) (s : State) : Host.Outcome State Fault Refusal :=
  execCore { outside := true, edge := true } w s fun i act s =>
    withRegs i act s [(w.hA, .move), (w.hB, .move), (.h w.nameC, .move)] [] [] fun h s =>
      let a := uniVal i act h w.nameA
      let c := uniVal i act h w.nameC
      let row := getField a 0 32 + w.f2 0 8
      let nr := w.f2 16 8 + 1
      let nc := 8 * (w.f2 24 5 + 1)
      let bits_ := elemBits w.x.fmt
      let bias := getField a 32 32
      if getField c 32 2 = 3 || c >>> 34 != 0 then .trap s (i.fault act 0x18 0 c act)
      else match accBound i act row nr (w.f2 8 8) nc with
        | some t => .trap s t
        | none =>
          let biasAt : Except (State × TrapInfo) (Option Nat × State) :=
            if bias = 0 then .ok (none, s)
            else match s.checkAccess i act true .read 4 (4 * nc) (fun _ => BitVec.ofNat 64 bias) with
              | .error e => .error e
              | .ok (locs, s) => .ok ((locs.head?).map Prod.snd, s)
          match biasAt with
          | .error (s', t) => .trap s' t
          | .ok (bl, s) =>
            match s.blockDest i act (w.f2 29 1 == 1) (uniVal i act h w.nameB) (nr * nc * bits_ / 8) with
            | .error (s', t) => .trap s' t
            | .ok (lines, off, s) =>
              s.issueTile i act (.epi row (w.f2 8 8) nr nc lines off (c.setWidth 32) (getField c 32 2) bl w.x.fmt
                w.x.rnd.toNat w.x.sat) 0 0

/-! ## Gang rounds (R360 to R362) -/

/-- The code of the first fire check that fails (R361). -/
def fireCode (members : List Hand) : Option Nat :=
  let as := members.filterMap Hand.arrival
  let lead := (as.head?.map Arrival.lead).getD 0
  let la := ((members.find? (fun h => getField h.gang 3 3 == lead)).bind Hand.arrival).getD default
  if as.any (fun a => a.lead ≠ lead) then some 0x0A
  else if as.any (fun a => shCols la.shA ≠ shRows a.shB) then some 0x18
  else if as.any (fun a => 256 < a.row + shRows la.shA) then some 0x19
  else if as.any (fun a => !mmaPair (shTag la.shA) (shTag a.shB)) then some 0x04
  else none

/-- A member's `gang` and slice once the round has fired. -/
def Hand.fired (h : Hand) (shA : DWord) (forks : List Fork) : Hand :=
  match h.arrival with
  | none => h
  | some a =>
    let g := setField (setField h.gang 9 1 0) 11 1 0
    { h with gang := setField g 32 16 (getField g 32 16 + 1), arrival := none,
             slice := some { core := h.core, row := a.row, col := a.col, b := a.b, shA := shA, shB := a.shB, a := none, forks := forks } }

/-- A member's slice enters its core's order (R353, R361). -/
def State.addSlice (s : State) (i : SplitIssue) (k : Nat) : State :=
  let h := s.hand k
  match h.slice with
  | none => s
  | some z =>
    let x := newWork s i (.slice z.row z.col z.b (shRows z.shA)) z.shA z.shB
    s.addWork z.core { x with id := x.id + 1 + getField h.gang 3 3, fork := { x.fork with hand := k } }

/-- Fire the round when every member that is not DONE has arrived (R361, R362). -/
def State.fireRound (s : State) (i : SplitIssue) : State :=
  let keys := s.roundKeys (s.hand i.hand)
  let members := keys.map s.hand
  if members.any (fun h => h.arrival.isNone && h.state != .done) then s
  else
    let code := if members.any (fun h => h.arrival.isNone) then some 0x0A else fireCode members
    match code with
    | some c => keys.foldl (fun s k => s.updSaved k (fun h => if h.arrival.isSome then failRound c h else h)) s
    | none =>
      let lead := (members.head?.bind Hand.arrival).getD default
      match members.find? (fun h => getField h.gang 3 3 == lead.lead) with
      | none => s
      | some l =>
        let la := l.arrival.getD default
        let forks := members.filterMap (fun h => h.arrival.map Arrival.fork)
        let s := keys.foldl (fun s k => s.updSaved k (fun h => h.fired la.shA forks)) s
        let s := s.addWork l.core { newWork s i (.bcast la.a keys) la.shA 0 with fork := l.fork [] }
        let s := keys.foldl (fun s k => s.addSlice i k) s
        s.kick (s.core l.core).work.length l.core

/-- `gmma` (R361). -/
def execGmma (w : CoreWords) (s : State) : Host.Outcome State Fault Refusal :=
  execCore { outside := true, edge := true } w s fun i act s =>
    withRegs i act s [(w.hA, .move)] [] [] fun h s =>
      let va := s.shapeOf i w.nameB
      let vb := s.shapeOf i w.nameC
      let row := accRow0 w (uniVal i act h w.nameA)
      let leads := getField h.gang 3 3 == getField h.gang 6 3
      if getField h.gang 0 3 = 0 then .trap s (i.faultW act 0x0A 0)
      else if h.gang.getLsbD 9 then .trap s (i.fault act 0x0D 0 h.gang act)
      else if !shValid vb || !shK vb then .trap s (tilex i act vb)
      else if leads && (!shValid va || shK va) then .trap s (tilex i act va)
      else match accBound i act row 1 (w.f2 8 8) (shCols vb) with
        | some t => .trap s t
        | none => match s.parkHandler i (.tile w.nameC :: (if leads then .tile w.nameB :: block row (w.f2 8 8) (shRows va) (shCols vb) else [])) with
        | some s => .stall s
        | none =>
          let s := s.updHand i.hand (fun h =>
            { h with gang := setField (setField h.gang 9 1 1) 10 1 0, gangView := [],
                     arrival := some { row := row, col := w.f2 8 8, a := w.nameB, b := w.nameC, shA := va, shB := vb,
                                       lead := getField h.gang 6 3, fork := h.fork i.lanes.list } })
          .ok (s.fireRound i)

/-- GMMA_SLICE_DONE: a member's slice reaches its core, once the leader's A tile has been read, and is written with its check
elements; DONE becomes 1 (R361). The round's engine thread starts once every member's older stores have drained, with the join of the
members' views (R181, log 96). -/
def execGmmaSliceDone (s : State) : Host.Outcome State Fault Refusal :=
  let h := s.hand s.args.n
  match h.slice with
  | none => .next s
  | some z =>
    match z.a with
    | none => .next s
    | some a =>
      let core := s.core z.core
      let b := core.tiles.getD z.b Tile.init
      let rows := List.range (shRows z.shA)
      let mine (x : TileWork) : Bool := x.fork.hand = h.key && (match x.op with | .slice _ _ _ _ => true | _ => false)
      let wid := ((core.work.find? mine).map TileWork.id).getD 0
      if conflicts (core.before wid) [.tile z.b] (block z.row z.col rows.length (shCols z.shB)) || !z.forks.all s.forkReady then .next s
      else if meets (a.badRows z.shA) rows || !(b.badRows z.shB).isEmpty then
        .next ((if a.hit.isEmpty && b.hit.isEmpty then s else s.logTile z.core 1).killGang h.key 0x12 none false)
      else if core.badBlock z.row z.col rows.length (shCols z.shB) then .next ((s.logTile z.core 2).killGang h.key 0x12 none false)
      else
        let (c, f) := core.mma z.row z.col a z.shA b z.shB rows
        let v := z.forks.foldl (fun v f => View.join v (s.forkView f)) []
        .next (((s.updCore z.core (fun _ => c)).updSaved h.key (fun h =>
          { h.orFlags f with gang := setField h.gang 10 1 1, slice := none, gangView := v })).endWork z.core wid)

end Sys2Proof.Machine
end

