-- ==== Sys2Proof/Machine/Engine.lean ====
section
/-!
DEFINITION. Class 6: copies (spec/16 R366 to R369, spec/06 R156, R157), windows (R158 to R160, R370, R371), circular buffers
(R162, R163, R372), queue engines (R373 to R375), expert counters (R377) and ranges (R378), with the steps COPY_COMPLETE,
WINDOW_FILL_END and JOB_COMPLETE.
-/
namespace Sys2Proof.Machine

/-! ## A fault that comes with an answer -/

/-- A split that waits for an answer faults at its instruction: its threads stand there again, without effect, and the trap
is taken at the hand's next grant, or fails the hand (R189, R197). While another trap is pending or in its handler, the split waits
with it (log 94). -/
def State.trapParked (s : State) (k : Nat) (t : TrapInfo) : State :=
  let s := s.reload k
  let h := s.hand k
  if (t.split &&& h.trapMode) != 0 || !h.trapRegs.xvec.getLsbD 0 then s.killGang k t.code (some t.pc) false
  else
    (s.updHand k (fun h =>
      Hand.wakeUp { h with
        pc := (List.range 32).map (fun n => if t.split.has n then t.pc else h.pc.getD n 0),
        lc := h.lc.map (fun l => if l.end_ == t.pc then { l with edge := l.edge &&& ~~~t.split } else l),
        parks := h.parks.filter (fun p => (p.1 &&& t.split) == 0) ++ (if h.trapBusy then [(t.split, .trap)] else []),
        pendTrap := if h.trapBusy then h.pendTrap else some t,
        laterTraps := if h.trapBusy then h.laterTraps ++ [t] else h.laterTraps })).patchCtx h

/-- A hand-level result with a fixed value that is still to return; the number of the result is the hand's `nextId`. -/
def State.answer (s : State) (i : SplitIssue) (act : Lanes) (dst : List OutDst) (joins : List View) : State :=
  let id := (s.hand i.hand).nextId
  (s.addOutst i.hand act .value dst 0 0).updOutst i.hand id (fun o =>
    { o with joins := i.lanes.list.foldr (fun t acc => joins.map (fun v => (t, v)) ++ acc) [] })

/-! ## Circular buffers (R162, R163) -/

/-- Replace bits of a number. -/
def setBits (n lo width x : Nat) : Nat := n - bits n lo width * 2 ^ lo + x % 2 ^ width * 2 ^ lo

/-- The control block that a `cbd` names, for a core's cluster; none when VALID is 0 or the address is not 128-byte aligned or
breaks R145. -/
def cbdBlock (cluster : Nat) (v : DWord) : Option Nat :=
  if !v.getLsbD 32 || v.toNat % 128 != 0 then none else clusterLoc cluster (v.toNat % 2 ^ 32)

/-- Fields of a control block's image. -/
def cbSlotb (n : Nat) : Nat := bits n 32 12
def cbFeed (n : Nat) : Bool := bits n 44 1 == 1
def cbSlots (n : Nat) : Nat := bits n 48 8
def cbPI (n : Nat) : Nat := bits n 64 8
def cbWI (n : Nat) : Nat := bits n 72 8
def cbCI (n : Nat) : Nat := bits n 80 8
def cbRI (n : Nat) : Nat := bits n 88 8
def cbState (n i : Nat) : Nat := bits n (128 + 3 * i) 3
def cbSet (n i st : Nat) : Nat := setBits n (128 + 3 * i) 3 st
/-- Advance the index at a bit position. -/
def cbNext (n lo : Nat) : Nat := setBits n lo 8 ((bits n lo 8 + 1) % cbSlots n)
/-- The cluster address of a slot. -/
def cbAddr (n i : Nat) : Nat := (n % 2 ^ 32 + i * cbSlotb n * 256) % 2 ^ 32

/-- The header keeps its field limits, and every slot has a listed state. -/
def cbOk (n : Nat) : Bool :=
  1 ≤ cbSlotb n && cbSlotb n ≤ 2048 && bits n 45 3 == 0 && 1 ≤ cbSlots n && bits n 56 8 == 0 && bits n 96 32 == 0 &&
    bits n 893 131 == 0 && cbPI n < cbSlots n && cbWI n < cbSlots n && cbCI n < cbSlots n && cbRI n < cbSlots n &&
    (List.range (cbSlots n)).all (fun i => cbState n i ≤ 4)

/-- The image of a control block; none when it breaks its limits. -/
def State.cbRead (s : State) (block : Nat) : Option Nat :=
  let n := readN s.mem block 128
  if cbOk n then some n else none

/-- Write the words of an image that have changed. -/
def State.cbWrite (s : State) (block old new : Nat) : State :=
  (List.range 16).foldl (fun s i =>
    if bits old (64 * i) 64 = bits new (64 * i) 64 then s
    else s.putWord (block + 8 * i) 0xFF (BitVec.ofNat 64 (bits new (64 * i) 64)) [] 0 Party.nobody) s

/-- What an action on a buffer answers: a fault, a wait for a copy in flight, or a value with the view that it joins. -/
inductive CbOut where
  | fault
  | wait
  | value (s : State) (v : DWord) (view : View)

/-- EMPTY (R372). -/
def cbEmpty : DWord := 0xFFFFFFFF

/-- `cbtake.full` reaches a block. -/
def State.takeFull (s : State) (block : Nat) : CbOut :=
  match s.cbRead block with
  | none => .fault
  | some n =>
    let i := cbCI n
    match cbState n i with
    | 3 =>
      let view := ((s.slotViews.find? (fun x => x.block = block && x.slot == i)).map SlotView.view).getD []
      let s := { s with slotViews := s.slotViews.filter (fun x => !(x.block = block && x.slot == i)) }
      .value (s.cbWrite block n (cbNext (cbSet n i 4) 80)) (BitVec.ofNat 64 (cbAddr n i)) view
    | 2 => .wait
    | _ => .value s cbEmpty []

/-- `cbtake.free` reaches a block. -/
def State.takeFree (s : State) (block : Nat) : CbOut :=
  match s.cbRead block with
  | none => .fault
  | some n =>
    let i := cbPI n
    if !cbFeed n then .fault
    else if cbState n i = 0 then .value (s.cbWrite block n (cbNext (cbSet n i 1) 64)) (BitVec.ofNat 64 (cbAddr n i)) []
    else .value s cbEmpty []

/-- `cbgive.full` reaches a block, with the view of its split, which the slot keeps (R182). -/
def State.giveFull (s : State) (block : Nat) (view : View) : CbOut :=
  match s.cbRead block with
  | none => .fault
  | some n =>
    let i := cbWI n
    if !cbFeed n || cbState n i != 1 then .fault
    else
      let s := { s with slotViews := { block := block, slot := i, view := view } ::
        s.slotViews.filter (fun x => !(x.block = block && x.slot == i)) }
      .value (s.cbWrite block n (cbNext (cbSet n i 3) 72)) 0 []

/-- `cbgive.free` reaches a block. -/
def State.giveFree (s : State) (block : Nat) : CbOut :=
  match s.cbRead block with
  | none => .fault
  | some n =>
    let i := cbRI n
    if cbState n i ≠ 4 then .fault else .value (s.cbWrite block n (cbNext (cbSet n i 0) 88)) 0 []

/-- The parked `cbtake.full` of a block that arrived first: hand and result. -/
def State.firstTake (s : State) (block : Nat) : Option (Nat × Outst × DWord × DWord) :=
  let all := s.hands.foldr (fun h acc => (h.outst.filterMap (fun o => match o.work with
    | .cbTake b pc cbd a => if b = block && !o.returned then some (a, h.key, o, pc, cbd) else none
    | _ => none)) ++ acc) []
  (all.foldl (fun (best : Option (Nat × Nat × Outst × DWord × DWord)) x =>
    match best with
    | none => some x
    | some y => if x.1 < y.1 then some x else some y) none).map Prod.snd

/-- The answer of a block that breaks R163 has returned. -/
def State.cbFaulted (s : State) (k : Nat) (o : Outst) (pc cbd : DWord) : State :=
  (s.updHand k (fun h => { h with outst := h.outst.filter (fun x => x.id ≠ o.id) })).trapParked k
    { code := 0x1A, kind := 0, info := 0, pc := pc, val := cbd, mask := o.lanes, split := o.split }

/-- A copy has landed: the parked `cbtake.full`s act, in order of arrival (R163). -/
def State.serveTakes : Nat → State → Nat → State
  | 0, s, _ => s
  | fuel + 1, s, block =>
    match s.firstTake block with
    | none => s
    | some (k, o, pc, cbd) =>
      match s.takeFull block with
      | .wait => s
      | .fault =>
        State.serveTakes fuel (s.cbFaulted k o pc cbd) block
      | .value s v view =>
        let s := s.updOutst k o.id (fun o =>
          { o with joins := o.split.list.map (fun t => (t, view)),
                   dsts := o.dsts.map (fun d => { d with vals := (uniformDst d.dst 0 v).vals }) })
        State.serveTakes fuel (s.deliverResult k o.id) block

/-! ## Copies (R156, R157, R369) -/

/-- RESULT codes. -/
def cpOk : Nat := 0
def cpBadHandle : Nat := 1
def cpRange : Nat := 2
def cpProt : Nat := 3
def cpPoison : Nat := 4
def cpPeerDown : Nat := 5

def Copy.engine (c : Copy) : Nat × Nat := (c.core / 32, c.core % 4)
def Copy.held (c : Copy) : Bool := c.started && c.early.isNone && c.block.isSome && c.slot.isNone
def Copy.moving (c : Copy) : Bool := c.started && !c.held

def State.updCopy (s : State) (id : Nat) (f : Copy → Copy) : State := { s with copies := updWhere (fun c => c.id = id) f s.copies }

/-- Offsets of a copy's lines in its handle's range. -/
def Copy.lineOffs (c : Copy) : List Nat := (List.range c.lines).map (fun j => c.off + 64 * j)

/-- Request a copy's source lines that lie in a peer. -/
def State.fetchLines (s : State) (c : Copy) : State :=
  match s.handle? c.part c.handle with
  | some hd => if c.out || (s.hand c.fork.hand).pair = 2 then s else s.requestLines (c.core / 256) hd c.id c.lineOffs
  | none => s

/-- A copy reaches its buffer's control block: it ends, claims slot PI, or stays held (R163, R369). -/
def State.claim (s : State) (c : Copy) (block : Nat) : State :=
  let ends (r : Nat) : State := s.updCopy c.id (fun c => { c with early := some r })
  if cbSlotb (readN s.mem block 128) * 256 < 64 * c.lines then ends cpRange
  else match s.cbRead block with
  | none => ends cpProt
  | some n =>
    let i := cbPI n
    if cbFeed n then ends cpProt
    else if cbState n i ≠ 0 then s
    else match clusterLoc (c.core / 32) (cbAddr n i) with
      | none => ends cpProt
      | some loc =>
        ((s.cbWrite block n (cbNext (cbSet n i 2) 64)).updCopy c.id (fun c => { c with slot := some i, scratch := loc })).fetchLines c

/-- An engine starts a copy: the checks of R369, then the claim. -/
def State.startCopy (s : State) (c : Copy) : State :=
  let s := { s with copies := s.copies.filter (fun (x : Copy) => x.id ≠ c.id) ++ [{ c with started := true }] }
  let ends (r : Nat) : State := s.updCopy c.id (fun c => { c with early := some r })
  match s.handle? c.part c.handle with
  | none => ends cpBadHandle
  | some hd =>
    if (if c.out then !hd.wr else !hd.rd) then ends cpProt
    else if hd.len < c.off + 64 * c.lines then ends cpRange
    else match c.block with
      | some b => if s.copies.any (fun x => x.held && x.block == some b && x.id != c.id) then s else s.claim c b
      | none => s.fetchLines c

/-- Engines start the copies whose issuers' older stores have drained, each in issue order; held copies claim in the order in
which they reached their block; a held copy of a killed issuer is gone. -/
def State.kickCopies (s : State) : State :=
  let s := { s with copies := s.copies.filter (fun c => !(c.discarded && c.held)) }
  let s := s.copies.foldl (fun s c =>
    if c.held && !(s.copies.takeWhile (fun x => x.id ≠ c.id)).any (fun x => x.held && x.block == c.block) then
      match c.block with
      | some b => s.claim c b
      | none => s
    else s) s
  s.copies.foldl (fun s c =>
    if !c.started && s.forkReady c.fork &&
        !(s.copies.takeWhile (fun x => x.id ≠ c.id)).any (fun x => !x.started && x.engine = c.engine) then s.startCopy c
    else s) s

/-- An engine reads a line: its bytes, whether they are uncorrectable, and its view after. -/
def State.readLine (s : State) (v : View) (loc : Nat) (picks : List Nat) : List (BitVec 8) × Bool × View :=
  if vaultLoc 0 ≤ loc then (readCells s.vault (loc - vaultLoc 0) 64, false, v)
  else if spaceOf loc = .host ∧ s.hostLink.lost = true then ([], true, v)
  else
    let (bs, bad, v) := s.engRead v loc 64 picks
    (bs, !bad.isEmpty, v)

/-- An engine reads its next line, in increasing offset; its bytes then drain in any order. A line that fails ends the operation
with its result (R157). -/
def State.nextLine (s : State) (id die : Nat) (src dst : Nat → Option Nat) (p : Lines) (v : View) (picks : List Nat) : State × Lines × View :=
  match src p.read, dst p.read with
  | some a, some b =>
    if s.lineFails.contains (id, p.read) then (s, { p with result := some cpPeerDown }, v)
    else
      let (bs, bad, v') := s.readLine v a picks
      let s := (s.crossHome die a).hostRead a
      if bad then (s.logUE a, { p with result := some cpPoison }, v)
      else (s, { p with read := p.read + 1, wait := p.wait ++ chunksOf b bs }, v')
  | _, _ => (s, { p with result := some cpProt }, v)

/-- A write of a copy or fill drains. One that no port carries ends the operation at its line (R155). -/
def State.drainLine (s : State) (id : Nat) (party : Party) (p : Lines) (v : View) (k : Nat) : State × Lines × View :=
  match p.wait[k]? with
  | none => (s, p, v)
  | some c => match s.writeChunk party v c (.out id (p.read - p.wait.length)) with
    | some (s, v) => (s, { p with wait := p.wait.eraseIdx k }, v)
    | none => (s, { read := p.read - p.wait.length, wait := [], result := some cpPeerDown }, v)

/-- Every write of a copy or fill drains, in order. -/
def State.drainLines (id : Nat) (party : Party) : Nat → State × Lines × View → State × Lines × View
  | 0, x => x
  | fuel + 1, (s, p, v) => State.drainLines id party fuel (s.drainLine id party p v 0)

/-- The rest of the lines move, up to the first that fails. -/
def State.finishLines (id : Nat) (party : Party) (src dst : Nat → Option Nat) : Nat → State → Lines → View → List Nat → State × Lines × View
  | 0, s, p, v, _ => State.drainLines id party p.wait.length (s, p, v)
  | n + 1, s, p, v, picks =>
    if p.result.isSome then State.drainLines id party p.wait.length (s, p, v)
    else
      let (s, p, v) := s.nextLine id party.die src dst p v picks
      let (s, p, v) := State.drainLines id party p.wait.length (s, p, v)
      State.finishLines id party src dst n s p v (picks.drop 8)

/-- A line that an operation has sent to a peer has not been answered. -/
def State.outOpen (s : State) (id : Nat) : Bool :=
  s.reqs.any (fun r => match r.use with | .out e _ => e == id | _ => false)

/-- A part of an engine's work on lines: it reads its next line, once that has arrived, or one of its writes drains. A line goes to a peer
only when the peer has answered for the one before, since no byte after a failing line is written (R24, R157). -/
def State.lineStep (s : State) (id : Nat) (party : Party) (src dst : Nat → Option Nat) (count : Nat) (p : Lines) (v : View)
    (pick : Option Nat) (picks : List Nat) : State × Lines × View :=
  match pick with
  | some k => s.drainLine id party p v (if (p.wait.head?).any (fun c => spaceOf c.1 == .peer) then 0 else k)
  | none =>
    if p.result.isSome || count ≤ p.read || s.outOpen id || s.reqs.any (fun r => r.use == .line id p.read) then (s, p, v)
    else s.nextLine id party.die src dst p v picks

/-- Requests for a copy's or a fill's lines, or writes of them, that are still outstanding. -/
def State.linesOpen (s : State) (id : Nat) : Bool :=
  s.reqs.any (fun r => match r.use with | .line e _ | .out e _ => e == id | _ => false)

/-- A copy that claimed a slot lands: the slot is FULL; of a copy that failed, its bytes from the failing line onwards are
uncorrectable (R163, R412); then parked `cbtake.full`s act. -/
def State.landSlot (s : State) (c : Copy) (block slot moved result : Nat) (v : View) : State :=
  let n := readN s.mem block 128
  let s := s.cbWrite block n (cbSet n slot 3)
  let s := { s with slotViews := { block := block, slot := slot, view := v } ::
    s.slotViews.filter (fun x => !(x.block = block && x.slot == slot)) }
  let s := if result = cpOk then s
    else (wordsOf (c.scratch + 64 * moved) (cbSlotb n * 256 - 64 * moved)).foldl State.markCopied s
  s.serveTakes s.hands.length block

/-- The lines of a twin's copy are those of its primary's (R216): they fill its scratch, and leave memory alone. -/
def State.twinLines (s : State) (c : Copy) (f : Forward) (v : View) : State × Nat × Nat × View :=
  let word := ((f.vals.head?.bind List.head?).map LaneVal.value).getD 0
  let moved := getField word 32 32 / 64
  let (s, v) := if c.out then (s, v)
    else let s := s.putBytes c.scratch f.data (clusterParty (c.core / 32)); (s, s.viewOver c.scratch f.data.length v)
  (s, moved, getField word 1 7, f.joins.foldl View.join v)

/-- A copy's result at its primary, when a twin has issued it. -/
def State.copyForward (s : State) (c : Copy) : Option Forward :=
  let h := s.hand c.fork.hand
  (h.outst.find? (fun o => o.id = c.outId)).bind (fun o => (s.forwards h o.sent).bind List.head?)

/-- The ends of a copy's lines: source and destination. -/
def State.copyEnds (s : State) (c : Copy) : (Nat → Option Nat) × (Nat → Option Nat) :=
  let hd := s.handle? c.part c.handle
  let memEnd (j : Nat) : Option Nat := hd.bind (fun x => s.handleLoc x (c.off + 64 * j))
  let spad (j : Nat) : Option Nat := some (c.scratch + 64 * j)
  if c.out then (spad, memEnd) else (memEnd, spad)

def Copy.party (c : Copy) : Party := clusterParty (c.core / 32)

/-- A part of a copy's moving; a twin's copy moves as a whole, when it ends. -/
def State.copyStep (s : State) (id : Nat) (pick : Option Nat) (picks : List Nat) : State :=
  match s.copies.find? (fun c => c.id = id) with
  | none => s
  | some c =>
    if !c.moving || c.early.isSome || (s.hand c.fork.hand).pair == 2 then s
    else
      let (src, dst) := s.copyEnds c
      let (s, p, v) := s.lineStep id c.party src dst c.lines c.prog (s.forkView c.fork) pick picks
      s.updCopy id (fun c => { c with prog := p, fork := { c.fork with view := v, started := true } })

/-- A copy ends (R369): its lines have moved, its slot lands, its bytes are counted at its barrier, and its status word
returns with the engine thread's view (R157, R182). -/
def State.endCopy (s : State) (c : Copy) (picks : List Nat) : State :=
  let v := s.forkView c.fork
  let (s, moved, result, v) := match c.early with
    | some r => (s, 0, r, v)
    | none =>
      match (if (s.hand c.fork.hand).pair = 2 then s.copyForward c else none) with
      | some f => s.twinLines c f v
      | none =>
        let (src, dst) := s.copyEnds c
        let (s, p, v) := State.finishLines c.id c.party src dst (c.lines - c.prog.read) s c.prog v picks
        (s, p.read, p.result.getD cpOk, v)
  let data := if (s.hand c.fork.hand).pair = 1 && !c.out then s.readBytes c.scratch (64 * moved) else []
  let s := match c.block, c.slot with
    | some b, some i => s.landSlot c b i moved result v
    | _, _ => s
  let s := match c.barrier with
    | none => s
    | some loc =>
      let b := s.readBBar loc
      { s with bbarViews := (loc, b.phase, v) :: s.bbarViews }.writeBBar loc (b.add (64 * moved)) [] 0 Party.nobody
  let s := { s with copies := s.copies.filter (fun x => x.id ≠ c.id), lineFails := s.lineFails.filter (fun x => x.1 ≠ c.id) }
  let word : DWord := BitVec.ofNat 64 (1 + 2 * result + 64 * moved * 2 ^ 32)
  let k := c.fork.hand
  let s := if c.discarded then s
    else (s.updOutst k c.outId (fun o =>
      { o with owed := o.split.list.map (fun t => (t, v)), data := data,
               dsts := o.dsts.map (fun d => { d with vals := (uniformDst d.dst 0 word).vals }) })).deliverResult k c.outId
  s.kickCopies

/-- A copy to a peer has lines that it has not sent. -/
def State.linesLeft (s : State) (c : Copy) : Bool :=
  c.early.isNone && c.prog.result.isNone && c.prog.read < c.lines && c.out && (s.hand c.fork.hand).pair != 2 &&
    (s.handle? c.part c.handle).any (fun h => h.tier = 1)

/-- A line of a copy to a peer has not been answered, or found no memory there: the copy ends PEERDOWN at it (R24, R155). -/
def State.copyLost (s : State) (id line : Nat) : State :=
  s.updCopy id (fun c => if c.prog.result.isSome then c else { c with prog := { read := line, wait := [], result := some cpPeerDown } })

/-- COPY_COMPLETE. A copy to a peer sends its next line instead, until every line has been answered. -/
def execCopyComplete (s : State) : Host.Outcome State Fault Refusal :=
  let s := s.kickCopies
  match s.copies.find? (fun c => c.id = s.args.n) with
  | none => .next s
  | some c =>
    let h := s.hand c.fork.hand
    let waits := h.pair == 2 && !c.discarded && c.early.isNone && (s.copyForward c).isNone
    if !c.moving || s.linesOpen c.id || waits then .next s
    else if s.linesLeft c then .next ((s.copyStep c.id none s.args.picks).copyStep c.id (some 0) [])
    else .next (s.endCopy c s.args.picks)

/-- A uniform operand whose "zero" bits are set (R366). -/
def uniProt (i : SplitIssue) (act : Lanes) (v : DWord) : TrapInfo := i.fault act 0x0A 0 v act

/-- A scratch range that a hand-level instruction names: its location, or the fault of R312. -/
def State.uniRange (s : State) (i : SplitIssue) (act : Lanes) (acc : Access) (align n : Nat) (ca : DWord) :
    Except (State × TrapInfo) Nat :=
  (s.checkAccess i act true acc align n (fun _ => ca)).map (fun r => ((r.1.head?).map Prod.snd).getD 0)

/-- `cpy` (R368, R369). -/
def execCpy (w : CoreWords) (s : State) : Host.Outcome State Fault Refusal :=
  execCore { outside := true, edge := true, sync := true } w s fun i act s =>
    let lines := w.f2 0 13 + 1
    let out := w.f2 13 1 == 1
    let cb := w.f2 14 1 == 1
    let bb := w.f2 18 1 == 1
    withRegs i act s ([(w.hA, .move)] ++ (if cb && !bb then [] else [(w.hB, .move)])) [] [] fun h s =>
      let a := uniVal i act h w.nameA
      let b := if cb && !bb then 0 else uniVal i act h w.nameB
      let lo : DWord := (b.setWidth 32).zeroExtend 64
      let cluster := i.core / 32
      let cbd := (s.core i.core).cbd.getD (w.f2 15 3) 0
      let scratch : Except (State × TrapInfo) Nat :=
        if cb then .ok 0 else s.uniRange i act (if out then .read else .write) 64 (64 * lines) lo
      let barrier : Except (State × TrapInfo) (Option Nat) :=
        if bb then (s.uniRange i act .write 16 16 (b >>> 32)).map some else .ok none
      if !bb && b >>> 32 != 0 then .trap s (uniProt i act b)
      else match scratch, barrier with
        | .error (s', t), _ | _, .error (s', t) => .trap s' t
        | .ok loc, .ok bar =>
          if cb && (cbdBlock cluster cbd).isNone then .trap s (i.fault act 0x1A 0 cbd act)
          else
            let c : Copy :=
              { id := s.nextCopy, core := i.core, outId := (s.hand i.hand).nextId, part := h.part, handle := a.setWidth 32,
                off := (a >>> 32).toNat * 64, lines := lines, out := out, scratch := loc,
                block := if cb then cbdBlock cluster cbd else none, slot := none, barrier := bar,
                fork := (s.hand i.hand).fork i.lanes.list, started := false, early := none, discarded := false,
                prog := default }
            let s := { s with copies := s.copies ++ [c], nextCopy := s.nextCopy + 1 }
            .ok (s.addOutst i.hand act (.copy c.id) [pendingDst (.h w.nameD) 0] 0 0).kickCopies

/-! ## Windows (R370, R371, R159) -/

/-- The window that an image binds. -/
def windowOf (idx n tier part : Nat) : Window :=
  { idx := idx, saddr := n % 2 ^ 32, slen := bits n 32 12, expert := bits n 48 12, noexp := bits n 60 1 == 1, state := 0,
    err := false, handle := BitVec.ofNat 32 (bits n 64 32), stride := bits n 96 32, offset := BitVec.ofNat 64 (bits n 128 64),
    rowl := bits n 192 13, rows := bits n 205 19, tier := BitVec.ofNat 2 tier, part := part, fill := 0, fork := default,
    prog := default }

/-- A `wbind` reaches the region table of a cluster: its status, and the table after it. -/
def State.bindWindow (s : State) (h : Hand) (idx n : Nat) : Nat × State :=
  let c := coreCluster h.core
  let cl := s.cluster c
  let x := windowOf idx n 0 h.part
  let put (ws : List Window) : State := s.updCluster c (fun _ => { windows := ws ++ cl.windows.filter (fun y => y.idx ≠ idx) })
  let (lo, len) := x.range c
  if cl.windows.any (fun y => y.idx = idx && y.state == 1) then (4, s)
  else if x.slen = 0 ∧ x.handle = 0 then (0, put [])
  else if x.saddr % 256 ≠ 0 ∨ (clusterLoc c x.saddr).isNone ∨ x.slen = 0 ∨ 2048 < x.slen ∨ bits n 44 4 ≠ 0 ∨
      x.rowl = 0 ∨ 8192 < x.rowl ∨ bits n 226 30 ≠ 0 ∨ x.rows * x.rowl * 64 ≠ x.slen * 256 then (3, s)
  else match s.handle? h.part x.handle with
    | none => (5, s)
    | some hd =>
      if !hd.rd then (5, s)
      else if !s.inShare h lo len then (2, s)
      else if cl.windows.any (fun y => y.idx ≠ idx && y.meets c lo len) then (1, s)
      else (0, put [{ x with tier := BitVec.ofNat 2 hd.tier }])

/-- `wbind` (R370): its image is read, and the table bound, when its result returns. -/
def execWbind (w : CoreWords) (s : State) : Host.Outcome State Fault Refusal :=
  execCore { outside := true, edge := true } w s fun i act s =>
    withRegs i act s [(w.hA, .move), (w.hB, .move)] [] [] fun h s =>
      let a := uniVal i act h w.nameA
      let b := uniVal i act h w.nameB
      if a >>> 6 != 0 then .trap s (uniProt i act a)
      else if b >>> 32 != 0 then .trap s (uniProt i act b)
      else match s.uniRange i act .read 32 32 b with
        | .error (s', t) => .trap s' t
        | .ok loc =>
          .ok (s.addOutst i.hand act (.wbind a.toNat loc ((s.hand i.hand).fork i.lanes.list)) [pendingDst (.h w.nameD) 2] 0 0)

/-- The word of `winq`. -/
def Window.word (x : Window) : DWord :=
  BitVec.ofNat 64 (x.state.toNat + (if x.err then 4 else 0) + x.tier.toNat * 8 + x.expert * 2 ^ 16)

/-- `winq` (R371): touches, and answers in order; PRESENT joins the fill (R182). -/
def execWinq (w : CoreWords) (s : State) : Host.Outcome State Fault Refusal :=
  execCore {} w s fun i act s =>
    withRegs i act s [(w.hA, .move)] [] [] fun h s =>
      let a := uniVal i act h w.nameA
      let c := i.core / 32
      if a >>> 6 != 0 then .trap s (uniProt i act a)
      else
        let s := s.touch h i.lanes.list c a.toNat
        match (s.cluster c).windows.find? (fun x => x.idx = a.toNat) with
        | none => .ok (s.writeH i.hand w.nameD 3 2)
        | some x =>
          let s := if x.state == 2 then
              i.lanes.list.foldl (fun s t => s.updThread i.hand t (fun m => { m with view := View.join m.view x.fork.view })) s
            else s
          .ok (s.writeH i.hand w.nameD x.word 2)

/-- A window's outstanding loads go on: from a fill with its view, or, where it has failed, poisoned (R159, R182). -/
def State.releaseLoads (s : State) (c : Nat) (x : Window) (fill : Option View) : State :=
  let lane (l : LoadLane) : LoadLane :=
    if l.win == some x.idx && scratchCore l.loc / 32 == c then
      { l with win := none, failed := l.failed || fill.isNone, seen := View.join l.seen (fill.getD []) }
    else l
  let again (n : Nat) (l : LoadLane) : LoadLane :=
    if l.win.isNone && spaceOf l.loc == .scratch && scratchCore l.loc / 32 == c then { l with win := s.fillingAt l.loc n } else l
  let res (o : Outst) : Outst := match o.work with
    | .load n f a ls => { o with work := .load n f a (ls.map (fun l => again n (lane l))) }
    | _ => o
  let s := { s with hands := s.hands.map (fun (h : Hand) => { h with outst := h.outst.map res }) }
  let op (y : TileWork) : TileWork := match y.op with
    | .load t loc f =>
      if y.ran.isNone && scratchCore loc / 32 == c && x.meets c loc (tileBytes y.shA) then
        { y with op := .load t loc (f || fill.isNone), seen := View.join y.seen (fill.getD []) }
      else y
    | _ => y
  { s with cores := s.cores.map (fun (p : Nat × Core) => (p.1, { p.2 with work := p.2.work.map op })) }

/-- The ends of a fill's lines, and whether its handle gives none. -/
def State.fillEnds (s : State) (c : Nat) (x : Window) : (Nat → Option Nat) × (Nat → Option Nat) × Bool :=
  let hd := s.handle? x.part x.handle
  let offs := x.lineOffs
  (fun j => hd.bind (fun y => s.handleLoc y (offs.getD j 0)), fun j => (clusterLoc c x.saddr).map (fun a => a + 64 * j),
    match hd with
    | none => true
    | some y => !y.rd || y.len < x.offset.toNat + (x.rows - 1) * x.stride + x.rowl * 64)

def State.updWindow (s : State) (c idx : Nat) (f : Window → Window) : State :=
  s.updCluster c (fun y => { windows := updWhere (fun z => z.idx = idx) f y.windows })

/-- A part of a fill's moving. -/
def State.fillStep (s : State) (c idx : Nat) (pick : Option Nat) (picks : List Nat) : State :=
  match (s.cluster c).windows.find? (fun x => x.idx = idx && x.state == 1) with
  | none => s
  | some x =>
    let (src, dst, bad) := s.fillEnds c x
    if bad || !s.forkReady x.fork then s
    else
      let (s, p, v) := s.lineStep x.fill (clusterParty c) src dst (x.rows * x.rowl) x.prog (s.forkView x.fork) pick picks
      s.updWindow c idx (fun y => { y with prog := p, fork := { y.fork with view := v, started := true } })

/-- A fill ends (R158, R159). -/
def State.endFill (s : State) (c : Nat) (x : Window) (picks : List Nat) : State :=
  let (src, dst, bad) := s.fillEnds c x
  let v := s.forkView x.fork
  let (s, p, v) := if bad then (s, { x.prog with result := some cpBadHandle }, v)
    else State.finishLines x.fill (clusterParty c) src dst (x.rows * x.rowl - x.prog.read) s x.prog v picks
  let failed := p.result.isSome
  let upd (y : Window) : Window :=
    { y with state := if failed then 0 else 2, err := failed, fork := { y.fork with view := v, seqs := [], started := true }, prog := default }
  let s := s.updWindow c x.idx upd
  { s with lineFails := s.lineFails.filter (fun y => y.1 ≠ x.fill) }.releaseLoads c x (if failed then none else some v)

/-- WINDOW_FILL_END. -/
def execWindowFillEnd (s : State) : Host.Outcome State Fault Refusal :=
  match (s.cluster s.args.n).windows.find? (fun x => x.idx = s.args.m && x.state == 1) with
  | none => .next s
  | some x => if s.forkReady x.fork && !s.linesOpen x.fill then .next (s.endFill s.args.n x s.args.picks) else .next s

/-! ## Circular-buffer instructions (R372) -/

/-- CBSTATE with the `cbd`. -/
def cbFault (i : SplitIssue) (act : Lanes) (cbd : DWord) : TrapInfo := i.fault act 0x1A 0 cbd act

/-- An action that answers at once: the split parks until the answer has returned; an action that did something is an act
outside the hand (R86). -/
def State.cbAnswer (s : State) (i : SplitIssue) (act : Lanes) (dst : List OutDst) (view : View) (acted : Bool) : State :=
  let id := (s.hand i.hand).nextId
  (s.answer i act dst [view]).updHand i.hand (fun h =>
    { h with parks := h.parks ++ [(i.lanes &&& h.live, .result id)], yields := if acted then 0 else h.yields })

/-- CBSTATE that the block has shown comes with the answer, until which the split parks (R372). -/
def State.cbFails (s : State) (i : SplitIssue) (act : Lanes) (cbd : DWord) (dst : List OutDst) : State :=
  let id := (s.hand i.hand).nextId
  (s.addOutst i.hand act (.cbFault i.pc cbd) dst 0 0).updHand i.hand (fun h => { h with parks := h.parks ++ [(i.lanes &&& h.live, .result id)] })

/-- The two forms of `cbtake`. -/
def cbTakeOp (full : Bool) (w : CoreWords) (s : State) : Host.Outcome State Fault Refusal :=
  execCore { edge := true } w s fun i act s =>
    let cbd := (s.core i.core).cbd.getD w.nameA 0
    match cbdBlock (i.core / 32) cbd with
    | none => .trap s (cbFault i act cbd)
    | some block =>
      match (if full then (if (s.firstTake block).isSome then CbOut.wait else s.takeFull block) else s.takeFree block) with
      | .fault => .ok (s.cbFails i act cbd [pendingDst (.h w.nameD) 0])
      | .value s v view => .ok (s.cbAnswer i act [uniformDst (.h w.nameD) 0 v] view (v != cbEmpty))
      | .wait =>
        let id := (s.hand i.hand).nextId
        .ok ((s.addOutst i.hand act (.cbTake block i.pc cbd s.tick) [pendingDst (.h w.nameD) 0] 0 0).updHand i.hand (fun h =>
          { h with parks := h.parks ++ [(i.lanes &&& h.live, .result id)], yields := 0 }))

/-- `cbtake.full`. -/
def execCbtakeFull : CoreWords → State → Host.Outcome State Fault Refusal := cbTakeOp true
/-- `cbtake.free`. -/
def execCbtakeFree : CoreWords → State → Host.Outcome State Fault Refusal := cbTakeOp false

/-- The two forms of `cbgive`, which act once the split's older stores have drained; until then it waits at the
instruction. -/
def cbGiveOp (full : Bool) (w : CoreWords) (s : State) : Host.Outcome State Fault Refusal :=
  execCore { edge := true } w s fun i act s =>
    let cbd := (s.core i.core).cbd.getD w.nameA 0
    let h := s.hand i.hand
    if s.storesOpen h i.lanes then
      .stall (s.updHand i.hand (fun h => { h with parks := h.parks ++ [(i.lanes, .stores)] }))
    else match cbdBlock (i.core / 32) cbd with
      | none => .trap s (cbFault i act cbd)
      | some block =>
        match (if full then s.giveFull block (h.fork i.lanes.list).view else s.giveFree block) with
        | .value s _ _ => .ok (s.cbAnswer i act [] [] true).kickCopies
        | _ => .ok (s.cbFails i act cbd [])

/-- `cbgive.full`. -/
def execCbgiveFull : CoreWords → State → Host.Outcome State Fault Refusal := cbGiveOp true
/-- `cbgive.free`. -/
def execCbgiveFree : CoreWords → State → Host.Outcome State Fault Refusal := cbGiveOp false

/-! ## Queue engines (R373 to R375) -/

/-- The jobs of a queue of a hand, oldest first. -/
def State.queueJobs (s : State) (k q : Nat) : List Job := s.jobs.filter (fun j => j.fork.hand = k && j.queue == q)

/-- `qput` (R373). -/
def execQput (w : CoreWords) (s : State) : Host.Outcome State Fault Refusal :=
  execCore { outside := true, edge := true } w s fun i act s =>
    withRegs i act s [(w.hB, .move)] [] [] fun h s =>
      let b := uniVal i act h w.nameB
      if b >>> 32 != 0 then .trap s (uniProt i act b)
      else match s.uniRange i act .read 32 32 b with
        | .error (s', t) => .trap s' t
        | .ok loc =>
          let full := 8 ≤ (s.queueJobs i.hand w.nameA).length
          let j : Job := { queue := w.nameA, loc := loc, core := i.core, shares := s.shares (s.hand i.hand),
                           fork := (s.hand i.hand).fork i.lanes.list, finished := none, flags := 0 }
          let s := if full then s else { s with jobs := s.jobs ++ [j] }
          .ok (s.answer i act [uniformDst (.h w.nameD) 2 (if full then 1 else 0)] [])

/-- Drop the oldest job of a queue. -/
def State.popJob (s : State) (k q : Nat) : State :=
  let is (j : Job) : Bool := j.fork.hand = k && j.queue == q
  { s with jobs := s.jobs.takeWhile (fun j => !is j) ++ (s.jobs.dropWhile (fun j => !is j)).tail }

/-- What a `qget` returns for a finished job: its word, flags and view. -/
def Outst.withJob (o : Outst) (j : Job) : Outst :=
  { o with flags := o.flags ||| j.flags, joins := o.split.list.map (fun t => (t, j.fork.view)),
           dsts := o.dsts.map (fun d => { d with vals := (uniformDst d.dst 0 (j.finished.getD 0)).vals }) }

/-- Answer the `qget`s of a queue that wait for its oldest job, oldest first, as long as that job has finished or none is left
(R375): the next one acts on the job that is then the oldest. -/
def State.serveQgets (k q : Nat) : Nat → State → State
  | 0, s => s
  | n + 1, s =>
    match (s.hand k).outst.find? (fun o => !o.returned && o.work == .qget q), s.queueJobs k q with
    | none, _ => s
    | some o, [] =>
      State.serveQgets k q n ((s.updOutst k o.id (fun o =>
        { o with dsts := o.dsts.map (fun d => { d with vals := (uniformDst d.dst 0 1).vals }) })).deliverResult k o.id)
    | some o, j :: _ =>
      if j.finished.isNone then s
      else
        let s := ((s.popJob k q).updOutst k o.id (fun o => o.withJob j)).updHand k (fun h => { h with yields := 0 })
        State.serveQgets k q n (s.deliverResult k o.id)

/-- `qget` (R375). -/
def execQget (w : CoreWords) (s : State) : Host.Outcome State Fault Refusal :=
  execCore { edge := true } w s fun i act s =>
    let id := (s.hand i.hand).nextId
    let send (work : Work) (s : State) : State := s.addOutst i.hand act work [pendingDst (.h w.nameD) 0] 0 0
    let waits := (s.hand i.hand).outst.any (fun o => !o.returned && o.work == .qget w.nameA)
    match s.queueJobs i.hand w.nameA with
    | [] => .ok (s.answer i act [uniformDst (.h w.nameD) 0 1] [])
    | j :: _ =>
      if j.finished.isSome && !waits then
        .ok (((send .value (s.popJob i.hand w.nameA)).updOutst i.hand id (fun o => o.withJob j)).updHand i.hand
          (fun h => { h with yields := 0 }))
      else .ok (send (.qget w.nameA) s)

/-- What a job does: an error's code, or a write of bytes at a location, with flags and the elements written. -/
inductive JobOut where
  | error (code : Nat)
  | done (loc : Nat) (bs : List (BitVec 8)) (flags : Flags) (count : Nat)

/-- The elements of a byte string. -/
def wordsOfList (bs : List (BitVec 8)) (n : Nat) : List Nat := (List.range n).map (fun i => leNat ((bs.drop (4 * i)).take 4))

/-- Insert a key with its index before the first larger key. -/
def insertKey (x : Nat × Nat) : List (Nat × Nat) → List (Nat × Nat)
  | [] => [x]
  | y :: l => if x.1 < y.1 then x :: y :: l else y :: insertKey x l

/-- Sort keys with their indices, equal keys in input order. -/
def sortKeys (xs : List (Nat × Nat)) : List (Nat × Nat) := xs.foldl (fun l x => insertKey x l) []

/-- The operations of the special-function engine (R374): elements and flags. -/
def sfeOp (op : Nat) (xs : List Nat) (scale : Nat) : List Nat × Flags :=
  let dec := FFmt.f32.decode
  match op with
  | 5 => let r := xs.foldl (fun (acc : Nat × Flags) x =>
           let a := dec acc.1
           let b := dec x
           let (z, f) := Num.add a b 0
           let (c, g) := FFmt.f32.round z 0 false
           (c, acc.2 ||| a.sig ||| b.sig ||| f ||| g)) (0, 0)
         ([r.1], r.2)
  | 6 => let r := xs.tail.foldl (fun (acc : Nat × Flags) x =>
           let (c, f) := FFmt.f32.minMax true acc.1 x
           (c, acc.2 ||| f)) (xs.headD 0, (dec (xs.headD 0)).sig)
         ([r.1], r.2)
  | fn =>
    let one (x : Nat) : Nat × Flags :=
      let a := dec x
      let b := dec scale
      let (p, f) := Num.mul a b
      let (c, g) := FFmt.f32.round p 0 false
      let (y, h) := FFmt.f32.elementary fn c 0 false
      (y, a.sig ||| b.sig ||| f ||| g ||| h)
    let ys := xs.map one
    (ys.map Prod.fst, ys.foldl (fun f y => f ||| y.2) 0)

/-- A job runs: its fields and ranges are checked before anything is written. Also its engine thread's view, and the uncorrectable words
that it met. -/
def State.runJob (s : State) (j : Job) (v : View) (picks : List Nat) : JobOut × View × List Nat :=
  let (img, bad, v) := s.engRead v j.loc 32 picks
  let n := leNat img
  let op := bits n 0 4
  let cnt := bits n 8 13 + 1
  let sfe := j.queue < 4
  let src := bits n 32 32
  let src2 := bits n 64 32
  let dst := bits n 96 32
  let scale := bits n 128 32
  let sort := !sfe && op == 0
  let fields := bits n 4 4 == 0 && bits n 21 11 == 0 && bits n 160 96 == 0 && src % 4 == 0 && src2 % 4 == 0 && dst % 4 == 0 &&
    (if sfe then op ≤ 6 && src2 == 0 else op ≤ 1 && scale == 0) && (!sort || cnt ≤ 4096)
  let at_ (ca len : Nat) : Option Nat := (clusterLoc (coreCluster j.core) ca).bind (fun loc =>
    if j.shares.any (fun a => a.1 ≤ loc && loc + len ≤ a.1 + a.2) then some loc else none)
  let second : Option Nat := if sfe then some 0 else at_ src2 (4 * cnt)
  if !bad.isEmpty then (.error 0x12, v, bad)
  else if !fields then (.error 0x02, v, [])
  else match at_ src (4 * cnt), second, at_ dst (if sort then 8 * cnt else 4 * cnt) with
    | some a, some b, some d =>
      let (xs, bad1, v) := s.engRead v a (4 * cnt) (picks.drop 4)
      let (ys, bad2, v) := if sfe then ([], [], v) else s.engRead v b (4 * cnt) (picks.drop (5 + cnt))
      let xs := wordsOfList xs cnt
      let ys := wordsOfList ys cnt
      if !bad1.isEmpty || !bad2.isEmpty then (.error 0x12, v, bad1 ++ bad2)
      else if sfe then
        let (zs, f) := sfeOp op xs scale
        (.done d (fieldsOf 4 zs) f zs.length, v, [])
      else if sort then
        let zs := sortKeys (xs.zip ys)
        (.done d (fieldsOf 4 (zs.map Prod.fst ++ zs.map Prod.snd)) 0 (2 * cnt), v, [])
      else if ys.any (fun y => cnt ≤ y) then (.error 0x0C, v, [])
      else (.done d (fieldsOf 4 (ys.map (fun y => xs.getD y 0))) 0 cnt, v, [])
    | _, _, _ => (.error 0x0C, v, [])

/-- A job runs: its status word, flags and writes are known; what it met is logged (R224). -/
def State.runQueue (s : State) (j : Job) (picks : List Nat) : Job × State :=
  let (r, v, bad) := s.runJob j (s.forkView j.fork) picks
  let fork := { j.fork with view := v, started := true }
  (match r with
    | .error code => { j with ran := some (BitVec.ofNat 64 (2 + code * 2 ^ 8)), fork := fork }
    | .done loc bs f n => { j with ran := some (BitVec.ofNat 64 (n * 2 ^ 32)), flags := f, wait := chunksOf loc bs, fork := fork },
   bad.foldl State.logUE (s.crossHome (coreDie j.core) j.loc))

/-- The oldest unfinished job of a queue of a hand. -/
def Job.next (k q : Nat) (j : Job) : Bool := j.fork.hand = k && j.queue == q && j.finished.isNone

/-- Change the oldest unfinished job of a queue. -/
def State.updJob (s : State) (k q : Nat) (f : Job → Job) : State :=
  { s with jobs := s.jobs.takeWhile (fun x => !x.next k q) ++ ((s.jobs.dropWhile (fun x => !x.next k q)).head?.map f).toList ++
      (s.jobs.dropWhile (fun x => !x.next k q)).tail }

/-- A part of a job: it runs, or one of its writes drains. -/
def State.jobStep (s : State) (k q : Nat) (pick : Option Nat) (picks : List Nat) : State :=
  match s.jobs.find? (Job.next k q) with
  | none => s
  | some j =>
    match pick.bind (fun n => j.wait[n]?.map (fun c => (n, c))) with
    | some (n, c) =>
      let (s, v) := State.writeChunks (clusterParty (coreCluster j.core)) [c] (s, j.fork.view)
      s.updJob k q (fun j => { j with wait := j.wait.eraseIdx n, fork := { j.fork with view := v } })
    | none => if j.ran.isSome || !s.forkReady j.fork then s else
      let (j, s) := s.runQueue j picks
      s.updJob k q (fun _ => j)

/-- JOB_COMPLETE: the oldest unfinished job of a queue runs; the `qget`s that wait are answered. A killed hand's job leaves
nothing behind but its writes (R366). -/
def execJobComplete (s : State) : Host.Outcome State Fault Refusal :=
  let k := s.args.n
  let q := s.args.m
  match s.jobs.find? (Job.next k q) with
  | none => .next s
  | some j =>
    if !s.forkReady j.fork then .next s
    else
      let (j, s) := if j.ran.isSome then (j, s) else s.runQueue j s.args.picks
      let (s, v) := State.writeChunks (clusterParty (coreCluster j.core)) j.wait (s, j.fork.view)
      let j' := { j with finished := j.ran, wait := [], fork := { j.fork with view := v } }
      let before := s.jobs.takeWhile (fun x => !x.next k q)
      let after := (s.jobs.dropWhile (fun x => !x.next k q)).tail
      match s.hand? k with
      | none => .next { s with jobs := before ++ after }
      | some h =>
        if h.state == .killed then .next { s with jobs := before ++ after }
        else .next (State.serveQgets k q h.outst.length { s with jobs := before ++ [j'] ++ after })

/-! ## Expert counters (R377) -/

/-- The next lane of an `xcnt` acts on its counter of the hand's partition. -/
def State.countLane (s : State) (k id : Nat) (clear : Bool) : List (Nat × Nat) → State
  | [] => s
  | (t, e) :: rest =>
    let p := (s.hand k).part
    let v := lookupD e (0 : Word) (s.part p).xcnt
    let s := if clear then s.updPart p (fun x => { x with xcnt := insertK e 0 x.xcnt }) else s
    (s.updOutst k id (fun o => { o.fill t [(v.zeroExtend 64, false)] with work := .xcnt clear rest })).returnIfDone k id

/-- `xcnt.rd` and `xcnt.clr`: the lanes act one after another, each in a step of its own. -/
def xcntOp (clear : Bool) (w : CoreWords) (s : State) : Host.Outcome State Fault Refusal :=
  execCore { outside := clear, edge := true } w s fun i act s =>
    let a := w.gA
    withRegs i act s [(a, .move)] w.gDst (w.lrNames a (.lit 0) (.lit 0)) fun h s =>
      let bad := Lanes.of (fun t => act.has t && a.word h i.uni t >>> 12 != 0)
      if bad != 0 then .trap s (i.fault act 0x0A 0 (i.word0.zeroExtend 64) bad)
      else .ok (s.addOutst i.hand act (.xcnt clear (act.list.map (fun t => (t, (a.word h i.uni t).toNat))))
        (asyncDsts (s.hand i.hand) act w w.gDst 2) 0 0)

/-- `xcnt.rd`. -/
def execXcntRd : CoreWords → State → Host.Outcome State Fault Refusal := xcntOp false
/-- `xcnt.clr`. -/
def execXcntClr : CoreWords → State → Host.Outcome State Fault Refusal := xcntOp true

/-! ## Ranges (R79, R378) -/

/-- Claim a chunk of a range state: its first index and its end. -/
def RangeState.claim (r : RangeState) : (DWord × DWord) × RangeState :=
  if r.hi.toInt ≤ r.cur.toInt then ((r.hi, r.hi), r)
  else
    let next := r.cur.toInt + r.grain.toNat
    if r.hi.toInt ≤ next then ((r.cur, r.hi), { r with cur := r.hi })
    else ((r.cur, BitVec.ofInt 64 next), { r with cur := BitVec.ofInt 64 next })

/-- `rng` (R378): the first one after a relaunch returns the last chunk again (R214). -/
def execRng (w : CoreWords) (s : State) : Host.Outcome State Fault Refusal :=
  execCore { outside := true } w s fun i act s =>
    let h := s.hand i.hand
    if h.pair = 2 then s.sentAnswer i act [.h w.nameD, .h (w.nameD + 1)] (fun s => ([], s))
    else match h.range.bind (fun r => s.ranges.find? (fun x => x.id = r)) with
    | none => .trap s (i.faultW act 0x0A 0)
    | some r =>
      let b := s.retain h.lid h.hid
      let give (c : DWord × DWord) (s : State) : Done :=
        .ok (s.addOutst i.hand act .sent [uniformDst (.h w.nameD) 0 c.1, uniformDst (.h (w.nameD + 1)) 0 c.2] 0 0)
      if b.rngAgain then give (b.rlo, b.rhi) (s.setRetain { b with rngAgain := false })
      else
        let (c, r') := r.claim
        let s := { s with ranges := updWhere (fun x => x.id = r.id) (fun _ => r') s.ranges }
        if c.1 == c.2 then give c s else give c (s.setRetain { b with chv := true, rlo := c.1, rhi := c.2 })

end Sys2Proof.Machine
end

