-- ==== Sys2Proof/Machine/Return.lean ====
section
/-!
DEFINITION. The step RESULT_RETURN (spec/05 R119 to R121).
-/
namespace Sys2Proof.Machine

/-- RESULT_RETURN: lanes of a load or a fence are performed, tile work is done, a window is bound, and a result whose lanes
are all back returns. Results of other units return in those units' steps. -/
def execResultReturn (s : State) : Host.Outcome State Fault Refusal :=
  let k := s.args.n
  let id := s.args.m
  match (s.hand k).outst.find? (fun o => o.id = id) with
  | none => .next s
  | some o =>
    if o.returned then .next s
    else
      let ready (ls : List LoadLane) : List LoadLane :=
        ls.filter (fun l => s.args.lanes.has l.lane && !o.back.has l.lane && l.win.isNone && s.answered k id l.lane)
      match o.work with
      | .value | .sent => .next (s.deliverResult k id)
      | .twin keys kind ls =>
        match s.forwards (s.hand k) keys with
        | some fs => .next ((((s.takeOwn k id kind (ls.map Prod.fst) fs).updOutst k id (fun o => o.take fs)).returnResult k id).dropForwards (s.hand k) keys)
        | none => .next s
      | .load n fmt acq ls =>
        .next ((performLanes (fun s l p => s.performLane k id n fmt acq l p) (ready ls) s.args.picks s).returnIfDone k id)
      | .inv n fmt ls =>
        .next ((performLanes (fun s l p => s.performInv k id n fmt l p) (ready ls) s.args.picks s).returnIfDone k id)
      | .loadH loc _ seqs failed =>
        if !s.answered k id (Lanes.lowest o.lanes) then .next s
        else
          let h := s.hand k
          let view := seqs.foldl (fun v l => View.join v (h.thread l.1).view) []
          let first := s.args.picks.getD 1 0
          let sb := (seqs.drop first ++ seqs.take first).foldr (fun l acc => (h.thread l.1).older l.2 ++ acc) []
          let x := s.loadWord sb (s.chainOf h seqs) view loc 8 (s.args.picks.headD 0)
          let s := if x.bad then s.logUE loc else s
          let s := if x.from_.isSome then (s.crossHome (coreDie h.core) loc).hostRead loc else s
          let s := seqs.foldl (fun s l => s.updThread k l.1 (fun m => m.saw (wordOf loc) x.from_)) s
          let none_ := x.lost || failed
          let vals := allLanes.map (fun t => ({ lane := t, value := BitVec.ofNat 64 x.value, bad := x.bad || none_, lost := none_ } : LaneVal))
          .next ((s.updOutst k id (fun o => { o with dsts := o.dsts.map (fun d => { d with vals := vals }) })).deliverResult k id)
      | .cbFault pc cbd => .next (s.cbFaulted k o pc cbd)
      | .xcnt clear ls => .next (s.countLane k id clear ls)
      | .barTst g olds => .next (s.answerBarTst k id g olds)
      | .bbarTst loc parity => .next (s.answerBbarTst k id loc parity o.lanes)
      | .segq d idx =>
        let h := s.hand k
        if s.deckEarlier h d id then .next s
        else .next ((s.updOutst k id (fun o =>
          { o with dsts := o.dsts.map (fun x => { x with vals := (uniformDst x.dst 0 (s.segWord h d idx)).vals }) })).deliverResult k id)
      | .fence scope ls =>
        let todo := ls.filter (fun l => s.args.lanes.has l.1 && !o.back.has l.1)
        .next ((todo.foldl (fun s l => s.performFence k id scope l) s).returnIfDone k id)
      | .tile c wid =>
        let drains := (s.core c).work.any (fun x => x.id = wid && (match x.op with | .drain _ _ _ _ _ _ _ | .sums _ _ _ => true | _ => false))
        if drains then .next s else .next (s.completeTile k id c wid s.args.picks)
      | .wbind win loc f =>
        if !s.forkReady f then .next s
        else
          let (bs, bad, _) := s.engRead (s.forkView f) loc 32 s.args.picks
          let s := bad.foldl State.logUE ((s.crossHome (coreDie (s.hand k).core) loc).hostRead loc)
          let (st, s) := s.bindWindow (s.hand k) win (leNat bs)
          .next ((s.updOutst k id (fun o =>
            { o with dsts := o.dsts.map (fun d => { d with vals := (uniformDst d.dst 2 (BitVec.ofNat 64 st)).vals }) })).deliverResult k id)
      | _ => .next s

end Sys2Proof.Machine
end

