-- ==== Sys2Proof/Machine/Spawn.lean ====
section
/-!
DEFINITION. Class 7 and speculation: tokens, segments, likelihoods, resolutions and commits (spec/04 R93 to R113, spec/16 R379 to
R385, spec/07 R183), with the steps SPAWN_ENTRY_ARRIVAL, RESOLUTION_APPLY and COMMIT_DRAIN.
-/
namespace Sys2Proof.Machine

/-! ## Tokens (R93, R94) -/

/-- The identifier of an entry at a generation. -/
def tokenId (die idx gen : Nat) : Word := BitVec.ofNat 32 (idx + die * 2 ^ 12 + gen % 2 ^ 18 * 2 ^ 14)

/-- `cond` allocates the lowest-numbered free entry of a die (R93). -/
def State.newToken (s : State) (die : Nat) (lid : Word) : Word × State :=
  let ts := (s.die die).tokens
  let used := (ts.filter (fun e => e.state != 0)).map Token.idx
  let i := lowestFree used used.length 0
  if 4096 ≤ i then (nullToken, s)
  else
    let old := ((ts.find? (fun e => e.idx = i)).map Token.gen).getD 0
    let gen := if tokenId die i (old + 1).toNat == nullToken then 0 else old + 1
    (tokenId die i gen.toNat,
      s.updDie die (fun d => { d with tokens := { idx := i, state := 1, gen := gen, lid := lid } :: d.tokens.filter (fun e => e.idx ≠ i) }))

/-! ## The predictor (R112, R113) -/

def predIndex (pc : DWord) (lid : Word) : Nat := bits pc.toNat 2 10 ^^^ bits pc.toNat 12 10 ^^^ bits lid.toNat 0 10

/-- The estimate of a spawn site on a die. -/
def State.estimate (s : State) (die pidx : Nat) : Nat :=
  match (s.die die).predictor.find? (fun x => x.1 = pidx) with
  | some (_, taken, total) => if total == 0 then 0x4000 else taken.toNat * 0x8000 / total.toNat
  | none => 0x4000

def State.updPredictor (s : State) (die pidx : Nat) (hit : Bool) : State :=
  s.updDie die (fun d =>
    let (taken, total) := ((d.predictor.find? (fun x => x.1 = pidx)).map Prod.snd).getD (0, 0)
    let (taken, total) := if total == 255 then (taken >>> 1, total >>> 1) else (taken, total)
    { d with predictor := (pidx, taken + (if hit then 1 else 0), total + 1) :: d.predictor.filter (fun x => x.1 ≠ pidx) })

/-! ## Pruning (R108) -/

/-- A pruned hand whose tile work has not completed: nothing of it is left but that work, which a prune does not undo (R111). -/
def Hand.ghost (h : Hand) : Hand :=
  { h with state := .killed, parks := [], squirrel := [], seg := none, range := none, mem := [], arrival := none, slice := none,
           pendTrap := none, laterTraps := [], pendInt := none,
           outst := h.outst.filter (fun o => match o.work with | .tile _ _ => true | _ => false) }

/-- Take a hand away without a report: its registers are freed without spill. -/
def State.removeHand (s : State) (k : Nat) : State :=
  let h := s.hand k
  let s := ((s.dropRegs k).freePlace k).unwait k
  { s with
    hands := if s.cores.any (fun c => c.2.work.any (fun x => x.fork.hand = k)) then updWhere (fun x => x.key = k) Hand.ghost s.hands
      else s.hands.filter (fun x => x.key ≠ k),
    retained := s.retained.filter (fun r => !(r.lid = h.lid && r.hid == h.hid)),
    ranges := s.ranges.filter (fun r => !(h.seg.isSome && h.range == some r.id)) }

/-- A segment is refuted: its entry is FREE, its hand gone, its region discarded, and every descendant refuted. -/
def State.prune : Nat → State → Nat × Nat → State
  | 0, s, _ => s
  | fuel + 1, s, p =>
    match s.seg? p with
    | none => s
    | some e =>
      let kids := (List.range s.dies.length).foldr (fun d acc => ((s.die d).deck.filter (fun x => x.parent == some (p.1, p.2, e.seq))).map
        (fun x => (d, x.idx)) ++ acc) []
      let s := match e.hand with
        | some k => s.removeHand k
        | none => s
      kids.foldl (fun s q => State.prune fuel s q) (s.freeSeg p)

def State.pruneSeg (s : State) (p : Nat × Nat) : State := s.prune (s.segCount + 1) p

/-! ## Class-7 instructions -/

/-- A c register as the scheduler memory holds it: with every earlier class-7 write of the hand (R379). -/
def Hand.schedC (h : Hand) (n : Nat) : Word :=
  h.outst.foldl (fun acc o => o.dsts.foldl (fun acc d =>
    if d.dst = .c n && d.skip != 0xFFFFFFFF then match d.vals.head? with
      | some v => v.value.setWidth 32
      | none => acc
    else acc) acc) (h.uni.c.getD n 0)

/-- A k register as the scheduler memory holds it. -/
def Hand.schedK (h : Hand) (n : Nat) : BitVec 16 :=
  h.outst.foldl (fun acc o => o.dsts.foldl (fun acc d =>
    if d.dst = .k n && d.skip != 0xFFFFFFFF then match d.vals.head? with
      | some v => v.value.setWidth 16
      | none => acc
    else acc) acc) (h.uni.k.getD n 0)

/-- The die of the Deck that an entry goes to (R100). -/
def Hand.deckOf (h : Hand) (token : Option Word) : Nat :=
  match token, h.seg with
  | some t, _ => tokenDie t
  | none, some p => p.1
  | none, none => coreDie h.core

/-- The h registers that a spawn reads (R382). -/
def spawnArgs : List Nat := (List.range 8).map (fun i => 24 + i)

/-- `spawn` and the forms of `spawnc`: polarity, and whether the predictor gives the factor. -/
def spawnOp (kind : Option (Bool × Bool)) (w : CoreWords) (s : State) : Host.Outcome State Fault Refusal :=
  execCore { outside := true } w s fun i act s =>
    withRegs i act s (spawnArgs.map (fun n => (Operand.h n, .move))) [] [] fun h s =>
      let entry := i.next + (BitVec.ofNat 24 (w.f2 0 24)).signExtend 64 <<< 2
      let args := spawnArgs.map (uniVal i act h)
      let seqs := act.list.map (fun t => (t, (h.thread t).sbNext))
      let rng := w.f2 24 1 == 1
      let pidx := predIndex i.pc h.lid
      let parent := h.seg.bind (fun p => (s.seg? p).map (fun e => (p.1, p.2, e.seq)))
      let work : Work := match kind with
        | none => .spawn (h.deckOf none) entry args none false 0x8000 false 0 rng seqs parent
        | some (pol, pred) =>
          let token := h.schedC w.nameA
          let own : BitVec 16 := if pred then BitVec.ofNat 16 (s.estimate (tokenDie token) pidx)
            else if 0x8000 < (h.schedK w.nameB).toNat then 0x8000 else h.schedK w.nameB
          .spawn (h.deckOf (some token)) entry args (some token) pol own pred pidx rng seqs parent
      .ok (s.addOutst i.hand act work [pendingDst (.h w.nameD) 2] 0 0)

/-- `spawn`. -/
def execSpawn : CoreWords → State → Host.Outcome State Fault Refusal := spawnOp none
/-- `spawnc.t`. -/
def execSpawncT : CoreWords → State → Host.Outcome State Fault Refusal := spawnOp (some (true, false))
/-- `spawnc.f`. -/
def execSpawncF : CoreWords → State → Host.Outcome State Fault Refusal := spawnOp (some (false, false))
/-- `spawnc.t.pred`. -/
def execSpawncTPred : CoreWords → State → Host.Outcome State Fault Refusal := spawnOp (some (true, true))
/-- `spawnc.f.pred`. -/
def execSpawncFPred : CoreWords → State → Host.Outcome State Fault Refusal := spawnOp (some (false, true))

/-- `cond` (R381). -/
def execCond (w : CoreWords) (s : State) : Host.Outcome State Fault Refusal :=
  execCore { outside := true } w s fun i act s =>
    s.sentAnswer i act [.c w.nameD] (fun s =>
      let (t, s) := s.newToken (coreDie i.core) (s.hand i.hand).lid
      ([uniformDst (.c w.nameD) 0 (t.zeroExtend 64)], s))

/-- `resolve` (R383, R95): an OPEN token settles, and its resolution goes to the Deck of every die. -/
def execResolve (w : CoreWords) (s : State) : Host.Outcome State Fault Refusal :=
  execCore { outside := true, edge := true } w s fun i act s =>
    let h := s.hand i.hand
    let v := h.readQ (Lanes.lowest act) w.nameB
    let differ := Lanes.of (fun t => act.has t && h.readQ t w.nameB != v)
    if differ != 0 then .trap s (i.fault act 0x03 0 (if v then 1 else 0) differ)
    else if h.pair = 2 then .ok s
    else
      let t := h.schedC w.nameA
      match s.token? h.lid t with
      | none => .ok s
      | some e =>
        if e.state != 1 then .ok s
        else
          let d := tokenDie t
          let s := s.updDie d (fun x =>
            { x with tokens := updWhere (fun y => y.idx = e.idx) (fun y => { y with state := if v then 2 else 3 }) x.tokens })
          .ok { s with resolutions := s.resolutions ++
            (List.range 4).map (fun j => { die := j, token := t, outcome := v, hand := i.hand, order := h.nextId }) }

/-- `lkset` (R384). -/
def execLkset (w : CoreWords) (s : State) : Host.Outcome State Fault Refusal :=
  execCore { outside := true } w s fun i act s =>
    withRegs i act s [(w.hA, .move)] [] [] fun h s =>
      .ok (s.answer i act [uniformDst (.k w.nameD) 0 (((uniVal i act h w.nameA).setWidth 16 : BitVec 16).zeroExtend 64)] [])

/-- `lkget` (R384). -/
def execLkget (w : CoreWords) (s : State) : Host.Outcome State Fault Refusal :=
  execCore {} w s fun i act s =>
    .ok (s.answer i act [uniformDst (.h w.nameD) 2 (((s.hand i.hand).schedK w.nameA).zeroExtend 64)] [])

/-- `segq` (R385): the entry is read with the result's return. -/
def execSegq (w : CoreWords) (s : State) : Host.Outcome State Fault Refusal :=
  execCore {} w s fun i act s =>
    withRegs i act s [(w.hA, .move)] [] [] fun h s =>
      let a := uniVal i act h w.nameA
      if a >>> 30 != 0 then .trap s (uniProt i act a)
      else
        .ok (s.addOutst i.hand act (.segq (getField a 28 2) (getField a 16 12)) [pendingDst (.h w.nameD) 0] 0 0)

/-! ## Spawn entries (R99 to R102) -/

/-- Ancestors whose regions hold stores at the spawn, with the number of stores issued so far; a parent that is gone has drained. -/
def State.storesBefore (s : State) (parent : Option (Nat × Nat × Word)) : List (Nat × Nat × Word × Nat) :=
  match parent with
  | none => []
  | some (d, idx, seq) => match (s.seg? (d, idx)).filter (fun e => e.seq == seq) with
    | none => []
    | some e => (d, idx, seq, e.drained + e.region.length) :: e.before

/-- A SEQ follows another, modulo 2^32 with 0 skipped. -/
def seqAfter (n : Word) : Word := if n + 1 == 0 then 1 else n + 1

/-- A spawn entry reaches its Deck: the status word, with the Deck's die (R382), and the Decks after it. Its parent is the segment of its hand
at issue, which counts as committed where its entry has been freed or reused since (R102). -/
def State.enterSeg (s : State) (h : Hand) (d : Nat) (entry : DWord) (args : List DWord) (token : Option Word) (pol : Bool) (own : BitVec 16)
    (pred : Bool) (pidx : Nat) (rng : Bool) (view : View) (parent : Option (Nat × Nat × Word)) : Nat × State :=
  let die := d * 2 ^ 28
  let deck := (s.die d).deck
  let used := deck.map Seg.idx
  let idx := lowestFree used used.length 0
  let st : BitVec 2 := match token with
    | none => (0 : BitVec 2)
    | some t => s.tokenAt d h.lid t
  let badRange := rng && ((args.getD 1 0).toInt ≤ (args.getD 0 0).toInt || ((args.getD 2 0).setWidth 32 : Word) == 0)
  if token.isSome && st == 0 then (2 + die, s)
  else if 4096 ≤ idx then (1 + die, s)
  else if (st == 2 && !pol) || (st == 3 && pol) || badRange then (3 + die, s)
  else
    let e : Seg :=
      { idx := idx, state := 1, pol := pol, pred := pred, range := rng, depth := 0, own := if st == 2 || st == 3 then 0x8000 else own,
        cum := 0, token := token.getD nullToken, parent := parent, pidx := pidx, entry := entry, seq := (s.die d).nextSeq,
        lid := h.lid, args := args, view := view, hand := none, region := [], hasRegion := false, drained := 0,
        draining := false, before := s.storesBefore parent }
    let s := s.updDie d (fun x => { x with deck := x.deck ++ [e], nextSeq := seqAfter x.nextSeq })
    let depth := s.depthOf d e
    let deep := st == 1 && (8 < depth || (s.part h.part).cfg.specsz == 0)
    let upd (e : Seg) : Seg :=
      { e with state := if deep then 2 else 1, depth := min 15 depth, cum := BitVec.ofNat 16 (s.cumOf s.segCount e) }
    (idx * 2 ^ 16 + die, s.updSeg (d, idx) upd)

/-- SPAWN_ENTRY_ARRIVAL: once the split's older stores have drained (R169), and in issue order at each Deck (R379). -/
def execSpawnEntryArrival (s : State) : Host.Outcome State Fault Refusal :=
  let k := s.args.n
  let h := s.hand k
  match h.outst.find? (fun o => o.id = s.args.m && !o.returned) with
  | none => .next s
  | some o =>
    match o.work with
    | .spawn deck entry args token pol own pred pidx rng seqs parent =>
      let drained := seqs.all (fun q => ((h.thread q.1).older q.2).isEmpty)
      if !drained || s.deckEarlier h deck o.id then .next s
      else
        let view := seqs.foldl (fun v q => View.join v (h.thread q.1).view) []
        let (st, s) := s.enterSeg h deck entry args token pol own pred pidx rng view parent
        .next ((s.updOutst k o.id (fun o =>
          { o with dsts := o.dsts.map (fun d => { d with vals := (uniformDst d.dst 2 (BitVec.ofNat 64 st)).vals }) })).deliverResult k o.id)
    | _ => .next s

/-! ## Resolutions (R110, R113) -/

/-- RESOLUTION_APPLY: the oldest resolution that can reach a die is applied there. -/
def execResolutionApply (s : State) : Host.Outcome State Fault Refusal :=
  let d := s.args.n
  let can (r : Resolution) : Bool := r.die = d &&
    !(s.hand r.hand).outst.any (fun o => !o.returned && o.id < r.order &&
      (match o.work with
      | .spawn x _ _ _ _ _ _ _ _ _ _ => x == d
      | .segq x _ => x == d
      | _ => false))
  match s.resolutions.find? can with
  | none => .next s
  | some r =>
    let s := { s with resolutions := s.resolutions.filter (fun x => !(x.die = d && x.token == r.token)) }
    let direct := (s.die d).deck.filter (fun e => e.token == r.token)
    let pairs := direct.foldl (fun acc e => if acc.contains (e.pidx, e.pol) then acc else acc ++ [(e.pidx, e.pol)]) []
    let s := pairs.foldl (fun s x => s.updPredictor d x.1 (x.2 == r.outcome)) s
    let s := direct.foldl (fun s e =>
      if e.pol == r.outcome then s.updSeg (d, e.idx) (fun e => { e with own := 0x8000 }) else s.pruneSeg (d, e.idx)) s
    .next s.settle

/-! ## Commits (R110, R183) -/

/-- Descendants to which a store of a segment must be visible: their views, and those of their hands' threads, take its
index (R106). -/
def State.showStore (s : State) (p : Nat × Nat) (seq : Word) (number w idx : Nat) : State :=
  let knows (x : Seg) : Bool := x.before.any (fun b => b.1 = p.1 && b.2.1 == p.2 && b.2.2.1 == seq && number < b.2.2.2)
  let hands := s.dies.foldl (fun acc d => acc ++ (d.deck.filter knows).filterMap Seg.hand) []
  let up (v : View) : View := View.raise w idx v
  let s := { s with dies := s.dies.map (fun (d : Die) => { d with deck := updWhere knows (fun (x : Seg) => { x with view := up x.view }) d.deck }) }
  hands.foldl (fun s k => s.updHand k (fun h => { h with mem := h.mem.map (fun m => { m with view := up m.view }) })) s

/-- COMMIT_DRAIN: a commit party drains the oldest store of a confirmed segment's region. -/
def execCommitDrain (s : State) : Host.Outcome State Fault Refusal :=
  let p := (s.args.n, s.args.m)
  match s.seg? p with
  | none => .next s
  | some e =>
    match e.region with
    | [] => .next s
    | (t, x) :: rest =>
      if !e.draining || !s.ancestorsDrained e then .next s
      else
        let h := (e.hand.map s.hand).getD default
        let s := s.updSeg p (fun e => { e with region := rest, drained := e.drained + 1 })
        let s := s.storeWord p.1 x.word x.mask x.data [] 0 h.party (match e.hand with | some k => .thread k t | none => .none)
        let idx := s.lastIdx x.word
        let s := match e.hand with
          | some k => s.updThread k t (fun m => { m with view := View.raise x.word idx m.view })
          | none => s
        let s := s.showStore p e.seq e.drained x.word idx
        let s := if rest.isEmpty then s.settle else s
        match e.hand with
        | some k => .next (s.wakeStores k)
        | none => .next s

/-! ## The end of a launch (R109) -/

/-- Segments that keep a launch from completing. -/
def State.segsBlock (s : State) (lid : Word) : Bool :=
  (List.range s.dies.length).any (fun d => (s.die d).deck.any (fun e => e.lid = lid &&
    (e.state == 6 || e.state == 7 || ((e.state == 1 || e.state == 2) && s.confirmed d e) || (e.state == 5 && e.draining))))

/-- The segments that remain are pruned, and the launch's tokens freed. -/
def State.endSpeculation (s : State) (lid : Word) : State :=
  let all := (List.range s.dies.length).foldr (fun d acc => ((s.die d).deck.filter (fun e => e.lid = lid)).map (fun e => (d, e.idx)) ++ acc) []
  let s := all.foldl State.pruneSeg s
  { s with
    dies := s.dies.map (fun (d : Die) =>
      { d with tokens := updWhere (fun t => decide (t.lid = lid)) (fun (t : Token) => { t with state := 0 }) d.tokens }),
    resolutions := s.resolutions.filter (fun r => (s.token? lid r.token).isNone) }

end Sys2Proof.Machine
end

