-- ==== Sys2Proof/Machine/System.lean ====
section
/-!
DEFINITION. Class 8: traps, system registers, interrupts, wakes and names (spec/16 R386 to R393, spec/08 R195 to R201), words that
are no instruction (spec/12 R265), and the steps TRAP_ENTRY and BACK_EDGE (spec/05 R136, R137).
-/
namespace Sys2Proof.Machine

/-! ## Words that are no instruction -/

/-- An issued word that does not decode raises the fault of R265 for the whole split. -/
def execEncodingNotInstruction (code : BitVec 8) (word0 : Word) (s : State) : Host.Outcome State Fault Refusal :=
  match s.cur with
  | some (.split i) => .next ((s.raise i (i.fault i.lanes code 0 (word0.zeroExtend 64) i.lanes)).finishCycle i.core i.slot)
  | _ => .refused .noIssuer

/-! ## Traps (R389, R390) -/

/-- `trap` (kind 1) and `brk` (kind 2). Its threads are given the PC of their trap: one at a level's END does not come to its edge (log 112). -/
def trapOp (kind : BitVec 2) (w : CoreWords) (s : State) : Host.Outcome State Fault Refusal :=
  execCore { outside := true, edge := true } w s fun i act s =>
    .trap s { code := 0, kind := kind, info := w.litVal.setWidth 16, pc := if kind == 1 then i.next else i.pc, val := 0,
              mask := act, split := act }

/-- `trap`. -/
def execTrap : CoreWords → State → Host.Outcome State Fault Refusal := trapOp 1
/-- `brk`. -/
def execBrk : CoreWords → State → Host.Outcome State Fault Refusal := trapOp 2

/-- `tret` (R198, R390). -/
def execTret (w : CoreWords) (s : State) : Host.Outcome State Fault Refusal :=
  execCore {} w s fun i act s =>
    let h := s.hand i.hand
    if (act &&& ~~~h.trapMode) != 0 then .trap s (i.faultW act 0x0A 0)
    else .moved (s.updHand i.hand (fun h => h.returnFromTrap act)) act

/-! ## System registers (R388) -/

/-- What `srd` reads. -/
def State.sysReg (s : State) (i : SplitIssue) (n idx wrd : Nat) : DWord :=
  let h := s.hand i.hand
  match n with
  | 0x00 => BitVec.ofNat 64 h.hid
  | 0x02 => h.shownLid.zeroExtend 64
  | 0x03 => BitVec.ofNat 64 (i.core % 32 + coreCluster i.core * 32)
  | 0x04 => BitVec.ofNat 64 h.kid
  | 0x05 => BitVec.ofNat 64 (s.devNum.toNat + coreDie i.core * 2 ^ 16)
  | 0x06 => h.hstat
  | 0x07 => h.gang
  | 0x08 => (s.launch h.lid).kmin.zeroExtend 64
  | 0x09 => h.rcell
  | 0x0A => (s.core i.core).cyc
  | 0x0B => (s.part h.part).cfg.cdt
  | 0x10 => h.trapRegs.xcause
  | 0x11 => h.trapRegs.xpc
  | 0x12 => h.trapRegs.xval
  | 0x13 => h.trapRegs.xmask
  | 0x14 => h.trapRegs.xvec
  | 0x18 => BitVec.ofNat 64 ((h.lc.getD idx default).image >>> (64 * wrd))
  | 0x19 => ((s.core i.core).tiles.getD idx Tile.init).tsh
  | 0x1A => (s.core i.core).cbd.getD idx 0
  | 0x1B => (h.readC i.uni (Lanes.lowest i.lanes) idx).zeroExtend 64
  | _ => 0

/-- Core cycles have passed, a number that the spec does not give (R9, log 46): the counter moves on by a free amount. -/
def State.tickCore (s : State) (c : Nat) : State :=
  s.updCore c (fun x => { x with cyc := x.cyc + (Config.freeWord s.tick).zeroExtend 64 })

/-- `srd`. A read of `gang` with DONE = 1 joins the round (R182, R361). -/
def execSrd (w : CoreWords) (s : State) : Host.Outcome State Fault Refusal :=
  execCore {} w s fun i act s =>
    if w.nameA = 0x01 then
      withRegs i act s [] w.gDst [] fun _ s => .ok (s.writeD i w act (fun t => BitVec.ofNat 32 t) 2)
    else
      let s := s.tickCore i.core
      let s := if w.nameA = 0x07 && (s.hand i.hand).gang.getLsbD 10 then
          let v := (s.hand i.hand).gangView
          i.lanes.list.foldl (fun s t => s.updThread i.hand t (fun m => { m with view := View.join m.view v })) s
        else s
      .ok (s.writeH i.hand w.nameD (s.sysReg i w.nameA (w.f2 0 4) (w.f2 4 3)) 0)

/-- Keep some bits of a value. -/
def keep (m v : DWord) : DWord := v &&& m

/-- What `swr` writes; none for a register marked read-only. A LEAD that names no member stays out of `gang` (R360). -/
def State.setSysReg (s : State) (i : SplitIssue) (n idx : Nat) (v : DWord) : Option State :=
  let hand (f : Hand → Hand) : Option State := some (s.updHand i.hand f)
  let trap (f : TrapRegs → TrapRegs) : Option State := hand (fun h => { h with trapRegs := f h.trapRegs })
  match n with
  | 0x06 => hand (fun h => { h with hstat := keep hstatBits v })
  | 0x07 => hand (fun h => if getField v 6 3 < getField h.gang 0 3 then { h with gang := setField h.gang 6 3 (getField v 6 3) } else h)
  | 0x09 => hand (fun h => { h with rcell := v })
  | 0x10 => trap (fun x => { x with xcause := keep xcauseBits v })
  | 0x11 => trap (fun x => { x with xpc := v &&& ~~~3 })
  | 0x12 => trap (fun x => { x with xval := v })
  | 0x13 => trap (fun x => { x with xmask := keep 0xFFFFFFFF v })
  | 0x14 => trap (fun x => { x with xvec := v &&& ~~~2 })
  | 0x1A => some (s.updCore i.core (fun c => { c with cbd := putAt 8 0 (fun _ => keep 0x1FFFFFFFF v) idx c.cbd }))
  | 0x1B => hand (fun h => { h.putC idx (v.setWidth 32) with outst := supersede (.c idx) 0xFFFFFFFF h.outst })
  | _ => none

/-- `swr`; to a `cbd` it acts outside the hand's speculation (R107). -/
def execSwr (w : CoreWords) (s : State) : Host.Outcome State Fault Refusal :=
  execCore { outside := true, edge := w.nameD == 0x1A } w s fun i act s =>
    withRegs i act s [(w.hA, .move)] [] [] fun h s =>
      match s.setSysReg i w.nameD (w.f2 0 4) (uniVal i act h w.nameA) with
      | some s => .ok s
      | none => .trap s (i.faultW act 0x0A 0)

/-! ## Interrupts, wakes and names (R391 to R393) -/

/-- `uintr`. -/
def execUintr (w : CoreWords) (s : State) : Host.Outcome State Fault Refusal :=
  execCore { outside := true, edge := true } w s fun i act s =>
    withRegs i act s [(w.hA, .move), (w.hB, .move)] [] [] fun h s =>
      let a := uniVal i act h w.nameA
      if a >>> 16 != 0 then .trap s (uniProt i act a)
      else
        let give (st : DWord) (s : State) : Done := .ok (s.writeH i.hand w.nameD st 2)
        if (s.launch h.lid).nextHid ≤ a.toNat then give 2 s
        else match s.handOf h.lid a.toNat with
          | none => give 2 s
          | some x =>
            if x.state == .done then give 2 s
            else if ((s.reload x.key).hand x.key).pendInt.isSome then give 1 s
            else
              let s := s.updSaved x.key (fun x => { x with pendInt := some (BitVec.ofNat 16 (w.f2 0 16), uniVal i act h w.nameB), intLate := x.state == .running })
              give 0 (if x.state == .asleep || x.state == .swappedAsleep then (s.unwait x.key).wakeHand x.key else s)

/-- `sig`; a twin leaves it to its primary (R216). -/
def execSig (w : CoreWords) (s : State) : Host.Outcome State Fault Refusal :=
  execCore { outside := true, edge := true, sync := true } w s fun i act s =>
    withRegs i act s [(w.hA, .move)] [] [] fun h s =>
      let key := uniVal i act h w.nameA
      if key.toNat % 8 ≠ 0 then .trap s (i.fault act 0x09 0 key act)
      else if !canonical key then .trap s (i.fault act 0x0A 0 key act)
      else if h.pair = 2 then .ok s
      else .ok (s.wakeKey h.asid key)

/-- `drop`: a base form names A and B only. -/
def execDrop (w : CoreWords) (s : State) : Host.Outcome State Fault Refusal :=
  execCore {} w s fun i act s =>
    let names := w.gA.gNames ++ w.gB.gNames ++ (if w.isExt then w.gC.gNames else [])
    .ok (s.freeNames i act names)

/-! ## TRAP_ENTRY (R196, R201) -/

/-- A pending user interrupt, set before this grant, is taken at it (R201); in a SPECRUN hand it is an effect edge (R194). -/
def Hand.takesInterrupt (h : Hand) : Bool :=
  h.pendInt.isSome && !h.intLate && !h.inTrap && h.voting != 0

/-- Take a user interrupt: the trapped split is the voting split of lowest PC. With `xvec`.EN 0 the hand fails, as it does for
`trap` and `brk` (log 47). In a SPECRUN hand it is an effect edge (R194). -/
def State.takeInterrupt (s : State) (c k hk : Nat) : State :=
  let h := s.hand hk
  match h.pendInt, h.lowestPc h.voting with
  | some (tag, payload), some pc =>
    let lanes := h.at h.voting pc
    if s.specRun h then s.effectEdge hk
    else if !h.trapRegs.xvec.getLsbD 0 then s.killGang hk 0 (some pc) false
    else
      (s.updHand hk (fun h => { h with pendInt := none })).takeTrap c k hk
        { code := 0, kind := 3, info := tag, pc := pc, val := payload, mask := lanes, split := lanes }
  | _, _ => s

/-- TRAP_ENTRY: at the grant of the hand in a slot. -/
def execTrapEntry (s : State) : Host.Outcome State Fault Refusal :=
  let c := s.args.n
  let k := s.args.m
  match (s.slot c k).hand with
  | none => .next s
  | some hk =>
    let h := s.hand hk
    if h.state != .running || (s.slot c k).count ≠ 0 then .next s
    else match h.pendTrap with
      | some t => .next ((s.takeTrap c k hk t).finishCycle c k)
      | none => if h.takesInterrupt then .next ((s.takeInterrupt c k hk).finishCycle c k) else .next s

/-! ## BACK_EDGE (R136) -/

/-- The back edge of a level whose members have all reached it. -/
def Hand.backEdge (h : Hand) (n : Nat) : Hand :=
  let l := h.lc.getD n default
  let out := if l.until_ then Lanes.of (fun t => l.edge.has t && h.readQ t l.uq.toNat) else 0
  let memb := l.memb &&& ~~~out
  let again := if l.until_ then memb != 0 else l.pass.toNat + 1 < l.trip.toNat + l.s.toNat - 1
  let l := { l with memb := memb, pass := l.pass + 1 }
  let at_ (m : Lanes) (pc : DWord) (h : Hand) : Hand :=
    { h with pc := (List.range 32).map (fun t => if m.has t then pc else h.pc.getD t 0) }
  let h := at_ out l.nextEnd h
  if again then
    let l := { l with
      stg := if l.until_ then l.stg
        else ((l.stg <<< 1) ||| (if l.pass.toNat < l.trip.toNat then 1 else 0)) &&& BitVec.ofNat 7 (2 ^ l.s.toNat - 1),
      edge := 0 }
    let h := (h.rotate l.depth.toNat l.base.toNat l.rsize.toNat)
    let h := { h with lc := putAt 6 default (fun _ => l) n h.lc }
    at_ memb l.start (driveStages h l)
  else
    let h := { h with lc := putAt 6 default (fun _ => l) n h.lc }
    (at_ memb l.nextEnd h).retireLevel n

/-- BACK_EDGE: fires when the level is the one that is due, in a cycle that has not issued yet. -/
def execBackEdge (s : State) : Host.Outcome State Fault Refusal :=
  let k := s.args.n
  let h := s.hand k
  let busy := (s.core h.core).slots.any (fun x => decide (x.hand = some k) && x.second.isSome)
  if h.state == .running && !busy && h.dueLevel == some s.args.m then .next (s.updHand k (fun h => h.backEdge s.args.m)) else .next s

end Sys2Proof.Machine
end

