-- ==== Sys2Proof/Machine/Launch.lean ====
section
/-!
DEFINITION. Launches: reading and validating a launch descriptor and its tables (spec/03 R68 to R78, spec/07 R175), acceptance
(spec/02 R47), the nodes of launch graphs (R41 to R45), item records (spec/03 R92), signal adds (spec/02 R37, R411) and the step
LAUNCH_COMPLETE (spec/04 R109).
-/
namespace Sys2Proof.Machine

/-! ## Accesses of the front end -/

/-- What stops an access of the front end: a page that is not resident; a line in a peer that has not been read yet; or anything else. -/
inductive Stop where
  | page (va : DWord) (home entry : Nat)
  | peer (line : Nat)
  | bad
  deriving DecidableEq, Repr

/-- Whether the data of a line in a peer have come for a reader; none before the peer has answered. -/
def State.frontGot (s : State) (r : Reader) (line : Nat) : Option Bool :=
  (s.frontReads.find? (fun x => x.who = r && x.loc == line)).bind FrontRead.got

/-- The location of a byte that the front end accesses under an ASID. A page that a Badger core has refused is bad. A byte in a peer is
read with its 64-byte line, which the peer sends first; a read that brings no data is bad (R155, log 50). -/
def State.feLoc (s : State) (r : Reader) (asid : BitVec 16) (va : DWord) (a : Access) (who : Nat := s.unit) : Except Stop Nat :=
  match s.translate asid va a who with
  | .ok loc _ =>
    if spaceOf loc == .peer && a == .read then
      match s.frontGot r (loc / 64 * 64) with
      | some true => .ok loc
      | some false => .error .bad
      | none => .error (.peer (loc / 64 * 64))
    else .ok loc
  | .prot => .error .bad
  | .page home e => if s.refusals.contains (asid, vaBits va / 2 ^ 16) then .error .bad else .error (.page va home e)

/-- Read bytes; uncorrectable data, and host memory while the host is lost, are bad. -/
def State.feBytes (s : State) (r : Reader) (asid : BitVec 16) : Nat → DWord → Except Stop (List (BitVec 8))
  | 0, _ => .ok []
  | n + 1, va => do
    let loc ← s.feLoc r asid va .read
    if s.isBad (wordOf loc) || (spaceOf loc == .host && s.hostLink.lost) then throw .bad
    let rest ← State.feBytes s r asid n (va + 1)
    return readCell s.mem loc :: rest

/-- Read `n` bytes as a number. -/
def State.feRead (s : State) (r : Reader) (asid : BitVec 16) (va : DWord) (n : Nat) : Except Stop Nat :=
  (s.feBytes r asid n va).map leNat

/-- Read `count` consecutive elements of `size` bytes. -/
def State.feTable (s : State) (r : Reader) (asid : BitVec 16) (size : Nat) : Nat → DWord → Except Stop (List Nat)
  | 0, _ => .ok []
  | n + 1, va => do
    let x ← s.feRead r asid va size
    let rest ← State.feTable s r asid size n (va + BitVec.ofNat 64 size)
    return x :: rest

/-- The first byte that a range has in each of its pages. -/
def pagesOf (va : DWord) (n : Nat) : List DWord :=
  (List.range ((va.toNat % 2 ^ 16 + n + 65535) / 65536)).map (fun i =>
    if i = 0 then va else BitVec.ofNat 64 ((va.toNat / 2 ^ 16 + i) * 2 ^ 16))

/-- A page of a range that is not resident. -/
def State.pageStop (s : State) (r : Reader) (asid : BitVec 16) (a : Access) (x : DWord × Nat) : Option Stop :=
  (pagesOf x.1 x.2).findSome? (fun va => match s.feLoc r asid va a with
    | .error (.page va home e) => some (.page va home e)
    | _ => none)

/-- What a die's front end does beside taking a word's value: an uncorrectable word is logged (R224), a line of the diagonal die takes its
way (R11), and a read of host memory has completed (R55). -/
def State.frontWord (s : State) (die loc : Nat) : State :=
  ((if s.isBad (wordOf loc) then s.logUE loc else s).crossHome die loc).hostRead loc

/-- The same for every word of a range. -/
def State.frontTouch (s : State) (die : Nat) (r : Reader) (asid : BitVec 16) (x : DWord × Nat) : State :=
  (List.range ((x.1.toNat % 8 + x.2 + 7) / 8)).foldl (fun s i =>
    match s.feLoc r asid (x.1 &&& ~~~7#64 + BitVec.ofNat 64 (8 * i)) .read with
    | .ok loc => s.frontWord die loc
    | .error _ => s) s

/-- Ask a peer for the data of a reader, unless that is under way. Without a port to the peer none come (R155). -/
def State.askPeer (s : State) (die : Nat) (r : Reader) (loc n : Nat) (add : Bool := false) : State :=
  if s.frontReads.any (fun x => x.who = r && x.loc == loc) then s
  else
    let x : FrontRead := { who := r, loc := loc, sent := s.tick, add := add, got := none }
    match s.readPeer die loc n (.front r loc s.tick) with
    | some s => { s with frontReads := s.frontReads ++ [x] }
    | none => { s with frontReads := s.frontReads ++ [{ x with got := some false }] }

/-- A reader takes no more of what it has read at a location. -/
def State.dropRead (s : State) (r : Reader) (loc : Nat) : State :=
  { s with frontReads := s.frontReads.filter (fun x => !(decide (x.who = r) && x.loc == loc)) }

def Queue.reader (q : Queue) : Reader := .queue q.fn q.idx

/-- Ask a Badger core for a page on behalf of a die's front end (R49). -/
def State.frontPage (s : State) (die : Nat) (asid : BitVec 16) (va : DWord) (home entry : Nat) : State :=
  let page := vaBits va / 2 ^ 16
  let s := s.requestPage (1024 + die) asid va home entry
  { s with pageReqs := updWhere (fun r => decide (r.asid = asid) && r.page == page) (fun r => { r with front := true }) s.pageReqs }

/-- A refusal has been reported. -/
def State.dropRefusals (s : State) (asid : BitVec 16) : State := { s with refusals := s.refusals.filter (fun r => r.1 ≠ asid) }

/-! ## Signal adds (R37, R411) -/

/-- What an add to a word comes to (log 50): one in a peer is a read and then a write, one add after the other; while it has not been
read, the add waits, and one whose read brings no data is dropped as a store to that peer is (R155). -/
inductive AddTurn where
  | go (s : State)
  | wait (s : State)
  | lost (s : State)

def State.addTurn (s : State) (die : Nat) (r : Reader) (loc : Nat) : AddTurn :=
  if spaceOf loc ≠ .peer then .go s
  else if s.frontReads.any (fun x => x.add && x.loc == loc && x.who != r) then .wait s
  else
    let s := s.askPeer die r loc 8 true
    match s.frontGot r loc with
    | none => .wait s
    | some true => .go (s.dropRead r loc)
    | some false => .lost ((s.dropRead r loc).dropPeerStore die)

/-- The add to a signal word: plus 1, and bit 63 set for a failure. It makes the stores of the views visible at system scope. A
page that is not resident holds the add, and so does a peer that has not sent the word; a target that fails otherwise loses it, with a Magpie record and the function's MSI-X
vector. -/
def State.signalAdd (s : State) (a : HeldAdd) : State :=
  if a.va = 0 then s
  else
    let die := ((s.queue? a.queue).map Queue.die).getD 0
    match s.feLoc .adds a.asid a.va .write (2048 + die) with
    | .error (.page va home e) => { s.frontPage die a.asid va home e with heldAdds := s.heldAdds ++ [a] }
    | .error _ =>
      { s.magpie die unitFrontEnd 0x8E [a.va.toNat] with
        funcs := putAt 64 Func.init (fun f => { f with msix := f.msix + 1 }) a.queue.1 s.funcs }
    | .ok loc =>
      match s.addTurn die .adds loc with
      | .wait s => { s with heldAdds := s.heldAdds ++ [{ a with peer := true }] }
      | .lost s => s
      | .go s =>
        let v := (s.lastWrite loc).value + 1
        let v := if a.fail then v ||| (1 : DWord) <<< 63 else v
        s.storeWord die (wordOf loc) 0xFF v a.view 5 (frontParty die)

/-- Make the held adds of a page again, once its fault has been answered. -/
def State.retryAdds (s : State) (asid : BitVec 16) (page : Nat) : State :=
  let mine (a : HeldAdd) : Bool := a.asid = asid && vaBits a.va / 2 ^ 16 == page
  (s.heldAdds.filter mine).foldl State.signalAdd { s with heldAdds := s.heldAdds.filter (fun a => !mine a) }

/-- Make the adds that wait for peers again, in their order. -/
def State.retryPeerAdds (s : State) : State :=
  (s.heldAdds.filter HeldAdd.peer).foldl (fun s a => s.signalAdd { a with peer := false }) { s with heldAdds := s.heldAdds.filter (fun a => !a.peer) }

/-- A reader has done: what it has read is forgotten, and adds that waited for its own go on. -/
def State.endRead (s : State) (r : Reader) : State :=
  let add := s.frontReads.any (fun x => x.who = r && x.add)
  let s := { s with frontReads := s.frontReads.filter (fun x => x.who ≠ r) }
  if add then s.retryPeerAdds else s

/-! ## Validation (R69, R71, R78) -/

/-- A condition that a launch must meet. -/
def require (b : Bool) : Except Stop Unit := if b then .ok () else .error .bad

def nodups : List Nat → Bool
  | [] => true
  | x :: xs => !xs.contains x && nodups xs

/-- A group entry with its member list (R71). -/
def State.readGroup (s : State) (r : Reader) (asid : BitVec 16) (nhand : Nat) (e : Nat) : Except Stop Group := do
  let kind := bits e 0 2
  let nmem := bits e 16 16
  let ssize := bits e 32 32
  require (kind != 3 && bits e 2 14 == 0 && bits e 128 128 == 0)
  require (match kind with
    | 0 => 1 ≤ nmem && nmem ≤ 16384
    | 1 => 1 ≤ nmem && nmem ≤ 512
    | _ => 2 ≤ nmem && nmem ≤ 6)
  require (if kind = 1 then ssize % 256 == 0 && 256 ≤ ssize && ssize ≤ 524288 else ssize == 0)
  let ms ← s.feTable r asid 2 nmem (BitVec.ofNat 64 (bits e 64 64))
  require (ms.all (fun m => m < nhand) && nodups ms)
  return { kind := BitVec.ofNat 2 kind, ssize := ssize, mlist := BitVec.ofNat 64 (bits e 64 64), members := ms, phase := 0, arrived := [], views := [], failed := 0 }

/-- The constraints of R71 on a launch's groups. -/
def groupsOk (nhand : Nat) (gs : List Group) : Bool :=
  let count (p : Group → Bool) (m : Nat) : Nat := (gs.filter (fun g => p g && g.members.contains m)).length
  let proper (a b : Group) : Bool :=
    a.kind == b.kind && a.members.all b.members.contains && a.members.length < b.members.length
  gs.length ≤ 256 &&
    (List.range nhand).all (fun m => count (fun _ => true) m ≤ 4 && count (fun g => g.kind == 2) m ≤ 1) &&
    gs.all (fun a => gs.all (fun b => !proper a b))

/-- A pipeline description and its pipe table (R76 to R78). -/
def State.readPipe (s : State) (r : Reader) (asid : BitVec 16) (nhand : Nat) (pdesc : DWord) : Except Stop Pipe := do
  let d ← s.feRead r asid pdesc 32
  let nl := bits d 128 3
  let nc := bits d 131 3
  let ns := bits d 134 3
  let np := bits d 137 3
  let role (n : Nat) : Bool := 1 ≤ n && n ≤ 4
  require (role nl && role nc && role ns && 1 ≤ np && bits d 140 52 == 0)
  require (3 ≤ nl + nc + ns && nl + nc + ns ≤ 6 && nhand % (nl + nc + ns) == 0)
  let es ← s.feTable r asid 8 np (BitVec.ofNat 64 (bits d 192 64))
  let entry (e : Nat) : Bool :=
    bits e 3 2 != 0 && bits e 5 2 != 0 && bits e 3 2 != bits e 5 2 && bits e 7 9 == 0 && bits e 40 24 == 0 &&
      1 ≤ bits e 16 16 && bits e 16 16 ≤ 2048 && 1 ≤ bits e 32 8
  require (es.all entry && nodups (es.map (fun e => bits e 0 3)))
  let p : Pipe := { nl := nl, nc := nc, ns := ns, lentry := BitVec.ofNat 64 (bits d 0 64), sentry := BitVec.ofNat 64 (bits d 64 64),
                    pipes := es.map (BitVec.ofNat 64) }
  require (p.size ≤ 524288)
  return p

/-- A bind table of at most 64 entries (R175): object location, region. -/
def State.readBinds (s : State) (r : Reader) (asid : BitVec 16) : Nat → DWord → Except Stop (List (Nat × DWord × DWord))
  | 0, _ => .error .bad
  | n + 1, va => do
    let e ← s.feRead r asid va 32
    let obj := BitVec.ofNat 64 (bits e 0 64)
    let base := BitVec.ofNat 64 (bits e 64 64)
    let len := BitVec.ofNat 64 (bits e 128 64)
    require (obj.toNat % 8 == 0 && base.toNat % 64 == 0 && len.toNat % 64 == 0 && len != 0 && bits e 193 63 == 0)
    let loc ← (match s.translate asid obj .read with
      | .ok loc _ => .ok loc
      | .prot => .error Stop.bad
      | .page home t => if s.refusals.contains (asid, vaBits obj / 2 ^ 16) then .error .bad else .error (.page obj home t))
    if bits e 192 1 = 1 then return [(loc, base, len)]
    else
      let rest ← State.readBinds s r asid n (va + 32)
      return (loc, base, len) :: rest

/-- No two regions of a bind table overlap. -/
def regionsApart : List (Nat × DWord × DWord) → Bool
  | [] => true
  | x :: xs => xs.all (fun y => !overlaps x.2.1 x.2.2 y.2.1 y.2.2) && regionsApart xs

/-- The ranges of the tables that a descriptor names, as far as they can be read (R47): the argument block and GTAB, each MLIST, PDESC and
PTAB; and BTAB up to its LAST entry. A table whose page or line has not come ends its part of the list. -/
def State.tableRanges (s : State) (r : Reader) (asid : BitVec 16) (d : Nat) : List (DWord × Nat) :=
  let w (lo : Nat) : DWord := BitVec.ofNat 64 (bits d lo 64)
  let mlists := (List.range (bits d 80 9)).filterMap (fun i => match s.feRead r asid (w 128 + BitVec.ofNat 64 (32 * i)) 32 with
    | .ok e => some (BitVec.ofNat 64 (bits e 64 64), 2 * bits e 16 16)
    | .error _ => none)
  let ptab := match s.feRead r asid (w 576) 32 with
    | .ok e => [(BitVec.ofNat 64 (bits e 192 64), 8 * bits e 137 3)]
    | .error _ => []
  (if w 192 = 0 then [] else [(w 192, 64)]) ++ [(w 128, 32 * bits d 80 9)] ++ mlists ++
    (if bits d 89 1 = 1 then (w 576, 32) :: ptab else [])

/-- The entries of a bind table, as far as they can be read: their ranges, and the objects that they name. -/
def State.bindRanges (s : State) (r : Reader) (asid : BitVec 16) : Nat → DWord → List (DWord × Nat) × List DWord
  | 0, _ => ([], [])
  | n + 1, va =>
    match s.feRead r asid va 32 with
    | .error _ => ([(va, 32)], [])
    | .ok e =>
      let rest := if bits e 192 1 = 1 then ([], []) else State.bindRanges s r asid n (va + 32)
      ((va, 32) :: rest.1, BitVec.ofNat 64 (bits e 0 64) :: rest.2)

/-- What `dv.disp` reads of a descriptor and its tables, and the objects that it translates (R47). -/
def State.launchRanges (s : State) (r : Reader) (asid : BitVec 16) (va : DWord) : List (DWord × Nat) × List DWord :=
  match s.feRead r asid va 128 with
  | .error _ => ([(va, 128)], [])
  | .ok d =>
    let btab := BitVec.ofNat 64 (bits d 512 64)
    let bs := if btab = 0 then ([], []) else s.bindRanges r asid 64 btab
    ((va, 128) :: s.tableRanges r asid d ++ bs.1, bs.2)

/-- What a launch waits for before it is judged: a page of what it reads that is not resident; then a line of it in a peer (R47, R155). -/
def State.launchStop (s : State) (r : Reader) (asid : BitVec 16) (va : DWord) : Option Stop :=
  let x := s.launchRanges r asid va
  let line (x : DWord × Nat) : Option Stop := match s.feBytes r asid x.2 x.1 with
    | .error (.peer l) => some (.peer l)
    | _ => none
  ((x.1.findSome? (s.pageStop r asid .read)).or (x.2.findSome? (fun o => s.pageStop r asid .read (o, 1)))).or (x.1.findSome? line)

/-- A launch as its descriptor describes it, not numbered yet, with its bindings (R68, R69). A descriptor that does not lie in device
memory is read where it lies: no rule says what it gives (log 90). With ARGS 0 there is no argument block, and h0 to h7 are 0 (log 1); the
spec does not say that the block is read here, nor what one that cannot be read does, which the model treats as it treats a table (log 117). -/
def State.readLaunch (s : State) (r : Reader) (q : Queue) (va signal : DWord) (node : Option (Nat × Nat)) :
    Except Stop (Launch × List (Nat × DWord × DWord)) := do
  let part := s.part q.part
  require (part.cfg.en && va.toNat % 128 == 0)
  let d ← s.feRead r q.asid va 128
  let w (lo : Nat) : DWord := BitVec.ofNat 64 (bits d lo 64)
  let nhand := bits d 64 16
  let ngrp := bits d 80 9
  let pipe := bits d 89 1 == 1
  let pair := bits d 90 1 == 1
  let range := bits d 91 1 == 1
  let quota := bits d 96 9
  let owlb := bits d 112 8
  let xhand := if bits d 432 16 = 0 then 16384 - nhand else bits d 432 16
  let lo := w 256
  let hi := w 320
  let grain : Word := BitVec.ofNat 32 (bits d 384 32)
  require (bits d 0 2 == 0 && 1 ≤ nhand && nhand ≤ 16384 && ngrp ≤ 256 && bits d 92 4 == 0 && bits d 105 7 == 0 && bits d 704 320 == 0)
  require ((quota == 0 || (32 ≤ quota && quota ≤ 448)) && (owlb == 0 || (16 ≤ owlb && owlb ≤ 40)) && bits d 128 5 == 0)
  require (nhand + xhand ≤ 16384 && (!range || (lo.toInt < hi.toInt && grain != 0)) && pipe == (w 576 != 0))
  let args ← if w 192 = 0 then .ok (List.replicate 8 0) else s.feTable r q.asid 8 8 (w 192)
  let es ← s.feTable r q.asid 32 ngrp (w 128)
  let gs ← es.mapM (s.readGroup r q.asid nhand)
  let p ← if pipe then (s.readPipe r q.asid nhand (w 576)).map some else .ok none
  let n := match p with | some p => p.nl + p.nc + p.ns | none => 0
  let gangs : List Group := if n = 0 then [] else (List.range (nhand / n)).map (fun i =>
    { kind := 2, ssize := 0, mlist := 0, members := (List.range n).map (fun j => n * i + j), phase := 0, arrived := [], views := [], failed := 0 })
  let gs := gs ++ gangs
  require (groupsOk nhand gs)
  let cores := 32 * ((List.range 32).filter (fun c => part.cfg.clusters.getLsbD c)).length
  require (gs.all (fun g => g.kind != 2 || g.members.length ≤ cores) && (!pair || 64 ≤ cores))
  let binds ← if w 512 = 0 then .ok [] else s.readBinds r q.asid 64 (w 512)
  require (regionsApart binds)
  return ({ lid := 0, part := q.part, asid := q.asid, queue := (q.fn, q.idx), die := q.die, entry := w 0, nhand := nhand, range := range,
            pair := pair, quota := if quota = 0 then 128 else quota, owlb := if owlb = 0 then 30 else owlb,
            spsz := if bits d 120 8 = 0 then 1 else bits d 120 8, spbase := w 448, args := args.map (BitVec.ofNat 64), lo := lo,
            hi := hi, grain := grain, kmin := BitVec.ofNat 16 (bits d 416 16), xhand := xhand, items := w 640, signal := signal,
            groups := gs, pipe := p, nextHid := nhand, rangeId := none, reports := [], node := node, view := [],
            itemLost := false, twinOf := none, ngrp := ngrp, desc := d }, binds)

/-! ## Acceptance (R47) -/

/-- What `dv.disp` comes to: a fault 0x86, a page that is not resident, peers' homes that have not answered yet, full tables, or a
launch. -/
inductive Disp where
  | fault (s : State)
  | page (va : DWord) (home entry : Nat)
  | asked (s : State)
  | full (s : State)
  | ok (lid : Word) (s : State)

/-- Role and entry of a hand (R78). -/
def Launch.role (l : Launch) (hid : Nat) : Nat × DWord :=
  match l.pipe with
  | none => (0, l.entry)
  | some p =>
    let j := hid % (p.nl + p.nc + p.ns)
    if j < p.nl then (3, p.lentry) else if j < p.nl + p.nc then (1, l.entry) else (2, p.sentry)

/-- Register the bindings of a bind table whose homes lie here, and note those that peers' homes have registered; none when a home has no
free publish entry (R175). -/
def State.bindTable (s : State) (lid : Word) (bs : List (Nat × DWord × DWord)) : Option State :=
  bs.foldl (fun (s? : Option State) b => s?.bind (fun s =>
    if spaceOf b.1 != .peer && s.pubsFull b.1 then none
    else some (s.addBinding { lid := lid, obj := b.1, base := b.2.1, len := b.2.2 }))) (some s)

/-- DATA of a BIND or an UNBIND (R23). -/
def bindData (msg : Nat) (dev : BitVec 16) (obj : Nat) (base len : DWord) : BitVec 512 :=
  stepData msg 0 dev 0 (peerAddr obj + base.toNat * 2 ^ 64 + len.toNat * 2 ^ 128)

/-- The homes at peers take back what they have registered for a launch that is not accepted (R175). -/
def State.withdrawTable (s : State) (die : Nat) (mine : TableBind → Bool) : State :=
  let bs := s.tableBinds.filter mine
  let s := { s with tableBinds := s.tableBinds.filter (fun b => !mine b) }
  bs.foldl (fun s b => if b.answer == some false then s
    else (s.sendStep die b.obj (bindData 6 s.devNum b.obj b.base b.len) .none).getD s) s

/-- Ask the peers' homes for the bindings of a table. -/
def State.askTable (s : State) (q : Queue) (desc : DWord) (bs : List (Nat × DWord × DWord)) : State :=
  bs.foldl (fun s b =>
    let e : TableBind := { queue := (q.fn, q.idx), desc := desc, obj := b.1, base := b.2.1, len := b.2.2, answer := none }
    match s.sendStep q.die b.1 (bindData 3 s.devNum b.1 b.2.1 b.2.2) (.table e.queue desc b.1 b.2.1) with
    | some s' => { s' with tableBinds := s'.tableBinds ++ [e] }
    | none => { s with tableBinds := s.tableBinds ++ [{ e with answer := some ((Config.freeWord s.tick).getLsbD 0) }] }) s

/-- A peer's home has answered for an entry of a bind table. One without a response is a free value (log 43). -/
def State.tableAnswer (s : State) (q : Nat × Nat) (desc : DWord) (obj : Nat) (base : DWord) (ok : Bool) : State :=
  let bs := updWhere (fun b => b.queue = q && b.desc == desc && b.obj == obj && b.base == base) (fun b => { b with answer := some ok }) s.tableBinds
  { s with tableBinds := bs }

/-- The twins of a paired launch, as a launch of their own: it reports nothing and signals nothing (R216, log 66). -/
def Launch.twins (l : Launch) : Launch :=
  { l with lid := ~~~l.lid, queue := (64, 0), items := 0, signal := 0, rangeId := none, range := false, twinOf := some l.lid }

/-- The scheduler accepts a launch, unless the retained-record pool, the partition's 256 group-table entries (log 98) or publish entries are
full (R47): its number, bindings, groups, hands, range state and retained blocks; and the twins of a paired
launch. -/
def State.accept (s : State) (q : Queue) (l : Launch) (bs : List (Nat × DWord × DWord)) : Option State :=
  let entries := (s.launches.filter (fun x => x.part = l.part && x.twinOf.isNone && !x.freed)).foldl (fun n x => n + x.groups.length) l.groups.length
  if (s.part l.part).cfg.rlrblk.toNat < s.blocksUsed l.part + l.nhand || (256 < entries && l.groups.length ≠ 0) then none
  else (s.bindTable s.nextLid bs).map (fun s =>
    let lid := s.nextLid
    let l := { l with lid := lid, view := s.nowView, rangeId := if l.range then some s.nextRange else none }
    let r : RangeState := { id := s.nextRange, lid := lid, cur := l.lo, hi := l.hi, grain := l.grain, seq := 0, entry := l.entry, args := l.args }
    let hands := (List.range l.nhand).map (fun hid =>
      newHand l (s.nextHand + hid) hid (l.role hid).1 (l.role hid).2 l.args l.view)
    let ts := if l.pair then [l.twins] else []
    let twins := ts.foldr (fun t acc => (List.range t.nhand).map (fun hid =>
      newHand t (s.nextHand + l.nhand + hid) hid (t.role hid).1 (t.role hid).2 t.args t.view) ++ acc) []
    let s := { s with
      launches := s.launches ++ [l] ++ ts, nextLid := seqAfter lid, hands := s.hands ++ hands ++ twins, nextHand := s.nextHand + l.nhand + twins.length,
      ranges := if l.range then s.ranges ++ [r] else s.ranges, nextRange := s.nextRange + 1 }
    let s := (List.range l.nhand).foldl (fun s hid => s.takeBlock l.part (Retained.init lid hid)) s
    s.updQueue (q.fn, q.idx) (fun q => if q.owl == .idle then { q with owl := .counting, owlCount := 0 } else q))

/-- `dv.disp`: read, validate and accept a launch, once the peers' homes that its bind table names have answered (R175, log 51). A page of
what it reads that is not resident comes before every fault (R47), and lines that lie in peers come first (R155). -/
def State.dispatch (s : State) (q : Queue) (va signal : DWord) (node : Option (Nat × Nat)) : Disp :=
  let mine (b : TableBind) : Bool := b.queue == (q.fn, q.idx) && b.desc == va
  let r : Reader := match node with | none => q.reader | some (d, i) => .node d i
  let touched := (s.launchRanges r q.asid va).1.foldl (fun s x => s.frontTouch q.die r q.asid x) s
  match s.launchStop r q.asid va, s.readLaunch r q va signal node with
  | some (.page va home e), _ => .page va home e
  | some (.peer l), _ => .asked (s.askPeer q.die r l 64)
  | some .bad, _ | none, .error _ => .fault ((touched.withdrawTable q.die mine).endRead r)
  | none, .ok (l, bs) =>
    let s := touched
    let away := bs.filter (fun b => spaceOf b.1 == .peer)
    let asked := s.tableBinds.filter mine
    if asked.map (fun b => (b.obj, b.base, b.len)) != away then .asked ((s.withdrawTable q.die mine).askTable q va away)
    else if asked.any (fun b => b.answer.isNone) then .asked s
    else if asked.any (fun b => b.answer == some false) then .full ((s.withdrawTable q.die mine).endRead r)
    else match s.accept q l bs with
      | none => .full ((s.withdrawTable q.die mine).endRead r)
      | some s' => .ok s.nextLid { s'.endRead r with tableBinds := s'.tableBinds.filter (fun b => !mine b) }

/-! ## Completions -/

/-- Every packet that a queue has parsed has completed. -/
def Queue.settled (q : Queue) : Bool := q.inFlight.isEmpty

/-- A packet of a queue completes: the queue's completion wait may end (R410). -/
def State.landed (s : State) (k : Nat × Nat) (what : Flight) (v : View) : State :=
  let s := s.updQueue k (fun q => { q with inFlight := q.inFlight.filter (fun x => x.1 ≠ what), stores := View.join q.stores v })
  match s.queue? k with
  | some q => if q.await == .completions && q.settled then s.qWake k else s
  | none => s

/-! ## Launch graphs (R42 to R45) -/

/-- NSTATE codes. -/
def nIdle : BitVec 3 := 0
def nArmed : BitVec 3 := 1
def nRunning : BitVec 3 := 2
def nDone : BitVec 3 := 3
def nFailed : BitVec 3 := 4

def Graph.nodes (g : Graph) : List Nat := (List.range g.count).map (fun j => g.first + j)

/-- Successors of a node. -/
def State.successors (s : State) (d : Nat) (n : Node) : List Nat :=
  (List.range n.nsucc.toNat).map (fun j => (lookupD (n.succ.toNat + j) (0 : BitVec 16) (s.die d).succ).toNat)

/-- Write the item record of a node whose launch is never started (R43, R92): one FAILED item, at the list that its descriptor names.
A page that is not resident is served first, and the record is held; a record that fails otherwise is lost, and logged with its
address. -/
def State.putItem (s : State) (x : HeldItem) : State :=
  let s := s.frontTouch x.die .items x.asid (x.desc + 80, 8)
  let hold (va : DWord) (home e : Nat) : State := { s.frontPage x.die x.asid va home e with heldItems := s.heldItems ++ [x] }
  let lost (va : Nat) : State := s.magpie x.die unitFrontEnd 0 [va]
  match s.feRead .items x.asid (x.desc + 80) 8 with
  | .error (.page va home e) => hold va home e
  | .error (.peer l) =>
    let s := s.askPeer x.die .items l 64
    { s with heldItems := s.heldItems ++ [{ x with peer := true }] }
  | .error .bad => lost (x.desc + 80).toNat
  | .ok items =>
    if items = 0 then s
    else match s.feLoc .items x.asid (BitVec.ofNat 64 items) .write (2048 + x.die) with
      | .ok loc =>
        if spaceOf loc == .device then
          (s.crossHome x.die loc).writeBytes loc (leBytes (2 ^ 16 + x.code.toNat * 2 ^ 24) 8 ++ leBytes x.pc.toNat 8) (frontParty x.die)
        else lost items
      | .error (.page va home e) => hold va home e
      | .error _ => lost items

/-- The report of a node: the spec gives it no CODE and no PC, which are free values (log 52). -/
def State.reportNode (s : State) (g : Graph) (i : Nat) : State :=
  s.putItem { die := g.die, asid := g.asid, desc := (s.node g.die i).desc, code := (Config.freeWord s.tick).setWidth 8, pc := Config.freeDWord s.tick }

/-- Write the held records of an address space again, once a page of it has been served. -/
def State.retryItems (s : State) (asid : BitVec 16) : State :=
  (s.heldItems.filter (fun x => x.asid = asid)).foldl State.putItem { s with heldItems := s.heldItems.filter (fun x => x.asid ≠ asid) }

/-- A peer has answered a read of the front end, or will not: what was held for it goes on; a queue, a node's start or the finaliser reads
again by itself. -/
def State.frontAnswer (s : State) (r : Reader) (loc sent : Nat) (came : Bool) : State :=
  let mine (x : FrontRead) : Bool := x.who = r && x.loc == loc && x.sent == sent
  let s := { s with frontReads := updWhere mine (fun x => { x with got := some came }) s.frontReads }
  match r with
  | .adds => s.retryPeerAdds
  | .items =>
    let s := (s.heldItems.filter HeldItem.peer).foldl (fun s x => s.putItem { x with peer := false })
      { s with heldItems := s.heldItems.filter (fun x => !x.peer) }
    { s with frontReads := s.frontReads.filter (fun x => x.who ≠ .items || x.got.isNone) }
  | _ => s

/-- A node fails: its successors are never started and fail too, and so on, those that another GRAPH packet has armed among them. In MODE 1
a producer whose descriptor is refused has no group that could be marked, which R44 leaves open: its consumers stay ARMED (log 119). -/
def State.failNode : Nat → State → Graph → Nat → State
  | 0, s, _, _ => s
  | fuel + 1, s, g, i =>
    let s := s.updNode g.die i (fun n => { n with nstate := nFailed })
    if g.mode then s
    else (s.successors g.die (s.node g.die i)).foldl (fun s j =>
      let st := (s.node g.die j).nstate
      let g := (s.graphOf g.die j).getD g
      if st == nArmed || st == nIdle then State.failNode fuel (s.reportNode g j) g j else s) s

/-- A node completes: in MODE 0 each successor's CPRED falls by 1; a failed one fails its successors. -/
def State.endNode (s : State) (g : Graph) (i : Nat) (failed : Bool) : State :=
  if failed then State.failNode 8192 s g i
  else
    let s := s.updNode g.die i (fun n => { n with nstate := nDone })
    if g.mode then s
    else (s.successors g.die (s.node g.die i)).foldl (fun s j => s.updNode g.die j (fun n => { n with cpred := n.cpred - 1 })) s

/-- A node may start: ARMED, with CPRED 0 in MODE 0, with group 0's window settled in MODE 1: complete, or with a failed producer group,
which R44 does not say for the start (log 86). -/
def State.nodeReady (s : State) (g : Graph) (i : Nat) : Bool :=
  let n := s.node g.die i
  n.nstate == nArmed && (if g.mode then s.window g.die i 0 != .unsettled else n.cpred == 0)

/-- Start a node's launch. -/
def State.startNode (s : State) (q : Queue) (g : Graph) (i : Nat) : Disp × State :=
  match s.dispatch q (s.node g.die i).desc 0 (some (g.die, i)) with
  | .ok lid s' =>
    let n := (s'.launch lid).ngrp
    (.ok lid s', s'.updNode g.die i (fun x => { x with nstate := nRunning, lid := some lid, ngrp := some n }))
  | .fault s' => (.fault s', s')
  | .asked s' => (.asked s', s')
  | .full s' => (.full s', s')
  | .page va home e => (.page va home e, s.endRead (.node g.die i))

/-- The graph's packet completes when every node is DONE or FAILED (R37, R406). -/
def State.graphEnd (s : State) (g : Graph) : State :=
  let isOver := g.nodes.all (fun i => (s.node g.die i).nstate == nDone || (s.node g.die i).nstate == nFailed)
  if g.parsing || !isOver then s
  else
    let fail := g.reset || g.nodes.any (fun i => (s.node g.die i).nstate == nFailed)
    let s := { s with graphs := s.graphs.filter (fun x => x.id ≠ g.id) }
    let view := ((s.queue? g.queue).map Queue.stores).getD []
    (s.signalAdd { queue := g.queue, asid := g.asid, va := g.signal, fail := fail, view := view }).landed g.queue (.graph g.id) []

/-- Fail the hands of a started consumer whose groups have a failed producer group in their windows (R44). The spec gives no CODE:
a free value (log 52). -/
def State.failConsumers (s : State) (g : Graph) : State :=
  if !g.mode then s
  else g.nodes.foldl (fun s i =>
    let n := s.node g.die i
    match n.lid.bind s.launch? with
    | none => s
    | some l =>
      let bad (h : Hand) : Bool := h.state == .unplaced && h.hid < l.nhand &&
        (l.windows h).any (fun k => s.window g.die i k == .failed)
      (s.hands.filter (fun h => h.lid = l.lid && bad h)).foldl (fun s h =>
        let s := s.updHand h.key (fun h => { h with state := .killed })
        ((s.releaseAllocs h).barCheckAll h).report h true ((Config.freeWord s.tick).setWidth 8) h.reportPc) s) s

/-- Start the nodes of running graphs that may start now. A node whose page is not resident, or for which tables are full, stays
ARMED and is tried again; one whose descriptor is refused fails, and its queue takes 0x86. -/
def State.startNodes (s : State) (fault : State → Nat × Nat → State) : State :=
  s.graphs.foldl (fun s g =>
    match s.queue? g.queue with
    | none => s
    | some q =>
      let s := g.nodes.foldl (fun s i =>
        if q.paused.isSome || !s.nodeReady g i then s
        else match s.startNode q g i with
          | (.ok _ _, s') => s'
          | (.page va home e, s') => s'.frontPage q.die q.asid va home e
          | (.asked _, s') | (.full _, s') => s'
          | (.fault _, s') => fault (s'.endNode g i true) g.queue) s
      (s.failConsumers g).graphEnd g) s

/-! ## Item records (R92) -/

/-- The two words of an item record. -/
def Report.words (r : Report) : Nat × Nat :=
  (r.hid + (if r.fail then 2 ^ 16 else 0) + (if r.fail then r.code.toNat * 2 ^ 24 else 0), if r.fail then r.pc.toNat else 0)

/-- The items of a launch: the hands of its descriptor and its thief and segment hands, the reported ones and those that are
DONE. -/
def State.itemsOf (s : State) (l : Launch) : List Report :=
  (List.range l.nextHid).filterMap (fun hid =>
    match l.reports.find? (fun r => r.hid = hid) with
    | some r => some r
    | none => (s.handOf l.lid hid).bind (fun h =>
        if h.state == .done then some { hid := hid, fail := false, code := 0, pc := 0 } else none))

/-- Write the item records. A page that is not resident stops here until it has been served; a record that fails otherwise is
lost, and the first such loss of a launch is logged with its address (code 0, log 53). -/
def State.writeItems (l : Launch) : List Report → State → Except Stop State
  | [], s => .ok s
  | r :: rs, s =>
    let va := l.items + BitVec.ofNat 64 (16 * r.hid)
    let lose (s : State) : State :=
      if (s.launch l.lid).itemLost then s
      else (s.updLaunch l.lid (fun l => { l with itemLost := true })).magpie l.die unitFrontEnd 0 [va.toNat]
    let at_ (k : Nat) : Except Stop Nat := s.feLoc .items l.asid (va + BitVec.ofNat 64 (8 * k)) .write (2048 + l.die)
    match at_ 0, at_ 1 with
    | .error (.page v h e), _ => .error (.page v h e)
    | _, .error (.page v h e) => .error (.page v h e)
    | .ok a, .ok b =>
      if spaceOf a == .device && spaceOf b == .device then
        let w := r.words
        State.writeItems l rs ((((s.crossHome l.die a).crossHome l.die b).writeBytes a (leBytes w.1 8) (frontParty l.die)).writeBytes b (leBytes w.2 8) (frontParty l.die))
      else State.writeItems l rs (lose s)
    | _, _ => State.writeItems l rs (lose s)

/-! ## The end of a launch -/

/-- A segment or a resolution of the launch is still on its way to a Deck, so that not every segment that remains has an open token
(R109). -/
def State.deckTraffic (s : State) (lid : Word) : Bool :=
  s.resolutions.any (fun r => (s.token? lid r.token).isSome) ||
    s.hands.any (fun h => h.lid = lid && h.outst.any (fun o => !o.returned && (match o.work with | .spawn _ _ _ _ _ _ _ _ _ _ _ => true | _ => false)))

/-- The launch has ended (R109): its own and thief hands are DONE or reported, no segment keeps it, and the stores of its hands
have drained. -/
def State.launchOver (s : State) (l : Launch) : Bool :=
  let mine := s.hands.filter (fun h => h.lid = l.lid)
  mine.all (fun h => h.seg.isSome || h.state == .done || h.state == .killed) &&
    mine.all (fun h => h.mem.all (fun m => m.sb.isEmpty) || (h.seg.any (fun p => (s.seg? p).any (fun e => e.hand == some h.key && e.state != 6)))) &&
    !s.segsBlock l.lid && !s.deckTraffic l.lid

/-- Bindings of a launch end; a publish entry goes with the last binding on its object (R175, R316). Homes in peers are told. -/
def State.endBindings (s : State) (l : Launch) : State :=
  let mine := s.binds.filter (fun b => b.lid = l.lid)
  let s := mine.foldl (fun s b => if spaceOf b.obj == .peer then
      (s.sendStep l.die b.obj (bindData 6 s.devNum b.obj b.base b.len) .none).getD s
    else s) s
  let binds := s.binds.filter (fun b => b.lid ≠ l.lid)
  let ended (p : Publish) : Bool := mine.any (fun b => b.obj = p.obj) && !binds.any (fun b => b.obj = p.obj)
  { s with binds := binds, pubs := s.pubs.filter (fun p => !ended p) }

/-- The twins of a launch end with it. -/
def State.endTwins (s : State) (l : Launch) : State :=
  (s.hands.filter (fun h => h.lid = ~~~l.lid && h.pair == 2 && h.state != .done && h.state != .killed)).foldl (fun s h => s.killMember h.key) s

/-- What a name of a hand holds after its launch has completed (R402). -/
def State.lastReg (s : State) (lid : Word) (hid : Nat) (win : Option Nat) (name : Nat) : Option GReg :=
  ((s.lastRegs.find? (fun x => x.1 = lid && x.2.1 == hid)).bind (fun x => x.2.2.find? (fun e => e.win = win && e.name == name))).map MapEntry.reg

/-- What a launch held is given back: hands, range states, retained blocks, and records of killed owners that are terminal. -/
def State.removeLaunch (s : State) (l : Launch) : State :=
  let s := if l.pair then s.endTwins l else s
  let mine (x : Word) : Bool := x == l.lid || (l.pair && l.twinOf.isNone && x == ~~~l.lid)
  { s.endBindings l with
    launches := s.launches.filter (fun x => !mine x.lid), hands := s.hands.filter (fun (h : Hand) => !mine h.lid),
    lastRegs := s.lastRegs ++ (s.hands.filter (fun (h : Hand) => mine h.lid)).map (fun (h : Hand) => (h.lid, h.hid, h.last)),
    ranges := s.ranges.filter (fun r => !mine r.lid), retained := s.retained.filter (fun r => !mine r.lid),
    cores := s.cores.map (fun (c : Nat × Core) => (c.1, { c.2 with allocs := c.2.allocs.filter (fun a => !mine a.1) })) }.sweepRecs

/-- The Owl passes to the queue's next oldest launch, with its count at 0 (R90). -/
def State.owlNext (s : State) (k : Nat × Nat) : State :=
  let any := s.launches.any (fun l => l.queue = k)
  s.updQueue k (fun q => if q.owl == .counting then { q with owl := if any then .counting else .idle, owlCount := 0 } else q)

/-- Partition INSUFFICIENT hands are tried again when group-table entries are freed (R206). -/
def State.retryInsufficient (s : State) (p : Nat) : State :=
  { s with hands := updWhere (fun h => h.part == p && h.ctxStatus == 1) (fun h => { h with ctxStatus := 0 }) s.hands }

/-- A view with the item records of a launch, which the front end has written: they are visible before the signal add (R92). -/
def State.itemView (s : State) (l : Launch) (items : List Report) (v : View) : View :=
  items.foldl (fun v r => [0, 8].foldl (fun v k =>
    match s.feLoc .items l.asid (l.items + BitVec.ofNat 64 (16 * r.hid + k)) .write (2048 + l.die) with
    | .ok loc => View.raise (wordOf loc) (s.lastIdx (wordOf loc)) v
    | .error _ => v) v) v

/-- The launch is complete: its items, its signal add, its queue, its Owl, and the node that it ran for. -/
def State.endLaunch (s : State) (l : Launch) : Except Stop State :=
  let s := s.endSpeculation l.lid
  let items := s.itemsOf l
  let fail := items.any Report.fail
  (if l.items = 0 then .ok s else State.writeItems l items s).map (fun s =>
    let view := (s.hands.filter (fun h => h.lid = l.lid)).foldl (fun v h => h.mem.foldl (fun v m => View.join v m.view) v) []
    let view := if l.items = 0 then view else s.itemView l items view
    let oldest := ((s.oldestLaunch l.queue).map Launch.lid) == some l.lid
    let s := (s.markGroups l.lid).removeLaunch l
    let s := s.signalAdd { queue := l.queue, asid := l.asid, va := l.signal, fail := fail, view := view }
    let s := (s.landed l.queue (.launch l.lid) view).retryInsufficient l.part
    let s := if oldest then s.owlNext l.queue else s
    match l.node with
    | none => s
    | some (d, i) =>
      let s := if l.ngrp = 0 then s.updNode d i (fun n =>
          if fail then { n with failmap := n.failmap ||| 1 } else { n with donemap := n.donemap ||| 1 }) else s
      match s.graphOf d i with
      | some g => s.endNode g i fail
      | none => s)

end Sys2Proof.Machine
end

