-- ==== Sys2Proof/Machine/FrontEnd.lean ====
section
/-!
DEFINITION. The front end: queues, doorbells and slots (spec/02 R31 to R35), packets (R36 to R42, R410, R411), the command
processors' instructions (R46, R47), and the host's wait registrations (R67).
-/
namespace Sys2Proof

/-! ## Fields of a packet (R36) -/

def PacketWords.type (w : PacketWords) : Nat := bits w.hdr.toNat 24 8
def PacketWords.count (w : PacketWords) : Nat := bits w.hdr.toNat 12 12
def PacketWords.flags (w : PacketWords) : Nat := bits w.hdr.toNat 0 12
def PacketWords.lo (w : PacketWords) : DWord := w.w2 ++ w.w1
def PacketWords.hi (w : PacketWords) : DWord := w.w4 ++ w.w3

end Sys2Proof

namespace Sys2Proof.Machine

/-! ## Slots (R34) -/

/-- A queue of a die that may be granted a slot. -/
def State.qIsReady (s : State) (q : Queue) : Bool :=
  let st := s.qState q
  q.slot.isNone && !q.stalled && s.qWptr q != s.qRptr q && st != qWaiting && st != qFaulted && st != qDraining

/-- The READY queues of a die. -/
def State.readyQueues (s : State) (d : Nat) : List Queue := s.queues.filter (fun q => q.die = d && s.qIsReady q)

/-- One READY queue goes before another. -/
def Queue.before (a b : Queue) : Bool :=
  let age (q : Queue) : Nat := match q.lastGrant with | some n => n + 1 | none => 0
  if a.prio != b.prio then b.prio < a.prio
  else if age a != age b then age a < age b
  else if a.idx != b.idx then a.idx < b.idx
  else a.fn < b.fn

/-- The queue in a slot of a die. A DRAINING one parses nothing (R91). -/
def State.slotQueue (s : State) (d k : Nat) : Option Queue :=
  ((((s.die d).fslots[k]?).join).bind s.queue?).filter (fun q => q.paused.isNone)

/-- Write the position in the indirect buffers to the descriptor (R39). -/
def State.saveIb (s : State) (q : Queue) : State :=
  (List.range q.ib.length).foldl (fun s i => s.qPut q (32 + 4 * i) (q.ib.getD i 0).toNat 4) (s.qPut q 30 q.ib.length 1)

/-- A queue releases its slot, if it holds one, and takes a STATE. -/
def State.release (s : State) (k : Nat × Nat) (st : Nat) : State :=
  match s.queue? k with
  | none => s
  | some q =>
    let s := (s.endRead q.reader).qPutState q st
    match q.slot with
    | none => s
    | some n =>
      let s := (s.saveIb q).updDie q.die (fun d => { d with fslots := putAt 64 none (fun _ => none) n d.fslots })
      s.updQueue k (fun q => { q with slot := none, hold := .none })

/-- Raise the MSI-X vector of a function. -/
def State.msix (s : State) (f : Nat) : State := { s with funcs := putAt 64 Func.init (fun x => { x with msix := x.msix + 1 }) f s.funcs }

/-- A queue becomes FAULTED (R35, R48): RPTR stays, FOFF names the packet, and the code goes to the Magpie. -/
def State.queueFault (s : State) (k : Nat × Nat) (code : Nat) : State :=
  match s.queue? k with
  | none => s
  | some q =>
    let s := s.release k qFaulted
    let s := (s.qPut q 25 code 1).qPut q 26 (s.qRptr q).toNat 4
    ((s.updQueue k (fun q => { q with await := .none })).magpie q.die unitFrontEnd (BitVec.ofNat 8 code) [q.fn, q.idx]).msix q.fn

/-- A queue becomes WAITING, for a page that is then asked for, a wake or completions. -/
def State.queueWait (s : State) (k : Nat × Nat) (a : Await) : State := (s.release k qWaiting).updQueue k (fun q => { q with await := a })

def State.queuePage (s : State) (k : Nat × Nat) (asid : BitVec 16) (va : DWord) (home entry : Nat) : State :=
  (s.frontPage (((s.queue? k).map Queue.die).getD 0) asid va home entry).queueWait k (.page asid (vaBits va / 2 ^ 16))

/-- SLOT_GRANT: the lowest free slot of a die goes to its first READY queue, which resumes from its descriptor (R39). -/
def execSlotGrant (s : State) : Host.Outcome State Fault Refusal :=
  let d := s.args.n
  let k := (s.die d).fslots.findIdx Option.isNone
  match s.readyQueues d with
  | [] => .next s
  | q0 :: qs =>
    if 64 ≤ k then .next s
    else
      let q := qs.foldl (fun b x => if x.before b then x else b) q0
      let key := (q.fn, q.idx)
      let n := (s.die d).fgrants
      let ib := (List.range (min 4 (s.qField q 240 3))).map (fun i => (BitVec.ofNat 32 (s.qField q (256 + 32 * i) 32) : Word))
      let s := s.updDie d (fun x => { x with fslots := putAt 64 none (fun _ => some key) k x.fslots, fgrants := n + 1 })
      .next ((s.qPutState q qActive).updQueue key (fun q =>
        { q with slot := some k, lastGrant := some n, parsed := 0, ib := ib, hold := .none, await := .none }))

/-! ## Queues and doorbells (R31 to R33, R35) -/

/-- A function owns a partition (R64): the physical function every one, a virtual function the one bound to it. -/
def State.owns (s : State) (f p : Nat) : Bool :=
  f = 0 || (let b := ((s.funcs.getD f Func.init).bind).toNat; bits b 7 1 == 1 && bits b 0 4 == p)

/-- QUEUE_CREATE: the descriptor at a device physical address is validated, or refused with QCFG (R32). Of what the spec leaves open,
the model chooses (log 83): a partition's queue above the 4,096 of R31 is refused with QCFG too; an address that is misaligned or outside
device memory, or an index that has a queue, is ignored; the code of a refusal goes to the Magpie only, as no queue has an FCODE. -/
def execQueueCreate (s : State) : Host.Outcome State Fault Refusal :=
  let f := s.args.n
  let i := s.args.m
  let a := s.args.value.toNat
  let n := readN s.mem a 64
  let part := bits n 71 4
  let die := bits n 75 2
  let bad := bits n 64 5 < 10 || 24 < bits n 64 5 || bits n 77 3 != 0 || bits n 96 32 != 0 || bits n 195 5 != 0 ||
    bits n 243 13 != 0 || bits n 384 128 != 0 || bits n 0 12 != 0 || !s.owns f part
  if (s.queue? (f, i)).isSome || 64 ≤ f || (if f = 0 then 65536 else 4096) ≤ i || !deviceExists a || a % 64 != 0 then .next s
  else if bad || 4096 ≤ (s.queues.filter (fun q => q.part = part)).length then .next (s.magpie (a / 2 ^ 37) unitFrontEnd 0x88 [f, i])
  else
    let q : Queue :=
      { fn := f, idx := i, desc := a, base := BitVec.ofNat 64 (bits n 0 64), logsz := bits n 64 5, prio := bits n 69 2, part := part,
        die := die, asid := BitVec.ofNat 16 (bits n 80 16), stalled := false, slot := none, lastGrant := none, parsed := 0, ib := [],
        hold := .none, await := .none, owl := .idle, owlCount := 0, inFlight := [], stores := [] }
    .next { s with queues := s.queues ++ [q] }

/-- DOORBELL (R33). -/
def execDoorbell (s : State) : Host.Outcome State Fault Refusal :=
  let k := (s.args.n, s.args.m)
  match s.queue? k with
  | none => .next s
  | some q =>
    let v := s.args.value
    let new : Word := v.setWidth 32
    let r := s.qRptr q
    let ahead := (new - r).toNat
    if v >>> 32 != 0 || 2 ^ q.logsz < ahead || ahead < (s.qWptr q - r).toNat then .next (s.queueFault k 0x89)
    else
      let s := (s.qPut q 20 new.toNat 4).updQueue k (fun q => { q with stalled := q.stalled && new == s.qWptr q })
      .next (if s.qState q = qIdle && new != r then s.qPutState q qReady else s)

/-- QUEUE_RESUME: system software writes STATE to IDLE (R35). -/
def execQueueResume (s : State) : Host.Outcome State Fault Refusal :=
  let k := (s.args.n, s.args.m)
  match s.queue? k with
  | none => .next s
  | some q =>
    if s.qState q ≠ qFaulted then .next s
    else .next ((s.qPutState q qIdle).updQueue k (fun q => { q with lastGrant := none, stalled := false }))

/-! ## Reading the stream (R36, R39) -/

/-- A word of the ring, by its word index. -/
def State.ringWord (s : State) (q : Queue) (i : Nat) : Except Stop Nat :=
  s.feRead q.reader q.asid (q.base + BitVec.ofNat 64 (4 * (i % 2 ^ q.logsz))) 4

/-- A word of an indirect buffer. -/
def State.bufWord (s : State) (q : Queue) (addr : DWord) (i : Nat) : Except Stop Nat := s.feRead q.reader q.asid (addr + BitVec.ofNat 64 (4 * i)) 4

/-- The open indirect buffers, outermost first: address and length, from the CALLIB packets on the path. -/
def State.ibPath (s : State) (q : Queue) : List Word → (Nat → Except Stop Nat) → Nat → Except Stop (List (DWord × Nat))
  | [], _, _ => .ok []
  | o :: os, rd, p => do
    let lo ← rd (p + 1)
    let hi ← rd (p + 2)
    let len ← rd (p + 3)
    let addr := BitVec.ofNat 64 (lo + hi * 2 ^ 32)
    let rest ← State.ibPath s q os (s.bufWord q addr) o.toNat
    return (addr, len) :: rest

def State.path (s : State) (q : Queue) : Except Stop (List (DWord × Nat)) :=
  s.ibPath q q.ib (s.ringWord q) (s.qRptr q).toNat

/-- The count that a packet's type requires; none for an unlisted type (R36). -/
def packetCount (type : Nat) : Option (Option Nat) :=
  match type with
  | 0 => some none
  | 5 => some (some 3)
  | 6 => some (some 0)
  | 1 | 2 | 3 | 4 | 7 | 8 => some (some 4)
  | _ => none

/-- The packet that a header's type names. -/
def packetOf (w : PacketWords) : Instr :=
  match w.type with
  | 0 => .nopPacket w
  | 1 => .launch w
  | 2 => .graph w
  | 3 => .wait w
  | 4 => .signal w
  | 5 => .callib w
  | 6 => .fencePacket w
  | 7 => .writeimm w
  | 8 => if w.flags / 2 % 2 = 1 then .ckptRestore w else .ckpt w
  | _ => .unknownPacket w

/-- Positions in the open buffers, innermost first with their lengths, after `n` more words; at the end the words by which the ring
advances. -/
def advanceIb : List (Word × Nat) → Nat → List Word × Option Nat
  | [], n => ([], some n)
  | (o, len) :: rest, n =>
    if len ≤ o.toNat + n then advanceIb rest 4 else ((o + BitVec.ofNat 32 n) :: rest.map Prod.fst, none)

/-- After a packet: the slot is released when RPTR has reached WPTR, or after 256 packets while another queue waits (R34). -/
def State.afterPacket (s : State) (key : Nat × Nat) : State :=
  match s.queue? key with
  | none => s
  | some q =>
    if s.qState q ≠ qActive then s
    else if q.ib.isEmpty && s.qRptr q == s.qWptr q then s.release key qIdle
    else if 256 ≤ q.parsed && !(s.readyQueues q.die).isEmpty then s.release key qReady
    else s

/-- The queue's position moves on by `n` words, out of each buffer whose words have all been parsed (R39). -/
def State.moveOn (s : State) (q : Queue) (path : List (DWord × Nat)) (n : Nat) : State :=
  let key := (q.fn, q.idx)
  let (ib, ring) := advanceIb ((q.ib.zip (path.map Prod.snd)).reverse) n
  let s := match ring with
    | some m => s.qPut q 16 (s.qRptr q + BitVec.ofNat 32 m).toNat 4
    | none => s
  (s.updQueue key (fun q => { q with ib := ib.reverse, hold := .none })).afterPacket key

/-- The queue's position moves past the packet. -/
def State.advance (s : State) (q : Queue) (n : Nat) : State :=
  let key := (q.fn, q.idx)
  match s.path q with
  | .error (.page va home e) => s.queuePage key q.asid va home e
  | .error _ => s.queueFault key 0x83
  | .ok path => ((s.endRead q.reader).updQueue key (fun q => { q with parsed := q.parsed + 1 })).moveOn q path n

/-- The words that parsing reads at a queue's position: of the CALLIB packets on its path, and of a packet with `n` words after its
header. -/
def Queue.fetchRanges (q : Queue) (rptr : Nat) (path : List (DWord × Nat)) (n : Nat) : List (DWord × Nat) :=
  let at_ (j i : Nat) : DWord := match (if j = 0 then none else path[j - 1]?) with
    | none => q.base + BitVec.ofNat 64 (4 * (i % 2 ^ q.logsz))
    | some b => b.1 + BitVec.ofNat 64 (4 * i)
  let pos (j : Nat) : Nat := if j = 0 then rptr else (q.ib.getD (j - 1) 0).toNat
  let depth := q.ib.length
  (List.range depth).flatMap (fun j => [1, 2, 3].map (fun i => (at_ j (pos j + i), 4))) ++
    (List.range (n + 1)).map (fun i => (at_ depth (pos depth + i), 4))

/-- Parsing has read them. -/
def State.fetched (s : State) (q : Queue) (n : Nat) : State :=
  let path := match s.path q with | .ok p => p | .error _ => []
  (q.fetchRanges (s.qRptr q).toNat path n).foldl (fun s x => s.frontTouch q.die q.reader q.asid x) s

/-- Those of the packet that a slot's queue parses: of a NOP, whose words are ignored, only the header. -/
def State.fetchedPacket (s : State) (d k : Nat) (i : Instr) : State :=
  let n := match i with
    | .nopPacket _ | .unknownPacket _ => 0
    | .fencePacket w | .launch w | .graph w | .wait w | .signal w | .callib w | .writeimm w | .ckpt w | .ckptRestore w =>
      ((packetCount w.type).join).getD 0
    | _ => 0
  match s.slotQueue d k with
  | none => s
  | some q => s.fetched q n

/-- The packet at the position of a slot's queue, or the state when there is none to execute: a packet whose words run past WPTR
stalls the queue, a word that cannot be read faults it with RINGF, and a page that is not resident is served first (log 55), as a line in
a peer is read first. A packet that runs past the end of its buffer is CMDFMT (log 56). A buffer whose words have all been parsed is
left (R39). Of a header with zero flags that are not 0 whose words run past WPTR, which R36 does not order, the model stalls the queue
first, and faults it once a doorbell covers the packet (log 118). -/
def State.fetchPacket (s : State) (d k : Nat) : Except State Instr :=
  match s.slotQueue d k with
  | none => .error s
  | some q =>
    let key := (q.fn, q.idx)
    let stop (e : Stop) : State := match e with
      | .page va home t => s.queuePage key q.asid va home t
      | .peer l => s.askPeer q.die q.reader l 64
      | .bad => ((s.fetched q 4).dropRefusals q.asid).queueFault key 0x83
    match s.path q with
    | .error e => .error (stop e)
    | .ok path =>
      let r := (s.qRptr q).toNat
      let rd (i : Nat) : Except Stop Nat := match path.getLast?, q.ib.getLast? with
        | some b, some o => s.bufWord q b.1 (o.toNat + i)
        | _, _ => s.ringWord q (r + i)
      if (path.getLast?.any (fun b => q.ib.getLast?.any (fun o => b.2 ≤ o.toNat))) then .error (s.moveOn q path 0)
      else match rd 0 with
      | .error e => .error (stop e)
      | .ok h =>
        let w : PacketWords := { die := d, slot := k, hdr := BitVec.ofNat 32 h, w1 := 0, w2 := 0, w3 := 0, w4 := 0 }
        match packetCount w.type with
        | none => .ok (packetOf w)
        | some c =>
          if c.any (fun n => n != w.count) then .ok (packetOf w)
          else
            let n := w.count + 1
            let room := match path.getLast?, q.ib.getLast? with
              | some b, some o => n ≤ b.2 - o.toNat
              | _, _ => n ≤ (s.qWptr q - s.qRptr q).toNat
            if !room then
              .error (if q.ib.isEmpty then (s.release key qReady).updQueue key (fun q => { q with stalled := true })
                else s.queueFault key 0x81)
            else
              let word (i : Nat) : Except Stop Word := if c.any (fun n => i ≤ n) then (rd i).map (BitVec.ofNat 32) else .ok 0
              match word 1, word 2, word 3, word 4 with
              | .ok a, .ok b, .ok x, .ok y => .ok (packetOf { w with w1 := a, w2 := b, w3 := x, w4 := y })
              | .error e, _, _, _ | _, .error e, _, _ | _, _, .error e, _ | _, _, _, .error e => .error (stop e)

/-! ## The end of a packet -/

/-- What a packet comes to: parsed; a buffer opened; a fault of its queue; the queue stays at it with its slot; it waits, or
gives up its slot and tries again. -/
inductive PkEnd where
  | done (s : State)
  | push (s : State) (len : Nat)
  | fault (s : State) (code : Nat)
  | hold (s : State) (h : Hold)
  | wait (s : State) (a : Await)
  | page (s : State) (va : DWord) (home entry : Nat)
  | retry (s : State)

/-- Execute a packet of a queue: its flags and count are checked (R36), then its body decides. A queue that has waited its
turn for completions gives its slot up at once when another queue waits (R410). -/
def packetOp (mask : Nat) (w : PacketWords) (s : State) (body : Queue → State → PkEnd) : Host.Outcome State Fault Refusal :=
  match s.slotQueue w.die w.slot with
  | none => .next s
  | some q =>
    let key := (q.fn, q.idx)
    let end_ : PkEnd :=
      if (packetCount w.type).join.any (fun n => n != w.count) || w.flags / mask != 0 then .fault s 0x81 else body q s
    .next (match end_ with
      | .done s => s.advance ((s.queue? key).getD q) (w.count + 1)
      | .push s len =>
        if len = 0 then s.advance q 4
        else ((s.endRead q.reader).updQueue key (fun q => { q with ib := q.ib ++ [0], parsed := q.parsed + 1 })).afterPacket key
      | .fault s code => (s.dropRefusals q.asid).queueFault key code
      | .hold s h =>
        if h == .completions && !(s.readyQueues q.die).isEmpty then s.queueWait key .completions
        else s.updQueue key (fun q => { q with hold := h })
      | .wait s a => s.queueWait key a
      | .page s va home e => s.queuePage key q.asid va home e
      | .retry s => s.release key qReady)

/-! ## Packets (R37) -/

/-- NOP. -/
def execNopPacket (w : PacketWords) (s : State) : Host.Outcome State Fault Refusal := packetOp 1 w s fun _ s => .done s

/-- A header whose type is not listed: CMDTYPE. -/
def execUnknownPacket (w : PacketWords) (s : State) : Host.Outcome State Fault Refusal := packetOp 4096 w s fun _ s => .fault s 0x80

/-- A launch or graph of the queue at its position has been parsed. -/
def State.takeOff (s : State) (q : Queue) (what : Flight) : State :=
  let pos : Pos := { rptr := s.qRptr q, ib := q.ib }
  s.updQueue (q.fn, q.idx) (fun q => { q with inFlight := q.inFlight ++ [(what, pos)] })

/-- LAUNCH. -/
def execLaunch (w : PacketWords) (s : State) : Host.Outcome State Fault Refusal :=
  packetOp 2 w s fun q s =>
    if w.lo.toNat % 8 ≠ 0 ∨ w.hi.toNat % 8 ≠ 0 then .fault s 0x81
    else if w.flags = 1 ∧ !q.settled then .hold s .completions
    else match s.dispatch q w.lo w.hi none with
      | .fault s' => .fault s' 0x86
      | .page va home e => .page s va home e
      | .asked s' => .hold s' .reread
      | .full s' => .retry s'
      | .ok lid s' => .done (s'.takeOff q (.launch lid))

/-- Arm the nodes of a GRAPH (R42). -/
def State.arm (s : State) (g : Graph) : State :=
  g.nodes.foldl (fun s i => (s.endRead (.node g.die i)).updNode g.die i (fun n =>
    { n with cpred := n.npred, nstate := nArmed, donemap := 0, failmap := 0, ngrp := none, lid := none })) s

/-- Start the nodes of a graph that may start, up to the first that cannot: the state, and what stopped it. -/
def State.startGraph (s : State) (q : Queue) (g : Graph) : State × Option Disp :=
  g.nodes.foldl (fun (acc : State × Option Disp) i =>
    if acc.2.isSome || !acc.1.nodeReady g i then acc
    else match acc.1.startNode q g i with
      | (.ok _ _, s') => (s', none)
      | (r, s') => (s', some r)) (s, none)

/-- A GRAPH packet whose parsing was open has been skipped (R35): its nodes go on, and it completes when they have ended. -/
def State.closeGraphs (s : State) (q : Queue) : State :=
  let mine (g : Graph) : Bool := g.queue == (q.fn, q.idx) && g.parsing
  let skipped := s.graphs.filter mine
  let s := { s with graphs := updWhere mine (fun g => { g with parsing := false }) s.graphs }
  s.updQueue (q.fn, q.idx) (fun q => { q with inFlight := q.inFlight ++ skipped.map (fun g => (Flight.graph g.id, g.pos)) })

/-- GRAPH. -/
def execGraph (w : PacketWords) (s : State) : Host.Outcome State Fault Refusal :=
  packetOp 2 w s fun q s =>
    let key := (q.fn, q.idx)
    let here : Pos := { rptr := s.qRptr q, ib := q.ib }
    let open_ := s.graphs.find? (fun g => g.queue = key && g.parsing && g.pos == here && g.first == w.w1.toNat && g.count == w.w2.toNat)
    let g : Graph := open_.getD
      { id := s.nextGraph, die := q.die, first := w.w1.toNat, count := w.w2.toNat, mode := w.flags == 1, signal := w.hi, asid := q.asid,
        queue := key, pos := here, parsing := true }
    let idle (i : Nat) : Bool := let n := (s.node g.die i).nstate; n == nIdle || n == nDone
    if w.hi.toNat % 8 ≠ 0 then .fault s 0x81
    else if open_.isNone ∧ (8192 < g.first + g.count ∨ !g.nodes.all idle) then .fault s 0x87
    else
      let s := if open_.isSome then s else s.closeGraphs q
      let s := if open_.isSome then s else { s.arm g with graphs := s.graphs ++ [g], nextGraph := s.nextGraph + 1 }
      let parsed (s : State) : State :=
        let g := { g with parsing := false }
        (({ s with graphs := updWhere (fun x => x.id = g.id) (fun _ => g) s.graphs }.takeOff q (.graph g.id)).failConsumers g).graphEnd g
      match s.startGraph q g with
      | (s, none) => .done (parsed s)
      | (s, some (.page va home e)) => .page s va home e
      | (s, some (.asked _)) => .hold s .reread
      | (s, some (.full _)) => .retry s
      | (s, some (.fault _)) =>
        match g.nodes.find? (s.nodeReady g) with
        | some i => .fault (parsed (s.endNode g i true)) 0x86
        | none => .fault (parsed s) 0x86
      | (s, some (.ok _ _)) => .done (parsed s)

/-- The condition of a WAIT: 0 EQ, 1 NE, 2 unsigned GE, 3 unsigned LT. -/
def waitCond (c : Nat) (mem value : DWord) : Bool :=
  match c with
  | 0 => mem == value
  | 1 => mem != value
  | 2 => value.toNat ≤ mem.toNat
  | _ => mem.toNat < value.toNat

/-- A false WAIT registers its address, reads once more, and gives up the slot (R40). -/
def State.waitGiveUp (s : State) (q : Queue) (key : DWord) (holds : State → Bool) : PkEnd :=
  match s.registerWaiter q.asid key (fun e => { e with queues := e.queues.filter (fun x => x ≠ (q.fn, q.idx)) ++ [(q.fn, q.idx)] }) with
  | none => .retry s
  | some s' =>
    if holds s' then .done (s'.withdrawWaiter q.asid key (fun e => { e with queues := e.queues.filter (fun x => x ≠ (q.fn, q.idx)) }))
    else .wait s' (.wake key)

/-- The word of a WAIT or `dv.swait`. One in host memory cannot be read while the host is lost, which R55 and R56 leave open for the
front end (log 80). -/
def State.swaitLoc (s : State) (q : Queue) (va : DWord) : Except Stop Nat :=
  match s.feLoc q.reader q.asid va .read with
  | .ok loc => if spaceOf loc == .host && s.hostLink.lost then .error .bad else .ok loc
  | .error e => .error e

/-- The queue is registered at the key of a WAIT. -/
def State.waitRegistered (s : State) (q : Queue) (key : DWord) : Bool :=
  (s.wakeEntry q.asid key).any (fun e => e.queues.contains (q.fn, q.idx))

/-- The queue's registration at a key is withdrawn. -/
def State.waitWithdraw (s : State) (q : Queue) (key : DWord) : State :=
  s.withdrawWaiter q.asid key (fun e => { e with queues := e.queues.filter (fun x => x ≠ (q.fn, q.idx)) })

/-- A WAIT on a word in a peer reads it once for each test (R155): the word is read again, after the address has been registered when
the queue is to give up its slot (R40). -/
def State.waitPeer (s : State) (q : Queue) (key : DWord) (line : Nat) (give : Bool) : PkEnd :=
  if give && !s.waitRegistered q key then
    match s.registerWaiter q.asid key (fun e => { e with queues := e.queues ++ [(q.fn, q.idx)] }) with
    | none => .retry s
    | some s' => .hold ((s'.dropRead q.reader line).askPeer q.die q.reader line 64) .reread
  else .hold (s.askPeer q.die q.reader line 64) .reread

/-- WAIT. `late` is the expiry of the time for which a false WAIT is read again. -/
def waitOp (late : Bool) (w : PacketWords) (s : State) : Host.Outcome State Fault Refusal :=
  packetOp 4 w s fun q s =>
    if w.lo.toNat % 8 ≠ 0 then .fault s 0x81
    else match s.swaitLoc q w.lo with
      | .error (.page va home e) => .page s va home e
      | .error (.peer l) => s.waitPeer q w.lo l late
      | .error .bad => .fault s 0x85
      | .ok loc =>
        let s := s.frontWord q.die loc
        let holds (s : State) : Bool := waitCond (w.flags % 4) (readWord s.mem loc) w.hi
        if spaceOf loc = .peer then
          if holds s then .done (s.waitWithdraw q w.lo)
          else if s.waitRegistered q w.lo then .wait s (.wake w.lo)
          else (s.dropRead q.reader (loc / 64 * 64)).waitPeer q w.lo (loc / 64 * 64) (late || !(s.readyQueues q.die).isEmpty)
        else if holds s then .done s
        else if late || !(s.readyQueues q.die).isEmpty then s.waitGiveUp q w.lo holds
        else .hold s .reread

def execWait : PacketWords → State → Host.Outcome State Fault Refusal := waitOp false

/-- The value of a SIGNAL or WRITEIMM (R411), one in a peer as a WR to it (R155); it is one of the queue's stores, which a later SIGNAL
makes visible (R37). -/
def State.feStore (s : State) (q : Queue) (w : Nat) (mask : BitVec 8) (data : DWord) (view : View) (scope : BitVec 3) : State :=
  let s := s.storeWord q.die w mask data view scope (frontParty q.die) (.queue q.fn q.idx)
  s.updQueue (q.fn, q.idx) (fun q => { q with stores := View.raise w (s.lastIdx w) q.stores })

def State.feWrite (s : State) (q : Queue) (va : DWord) (mask : BitVec 8) (add : Bool) (data : DWord) (view : View) (scope : BitVec 3) : PkEnd :=
  match s.feLoc q.reader q.asid va .write with
  | .error (.page v home e) => .page s v home e
  | .error _ => .fault s 0x8E
  | .ok loc =>
    let w := wordOf loc
    if add then match s.addTurn q.die q.reader loc with
      | .wait s => .hold s .reread
      | .lost s => .done s.retryPeerAdds
      | .go s => .done ((s.feStore q w mask ((s.lastWrite w).value + data) view scope).retryPeerAdds)
    else .done (s.feStore q w mask data view scope)

/-- SIGNAL. -/
def execSignal (w : PacketWords) (s : State) : Host.Outcome State Fault Refusal :=
  packetOp 4 w s fun q s =>
    if w.lo.toNat % 8 ≠ 0 then .fault s 0x81
    else if !q.settled then .hold s .completions
    else match s.feWrite q w.lo 0xFF (w.flags % 2 = 1) w.hi q.stores 5 with
      | .done s => .done (if w.flags / 2 % 2 = 1 then s.wakeKey q.asid w.lo else s)
      | r => r

/-- WRITEIMM: 32 bits, or 64 bits. A 32-bit one whose high value word is not 0, which R37 requires it to be, is CMDFMT (log 84). -/
def execWriteimm (w : PacketWords) (s : State) : Host.Outcome State Fault Refusal :=
  packetOp 2 w s fun q s =>
    let wide := w.flags = 1
    if w.lo.toNat % (if wide then 8 else 4) ≠ 0 ∨ (¬wide ∧ w.w4 ≠ 0) then .fault s 0x81
    else if wide then s.feWrite q w.lo 0xFF false w.hi [] 0
    else if w.lo.toNat % 8 = 0 then s.feWrite q w.lo 0x0F false w.hi [] 0
    else s.feWrite q w.lo 0xF0 false (w.hi <<< 32) [] 0

/-- CALLIB. -/
def execCallib (w : PacketWords) (s : State) : Host.Outcome State Fault Refusal :=
  packetOp 1 w s fun q s =>
    if 4 ≤ q.ib.length then .fault s 0x82
    else if w.lo.toNat % 4 ≠ 0 then .fault s 0x81
    else .push s w.w3.toNat

/-- FENCE. -/
def execFencePacket (w : PacketWords) (s : State) : Host.Outcome State Fault Refusal :=
  packetOp 2 w s fun q s => if q.settled then .done s else .hold s .completions

/-- WAIT_REREAD_EXPIRY: the 4,096 cycles of a false WAIT are over (R40). -/
def execWaitRereadExpiry (s : State) : Host.Outcome State Fault Refusal :=
  let d := s.args.n
  let k := s.args.m
  match s.slotQueue d k with
  | none => .next s
  | some q =>
    if q.hold != .reread then .next s
    else match s.fetchPacket d k with
      | .ok (.wait w) => waitOp true w s
      | .ok _ => .next s
      | .error s' => .next s'

/-- COMPLETION_WAIT_EXPIRY: the 4,096 cycles of a completion wait are over (R410). -/
def execCompletionWaitExpiry (s : State) : Host.Outcome State Fault Refusal :=
  match s.slotQueue s.args.n s.args.m with
  | none => .next s
  | some q =>
    if q.hold != .completions || q.settled then .next s else .next (s.queueWait (q.fn, q.idx) .completions)

/-! ## LAUNCH_COMPLETE -/

/-- LAUNCH_COMPLETE: once the launch has ended, and not between the expiry of an Owl and its reset (R406); then the nodes that wait
for it start. -/
def execLaunchComplete (s : State) : Host.Outcome State Fault Refusal :=
  match s.launch? s.args.lid with
  | none => .next s
  | some l =>
    if l.twinOf.isSome || !s.launchOver l || s.partDrains l.part then .next s
    else match s.endLaunch l with
      | .error (.page va home e) => .next (s.frontPage l.die l.asid va home e)
      | .error _ => .next s
      | .ok s' => .next ((s'.dropRefusals l.asid).startNodes (fun s k => s.queueFault k 0x86))

/-! ## Command processors (R46, R47) -/

/-- `mstatus` as a trap into machine mode leaves it: MPP holds the mode, MPIE takes MIE, and MIE is 0 (log 22). -/
def trapStatus (mode : Nat) (st : DWord) : DWord :=
  (st &&& ~~~0x1888#64) ||| BitVec.ofNat 64 (2 ^ 11 * mode) ||| (if st.getLsbD 3 then 0x80 else 0)

/-- The illegal-instruction exception of a command processor (log 22). -/
def Cp.illegal (c : Cp) : Cp :=
  { c with mstatus := trapStatus c.mode.toNat c.mstatus, mepc := c.pc, mcause := 2, mtval := c.word.zeroExtend 64, mode := 3, pc := c.mtvec &&& ~~~3 }

/-- What an instruction of a command processor comes to: rd's value, or none, after an effect on its queue; it stays at an instruction
whose answer it waits for. -/
structure CpEnd where
  s : State
  rd : Option DWord
  stay : Bool := false

/-- The queue that the firmware of a command processor serves: that in the slot it fetched from last, of those with its number modulo
4 (R34, log 81). -/
def State.cpQueue (s : State) (n : Nat) : Option Queue := s.slotQueue (n / 4) ((s.cps.getD n Cp.init).slot)

/-- A fault of the queue: rd is left unchanged. -/
def State.cpFault (s : State) (q : Option Queue) (code : Nat) : CpEnd :=
  { s := match q with | some q => (s.dropRefusals q.asid).queueFault (q.fn, q.idx) code | none => s, rd := none }

/-- Execute an instruction of a command processor. Outside machine mode it raises the illegal-instruction exception. The word at the
fetch port is the firmware's next one, which the spec does not give: a free value (log 54). -/
def execCp (w : DvWord) (s : State) (body : Nat → DWord → DWord → State → CpEnd) : Host.Outcome State Fault Refusal :=
  match s.cur with
  | some (.cp n) =>
    let c := s.cps.getD n Cp.init
    if c.mode != 3 then .next { s with cps := putAt 16 Cp.init (fun c => { c.illegal with word := Config.freeWord s.tick }) n s.cps }
    else
      let x (r : BitVec 5) : DWord := if r == 0 then 0 else c.x.getD r.toNat 0
      let e := body n (x w.rs1) (x w.rs2) s
      let put (c : Cp) : Cp :=
        { c with pc := c.pc + 4, word := Config.freeWord s.tick,
                 x := match e.rd with
                   | some v => if w.rd == 0 then c.x else putAt 32 0 (fun _ => v) w.rd.toNat c.x
                   | none => c.x }
      .next (if e.stay then e.s else { e.s with cps := putAt 16 Cp.init put n e.s.cps })
  | _ => .refused .noIssuer

/-- A command processor serves the slot that it fetches from, when that is one of its own (R34). -/
def State.serveSlot (s : State) (n k : Nat) : State :=
  if k % 4 = n % 4 then { s with cps := putAt 16 Cp.init (fun c => { c with slot := k }) n s.cps } else s

/-- `dv.rfetch`: a word of the ring of a slot of its die. A slot without a queue reads as an empty ring, and a wrong rs1[63:6] is an
unreadable one (log 82). -/
def execDvRfetch (w : DvWord) (s : State) : Host.Outcome State Fault Refusal :=
  execCp w s fun n a b s =>
    let s := s.serveSlot n (a.toNat % 64)
    match s.slotQueue (n / 4) (a.toNat % 64) with
    | none => { s := s, rd := some (~~~0) }
    | some q =>
      if a >>> 6 != 0 then s.cpFault (some q) 0x83
      else if (s.qWptr q - s.qRptr q).toNat ≤ b.toNat then { s := s, rd := some (~~~0) }
      else match s.ringWord q ((s.qRptr q).toNat + b.toNat) with
        | .ok v => { s := s.endRead q.reader, rd := some (BitVec.ofNat 64 v) }
        | .error .bad => s.cpFault (some q) 0x83
        | .error (.peer l) => { s := s.askPeer q.die q.reader l 64, rd := none, stay := true }
        | .error (.page va home e) => { s := s.queuePage (q.fn, q.idx) q.asid va home e, rd := none }

/-- `dv.bfx`: a bit field. -/
def execDvBfx (w : DvWord) (s : State) : Host.Outcome State Fault Refusal :=
  execCp w s fun n a b s =>
    let lo := bits b.toNat 0 6
    let width := bits b.toNat 6 7
    if width = 0 ∨ 64 < width ∨ 64 < lo + width ∨ b >>> 13 != 0 then s.cpFault (s.cpQueue n) 0x84
    else { s := s, rd := some (BitVec.ofNat 64 (bits a.toNat lo width)) }

/-- `dv.swait`: test a signal word. Without a queue it has no effect on rd (log 82). -/
def execDvSwait (w : DvWord) (s : State) : Host.Outcome State Fault Refusal :=
  execCp w s fun n a b s =>
    match s.cpQueue n with
    | none => { s := s, rd := none }
    | some q =>
      if a.toNat % 8 ≠ 0 then s.cpFault (some q) 0x85
      else match s.swaitLoc q a with
        | .error .bad => s.cpFault (some q) 0x85
        | .error (.page va home e) => { s := s.queuePage (q.fn, q.idx) q.asid va home e, rd := none }
        | .error (.peer l) => { s := s.askPeer q.die q.reader l 64, rd := none, stay := true }
        | .ok loc => { s := (s.frontWord q.die loc).endRead q.reader, rd := some (if waitCond w.cond.toNat (readWord s.mem loc) b then 1 else 0) }

/-- `dv.disp`: dispatch a launch. Without a queue nothing is accepted (log 82). -/
def execDvDisp (w : DvWord) (s : State) : Host.Outcome State Fault Refusal :=
  execCp w s fun n a b s =>
    match s.cpQueue n with
    | none => { s := s, rd := some 0 }
    | some q =>
      match s.dispatch q a b none with
      | .fault s' => s'.cpFault (some q) 0x86
      | .page va home e => { s := s.queuePage (q.fn, q.idx) q.asid va home e, rd := some 0 }
      | .asked s' => { s := s', rd := none, stay := true }
      | .full s' => { s := s'.release (q.fn, q.idx) qReady, rd := some 0 }
      | .ok lid s' => { s := s'.takeOff q (.launch lid), rd := some (lid.zeroExtend 64) }

/-! ## Host wait registrations (R67) -/

/-- The registration of a function takes STATUS and the fields of the request. -/
def State.putWait (s : State) (f : Nat) (withdraw : Bool) (st : BitVec 3) : State :=
  let w : HostWait := { key := s.args.value, asid := s.args.half, line := s.args.value2, withdraw := withdraw, status := st }
  { s with funcs := putAt 64 Func.init (fun x => { x with wait := w }) f s.funcs }

/-- KEY is misaligned or not canonical, or the function has no queue in the address space. -/
def State.badKey (s : State) (f : Nat) : Bool :=
  s.args.value.toNat % 8 != 0 || !canonical s.args.value || !s.queues.any (fun q => q.fn = f && q.asid == s.args.half)

/-- HOST_WAIT_REGISTER. A LINE that is not 64-byte aligned, for which R67 has no status, is taken as it is; a withdrawal removes only the
line that it names (log 85). -/
def execHostWaitRegister (s : State) : Host.Outcome State Fault Refusal :=
  let f := s.args.n
  let line := s.args.value2
  if s.badKey f then .next (s.putWait f false 3)
  else
    match (s.wakeEntry s.args.half s.args.value).bind WakeEntry.line with
    | some l => .next (s.putWait f false (if l == line then 0 else 2))
    | none =>
      match s.registerWaiter s.args.half s.args.value (fun e => { e with line := some line }) with
      | some s' => .next (s'.putWait f false 0)
      | none => .next (s.putWait f false 1)

/-- HOST_WAIT_WITHDRAW. -/
def execHostWaitWithdraw (s : State) : Host.Outcome State Fault Refusal :=
  let f := s.args.n
  if s.badKey f then .next (s.putWait f true 3)
  else .next ((s.withdrawWaiter s.args.half s.args.value (fun e =>
    if e.line == some s.args.value2 then { e with line := none } else e)).putWait f true 0)

end Sys2Proof.Machine
end

