-- ==== Sys2Proof/Machine/Sched.lean ====
section
/-!
DEFINITION. The scheduler: placement (spec/03 R70 to R78, spec/08 R205 to R207), the arbitration of issue slots (R82 to R84), the
Squirrel (spec/05 R128, R129, spec/03 R88, R89), the Dealer with range halving (spec/04 R103 to R105, R80), and lane sparing
(spec/09 R221).
-/
namespace Sys2Proof.Machine

/-! ## The Squirrel (R88, R89, R128, R129, R199) -/

/-- Offset of a name's map entry in the context record (R204). -/
def ctxMapAt (win : Option Nat) (name : Nat) : Nat :=
  match win with
  | none => 0xE80 + 4 * name
  | some d => 0xEC0 + 192 * d + 4 * (name - 16)

/-- Write one word of a context record. -/
def State.putCtx (s : State) (h : Hand) (off v : Nat) : State :=
  match s.areaLoc h off with
  | some loc => (s.crossHome (coreDie h.core) loc).writeBytes loc (leBytes v 4) (coreParty h.core)
  | none => s

/-- Spill one register of a hand that has been swapped out: the record's map entry then names the slot. -/
def State.spillOut (s : State) (k : Nat) (win : Option Nat) (name : Nat) : State :=
  let s := s.spill k win name
  let h := s.hand k
  s.putCtx h (ctxMapAt win name) (h.mapWord win name)

/-- The registers of swapped-out hands in a bank of a core. -/
def State.bankVictims (s : State) (c b : Nat) : List (Nat × MapEntry) :=
  let owners := (s.hands.filter (fun h => h.core = c && (h.state == .swapped || h.state == .swappedAsleep || h.state == .halted)))
  owners.foldr (fun h acc => (h.map.filter (fun e => match e.loc with | .phys i => i / 128 == b | .spill _ => false)).map
    (fun e => (h.key, e)) ++ acc) []

/-- The registers that a job of the Squirrel writes to spill areas. -/
def State.jobEntries (s : State) (k : Nat) (j : SquirrelJob) : List (Nat × MapEntry) :=
  let h := s.hand k
  let phys (e : MapEntry) : Bool := match e.loc with | .phys _ => true | .spill _ => false
  match j with
  | .spillWindow d => (h.map.filter (fun e => e.win == some d && phys e)).map (fun e => (k, e))
  | .spillReg w n => (h.map.filter (fun e => decide (e.win = w) && e.name == n && phys e)).map (fun e => (k, e))
  | .spillBank b => s.bankVictims h.core b
  | .refill _ _ | .trapMove _ => []

/-- The oldest job is done: its splits go on when none is left. -/
def State.popSquirrel (s : State) (k : Nat) : State := s.updHand k (fun h => Hand.wakeUp { h with squirrel := h.squirrel.tail })

/-- SPILL_COMPLETE. -/
def execSpillComplete (s : State) : Host.Outcome State Fault Refusal :=
  let k := s.args.n
  match (s.hand k).squirrel with
  | [] | .refill _ _ :: _ => .next s
  | j :: _ =>
    let es := s.jobEntries k j
    if es.all (fun x => (s.hand x.1).settled x.2) then
      let spill (s : State) (x : Nat × MapEntry) : State :=
        if x.1 = k then s.spill k x.2.win x.2.name else s.spillOut x.1 x.2.win x.2.name
      let s := if j == .trapMove true then s.updHand k (fun h => { h with trapWin := s.ctxTrapWin h }) else s
      .next ((es.foldl spill s).popSquirrel k)
    else .next s

/-- REFILL_COMPLETE. -/
def execRefillComplete (s : State) : Host.Outcome State Fault Refusal :=
  let k := s.args.n
  match (s.hand k).squirrel with
  | .refill w n :: _ => .next ((s.refillEntry k w n).popSquirrel k)
  | _ => .next s

/-! ## Placing a hand -/

/-- A cluster address of a byte of a core's scratchpad (R145). -/
def clusterAddr (core off : Nat) : Nat := core % 32 * 2 ^ 24 + off

/-- h8 and h9 at a first placement (R70). -/
def State.shareArgs (s : State) (h : Hand) : DWord × DWord :=
  match h.groups.find? (fun g => ((s.launch h.lid).group g).kind = 1) with
  | none => (0, 0)
  | some g => match s.allocOf h.lid g with
    | none => (0, 0)
    | some (c, o, n) => (BitVec.ofNat 64 (clusterAddr c o), BitVec.ofNat 64 n)

/-- The control blocks of an instance's pipes are written when the allocation is made (R78, R398). -/
def State.writePipes (s : State) (p : Pipe) (c off : Nat) : State :=
  ((List.range p.pipes.length).foldl (fun (acc : State × Nat) i =>
    let e := p.pipes.getD i 0
    let feed := if getField e 3 2 = 3 then 0 else 1
    let w0 := clusterAddr c (off + acc.2) + getField e 16 16 * 2 ^ 32 + feed * 2 ^ 44 + getField e 32 8 * 2 ^ 48
    (acc.1.writeBytes (scratchLoc c (off + p.blocksAt + 128 * i)) (leBytes w0 128) (coreParty c), acc.2 + pipeSlotBytes e)) (s, 0)).1

/-- Every placement of a member of a pipeline launch writes the `cbd`s of its pipes on its core (R78). -/
def State.writeCbds (s : State) (h : Hand) (c : Nat) : State :=
  match s.instanceOf h, (s.launch h.lid).pipe with
  | some n, some p =>
    match s.allocOf h.lid (pipeAlloc n) with
    | none => s
    | some (c0, o, _) =>
      (List.range p.pipes.length).foldl (fun s i =>
        let v := BitVec.ofNat 64 (clusterAddr c0 (o + p.blocksAt + 128 * i) + 2 ^ 32)
        s.updCore c (fun x => { x with cbd := putAt 8 0 (fun _ => v) (getField (p.pipes.getD i 0) 0 3) x.cbd })) s
  | _, _ => s

/-- The hand slot that a newcomer takes: the one that a swap freed first (R88), or else the lowest free one. -/
def Core.seatOf (c : Core) : Nat :=
  let open_ (i : Nat) : Bool := i < 16 && (c.hands.getD i none).isNone
  (c.vacant.find? open_).getD (c.hands.findIdx Option.isNone)

/-- A hand takes a hand slot of a core and is READY; the STATUS of its record becomes OK (R206). -/
def State.seat (s : State) (k c : Nat) : State :=
  let h := s.hand k
  let s := if h.state == .swapped && bits (s.ctxN h 0 8) 17 2 ≠ 0 then s.putHeader h 17 2 0 else s
  let i := (s.core c).seatOf
  let a := s.shareArgs h
  let start (h : Hand) : Hand :=
    if h.fresh then { (h.putH 8 a.1 0 0).putH 9 a.2 0 0 with fresh := false } else h
  (((s.updCore c (fun x => { x with hands := putAt 16 none (fun _ => some k) i x.hands, vacant := x.vacant.filter (· ≠ i) })).updHand k (fun h =>
    start { h with state := .ready, core := c, hslot := i, lastGrant := none, ctxStatus := 0, newcomer := true })).writeCbds h c)

/-- A swapped hand moves to another core: the Squirrel writes its remaining registers first (R89). -/
def State.moveTo (s : State) (k c : Nat) : State :=
  let h := s.hand k
  if h.core = c then s
  else
    let s := h.map.foldl (fun s e => match e.loc with | .phys _ => s.spillOut k e.win e.name | .spill _ => s) s
    s.updHand k (fun h => { h with core := c })

/-- The memberships of a hand fit the partition's group table (R206): its record names groups of its launch that it belongs to, and the
table's 256 entries hold those of the partition's launches up to its own (log 98). -/
def State.membershipsFit (s : State) (h : Hand) : Bool :=
  let l := s.launch h.lid
  let upTo := (s.launches.takeWhile (fun x => x.lid ≠ l.lid)).filter (fun x => x.part = l.part && x.twinOf.isNone && !x.freed)
  let named := ((List.range 4).map (fun i => s.ctxN h (0x1D0 + 2 * i) 2)).filter (· ≠ 0xFFFF)
  named.all (fun g => g < l.groups.length && (l.group g).members.contains h.hid) &&
    (named.isEmpty || upTo.foldl (fun n x => n + x.groups.length) l.groups.length ≤ 256)

/-- Give an item its places. A hand that was swapped out takes its context record (R205): a bad one fails the hand with ILLFMT,
and memberships that do not fit leave it SWAPPED (R206). -/
def State.seatItem (s : State) (keys : List Nat) (c : Nat) (after : State) : State :=
  let pairs := keys.map (fun k => (k, c + s.offsetOf (s.hand k)))
  let back := pairs.filter (fun x => (s.hand x.1).state == .swapped)
  let moved := back.foldl (fun s x => s.moveTo x.1 x.2) after
  match back.find? (fun x => (moved.readCtx (moved.hand x.1)).isNone) with
  | some x => ((s.updHand x.1 (fun h => { h with ctxStatus := 2 })).putHeader (s.hand x.1) 17 2 2).killGang x.1 0x02 none false
  | none =>
    match back.find? (fun x => !s.membershipsFit (s.hand x.1)) with
    | some x => (s.updHand x.1 (fun h => { h with ctxStatus := 1 })).putHeader (s.hand x.1) 17 2 1
    | none =>
      let loaded := back.foldl (fun s x => match s.readCtx (s.hand x.1) with
        | some h => s.setHand h
        | none => s) moved
      pairs.foldl (fun s x => s.seat x.1 x.2) loaded

/-- Place an item that fits from a core on, whose allocations have been made. -/
def State.placeItem (s : State) (keys : List Nat) (c : Nat) (after : State) : State :=
  let h := s.hand (keys.headD 0)
  let after := match s.instanceOf h, (s.launch h.lid).pipe with
    | some n, some p => match s.allocOf h.lid (pipeAlloc n), after.allocOf h.lid (pipeAlloc n) with
      | none, some (c0, o, _) => after.writePipes p c0 o
      | _, _ => after
    | _, _ => after
  s.seatItem keys c after

/-! ## PLACEMENT (R74, R75) -/

/-- Count a back-fill: the fourth that passes a blocked head puts the partition in RESERVE. -/
def State.backFill (s : State) (p : Nat) : State :=
  match s.waiting p with
  | [] => s
  | hd :: _ =>
    let h := s.hand (hd.headD 0)
    s.updPart p (fun x =>
      let n := if x.head == some (h.lid, h.hid) then x.back + 1 else 1
      { x with head := some (h.lid, h.hid), back := n, reserve := x.reserve || 4 ≤ n })

/-- RESERVE ends. -/
def State.endReserve (s : State) (p : Nat) : State :=
  s.updPart p (fun x => { x with head := none, back := 0, reserve := false })

/-- PLACEMENT: nodes of graphs that may start do so; then the head, or when it does not fit the first item that passes it. RESERVE ends too when no work is left to be
the head (log 49). -/
def execPlacement (s : State) : Host.Outcome State Fault Refusal :=
  let p := s.args.n
  let s := s.startNodes (fun s k => s.queueFault k 0x86)
  match s.waiting p with
  | [] => .next (if (s.part p).reserve then s.endReserve p else s)
  | hd :: rest =>
    match s.fitItem hd with
    | some (c, s') => .next ((s.placeItem hd c s').endReserve p)
    | none =>
      if (s.part p).reserve then .next s
      else
        let lid := (s.hand (hd.headD 0)).lid
        let found := (rest.filter (fun it => (s.hand (it.headD 0)).lid != lid)).findSome? (fun it =>
          (s.fitItem it).map (fun x => (it, x)))
        match found with
        | some (it, c, s') => .next ((s.placeItem it c s').backFill p)
        | none => .next s

/-! ## SLOT_ARBITRATION (R82, R83) -/

/-- One hand goes before another at an arbitration. -/
def Hand.before (a b : Hand) : Bool :=
  let age (h : Hand) : Nat := match h.lastGrant with | some n => n + 1 | none => 0
  if a.cls != b.cls then b.cls < a.cls
  else if age a != age b then age a < age b
  else a.hslot < b.hslot

/-- An eligible hand loses an arbitration. -/
def Hand.lose (h : Hand) : Hand :=
  if h.losses + 1 = 64 then { h with losses := 0, cls := min 3 (h.cls + 1) } else { h with losses := h.losses + 1 }

/-- SLOT_ARBITRATION: the lowest-numbered free slot of a core that is not being rebuilt grants a READY hand, unless issue is stopped
(R91). A hand in trap mode takes the slot's trap window (R199). -/
def execSlotArbitration (s : State) : Host.Outcome State Fault Refusal :=
  let c := s.args.n
  let k := s.args.m
  let free (x : Slot) : Bool := x.hand.isNone && !x.rebuild
  let ready := ((s.core c).hands.filterMap id).map s.hand |>.filter (fun h => h.state == .ready && !s.covered h.part)
  if (s.core c).slots.findIdx free ≠ k || 4 ≤ k || s.coreStops c then .next s
  else match ready with
    | [] => .next s
    | h0 :: hs =>
      let win := hs.foldl (fun b h => if h.before b then h else b) h0
      let s := ready.foldl (fun s h => if h.key = win.key then s else s.updHand h.key Hand.lose) s
      let n := (s.core c).grants
      let s := (s.updCore c (fun x => { x with grants := n + 1 })).updHand win.key (fun h =>
        { h with state := .running, cls := baseClass h.kid, losses := 0, lastGrant := some n, intLate := false })
      let s := s.updSlot c k (fun x =>
        { x with hand := some win.key, count := 0, second := none, ending := false, fate := .plain })
      if win.inTrap then .next ((s.claimWindow c k win.key true).finishCycle c k) else .next s

/-! ## DEAL (R80, R103 to R105) -/

/-- A candidate of the Dealer. -/
inductive Candidate where
  | seg (e : Seg)
  | range (r : RangeState)
  deriving DecidableEq, Repr

def Candidate.cum : Candidate → Nat
  | .seg e => e.cum.toNat
  | .range _ => 0x8000

def Candidate.seq : Candidate → Nat
  | .seg e => e.seq.toNat
  | .range r => r.seq.toNat

def Candidate.before (a b : Candidate) : Bool :=
  if a.cum != b.cum then b.cum < a.cum else a.seq < b.seq

/-- Insert a candidate behind every one that does not rank after it. -/
def rankInsert (x : Candidate) : List Candidate → List Candidate
  | [] => [x]
  | y :: ys => if x.before y then x :: y :: ys else y :: rankInsert x ys

/-- A range task runs and is not speculative: some hand of it has been placed and has not ended. -/
def State.rangeRuns (s : State) (r : RangeState) : Bool :=
  let mine := s.hands.filter (fun h => h.range == some r.id)
  let stage (h : Hand) : Nat := match h.seg.bind s.seg? with | some e => e.state.toNat | none => 6
  mine.any (fun h => h.state != .unplaced && h.state != .done && h.state != .killed && stage h == 6)

/-- A launch may create one more thief or segment hand: XHAND and the pool of retained blocks (R92, R211). -/
def State.mayCreate (s : State) (l : Launch) : Bool :=
  l.nextHid + 1 ≤ l.nhand + l.xhand && s.blocksUsed l.part + 1 ≤ (s.part l.part).cfg.rlrblk.toNat

/-- The regions of a partition's segments on a die, and the number that its share holds (R105). -/
def State.regionsUsed (s : State) (d p : Nat) : Nat :=
  ((s.die d).deck.filter (fun e => (s.launch e.lid).part = p && (e.hasRegion || e.state == 3 || e.state == 4 || e.state == 5))).length

def State.regionsOwned (s : State) (p : Nat) : Nat :=
  (s.part p).cfg.specsz.toNat * 64 / 2 ^ (s.part p).cfg.specreg.toNat

/-- Create a thief or segment hand and seat it. -/
def State.createHand (s : State) (c : Nat) (l : Launch) (h : Hand) : State :=
  let s := { s with hands := s.hands ++ [h], nextHand := s.nextHand + 1 }.takeBlock l.part (Retained.init l.lid h.hid)
  (s.updLaunch l.lid (fun l => { l with nextHid := l.nextHid + 1 })).seat h.key c

/-- Halve a running range task for an idle core (R80). -/
def State.halve (s : State) (r : RangeState) (c : Nat) : Option State :=
  let l := s.launch r.lid
  let left := r.hi.toInt - r.cur.toInt
  let g : Int := r.grain.toNat
  let n := if left ≤ 0 ∨ g = 0 then 0 else (left + g - 1) / g
  if n < 2 || !s.mayCreate l || !s.hasPlace c l.quota then none
  else
    let m := BitVec.ofInt 64 (r.cur.toInt + (n + 1) / 2 * g)
    let h := newHand l s.nextHand l.nextHid 0 r.entry r.args l.view
    let h := { h with groups := [], gangId := none, gang := newGang l none l.nextHid 0, range := some s.nextRange }
    let ranges := updWhere (fun x => x.id = r.id) (fun (x : RangeState) => { x with hi := m }) s.ranges ++
      [{ r with id := s.nextRange, cur := m }]
    some (({ s with ranges := ranges, nextRange := s.nextRange + 1 }).createHand c l h)

/-- Deal a PENDING segment (R104): its hand, and its range state when it is a range task (R102). One that commits at once stores to its
region while an ancestor's has not drained (R110). -/
def State.dealPending (s : State) (d : Nat) (e : Seg) (c : Nat) : Option State :=
  let l := s.launch e.lid
  let spec := !s.confirmed d e
  if !s.mayCreate l || !s.hasPlace c l.quota || (spec && s.regionsOwned l.part ≤ s.regionsUsed d l.part) then none
  else
    let h := newHand l s.nextHand l.nextHid 0 e.entry e.args e.view
    let h := { h with groups := [], gangId := none, gang := newGang l none l.nextHid 0, seg := some (d, e.idx),
                      range := if e.range then some s.nextRange else none }
    let r : RangeState :=
      { id := s.nextRange, lid := e.lid, cur := e.args.getD 0 0, hi := e.args.getD 1 0,
        grain := (e.args.getD 2 0).setWidth 32, seq := e.seq, entry := e.entry, args := e.args }
    let s := if e.range then { s with ranges := s.ranges ++ [r], nextRange := s.nextRange + 1 } else s
    let s := s.updSeg (d, e.idx) (fun e => { e with state := if spec then 3 else 6, hasRegion := spec, draining := !spec, hand := some h.key })
    some (s.createHand c l h).settle

/-- Deal a RESUME segment (R104): its hand takes the context saved at the effect edge, and goes on once its region and its
ancestors' have drained (R108, R110). -/
def State.dealResume (s : State) (d : Nat) (e : Seg) (c : Nat) : Option State :=
  match e.hand with
  | none => none
  | some k =>
    (s.allocItem [k] c).map (fun s' =>
      let s := s.seatItem [k] c s'
      if (s.hand k).state != .ready then s
      else
        let s := s.updSeg (d, e.idx) (fun e => { e with state := 6 })
        if !e.draining then s
        else s.updHand k (fun h => { h with parks := h.parks ++ [(h.live, .stores)] }))

/-- The partition of a core. -/
def State.partOf (s : State) (c : Nat) : Option Nat :=
  (List.range s.parts.length).find? (fun p => (s.part p).cfg.en && (s.part p).cfg.clusters.getLsbD (coreCluster c))

/-- DEAL. Each deal is a back-fill. -/
def execDeal (s : State) : Host.Outcome State Fault Refusal :=
  let d := s.args.n
  let c := s.args.m
  match s.partOf c with
  | none => .next s
  | some p =>
    if coreDie c ≠ d || 1024 ≤ c || (s.part p).reserve || (s.part p).quiesced || s.covered p || s.someItemFits p then .next s
    else
      let segs := (s.die d).deck.filter (fun e => (s.launch e.lid).part = p && (s.launch? e.lid).isSome &&
        (e.state == 1 || e.state == 7) && (s.launch e.lid).kmin.toNat ≤ e.cum.toNat)
      let ranges := s.ranges.filter (fun r => (s.launch? r.lid).isSome && (s.launch r.lid).part = p && s.rangeRuns r)
      let ranked := (segs.map Candidate.seg ++ ranges.map Candidate.range).foldl (fun l x => rankInsert x l) []
      let try_ (x : Candidate) : Option State := match x with
        | .range r => s.halve r c
        | .seg e => if e.state == 7 then s.dealResume d e c else s.dealPending d e c
      match ranked.findSome? try_ with
      | some s' => .next (s'.backFill p)
      | none => .next s

/-! ## Lane sparing (R123, R221) -/

/-- LANE_RETIRE: a lane's residue check has failed, or its storage has had sixteen corrections. The spare takes its place at the
slot's next run boundary, unless it is already in use. -/
def execLaneRetire (s : State) : Host.Outcome State Fault Refusal :=
  let c := s.args.n
  let k := s.args.m
  if (s.slot c k).retired.isSome || 4 ≤ k || 1024 ≤ c then .next s
  else
    let lane := s.args.k % 32
    .next ((s.magpie (coreDie c) unitBank 0 [c, k, lane]).updSlot c k (fun x => { x with retired := some lane, rebuild := true }))

/-- The stored errors of one lane of a hand's registers, corrected or not. -/
def Hand.laneErrs (h : Hand) (err : Bool) (t : Nat) : Nat :=
  let has (r : GReg) : Bool := if err then r.err.has t else r.soft.has t
  (h.map.filter (fun e => e.loc.isPhys && has e.reg)).length + (h.trapWin.filter has).length

/-- The words of one lane are written afresh to the spare lane's storage. -/
def Hand.rewriteLane (h : Hand) (t : Nat) : Hand :=
  let anew (r : GReg) : GReg := { r with err := r.err &&& ~~~Lanes.one t, soft := r.soft &&& ~~~Lanes.one t }
  { h with map := h.map.map (fun e => { e with reg := anew e.reg }), trapWin := h.trapWin.map anew }

/-- A hand's words of a failed lane are read through SECDED and written to the spare's storage (R220, R221): an uncorrectable one kills the
hand unless the lane's thread has exited, and is discarded then. -/
def State.rebuildHand (s : State) (c k t : Nat) (h : Hand) : State :=
  let n := h.laneErrs true t
  let s := s.readErrs c (if h.live.has t then n else 0) (h.laneErrs false t)
  let s := (List.range (h.laneErrs false t)).foldl (fun s _ => s.countCorrections c k (Lanes.one t)) s
  let s := s.updHand h.key (fun h => h.rewriteLane t)
  if n = 0 then s
  else if h.live.has t then s.killGang h.key 0x12 none false
  else s.updCluBank c (fun b => b.discard ((Config.freeWord s.tick).setWidth 8) (Config.freeDWord s.tick))

/-- LANE_REBUILD: at the slot's run boundary, every word of the failed lane is written to the spare's storage, and the slot issues
again. The words are those of the hands whose registers the core holds (log 92). -/
def execLaneRebuild (s : State) : Host.Outcome State Fault Refusal :=
  let c := s.args.n
  let k := s.args.m
  let sl := s.slot c k
  match sl.retired with
  | some t =>
    if sl.hand.isSome || !sl.rebuild then .next s
    else
      let owners := s.hands.filter (fun h => h.core = c && (h.resident || h.state == .swapped || h.state == .swappedAsleep || h.state == .halted))
      .next ((owners.foldl (fun s h => s.rebuildHand c k t h) s).updSlot c k (fun x => { x with rebuild := false }))
  | none => .next s

end Sys2Proof.Machine
end

