-- ==== Sys2Proof/Machine/Link.lean ====
section
/-!
DEFINITION. The peer fabric (spec/01 R20 to R24): flits of a port, the requests of peers to this device and the responses to its
own requests, and requests that no port carries (spec/06 R155).
-/
namespace Sys2Proof.Machine

/-! ## Ports -/

/-- Send a link-control flit. -/
def Port.control! (p : Port) (kind : BitVec 8) (arg : BitVec 24) : Port := { p with control := p.control ++ [(kind, arg)] }

/-- Acknowledge every sequenced flit accepted so far, and give back its credit (R24, log 57). -/
def Port.acknowledge (p : Port) : Port :=
  if p.sinceAck = 0 then p
  else { (p.control! kindACK (p.seqRx - 1)).control! kindCREDIT (BitVec.ofNat 24 p.sinceAck) with sinceAck := 0 }

/-- A sequenced flit is accepted: an ACK at least once for every 64. -/
def Port.accept (p : Port) : Port :=
  let p := { p with seqRx := p.seqRx + 1, sinceAck := p.sinceAck + 1 }
  if 64 ≤ p.sinceAck then p.acknowledge else p

/-- The next sequenced flit of a port arrives in order; any other is discarded (R21, log 57). -/
def State.inOrder (s : State) (p : Nat) (m : PeerMsg) : Bool := p < s.ports.length && (s.port p).up && m.seq == (s.port p).seqRx

/-! ## Requests that get no response (R24, R155) -/

/-- A load's lane gets no data. -/
def State.failLoadLane (s : State) (k id t : Nat) : State :=
  s.updOutst k id (fun o => match o.work with
    | .load n f a ls => { o with work := .load n f a (updWhere (fun l => l.lane = t) (fun l => { l with failed := true }) ls) }
    | .loadH loc f seqs _ => { o with work := .loadH loc f seqs true }
    | .inv n f ls => { o with work := .inv n f (updWhere (fun l => l.lane = t) (fun l => { l with failed := true }) ls) }
    | _ => o)

/-- Answer the peer whose STEP waits for a record's delivery, and the local lanes that wait for it. -/
def stepaOf (m : PeerMsg) (status : BitVec 3) (r : Option AnnRec) (accepted : Bool) (ticket : Nat) (ver : Word) : PeerMsg :=
  let st := match r with | some r => r.state.toNat | none => 0
  let prog := match r with | some r => r.prog | none => 0
  let res := match r with | some r => r.res.toNat | none => 0
  { (default : PeerMsg) with
    tag := m.tag, die := m.die, status := status,
    data := BitVec.ofNat 512 (st + prog % 32 * 2 ^ 3 + (if accepted then 2 ^ 8 else 0) + ticket * 2 ^ 32 + res * 2 ^ 64 +
      ver.toNat * 2 ^ 128) }

/-- Send the answer to a STEP. The home keeps no record of another device's owner past the answer that shows it terminal: no
message frees it (log 58). -/
def State.answerStep (s : State) (p : Nat) (m : PeerMsg) (status : BitVec 3) (ticket : Nat) (accepted : Bool) : State :=
  let r := s.rec? ticket
  let s := s.sendFlit p kindSTEPA (stepaOf m status r accepted ticket 0)
  match r with
  | some r => if r.dev.isSome && (r.state == 2 || r.state == 3 || r.state == 4) then s.dropRec ticket else s
  | none => s

/-- Lanes of this device whose step waits for a delivery in the owner's device. -/
def State.cellLanes (s : State) (ticket : Nat) : List (Nat × Nat × Nat × AnnLane) :=
  s.hands.foldr (fun h acc => h.outst.foldr (fun o acc => (match o.work with
    | .ann kind _ _ _ ls => (ls.filter (fun l => match l.phase with | .cell t _ _ => t == ticket | _ => false)).map
        (fun l => (h.key, o.id, kind, l))
    | _ => []) ++ acc) acc) []

/-- The home answers the step whose delivery it has sent to the owner's device (R23, R24). With `again` the sender re-executes. -/
def State.settleCell (s : State) (ticket : Nat) (accepted again : Bool) : State :=
  let waiting := (s.rec? ticket).bind AnnRec.answer
  let s := s.updRec ticket (fun r => { r with answer := none })
  let s := (s.cellLanes ticket).foldl (fun s x =>
    let (k, id, kind, l) := x
    match l.phase with
    | .cell t j own =>
      if again then s.setAnnLane k id { l with phase := .send t j own, sent := 0 } else s.stepAnswered kind k id l own
    | _ => s) s
  match waiting with
  | some (p, m) => s.answerStep p m 0 ticket accepted
  | none => s

/-- A peer has answered for a bind-table entry, or will not: the `bind` executes again. -/
def State.entryAnswer (s : State) (k loc : Nat) (came : Bool) : State :=
  if (s.hand k).parks.any (fun p => p.2 == .entry loc) then
    let s := { s with entryReads := (k, loc, came) :: s.entryReads }
    s.updHand k (fun h => Hand.wakeUp { h with parks := h.parks.filter (fun p => p.2 != .entry loc) })
  else s

/-- A request is treated as sent to a peer with no working port. -/
def State.lose (s : State) (r : PeerReq) : State :=
  let s := { s with reqs := s.reqs.filter (fun x => x != r) }
  match r.use with
  | .load k id t => s.failLoadLane k id t
  | .step k id t => s.annLost k id t
  | .object k id t => s.objectLost k id t
  | .table q d obj base => s.tableAnswer q d obj base ((Config.freeWord s.tick).getLsbD 0)
  | .line e j => { s with lineFails := (e, j) :: s.lineFails }
  | .out e j => s.copyLost e j
  | .cell home idx => s.settleCell (home * 8192 + idx) false false
  | .cancel _ _ _ _ => s
  | .watch k key _ => s.watchEnds k key
  | .entry k loc => s.entryAnswer k loc false
  | .front w loc n => s.frontAnswer w loc n false
  | .none => if r.kind == kindWR then s.dropPeerStore r.die else s

/-- A port goes down: its flits go over the lowest-numbered other port to the same peer; without one, the device's requests to the
peer are lost (R21, R155). -/
def State.portDown (s : State) (p : Nat) : State :=
  let x := s.port p
  let flits := x.retained.map (fun f => (f.2.1, f.2.2)) ++ x.waiting
  let s := s.updPort p (fun x => { x with up := false, retained := [], waiting := [], replayFails := 0 })
  match s.portTo (Config.peerOf p) with
  | some q => flits.foldl (fun s f => s.sendFlit q f.1 f.2) s
  | none => (s.reqs.filter (fun r => r.dev == Config.peerOf p)).foldl State.lose s

/-! ## Link control (R21, R22, R24) -/

/-- ACK: retained flits at or below the acknowledged sequence, modulo 2^24, are freed. -/
def execAck (p : Nat) (seq : BitVec 24) (s : State) : Host.Outcome State Fault Refusal :=
  if s.ports.length ≤ p || !(s.port p).up then .next s
  else
    let left := (s.port p).retained.filter (fun f => 2 ^ 23 ≤ (seq - f.1).toNat)
    let moved := left.length < (s.port p).retained.length
    .next ((s.updPort p (fun x => { x with retained := left, replayFails := if moved then 0 else x.replayFails })).flushPort p)

/-- REPLAY: the retained flits from the named sequence on are sent again. A further request without an ACK of new flits says that
the last replay failed; after eight failures the port goes down. -/
def execReplay (p : Nat) (seq : BitVec 24) (s : State) : Host.Outcome State Fault Refusal :=
  if s.ports.length ≤ p || !(s.port p).up then .next s
  else if 8 ≤ (s.port p).replayFails then .next (s.portDown p)
  else .next (s.updPort p (fun x => { x with
    replayFails := x.replayFails + 1, wire := x.wire ++ x.retained.filter (fun f => (f.1 - seq).toNat < 2 ^ 23) }))

/-- CREDIT. -/
def execCredit (p : Nat) (freed : BitVec 16) (s : State) : Host.Outcome State Fault Refusal :=
  if s.ports.length ≤ p || !(s.port p).up then .next s
  else .next ((s.updPort p (fun x => { x with credit := x.credit + freed.toNat })).flushPort p)

/-- FLIT_CHK_MISMATCH: the flit is discarded and a replay requested from its sequence number. -/
def execFlitChkMismatch (s : State) : Host.Outcome State Fault Refusal :=
  let p := s.args.n
  if s.ports.length ≤ p || !(s.port p).up then .next s
  else .next (s.updPort p (fun x => x.control! kindREPLAY x.seqRx))

/-- FLIT_UNLISTED_KIND: a sequenced flit that is discarded, counted and logged; in sequence, it counts as received. -/
def execFlitUnlistedKind (s : State) : Host.Outcome State Fault Refusal :=
  let p := s.args.n
  if s.ports.length ≤ p || !(s.port p).up || listedKind s.args.code then .next s
  else .next ((s.updPort p (fun x => { (if s.args.m = x.seqRx.toNat then x.accept else x) with badKind := x.badKind + 1 })).magpie (portDie p) unitLink 0 [p, s.args.code.toNat])

/-- ACK_TIMER. -/
def execAckTimer (s : State) : Host.Outcome State Fault Refusal :=
  let p := s.args.n
  if s.ports.length ≤ p || !(s.port p).up then .next s else .next (s.updPort p Port.acknowledge)

/-- REQUEST_TIMEOUT of the request of a die with a TAG to a device. -/
def execRequestTimeout (s : State) : Host.Outcome State Fault Refusal :=
  match s.reqs.find? (fun r => r.die = s.args.n && r.tag.toNat == s.args.m && r.dev == s.args.half) with
  | some r => .next (s.lose r)
  | none => .next s

/-- PORT_RETRAIN: a port that trains is up with new sequences and its full credit; one that fails is down. -/
def execPortRetrain (s : State) : Host.Outcome State Fault Refusal :=
  let p := s.args.n
  if s.ports.length ≤ p then .next s
  else if s.args.ok then
    let x := s.port p
    let waiting := x.retained.map (fun f => (f.2.1, f.2.2)) ++ x.waiting
    .next ((s.updPort p (fun _ => { Port.init with waiting := waiting, badKind := x.badKind, control := x.control, wire := x.wire })).flushPort p)
  else
    let s := if (s.port p).up then s.portDown p else s
    .next (s.magpie (portDie p) unitLink 0 [p])

/-! ## Requests of peers (R23) -/

/-- Bytes of an access. -/
def sizeBytes (c : BitVec 3) : Option Nat :=
  match c.toNat with
  | 0 => some 1
  | 1 => some 2
  | 2 => some 4
  | 3 => some 8
  | 4 => some 16
  | 5 => some 64
  | _ => none

/-- Device memory holds `n` bytes at an address. -/
def deviceRange (a n : Nat) : Bool := deviceExists a && deviceExists (a + n - 1)

/-- Accept a sequenced flit. -/
def State.takeFlit (s : State) (p : Nat) : State := s.updPort p Port.accept

/-- RD: the bytes as last written, POISON when uncorrectable, NOMEM where no memory is. Data lie in the low bytes of DATA
(log 59). -/
def execRd (p : Nat) (m : PeerMsg) (s : State) : Host.Outcome State Fault Refusal :=
  if !s.inOrder p m then .next s
  else
    let s := s.takeFlit p
    let a := m.addr.toNat
    let reply (st : BitVec 3) (data : BitVec 512) : PeerMsg :=
      { (default : PeerMsg) with tag := m.tag, die := m.die, size := m.size, status := st, data := data }
    match sizeBytes m.size with
    | none => .next (s.sendFlit p kindRDR (reply 2 0))
    | some n =>
      if !deviceRange a n then .next (s.sendFlit p kindRDR (reply 2 0))
      else if s.badRange a n then
        let s := ((wordsOf a n).filter s.isBad).foldl State.logUE (s.crossHome (portDie p) a)
        .next (s.sendFlit p kindRDR (reply 1 0))
      else .next ((s.crossHome (portDie p) a).sendFlit p kindRDR (reply 0 (BitVec.ofNat 512 (leNat (s.readBytes a n)))))

/-- WR. -/
def execWr (p : Nat) (m : PeerMsg) (s : State) : Host.Outcome State Fault Refusal :=
  if !s.inOrder p m then .next s
  else
    let s := s.takeFlit p
    let base := m.addr.toNat / 64 * 64
    let reply (st : BitVec 3) : PeerMsg := { (default : PeerMsg) with tag := m.tag, die := m.die, size := m.size, status := st }
    if !deviceRange base 64 then .next (s.sendFlit p kindWRA (reply 2))
    else .next (((s.crossHome (portDie p) base).peerWrite m.src.toNat base m.mask m.data).sendFlit p kindWRA (reply 0))

/-- The operations that a record of another device's owner may have: no `ann.mcas`, whose words lie in one device (R327). -/
def foreignOp (n : Nat) : Nat := if n % 9 = 8 then bktOp else n % 9

/-- The record of an APPEND: words 1 to 7 as the owner's device fills them. The message has no word 0: OP, TYPE and SEQ are free
values (log 58). -/
def State.foreignRec (s : State) (m : PeerMsg) : AnnRec :=
  let d := m.data.toNat
  let f := Config.freeDWord s.tick
  let op := foreignOp (bits f.toNat 0 16)
  let nocell := bits d 320 64 == 0
  { (default : AnnRec) with
    state := 1, op := op, nsteps := if nocell then 1 else 2, type := bits f.toNat 16 16 % 5, nocell := nocell,
    seq := BitVec.ofNat 32 (bits f.toNat 32 32), obj := bits d 64 64, opA := BitVec.ofNat 64 (bits d 128 64),
    opB := BitVec.ofNat 64 (bits d 192 64), res := BitVec.ofNat 64 (bits d 256 64), cell := BitVec.ofNat 64 (bits d 320 64),
    lid := BitVec.ofNat 32 (bits d 384 32), hid := bits d 416 14, lane := bits d 430 5, part := bits d 435 4,
    epoch := BitVec.ofNat 8 (bits d 439 8), dev := some (BitVec.ofNat 16 (bits d 16 16)) }

/-- A binding of another device's launch: it keeps its object's publish entry. Its launch is written as 0. -/
def foreignBinding (m : PeerMsg) : Binding :=
  { lid := 0, obj := m.addr.toNat, base := BitVec.ofNat 64 (bits m.data.toNat 128 64), len := BitVec.ofNat 64 (bits m.data.toNat 192 64) }

/-- Take one binding of another device's launch away. -/
def State.dropForeign (s : State) (b : Binding) : State :=
  let s := { s with binds := s.binds.erase b }
  if s.binds.any (fun x => x.obj = b.obj) then s else { s with pubs := s.pubs.filter (fun q => q.obj ≠ b.obj) }

/-- STEP: a message to a home of this device. To a MSG above 6, which R23 does not list, the home answers NOMEM (log 76). -/
def execPeerStep (p : Nat) (m : PeerMsg) (s : State) : Host.Outcome State Fault Refusal :=
  if !s.inOrder p m then .next s
  else
    let s := s.takeFlit p
    let d := m.data.toNat
    let a := m.addr.toNat
    let t := bits d 32 32
    let plain (s : State) (st : BitVec 3) (ver : Word) : State := s.sendFlit p kindSTEPA (stepaOf m st none false 0 ver)
    if !deviceRange a 8 || a % 8 ≠ 0 then .next (plain s 2 0)
    else match bits d 0 8 with
      | 0 => match s.allocRec (homeOf a) { s.foreignRec m with obj := a } with
        | none => .next (plain s 3 0)
        | some (t, s) => .next (s.answerStep p m 0 t true)
      | 1 => match s.homeStep t (bits d 8 8) with
        | .answered s ok => .next (s.answerStep p m 0 t ok)
        | .full s => .next (s.answerStep p m 3 t false)
        | .page s asid va =>
          let s := match s.translate asid va .write (2048 + portDie p) with
            | .page home e => s.requestPage (2048 + p) asid va home e
            | _ => s
          .next { s with cellWaits := s.cellWaits ++ [{ asid := asid, page := vaBits va / 2 ^ 16, port := p, step := true, msg := m }] }
        | .remote s => .next (s.updRec t (fun r => { r with answer := some (p, m) }))
      | 2 =>
        let cut (r : AnnRec) : AnnRec := { r with killed := true, state := if r.state == 1 && r.prog == 0 then 5 else r.state }
        .next (s.sendFlit p kindSTEPA (stepaOf m 0 ((s.rec? t).map cut) true t 0) |> fun s => (s.updRec t cut).sweepRecs)
      | 3 =>
        if s.pubsFull a then .next (plain s 3 0) else .next (plain (s.addBinding (foreignBinding m)) 0 0)
      | 4 => .next (plain s 0 (s.version a))
      | 5 =>
        let s := { s with pubs := updWhere (fun q => q.obj = a) (fun q => { q with ver := q.ver + 1 }) s.pubs }
        .next (plain s 0 (s.version a))
      | 6 => .next (plain (s.dropForeign (foreignBinding m)) 0 0)
      | _ => .next (plain s 2 0)

/-- The answer to a CELL. -/
def State.answerCell (s : State) (p : Nat) (m : PeerMsg) (st : BitVec 3) : State :=
  s.sendFlit p kindCELLA { (default : PeerMsg) with tag := m.tag, die := m.die, size := m.size, status := st }

/-- The thread of a CELL's owner has met PAGE: once the page has been served, its step is sent again (R24, R400). -/
def State.cellPaged (s : State) (m : PeerMsg) : State :=
  let d := m.data.toNat
  let lid : Word := BitVec.ofNat 32 (bits d 128 32)
  match s.handOf lid (bits d 160 14) with
  | none => s
  | some h => s.updHand h.key (fun h => { h with outst := h.outst.map (fun o => match o.work with
      | .ann kind op type pc ls => { o with work := .ann kind op type pc (updWhere (fun l => l.lane = bits d 174 5 && l.phase == .await false)
          (fun l => { l with paged := true }) ls) }
      | _ => o) })

/-- The owner keeps the view of a delivery write that a CELL made (R326). -/
def State.cellWritten (s : State) (m : PeerMsg) (w : Nat) : State :=
  let d := m.data.toNat
  match s.handOf (BitVec.ofNat 32 (bits d 128 32)) (bits d 160 14) with
  | none => s
  | some h =>
    match h.ownOf (bits d 174 5) with
    | some o => if o.ticket = bits d 0 32 then s.setOwn h.key (bits d 174 5) (some { o with delivered := [(w, s.lastIdx w)] }) else s
    | none => s

/-- CELL: the delivery write of a record whose owner runs here, under the ASID of its launch. A launch that has ended has no
address space here: NOMEM (log 59). -/
def execCell (p : Nat) (m : PeerMsg) (s : State) : Host.Outcome State Fault Refusal :=
  if !s.inOrder p m then .next s
  else
    let s := s.takeFlit p
    let d := m.data.toNat
    match s.launch? (BitVec.ofNat 32 (bits d 128 32)) with
    | none => .next (s.answerCell p m 2)
    | some l =>
      match s.translate l.asid m.addr .write (2048 + portDie p) with
      | .prot => .next (s.answerCell p m 2)
      | .page home e =>
        let s := (s.requestPage (2048 + p) l.asid m.addr home e).cellPaged m
        let w : CellWait := { asid := l.asid, page := vaBits m.addr / 2 ^ 16, port := p, step := false, msg := m }
        .next ({ s with cellWaits := s.cellWaits ++ [w] }.answerCell p m 4)
      | .ok loc e =>
        let s := (s.tlbAdd e).storeWord (portDie p) (wordOf loc) 0xFF (BitVec.ofNat 64 (bits d 64 64)) [] 0 Party.nobody
        .next ((s.cellWritten m (wordOf loc)).answerCell p m 0)

/-! ## Responses (R24) -/

/-- The outstanding request that a response matches by TAG and DIE. -/
def State.matching (s : State) (p : Nat) (kind : BitVec 8) (m : PeerMsg) : Option PeerReq :=
  s.reqs.find? (fun r => r.dev == Config.peerOf p && r.kind == kind && r.tag == m.tag && r.die == m.die.toNat)

def State.dropReq (s : State) (r : PeerReq) : State := { s with reqs := s.reqs.filter (fun x => x != r) }

/-- Bytes that a peer has sent stand in the order of its words as a write of the peer, where they differ from what is known. -/
def State.learn (s : State) (loc : Nat) (bs : List (BitVec 8)) : State :=
  if s.readBytes loc bs.length == bs && !s.badRange loc bs.length then s else s.writeBytes loc bs Party.nobody

/-- RDR. -/
def execRdr (p : Nat) (m : PeerMsg) (s : State) : Host.Outcome State Fault Refusal :=
  if !s.inOrder p m then .next s
  else
    let s := s.takeFlit p
    match s.matching p kindRD m with
    | none => .next s
    | some r =>
      let s := s.dropReq r
      let loc := peerLoc r.dev.toNat r.msg.addr.toNat
      let n := (sizeBytes r.msg.size).getD 1
      let s := if m.status == 0 then s.learn loc (leBytes m.data.toNat n) else s
      if m.status == 0 then
        match r.use with
        | .watch k key v => .next (if m.data.extractLsb' 0 64 == v then s else s.watchEnds k key)
        | .entry k loc => .next (s.entryAnswer k loc true)
        | .front w loc n => .next (s.frontAnswer w loc n true)
        | _ => .next s
      else match r.use with
        | .watch k key _ => .next (s.watchEnds k key)
        | .entry k loc => .next (s.entryAnswer k loc false)
        | .front w loc n => .next (s.frontAnswer w loc n false)
        | .load k id t => .next (s.failLoadLane k id t)
        | .line e j =>
          if m.status == 1 then .next ((wordsOf loc n).foldl State.markBad s) else .next { s with lineFails := (e, j) :: s.lineFails }
        | _ => .next s

/-- WRA: a store is done; one that found no memory is dropped and logged (log 59). -/
def execWra (p : Nat) (m : PeerMsg) (s : State) : Host.Outcome State Fault Refusal :=
  if !s.inOrder p m then .next s
  else
    let s := s.takeFlit p
    match s.matching p kindWR m with
    | none => .next s
    | some r => match r.use with
      | .out e j => .next (if m.status == 0 then s.dropReq r else (s.dropReq r).copyLost e j)
      | _ => .next (if m.status == 0 then s.dropReq r else (s.dropReq r).dropPeerStore r.die)

/-- STEPA. -/
def execStepa (p : Nat) (m : PeerMsg) (s : State) : Host.Outcome State Fault Refusal :=
  if !s.inOrder p m then .next s
  else
    let s := s.takeFlit p
    match s.matching p kindSTEP m with
    | none => .next s
    | some r =>
      let s := s.dropReq r
      match r.use with
      | .step k id t => .next ((s.orphanAnswer r m.status m.data).annAnswer k id t m.status m.data)
      | .cancel lid hid lane seq => .next (s.cancelAnswer lid hid lane seq m.data)
      | .object k id t => .next (s.objectAnswer k id t m.status m.data)
      | .table q d obj base => .next (s.tableAnswer q d obj base (m.status == 0))
      | _ => .next s

/-- CELLA: the delivery step is accepted, and the record is DELIVERED; without memory for the cell it is FAILED as on PROT (R319,
log 59). PAGE is followed by SERVED, at which the step is rejected and its sender re-executes. -/
def execCella (p : Nat) (m : PeerMsg) (s : State) : Host.Outcome State Fault Refusal :=
  if !s.inOrder p m then .next s
  else
    let s := s.takeFlit p
    match s.matching p kindCELL m with
    | none => .next s
    | some r =>
      match r.use with
      | .cell home idx =>
        let t := home * 8192 + idx
        match m.status.toNat, s.rec? t with
        | 4, _ => .next s
        | 5, _ => .next ((s.dropReq r).settleCell t false true)
        | 0, some x => .next (((s.dropReq r).acceptStep x x.nsteps).settleCell t true false)
        | _, some x => .next (((s.dropReq r).failRec x x.nsteps 0x0000000A).settleCell t true false)
        | _, none => .next (s.dropReq r)
      | _ => .next (s.dropReq r)

end Sys2Proof.Machine
end

