-- ==== Sys2Proof/Machine/Badger.lean ====
section
/-!
DEFINITION. The Badger cores' page service (spec/06 R153, spec/02 R40, R49, R411, spec/08 R189, R192, spec/19 R400): the step
PAGE_SERVICE.
-/
namespace Sys2Proof.Machine

/-- A park or a wait names a page. -/
def samePage (asid : BitVec 16) (page : Nat) (a : BitVec 16) (va : DWord) : Bool := a = asid && vaBits va / 2 ^ 16 == page

/-- The page is valid: its address walks to a leaf, which for the device tier lies in a granule of the serving slice. -/
def State.validPage (s : State) (r : PageReq) (va : DWord) : Bool :=
  match s.walk r.asid (vaBits va) with
  | .leaf level leaf => match s.leafLoc level leaf (vaBits va) with
    | some loc => spaceOf loc != .device || (level = 4 && homeOf loc == r.home)
    | none => false
  | _ => false

/-! ## Re-execution of an announcement (R400) -/

/-- What a re-execution keeps of a lane: a finished lane its words, another one its record and the step that it was to send. -/
def Outst.redoOf (o : Outst) (kind : Nat) (pc : DWord) (z : AnnLane) : Option Redo :=
  let half := if kind = 3 then o.dsts.length else o.dsts.length / 2
  let word (ds : List OutDst) : Option (DWord × BitVec 4) :=
    ds.findSome? (fun d => (d.vals.find? (fun v => v.lane = z.lane)).map (fun v => (v.value, d.tag)))
  let at_ (t j : Nat) : Redo := { lane := z.lane, pc := pc, own := z.own, ticket := t, step := j, view := z.view, done := none }
  match z.phase with
  | .done => (word (o.dsts.take half)).map (fun v => { at_ 0 0 with done := some (v.1, word (o.dsts.drop half)) })
  | .send t j _ | .cell t j _ => some (at_ t j)
  | .start => z.own.map (fun t => at_ t 1)
  | .await _ | .peer => z.own.map (fun t => at_ t (z.answer.2.1 + 1))

/-- A peer has not answered an append of the announcement yet. -/
def Outst.appending (o : Outst) : Bool :=
  match o.work with
  | .ann _ _ _ _ ls => ls.any (fun z => z.phase == .await false && z.own.isNone)
  | _ => false

/-! ## Parked splits -/

/-- The page is valid: the parked splits go on, and re-execute. -/
def State.unparkPage (s : State) (asid : BitVec 16) (page : Nat) : State :=
  let mine (p : Lanes × Park) : Bool := match p.2 with | .page a va _ _ => samePage asid page a va | _ => false
  { s with hands := s.hands.map (fun h => if h.parks.any mine then Hand.wakeUp { h with parks := h.parks.filter (fun p => !mine p) } else h) }

/-- A split parked on a refused page takes PROT with INFO 0x000B (R153). -/
def State.refusePark (s : State) (k : Nat) (lanes : Lanes) (va : DWord) (mask : Lanes) (res : Option Nat) : State :=
  let h := s.hand k
  let trap (s : State) (pc : DWord) : State :=
    s.trapParked k { code := 0x0A, kind := 0, info := 0x000B, pc := pc, val := va, mask := mask, split := lanes }
  match res with
  | none => trap s (h.pcOf lanes.lowest)
  | some id =>
    match h.outst.find? (fun o => o.id = id) with
    | some o => match o.work with
      | .ann kind _ _ pc ls =>
        trap (s.updHand k (fun h => { h with
          sends := o.sent.foldl (fun l x => putAt 32 0 (fun n => n - 1) x.1 l) h.sends,
          outst := h.outst.filter (fun x => x.id ≠ id), redo := h.redo ++ ls.filterMap (o.redoOf kind pc) })) pc
      | _ => s
    | none => s

/-- The parks of the hands on a page. -/
def State.pageParks (s : State) (asid : BitVec 16) (page : Nat) : List (Nat × Lanes × DWord × Lanes × Option Nat) :=
  s.hands.foldr (fun h acc => h.parks.filterMap (fun p => match p.2 with
    | .page a va m r => if samePage asid page a va then some (h.key, p.1, va, m, r) else none
    | _ => none) ++ acc) []

/-- The splits parked on a refused page, each as long as it is still parked there. -/
def State.refuseParks (s : State) (asid : BitVec 16) (page : Nat) : State :=
  (s.pageParks asid page).foldl (fun s x =>
    let (k, lanes, va, m, r) := x
    if (s.hand k).parks.any (fun p => p.1 == lanes && p.2 == .page asid va m r) then s.refusePark k lanes va m r else s) s

/-! ## The front end and peers -/

/-- Queues that wait for the page are READY again, and held adds are made (R40, R411). -/
def State.frontServed (s : State) (asid : BitVec 16) (page : Nat) : State :=
  let qs := s.queues.filter (fun q => q.await == .page asid page)
  ((qs.foldl (fun s q => s.qWake (q.fn, q.idx)) s).retryAdds asid page).retryItems asid

/-- Peers whose messages wait for the page are answered (R24). -/
def State.peersServed (s : State) (asid : BitVec 16) (page : Nat) (st : BitVec 3) : State :=
  let mine (w : CellWait) : Bool := w.asid = asid && w.page == page
  (s.cellWaits.filter mine).foldl (fun s w =>
    if w.step then s.answerStep w.port w.msg 0 (bits w.msg.data.toNat 32 32) false else s.answerCell w.port w.msg st)
    { s with cellWaits := s.cellWaits.filter (fun w => !mine w) }

/-- Work of the front end that may still meet the refused page. -/
def State.frontOpen (s : State) (asid : BitVec 16) (page : Nat) : Bool :=
  s.queues.any (fun q => q.await == .page asid page) || s.graphs.any (fun g => g.asid = asid) ||
    s.launches.any (fun l => l.asid = asid && s.launchOver l)

/-! ## PAGE_SERVICE -/

/-- No earlier request of the same sender stands at the same Badger core, which serves them in arrival order (R49). -/
def State.firstOfSender (s : State) (r : PageReq) : Bool :=
  (s.pageReqs.find? (fun x => x.sender = r.sender && x.home == r.home)) == some r

/-- PAGE_SERVICE: the Badger core makes the page valid by writing the entry that the walk reached, or refuses the request. It
refuses no page for which a peer's answer to an append is still on its way. -/
def execPageService (s : State) : Host.Outcome State Fault Refusal :=
  let asid := s.args.half
  let va := s.args.value
  let page := vaBits va / 2 ^ 16
  match s.pageReqs.find? (fun r => r.asid = asid && r.page == page) with
  | none => .next s
  | some r =>
    if !s.firstOfSender r then .next s
    else
    let s' := { s with pageReqs := s.pageReqs.filter (fun x => !(x.asid = asid && x.page == page)) }
    if s.args.ok then
      if s.hands.any (fun h => h.outst.any (fun o => o.appending && h.parks.any (fun p => match p.2 with
          | .page _ _ _ r => r == some o.id
          | _ => false))) then .next s
      else
        let keep := r.front && s'.frontOpen asid page
        let s' := { s' with refusals := if r.front then (asid, page) :: s'.refusals else s'.refusals }
        let s' := s'.frontServed asid page
        let s' := { s' with refusals := if keep then s'.refusals else s'.refusals.filter (fun x => x ≠ (asid, page)) }
        .next ((s'.refuseParks asid page).peersServed asid page 2)
    else
      let s' := s'.writeBytes r.entry (leBytes s.args.value2.toNat 8) Party.nobody
      if !s'.validPage r va then .next s
      else .next (((s'.frontServed asid page).unparkPage asid page).peersServed asid page 5)

end Sys2Proof.Machine
end

