-- ==== Sys2Proof/Machine/Crypto.lean ====
section
/-!
DEFINITION. The standard functions by which spec/02 R59 and R60 give the bytes of a checkpoint: SHA-256, AES-256, its XTS mode and
the key wrap of RFC 3394, over lists of bytes.
-/
namespace Sys2Proof.Machine

/-- A string of bytes. -/
abbrev Bytes := List (BitVec 8)

def xorBytes (a b : Bytes) : Bytes := List.zipWith (· ^^^ ·) a b

/-- The bytes of a number, most significant first. -/
def beBytes (v n : Nat) : Bytes := (leBytes v n).reverse
def beNat (bs : Bytes) : Nat := leNat bs.reverse

/-! ## SHA-256 -/

def shaK : List Word :=
  [0x428A2F98, 0x71374491, 0xB5C0FBCF, 0xE9B5DBA5, 0x3956C25B, 0x59F111F1, 0x923F82A4, 0xAB1C5ED5] ++
  [0xD807AA98, 0x12835B01, 0x243185BE, 0x550C7DC3, 0x72BE5D74, 0x80DEB1FE, 0x9BDC06A7, 0xC19BF174] ++
  [0xE49B69C1, 0xEFBE4786, 0x0FC19DC6, 0x240CA1CC, 0x2DE92C6F, 0x4A7484AA, 0x5CB0A9DC, 0x76F988DA] ++
  [0x983E5152, 0xA831C66D, 0xB00327C8, 0xBF597FC7, 0xC6E00BF3, 0xD5A79147, 0x06CA6351, 0x14292967] ++
  [0x27B70A85, 0x2E1B2138, 0x4D2C6DFC, 0x53380D13, 0x650A7354, 0x766A0ABB, 0x81C2C92E, 0x92722C85] ++
  [0xA2BFE8A1, 0xA81A664B, 0xC24B8B70, 0xC76C51A3, 0xD192E819, 0xD6990624, 0xF40E3585, 0x106AA070] ++
  [0x19A4C116, 0x1E376C08, 0x2748774C, 0x34B0BCB5, 0x391C0CB3, 0x4ED8AA4A, 0x5B9CCA4F, 0x682E6FF3] ++
  [0x748F82EE, 0x78A5636F, 0x84C87814, 0x8CC70208, 0x90BEFFFA, 0xA4506CEB, 0xBEF9A3F7, 0xC67178F2]

def shaInit : List Word :=
  [0x6A09E667, 0xBB67AE85, 0x3C6EF372, 0xA54FF53A, 0x510E527F, 0x9B05688C, 0x1F83D9AB, 0x5BE0CD19]

/-- One round over the eight working words. -/
def shaRound (h : List Word) (kw : Word) : List Word :=
  match h with
  | [a, b, c, d, e, f, g, x] =>
    let s1 := e.rotateRight 6 ^^^ e.rotateRight 11 ^^^ e.rotateRight 25
    let ch := (e &&& f) ^^^ (~~~e &&& g)
    let t1 := x + s1 + ch + kw
    let s0 := a.rotateRight 2 ^^^ a.rotateRight 13 ^^^ a.rotateRight 22
    let maj := (a &&& b) ^^^ (a &&& c) ^^^ (b &&& c)
    [t1 + (s0 + maj), a, b, c, d + t1, e, f, g]
  | h => h

/-- The message schedule, held with its last word first. -/
def shaExtend (w : List Word) : List Word :=
  let x := w.getD 14 0
  let y := w.getD 1 0
  let s0 := x.rotateRight 7 ^^^ x.rotateRight 18 ^^^ (x >>> 3)
  let s1 := y.rotateRight 17 ^^^ y.rotateRight 19 ^^^ (y >>> 10)
  (w.getD 15 0 + s0 + w.getD 6 0 + s1) :: w

/-- Compress one block of 64 bytes. -/
def shaBlock (h : List Word) (b : Bytes) : List Word :=
  let first := (List.range 16).map (fun i => (BitVec.ofNat 32 (beNat ((b.drop (4 * i)).take 4)) : Word))
  let w := ((List.range 48).foldl (fun w _ => shaExtend w) first.reverse).reverse
  List.zipWith (· + ·) h ((List.zipWith (· + ·) shaK w).foldl shaRound h)

/-- SHA-256 of a string. -/
def sha256 (m : Bytes) : Bytes :=
  let p := m ++ [0x80] ++ List.replicate ((119 - m.length % 64) % 64) 0 ++ beBytes (8 * m.length) 8
  ((List.range (p.length / 64)).foldl (fun h i => shaBlock h ((p.drop (64 * i)).take 64)) shaInit).foldr
    (fun x acc => beBytes x.toNat 4 ++ acc) []

/-! ## AES-256 -/

def aesSbox : Bytes :=
  [0x63, 0x7C, 0x77, 0x7B, 0xF2, 0x6B, 0x6F, 0xC5, 0x30, 0x01, 0x67, 0x2B, 0xFE, 0xD7, 0xAB, 0x76] ++
  [0xCA, 0x82, 0xC9, 0x7D, 0xFA, 0x59, 0x47, 0xF0, 0xAD, 0xD4, 0xA2, 0xAF, 0x9C, 0xA4, 0x72, 0xC0] ++
  [0xB7, 0xFD, 0x93, 0x26, 0x36, 0x3F, 0xF7, 0xCC, 0x34, 0xA5, 0xE5, 0xF1, 0x71, 0xD8, 0x31, 0x15] ++
  [0x04, 0xC7, 0x23, 0xC3, 0x18, 0x96, 0x05, 0x9A, 0x07, 0x12, 0x80, 0xE2, 0xEB, 0x27, 0xB2, 0x75] ++
  [0x09, 0x83, 0x2C, 0x1A, 0x1B, 0x6E, 0x5A, 0xA0, 0x52, 0x3B, 0xD6, 0xB3, 0x29, 0xE3, 0x2F, 0x84] ++
  [0x53, 0xD1, 0x00, 0xED, 0x20, 0xFC, 0xB1, 0x5B, 0x6A, 0xCB, 0xBE, 0x39, 0x4A, 0x4C, 0x58, 0xCF] ++
  [0xD0, 0xEF, 0xAA, 0xFB, 0x43, 0x4D, 0x33, 0x85, 0x45, 0xF9, 0x02, 0x7F, 0x50, 0x3C, 0x9F, 0xA8] ++
  [0x51, 0xA3, 0x40, 0x8F, 0x92, 0x9D, 0x38, 0xF5, 0xBC, 0xB6, 0xDA, 0x21, 0x10, 0xFF, 0xF3, 0xD2] ++
  [0xCD, 0x0C, 0x13, 0xEC, 0x5F, 0x97, 0x44, 0x17, 0xC4, 0xA7, 0x7E, 0x3D, 0x64, 0x5D, 0x19, 0x73] ++
  [0x60, 0x81, 0x4F, 0xDC, 0x22, 0x2A, 0x90, 0x88, 0x46, 0xEE, 0xB8, 0x14, 0xDE, 0x5E, 0x0B, 0xDB] ++
  [0xE0, 0x32, 0x3A, 0x0A, 0x49, 0x06, 0x24, 0x5C, 0xC2, 0xD3, 0xAC, 0x62, 0x91, 0x95, 0xE4, 0x79] ++
  [0xE7, 0xC8, 0x37, 0x6D, 0x8D, 0xD5, 0x4E, 0xA9, 0x6C, 0x56, 0xF4, 0xEA, 0x65, 0x7A, 0xAE, 0x08] ++
  [0xBA, 0x78, 0x25, 0x2E, 0x1C, 0xA6, 0xB4, 0xC6, 0xE8, 0xDD, 0x74, 0x1F, 0x4B, 0xBD, 0x8B, 0x8A] ++
  [0x70, 0x3E, 0xB5, 0x66, 0x48, 0x03, 0xF6, 0x0E, 0x61, 0x35, 0x57, 0xB9, 0x86, 0xC1, 0x1D, 0x9E] ++
  [0xE1, 0xF8, 0x98, 0x11, 0x69, 0xD9, 0x8E, 0x94, 0x9B, 0x1E, 0x87, 0xE9, 0xCE, 0x55, 0x28, 0xDF] ++
  [0x8C, 0xA1, 0x89, 0x0D, 0xBF, 0xE6, 0x42, 0x68, 0x41, 0x99, 0x2D, 0x0F, 0xB0, 0x54, 0xBB, 0x16]

def subByte (b : BitVec 8) : BitVec 8 := aesSbox.getD b.toNat 0

/-- Multiply by x in the field of AES. -/
def xtime (b : BitVec 8) : BitVec 8 := (b <<< 1) ^^^ (if b.getLsbD 7 then 0x1B else 0)

/-- The words of the key schedule, of four bytes each. -/
def aesWords (key : Bytes) : List Bytes :=
  let first := (List.range 8).map (fun i => (key.drop (4 * i)).take 4)
  (List.range 52).foldl (fun ws n =>
    let i := n + 8
    let t := ws.getD (i - 1) []
    let t := if i % 8 = 0 then
        xorBytes ((t.drop 1 ++ t.take 1).map subByte) [(1 : BitVec 8) <<< (i / 8 - 1), 0, 0, 0]
      else if i % 8 = 4 then t.map subByte else t
    ws ++ [xorBytes (ws.getD (i - 8) []) t]) first

/-- Round key `r`. -/
def roundKey (ws : List Bytes) (r : Nat) : Bytes := ((ws.drop (4 * r)).take 4).foldr (· ++ ·) []

def shiftRows (s : Bytes) : Bytes := (List.range 16).map (fun i => s.getD ((i + 4 * (i % 4)) % 16) 0)

def mixColumns (s : Bytes) : Bytes :=
  (List.range 16).map (fun i =>
    let b (j : Nat) : BitVec 8 := s.getD (4 * (i / 4) + (i + j) % 4) 0
    xtime (b 0) ^^^ (xtime (b 1) ^^^ b 1) ^^^ b 2 ^^^ b 3)

/-- Encrypt one block of 16 bytes under a key schedule. -/
def aesEncrypt (ws : List Bytes) (p : Bytes) : Bytes :=
  let s := (List.range 13).foldl (fun s r => xorBytes (mixColumns (shiftRows (s.map subByte))) (roundKey ws (r + 1)))
    (xorBytes p (roundKey ws 0))
  xorBytes (shiftRows (s.map subByte)) (roundKey ws 14)

/-! ## XTS and key wrap -/

/-- Encrypt the 16-byte blocks of a data unit, each under the next tweak. -/
def xtsBlocks (ws : List Bytes) : Nat → Nat → Bytes → Bytes
  | 0, _, _ => []
  | n + 1, t, p =>
    let tb := leBytes t 16
    let next := (2 * t) % 2 ^ 128 ^^^ (if t / 2 ^ 127 % 2 = 1 then 0x87 else 0)
    xorBytes (aesEncrypt ws (xorBytes (p.take 16) tb)) tb ++ xtsBlocks ws n next (p.drop 16)

/-- AES-256-XTS with data units of 4,096 bytes, the unit's index as tweak (R60). The first half of the key pair encrypts the data, the
second the tweak. -/
def xtsEncrypt (keys body : Bytes) : Bytes :=
  let data := aesWords (keys.take 32)
  let tweak := aesWords (keys.drop 32)
  (List.range (body.length / 4096)).foldr (fun i acc =>
    xtsBlocks data 256 (leNat (aesEncrypt tweak (leBytes i 16))) ((body.drop (4096 * i)).take 4096) ++ acc) []

/-- The AES key wrap of RFC 3394. -/
def keyWrap (kek key : Bytes) : Bytes :=
  let ws := aesWords kek
  let n := key.length / 8
  let blocks := (List.range n).map (fun i => (key.drop (8 * i)).take 8)
  let r := (List.range (6 * n)).foldl (fun (x : Bytes × List Bytes) k =>
    let i := k % n
    let b := aesEncrypt ws (x.1 ++ x.2.getD i [])
    (xorBytes (b.take 8) (beBytes (k + 1) 8), x.2.set i (b.drop 8))) (List.replicate 8 0xA6, blocks)
  r.1 ++ r.2.foldr (· ++ ·) []

end Sys2Proof.Machine
end

