-- ==== Sys2Proof/Machine/Layout.lean ====
section
/-!
DEFINITION. Layouts that the spec gives for state which the model holds as structures: partition configuration blocks (spec/02 R63),
group entries (spec/03 R71), Deck entries (spec/04 R101), region-table windows (spec/06 R158), announcement records (spec/14 R317),
and the chunks of a checkpoint's state section (spec/02 R59).
-/
namespace Sys2Proof.Machine

/-- Fields put together: value, lowest bit and width of each. -/
def pack (fs : List (Nat × Nat × Nat)) : Nat := fs.foldl (fun n f => n + f.1 % 2 ^ f.2.2 * 2 ^ f.2.1) 0

/-- A partition configuration block (R63). -/
def PartCfg.image (c : PartCfg) : Bytes :=
  leBytes (pack [(c.clusters.toNat, 0, 32), (c.en.toNat, 32, 1), (c.dbg.toNat, 33, 1), (c.specsz.toNat, 40, 6), (c.specreg.toNat, 48, 3),
    (c.barb.toNat, 56, 6), (c.cdt.toNat, 64, 64), (c.htab.toNat, 128, 64), (c.rlrbase.toNat, 192, 64), (c.rlrblk.toNat, 256, 32)]) 256

/-- A group entry (R71). -/
def Group.image (g : Group) : Bytes :=
  leBytes (pack [(g.kind.toNat, 0, 2), (g.members.length, 16, 16), (g.ssize, 32, 32), (g.mlist.toNat, 64, 64)]) 32

/-- A Deck entry (R101). -/
def Seg.image (e : Seg) : Bytes :=
  leBytes (pack [(e.state.toNat, 0, 3), (e.pol.toNat, 3, 1), (e.pred.toNat, 4, 1), (e.range.toNat, 5, 1), (e.depth, 8, 4),
    (e.own.toNat, 16, 16), (e.cum.toNat, 32, 16), (e.token.toNat, 64, 32),
    (match e.parent with | some p => p.2.1 | none => 0xFFFF, 96, 16), (e.pidx, 112, 10), (e.entry.toNat, 128, 64),
    (e.seq.toNat, 192, 32), (e.lid.toNat, 224, 32)]) 32 ++
    (List.range 8).foldr (fun i acc => leBytes (e.args.getD i 0).toNat 8 ++ acc) [] ++ List.replicate 32 0

/-- A window of a region table (R158). -/
def Window.image (x : Window) : Bytes :=
  leBytes (pack [(x.saddr, 0, 32), (x.slen, 32, 12), (x.expert, 48, 12), (x.noexp.toNat, 60, 1), (x.state.toNat, 61, 2),
    (x.err.toNat, 63, 1), (x.handle.toNat, 64, 32), (x.stride, 96, 32), (x.offset.toNat, 128, 64), (x.rowl, 192, 13), (x.rows, 205, 19),
    (x.tier.toNat, 224, 2)]) 32

/-- An announcement record, with the ticket of the next record on its object's list (R317). -/
def AnnRec.image (r : AnnRec) (next : Nat) : Bytes :=
  leBytes (pack [(r.state.toNat, 0, 3), (r.prog, 3, 5), (r.op, 8, 8), (r.nsteps, 16, 5), (r.type, 21, 3), (r.nocell.toNat, 24, 1),
    (r.host.toNat, 25, 1), (r.flg.toNat, 27, 5), (r.seq.toNat, 32, 32), (r.obj, 64, 64), (r.opA.toNat, 128, 64), (r.opB.toNat, 192, 64),
    (r.res.toNat, 256, 64), (r.cell.toNat, 320, 64), (r.lid.toNat, 384, 32), (r.hid, 416, 14), (r.lane, 430, 5), (r.part, 435, 4),
    (r.epoch.toNat, 439, 8), (next, 448, 32), (r.fdet.toNat, 480, 32)]) 64

/-- The next record on an object's list; 0xFFFF_FFFF at the tail. -/
def nextRec (ls : List ObjList) (ticket : Nat) : Nat :=
  (ls.findSome? (fun l => match l.recs.dropWhile (fun t => t != ticket) with
    | _ :: rest => some (rest.headD 0xFFFFFFFF)
    | [] => none)).getD 0xFFFFFFFF

/-- A chunk of a state section: KIND, LEN and the content, padded to 16 bytes (R59). -/
def chunk (kind : Nat) (content : Bytes) : Bytes :=
  leBytes (kind + content.length * 2 ^ 32) 16 ++ content ++ List.replicate ((16 - content.length % 16) % 16) 0

end Sys2Proof.Machine
end

