-- ==== Sys2Proof/Machine/Reset.lean ====
section
/-!
DEFINITION. Partition resets (spec/01 R29, spec/21 R405 to R408), the Owl (spec/03 R90, R91), function-level resets (spec/02 R64),
and the end of a running checkpoint (R57, R58).
-/
namespace Sys2Proof.Machine

/-! ## The end of a checkpoint or restore -/

/-- Host writes that were held are applied in arrival order (R57). -/
def State.applyHeld (s : State) : State :=
  let ws := s.hostLink.heldWrites
  ws.foldl (fun s w => s.hostWrite (w.addr.toNat / 64 * 64) w)
    { s with hostLink := { s.hostLink with heldWrites := [] } }

/-- The running checkpoint or restore ends: its partitions resume, held writes are applied, and its signal is added to. -/
def State.endCkpt (s : State) (fail : Bool) : State :=
  match s.ckpt with
  | none => s
  | some c =>
    let view := ((s.queue? c.queue).map Queue.stores).getD []
    let s := { s with ckpt := none }.applyHeld
    (s.signalAdd { queue := c.queue, asid := c.asid, va := c.signal, fail := fail, view := view }).landed c.queue .ckpt []

/-! ## What a partition reset clears (R407) -/

/-- The clusters of a partition. -/
def State.clustersOf (s : State) (p : Nat) : List Nat := (List.range 32).filter (fun c => (s.part p).cfg.clusters.getLsbD c)

/-- A location lies in the scratch of some clusters. -/
def scratchIn (cs : List Nat) (loc : Nat) : Bool := spaceOf loc == .scratch && cs.contains (scratchCore loc / 32)

/-- The scratch of reset clusters reads 0, and its words have no write but the initial one. -/
def State.clearScratch (s : State) (cs : List Nat) : State :=
  { s with
    mem := s.mem.filter (fun c => !scratchIn cs c.1), orders := s.orders.filter (fun o => !scratchIn cs o.word),
    slotViews := s.slotViews.filter (fun v => !scratchIn cs v.block), bbarViews := s.bbarViews.filter (fun v => !scratchIn cs v.1) }

/-- A core of a reset cluster: its places, tiles, accumulators, `cbd`s and allocations are cleared; its counters and a lane that
the spare has replaced stay. -/
def Core.cleared (c : Core) : Core :=
  { c with
    pool := [], hands := List.replicate 16 none, tiles := List.replicate 16 Tile.init, acc := [], chk := [], accBad := [],
    cbd := List.replicate 8 0, work := [], allocs := [],
    slots := c.slots.map (fun x => { Slot.init with retired := x.retired, rebuild := x.rebuild }) }

/-- Clear the clusters of a partition, and the predictors of their dies (R112). -/
def State.clearClusters (s : State) (cs : List Nat) : State :=
  let s := s.clearScratch cs
  { s with
    cores := s.cores.map (fun (c : Nat × Core) => if cs.contains (coreCluster c.1) then (c.1, c.2.cleared) else c),
    clusters := s.clusters.map (fun (c : Nat × Cluster) => if cs.contains c.1 then (c.1, Cluster.init) else c),
    dies := (List.range s.dies.length).map (fun d =>
      let x := s.die d
      if cs.any (fun c => c / 8 == d) then { x with predictor := [] } else x) }

/-- A copy whose scratch end lies in a reset cluster stops before its next line: the lines that it has read are written. Those in its
own scratch are cleared with it. -/
def State.stopCopy (s : State) (c : Copy) : State :=
  let s := { s with copies := s.copies.filter (fun x => x.id ≠ c.id), lineFails := s.lineFails.filter (fun x => x.1 ≠ c.id) }
  (State.drainLines c.id c.party c.prog.wait.length (s, c.prog, s.forkView c.fork)).1

/-- The hands of a launch in flight are killed, whatever their state (R85, R407), and reported: those that were DONE as completed, the
others as FAILED (R92, R406). -/
def State.killLaunch (s : State) (code : BitVec 8) (l : Launch) : State :=
  (s.hands.filter (fun h => h.lid = l.lid && h.state != .killed)).foldl (fun s h =>
    let s := s.killMember h.key
    if h.state == .done then s.report h false 0 0 else s.report h true code h.reportPc) s

/-- The launches of a partition leave the Decks and the resolutions under way, and their tokens are freed, without any resolution;
generations stay (R93). -/
def State.dropSpeculation (s : State) (lids : List Word) : State :=
  { s with
    dies := s.dies.map (fun (d : Die) => { d with deck := d.deck.filter (fun e => !lids.contains e.lid),
                                                  tokens := updWhere (fun t => lids.contains t.lid) (fun t => { t with state := 0 }) d.tokens }),
    resolutions := s.resolutions.filter (fun r => !(s.hands.any (fun h => h.key = r.hand && lids.contains h.lid))) }

/-- Take a queue out of the wait-and-wake table. -/
def State.unwaitQueue (s : State) (k : Nat × Nat) : State :=
  let cut := s.wake.map (fun e => { e with queues := e.queues.filter (fun x => x ≠ k) })
  { s with wake := cut.filter (fun e => !(e.hands.isEmpty && e.queues.isEmpty && e.line.isNone)) }

/-- A launch of a reset partition ends. While an item's page is not resident, its items and its signal add follow with
LAUNCH_COMPLETE (log 62); its group-table entries, bindings and publish entries are freed by the reset (R407). -/
def State.endReset (s : State) (l : Launch) : State :=
  match s.endLaunch l with
  | .ok s => s
  | .error (.page va home e) =>
    let s := (s.endBindings l).updLaunch l.lid (fun l => { l with freed := true })
    (s.frontPage l.die l.asid va home e).landed l.queue (.launch l.lid) []
  | .error _ => s

/-- The ARMED nodes of a queue's running graphs fail without an item record (R406). -/
def State.failGraphs (s : State) (k : Nat × Nat) : State :=
  let s := { s with graphs := updWhere (fun g => decide (g.queue = k)) (fun g => { g with parsing := false, reset := true }) s.graphs }
  (s.graphs.filter (fun g => g.queue = k)).foldl (fun s g => g.nodes.foldl (fun s i =>
    if (s.node g.die i).nstate == nArmed then s.updNode g.die i (fun n => { n with nstate := nFailed }) else s) s) s

/-- The graphs of a queue whose nodes have all ended complete. -/
def State.endGraphs (s : State) (k : Nat × Nat) : State := (s.graphs.filter (fun g => g.queue = k)).foldl State.graphEnd s

/-- A queue of a reset partition becomes FAULTED: RPTR, the position in its buffers and FOFF stand at the first packet that had
not completed, and its Owl is IDLE (R29). -/
def State.faultReset (s : State) (k : Nat × Nat) (fcode : Nat) : State :=
  match s.queue? k with
  | none => s
  | some q =>
    let s := s.release k qFaulted
    let here : Pos := { rptr := s.qRptr q, ib := if q.slot.isSome then q.ib
      else (List.range (min 4 (s.qField q 240 3))).map (fun i => (BitVec.ofNat 32 (s.qField q (256 + 32 * i) 32) : Word)) }
    let pos := (q.inFlight.head?.map Prod.snd).getD here
    let s := (s.qPut q 16 pos.rptr.toNat 4).saveIb { q with ib := pos.ib }
    let s := ((s.qPut q 25 fcode 1).qPut q 26 pos.rptr.toNat 4).unwaitQueue k
    (s.updQueue k (fun q => { q with await := .none, owl := .idle, owlCount := 0, inFlight := [], stalled := false, paused := none })).msix q.fn

/-- A queue is destroyed (R64): its slot is released and it is forgotten. -/
def State.destroyQueue (s : State) (q : Queue) : State :=
  let k := (q.fn, q.idx)
  let s := (s.unwaitQueue k).withdrawTable q.die (fun b => b.queue = k)
  let s := match q.slot with
    | some n => s.updDie q.die (fun d => { d with fslots := putAt 64 none (fun _ => none) n d.fslots })
    | none => s
  { s with queues := s.queues.filter (fun x => !(x.fn = q.fn && x.idx == q.idx)) }

/-! ## The partition reset (R29) -/

/-- A partition reset, with the code of its items and its Magpie record, and the FCODE of its queues. The queues of a function that
an FLR resets are destroyed instead. -/
def State.resetPartition (s : State) (p d : Nat) (code : BitVec 8) (fcode : Nat) (gone : Queue → Bool) : State :=
  let s := s.magpie d unitFrontEnd code [p]
  let cs := s.clustersOf p
  let s := (s.copies.filter (fun c => cs.contains (coreCluster c.core))).foldl State.stopCopy s
  let qs := s.queues.filter (fun q => q.part = p)
  let s := qs.foldl (fun s q => s.failGraphs (q.fn, q.idx)) s
  let ls := s.launches.filter (fun l => l.part = p)
  let s := ls.foldl (fun s l => s.killLaunch code l) s
  let s := s.dropSpeculation (ls.map Launch.lid)
  let s := s.clearClusters cs
  let s := s.updPart p (fun x => { x with head := none, back := 0, reserve := false, xcnt := [] })
  let s := ls.foldl (fun s l => match s.launch? l.lid with | some l => s.endReset l | none => s) s
  let s := qs.foldl (fun s q => s.endGraphs (q.fn, q.idx)) s
  let s := if s.covered p then s.endCkpt true else s
  qs.foldl (fun s q => if gone q then s.destroyQueue q else s.faultReset (q.fn, q.idx) fcode) s

/-- The die to whose Magpie a partition's reset is logged: that of its lowest cluster. -/
def State.resetDie (s : State) (p : Nat) : Nat := ((s.clustersOf p).headD 0) / 8


/-! ## Function-level resets (R64) -/

/-- The reset of a function: of a virtual one, its queues are destroyed and the partition bound to it is reset; of the physical one
(0), every queue of every function is destroyed and every partition is reset. -/
def State.resetFunction (s : State) (f : Nat) : State :=
  if f = 0 then
    let s := (List.range 16).foldl (fun s p => s.resetPartition p (s.resetDie p) 0x8D 0x8D (fun _ => true)) s
    s.queues.foldl State.destroyQueue s
  else
    let b := ((s.funcs.getD f Func.init).bind).toNat
    let p := bits b 0 4
    let s := if bits b 7 1 = 1 then s.resetPartition p (s.resetDie p) 0x8D 0x8D (fun q => q.fn = f) else s
    (s.queues.filter (fun q => q.fn = f)).foldl State.destroyQueue s

/-! ## Warm reset (R15, R29) -/

/-- Memory of others: of the host and of peers. -/
def outsideLoc (loc : Nat) : Bool := spaceOf loc == .host || spaceOf loc == .peer

/-- Staged updates take effect: image, fuse value and content (R228). -/
def Mgmt.install (m : Mgmt) : Mgmt :=
  let m := m.staged.foldl (fun (m : Mgmt) u =>
    { m with versions := putAt 4 0 (fun _ => u.2.1) u.1 m.versions, fuses := putAt 4 0 (fun v => max v u.2.1) u.1 m.fuses,
             images := putAt 4 0 (fun _ => u.2.2) u.1 m.images }) m
  { m with staged := [] }

/-- The module after a reset of everything but the VAUX domain (R15, R29): each die's Magpie and PREDICTED_EOL, the management
controller with its sensors, the vault, and what lies outside the module. Staged updates take effect (R228). A running checkpoint ends, its signal with bit 63 (R58).
A peer port that was down stays down (R21); that the host link, which the reset clears, has trained again at its rate and width is
the model's choice (log 79). -/
def State.warm (s : State) : State :=
  let s := s.endCkpt true
  { State.reset with
    agenda := s.agenda, tick := s.tick, args := s.args, devNum := s.devNum,
    mem := s.mem.filter (fun c => outsideLoc c.1), orders := s.orders.filter (fun o => outsideLoc o.word),
    dies := s.dies.map (fun d => { Die.init with magpie := d.magpie, magSeq := d.magSeq, eol := d.eol, peerDrops := d.peerDrops }),
    ports := s.ports.map (fun p => if p.up then Port.init else { Port.init with up := false }),
    hostLink := { State.reset.hostLink with rate := s.hostLink.rate, width := s.hostLink.width }, hostView := s.hostView.filter (fun x => outsideLoc x.1),
    mgmt := { s.mgmt.install with measured := putAt 5 0 (fun _ => s.tick) 4 s.mgmt.measured }, sensors := s.sensors, vaultUp := s.vaultUp, vault := s.vault, snapshots := s.snapshots }

def State.updMgmt (s : State) (f : Mgmt → Mgmt) : State := { s with mgmt := f s.mgmt }

/-! ## Pending resets (R30) -/

/-- How wide a reset is (R29). -/
def ResetReq.width : ResetReq → Nat
  | .warm => 3
  | .function _ => 2
  | .partition _ _ _ _ => 1

/-- Perform one reset. -/
def State.performReset (s : State) (r : ResetReq) : State :=
  match r with
  | .warm => s.warm
  | .function f => s.resetFunction f
  | .partition p d code fcode => s.resetPartition p d code fcode (fun _ => false)

/-- Step 1 of R91: an Owl and every queue of its partition become DRAINING. -/
def State.drainPartition (s : State) (q : Queue) : State :=
  let s := (s.queues.filter (fun x => x.part = q.part)).foldl (fun s x =>
    (s.qPutState x qDraining).updQueue (x.fn, x.idx) (fun y => { y with paused := some (s.qState x) })) s
  s.updQueue (q.fn, q.idx) (fun x => { x with owl := .draining })

/-- The STATE in which a DRAINING queue goes on: what it was, unless a wake or a doorbell has changed that. -/
def State.resumeState (s : State) (q : Queue) (st : Nat) : Nat :=
  if st = qWaiting ∧ q.await = .none ∨ st = qIdle ∧ s.qWptr q ≠ s.qRptr q then qReady else st

/-- Queues whose partition's reset has been discarded (R30) go on, and their Owls count again (log 114). -/
def State.undrain (s : State) : State :=
  (s.queues.filter (fun q => q.paused.isSome)).foldl (fun s q =>
    let s := if s.qState q = qDraining then s.qPutState q (s.resumeState q (q.paused.getD 0)) else s
    s.updQueue (q.fn, q.idx) (fun x => { x with paused := none, owl := if x.owl == .draining then .counting else x.owl })) s

/-- Of the resets that are pending the widest are performed, and the narrower ones are discarded. -/
def State.performResets (s : State) (rs : List ResetReq) : State :=
  let w := rs.foldl (fun n r => max n r.width) 0
  ((rs.filter (fun r => r.width = w)).foldl State.performReset { s with pendResets := [] }).undrain

/-- A reset is caused: as the input says, it stays pending, or it is performed with those that are pending. -/
def State.requestReset (s : State) (r : ResetReq) : State :=
  if s.args.pend then { s with pendResets := s.pendResets ++ [r] } else s.performResets (s.pendResets ++ [r])

/-- PARTITION_RESET, by system software. -/
def execPartitionReset (s : State) : Host.Outcome State Fault Refusal :=
  let p := s.args.n
  if 16 ≤ p then .next s else .next (s.requestReset (.partition p (s.resetDie p) 0x8D 0x8D))

/-- OWL_EXPIRY: the count of a queue's Owl has reached the budget of its oldest running launch (R90, R91): its partition drains and is
reset. A reset that stays pending, with the Owl DRAINING, is performed by a later one of these steps. -/
def execOwlExpiry (s : State) : Host.Outcome State Fault Refusal :=
  let k := (s.args.n, s.args.m)
  match s.queue? k, s.oldestLaunch k with
  | some q, some l =>
    if q.owl == .draining then .next (if s.args.pend then s else s.performResets s.pendResets)
    else if q.owl == .counting && q.paused.isNone && 2 ^ l.owlb ≤ q.owlCount then
      .next ((s.drainPartition q).requestReset (.partition q.part q.die 0x14 0x8C))
    else .next s
  | _, _ => .next s

/-- FLR_VF. -/
def execFlrVf (s : State) : Host.Outcome State Fault Refusal :=
  let f := s.args.n
  if f = 0 ∨ 64 ≤ f then .next s else .next (s.requestReset (.function f))

/-- FLR_PF. -/
def execFlrPf (s : State) : Host.Outcome State Fault Refusal := .next (s.requestReset (.function 0))

end Sys2Proof.Machine
end

