-- ==== Sys2Proof/Machine/Manage.lean ====
section
/-!
DEFINITION. Power, bring-up and the wide resets (spec/01 R14 to R17, R28 to R30), the host link and host loss (spec/02 R55, R56,
R57), health (spec/09 R225), and the security alarm, firmware updates and attestation (R226 to R229).
-/
namespace Sys2Proof.Machine

def State.updLink (s : State) (f : HostLink → HostLink) : State := { s with hostLink := f s.hostLink }

/-! ## Duty (R14, R16) -/

/-- DUTY_WINDOW: the die's duty falls one sixteenth above its budget, and rises one below it. It is never below one sixteenth
(log 20). -/
def execDutyWindow (s : State) : Host.Outcome State Fault Refusal :=
  .next (s.updDie s.args.n (fun d => { d with duty := if s.args.ok then max 1 (d.duty - 1) else min 16 (d.duty + 1) }))

/-- The junction sensors of a die read at least a temperature: one sensor for each of its eight clusters (R16). -/
def State.junctionAt (s : State) (d limit : Nat) : Bool :=
  ((s.sensors.drop (8 * d)).take 8).any (fun x => limit ≤ x.value)

/-- THERMAL_THROTTLE: at 95 °C the duty of the die falls as in R14. -/
def execThermalThrottle (s : State) : Host.Outcome State Fault Refusal :=
  if s.junctionAt s.args.n 95 then .next (s.updDie s.args.n (fun d => { d with duty := max 1 (d.duty - 1) })) else .next s

/-! ## Warm reset (R29, R30) -/

/-- WARM_RESET. A PERST# during stages 1 to 5 of bring-up is held (R30). -/
def execWarmReset (s : State) : Host.Outcome State Fault Refusal :=
  if s.mgmt.bringup < 6 then .next (s.updMgmt (fun m => { m with perstHeld := true }))
  else if s.mgmt.heldReset then .next s
  else .next (s.requestReset .warm)

/-! ## The security alarm (R226, R227) -/

/-- The alarm rises to a level: a Magpie record and a PLDM event; at level 3 the key-encryption keys are erased, and the module is
held in warm reset until a cold start (R227). -/
def State.raiseAlarm (s : State) (level : Nat) : State :=
  if level ≤ s.mgmt.alarm.toNat then s
  else
    let s := (s.updMgmt (fun m => { m with alarm := BitVec.ofNat 2 level, pldmEvents := m.pldmEvents + 1 })).magpie 0 unitManagement 0 [level]
    if level < 3 then s
    else s.warm.updMgmt (fun m => { m with kekPresent := false, flashKek := false, heldReset := true })

/-- GLITCH_DETECT. -/
def execGlitchDetect (s : State) : Host.Outcome State Fault Refusal :=
  let s := s.updMgmt (fun m => { m with glitches := m.glitches + 1 })
  .next (s.raiseAlarm (if s.mgmt.glitches = 1 then 1 else 2))

/-- TAMPER_BREAK. -/
def execTamperBreak (s : State) : Host.Outcome State Fault Refusal := .next (s.raiseAlarm 3)

/-- DEBUG_UNLOCK: from level 2 on every attempt is refused, and so fails. -/
def execDebugUnlock (s : State) : Host.Outcome State Fault Refusal :=
  if s.args.ok && s.mgmt.alarm.toNat < 2 then .next s
  else
    let s := s.updMgmt (fun m => { m with unlockFails := m.unlockFails + 1 })
    let n := s.mgmt.unlockFails
    .next (if 8 ≤ n then s.raiseAlarm 3 else if 3 ≤ n then s.raiseAlarm 2 else s)

/-! ## Bring-up (R28) -/

/-- Ports that failed training stay down, and are logged: peer ports 0 to 17, vault ports 18 and 19 (R28 stage 5). -/
def State.failPorts (s : State) (ps : List Nat) : State :=
  ps.foldl (fun s p =>
    if p < 18 then (s.updPort p (fun x => { x with up := false })).magpie (portDie p) unitLink 0 [p]
    else if p < 20 then { s with vaultUp := s.vaultUp &&& ~~~((1 : BitVec 2) <<< (p - 18)) }.magpie 0 unitLink 0 [p]
    else s) s

/-- Stages 5 and 6 complete bring-up: vault and peer ports have trained, but those that failed, and a PERST# held during the stages
takes effect; the host link has trained, at its highest rate and width (log 79). A module whose alarm has risen to level 3 on the way
stays held (R227). -/
def State.broughtUp (s : State) : State :=
  let s := { s with ports := List.replicate 18 Port.init, vaultUp := 3, hostLink := State.reset.hostLink }
  let s := (s.failPorts s.args.picks).updMgmt (fun m => { m with bringup := 6, heldReset := m.alarm == 3 })
  if s.mgmt.perstHeld then s.warm.updMgmt (fun m => { m with perstHeld := false }) else s

/-- Module power is applied: everything is cleared but the fuses, the images in flash, the key kept there, the vault, and what lies
outside the module. Staged updates take effect (log 15). No port and no link has trained. A key that is not stored is generated under
the next KEKGEN (R60). -/
def State.powerOn (s : State) : State :=
  let m := s.mgmt.install
  { State.reset with
    agenda := s.agenda, tick := s.tick, args := s.args, devNum := s.devNum,
    mem := s.mem.filter (fun c => outsideLoc c.1), orders := s.orders.filter (fun o => outsideLoc o.word),
    ports := List.replicate 18 { Port.init with up := false }, vaultUp := 0,
    hostLink := { State.reset.hostLink with up := false },
    hostView := s.hostView.filter (fun x => outsideLoc x.1), vault := s.vault, snapshots := s.snapshots,
    mgmt := { Mgmt.init with
      versions := m.versions, fuses := m.fuses, images := m.images, measured := m.images ++ [s.tick],
      kekGen := if m.flashKek then m.kekGen else m.kekGen + 1, heldReset := true } }

/-- COLD_START: the stages run in order. A failed image stops bring-up at stage 2 with the alarm at level 2; with `ok2` false a later
stage, 3 to 5 as `n` says, has not completed yet, and the next step goes on with it. -/
def execColdStart (s : State) : Host.Outcome State Fault Refusal :=
  if 3 ≤ s.mgmt.bringup && s.mgmt.bringup < 6 then .next (if s.args.ok2 then s.broughtUp else s)
  else
    let s := s.powerOn
    if !s.args.ok then .next ((s.updMgmt (fun m => { m with bringup := 2 })).raiseAlarm 2)
    else if !s.args.ok2 then .next (s.updMgmt (fun m => { m with bringup := max 3 (min 5 s.args.n) }))
    else .next s.broughtUp

/-- LOSS_OF_MODULE_POWER: with VAUX the Magpie, the alarm level and the key in VAUX SRAM are lost; what lies in flash and in fuses
stays. -/
def execLossOfModulePower (s : State) : Host.Outcome State Fault Refusal :=
  .next (s.powerOn.updMgmt (fun m => { m with
    kekGen := s.mgmt.kekGen, kekPresent := false, flashKek := s.mgmt.flashKek, bringup := 0, measured := s.mgmt.measured,
    versions := s.mgmt.versions, fuses := s.mgmt.fuses, images := s.mgmt.images, staged := s.mgmt.staged }))

/-- THERMAL_TRIP: at 110 °C the module is held in reset, and the Magpie logs it. -/
def execThermalTrip (s : State) : Host.Outcome State Fault Refusal :=
  if !s.junctionAt (s.args.n % 4) 110 then .next s
  else .next ((s.warm.magpie (s.args.n % 4) unitManagement 0 [s.args.n]).updMgmt (fun m => { m with heldReset := true }))

/-! ## Health (R225) -/

/-- EOL_UPDATE: the sensor of a die; a PLDM event and a Magpie record when it falls below 6. -/
def execEolUpdate (s : State) : Host.Outcome State Fault Refusal :=
  let d := s.args.n
  let m := s.args.m
  if 4 ≤ d ∨ 240 < m then .next s
  else
    let fell := m < 6 && 6 ≤ (s.die d).eol
    let s := s.updDie d (fun x => { x with eol := m })
    .next (if fell then (s.updMgmt (fun x => { x with pldmEvents := x.pldmEvents + 1 })).magpie d unitManagement 0 [m] else s)

/-! ## The host link and host loss (R17, R55, R56) -/

/-- The device declares the host lost. -/
def State.loseHost (s : State) : State := s.updLink (fun l => if l.lost then l else { l with lost := true, choice := none })

/-- The view of the thread or queue whose write has reached its home takes the write's index (R171). -/
def State.ownerSees (s : State) (o : Owner) (w : Nat) : State :=
  match o with
  | .thread k t => s.updThread k t (fun m => { m with view := View.raise w (s.lastIdx w) m.view })
  | .queue f i => s.updQueue (f, i) (fun q => { q with stores := View.raise w (s.lastIdx w) q.stores })
  | .none => s

/-- A choice made is carried out once the link is up: REPLAY sends the parked writes in issue order, DROP discards them, each with
a Magpie record (R224). Partitions that were quiesced go on (log 61). -/
def State.carryOut (s : State) : State :=
  match s.hostLink.lost && s.hostLink.up, s.hostLink.choice with
  | true, some replay =>
    let ws := s.hostLink.parked
    let s := s.updLink (fun l => { l with lost := false, timeouts := 0, parked := [] })
    let s := { s with parts := s.parts.map (fun p => { p with quiesced := false }) }
    if replay then ws.foldl (fun s (w : Parked) => (s.appendWrite w.word w.mask w.data w.msg w.scope w.writer).ownerSees w.owner w.word) s
    else ws.foldl (fun s _ => s.dropHostWrite) s
  | _, _ => s

/-- Rates in tenths of GT/s and widths that the link trains to. -/
def linkRates : List Nat := [640, 320, 160, 80, 50, 25]
def linkWidths : List Nat := [1, 2, 4, 8, 16]

/-- HOST_LINK_TRAIN. -/
def execHostLinkTrain (s : State) : Host.Outcome State Fault Refusal :=
  if !linkRates.contains s.args.n || !linkWidths.contains s.args.m then .next s
  else .next (s.updLink (fun l => { l with rate := s.args.n, width := s.args.m, up := true })).carryOut

/-- HOST_LOSS: cause 0, the link leaves the active state; 1, sixteen time-outs in a row; 2, the management controller's
declaration. -/
def execHostLoss (s : State) : Host.Outcome State Fault Refusal :=
  match s.args.n with
  | 0 => .next (s.updLink (fun l => { l with up := false })).loseHost
  | 1 => .next (if 16 ≤ s.hostLink.timeouts then s.loseHost else s)
  | 2 => .next s.loseHost
  | _ => .next s

/-- HOST_COMPLETION_TIME_OUT. -/
def execHostCompletionTimeOut (s : State) : Host.Outcome State Fault Refusal := .next s.hostTimeout

/-- Bytes that the parked writes hold. -/
def HostLink.parkedBytes (l : HostLink) : Nat :=
  l.parked.foldl (fun n w => n + ((List.range 8).filter (fun i => w.mask.getLsbD i)).length) 0

/-- The host-loss mailbox holds a command's status and results. -/
def State.lossReply (s : State) (cmd : BitVec 8) (status : BitVec 16) : State :=
  { s with lossBox := { s.lossBox with
      cmd := cmd, busy := false, status := status,
      res := [BitVec.ofNat 64 s.hostLink.parkedBytes, BitVec.ofNat 64 s.hostLink.dropped, 0, 0] } }

/-- HOST_LOSS_STATUS: 0 OK, 2 NOTLOST. -/
def execHostLossStatus (s : State) : Host.Outcome State Fault Refusal := .next (s.lossReply 1 (if s.hostLink.lost then 0 else 2))

/-- A choice of REPLAY or DROP, by the authenticated controller or through the mailbox: the first since the host was lost is carried
out, and any later one is refused with ALREADY. -/
def hostChoice (cmd : BitVec 8) (replay : Bool) (s : State) : Host.Outcome State Fault Refusal :=
  let reply (s : State) (st : BitVec 16) : State := if s.args.ok then s else s.lossReply cmd st
  if s.args.ok && !s.mgmt.spdm then .next s
  else if s.hostLink.choice.isSome then .next (reply s 1)
  else if !s.hostLink.lost then .next (reply s 2)
  else
    let ws := s.hostLink.parked
    let s := s.updLink (fun l => { l with choice := some replay, parked := if replay then ws else [] })
    let s := if replay then s else ws.foldl (fun s _ => s.dropHostWrite) s
    .next (reply s 0).carryOut

def execHostLossReplay : State → Host.Outcome State Fault Refusal := hostChoice 2 true

def execHostLossDrop : State → Host.Outcome State Fault Refusal := hostChoice 3 false

/-- SPDM_SESSION: one controller, mutually authenticated; from alarm level 2 on a session is good for GET_MEASUREMENTS only. -/
def execSpdmSession (s : State) : Host.Outcome State Fault Refusal :=
  .next (if s.args.ok && s.mgmt.alarm.toNat < 2 then s.updMgmt (fun m => { m with spdm := true }) else s)

/-- QUIESCE_PARTITIONS: by the controller, while the host is lost. -/
def execQuiescePartitions (s : State) : Host.Outcome State Fault Refusal :=
  if !s.mgmt.spdm || !s.hostLink.lost then .next s
  else .next { s with parts := (List.range s.parts.length).map (fun i =>
      let p := s.part i
      { p with quiesced := p.quiesced || s.args.half.getLsbD i }) }

/-- Host writes of 64 bytes that the 256 MiB park buffer holds (R57). -/
def heldCapacity : Nat := 4194304

/-- HOST_MEMORY_WRITE: a host write of masked bytes of a 64-byte block of device memory, or of the host's own memory. While a checkpoint copies or restores, it is
one to device memory is held, and with the buffer full it waits in the link. -/
def execHostMemoryWrite (s : State) : Host.Outcome State Fault Refusal :=
  let base := s.args.value.toNat / 64 * 64
  let x : HostWrite := { addr := s.args.value, mask := s.args.mask, data := s.args.block, rel := s.args.ok2 }
  if s.args.ok then .next (s.hostWrite (hostLoc base) x)
  else if !s.hostLink.up || !deviceRange base 64 then .next s
  else if s.ckpt.isSome then
    if heldCapacity ≤ s.hostLink.heldWrites.length then .next s
    else .next (s.updLink (fun l => { l with heldWrites := l.heldWrites ++ [x] }))
  else .next (s.hostWrite base x)

/-! ## Firmware and attestation (R228, R229) -/

/-- IMAGE_UPDATE: an image with a good signature, whose version is not below its fuse value, is staged. -/
def execImageUpdate (s : State) : Host.Outcome State Fault Refusal :=
  let i := s.args.n
  if i = 0 ∨ 4 < i ∨ !s.args.ok ∨ s.args.m < s.mgmt.fuses.getD (i - 1) 0 then .next s
  else .next (s.updMgmt (fun m => { m with staged := m.staged.filter (fun u => u.1 ≠ i - 1) ++ [(i - 1, s.args.m, s.tick)] }))

/-- A change of configuration is measured as index 5. -/
def State.remeasure (s : State) : State := s.updMgmt (fun m => { m with measured := putAt 5 0 (fun _ => s.tick) 4 m.measured })

/-- GET_MEASUREMENTS: the digests of indexes 1 to 5 and the signature over them. -/
def execGetMeasurements (s : State) : Host.Outcome State Fault Refusal :=
  let ds := (List.range 5).map (fun i => Config.digest (i + 1) (s.mgmt.measured.getD i 0))
  .next (s.updMgmt (fun m => { m with reply := ds ++ [Config.signature ds] }))

end Sys2Proof.Machine
end

