-- ==== Sys2Proof/Machine/Ckpt.lean ====
section
/-!
DEFINITION. Checkpoints to the vault (spec/02 R57 to R61): the packets CKPT and CKPT with RESTORE, and the steps that end a copy
and a restore.
-/
namespace Sys2Proof.Machine

/-! ## Memory ranges (R59) -/

/-- Entries of a table at a walk level (R151). -/
def levelEntries (level : Nat) : Nat :=
  match level with
  | 0 => 2048
  | 1 => 512
  | 2 => 512
  | 3 => 128
  | _ => 32

/-- The device-tier pages that the leaves below a table map: base and bytes. -/
def State.tablePages (s : State) : Nat → Nat → List (Nat × Nat)
  | 0, _ => []
  | fuel + 1, base =>
    let level := 4 - fuel
    (List.range (levelEntries level)).foldr (fun i acc =>
      let e := readWord s.mem (base + 8 * i)
      let n := e.toNat
      if n % 2 = 0 then acc
      else if bits n 1 1 = 1 then
        if level < 2 || bits n 8 8 != 0 || bits n 5 2 != 0 then acc
        else match s.leafLoc level e 0 with
          | some loc => (loc, 2 ^ pageBits level) :: acc
          | none => acc
      else if level = 4 || bits n 2 10 != 0 || bits n 56 8 != 0 then acc
      else State.tablePages s fuel (bits n 12 44 * 2 ^ 12) ++ acc) []

/-- The device-tier pages of an address space. -/
def State.spacePages (s : State) (asid : BitVec 16) : List (Nat × Nat) :=
  let e := (readWord s.mem (s.trans.tbase.toNat + 8 * asid.toNat)).toNat
  if !s.trans.en || e % 2 = 0 || bits e 1 13 != 0 || bits e 56 8 != 0 then [] else s.tablePages 5 (bits e 14 42 * 2 ^ 14)

/-- Insert a range in ascending order. -/
def insertRange (x : Nat × Nat) : List (Nat × Nat) → List (Nat × Nat)
  | [] => [x]
  | y :: ys => if x.1 ≤ y.1 then x :: y :: ys else y :: insertRange x ys

/-- Join ranges that touch or overlap. -/
def joinRanges : List (Nat × Nat) → List (Nat × Nat)
  | [] => []
  | x :: xs =>
    match joinRanges xs with
    | [] => [x]
    | y :: ys => if y.1 ≤ x.1 + x.2 then (x.1, max (x.1 + x.2) (y.1 + y.2) - x.1) :: ys else x :: y :: ys

/-- The ranges of a checkpoint: all of device memory, or what the address spaces of the partition's queues map. -/
def State.ckptRanges (s : State) (full : Bool) (p : Nat) : List (Nat × Nat) :=
  if full then (List.range 4).map (fun d => (d * 2 ^ 37, 96 * 2 ^ 30))
  else
    let asids := ((s.queues.filter (fun q => q.part = p)).map Queue.asid).eraseDups
    joinRanges ((asids.foldr (fun a acc => s.spacePages a ++ acc) []).foldr insertRange [])

/-! ## CKPT (R57) -/

/-- CKPT: only for the physical function, at an aligned offset, with a vault port up and ranges that fit; then a FENCE with SYS; then
the covered partitions stop and the copy runs. A second CKPT waits for the first (log 64). -/
def execCkpt (w : PacketWords) (s : State) : Host.Outcome State Fault Refusal :=
  packetOp 4 w s fun q s =>
    let full := w.flags % 2 = 1
    if w.hi.toNat % 8 ≠ 0 then .fault s 0x81
    else if q.fn ≠ 0 ∨ w.lo.toNat % 4096 ≠ 0 ∨ s.vaultUp = 0 then .fault s 0x8A
    else if !q.settled then .hold s .completions
    else if s.ckpt.isSome then .retry s
    else if 240 < (s.ckptRanges full q.part).length then .fault s 0x8A
    else
      let c : Ckpt := { restore := false, full := full, parts := if full then 0xFFFF else (1 : BitVec 16) <<< q.part, offset := w.lo,
                        signal := w.hi, asid := q.asid, queue := (q.fn, q.idx) }
      .done ({ s with ckpt := some c }.takeOff q .ckpt)

/-- Bytes that have no value in the spec. -/
def freeBytes (kind number n : Nat) : List (BitVec 8) := (List.range n).map (Config.ckptByte kind number)

/-- The key-encryption key of a generation. -/
def kekBytes (gen : Nat) : Bytes := (List.range 32).map (Config.kek gen)

/-- The header (R59), with WKEY and DIGEST (R60). Its range table has room for 240 entries (log 63). -/
def ckptHeader (full : Bool) (parts : BitVec 16) (kekGen : Word) (svn bodyLen stateLen : Nat) (wkey digest : Bytes) (rs : List (Nat × Nat)) :
    List (BitVec 8) :=
  leBytes (0x02584B43 + 2 ^ 32 + (if full then 2 ^ 48 else 0)) 8 ++
    leBytes (parts.toNat + rs.length * 2 ^ 16 + kekGen.toNat * 2 ^ 32) 8 ++ leBytes svn 8 ++ leBytes bodyLen 8 ++ leBytes stateLen 8 ++
    wkey ++ digest ++ List.replicate 112 0 ++
    rs.foldr (fun r acc => leBytes r.1 8 ++ leBytes r.2 8 ++ acc) (List.replicate (16 * (240 - rs.length)) 0)

/-- A cell lies in the ranges of a checkpoint, or in the scratch of its clusters. -/
def savedLoc (rs : List (Nat × Nat)) (cs : List Nat) (a : Nat) : Bool :=
  rs.any (fun r => r.1 ≤ a && a < r.1 + r.2) || scratchIn cs a

/-- The partitions that a checkpoint covers, and their clusters. -/
def coveredParts (parts : BitVec 16) : List Nat := (List.range 16).filter (fun p => parts.getLsbD p)
def State.coveredClusters (s : State) (parts : BitVec 16) : List Nat :=
  (coveredParts parts).foldr (fun p acc => s.clustersOf p ++ acc) []

/-- What a checkpoint saves (R59). -/
def State.snapshot (s : State) (c : Ckpt) (rs : List (Nat × Nat)) : Snapshot :=
  let cs := s.coveredClusters c.parts
  let ls := s.launches.filter (fun l => c.parts.getLsbD l.part)
  let lids := ls.map Launch.lid
  let hs := s.hands.filter (fun h => lids.contains h.lid)
  let keys := hs.map Hand.key
  let qs := s.queues.filter (fun q => c.parts.getLsbD q.part)
  let mine (r : AnnRec) : Bool := r.dev.isNone && lids.contains r.lid
  let held (l : ObjList) : List Nat := l.recs.filter (fun t => (s.rec? t).any mine)
  let bs := s.binds.filter (fun b => lids.contains b.lid)
  { offset := c.offset.toNat, header := [], key := freeBytes 1 s.tick 64, stateBytes := [], parts := c.parts, ranges := rs,
    cfgs := (coveredParts c.parts).map (fun p => (p, (s.part p).cfg)),
    mem := s.mem.filter (fun x => savedLoc rs cs x.1),
    hands := hs, launches := ls, queues := qs.map (fun q => (q, readCells s.mem q.desc 64)),
    retained := s.retained.filter (fun r => lids.contains r.lid),
    deck := (List.range 4).foldr (fun d acc => ((s.die d).deck.filter (fun e => lids.contains e.lid)).map (fun e => (d, e)) ++ acc) [],
    tokens := (List.range 4).foldr (fun d acc => ((s.die d).tokens.filter (fun t => lids.contains t.lid)).map (fun t => (d, t)) ++ acc) [],
    rangeStates := s.ranges.filter (fun r => lids.contains r.lid),
    recs := s.recs.filter mine, lists := (s.lists.map (fun l => { l with recs := held l })).filter (fun l => !l.recs.isEmpty),
    pubs := s.pubs.filter (fun p => bs.any (fun b => b.obj = p.obj)), binds := bs,
    wake := (s.wake.map (fun e => { e with hands := e.hands.filter keys.contains, line := none, queues := e.queues.filter (fun k => qs.any (fun q => (q.fn, q.idx) = k)) })).filter
      (fun e => !(e.hands.isEmpty && e.queues.isEmpty)),
    cores := s.cores.filter (fun x => cs.contains (coreCluster x.1)), clusters := s.clusters.filter (fun x => cs.contains x.1),
    xcnt := (coveredParts c.parts).map (fun p => (p, (s.part p).xcnt)) }

/-- The state section of a checkpoint (R59): the chunks of KIND 1 to 9, each in the layout that the spec gives its content, or in free
bytes where VER fixes the encoding; then zeros up to a multiple of 4,096 bytes (log 63). -/
def Snapshot.section (x : Snapshot) (number : Nat) : Bytes :=
  let open_ (k : Nat) : Bytes := freeBytes (16 * k) number (Config.ckptUnits number k)
  let cs := (List.range 32).filter (fun c => x.cfgs.any (fun p => p.2.en && p.2.clusters.getLsbD c))
  let scratch (c : Nat) : Bytes := (List.range 32).foldr (fun i acc => readCells x.mem (scratchLoc (32 * c + i) 0) 524288 ++ acc) []
  let cbds (c : Nat) : Bytes := (List.range 256).foldr (fun i acc =>
    leBytes ((lookupD (32 * c + i / 8) Core.init x.cores).cbd.getD (i % 8) 0).toNat 8 ++ acc) []
  let windows (c : Nat) : Bytes := (List.range 64).foldr (fun i acc =>
    (match (lookupD c Cluster.init x.clusters).windows.find? (fun w => w.idx = i) with
    | some w => w.image
    | none => List.replicate 32 0) ++ acc) []
  let body :=
    chunk 1 (x.cfgs.foldr (fun c acc => c.2.image ++ acc) []) ++ chunk 2 (open_ 2) ++
    chunk 3 (x.launches.foldr (fun l acc => l.groups.foldr (fun g acc => g.image ++ acc) acc) [] ++ open_ 3) ++
    chunk 4 (x.deck.foldr (fun e acc => e.2.image ++ acc) [] ++ open_ 4) ++
    chunk 5 (x.recs.foldr (fun r acc => r.image (nextRec x.lists r.ticket) ++ acc) [] ++ open_ 5) ++ chunk 6 (open_ 6) ++
    chunk 7 (cs.foldr (fun c acc => scratch c ++ cbds c ++ windows c ++ acc) []) ++
    chunk 8 (x.xcnt.foldr (fun p acc => (List.range 4096).foldr (fun i acc => leBytes (lookupD i (0 : Word) p.2).toNat 4 ++ acc) acc) []) ++
    chunk 9 ((x.launches.filter (fun l => l.twinOf.isNone)).foldr (fun l acc => leBytes l.desc 128 ++ acc) [] ++ open_ 9)
  body ++ List.replicate ((4096 - body.length % 4096) % 4096) 0

/-- The body before and after encryption (R59, R60). -/
def Snapshot.plain (x : Snapshot) : Bytes := x.ranges.foldr (fun r acc => readCells x.mem r.1 r.2 ++ acc) [] ++ x.stateBytes
def Snapshot.cipher (x : Snapshot) : Bytes := xtsEncrypt x.key x.plain

/-- A checkpoint with its state section and its header. -/
def State.seal (s : State) (c : Ckpt) (rs : List (Nat × Nat)) : Snapshot :=
  let x := s.snapshot c rs
  let x := { x with stateBytes := x.section s.tick }
  let stateLen := x.stateBytes.length
  let bodyLen := rs.foldl (fun n r => n + r.2) stateLen
  let wkey := keyWrap (kekBytes s.mgmt.kekGen.toNat) x.key
  { x with header := ckptHeader c.full c.parts s.mgmt.kekGen (s.mgmt.versions.getD 1 0) bodyLen stateLen wkey (sha256 x.cipher) rs }

/-- A hand of a covered partition goes to memory: it is swapped out, and every register that has a spill slot is spilled. -/
def State.toMemory (s : State) (h : Hand) : State :=
  match h.state with
  | .ready | .parked => (s.spillAll h.key).swapOut h.key .swapped
  | .asleep => (s.spillAll h.key).swapOut h.key .swappedAsleep
  | .swapped | .swappedAsleep | .halted => h.map.foldl (fun s e => s.spillOut h.key e.win e.name) s
  | _ => s

/-- CKPT_COPY_COMPLETE: once every run of the covered partitions has ended and the results outstanding for registers have returned
(R204), their hands are in memory and the copy is in the vault;
then the partitions resume, held writes are applied and the signal receives its add. -/
def execCkptCopyComplete (s : State) : Host.Outcome State Fault Refusal :=
  match s.ckpt with
  | none => .next s
  | some c =>
    if c.restore || s.hands.any (fun h => c.parts.getLsbD h.part && (h.state == .running || !h.allSettled)) then .next s
    else
      let s := (s.hands.filter (fun h => c.parts.getLsbD h.part)).foldl State.toMemory s
      let rs := s.ckptRanges c.full (((s.queue? c.queue).map Queue.part).getD 0)
      let x := s.seal c rs
      .next ({ s with vault := writeCells c.offset.toNat (x.header ++ x.cipher) s.vault, snapshots := s.snapshots ++ [x] }.endCkpt false)

/-! ## CKPT with RESTORE (R61) -/

/-- WKEY and DIGEST of a header. -/
def headerWkey (header : Bytes) : Bytes := (header.drop 40).take 72
def headerDigest (header : Bytes) : Bytes := (header.drop 112).take 32

/-- The checkpoint whose key pair a header's WKEY wraps: WKEY unwraps under the current key-encryption key, which only what that key has
wrapped does. -/
def State.unwrapped (s : State) (header : List (BitVec 8)) : Option Snapshot :=
  if !s.mgmt.kekPresent || bits (leNat (header.take 16)) 96 32 != s.mgmt.kekGen.toNat then none
  else s.snapshots.find? (fun x => keyWrap (kekBytes s.mgmt.kekGen.toNat) x.key == headerWkey header)

/-- The range table of a header. -/
def headerRanges (header : List (BitVec 8)) : List (Nat × Nat) :=
  (List.range (bits (leNat (header.take 16)) 80 8)).map (fun i =>
    (leNat ((header.drop (256 + 16 * i)).take 8), leNat ((header.drop (264 + 16 * i)).take 8)))

/-- A range is aligned and lies in the memory of one die. -/
def rangeOk (r : Nat × Nat) : Bool :=
  r.1 % 65536 == 0 && r.2 % 65536 == 0 && r.2 != 0 && deviceExists r.1 && deviceExists (r.1 + r.2 - 1) && r.1 / 2 ^ 37 == (r.1 + r.2 - 1) / 2 ^ 37

/-- The header passes the checks of R61. -/
def State.headerOk (s : State) (header : List (BitVec 8)) : Bool :=
  let n := leNat (header.take 24)
  let parts := coveredParts (BitVec.ofNat 16 (bits n 64 16))
  bits n 0 48 == 0x02584B43 + 2 ^ 32 && (headerRanges header).all rangeOk && (s.unwrapped header).isSome &&
    s.mgmt.fuses.getD 1 0 ≤ bits n 128 32 &&
    parts.all (fun p => (s.part p).cfg.en && !s.launches.any (fun l => l.part = p) &&
      s.queues.all (fun q => q.part != p || s.qState q == qIdle))

/-- CKPT with RESTORE. -/
def execCkptRestore (w : PacketWords) (s : State) : Host.Outcome State Fault Refusal :=
  packetOp 4 w s fun q s =>
    let header := readCells s.vault w.lo.toNat 4096
    if w.hi.toNat % 8 ≠ 0 then .fault s 0x81
    else if q.fn ≠ 0 ∨ w.lo.toNat % 4096 ≠ 0 ∨ s.vaultUp = 0 ∨ !s.headerOk header then .fault s 0x8A
    else if !q.settled then .hold s .completions
    else if s.ckpt.isSome then .retry s
    else
      let n := leNat (header.take 16)
      let c : Ckpt := { restore := true, full := bits n 48 1 == 1, parts := BitVec.ofNat 16 (bits n 64 16), offset := w.lo, signal := w.hi,
                        asid := q.asid, queue := (q.fn, q.idx) }
      .done ({ s with ckpt := some c }.takeOff q .ckpt)

/-- The place of an address in the ranges of a body, and the address at a place. -/
def placeIn : List (Nat × Nat) → Nat → Option Nat
  | [], _ => none
  | r :: rs, a => if r.1 ≤ a && a < r.1 + r.2 then some (a - r.1) else (placeIn rs a).map (fun k => r.2 + k)
def addrAt : List (Nat × Nat) → Nat → Option Nat
  | [], _ => none
  | r :: rs, k => if k < r.2 then some (r.1 + k) else addrAt rs (k - r.2)

/-- Restored memory: every word of the header's ranges takes the value that stands at its place of the body, and every word of the scratch
of the clusters its saved value, as a write. -/
def State.restoreMem (s : State) (sn : Snapshot) (rs : List (Nat × Nat)) : State :=
  let cs := s.coveredClusters sn.parts
  let from_ (w : Nat) : Option Nat := if spaceOf w = .scratch then some w else (placeIn rs w).bind (addrAt sn.ranges)
  let to_ (w : Nat) : Option Nat := if spaceOf w = .scratch then some w else (placeIn sn.ranges w).bind (addrAt rs)
  let words := (sn.mem.filterMap (fun c => to_ (wordOf c.1)) ++ (s.mem.filter (fun c => savedLoc rs cs c.1)).map (fun c => wordOf c.1) ++
    (s.orders.filter (fun o => savedLoc rs cs o.word)).map WordOrder.word).eraseDups
  words.foldl (fun s w => s.appendWrite w 0xFF (((from_ w).map (readWord sn.mem)).getD 0) [] 0 Party.nobody) s

/-- A hand as a restore leaves it: SWAPPED, with its threads' views at the restored memory. One that was never placed has no context
record and stays unplaced; one that had ended stands with the item progress of its launch (log 89). -/
def Hand.restored (h : Hand) (key range : Nat) (v : View) : Hand :=
  { h with
    key := h.key + key, range := h.range.map (fun r => r + range),
    state := match h.state with
      | .unplaced => .unplaced
      | .done => .done
      | .killed => .killed
      | _ => .swapped,
    key64 := none, outst := h.outst, arrival := none, slice := none, pair := h.pair,
    mem := h.mem.map (fun m => { m with view := v, fview := [], pend := [] }) }

/-- A queue as a restore leaves it: without a slot, with its launches still to complete. -/
def State.restoreQueue (s : State) (x : Queue × List (BitVec 8)) : State :=
  let q := { x.1 with slot := none, hold := .none, inFlight := x.1.inFlight.filter (fun f => match f.1 with | .launch _ => true | _ => false) }
  let s := s.writeBytes q.desc x.2 (frontParty q.die)
  let s := { s with queues := s.queues.filter (fun y => !(y.fn = q.fn && y.idx == q.idx)) ++ [q] }
  if s.qState q = qActive then s.qPutState q qReady else s

/-- Load the state section (R59, R61). Hands and range states take fresh numbers of the model. -/
def State.loadSnapshot (s : State) (sn : Snapshot) (rs : List (Nat × Nat)) : State :=
  let s := sn.cfgs.foldl (fun s x => s.updPart x.1 (fun p => { p with cfg := x.2 })) s
  let s := (if sn.cfgs.isEmpty then s else s.remeasure).restoreMem sn rs
  let v := s.nowView
  let dk := s.nextHand
  let dr := s.nextRange
  let top (ns : List Nat) : Nat := ns.foldl (fun m n => max m (n + 1)) 0
  let launch (l : Launch) : Launch :=
    { l with view := v, rangeId := l.rangeId.map (fun r => r + dr), groups := l.groups.map (fun g => { g with views := g.views.map (fun x => (x.1, v)) }) }
  let seg (e : Seg) : Seg := { e with hand := e.hand.map (fun k => k + dk), view := v }
  let s := { s with
    hands := s.hands ++ sn.hands.map (fun h => h.restored dk dr v), nextHand := dk + top (sn.hands.map Hand.key),
    launches := s.launches ++ sn.launches.map launch,
    ranges := s.ranges ++ sn.rangeStates.map (fun r => { r with id := r.id + dr }), nextRange := dr + top (sn.rangeStates.map RangeState.id),
    recs := s.recs ++ sn.recs.map (fun r => { r with view := v }),
    lists := s.lists ++ sn.lists, pubs := s.pubs ++ sn.pubs.map (fun p => { p with pub := v }), binds := s.binds ++ sn.binds,
    wake := s.wake ++ sn.wake.map (fun e => { e with hands := e.hands.map (fun k => k + dk) }),
    dies := (List.range s.dies.length).map (fun d =>
      let x := s.die d
      { x with deck := x.deck ++ (sn.deck.filter (fun e => e.1 = d)).map (fun e => seg e.2),
               tokens := x.tokens.filter (fun t => t.state != 0 || !sn.tokens.any (fun y => y.1 = d && y.2.idx == t.idx)) ++
                 (sn.tokens.filter (fun t => t.1 = d)).map Prod.snd }) }
  let s := sn.retained.foldl (fun s r => if r.block.isSome then s.takeBlock r.part r else { s with retained := s.retained ++ [r] }) s
  let s := sn.cores.foldl (fun s x => s.updCore x.1 (fun c => { c with cbd := x.2.cbd, allocs := x.2.allocs })) s
  let s := sn.clusters.foldl (fun s x => s.updCluster x.1 (fun _ => x.2)) s
  let s := sn.xcnt.foldl (fun s x => s.updPart x.1 (fun p => { p with xcnt := x.2 })) s
  sn.queues.foldl State.restoreQueue s

/-- The checkpoint at an offset of the vault: its body has the DIGEST of the header, and is what the key pair of the header's WKEY has
encrypted. -/
def State.intact (s : State) (off : Nat) : Option Snapshot :=
  let header := readCells s.vault off 4096
  let body := readCells s.vault (off + 4096) (bits (leNat (header.take 32)) 192 64)
  (s.unwrapped header).filter (fun x => sha256 body == headerDigest header && body == x.cipher)

/-- CKPT_RESTORE_COMPLETE: the state is loaded and the covered partitions resume; on a DIGEST mismatch or an uncorrectable error of the
vault, they are reset. -/
def execCkptRestoreComplete (s : State) : Host.Outcome State Fault Refusal :=
  match s.ckpt with
  | none => .next s
  | some c =>
    if !c.restore then .next s
    else match (if s.args.ok then s.intact c.offset.toNat else none) with
      | some sn => .next ((s.loadSnapshot sn (headerRanges (readCells s.vault c.offset.toNat 4096))).endCkpt false)
      | none => .next ((coveredParts c.parts).foldl (fun s p => s.resetPartition p (s.resetDie p) 0x8D 0x8D (fun _ => false)) s)

end Sys2Proof.Machine
end

