-- ==== Sys2Proof/Machine/Finalise.lean ====
section
/-!
DEFINITION. The portable form and the finaliser (spec/12 R271 to R273): the checks of a module, the live windowed names, the free choices
that the finaliser has (registers, SW and RB) within what R273 asks of them, and the native code.
-/
namespace Sys2Proof.Machine

/-! ## The header and the records (R271, R272) -/

/-- A number of a module's bytes. -/
def epfN (m : List (BitVec 8)) (off n : Nat) : Nat := leNat ((m.drop off).take n)

/-- The fields of an EPF header (R271). -/
def epfKernels (m : List (BitVec 8)) : Nat := epfN m 4 2
def epfCode (m : List (BitVec 8)) : Nat × Nat := (epfN m 8 4, epfN m 12 4)
def epfData (m : List (BitVec 8)) : Nat × Nat := (epfN m 16 4, epfN m 20 4)
def epfTable (m : List (BitVec 8)) : Nat := epfN m 24 4

/-- The records of a code section: the offset and the bytes of each. -/
def epfRecords : Nat → List (BitVec 8) → Nat → List (Nat × List (BitVec 8))
  | 0, _, _ => []
  | fuel + 1, code, off =>
    if code.isEmpty then []
    else
      let len := if bits (leNat (code.take 2)) 10 1 = 1 then 32 else 24
      (off, code.take len) :: epfRecords fuel (code.drop len) (off + len)

/-- The code section of a module, and its records. -/
def epfCodeBytes (m : List (BitVec 8)) : List (BitVec 8) := (m.drop (epfCode m).1).take (epfCode m).2
def epfCodeRecords (m : List (BitVec 8)) : List (Nat × List (BitVec 8)) := epfRecords (epfCode m).2 (epfCodeBytes m) 0

/-- The offset of kernel `k`'s first record. -/
def epfEntry (m : List (BitVec 8)) (k : Nat) : Nat := epfN m (epfTable m + 8 * k) 4

/-- The header passes R271: sections and the kernel table are aligned and inside the module, and every kernel starts at a record of the
code section. -/
def epfHeaderOk (m : List (BitVec 8)) : Bool :=
  let k := epfKernels m
  let (co, cl) := epfCode m
  let (da, dl) := epfData m
  let t := epfTable m
  64 ≤ m.length && epfN m 0 4 == 0x01465045 && 1 ≤ k && k ≤ 4096 && epfN m 6 2 == 0 && epfN m 28 36 == 0 &&
    co % 8 == 0 && da % 8 == 0 && t % 8 == 0 && co + cl ≤ m.length && da + dl ≤ m.length && t + 8 * k ≤ m.length &&
    (let starts := (epfCodeRecords m).map Prod.fst
     (List.range k).all (fun i => epfN m (t + 8 * i + 4) 4 == 0 && starts.contains (epfEntry m i)))

/-- A position whose names are g registers, virtual ones admitted. -/
def isGPos : Sys2Proof.Pos → Bool
  | .g | .pair | .pairD | .ldD | .stS | .annB | .casB | .lit | .litCount | .litImm | .litOrZero => true
  | _ => false

/-- The class of a position in a record: D of `srd` is of class g when A is `tid` (R387). -/
def epfPos (p : Sys2Proof.Pos) (va : Nat) : Sys2Proof.Pos := if p == .srdD then (if va = 1 then .g else .h) else p

/-- A name field that stands for a virtual name (R272): a windowed name is represented by one of g16 to g31 that is equal to it modulo
16. `none`: the name has no place in the position. -/
def epfName (p : Sys2Proof.Pos) (v : Nat) : Option Nat :=
  if p == .none then (if v = 0xFFFFFF then some 0 else none)
  else if v = 0xFFFFFF then none
  else if isGPos p then (if v = 0xFFFFFE then some 63 else if v < 16 then some v else some (16 + v % 16))
  else if v < 63 then some v else none

/-- The instruction of a record, with representatives of its virtual names. -/
def epfWords (r : OpRow) (rec : List (BitVec 8)) : Option CoreWords :=
  let n := leNat (rec.take 24)
  match epfName (epfPos r.d (bits n 56 24)) (bits n 32 24), epfName r.a (bits n 56 24), epfName r.b (bits n 80 24), epfName r.c (bits n 104 24) with
  | some d, some a, some b, some c =>
    some { sw := false, rb := false, p := 0, d := BitVec.ofNat 5 d, a := BitVec.ofNat 5 a, b := BitVec.ofNat 5 b,
           ext := some { px := true, pinv := bits n 11 1 == 1, pq := BitVec.ofNat 4 (bits n 12 4), c := BitVec.ofNat 6 c,
                         dh := d ≥ 32, ah := a ≥ 32, bh := b ≥ 32, lr := 0, rnd := BitVec.ofNat 3 (bits n 16 3), sat := bits n 19 1 == 1,
                         fmt := BitVec.ofNat 4 (bits n 20 4), ord := BitVec.ofNat 4 (bits n 24 4), w2 := BitVec.ofNat 32 (bits n 128 32) },
           lit := if bits n 10 1 = 1 then some (BitVec.ofNat 64 (epfN rec 24 8)) else none }
  | _, _, _, _ => none

/-- A record passes R272 and step 1 of R273. -/
def epfRecordOk (rec : List (BitVec 8)) : Bool :=
  let n := leNat (rec.take 24)
  let opc := bits n 0 10
  bits n 28 4 == 0 && bits n 160 32 == 0 &&
    (match opRow opc with
    | some r => match epfWords r rec with
      | some w => checkRow opc r w
      | none => false
    | none => false)

/-- The offset in the code section of the first record that fails; a record that the section's end cuts off fails. -/
def epfBadRecord (m : List (BitVec 8)) : Option Nat :=
  (epfCodeRecords m).findSome? (fun r =>
    let len := if bits (leNat (r.2.take 2)) 10 1 = 1 then 32 else 24
    if r.2.length < len || !epfRecordOk r.2 then some r.1 else none)

/-! ## What a record reads and writes -/

/-- A record of a module that has passed the checks: its offset, opcode, row, virtual names of D, A, B and C, and its fields. -/
structure EpfRec where
  off : Nat
  opc : Nat
  row : OpRow
  d : Nat
  a : Nat
  b : Nat
  c : Nat
  w : CoreWords

/-- The records of a module; those that fail the checks are left out. -/
def epfProgram (m : List (BitVec 8)) : List EpfRec :=
  (epfCodeRecords m).filterMap (fun r =>
    let n := leNat (r.2.take 24)
    match opRow (bits n 0 10) with
    | none => none
    | some row => match epfWords row r.2 with
      | none => none
      | some w => some { off := r.1, opc := bits n 0 10, row := row, d := bits n 32 24, a := bits n 56 24, b := bits n 80 24,
                         c := bits n 104 24, w := w })

/-- A register that a record names: its class (0 for g) and number. -/
abbrev EpfReg := Nat × Nat

/-- The class number of a position's registers. -/
def epfClass (p : Sys2Proof.Pos) : Option Nat :=
  if isGPos p then some 0
  else match p with
    | .h | .hpair | .hOrZero => some 1
    | .q => some 2
    | .k => some 3
    | .c => some 4
    | .t => some 5
    | .w => some 6
    | .cbd => some 7
    | _ => none

/-- Consecutive registers that a position names (R286, R307, R320, R378). -/
def epfWidth (p : Sys2Proof.Pos) (w : CoreWords) : Nat :=
  match p with
  | .pair | .pairD | .hpair => 2
  | .ldD | .stS => if w.size = 3 then 2 else 1
  | .annB => if w.annType < 3 then 1 else 2
  | .casB => if w.annType < 3 then 2 else 4
  | _ => 1

/-- The registers of a position. -/
def epfRegs (p : Sys2Proof.Pos) (v : Nat) (w : CoreWords) : List EpfReg :=
  match epfClass p with
  | none => []
  | some c => if c = 0 && 0xFFFFFE ≤ v then [] else (List.range (epfWidth p w)).map (fun i => (c, v + i))

/-- D is read as data, as in a store or in `tst`, and not written. -/
def EpfRec.dIsRead (r : EpfRec) : Bool := r.row.d == .stS || r.opc == 0x141
def EpfRec.posD (r : EpfRec) : Sys2Proof.Pos := epfPos r.row.d r.a
def EpfRec.regsD (r : EpfRec) : List EpfReg := epfRegs r.posD r.d r.w

/-- The registers that A, B and C name. -/
def EpfRec.regsABC (r : EpfRec) : List EpfReg := epfRegs r.row.a r.a r.w ++ epfRegs r.row.b r.b r.w ++ epfRegs r.row.c r.c r.w

/-- The registers that a record reads, its predicate among them, and h24 to h31 for a spawn (R382); and those that it writes. `drop` reads
nothing and ends what its names hold (R127); the D of a `loop` is the base of its range. -/
def EpfRec.reads (r : EpfRec) : List EpfReg :=
  (2, r.w.pred.1) :: ((if r.opc = 0x207 then [] else r.regsABC) ++ (if r.dIsRead then r.regsD else []) ++
    (if r.opc = 0x1C0 || (0x1C2 ≤ r.opc && r.opc ≤ 0x1C5) then (List.range 8).map (fun i => (1, 24 + i)) else []))
def EpfRec.writes (r : EpfRec) : List EpfReg :=
  if r.opc = 0x207 then r.regsABC else if r.dIsRead || r.opc = 0x58 then [] else r.regsD

/-- The record acts in every thread of its split. -/
def EpfRec.always (r : EpfRec) : Bool := r.w.pred.1 == 0 && !r.w.pred.2

/-- Its result is asynchronous (R119). -/
def EpfRec.async (r : EpfRec) : Bool := (r.opc / 64 == 2 || r.opc / 64 == 3 || (5 ≤ r.opc / 64 && r.opc / 64 ≤ 7)) && r.opc != 0x182

/-- The rotating names of a `loop` (R303), and its END. -/
def EpfRec.rotates (r : EpfRec) : Nat := if r.opc = 0x58 then bits r.w.w2.toNat 16 4 else 0
def EpfRec.endOff (r : EpfRec) : Nat := r.off + 4 * bits r.w.w2.toNat 0 16

/-- The offset that a `bra` or `call` with a literal names (R296). -/
def EpfRec.target (r : EpfRec) : Option Nat :=
  if (r.opc = 0x40 || r.opc = 0x42) && r.a = 0xFFFFFE then some (Int.toNat (r.off + r.w.litVal.toInt)) else none

/-! ## Control flow -/

/-- The index of the record at an offset. -/
def epfAt (rs : List EpfRec) (off : Nat) : List Nat :=
  match rs.findIdx? (fun r => r.off = off) with
  | some k => [k]
  | none => []

/-- The rotating range of a `loop`. -/
def EpfRec.range (r : EpfRec) : List EpfReg := (List.range r.rotates).map (fun i => (0, r.d + i))

/-- The records that may follow record `j`, within its frame, or with `calls` in a callee as well and from it after any call, each with the
range that a back edge rotates on the way (R137). A target in a register may be any record; `lbrk` and `lnext` name the levels whose
ranges they stand in (R138). -/
def epfEdges (rs : List EpfRec) (calls : Bool) (j : Nat) : List (Nat × List EpfReg) :=
  match rs[j]? with
  | none => []
  | some r =>
    let all := List.range rs.length
    let loops := rs.filter (fun (l : EpfRec) => l.opc = 0x58)
    let here := loops.filter (fun (l : EpfRec) => l.off < r.off && r.off ≤ l.endOff)
    let returns : List Nat := all.filter (fun k => 0 < k && (match rs[k - 1]? with | some x => x.opc == 0x42 || x.opc == 0x43 | none => false))
    let after (l : EpfRec) : List Nat := (epfAt rs l.endOff).map (· + 1)
    let starts (l : EpfRec) : List Nat := (epfAt rs l.off).map (· + 1)
    let fall : List Nat := if r.always && (r.opc == 0x40 || r.opc == 0x41 || r.opc == 0x44 || r.opc == 0x45 || r.opc == 0x201) then [] else [j + 1]
    let jump : List Nat :=
      if r.opc = 0x40 || (calls && r.opc = 0x42) then (match r.target with
        | some t => epfAt rs t
        | none => all)
      else if r.opc = 0x41 || (calls && r.opc = 0x43) then all
      else if calls && r.opc = 0x44 then returns
      else if r.opc = 0x58 then after r
      else if r.opc = 0x59 || r.opc = 0x5A then here.flatMap after
      else []
    let back : List (Nat × List EpfReg) := ((if r.opc = 0x5A then here else []) ++ loops.filter (fun (l : EpfRec) => l.endOff = r.off)).flatMap
      (fun (l : EpfRec) => (starts l).map (fun k => (k, l.range)))
    ((fall ++ jump).map (fun k => (k, [])) ++ back).filter (fun x => x.1 < rs.length)

def epfNext (rs : List EpfRec) (calls : Bool) (j : Nat) : List Nat := (epfEdges rs calls j).map Prod.fst

/-! ## Live windowed names (R273 step 2, R274) -/

/-- A set of registers as the number whose bits are their places in a list. -/
def epfMask (names : List EpfReg) (xs : List EpfReg) : Nat :=
  ((List.range names.length).filter (fun i => xs.contains (names.getD i (0, 0)))).foldl (fun n i => n + 2 ^ i) 0

/-- The windowed virtual names of a list of registers. -/
def epfWindowed (xs : List EpfReg) : List EpfReg := xs.filter (fun x => x.1 == 0 && 16 ≤ x.2)

/-- The names whose values stand in the names of a mask once a range has been rotated. -/
def epfUnrotate (names range : List EpfReg) (m : Nat) : Nat :=
  if range.isEmpty then m
  else epfMask names (names.filter (fun x =>
    let next : EpfReg := match range.idxOf? x with
      | some i => range.getD ((i + 1) % range.length) x
      | none => x
    m.testBit (names.idxOf next)))

/-- The windowed virtual names of a module, in order. -/
def epfNames (rs : List EpfRec) : List EpfReg :=
  ((rs.flatMap (fun r => epfWindowed (r.reads ++ r.writes ++ r.range))).eraseDups).mergeSort (fun x y => x.2 ≤ y.2)

/-- A solution of the equations of a flow: `n` passes over the records' masks. -/
def epfFixpoint (pass : List Nat → List Nat) : Nat → List Nat → List Nat
  | 0, x => x
  | n + 1, x => epfFixpoint pass n (pass x)

/-- What is live after a record, given what is live before each. -/
def epfOut (names : List EpfReg) (edges : List (Nat × List EpfReg)) (x : List Nat) : Nat :=
  edges.foldl (fun n e => n ||| epfUnrotate names e.2 (x.getD e.1 0)) 0

/-- The masks of the names that are live before each record: a value that a later record of the frame may read, under the name that the
rotations on the way leave it (R137). A write in every thread ends a name's life. -/
def epfLive (rs : List EpfRec) (names : List EpfReg) : List Nat :=
  let use := rs.map (fun r => epfMask names r.reads)
  let kill := rs.map (fun r => if r.always then epfMask names r.writes else 0)
  let edges := (List.range rs.length).map (epfEdges rs false)
  let pass (x : List Nat) : List Nat := (List.range rs.length).map (fun j =>
    let out := epfOut names (edges.getD j []) x
    use.getD j 0 ||| (out ^^^ (out &&& kill.getD j 0)))
  epfFixpoint pass (rs.length * (names.length + 1)) (rs.map (fun _ => 0))

/-- Members of a mask over `n` places. -/
def maskCount (n m : Nat) : Nat := (List.range n).countP (fun i => m.testBit i)

/-- More than 45 windowed names are live at one point of a frame (R274 status 3). -/
def epfTooMany (rs : List EpfRec) : Bool :=
  let names := epfNames rs
  (epfLive rs names).any (fun m => 45 < maskCount names.length m)

/-! ## Registers -/

/-- Names that stand side by side: the first, how many, what the register's number must equal it modulo, and whether a `loop` rotates
them. -/
structure EpfGroup where
  lo : Nat
  size : Nat
  al : Nat
  rot : Bool

/-- The runs of names that pairs, quads and rotating ranges bind together. -/
def epfLinks (rs : List EpfRec) : List EpfGroup :=
  rs.flatMap (fun r =>
    let at_ (p : Sys2Proof.Pos) (v : Nat) : List EpfGroup :=
      if isGPos p && 16 ≤ v && v < 0xFFFFFE && 1 < epfWidth p r.w then [{ lo := v, size := epfWidth p r.w, al := epfWidth p r.w, rot := false }] else []
    let rot : List EpfGroup := if 1 ≤ r.rotates && 16 ≤ r.d then [{ lo := r.d, size := r.rotates, al := 1, rot := true }] else []
    at_ r.posD r.d ++ at_ r.row.a r.a ++ at_ r.row.b r.b ++ at_ r.row.c r.c ++ rot)

/-- The names of a module in groups, from its last name to its first. -/
def epfGroups (rs : List EpfRec) : List EpfGroup :=
  let links := epfLinks rs
  (epfNames rs).foldl (fun (gs : List EpfGroup) x =>
    let v := x.2
    let mine := links.filter (fun (g : EpfGroup) => g.lo ≤ v && v < g.lo + g.size)
    let al := mine.foldl (fun n (g : EpfGroup) => max n g.al) 1
    let rot := mine.any (fun (g : EpfGroup) => g.rot)
    let tied := links.any (fun (g : EpfGroup) => g.lo < v && v < g.lo + g.size)
    match gs with
    | [] => [{ lo := v, size := 1, al := al, rot := rot }]
    | g :: rest =>
      if tied && g.lo + g.size = v then { g with size := g.size + 1, al := max g.al al, rot := g.rot || rot } :: rest
      else { lo := v, size := 1, al := al, rot := rot } :: g :: rest) []

/-- The registers at which a group may stand: g16 to g59, and g62 for a name alone; a rotating range starts at g30 or below (R135). -/
def EpfGroup.places (g : EpfGroup) : List Nat :=
  (((List.range 44).map (· + 16)).filter (fun r => r + g.size ≤ 60 && r % g.al = g.lo % g.al && (!g.rot || r ≤ 30))) ++
    (if g.size = 1 && !g.rot && 62 % g.al = g.lo % g.al then [62] else [])

/-- Groups take places in turn, each one that meets no other: the first choice is the finaliser's, and the next one follows where the groups
after it find no place. -/
def epfPlace (meet : EpfGroup → EpfGroup → Bool) (pick : Nat → Nat) : List EpfGroup → List (EpfGroup × Nat) → Option (List (EpfGroup × Nat))
  | [], done => some done
  | g :: gs, done =>
    let free := g.places.filter (fun r => !done.any (fun (x : EpfGroup × Nat) =>
      meet g x.1 && r < x.2 + x.1.size && x.2 < r + g.size))
    let k := pick done.length % free.length
    (free.drop k ++ free.take k).findSome? (fun r => epfPlace meet pick gs ((g, r) :: done))

/-- The mapping of windowed names (R273 step 2): each group has registers that no group live at the same point has, and no other group that
lives across a back edge has a register of its range; which ones is the finaliser's (log 102). None when there is no such mapping. -/
def epfMap (version : Nat) (m : List (BitVec 8)) (rs : List EpfRec) : Option (List (EpfGroup × Nat)) :=
  let names := epfNames rs
  let live := epfLive rs names
  let edges := (List.range rs.length).map (epfEdges rs false)
  let points := (List.range rs.length).map (fun j =>
    epfOut names (edges.getD j []) live ||| epfMask names ((rs[j]?.map EpfRec.writes).getD [])) ++
    edges.flatMap (fun es => (es.filter (fun e => !e.2.isEmpty)).map (fun e => live.getD e.1 0 ||| epfMask names e.2))
  let mask (g : EpfGroup) : Nat := epfMask names ((List.range g.size).map (fun i => (0, g.lo + i)))
  let meet (g h : EpfGroup) : Bool := (live ++ points).any (fun p => p &&& mask g != 0 && p &&& mask h != 0)
  epfPlace meet (Config.finaliserPick version m) (epfGroups rs) []

/-- The native name of a virtual name in a position. -/
def epfNative (map : List (EpfGroup × Nat)) (p : Sys2Proof.Pos) (v : Nat) : Nat :=
  if p == .none then 0
  else if !isGPos p then v
  else if v = 0xFFFFFE then 63
  else if v < 16 then v
  else match map.find? (fun (x : EpfGroup × Nat) => x.1.lo ≤ v && v < x.1.lo + x.1.size) with
    | some x => x.2 + (v - x.1.lo)
    | none => 16

/-! ## SW and RB (R273 steps 3 and 4) -/

/-- What is read at a record, the predicate of an until-mode level whose END it is among it (R136). -/
def EpfRec.readsAt (r : EpfRec) (rs : List EpfRec) : List EpfReg :=
  r.reads ++ (rs.filter (fun (l : EpfRec) => l.opc = 0x58 && l.endOff = r.off && l.w.w2.getLsbD 23)).map (fun l => (2, bits l.w.w2.toNat 24 4))

/-- No read of a name whose result may be outstanding comes before an SW instruction, by the SW bits given. -/
def epfSwOk (rs : List EpfRec) (sw : List Bool) : Bool :=
  let names := (rs.flatMap (fun r => r.readsAt rs ++ r.writes)).eraseDups
  let gen := rs.map (fun r => if r.async then epfMask names r.writes else 0)
  let next := (List.range rs.length).map (epfNext rs true)
  let pass (x : List Nat) : List Nat := (List.range rs.length).map (fun j =>
    (List.range rs.length).foldl (fun n p =>
      if (next.getD p []).contains j && !sw.getD p false then n ||| x.getD p 0 ||| gen.getD p 0 else n) 0)
  let late := epfFixpoint pass (rs.length * (names.length + 1)) (rs.map (fun _ => 0))
  (List.range rs.length).all (fun j => late.getD j 0 &&& epfMask names ((rs[j]?.map (fun r => r.readsAt rs)).getD []) == 0)

/-- The threads of a hand that run a record together may go on at different records after it. -/
def EpfRec.divides (r : EpfRec) : Bool :=
  let jumps := r.opc == 0x40 || r.opc == 0x42 || r.opc == 0x44 || r.opc == 0x59
  (jumps && !r.always) || ((r.opc == 0x40 || r.opc == 0x42) && r.target.isNone) || r.opc == 0x41 || r.opc == 0x43 || r.opc == 0x201 ||
    (r.opc == 0x58 && r.w.w2.getLsbD 23)

/-- No run reaches 24 instructions without an RB, by the RB bits given (R81): as long as the threads of a hand go together, no path of 24
records lacks an RB. Once they may stand at several places, a run counts the instructions of all of them (R117), and every record ends
one. -/
def epfRbOk (rs : List EpfRec) (rb : List Bool) : Bool :=
  let next := (List.range rs.length).map (epfNext rs true)
  let pass (x : List Nat) : List Nat := (List.range rs.length).map (fun j =>
    (List.range rs.length).foldl (fun n p =>
      if (next.getD p []).contains j && !rb.getD p false then max n (min 24 (x.getD p 0 + 1)) else n) 0)
  let run := epfFixpoint pass 25 (rs.map (fun _ => 0))
  (List.range rs.length).all (fun j => rb.getD j false || (!rs.any EpfRec.divides && run.getD j 0 + 1 < 24))

/-- The SW and RB bits: the finaliser's own where they keep R273, and else SW at every asynchronous result and RB at every record. -/
def epfSw (version : Nat) (m : List (BitVec 8)) (rs : List EpfRec) : List Bool :=
  let pick := (List.range rs.length).map (fun j => Config.finaliserMark version m (2 * j))
  if epfSwOk rs pick then pick else (List.range rs.length).map (fun j => pick.getD j false || (rs[j]?.map EpfRec.async).getD false)
def epfRb (version : Nat) (m : List (BitVec 8)) (rs : List EpfRec) : List Bool :=
  let pick := (List.range rs.length).map (fun j => Config.finaliserMark version m (2 * j + 1))
  if epfRbOk rs pick then pick else rs.map (fun _ => true)

/-! ## Native code (R273 step 5) -/

/-- The shortest form of an instruction that is given in an extended form (R277). -/
def shortest (opc : Nat) (r : OpRow) (w : CoreWords) : CoreWords :=
  let lit := if w.lit == some 0 && r.b != .litCount then none else w.lit
  let x := w.x
  let small (p : Sys2Proof.Pos) (n : Nat) : Bool := if isGPos p || p == .srdD then n ≤ 30 || n = 63 else n ≤ 31
  let low (n : BitVec 5) (hi : Bool) : BitVec 5 := if hi then 31 else n
  let base : CoreWords :=
    { w with p := x.pq.setWidth 3, d := low w.d x.dh, a := low w.a x.ah, b := low w.b x.bh, ext := none, lit := lit }
  if !r.star && small r.d w.nameD && small r.a w.nameA && small r.b w.nameB && (r.c == .none || x.c == 63) &&
      x.pq < 8 && !x.pinv && x.rnd == 0 && !x.sat && x.fmt == 0 && x.ord == 0 && x.w2 == 0 && checkRow opc r base then base
  else if x.pq < 8 then { w with p := x.pq.setWidth 3, lit := lit, ext := some { x with px := false, pq := 0 } }
  else { w with lit := lit }

/-- The instruction of a record with its native names and markers. -/
def EpfRec.native (r : EpfRec) (map : List (EpfGroup × Nat)) (sw rb : Bool) : CoreWords :=
  let nd := epfNative map r.posD r.d
  let na := epfNative map r.row.a r.a
  let nb := epfNative map r.row.b r.b
  let x := { r.w.x with c := BitVec.ofNat 6 (epfNative map r.row.c r.c), dh := nd ≥ 32, ah := na ≥ 32, bh := nb ≥ 32 }
  shortest r.opc r.row
    { r.w with sw := sw, rb := rb, d := BitVec.ofNat 5 nd, a := BitVec.ofNat 5 na, b := BitVec.ofNat 5 nb, ext := some x }

/-- The native offset of the record at an offset of the code section. -/
def epfOffset (code : List (EpfRec × CoreWords)) (off : Nat) : Nat :=
  (code.filter (fun x => x.1.off < off)).foldl (fun n x => n + 4 * x.2.len) 0

/-- An instruction with its branch offset or END moved to the native places of the records it names (R296, R303). -/
def epfRetarget (code : List (EpfRec × CoreWords)) (r : EpfRec) (w : CoreWords) : CoreWords :=
  let here := epfOffset code r.off
  match r.target with
  | some t => if w.lit.isSome then { w with lit := some (BitVec.ofInt 64 ((epfOffset code t : Int) - here)) } else w
  | none =>
    if r.opc = 0x58 then
      { w with ext := w.ext.map (fun (x : ExtWords) =>
          { x with w2 := x.w2.extractLsb' 16 16 ++ BitVec.ofNat 16 ((epfOffset code r.endOff - here) / 4) }) }
    else w

/-- The instructions of a module's native code, each with its record; none when its names have no mapping. -/
def epfCodeOf (version : Nat) (m : List (BitVec 8)) : Option (List (EpfRec × CoreWords)) :=
  let rs := epfProgram m
  (epfMap version m rs).map (fun map =>
  let sw := epfSw version m rs
  let rb := epfRb version m rs
  (List.range rs.length).filterMap (fun j => rs[j]?.map (fun r => (r, r.native map (sw.getD j false) (rb.getD j false)))))

/-- The bytes that the finaliser writes: the native code, and after it, from the next multiple of 8, the data section unchanged. -/
def epfOutput (version : Nat) (m : List (BitVec 8)) : List (BitVec 8) :=
  let text := match epfCodeOf version m with
    | some code => code.flatMap (fun x => (coreWordsOf x.1.opc (epfRetarget code x.1 x.2)).flatMap (fun w => leBytes w.toNat 4))
    | none => Config.finaliserCode version m
  text ++ List.replicate ((8 - text.length % 8) % 8) 0 ++ (m.drop (epfData m).1).take (epfData m).2

/-- The native entry offset of a kernel. -/
def epfNativeEntry (version : Nat) (m : List (BitVec 8)) (k : Nat) : Nat :=
  match epfCodeOf version m with
  | some code => epfOffset code (epfEntry m k)
  | none => Config.finaliserEntry version m k

end Sys2Proof.Machine
end

