-- ==== Sys2Proof/Machine/Bar.lean ====
section
/-!
DEFINITION. The registers of BAR0 (spec/02 R62 to R66): partition configuration, function binding, translation registers and
invalidation (spec/06 R154), error banks (spec/09 R222), the debug mailbox (spec/08 R203) and the finaliser request (spec/12 R274).
-/
namespace Sys2Proof.Machine

/-! ## Partition configuration blocks (R63) -/

/-- BUSY: the partition has a launch in flight or a queue that is not IDLE. -/
def State.partBusy (s : State) (p : Nat) : Bool :=
  s.launches.any (fun l => l.part = p) || s.queues.any (fun q => q.part = p && s.qState q != qIdle)

/-- The blocks as they would stand after a commit. -/
def State.cfgAfter (s : State) (p q : Nat) : PartCfg := if q = p then (s.part p).staged else (s.part q).cfg

/-- CLUSTER: a cluster of the block is already in another enabled partition. -/
def State.clusterTaken (s : State) (p : Nat) : Bool :=
  let c := (s.part p).staged
  (List.range 16).any (fun q => q != p && (s.part q).cfg.en && ((s.part q).cfg.clusters &&& c.clusters) != 0)

/-- SPEC: the shares of the enabled partitions with clusters on a die would pass 32 MiB (R105). -/
def State.specOver (s : State) (p : Nat) : Bool :=
  (List.range 4).any (fun d =>
    let sum := (List.range 16).foldl (fun n q =>
      let c := s.cfgAfter p q
      if c.en && bits c.clusters.toNat (8 * d) 8 != 0 then n + c.specsz.toNat else n) 0
    32 < sum)

/-- FIELD: a field is out of range, or a "zero" field is not 0. -/
def PartCfg.badField (c : PartCfg) : Bool :=
  32 < c.specsz.toNat || 4 < c.specreg.toNat || (c.barb != 0 && (c.barb.toNat < 16 || 40 < c.barb.toNat)) ||
    bits c.cdt.toNat 1 3 != 0 || bits c.cdt.toNat 8 3 != 0 || bits c.cdt.toNat 56 8 != 0 ||
    c.htab.toNat % 2 ^ 17 != 0 || c.rlrbase.toNat % 2 ^ 16 != 0 || c.dirty != 0

/-- STATUS of a commit: the first check that fails, or OK. -/
def State.commitStatus (s : State) (p : Nat) : BitVec 3 :=
  if s.partBusy p then 1 else if s.clusterTaken p then 2 else if s.specOver p then 3 else if (s.part p).staged.badField then 4 else 0

/-- PARTITION_COMMIT. -/
def execPartitionCommit (s : State) : Host.Outcome State Fault Refusal :=
  let p := s.args.n
  if 16 ≤ p then .next s
  else
    let st := s.commitStatus p
    .next (if st = 0 then (s.updPart p (fun x => { x with cfg := x.staged, status := 0 })).remeasure
           else s.updPart p (fun x => { x with status := st }))

/-- The words of a partition configuration block, as a write stages them; a "zero" field that is not 0 is remembered. -/
def PartCfg.stage (c : PartCfg) (w : Nat) (v : DWord) : PartCfg :=
  let n := v.toNat
  let mark (c : PartCfg) (bad : Bool) : PartCfg :=
    { c with dirty := (c.dirty &&& ~~~((1 : BitVec 32) <<< w)) ||| (if bad then (1 : BitVec 32) <<< w else 0) }
  match w with
  | 0 => mark { c with
      clusters := BitVec.ofNat 32 n, en := v.getLsbD 32, dbg := v.getLsbD 33, specsz := BitVec.ofNat 6 (bits n 40 6),
      specreg := BitVec.ofNat 3 (bits n 48 3), barb := BitVec.ofNat 6 (bits n 56 6) }
      (bits n 34 6 != 0 || bits n 46 2 != 0 || bits n 51 5 != 0 || bits n 62 2 != 0)
  | 1 => { c with cdt := v }
  | 2 => { c with htab := v }
  | 3 => { c with rlrbase := v }
  | 4 => mark { c with rlrblk := BitVec.ofNat 32 n } (bits n 32 32 != 0)
  | 5 => mark c (bits n 4 60 != 0)
  | _ => mark c (n != 0)

/-! ## Function binding (R64) -/

/-- BINDING_WRITE: a write that would bind a partition twice, or change a binding under a launch in flight, is ignored. -/
def execBindingWrite (s : State) : Host.Outcome State Fault Refusal :=
  let f := s.args.n
  let new : BitVec 8 := s.args.code &&& 0x8F
  let bind (f : Nat) : BitVec 8 := (s.funcs.getD f Func.init).bind
  let twice := new.getLsbD 7 && (List.range 64).any (fun g => g != f && g != 0 && bind g == new)
  let inUse := (bind f).getLsbD 7 && bind f != new && s.launches.any (fun l => l.part = bits (bind f).toNat 0 4)
  if f = 0 ∨ 64 ≤ f ∨ twice = true ∨ inUse = true then .next s
  else .next { s with funcs := putAt 64 Func.init (fun x => { x with bind := new }) f s.funcs }.remeasure

/-! ## Translation registers (R65, R154) -/

/-- TBASE_WRITE: ignored while any partition is enabled. -/
def execTbaseWrite (s : State) : Host.Outcome State Fault Refusal :=
  if s.parts.any (fun p => p.cfg.en) then .next s
  else .next { s with trans := { s.trans with
    en := s.args.value.getLsbD 0, tbase := s.args.value &&& BitVec.ofNat 64 (2 ^ 56 - 2 ^ 19) } }

/-- TLB_INVALIDATE: ignored while DONE is 0; GO starts the clearing. -/
def execTlbInvalidate (s : State) : Host.Outcome State Fault Refusal :=
  if !s.trans.done then .next s
  else .next { s with trans := { s.trans with
    iva := s.args.value &&& BitVec.ofNat 64 (2 ^ 57 - 1), ictl := s.args.value2 &&& BitVec.ofNat 64 (2 ^ 19 - 1),
    done := !s.args.value2.getLsbD 63 } }

/-- An entry matches the invalidation: IALL, every page of IASID, or an overlap with the region of IVA. -/
def Trans.clears (t : Trans) (e : TlbEntry) : Bool :=
  let n := t.ictl.toNat
  let size := match bits n 16 2 with
    | 0 => 16
    | 1 => 21
    | 2 => 28
    | _ => 57
  let b := max size (pageBits e.level)
  bits n 18 1 == 1 || (e.asid.toNat == bits n 0 16 && (size == 57 || e.va / 2 ^ b == t.iva.toNat / 2 ^ b))

/-- INVALIDATE_COMPLETE. -/
def execInvalidateComplete (s : State) : Host.Outcome State Fault Refusal :=
  if s.trans.done then .next s
  else .next { s with tlb := s.tlb.filter (fun e => !s.trans.clears e), trans := { s.trans with done := true } }

/-! ## Error banks (R222) -/

def Bank.clear (b : Bank) : Bank := { b with valid := false, ue := false, ovf := false, disc := false, cecnt := 0 }

/-- ERROR_BANK_CLEAR. -/
def execErrorBankClear (s : State) : Host.Outcome State Fault Refusal :=
  if s.args.ok then .next { s with sliceBanks := putAt 64 Bank.init Bank.clear s.args.n s.sliceBanks }
  else .next { s with cluBanks := putAt 32 Bank.init Bank.clear s.args.n s.cluBanks }

/-! ## Registers without a behaviour of their own (R62) -/

/-- A debug command is still in progress: its hand has not reached its run boundary. -/
def State.debugBusy (s : State) : Bool :=
  s.debugBox.busy && s.hands.any (fun h => h.haltReq && BitVec.ofNat 64 h.lid.toNat == s.debugBox.args.getD 0 0 &&
    BitVec.ofNat 64 h.hid == s.debugBox.args.getD 1 0)

/-- Argument `i` of a mailbox. -/
def Mailbox.setArg (b : Mailbox) (i : Nat) (v : DWord) : Mailbox :=
  { b with args := (List.range 7).map (fun j => if j = i then v else b.args.getD j 0) }

/-- A write to a mailbox's CMD word without GO, or to an argument. -/
def Mailbox.write (b : Mailbox) (off : Nat) (v : DWord) : Mailbox :=
  if off = 0 then { b with cmd := v.setWidth 8 } else if off < 0x40 then b.setArg ((off - 8) / 8) v else b

/-- A write to a register of one function's own blocks: the finaliser's arguments and the host wait registration. -/
def Func.write (f : Func) (off : Nat) (v : DWord) : Func :=
  if off < 0x4200 then if f.fin.busy then f else { f with fin := f.fin.write (off - 0x4100) v }
  else match off with
    | 0x4300 => { f with wait := { f.wait with key := v } }
    | 0x4308 => { f with wait := { f.wait with asid := v.setWidth 16 } }
    | 0x4310 => { f with wait := { f.wait with line := v } }
    | _ => f

/-- A word of a launch node that system software writes (R41); its "zero" fields hold nothing. -/
def Node.write (n : Node) (w : Nat) (v : DWord) : Node :=
  let x := v.toNat
  match w with
  | 0 => { n with desc := v }
  | 1 => { n with npred := BitVec.ofNat 16 x, cpred := BitVec.ofNat 16 (bits x 16 16), succ := BitVec.ofNat 16 (bits x 32 16),
                  nsucc := BitVec.ofNat 8 (bits x 48 8), nstate := BitVec.ofNat 3 (bits x 56 3) }
  | 2 => { n with ta := BitVec.ofNat 16 x, tb := BitVec.ofNat 16 (bits x 16 16), tw := BitVec.ofNat 8 (bits x 32 8) }
  | 3 => { n with prod := BitVec.ofNat 16 x }
  | 4 | 5 | 6 | 7 =>
    let lo := 64 * (w - 4)
    { n with donemap := (n.donemap &&& ~~~(BitVec.ofNat 256 (2 ^ (lo + 64) - 2 ^ lo))) ||| (v.zeroExtend 256 <<< lo) }
  | _ => n

/-- A write of system software to the tables that R62 gives no offset (log 87): `k` 1 the launch nodes of a die, by node and word; 2 its
successor array; 3 the peer window table of every die, an entry's device in [15:0] and its valid bit [16] (R155). -/
def State.tableWrite (s : State) (k d m : Nat) (v : DWord) : State :=
  match k with
  | 1 => if d < 4 ∧ m < 8192 * 8 then s.updNode d (m / 8) (fun n => n.write (m % 8) v) else s
  | 2 => if d < 4 ∧ m < 16384 then s.updDie d (fun x => { x with succ := insertK m (v.setWidth 16) x.succ }) else s
  | 3 =>
    let rest := s.peerWin.filter (fun w => w.1 ≠ m)
    if m < 256 then { s with peerWin := if v.getLsbD 16 then rest ++ [(m, v.setWidth 16)] else rest } else s
  | _ => s

/-- REGISTER_WRITE: staged fields, IVA, mailboxes that are not busy and the host wait registration hold the value; any other offset is
ignored. -/
def execRegisterWrite (s : State) : Host.Outcome State Fault Refusal :=
  let f := s.args.n
  let off := s.args.m
  let v := s.args.value
  if s.args.k ≠ 0 then .next (s.tableWrite s.args.k s.args.l off v)
  else if 64 ≤ f ∨ off % 8 ≠ 0 then .next s
  else if 0x4100 ≤ off && off < 0x4320 && !(0x4200 ≤ off && off < 0x4300) then
    .next { s with funcs := putAt 64 Func.init (fun x => x.write off v) f s.funcs }
  else if f ≠ 0 then .next s
  else if off = 0x1008 then
    .next (if s.trans.done then { s with trans := { s.trans with iva := v &&& BitVec.ofNat 64 (2 ^ 57 - 1) } } else s)
  else if 0x2000 ≤ off && off < 0x3000 then
    .next (s.updPart ((off - 0x2000) / 256) (fun p => { p with staged := p.staged.stage (off % 256 / 8) v }))
  else if 0x4000 ≤ off && off < 0x4100 then
    .next (if s.debugBusy then s else { s with debugBox := s.debugBox.write (off - 0x4000) v })
  else if 0x4200 ≤ off && off < 0x4300 then .next { s with lossBox := s.lossBox.write (off - 0x4200) v }
  else .next s

/-! ## The BARs as system software reads and writes them (R62) -/

/-- Field `v` at a bit of a word. -/
def at_ (v lo : Nat) : Nat := v * 2 ^ lo

/-- A word of a partition configuration block: the staged values, and STATUS (R63, log 87). -/
def Part.word (p : Part) (w : Nat) : Nat :=
  let c := p.staged
  match w with
  | 0 => c.clusters.toNat + at_ c.en.toNat 32 + at_ c.dbg.toNat 33 + at_ c.specsz.toNat 40 + at_ c.specreg.toNat 48 + at_ c.barb.toNat 56
  | 1 => c.cdt.toNat
  | 2 => c.htab.toNat
  | 3 => c.rlrbase.toNat
  | 4 => c.rlrblk.toNat
  | 5 => at_ p.status.toNat 1
  | _ => 0

/-- A word of a mailbox (R66). -/
def Mailbox.word (b : Mailbox) (busy : Bool) (w : Nat) : Nat :=
  if w = 0 then b.cmd.toNat + at_ busy.toNat 9 + at_ b.status.toNat 16
  else if w < 8 then (b.args.getD (w - 1) 0).toNat
  else if w < 12 then (b.res.getD (w - 8) 0).toNat
  else 0

/-- A word of a host wait registration (R67): its action is complete when it is read. -/
def HostWait.word (x : HostWait) (w : Nat) : Nat :=
  match w with
  | 0 => x.key.toNat
  | 1 => x.asid.toNat
  | 2 => x.line.toNat
  | 3 => at_ x.withdraw.toNat 1 + at_ x.status.toNat 8
  | _ => 0

/-- A word of an error bank (R222). -/
def Bank.word (b : Bank) (w : Nat) : Nat :=
  match w with
  | 0 => b.valid.toNat + at_ b.ue.toNat 1 + at_ b.ovf.toNat 2 + at_ b.disc.toNat 3 + at_ b.unit.toNat 4 + at_ b.synd.toNat 8 + at_ b.cecnt.toNat 32
  | 1 => b.loc.toNat
  | _ => 0

/-- A word of a Magpie ring (R224): record `n` stands at `n` modulo 4,096, its sequence number, unit and code in the first word and
its detail in the others (log 87). -/
def Die.magpieWord (d : Die) (i w : Nat) : Nat :=
  match d.magpie.find? (fun r => r.1.toNat % 4096 == i) with
  | none => 0
  | some r => if w = 0 then r.1.toNat + at_ (r.2.1 % 256) 32 + at_ r.2.2.1.toNat 40 else r.2.2.2.getD (w - 1) 0

/-- A word of the identity block (R62). -/
def State.identity (s : State) (f w : Nat) : Nat :=
  let b := ((s.funcs.getD f Func.init).bind).toNat
  match w with
  | 0 => s.devNum.toNat + at_ s.mgmt.alarm.toNat 16 + at_ (s.mgmt.versions.getD 1 0 % 2 ^ 32) 32
  | 1 => f + (if f = 0 then 0 else at_ (bits b 0 4) 8)
  | _ => 0

/-- What a read of an aligned word of a function's BAR gives. A word that the table of R62 does not list reads 0; so does a doorbell. -/
def State.readBar (s : State) (f off : Nat) : DWord :=
  let fn := s.funcs.getD f Func.init
  BitVec.ofNat 64 (
    if off % 8 ≠ 0 ∨ 64 ≤ f then 0
    else if off < 0x40 then s.identity f (off / 8)
    else if 0x4100 ≤ off ∧ off < 0x4200 then fn.fin.word fn.fin.busy ((off - 0x4100) / 8)
    else if 0x4300 ≤ off ∧ off < 0x4320 then fn.wait.word ((off - 0x4300) / 8)
    else if f ≠ 0 then 0
    else if off = 0x1000 then s.trans.en.toNat + s.trans.tbase.toNat
    else if off = 0x1008 then s.trans.iva.toNat
    else if off = 0x1010 then s.trans.ictl.toNat + at_ s.trans.done.toNat 63
    else if 0x2000 ≤ off ∧ off < 0x3000 then (s.part ((off - 0x2000) / 256)).word (off % 256 / 8)
    else if 0x3000 ≤ off ∧ off < 0x3040 then
      leNat ((List.range 8).map (fun i => if off - 0x3000 + i = 0 then 0 else (s.funcs.getD (off - 0x3000 + i) Func.init).bind))
    else if 0x4000 ≤ off ∧ off < 0x4100 then s.debugBox.word s.debugBusy ((off - 0x4000) / 8)
    else if 0x4200 ≤ off ∧ off < 0x4300 then s.lossBox.word false ((off - 0x4200) / 8)
    else if 0x10000 ≤ off ∧ off < 0x10400 then (s.cluBanks.getD ((off - 0x10000) / 32) Bank.init).word (off % 32 / 8)
    else if 0x10400 ≤ off ∧ off < 0x10C00 then (s.sliceBanks.getD ((off - 0x10400) / 32) Bank.init).word (off % 32 / 8)
    else if 0x20000 ≤ off ∧ off < 0xA0000 then
      (s.die ((off - 0x20000) / 0x20000)).magpieWord ((off - 0x20000) % 0x20000 / 32) (off % 32 / 8)
    else 0)

/-- The command that a mailbox's CMD word starts with GO set, with its arguments; none for a command that R66 does not list. -/
def State.mailEvents (s : State) (f off : Nat) (v : DWord) : List (Instr × StepArgs) :=
  let cmd := v.toNat % 256
  let one (i : Instr) (x : StepArgs) : List (Instr × StepArgs) := [(i, x)]
  let a (i : Nat) : DWord := s.debugBox.args.getD i 0
  let dbg : StepArgs :=
    { (default : StepArgs) with lid := (a 0).setWidth 32, n := (a 1).toNat, m := (a 2).toNat, k := (a 3).toNat, value := a 4 }
  match off, cmd with
  | 0x4000, 1 => one .debugHalt dbg
  | 0x4000, 2 => one .debugRead dbg
  | 0x4000, 3 => one .debugWrite dbg
  | 0x4000, 4 => one .debugResume dbg
  | 0x4000, 5 => one .debugStep dbg
  | 0x4100, 1 => one .finalise { (default : StepArgs) with n := f }
  | 0x4200, 1 => one .hostLossStatus default
  | 0x4200, 2 => one .hostLossReplay default
  | 0x4200, 3 => one .hostLossDrop default
  | _, _ => []

/-- The steps of the table that a write to a word of a function's BAR comes to (R62): those of the registers that act when they are
written, and REGISTER_WRITE for any other. A virtual function reaches its finaliser mailbox, host wait registration and doorbells only.
The binding bytes of one word, whose order R64 leaves open, act from the lowest one up (log 120). -/
def State.barEvents (s : State) (f off : Nat) (v : DWord) : List (Instr × StepArgs) :=
  let x : StepArgs := default
  let plain : List (Instr × StepArgs) := [(.registerWrite, { x with n := f, m := off, value := v })]
  let fn := s.funcs.getD f Func.init
  if off % 8 ≠ 0 ∨ 64 ≤ f then []
  else if 0x100000 ≤ off then
    if (off - 0x100000) / 8 < (if f = 0 then 65536 else 4096) then [(.doorbell, { x with n := f, m := (off - 0x100000) / 8, value := v })] else []
  else if off = 0x4100 then if v.getLsbD 8 then (if fn.fin.busy then [] else s.mailEvents f off v) else plain
  else if off = 0x4318 then
    if v.getLsbD 0 then
      let y : StepArgs := { x with n := f, half := fn.wait.asid, value := fn.wait.key, value2 := fn.wait.line }
      [(if v.getLsbD 1 then .hostWaitWithdraw else .hostWaitRegister, y)]
    else []
  else if f ≠ 0 then plain
  else if off = 0x1000 then [(.tbaseWrite, { x with value := v })]
  else if off = 0x1010 then [(.tlbInvalidate, { x with value := s.trans.iva, value2 := v })]
  else if 0x2000 ≤ off ∧ off < 0x3000 ∧ off % 256 = 0x28 ∧ v.getLsbD 0 = true then
    plain ++ [(.partitionCommit, { x with n := (off - 0x2000) / 256 })]
  else if 0x3000 ≤ off ∧ off < 0x3040 then
    (List.range 8).map (fun i => (.bindingWrite, { x with n := off - 0x3000 + i, code := v.extractLsb' (8 * i) 8 }))
  else if (off = 0x4000 ∨ off = 0x4200) ∧ v.getLsbD 8 = true then s.mailEvents f off v
  else if 0x10000 ≤ off ∧ off < 0x10C00 ∧ off % 32 = 16 ∧ v.getLsbD 0 = true then
    if off < 0x10400 then [(.errorBankClear, { x with n := (off - 0x10000) / 32 })]
    else [(.errorBankClear, { x with ok := true, n := (off - 0x10400) / 32 })]
  else plain

/-! ## The debug mailbox (R203) -/

/-- The debug mailbox holds a command's arguments, its status and the bytes moved. -/
def State.debugReply (s : State) (cmd : BitVec 8) (busy : Bool) (status : BitVec 16) (moved : Nat) : State :=
  let a := s.args
  { s with debugBox := {
      cmd := cmd, busy := busy, status := status,
      args := [a.lid.zeroExtend 64, BitVec.ofNat 64 a.n, BitVec.ofNat 64 a.m, BitVec.ofNat 64 a.k, a.value, 0, 0],
      res := [BitVec.ofNat 64 moved, 0, 0, 0] } }

/-- The hand that a command names: one that has not ended. -/
def State.debugHand (s : State) : Option Hand := (s.handOf s.args.lid s.args.n).filter (fun h => h.state != .done)

/-- A debug command: ignored while the mailbox is busy; REFUSED from alarm level 2 on and without debug enable; NOHAND without the
hand. -/
def debugCommand (cmd : BitVec 8) (f : Hand → State → State) (s : State) : Host.Outcome State Fault Refusal :=
  if s.debugBusy then .next s
  else if 2 ≤ s.mgmt.alarm.toNat then .next (s.debugReply cmd false 4 0)
  else match s.debugHand with
    | none => .next (s.debugReply cmd false 1 0)
    | some h => if !(s.part h.part).cfg.dbg then .next (s.debugReply cmd false 4 0) else .next (f h s)

/-- A command on a HALTED hand. -/
def haltedCommand (cmd : BitVec 8) (f : Hand → State → State) : State → Host.Outcome State Fault Refusal :=
  debugCommand cmd fun h s => if h.state != .halted then s.debugReply cmd false 2 0 else f h s

/-- DEBUG_HALT: a resident hand halts at its next run boundary, any other at once. -/
def execDebugHalt : State → Host.Outcome State Fault Refusal :=
  debugCommand 1 fun h s =>
    match h.state with
    | .ready | .running | .parked | .asleep => (s.updHand h.key (fun h => { h with haltReq := true })).debugReply 1 true 0 0
    | .swapped | .swappedAsleep =>
      (((s.unwait h.key).updHand h.key (fun h => { h with state := .halted, key64 := none })).putHeader h 21 1 1).debugReply 1 false 0 0
    | .unplaced => (s.swapOut h.key .halted).debugReply 1 false 0 0
    | _ => s.debugReply 1 false 0 0

/-- Move bytes between the spill area of a hand and a buffer in device memory, up to the first that cannot be moved: the bytes
moved. -/
def State.debugMove (h : Hand) (toArea : Bool) (buf off : Nat) : Nat → State → State × Nat
  | 0, s => (s, 0)
  | n + 1, s =>
    match s.areaLoc h off with
    | none => (s, 0)
    | some loc =>
      if h.spsz * 65536 ≤ off || !deviceExists buf then (s, 0)
      else
        let s := if toArea then s.writeBytes loc [readCell s.mem buf] (coreParty h.core)
                 else s.writeBytes buf [readCell s.mem loc] (coreParty h.core)
        let (s, m) := State.debugMove h toArea (buf + 1) (off + 1) n s
        (s, m + 1)

/-- DEBUG_READ. -/
def execDebugRead : State → Host.Outcome State Fault Refusal :=
  haltedCommand 2 fun h s =>
    let (s, n) := State.debugMove h false s.args.value.toNat s.args.m s.args.k s
    s.debugReply 2 false 0 n

/-- DEBUG_WRITE. -/
def execDebugWrite : State → Host.Outcome State Fault Refusal :=
  haltedCommand 3 fun h s =>
    let (s, n) := State.debugMove h true s.args.value.toNat s.args.m s.args.k s
    s.debugReply 3 false 0 n

/-- RESUME and STEP: a record that R205 refuses leaves the hand HALTED. -/
def resumeHand (cmd : BitVec 8) (step : Bool) : State → Host.Outcome State Fault Refusal :=
  haltedCommand cmd fun h s =>
    match s.readCtx h with
    | none => ((s.updHand h.key (fun h => { h with ctxStatus := 2 })).putHeader h 17 2 2).debugReply cmd false 3 0
    | some _ =>
      ((s.updHand h.key (fun h => { h with state := .swapped, stepHalt := step })).putHeader h 21 1 0).debugReply cmd false 0 0

/-- DEBUG_RESUME. -/
def execDebugResume : State → Host.Outcome State Fault Refusal := resumeHand 4 false

/-- DEBUG_STEP. -/
def execDebugStep : State → Host.Outcome State Fault Refusal := resumeHand 5 true

/-! ## The finaliser (R274) -/

/-- Write bytes into an address space, as far as its pages can be written. -/
def State.finWrite (s : State) (r : Reader) (asid : BitVec 16) (va : DWord) (bs : List (BitVec 8)) : State :=
  ((List.range bs.length).foldl (fun s i =>
    match s.feLoc r asid (va + BitVec.ofNat 64 i) .write with
    | .ok loc =>
      let w := wordOf loc
      s.storeWord 0 w (maskIn loc 1 w) ((bs.getD i 0).zeroExtend 64 <<< (8 * (loc - w))) [] 0 (frontParty 0)
    | .error _ => s) s)

/-- The finaliser mailbox of a function holds its status and results. -/
def State.finReply (s : State) (f : Nat) (status : BitVec 16) (res : List DWord) : State :=
  { s with funcs := putAt 64 Func.init (fun x => { x with fin := { x.fin with cmd := 1, busy := false, status := status, res := res } }) f s.funcs }

/-- The first byte of a range that is not resident, or that cannot be accessed at all. -/
def State.rangeStop (s : State) (r : Reader) (asid : BitVec 16) (va : DWord) (n : Nat) (a : Access) : Option Stop :=
  (List.range n).findSome? (fun i => match s.feLoc r asid (va + BitVec.ofNat 64 i) a with
    | .ok _ => none
    | .error e => some e)

/-- FINALISE: the firmware checks the module, turns it into native code and writes code and entry offsets. A range that it cannot
access makes the module BADHDR and the output NOSPACE; a page that is not resident is asked for, and the command stays BUSY (log
65). On a status other than OK the output range holds free bytes. -/
def execFinalise (s : State) : Host.Outcome State Fault Refusal :=
  let f := s.args.n
  let box := (s.funcs.getD f Func.init).fin
  let arg (i : Nat) : DWord := box.args.getD i 0
  let r : Reader := .finaliser f
  let asid : BitVec 16 := (arg 5).setWidth 16
  let room := (arg 3).toNat
  if 64 ≤ f then .next s
  else if !s.queues.any (fun q => q.fn = f && q.asid == asid) then .next (s.finReply f 5 [0, 0, 0, 0])
  else
    let wait (e : Stop) (status : BitVec 16) : State := match e with
      | .page va home entry =>
        { s.frontPage 0 asid va home entry with
          funcs := putAt 64 Func.init (fun x => { x with fin := { x.fin with cmd := 1, busy := true } }) f s.funcs }
      | .peer l =>
        { s.askPeer 0 r l 64 with
          funcs := putAt 64 Func.init (fun x => { x with fin := { x.fin with cmd := 1, busy := true } }) f s.funcs }
      | .bad => (s.endRead r).finReply f status [0, 0, 0, 0]
    let fail (status : BitVec 16) (at_ : Nat) : State :=
      ((s.endRead r).finWrite r asid (arg 2) ((List.range room).map (Config.ckptByte 3 s.tick))).finReply f status [0, 0, BitVec.ofNat 64 at_, 0]
    let s := s.frontTouch 0 r asid (arg 0, (arg 1).toNat)
    match s.feBytes r asid (arg 1).toNat (arg 0) with
    | .error e => .next (wait e 1)
    | .ok m =>
      if !epfHeaderOk m then .next (fail 1 0)
      else
        match epfBadRecord m with
        | some off => .next (fail 2 off)
        | none =>
          let version := s.mgmt.images.getD 3 0
          let code := epfOutput version m
          let table := (List.range (epfKernels m)).flatMap (fun k => leBytes (epfNativeEntry version m k) 8)
          if epfTooMany (epfProgram m) then .next (fail 3 0)
          else if room < code.length then .next (fail 4 0)
          else match s.rangeStop r asid (arg 2) code.length .write, s.rangeStop r asid (arg 4) table.length .write with
            | some e, _ => .next (wait e 4)
            | none, some e => .next (wait e 4)
            | none, none =>
              .next ((((s.endRead r).finWrite r asid (arg 2) code).finWrite r asid (arg 4) table).finReply f 0
                [BitVec.ofNat 64 code.length, BitVec.ofNat 64 (epfKernels m), 0, 0])

end Sys2Proof.Machine
end

