-- ==== Sys2Proof/Machine/Control.lean ====
section
/-!
DEFINITION. Class 1: branches, calls, yields, lane and predicate operations and the loop instructions (spec/13 R289 to
R306, with spec/05 R130, R134 to R141).
-/
namespace Sys2Proof.Machine

/-! ## Branches -/

/-- Give threads a PC. -/
def Hand.goto (h : Hand) (lanes : Lanes) (pc : Nat → DWord) : Hand :=
  { h with pc := (List.range 32).map (fun t => if lanes.has t then pc t &&& ~~~3 else h.pc.getD t 0) }

/-- A taken branch (R289, R138); a handler's branches leave no level (R141, log 40). -/
def State.branchTo (s : State) (i : SplitIssue) (lanes : Lanes) (pc : Nat → DWord) : State :=
  s.updHand i.hand (fun h =>
    let h := h.goto lanes pc
    if h.inTrap then h else h.leaveByBranch lanes)

/-- `bra` (R291): target X + sext64(A). -/
def execBra (w : CoreWords) (s : State) : Host.Outcome State Fault Refusal :=
  execCore {} w s fun i act s =>
    let a := w.gA
    withRegs i act s [(a, .move)] [] (w.lrNames a (.lit 0) (.lit 0)) fun h s =>
      .moved (s.branchTo i act (fun t => i.pc + (a.word h i.uni t).signExtend 64)) act

/-- Threads end (R294): they leave every level and their trap mode, windows that no thread needs are freed (R130), barriers that waited for them may complete, the yield
count is 0 and the Owl's count restarts, also while other threads of the hand go on (log 113). -/
def State.exitThreads (s : State) (k : Nat) (lanes : Lanes) : State :=
  let s := s.updHand k (fun h =>
    (({ h with exited := h.exited ||| lanes, trapMode := h.trapMode &&& ~~~lanes, yields := 0 }).leaveLevels (fun _ t => lanes.has t)).endTrapMode)
  let s := s.freeWindows k 1
  (s.barCheckAll (s.hand k)).owlReset (s.hand k).lid

/-- Write the link of threads that have come to their new depths (R292): each window keeps what other threads of it hold. -/
def State.writeLink (s : State) (i : SplitIssue) (act : Lanes) : State :=
  let put (n : Nat) (v : Word) (s : State) : State :=
    ((s.hand i.hand).places act n).foldl (fun s p => s.writePlace i.hand false (fun _ => v) 0xD p) s
  put 61 (i.next.extractLsb' 32 32) (put 60 (i.next.setWidth 32) s)

/-- The two calls (R291, R292). Room for the link is made while the threads still stand at their old depth (log 111). -/
def callOp (a : CoreWords → Operand) (target : SplitIssue → Operand → Hand → Nat → DWord) (w : CoreWords) (s : State) :
    Host.Outcome State Fault Refusal :=
  execCore {} w s fun i act s =>
    let h := s.hand i.hand
    let src := a w
    match checkSources i act h [(src, .move)] with
    | some t => .trap s t
    | none =>
      match act.list.find? (fun t => h.depthOf t == 31 || h.trapMode.has t) with
      | some t => .trap s (i.fault act 0x1B 0 (BitVec.ofNat 64 (h.depthOf t)) act)
      | none =>
        withRegs i act s [(src, .move)] [] [] fun h s =>
          let deep := s.updHand i.hand (fun h =>
            { h with depth := (List.range 32).map (fun t => if act.has t then h.depthOf t + 1 else h.depthOf t) })
          let link := ((deep.hand i.hand).places act 60 ++ (deep.hand i.hand).places act 61).map Prod.fst
          let names := src.gNames.foldl (fun acc n => acc ++ (h.places act n).map Prod.fst) []
          match s.needOf i.hand [] link names false (s.freedDsts i i.lanes (w.lrNames src (.lit 0) (.lit 0))) with
          | .job j => .stall (s.waitSquirrel i.hand i.lanes j)
          | .spillx => .trap s (i.fault act 0x13 0 (BitVec.ofNat 64 h.areaSize) act)
          | .ready =>
            let freed := s.freeNames i i.lanes (w.lrNames src (.lit 0) (.lit 0))
            let s := (freed.updHand i.hand (fun h => { h with depth := (deep.hand i.hand).depth })).writeLink i act
            .moved (s.updHand i.hand (fun h' => h'.goto act (target i src h))) act

/-- `call` (R291): X + sext64(A). -/
def execCall : CoreWords → State → Host.Outcome State Fault Refusal :=
  callOp CoreWords.gA (fun i a h t => i.pc + (a.word h i.uni t).signExtend 64)

/-- `calli` (R291): the pair, or the 64-bit literal. -/
def execCalli : CoreWords → State → Host.Outcome State Fault Refusal :=
  callOp CoreWords.pA (fun i a h t => a.val h i.uni t)

/-- `ret` (R293): back to the link of the current window; at depth 0 as `exit`, before which paired hands compare (R217). A handler's
`ret` leaves no level and frees no window: when its trap ends, its threads continue as they were (R141, R198, log 95). -/
def execRet (w : CoreWords) (s : State) : Host.Outcome State Fault Refusal :=
  execCore {} w s fun i act s =>
    let h := s.hand i.hand
    let up := Lanes.of (fun t => act.has t && h.depthOf t != 0)
    let link : Operand := .pair 60
    let back (h : Hand) (s : State) : Done :=
      let s := s.updHand i.hand (fun x =>
        let x := x.leaveLevels (fun l t => up.has t && !h.trapMode.has t && l.depth.toNat == h.depthOf t)
        { x.goto up (fun t => link.val h i.uni t) with
          depth := (List.range 32).map (fun t => if up.has t then h.depthOf t - 1 else h.depthOf t) })
      let s := if h.inTrap then s else s.freeWindows i.hand 1
      let out := act &&& ~~~up
      .moved (if out == 0 then s else s.exitThreads i.hand out) act
    if up != act && h.beforeCompare i.lanes then .stall (s.atCompare i.hand i.lanes)
    else if up == 0 then back h s
    else match poisonOf i up h link with
      | some t => .trap s { t with split := act }
      | none => withRegs i up s [(link, .move)] [] [] back

/-- `exit` (R294). -/
def execExit (w : CoreWords) (s : State) : Host.Outcome State Fault Refusal :=
  execCore { outside := true, sync := true } w s fun i act s => .moved (s.exitThreads i.hand act) act

/-- Fetch the table words that lanes of `brx` name. -/
def brxFetch (who : Nat) (asid : BitVec 16) (pc base : DWord) : List Nat → State → List (Nat × Word) →
    Except (BitVec 8 × DWord) (List (Nat × Word) × State)
  | [], s, acc => .ok (acc, s)
  | k :: ks, s, acc =>
    match s.fetchWord who asid pc (base + BitVec.ofNat 64 (4 * k)) with
    | .ok v s' => brxFetch who asid pc base ks s' ((k, v) :: acc)
    | .fault c a => .error (c, a)

/-- `brx` (R295): a table of `count` offsets follows the instruction; threads whose index lies past it trap with JTAB and
the others keep their branch (R191). -/
def execBrx (w : CoreWords) (s : State) : Host.Outcome State Fault Refusal :=
  execCore {} w s fun i act s =>
    let a := w.gA
    let count := (w.litVal.setWidth 32 : Word).toNat
    let table := i.pc + BitVec.ofNat 64 (4 * w.len)
    withRegs i act s [(a, .move)] [] [] fun h s =>
      let idx (t : Nat) : Nat := (a.word h i.uni t).toNat
      let good := Lanes.of (fun t => act.has t && idx t < count)
      let bad := act &&& ~~~good
      match brxFetch i.core h.asid i.pc table (good.list.map idx) s [] with
      | .error (c, va) => .trap s (i.fault act c 0 va act)
      | .ok (words, s) =>
        let s := if bad == 0 then s.freeNames i i.lanes (w.lrNames a (.lit 0) (.lit 0)) else s
        let target (t : Nat) : DWord := i.pc + (lookupD (idx t) 0 words).signExtend 64
        let s := s.branchTo i good target
        let tend := (i.lanes &&& ~~~act)
        let s := s.updHand i.hand (fun h => h.goto (tend &&& h.live) (fun _ => table + BitVec.ofNat 64 (4 * count)))
        if bad == 0 then .moved s good
        else .trap s { i.fault act 0x08 0 (BitVec.ofNat 64 (idx (Lanes.lowest bad))) bad with split := bad }

/-! ## Yielding -/

/-- A `yield`, or a `yieldw` that acts as one, retires (R297). -/
def State.yieldRun (s : State) (i : SplitIssue) : State :=
  let s := s.updHand i.hand (fun h => { h with yields := h.yields + 1 })
  (s.updSlot i.core i.slot (fun x => { x with ending := true, fate := .yielded })).owlReset (s.hand i.hand).lid

/-- `yield` (R297). -/
def execYield (w : CoreWords) (s : State) : Host.Outcome State Fault Refusal :=
  execCore {} w s fun i _ s => .ok (s.yieldRun i)

/-- The hand of a split falls asleep on a key. -/
def State.sleepOn (s : State) (i : SplitIssue) (key : DWord) : State :=
  let s := s.updHand i.hand (fun h => { h with key64 := some key })
  (s.updSlot i.core i.slot (fun x => { x with ending := true, fate := .asleep })).owlReset (s.hand i.hand).lid

/-- `yieldw` (R298): the hand sleeps on the key unless the word has already moved or the table is full. A word in a peer is read by RD;
the hand sleeps meanwhile, and an answer with another value, or none, makes it a `yield` (log 103). -/
def execYieldw (w : CoreWords) (s : State) : Host.Outcome State Fault Refusal :=
  execCore { edge := true } w s fun i act s =>
    withRegs i act s [(w.hA, .move), (w.hB, .move)] [] [] fun h s =>
      let key := uniVal i act h w.nameA
      if key.toNat % 8 ≠ 0 then .trap s (i.fault act 0x09 0 key act)
      else match s.translate h.asid key .read with
        | .prot => .trap s (i.fault act 0x0A 0 key act)
        | .page _ _ => .trap s (i.fault act 0x0B 0 key act)
        | .ok loc e =>
          let s := s.tlbAdd e
          match s.registerWaiter h.asid key (fun x => { x with hands := x.hands ++ [i.hand] }) with
          | none => .ok (s.yieldRun i)
          | some s' =>
            if spaceOf loc == .peer then
              let s' := { s' with reqs := s'.reqs.map (fun (r : PeerReq) => match r.use with
                | .watch k _ _ => if k = i.hand then { r with use := .none } else r
                | _ => r) }
              match s'.readPeer (coreDie h.core) loc 8 (.watch i.hand key (uniVal i act h w.nameB)) with
              | some s' => .ok (s'.sleepOn i key)
              | none => .ok ((s'.withdrawWaiter h.asid key (fun x => { x with hands := x.hands.filter (fun k => k ≠ i.hand) })).yieldRun i)
            else if (s'.lastWrite (wordOf loc)).value != uniVal i act h w.nameB then
              .ok ((s'.withdrawWaiter h.asid key (fun x => { x with hands := x.hands.filter (fun k => k ≠ i.hand) })).yieldRun i)
            else
              .ok (s'.sleepOn i key)

/-! ## Lane and predicate operations (R299 to R301) -/

/-- `elect`. -/
def execElect (w : CoreWords) (s : State) : Host.Outcome State Fault Refusal :=
  execCore {} w s fun i act s => .ok (s.writeQD i w act (fun t => t == Lanes.lowest act))

/-- A predicate result over the active lanes of one or two predicate sources. -/
def predOp (f : Hand → Lanes → Nat → Bool) (w : CoreWords) (s : State) : Host.Outcome State Fault Refusal :=
  execCore {} w s fun i act s => .ok (s.writeQD i w act (f (s.hand i.hand) act))

/-- `qany`: some active lane holds A. -/
def execQany (w : CoreWords) : State → Host.Outcome State Fault Refusal :=
  predOp (fun h act _ => act.list.any (fun t => h.readQ t w.nameA)) w

/-- `qall`: every active lane holds A. -/
def execQall (w : CoreWords) : State → Host.Outcome State Fault Refusal :=
  predOp (fun h act _ => act.list.all (fun t => h.readQ t w.nameA)) w

/-- `qmask`: the mask of the active lanes that hold A, tagged RAW32. -/
def execQmask (w : CoreWords) (s : State) : Host.Outcome State Fault Refusal :=
  execCore {} w s fun i act s =>
    withRegs i act s [] w.gDst [] fun h s =>
      let m := Lanes.of (fun t => act.has t && h.readQ t w.nameA)
      .ok (s.writeD i w act (fun _ => m) 0)

/-- `qand`. -/
def execQand (w : CoreWords) : State → Host.Outcome State Fault Refusal :=
  predOp (fun h _ t => h.readQ t w.nameA && h.readQ t w.nameB) w

/-- `qor`. -/
def execQor (w : CoreWords) : State → Host.Outcome State Fault Refusal :=
  predOp (fun h _ t => h.readQ t w.nameA || h.readQ t w.nameB) w

/-- `qxor`. -/
def execQxor (w : CoreWords) : State → Host.Outcome State Fault Refusal :=
  predOp (fun h _ t => h.readQ t w.nameA ^^ h.readQ t w.nameB) w

/-- `qnot`. -/
def execQnot (w : CoreWords) : State → Host.Outcome State Fault Refusal :=
  predOp (fun h _ t => !h.readQ t w.nameA) w

/-- Lane `s` of A's register as lane `t` names it (R300). -/
def crossLane (a : Operand) (h : Hand) (t from_ : Nat) : LaneRead :=
  match a with
  | .lit v => { value := v, tag := 0, poison := false }
  | .g n => h.readDst (h.resolve t n) from_
  | _ => LaneRead.zero

/-- The `lx` forms (R300): the source lane is a function of the lane and of B. -/
def lxOp (from_ : Nat → Nat → Nat) (w : CoreWords) (s : State) : Host.Outcome State Fault Refusal :=
  execCore {} w s fun i act s =>
    let a := w.gA
    let b := w.gB
    let h := s.hand i.hand
    let src (h : Hand) (t : Nat) : LaneRead := crossLane a h t (from_ t (b.word h i.uni t).toNat)
    let bad := Lanes.of (fun t => act.has t && (src h t).poison)
    if bad != 0 then .trap s (i.fault act 0x12 (BitVec.ofNat 16 w.nameA) (i.word0.zeroExtend 64) bad)
    else match poisonOf i act h b with
      | some t => .trap s t
      | none =>
        match s.regNeed i.hand act (a.gNames ++ b.gNames) w.gDst (s.freedDsts i i.lanes (w.lrNames a b (.lit 0))) with
        | .job j => .stall (s.waitSquirrel i.hand i.lanes j)
        | .spillx => .trap s (i.fault act 0x13 0 (BitVec.ofNat 64 h.areaSize) act)
        | .ready =>
          let from_ (m : Lanes) : Lanes := Lanes.of (fun x => m.list.any (fun t => from_ t (b.word h i.uni t).toNat == x))
          match s.scan i ((a.regs h act).map (fun p => (p.1, from_ p.2)) ++ b.regs h act) with
          | (true, s) => .kill s
          | (false, s) =>
          let s := s.freeNames i i.lanes (w.lrNames a b (.lit 0))
          .ok (s.writeDTags i w act (fun t => (src h t).value.setWidth 32) (fun t => (src h t).tag))

/-- `lx.sel`. -/
def execLxSel : CoreWords → State → Host.Outcome State Fault Refusal := lxOp (fun _ b => b % 32)

/-- `lx.rot`. -/
def execLxRot : CoreWords → State → Host.Outcome State Fault Refusal := lxOp (fun t b => (t + b) % 32)

/-- `lx.rev`. -/
def execLxRev : CoreWords → State → Host.Outcome State Fault Refusal := lxOp (fun t b => t ^^^ (2 ^ min b 5 - 1))

/-- `lx.dup`. -/
def execLxDup : CoreWords → State → Host.Outcome State Fault Refusal := lxOp (fun t b => t - t % 2 ^ min b 5)

/-- `nop` (R302). -/
def execNop (w : CoreWords) (s : State) : Host.Outcome State Fault Refusal := execCore {} w s fun _ _ s => .ok s

/-! ## Loop instructions (R303 to R305) -/

/-- The first row of R135's table that applies to a declaration, counted from 1. -/
def loopRow (h : Hand) (act : Lanes) (new : Level) (trip : Nat) : Option Nat :=
  let d := new.depth.toNat
  let outer := innermost h.lc (fun l => l.depth == new.depth)
  let enclosed : Bool := match outer with
    | none => true
    | some j => let l := h.lc.getD j default
      l.start.toNat ≤ new.start.toNat && new.end_.toNat < l.end_.toNat && (act &&& ~~~l.memb) == 0
  let overlaps : Bool := h.lc.any (fun l => l.valid && l.depth == new.depth && l.rsize != 0 && new.rsize != 0 &&
    l.base.toNat < new.base.toNat + new.rsize.toNat && new.base.toNat < l.base.toNat + l.rsize.toNat)
  let rows : List Bool :=
    [ act.list.any (fun t => h.depthOf t != d),
      h.lc.all Level.valid,
      new.end_.toNat < new.start.toNat,
      (act &&& h.trapMode) != 0,
      !enclosed,
      new.rsize != 0 && (new.base.toNat < 16 || 30 < new.base.toNat),
      overlaps,
      new.s == 0,
      trip > 0xFFFFFFFF,
      new.until_ && new.s.toNat > 1,
      new.until_ && 1 ≤ new.uq.toNat && new.uq.toNat ≤ new.s.toNat ]
  (rows.findIdx? id).map (· + 1)

/-- Declare a level in the lowest-numbered free register (R135). -/
def Hand.declare (h : Hand) (l : Level) : Hand :=
  match h.lc.findIdx? (fun x => !x.valid) with
  | none => h
  | some j =>
    let order := h.lc.foldl (fun m x => if x.valid then max m (x.order + 1) else m) 1
    driveStages { h with lc := putAt 6 default (fun _ => { l with order := order }) j h.lc } l

/-- `loop` (R303, R304): declares a level, or goes past it when the trip count is 0. -/
def execLoop (w : CoreWords) (s : State) : Host.Outcome State Fault Refusal :=
  execCore {} w s fun i act s =>
    let until_ := w.f2 23 1 == 1
    let tripLit := w.f2 28 1 == 1
    let fromH := !until_ && !tripLit
    withRegs i act s (if fromH then [(w.hA, .move)] else []) [] [] fun h s =>
      let endPc := i.pc + BitVec.ofNat 64 (4 * w.f2 0 16)
      match s.fetchWord i.core h.asid endPc endPc with
      | .fault c va => .trap s (i.fault act c 0 va act)
      | .ok word s =>
        let trip : Nat := if until_ then 0 else if tripLit then bits w.litVal.toNat 0 32
          else (uniVal i act h w.nameA).toNat
        let l : Level :=
          { start := i.next, end_ := endPc, trip := BitVec.ofNat 32 trip, pass := 0, memb := act, edge := 0,
            base := BitVec.ofNat 6 w.nameD, rsize := BitVec.ofNat 4 (w.f2 16 4), s := BitVec.ofNat 3 (w.f2 20 3),
            stg := 1, depth := BitVec.ofNat 5 (h.depthOf (Lanes.lowest act)), until_ := until_,
            uq := BitVec.ofNat 4 (w.f2 24 4), valid := true, order := 0,
            nextEnd := endPc + BitVec.ofNat 64 (4 * lenWords word) }
        match loopRow h act l trip with
        | some row => .trap s (i.faultW act (if row ≤ 5 then 0x06 else 0x07) (BitVec.ofNat 16 row))
        | none =>
          if !until_ && trip == 0 then .moved (s.updHand i.hand (fun h => h.goto act (fun _ => l.nextEnd))) act
          else .ok (s.updHand i.hand (fun h => h.declare l))

/-- The innermost level at a thread's depth of which it is a member. -/
def Hand.memberOf (h : Hand) (t : Nat) : Option Level :=
  (innermost h.lc (fun l => l.memb.has t && l.depth.toNat == h.depthOf t)).map (fun j => h.lc.getD j default)

/-- `lbrk` (R305): threads leave their innermost level and continue after its END; in trap mode as `nop`. -/
def execLbrk (w : CoreWords) (s : State) : Host.Outcome State Fault Refusal :=
  execCore {} w s fun i act s =>
    let h := s.hand i.hand
    if h.inTrap then .ok s
    else
      let members := Lanes.of (fun t => act.has t && (h.memberOf t).isSome)
      .moved (s.updHand i.hand (fun x =>
        (x.leaveLevels (fun l t => members.has t && (h.memberOf t).any (fun m => m.order == l.order))).goto members
          (fun t => ((h.memberOf t).getD default).nextEnd))) members

/-- `lnext` (R305): threads are held at the edge of their innermost level. -/
def execLnext (w : CoreWords) (s : State) : Host.Outcome State Fault Refusal :=
  execCore {} w s fun i act s =>
    let h := s.hand i.hand
    if h.inTrap then .ok s
    else
      let members := Lanes.of (fun t => act.has t && (h.memberOf t).isSome)
      let hit (l : Level) : Lanes := Lanes.of (fun t => members.has t && (h.memberOf t).any (fun m => m.order == l.order))
      .moved (s.updHand i.hand (fun x =>
        { x.goto members (fun t => ((h.memberOf t).getD default).nextEnd) with
          lc := x.lc.map (fun l => if l.valid then { l with edge := l.edge ||| hit l } else l) })) members

/-- `lend` (R305): the innermost level at each depth among the issuing threads retires. -/
def execLend (w : CoreWords) (s : State) : Host.Outcome State Fault Refusal :=
  execCore {} w s fun i act s =>
    let h := s.hand i.hand
    if h.inTrap then .ok s
    else
      let depths := (List.range 32).filter (fun d =>
        act.list.any (fun t => h.depthOf t == d && (h.memberOf t).isSome))
      .ok (s.updHand i.hand (fun x => depths.foldl (fun x d =>
        match innermost x.lc (fun l => l.depth.toNat == d) with
        | some j => x.retireLevel j
        | none => x) x))

end Sys2Proof.Machine
end

