-- ==== Sys2Proof/Machine/Dispatch.lean ====
section
/-!
DEFINITION. The meaning of each instruction.
-/
namespace Sys2Proof.Machine

def exec (i : Instr) (s : State) : Host.Outcome State Fault Refusal :=
  match i with
  | .ack port seq => Sys2Proof.Machine.execAck port seq s
  | .replay port seq => Sys2Proof.Machine.execReplay port seq s
  | .credit port freed => Sys2Proof.Machine.execCredit port freed s
  | .rd port m => Sys2Proof.Machine.execRd port m s
  | .rdr port m => Sys2Proof.Machine.execRdr port m s
  | .wr port m => Sys2Proof.Machine.execWr port m s
  | .wra port m => Sys2Proof.Machine.execWra port m s
  | .peerStep port m => Sys2Proof.Machine.execPeerStep port m s
  | .stepa port m => Sys2Proof.Machine.execStepa port m s
  | .cell port m => Sys2Proof.Machine.execCell port m s
  | .cella port m => Sys2Proof.Machine.execCella port m s
  | .nopPacket w => Sys2Proof.Machine.execNopPacket w s
  | .launch w => Sys2Proof.Machine.execLaunch w s
  | .graph w => Sys2Proof.Machine.execGraph w s
  | .wait w => Sys2Proof.Machine.execWait w s
  | .signal w => Sys2Proof.Machine.execSignal w s
  | .callib w => Sys2Proof.Machine.execCallib w s
  | .fencePacket w => Sys2Proof.Machine.execFencePacket w s
  | .writeimm w => Sys2Proof.Machine.execWriteimm w s
  | .ckpt w => Sys2Proof.Machine.execCkpt w s
  | .ckptRestore w => Sys2Proof.Machine.execCkptRestore w s
  | .unknownPacket w => Sys2Proof.Machine.execUnknownPacket w s
  | .dvRfetch w => Sys2Proof.Machine.execDvRfetch w s
  | .dvBfx w => Sys2Proof.Machine.execDvBfx w s
  | .dvSwait w => Sys2Proof.Machine.execDvSwait w s
  | .dvDisp w => Sys2Proof.Machine.execDvDisp w s
  | .add w => Sys2Proof.Machine.execAdd w s
  | .sub w => Sys2Proof.Machine.execSub w s
  | .mul w => Sys2Proof.Machine.execMul w s
  | .mulhi w => Sys2Proof.Machine.execMulhi w s
  | .mad w => Sys2Proof.Machine.execMad w s
  | .imin w => Sys2Proof.Machine.execImin w s
  | .imax w => Sys2Proof.Machine.execImax w s
  | .iand w => Sys2Proof.Machine.execIand w s
  | .ior w => Sys2Proof.Machine.execIor w s
  | .ixor w => Sys2Proof.Machine.execIxor w s
  | .andn w => Sys2Proof.Machine.execAndn w s
  | .shl w => Sys2Proof.Machine.execShl w s
  | .shr w => Sys2Proof.Machine.execShr w s
  | .sar w => Sys2Proof.Machine.execSar w s
  | .rotl w => Sys2Proof.Machine.execRotl w s
  | .clz w => Sys2Proof.Machine.execClz w s
  | .popc w => Sys2Proof.Machine.execPopc w s
  | .brev w => Sys2Proof.Machine.execBrev w s
  | .bfx w => Sys2Proof.Machine.execBfx w s
  | .bfi w => Sys2Proof.Machine.execBfi w s
  | .sel w => Sys2Proof.Machine.execSel w s
  | .cmpEq w => Sys2Proof.Machine.execCmpEq w s
  | .cmpNe w => Sys2Proof.Machine.execCmpNe w s
  | .cmpLt w => Sys2Proof.Machine.execCmpLt w s
  | .cmpLe w => Sys2Proof.Machine.execCmpLe w s
  | .lea w => Sys2Proof.Machine.execLea w s
  | .add64 w => Sys2Proof.Machine.execAdd64 w s
  | .mov w => Sys2Proof.Machine.execMov w s
  | .movl w => Sys2Proof.Machine.execMovl w s
  | .uni w => Sys2Proof.Machine.execUni w s
  | .uniChk w => Sys2Proof.Machine.execUniChk w s
  | .addH w => Sys2Proof.Machine.execAddH w s
  | .subH w => Sys2Proof.Machine.execSubH w s
  | .mulH w => Sys2Proof.Machine.execMulH w s
  | .mulhiH w => Sys2Proof.Machine.execMulhiH w s
  | .madH w => Sys2Proof.Machine.execMadH w s
  | .minH w => Sys2Proof.Machine.execMinH w s
  | .maxH w => Sys2Proof.Machine.execMaxH w s
  | .andH w => Sys2Proof.Machine.execAndH w s
  | .orH w => Sys2Proof.Machine.execOrH w s
  | .xorH w => Sys2Proof.Machine.execXorH w s
  | .andnH w => Sys2Proof.Machine.execAndnH w s
  | .shlH w => Sys2Proof.Machine.execShlH w s
  | .shrH w => Sys2Proof.Machine.execShrH w s
  | .sarH w => Sys2Proof.Machine.execSarH w s
  | .rotlH w => Sys2Proof.Machine.execRotlH w s
  | .clzH w => Sys2Proof.Machine.execClzH w s
  | .popcH w => Sys2Proof.Machine.execPopcH w s
  | .brevH w => Sys2Proof.Machine.execBrevH w s
  | .bfxH w => Sys2Proof.Machine.execBfxH w s
  | .bfiH w => Sys2Proof.Machine.execBfiH w s
  | .selH w => Sys2Proof.Machine.execSelH w s
  | .cmpEqH w => Sys2Proof.Machine.execCmpEqH w s
  | .cmpNeH w => Sys2Proof.Machine.execCmpNeH w s
  | .cmpLtH w => Sys2Proof.Machine.execCmpLtH w s
  | .cmpLeH w => Sys2Proof.Machine.execCmpLeH w s
  | .movH w => Sys2Proof.Machine.execMovH w s
  | .bra w => Sys2Proof.Machine.execBra w s
  | .brx w => Sys2Proof.Machine.execBrx w s
  | .call w => Sys2Proof.Machine.execCall w s
  | .calli w => Sys2Proof.Machine.execCalli w s
  | .ret w => Sys2Proof.Machine.execRet w s
  | .exit w => Sys2Proof.Machine.execExit w s
  | .yield w => Sys2Proof.Machine.execYield w s
  | .yieldw w => Sys2Proof.Machine.execYieldw w s
  | .elect w => Sys2Proof.Machine.execElect w s
  | .qany w => Sys2Proof.Machine.execQany w s
  | .qall w => Sys2Proof.Machine.execQall w s
  | .qmask w => Sys2Proof.Machine.execQmask w s
  | .lxSel w => Sys2Proof.Machine.execLxSel w s
  | .lxRot w => Sys2Proof.Machine.execLxRot w s
  | .lxRev w => Sys2Proof.Machine.execLxRev w s
  | .lxDup w => Sys2Proof.Machine.execLxDup w s
  | .qand w => Sys2Proof.Machine.execQand w s
  | .qor w => Sys2Proof.Machine.execQor w s
  | .qxor w => Sys2Proof.Machine.execQxor w s
  | .qnot w => Sys2Proof.Machine.execQnot w s
  | .nop w => Sys2Proof.Machine.execNop w s
  | .loop w => Sys2Proof.Machine.execLoop w s
  | .lbrk w => Sys2Proof.Machine.execLbrk w s
  | .lnext w => Sys2Proof.Machine.execLnext w s
  | .lend w => Sys2Proof.Machine.execLend w s
  | .ld w => Sys2Proof.Machine.execLd w s
  | .st w => Sys2Proof.Machine.execSt w s
  | .lds w => Sys2Proof.Machine.execLds w s
  | .sts w => Sys2Proof.Machine.execSts w s
  | .ldh w => Sys2Proof.Machine.execLdh w s
  | .pref w => Sys2Proof.Machine.execPref w s
  | .fence w => Sys2Proof.Machine.execFence w s
  | .bind w => Sys2Proof.Machine.execBind w s
  | .ldInv w => Sys2Proof.Machine.execLdInv w s
  | .ldH w => Sys2Proof.Machine.execLdH w s
  | .stH w => Sys2Proof.Machine.execStH w s
  | .ldsH w => Sys2Proof.Machine.execLdsH w s
  | .stsH w => Sys2Proof.Machine.execStsH w s
  | .prefH w => Sys2Proof.Machine.execPrefH w s
  | .ldInvH w => Sys2Proof.Machine.execLdInvH w s
  | .annFadd w => Sys2Proof.Machine.execAnnFadd w s
  | .annFmin w => Sys2Proof.Machine.execAnnFmin w s
  | .annFmax w => Sys2Proof.Machine.execAnnFmax w s
  | .annAnd w => Sys2Proof.Machine.execAnnAnd w s
  | .annOr w => Sys2Proof.Machine.execAnnOr w s
  | .annXor w => Sys2Proof.Machine.execAnnXor w s
  | .annSwap w => Sys2Proof.Machine.execAnnSwap w s
  | .annCas w => Sys2Proof.Machine.execAnnCas w s
  | .annMcas w => Sys2Proof.Machine.execAnnMcas w s
  | .annBkt w => Sys2Proof.Machine.execAnnBkt w s
  | .help w => Sys2Proof.Machine.execHelp w s
  | .coll w => Sys2Proof.Machine.execColl w s
  | .acq w => Sys2Proof.Machine.execAcq w s
  | .rel w => Sys2Proof.Machine.execRel w s
  | .barArv w => Sys2Proof.Machine.execBarArv w s
  | .barTst w => Sys2Proof.Machine.execBarTst w s
  | .bbarPost w => Sys2Proof.Machine.execBbarPost w s
  | .bbarTst w => Sys2Proof.Machine.execBbarTst w s
  | .fadd w => Sys2Proof.Machine.execFadd w s
  | .fsub w => Sys2Proof.Machine.execFsub w s
  | .fmul w => Sys2Proof.Machine.execFmul w s
  | .fma w => Sys2Proof.Machine.execFma w s
  | .fmin w => Sys2Proof.Machine.execFmin w s
  | .fmax w => Sys2Proof.Machine.execFmax w s
  | .rcp w => Sys2Proof.Machine.execRcp w s
  | .rsq w => Sys2Proof.Machine.execRsq w s
  | .ex2 w => Sys2Proof.Machine.execEx2 w s
  | .lg2 w => Sys2Proof.Machine.execLg2 w s
  | .tanh w => Sys2Proof.Machine.execTanh w s
  | .cvt w => Sys2Proof.Machine.execCvt w s
  | .pkscl w => Sys2Proof.Machine.execPkscl w s
  | .unpk w => Sys2Proof.Machine.execUnpk w s
  | .dot8 w => Sys2Proof.Machine.execDot8 w s
  | .hredAdd w => Sys2Proof.Machine.execHredAdd w s
  | .hredMin w => Sys2Proof.Machine.execHredMin w s
  | .hredMax w => Sys2Proof.Machine.execHredMax w s
  | .fcmpEq w => Sys2Proof.Machine.execFcmpEq w s
  | .fcmpNe w => Sys2Proof.Machine.execFcmpNe w s
  | .fcmpLt w => Sys2Proof.Machine.execFcmpLt w s
  | .fcmpLe w => Sys2Proof.Machine.execFcmpLe w s
  | .fcmpUn w => Sys2Proof.Machine.execFcmpUn w s
  | .ftag w => Sys2Proof.Machine.execFtag w s
  | .stag w => Sys2Proof.Machine.execStag w s
  | .faddH w => Sys2Proof.Machine.execFaddH w s
  | .fsubH w => Sys2Proof.Machine.execFsubH w s
  | .fmulH w => Sys2Proof.Machine.execFmulH w s
  | .fmaH w => Sys2Proof.Machine.execFmaH w s
  | .fminH w => Sys2Proof.Machine.execFminH w s
  | .fmaxH w => Sys2Proof.Machine.execFmaxH w s
  | .fcmpEqH w => Sys2Proof.Machine.execFcmpEqH w s
  | .fcmpNeH w => Sys2Proof.Machine.execFcmpNeH w s
  | .fcmpLtH w => Sys2Proof.Machine.execFcmpLtH w s
  | .fcmpLeH w => Sys2Proof.Machine.execFcmpLeH w s
  | .tld w => Sys2Proof.Machine.execTld w s
  | .tst w => Sys2Proof.Machine.execTst w s
  | .tcfg w => Sys2Proof.Machine.execTcfg w s
  | .mma w => Sys2Proof.Machine.execMma w s
  | .mmaWin w => Sys2Proof.Machine.execMmaWin w s
  | .gmma w => Sys2Proof.Machine.execGmma w s
  | .acz w => Sys2Proof.Machine.execAcz w s
  | .acld w => Sys2Proof.Machine.execAcld w s
  | .acst w => Sys2Proof.Machine.execAcst w s
  | .acdrain w => Sys2Proof.Machine.execAcdrain w s
  | .epi w => Sys2Proof.Machine.execEpi w s
  | .cpy w => Sys2Proof.Machine.execCpy w s
  | .wbind w => Sys2Proof.Machine.execWbind w s
  | .winq w => Sys2Proof.Machine.execWinq w s
  | .cbtakeFull w => Sys2Proof.Machine.execCbtakeFull w s
  | .cbtakeFree w => Sys2Proof.Machine.execCbtakeFree w s
  | .cbgiveFull w => Sys2Proof.Machine.execCbgiveFull w s
  | .cbgiveFree w => Sys2Proof.Machine.execCbgiveFree w s
  | .qput w => Sys2Proof.Machine.execQput w s
  | .qget w => Sys2Proof.Machine.execQget w s
  | .bkt w => Sys2Proof.Machine.execBkt w s
  | .xcntRd w => Sys2Proof.Machine.execXcntRd w s
  | .xcntClr w => Sys2Proof.Machine.execXcntClr w s
  | .rng w => Sys2Proof.Machine.execRng w s
  | .spawn w => Sys2Proof.Machine.execSpawn w s
  | .cond w => Sys2Proof.Machine.execCond w s
  | .spawncT w => Sys2Proof.Machine.execSpawncT w s
  | .spawncF w => Sys2Proof.Machine.execSpawncF w s
  | .spawncTPred w => Sys2Proof.Machine.execSpawncTPred w s
  | .spawncFPred w => Sys2Proof.Machine.execSpawncFPred w s
  | .resolve w => Sys2Proof.Machine.execResolve w s
  | .lkset w => Sys2Proof.Machine.execLkset w s
  | .lkget w => Sys2Proof.Machine.execLkget w s
  | .segq w => Sys2Proof.Machine.execSegq w s
  | .trap w => Sys2Proof.Machine.execTrap w s
  | .tret w => Sys2Proof.Machine.execTret w s
  | .srd w => Sys2Proof.Machine.execSrd w s
  | .swr w => Sys2Proof.Machine.execSwr w s
  | .uintr w => Sys2Proof.Machine.execUintr w s
  | .brk w => Sys2Proof.Machine.execBrk w s
  | .sig w => Sys2Proof.Machine.execSig w s
  | .drop w => Sys2Proof.Machine.execDrop w s
  | .encodingNotInstruction code word0 => Sys2Proof.Machine.execEncodingNotInstruction code word0 s
  | .coldStart => Sys2Proof.Machine.execColdStart s
  | .warmReset => Sys2Proof.Machine.execWarmReset s
  | .flrVf => Sys2Proof.Machine.execFlrVf s
  | .flrPf => Sys2Proof.Machine.execFlrPf s
  | .partitionReset => Sys2Proof.Machine.execPartitionReset s
  | .dutyWindow => Sys2Proof.Machine.execDutyWindow s
  | .thermalThrottle => Sys2Proof.Machine.execThermalThrottle s
  | .thermalTrip => Sys2Proof.Machine.execThermalTrip s
  | .eolUpdate => Sys2Proof.Machine.execEolUpdate s
  | .hostLinkTrain => Sys2Proof.Machine.execHostLinkTrain s
  | .portRetrain => Sys2Proof.Machine.execPortRetrain s
  | .flitChkMismatch => Sys2Proof.Machine.execFlitChkMismatch s
  | .flitUnlistedKind => Sys2Proof.Machine.execFlitUnlistedKind s
  | .ackTimer => Sys2Proof.Machine.execAckTimer s
  | .requestTimeout => Sys2Proof.Machine.execRequestTimeout s
  | .queueCreate => Sys2Proof.Machine.execQueueCreate s
  | .doorbell => Sys2Proof.Machine.execDoorbell s
  | .queueResume => Sys2Proof.Machine.execQueueResume s
  | .slotGrant => Sys2Proof.Machine.execSlotGrant s
  | .waitRereadExpiry => Sys2Proof.Machine.execWaitRereadExpiry s
  | .completionWaitExpiry => Sys2Proof.Machine.execCompletionWaitExpiry s
  | .launchComplete => Sys2Proof.Machine.execLaunchComplete s
  | .hostWaitRegister => Sys2Proof.Machine.execHostWaitRegister s
  | .hostWaitWithdraw => Sys2Proof.Machine.execHostWaitWithdraw s
  | .atomicopCompletion => Sys2Proof.Machine.execAtomicopCompletion s
  | .atomicopTimeout => Sys2Proof.Machine.execAtomicopTimeout s
  | .hostLoss => Sys2Proof.Machine.execHostLoss s
  | .hostMemoryWrite => Sys2Proof.Machine.execHostMemoryWrite s
  | .ckptCopyComplete => Sys2Proof.Machine.execCkptCopyComplete s
  | .ckptRestoreComplete => Sys2Proof.Machine.execCkptRestoreComplete s
  | .tbaseWrite => Sys2Proof.Machine.execTbaseWrite s
  | .tlbInvalidate => Sys2Proof.Machine.execTlbInvalidate s
  | .invalidateComplete => Sys2Proof.Machine.execInvalidateComplete s
  | .partitionCommit => Sys2Proof.Machine.execPartitionCommit s
  | .bindingWrite => Sys2Proof.Machine.execBindingWrite s
  | .errorBankClear => Sys2Proof.Machine.execErrorBankClear s
  | .registerWrite => Sys2Proof.Machine.execRegisterWrite s
  | .debugHalt => Sys2Proof.Machine.execDebugHalt s
  | .debugRead => Sys2Proof.Machine.execDebugRead s
  | .debugWrite => Sys2Proof.Machine.execDebugWrite s
  | .debugResume => Sys2Proof.Machine.execDebugResume s
  | .debugStep => Sys2Proof.Machine.execDebugStep s
  | .finalise => Sys2Proof.Machine.execFinalise s
  | .hostLossStatus => Sys2Proof.Machine.execHostLossStatus s
  | .hostLossReplay => Sys2Proof.Machine.execHostLossReplay s
  | .hostLossDrop => Sys2Proof.Machine.execHostLossDrop s
  | .spdmSession => Sys2Proof.Machine.execSpdmSession s
  | .quiescePartitions => Sys2Proof.Machine.execQuiescePartitions s
  | .getMeasurements => Sys2Proof.Machine.execGetMeasurements s
  | .imageUpdate => Sys2Proof.Machine.execImageUpdate s
  | .glitchDetect => Sys2Proof.Machine.execGlitchDetect s
  | .tamperBreak => Sys2Proof.Machine.execTamperBreak s
  | .debugUnlock => Sys2Proof.Machine.execDebugUnlock s
  | .placement => Sys2Proof.Machine.execPlacement s
  | .slotArbitration => Sys2Proof.Machine.execSlotArbitration s
  | .resultReturn => Sys2Proof.Machine.execResultReturn s
  | .spillComplete => Sys2Proof.Machine.execSpillComplete s
  | .refillComplete => Sys2Proof.Machine.execRefillComplete s
  | .owlExpiry => Sys2Proof.Machine.execOwlExpiry s
  | .spawnEntryArrival => Sys2Proof.Machine.execSpawnEntryArrival s
  | .deal => Sys2Proof.Machine.execDeal s
  | .resolutionApply => Sys2Proof.Machine.execResolutionApply s
  | .commitDrain => Sys2Proof.Machine.execCommitDrain s
  | .backEdge => Sys2Proof.Machine.execBackEdge s
  | .laneRetire => Sys2Proof.Machine.execLaneRetire s
  | .laneRebuild => Sys2Proof.Machine.execLaneRebuild s
  | .pageService => Sys2Proof.Machine.execPageService s
  | .storeDrain => Sys2Proof.Machine.execStoreDrain s
  | .relApply => Sys2Proof.Machine.execRelApply s
  | .acqApply => Sys2Proof.Machine.execAcqApply s
  | .bindRegister => Sys2Proof.Machine.execBindRegister s
  | .announceStep => Sys2Proof.Machine.execAnnounceStep s
  | .barArrival => Sys2Proof.Machine.execBarArrival s
  | .recordCancel => Sys2Proof.Machine.execRecordCancel s
  | .copyComplete => Sys2Proof.Machine.execCopyComplete s
  | .windowFillEnd => Sys2Proof.Machine.execWindowFillEnd s
  | .jobComplete => Sys2Proof.Machine.execJobComplete s
  | .gmmaSliceDone => Sys2Proof.Machine.execGmmaSliceDone s
  | .acdrainAdd => Sys2Proof.Machine.execAcdrainAdd s
  | .trapEntry => Sys2Proof.Machine.execTrapEntry s
  | .lossOfModulePower => Sys2Proof.Machine.execLossOfModulePower s
  | .hostCompletionTimeOut => Sys2Proof.Machine.execHostCompletionTimeOut s

end Sys2Proof.Machine
end

