-- ==== Sys2Proof/Machine/Turn.lean ====
section
/-!
DEFINITION. Which instruction comes next: the issue of a split (spec/05 R115 to R118), with its fetch and decode
(spec/12 R246, R265 to R270), a command processor's instruction (spec/02 R46), a packet, or a step of the table. Placing a
program for `State.withFetchWord` is here too.
-/
namespace Sys2Proof.Machine

/-- What a turn gives: an instruction to execute in a state, or a state in which nothing is executed. -/
inductive Prepared where
  | run (i : Instr) (s : State)
  | done (s : State)

/-- The steps of the table: what no party executes as an instruction of its own, and no flit brings. -/
def isTableStep (i : Instr) : Bool :=
  match i with
  | .encodingNotInstruction _ _ | .dvRfetch _ | .dvBfx _ | .dvSwait _ | .dvDisp _ => false
  | .ack _ _ | .replay _ _ | .credit _ _ | .rd _ _ | .rdr _ _ | .wr _ _ | .wra _ _ | .peerStep _ _ | .stepa _ _ | .cell _ _ | .cella _ _
  | .flitChkMismatch | .flitUnlistedKind => false
  | .nopPacket _ | .launch _ | .graph _ | .wait _ | .signal _ | .callib _
  | .fencePacket _ | .writeimm _ | .ckpt _ | .ckptRestore _ | .unknownPacket _ => false
  | i => i.core.isNone

/-! ## Decoding under the partition's map (R266 to R269) -/

/-- The decode table's entry of an external opcode that a fetch at `pc` is decoded under: an entry that is written while a launch of
the partition runs gives its old or its new bytes, by a free value for each fetch (R270). -/
def State.tableEntry (s : State) (p : Nat) (pc : DWord) (loc : Nat) : Nat :=
  let w := wordOf loc
  let old := s.oldestFor w (fun l => l.part = p)
  if s.lastIdx w ≤ old || Config.fetchPick s.tick pc / 2 % 2 == 1 then readN s.mem loc 2
  else ((s.writeAt w old).value.extractLsb' (8 * (loc - w)) 16).toNat

/-- The internal opcode of an external one in the fetch at `pc`, or the fault of its decode. -/
def internalOpc (s : State) (p : Nat) (pc : DWord) (opc : Nat) : Except (BitVec 8) Nat :=
  let cdt := (s.part p).cfg.cdt.toNat
  if bits cdt 4 4 = 0 then .ok opc
  else if cdt % 2 = 0 then .error 0x15
  else
    let e := s.tableEntry p pc (bits cdt 11 45 * 2 ^ 11 + 2 * opc)
    if bits e 15 1 = 0 ∨ bits e 10 5 ≠ 0 ∨ (opRow (e % 1024)).isNone then .error 0x01
    else .ok (e % 1024)

/-- Decode the words of an instruction in a partition: the instruction, or the code of R265. -/
def decodeIn (s : State) (p : Nat) (pc : DWord) (ws : List Word) : Except (BitVec 8) Instr :=
  match internalOpc s p pc (opcOf (ws.headD 0)) with
  | .error c => .error c
  | .ok opc =>
    match decodeAs opc ws with
    | .instr i => .ok i
    | .illop => .error 0x01
    | _ => .error 0x02

/-- The paired classes of R116, by internal opcode. -/
def pairedOpc (opc : Nat) : Bool :=
  opc / 64 == 5 || opc == 0x180 || (0x40 ≤ opc && opc ≤ 0x47) || opc == 0x201

/-- The instruction at an address is of a paired class, as far as it can be fetched and decoded. -/
def pairedAt (s : State) (h : Hand) (pc : DWord) : Bool :=
  match s.fetchWord h.core h.asid pc pc with
  | .ok w _ => match internalOpc s h.part pc (opcOf w) with
    | .ok opc => pairedOpc opc
    | .error _ => false
  | .fault _ _ => false

/-! ## Issue -/

/-- The address that follows an instruction; for `brx`, that follows its table (R295). -/
def nextOf (pc : DWord) (ws : List Word) (i : Instr) : DWord :=
  let len := lenWords (ws.headD 0)
  let table := match i with
    | .brx w => (w.litVal.setWidth 32 : Word).toNat
    | _ => 0
  pc + BitVec.ofNat 64 (4 * (len + table))

/-- Fetch, decode and issue the instruction of a split. One whose fetch faults counts towards the run as any other (R117). -/
def issueSplit (s : State) (c k hk : Nat) (pc : DWord) (lanes : Lanes) (uni : Uniform) (second : Bool) : Prepared :=
  let h := s.hand hk
  let mk (next : DWord) (w0 : Word) : SplitIssue :=
    { core := c, slot := k, hand := hk, pc := pc, next := next, lanes := lanes, uni := uni, word0 := w0, second := second }
  let fault (code : BitVec 8) (va : DWord) (rb : Bool) : Prepared :=
    let i := mk pc 0
    .done (((s.countIssue i rb false).raise i (i.fault lanes code 0 va lanes)).finishCycle c k)
  match s.fetchWord c h.asid pc pc with
  | .fault code va => fault code va false
  | .ok w0 s' =>
    match State.fetchWords c h.asid pc (lenWords w0 - 1) (pc + 4) s' [w0] with
    | .error (code, va) => fault code va (w0.getLsbD 3)
    | .ok (ws, s') =>
      match decodeIn s' h.part pc ws with
      | .error code => .run (.encodingNotInstruction code w0) { s' with cur := some (.split (mk pc w0)) }
      | .ok i => .run i { s' with cur := some (.split (mk (nextOf pc ws i) w0)) }

/-- The turn of an issue slot, unless issue is stopped in its cluster (R91). At a grant a trap or an interrupt is taken first (R196, R201); back edges come before the
cycle's issue (R306); then the cycle's two candidates issue, the lower PC first (R115 to R117). -/
def prepareIssue (s : State) (c k : Nat) : Prepared :=
  let sl := s.slot c k
  match sl.hand with
  | none => .done s
  | some hk =>
    let h := s.hand hk
    let args : StepArgs := default
    if h.state != .running || s.coreStops c then .done s
    else match sl.second with
    | some x => issueSplit (s.updSlot c k (fun y => { y with second := none })) c k hk x.pc (x.lanes &&& h.live) x.uni true
    | none =>
      if sl.count = 0 ∧ (h.pendTrap.isSome || h.takesInterrupt) = true then
        .run .trapEntry { s with args := { args with n := c, m := k } }
      else match h.dueLevel with
      | some l => .run .backEdge { s with args := { args with n := hk, m := l } }
      | none =>
        match h.lowestPc h.voting with
        | none => .done (s.finishCycle c k)
        | some pc =>
          let rest := h.voting &&& ~~~(h.at h.voting pc)
          let second : Option Second :=
            match h.lowestPc rest with
            | none => none
            | some pc' =>
              if sl.count + 2 > 24 then none
              else if pairedAt s h pc && pairedAt s h pc' then none
              else some { pc := pc', lanes := h.at rest pc', uni := h.uni }
          issueSplit (s.updSlot c k (fun y => { y with second := second })) c k hk pc (h.at h.voting pc) h.uni false

/-! ## Command processors -/

/-- The turn of a command processor: an instruction of the Dvorca extension, or a word in its opcode that the table does not
list, which is illegal. Any other word is one of the firmware's RV64 instructions, of which the spec gives no meaning (log 54). -/
def prepareCp (s : State) (n : Nat) : Prepared :=
  match s.cps[n]? with
  | none => .done s
  | some c =>
    match decodeDv c.word with
    | some i => .run i { s with cur := some (.cp n) }
    | none =>
      let next (c : Cp) : Cp := { c with word := Config.freeWord s.tick }
      if c.word &&& 0x7F == 0x0B then .done { s with cps := putAt 16 Cp.init (fun c => next c.illegal) n s.cps }
      else .done { s with cps := putAt 16 Cp.init next n s.cps }

/-! ## The turn -/

/-- The instruction of a turn. -/
def prepare (s : State) (t : Turn) : Prepared :=
  match t with
  | .event i x => if isTableStep i then .run i { s with args := x } else .done s
  | .flit p bs => let x := flitInstr p bs
    .run x.1 { s with args := x.2 }
  | .barRead f off => .done { s with barReply := s.readBar f off }
  | .barWrite f off v => match s.barEvents f off v with
    | [] => .done s
    | (i, x) :: es => .run i { s with args := x, agenda := es.map (fun e => .event e.1 e.2) ++ s.agenda }
  | .hostRead loc => .done (s.hostAcquire loc)
  | .engine kind n m pick picks => .done (match kind with
    | 0 => s.copyStep n pick picks
    | 1 => s.fillStep n m pick picks
    | 2 => s.workStep n m pick picks
    | 4 => s.rowArrives n m (pick.getD 0) (picks.map (fun b => BitVec.ofNat 8 b))
    | _ => s.jobStep n m pick picks)
  | .upset k d lane hard => .done (s.upset k d lane hard)
  | .badWord loc => .done (match spaceOf loc with
    | .device | .scratch => s.markBad (wordOf loc)
    | _ => s)
  | .badTile c t r n => .done (s.hitTile c t r n)
  | .corrected slice n unit loc =>
    let f (b : Bank) : Bank := b.corrected 1 unit ((Config.freeWord s.tick).setWidth 8) loc
    .done (if slice then { s with sliceBanks := putAt 64 Bank.init f n s.sliceBanks } else { s with cluBanks := putAt 32 Bank.init f n s.cluBanks })
  | .issue c k => prepareIssue s c k
  | .cp n => prepareCp s n
  | .packet d k => match s.fetchPacket d k with
    | .ok i => .run i { s.fetchedPacket d k i with cur := some (.front d) }
    | .error s' => .done s'

/-- The count of a queue's Owl advances while the Owl is COUNTING, a hand of the oldest running launch is resident, and no
checkpoint covers the partition (R90). -/
def State.owlRuns (s : State) (q : Queue) : Bool :=
  q.owl == .counting && !s.covered q.part &&
    (match s.oldestLaunch (q.fn, q.idx) with
    | some l => s.hands.any (fun h => h.lid = l.lid &&
        (h.state == .ready || h.state == .running || h.state == .parked || h.state == .asleep))
    | none => false)

/-- The sensors sample, each by its own count (R16). -/
def sampleSensors (tick : Nat) (ss : List Sensor) : List Sensor :=
  ss.mapIdx (fun i x =>
    let n := Config.sampled i tick
    if n = 0 then x else { value := Config.reading i (x.samples + n), samples := x.samples + n })

/-- Time passes, by the count of each unit (R9): the Owls count the cycles of their dies' front ends, and the sensors sample. -/
def State.passTime (s : State) : State :=
  { s with
    sensors := sampleSensors s.tick s.sensors
    queues := s.queues.map (fun q => if s.owlRuns q then { q with owlCount := q.owlCount + Config.cycles q.die s.tick } else q) }

/-- A turn of the management domain, and a cold start (R16, R28). -/
def Turn.management : Turn → Bool
  | .event i _ => match i with
    | .coldStart | .warmReset | .lossOfModulePower | .glitchDetect | .tamperBreak | .debugUnlock | .eolUpdate | .spdmSession
    | .getMeasurements | .imageUpdate => true
    | _ => false
  | _ => false

/-- A turn of the command processors and the Badger cores, which start at stage 3 of a bring-up (R28). -/
def Turn.early : Turn → Bool
  | .cp _ => true
  | .event i _ => match i with
    | .pageService => true
    | _ => false
  | _ => false

def Turn.coldStart : Turn → Bool
  | .event i _ => match i with
    | .coldStart => true
    | _ => false
  | _ => false

/-- A turn happens as the module's power and reset stand: without power only a cold start; while the module is held in reset what the
management domain does (R16, R227), and from stage 3 of a bring-up on the command processors and the Badger cores (R28). -/
def State.admits (s : State) (t : Turn) : Bool :=
  let m := s.mgmt
  if !m.heldReset then true
  else if m.bringup = 0 then t.coldStart
  else t.management || (t.early && 3 ≤ m.bringup && m.bringup < 6 && m.alarm != 3)

/-- The turn that comes next, taken from the agenda, or the free choice of Config when it is empty. -/
def State.takeTurn (s : State) : Turn × State :=
  let s := s.passTime
  match s.agenda with
  | t :: ts => (t, { s with agenda := ts, tick := s.tick + 1, cur := none })
  | [] => (Config.nextTurn s.tick, { s with tick := s.tick + 1, cur := none })

/-! ## Placing a program -/

/-- Where `placeProgram` puts the words, and the physical addresses of its translation tables. -/
def programAt : Nat := 0x100000
def tablesAt : Nat := 0x10000

/-- Tables under which ASID 1 sees device memory [0, 2^28) at the same virtual addresses, readable, writable and
executable (R151, R152). -/
def placeTables (m : List Host.Cell) : List Host.Cell :=
  let put (a v : Nat) (m : List Host.Cell) : List Host.Cell := writeCells a (leBytes v 8) m
  put (tablesAt + 8) (1 + (tablesAt + 0x4000)) (put (tablesAt + 0x4000) (1 + (tablesAt + 0x8000))
    (put (tablesAt + 0x8000) (1 + (tablesAt + 0xC000)) (put (tablesAt + 0xC000) 0xF m)))

/-- A hand of launch 0 in issue slot 0 of core 0 of partition 0, at the program, in a running run that has issued
nothing. -/
def programHand (key : Nat) : Hand :=
  let h := newHand { (default : Launch) with asid := 1, quota := 1984 } key 0 0 (BitVec.ofNat 64 programAt) [] []
  { h with state := .running, fresh := false }

/-- Place the words of a core program: the tables, the bytes, the hand, and a turn of its issue slot. -/
def State.placeProgram (s : State) (bs : List (BitVec 8)) : State :=
  let k := s.nextHand
  let s := { s with
    mem := writeCells programAt bs (placeTables s.mem),
    trans := { s.trans with en := true, tbase := BitVec.ofNat 64 tablesAt }, tlb := [],
    hands := s.hands ++ [programHand k], nextHand := k + 1,
    mgmt := { s.mgmt with heldReset := false }, agenda := [.issue 0 0] }
  let s := s.updPart 0 (fun p => { p with cfg := { p.cfg with en := true, clusters := 1, cdt := 0 } })
  s.updCore 0 (fun c => { c with
    hands := putAt 16 none (fun _ => some k) 0 c.hands,
    slots := putAt 4 Slot.init (fun x => { x with hand := some k, count := 0, second := none, ending := false }) 0 c.slots })

end Sys2Proof.Machine
end

