-- ==== Sys2Proof/Machine/Step.lean ====
section
/-!
DEFINITION. One step of the machine: the turn that comes next, its instruction, and the instruction's meaning.
-/
namespace Sys2Proof.Machine

/-- One step: the turn that comes next is prepared, and its instruction executed. A turn that the module's power
or reset does not let happen changes nothing else. -/
def step (s : State) : Host.Outcome State Fault Refusal :=
  let (t, s') := s.takeTurn
  if !s'.admits t then .next s'
  else match prepare s' t with
    | .run i s'' => exec i s''
    | .done s'' => .next s''

/-- The state with an instruction placed where the next step fetches: the words of a core program at the PC of a running
hand, or, for a word that only the command processors decode, at the fetch port of command processor 0 (log 33). -/
def State.withFetchWord (s : State) (nbits w : Nat) : State :=
  let n := w % 2 ^ nbits
  let bs : List (BitVec 8) := (List.range 20).map (fun i => BitVec.ofNat 8 (n >>> (8 * i)))
  match decodeCore (wordsOfBytes bs), decodeDv (BitVec.ofNat 32 n) with
  | .illop, some _ | .illfmt, some _ =>
    { s with
      cps := putAt 16 Cp.init (fun c => { c with word := BitVec.ofNat 32 n }) 0 s.cps,
      mgmt := { s.mgmt with heldReset := false }, agenda := [.cp 0] }
  | _, _ => s.placeProgram bs

end Sys2Proof.Machine
end

