-- ==== Sys2Proof/WellFormed.lean ====
section
/-!
DEFINITION. Well-formed instructions: the field values that an encoding admits (spec/12 R246 to R255), that the packets of a type
hold (spec/02 R36), and that name a port (spec/01 R19).
-/
namespace Sys2Proof

/-- A core instruction passes the checks of its row (R265). -/
def coreOk (opc : Nat) (w : CoreWords) : Bool :=
  match opRow opc with
  | some r => checkRow opc r w
  | none => false

/-- The type of a packet's header. -/
def packetType (w : PacketWords) : Nat := (w.hdr.extractLsb' 24 8).toNat

/-- A packet with a type, parsed by a slot of a die. -/
def packetOk (type : Nat) (w : PacketWords) : Bool := packetType w == type && w.die < 4 && w.slot < 64

/-- RESTORE of a CKPT packet. -/
def packetRestore (w : PacketWords) : Bool := w.hdr.getLsbD 1

/-- A port of the peer fabric. -/
def portOk (port : Nat) : Bool := port < 18

/-- The fields of an instruction that no core executes. -/
def Instr.otherOk : Instr → Bool
  | .dvRfetch w | .dvBfx w | .dvDisp w => w.cond == 0
  | .nopPacket w => packetOk 0 w
  | .launch w => packetOk 1 w
  | .graph w => packetOk 2 w
  | .wait w => packetOk 3 w
  | .signal w => packetOk 4 w
  | .callib w => packetOk 5 w
  | .fencePacket w => packetOk 6 w
  | .writeimm w => packetOk 7 w
  | .ckpt w => packetOk 8 w && !packetRestore w
  | .ckptRestore w => packetOk 8 w && packetRestore w
  | .unknownPacket w => 8 < packetType w && w.die < 4 && w.slot < 64
  | .ack port _ | .replay port _ | .credit port _ | .rd port _ | .rdr port _ | .wr port _ | .wra port _ | .peerStep port _
  | .stepa port _ | .cell port _ | .cella port _ => portOk port
  | .encodingNotInstruction code _ => code == 0x01 || code == 0x02 || code == 0x15
  | _ => true

/-- An instruction is well formed. -/
def Instr.wellFormed (i : Instr) : Bool :=
  match i.core with
  | some (opc, w) => coreOk opc w
  | none => i.otherOk

/-- Words encode the instruction: it is one of a core or of a command processor. -/
def Instr.hasWords (i : Instr) : Bool := !(encode i).isEmpty

end Sys2Proof
end

