-- ==== Sys2Proof/Safety.lean ====
section
/-!
DEFINITION. The vocabulary in which claims about a run are stated: an instruction that issues and may read its registers, what its
retirement leaves, and what an instruction of a hand leaves alone.
-/
namespace Sys2Proof.Machine

/-! ## Issue -/

/-- The split `i` issues an instruction with words `w`: it has an active lane, its hand does not run ahead of a
speculation (spec/04 R107), and no signature has to be compared first (spec/09 R217). -/
def Issues (s : State) (i : SplitIssue) (w : CoreWords) : Prop :=
  s.cur = some (.split i) ∧ i.active (s.hand i.hand) w ≠ 0 ∧ s.specRun (s.hand i.hand) = false ∧
    (s.hand i.hand).beforeCompare i.lanes = false

/-- The sources of an instruction pass the checks of spec/08 R193, its registers are there (spec/05 R126 to R129), and none of the
words that it reads has an error (spec/09 R220). -/
def Readable (s : State) (i : SplitIssue) (act : Lanes) (ops : List (Operand × Check)) (dsts lr : List Nat) : Prop :=
  checkSources i act (s.hand i.hand) ops = none ∧
    s.regNeed i.hand act (ops.foldl (fun acc p => acc ++ p.1.gNames) []) dsts
      (if lr.isEmpty then [] else s.freedDsts i i.lanes lr) = .ready ∧
    (s.hand i.hand).intact (regsOf (s.hand i.hand) act (ops.map Prod.fst)) = true

/-- The state in which an instruction that has read its sources takes effect: the names of its last-read bits are free (R127). -/
def State.released (s : State) (i : SplitIssue) (lr : List Nat) : State := if lr.isEmpty then s else s.freeNames i i.lanes lr

/-- An instruction that has had its effect, in `s'`, retires; `s` is the state in which it issued. `moved` are the threads to which it
has given a PC, and `outside` says that it acts outside its hand (spec/03 R86). -/
def State.finish (s : State) (i : SplitIssue) (w : CoreWords) (moved : Lanes) (outside : Bool) (s' : State) : State :=
  (s'.retire i w moved outside).logDiscards (s.hand i.hand)

/-- The run of the split goes on or ends plainly (R81): its hand runs in its slot and is not to be halted or swapped, and its threads have not
exited. -/
def RunsOn (s : State) (i : SplitIssue) : Prop :=
  (s.hand? i.hand).isSome ∧ (s.hand i.hand).core = i.core ∧ (s.slot i.core i.slot).hand = some i.hand ∧ i.lanes &&& (s.hand i.hand).exited = 0 ∧ i.lanes ≠ 0 ∧
    (s.hand i.hand).haltReq = false ∧ (s.hand i.hand).stepHalt = false ∧ (s.slot i.core i.slot).fate = .plain

/-! ## Frames -/

/-- Nothing changes outside the hands, the cores and the error banks of the clusters: no byte of memory, no order of a word, no
object, no queue. -/
def HandsOnly (s t : State) : Prop :=
  t = { s with hands := t.hands, cores := t.cores, cluBanks := t.cluBanks }

/-- Of the hands, only one changes. -/
def OtherHands (s t : State) (k : Nat) : Prop := ∀ j, j ≠ k → t.hand? j = s.hand? j

/-- Of the cores, only one changes, and of it only its free registers, its slots and its count of forced boundaries. -/
def CoreFrame (s t : State) (c : Nat) : Prop :=
  (∀ d, d ≠ c → t.core d = s.core d) ∧
    t.core c = { s.core c with pool := (t.core c).pool, slots := (t.core c).slots, forced := (t.core c).forced }

/-- Of the hand, only its g registers, its outstanding results, PCs, loop levels, parked threads, scheduling state, counts and the compare
points that it has passed change: not its h, q, k and c registers, its trap registers and trap mode, its flags, depths or exited threads, and nothing that
the ordering machine keeps for its threads, but for the views that an instruction with SW joins (R182). -/
def GOnly (sw : Bool) (h h' : Hand) : Prop :=
  h' = { h with map := h'.map, trapWin := h'.trapWin, outst := h'.outst, pc := h'.pc, lc := h'.lc, parks := h'.parks, state := h'.state,
                yields := h'.yields, seen := h'.seen, newcomer := h'.newcomer, passed := h'.passed, mem := h'.mem, owed := h'.owed } ∧
    (sw = false ∨ h.owed = [] → h'.mem = h.mem ∧ h'.owed = h.owed) ∧ ∀ t, (h'.thread t).sb = (h.thread t).sb

/-! ## The integer results of spec/13 R282 and R283, as numbers -/

/-- A 32-bit word as the number of its type: signed under S32, unsigned under N32. -/
def typed (uns : Bool) (a : Word) : Int := if uns then a.toNat else a.toInt

/-- Bit `j` of a word, as a number. -/
def bitAt (a : Word) (j : Nat) : Nat := a.toNat / 2 ^ j % 2

/-- A row of R281 with a g destination: the G and the H form, whether sources are checked to be integers (the result then carries
the type's tag), the number of sources, and the result. -/
structure IntRow where
  g : CoreWords → Instr
  h : CoreWords → Instr
  int : Bool
  sources : Nat
  result : CoreWords → Word → Word → Word → Word

def intRows : List IntRow :=
  [ ⟨.add, .addH, true, 2, fun _ a b _ => BitVec.ofNat 32 (a.toNat + b.toNat)⟩,
    ⟨.sub, .subH, true, 2, fun _ a b _ => BitVec.ofInt 32 ((a.toNat : Int) - b.toNat)⟩,
    ⟨.mul, .mulH, true, 2, fun _ a b _ => BitVec.ofNat 32 (a.toNat * b.toNat)⟩,
    ⟨.mulhi, .mulhiH, true, 2, fun w a b _ => BitVec.ofInt 32 (typed (isUnsigned w) a * typed (isUnsigned w) b / 2 ^ 32)⟩,
    ⟨.mad, .madH, true, 3, fun _ a b c => BitVec.ofNat 32 (a.toNat * b.toNat + c.toNat)⟩,
    ⟨.imin, .minH, true, 2, fun w a b _ => if typed (isUnsigned w) a ≤ typed (isUnsigned w) b then a else b⟩,
    ⟨.imax, .maxH, true, 2, fun w a b _ => if typed (isUnsigned w) a ≤ typed (isUnsigned w) b then b else a⟩ ] ++
  [ ⟨.iand, .andH, false, 2, fun _ a b _ => a &&& b⟩,
    ⟨.ior, .orH, false, 2, fun _ a b _ => a ||| b⟩,
    ⟨.ixor, .xorH, false, 2, fun _ a b _ => a ^^^ b⟩,
    ⟨.andn, .andnH, false, 2, fun _ a b _ => a &&& ~~~b⟩,
    ⟨.shl, .shlH, false, 2, fun _ a b _ => if b.toNat < 32 then BitVec.ofNat 32 (a.toNat * 2 ^ b.toNat) else 0⟩,
    ⟨.shr, .shrH, false, 2, fun _ a b _ => if b.toNat < 32 then BitVec.ofNat 32 (a.toNat / 2 ^ b.toNat) else 0⟩,
    ⟨.sar, .sarH, false, 2, fun _ a b _ => if b.toNat < 32 then BitVec.ofInt 32 (a.toInt / 2 ^ b.toNat)
      else if bitAt a 31 = 1 then 0xFFFFFFFF else 0⟩,
    ⟨.rotl, .rotlH, false, 2, fun _ a b _ =>
      BitVec.ofNat 32 (a.toNat * 2 ^ (b.toNat % 32) + a.toNat / 2 ^ (32 - b.toNat % 32))⟩ ] ++
  [ ⟨.clz, .clzH, false, 1, fun _ a _ _ => BitVec.ofNat 32 ((List.range 32).filter (fun j => a.toNat < 2 ^ j)).length⟩,
    ⟨.popc, .popcH, false, 1, fun _ a _ _ => BitVec.ofNat 32 ((List.range 32).filter (fun j => bitAt a j = 1)).length⟩,
    ⟨.brev, .brevH, false, 1, fun _ a _ _ =>
      BitVec.ofNat 32 ((List.range 32).foldl (fun n j => n + bitAt a (31 - j) * 2 ^ j) 0)⟩,
    ⟨.bfx, .bfxH, false, 1, fun w a _ _ =>
      let lo := w.f2 0 5
      let n := min (w.f2 5 6) (32 - lo)
      let f := a.toNat / 2 ^ lo % 2 ^ n
      if isUnsigned w = false ∧ 0 < n ∧ f / 2 ^ (n - 1) % 2 = 1 then BitVec.ofNat 32 (f + 2 ^ 32 - 2 ^ n)
      else BitVec.ofNat 32 f⟩,
    ⟨.bfi, .bfiH, false, 2, fun w a b _ =>
      let lo := w.f2 0 5
      let n := min (w.f2 5 6) (32 - lo)
      let m : Word := BitVec.ofNat 32 ((2 ^ n - 1) * 2 ^ lo)
      (a &&& ~~~m) ||| ((b <<< lo) &&& m)⟩ ]

/-- The comparisons of R285, on the numbers of the type: the G and the H form, and the comparison. -/
def cmpRows : List ((CoreWords → Instr) × (CoreWords → Instr) × (Int → Int → Bool)) :=
  [ (.cmpEq, .cmpEqH, fun a b => a = b), (.cmpNe, .cmpNeH, fun a b => a ≠ b), (.cmpLt, .cmpLtH, fun a b => a < b),
    (.cmpLe, .cmpLeH, fun a b => a ≤ b) ]

/-- The predicate operations of R301. -/
def predRows : List ((CoreWords → Instr) × (Bool → Bool → Bool)) :=
  [ (.qand, fun a b => a && b), (.qor, fun a b => a || b), (.qxor, fun a b => a ^^ b), (.qnot, fun a _ => !a) ]

/-- The source lane of the `lx` forms (R300), of lane `t` and the number `b`. -/
def lxRows : List ((CoreWords → Instr) × (Nat → Nat → Nat)) :=
  [ (.lxSel, fun _ b => b % 32), (.lxRot, fun t b => (t + b) % 32), (.lxRev, fun t b => t ^^^ (2 ^ min b 5 - 1)),
    (.lxDup, fun t b => t / 2 ^ min b 5 * 2 ^ min b 5) ]

/-- The instructions that are effect edges of a SPECRUN hand whatever their operands (spec/04 R107). -/
def edgeInstrs : List (CoreWords → Instr) :=
  [ .annFadd, .annFmin, .annFmax, .annAnd, .annOr, .annXor, .annSwap, .annCas, .annMcas, .annBkt, .help, .coll, .bkt, .acq, .rel, .bind,
    .barArv, .barTst, .bbarPost ] ++
  [ .gmma, .tst, .acst, .acdrain, .epi, .sig, .yieldw, .resolve, .cpy, .wbind, .cbtakeFull, .cbtakeFree, .cbgiveFull, .cbgiveFree,
    .qput, .qget, .xcntRd, .xcntClr, .uintr, .trap, .brk ]

/-- The loads of R310: scratch, invariant, and the G and the H form. -/
def loadRows : List (Bool × Bool × Bool × (CoreWords → Instr)) :=
  [ (false, false, false, .ld), (false, false, true, .ldH), (true, false, false, .lds), (true, false, true, .ldsH),
    (false, true, false, .ldInv), (false, true, true, .ldInvH) ]

/-- The stores of R311: scratch, and the G and the H form. -/
def storeRows : List (Bool × Bool × (CoreWords → Instr)) :=
  [ (false, false, .st), (false, true, .stH), (true, false, .sts), (true, true, .stsH) ]

/-- The announcements on one word (R320 to R322): the instruction, its OP, its operand B, and the operands that a lane announces. -/
def annRows : List ((CoreWords → Instr) × Nat × (CoreWords → Operand) × (CoreWords → Hand → Uniform → Nat → DWord × DWord)) :=
  let one (w : CoreWords) (h : Hand) (uni : Uniform) (t : Nat) : DWord × DWord := (lowBits (w.f2 0 3) ((annB w).val h uni t), 0)
  [ (.annFadd, 0, annB, one), (.annFmin, 1, annB, one), (.annFmax, 2, annB, one), (.annAnd, 3, annB, one), (.annOr, 4, annB, one),
    (.annXor, 5, annB, one), (.annSwap, 6, annB, one),
    (.annCas, 7, fun w => if w.f2 0 3 < 3 then w.pB else .quad w.nameB, fun w h uni t =>
      let lo := (if w.f2 0 3 < 3 then w.pB else .quad w.nameB).val h uni t
      if w.f2 0 3 < 3 then ((lo.setWidth 32 : Word).zeroExtend 64, lo >>> 32)
      else (lo, ((h.readG t (w.nameB + 3)).value <<< 32) ||| (h.readG t (w.nameB + 2)).value)),
    (.annBkt, 9, CoreWords.gB, fun w h uni t => ((w.gB.word h uni t).zeroExtend 64, 0)) ]

/-- A thread of the hand may announce: it has no uncollected record, or re-executes this instruction (R232, R400). -/
def mayAnnounce (h : Hand) (pc : DWord) (t : Nat) : Prop :=
  (h.redoOf pc t).isSome ∨ (h.ownOf t = none ∧ h.announcing t = false)

/-! ## The vector arithmetic of spec/15 -/

/-- A row of R339 or R340 over the elements of a format: the G and the H form, whether it has a third source, and the code and flags of
an element, which R240 rounds once from the exact value. -/
structure FltRow where
  g : CoreWords → Instr
  h : CoreWords → Instr
  three : Bool
  elem : CoreWords → FFmt → Nat → Nat → Nat → Nat × Flags

/-- An exact value with the flags of forming it, rounded once under RND and SAT. -/
def roundedOnce (w : CoreWords) (ff : FFmt) (r : Num × Flags) : Nat × Flags :=
  ((ff.round r.1 w.x.rnd.toNat w.x.sat).1, r.2 ||| (ff.round r.1 w.x.rnd.toNat w.x.sat).2)

def fltRows : List FltRow :=
  [ ⟨.fadd, .faddH, false, fun w ff x y _ => roundedOnce w ff ((ff.decode x).add (ff.decode y) w.x.rnd.toNat)⟩,
    ⟨.fsub, .fsubH, false, fun w ff x y _ => roundedOnce w ff ((ff.decode x).add (ff.decode y).neg w.x.rnd.toNat)⟩,
    ⟨.fmul, .fmulH, false, fun w ff x y _ => roundedOnce w ff ((ff.decode x).mul (ff.decode y))⟩,
    ⟨.fma, .fmaH, true, fun w ff x y z => roundedOnce w ff ((ff.decode x).fma (ff.decode y) (ff.decode z) w.x.rnd.toNat)⟩,
    ⟨.fmin, .fminH, false, fun _ ff x y _ => ff.minMax false x y⟩,
    ⟨.fmax, .fmaxH, false, fun _ ff x y _ => ff.minMax true x y⟩ ]

/-- The elementary functions of R341, by number. -/
def elemRows : List ((CoreWords → Instr) × Nat) := [(.rcp, 0), (.rsq, 1), (.ex2, 2), (.lg2, 3), (.tanh, 4)]

/-- The comparisons of R347: the instruction, whether it is the H form, the result on ordered values, the result where a NaN takes part,
and whether a NaN then sets INV. -/
def fcmpRows : List ((CoreWords → Instr) × Bool × (Ordering → Bool) × Bool × Bool) :=
  let eq (o : Ordering) : Bool := o == .eq
  let ne (o : Ordering) : Bool := o != .eq
  let lt (o : Ordering) : Bool := o == .lt
  let le (o : Ordering) : Bool := o != .gt
  [ (.fcmpEq, false, eq, false, false), (.fcmpEqH, true, eq, false, false), (.fcmpNe, false, ne, true, false),
    (.fcmpNeH, true, ne, true, false), (.fcmpLt, false, lt, false, true), (.fcmpLtH, true, lt, false, true),
    (.fcmpLe, false, le, false, true), (.fcmpLeH, true, le, false, true), (.fcmpUn, false, fun _ => false, true, false) ]

/-- The reductions of R346, by number. -/
def hredRows : List ((CoreWords → Instr) × Nat) := [(.hredAdd, 0), (.hredMin, 1), (.hredMax, 2)]

/-- The spawns of R382: polarity and whether the predictor gives the factor, where there is a condition. -/
def spawnRows : List ((CoreWords → Instr) × Option (Bool × Bool)) :=
  [ (.spawn, none), (.spawncT, some (true, false)), (.spawncF, some (false, false)), (.spawncTPred, some (true, true)),
    (.spawncFPred, some (false, true)) ]

/-- What `srd` gives for each listed register (R387, R388), by number, for an element and a word of it. -/
def sysRows (s : State) (i : SplitIssue) (idx wrd : Nat) : List (Nat × DWord) :=
  let h := s.hand i.hand
  let c := s.core i.core
  [ (0x00, BitVec.ofNat 64 h.hid), (0x02, h.shownLid.zeroExtend 64), (0x03, BitVec.ofNat 64 (i.core % 32 + i.core / 32 * 32)),
    (0x04, BitVec.ofNat 64 h.kid), (0x05, BitVec.ofNat 64 (s.devNum.toNat + i.core / 256 * 2 ^ 16)), (0x06, h.hstat), (0x07, h.gang),
    (0x08, (s.launch h.lid).kmin.zeroExtend 64), (0x09, h.rcell), (0x0A, c.cyc), (0x0B, (s.part h.part).cfg.cdt) ] ++
  [ (0x10, h.trapRegs.xcause), (0x11, h.trapRegs.xpc), (0x12, h.trapRegs.xval), (0x13, h.trapRegs.xmask), (0x14, h.trapRegs.xvec),
    (0x18, BitVec.ofNat 64 ((h.lc.getD idx default).image / 2 ^ (64 * wrd))), (0x19, (c.tiles.getD idx Tile.init).tsh), (0x1A, c.cbd.getD idx 0),
    (0x1B, (h.readC i.uni (Lanes.lowest i.lanes) idx).zeroExtend 64) ]

/-- What `swr` does to each register that it may write (R388), by number. -/
def sysWrites (s : State) (i : SplitIssue) (idx : Nat) (v : DWord) : List (Nat × State) :=
  let trap (f : TrapRegs → TrapRegs) : State := s.updHand i.hand (fun h => { h with trapRegs := f h.trapRegs })
  [ (0x06, s.updHand i.hand (fun h => { h with hstat := v &&& 0xFFFF001F })),
    (0x07, s.updHand i.hand (fun h =>
      if getField v 6 3 < getField h.gang 0 3 then { h with gang := setField h.gang 6 3 (getField v 6 3) } else h)),
    (0x09, s.updHand i.hand (fun h => { h with rcell := v })),
    (0x10, trap (fun x => { x with xcause := v &&& 0xFFFF03FF })), (0x11, trap (fun x => { x with xpc := v &&& ~~~3 })),
    (0x12, trap (fun x => { x with xval := v })), (0x13, trap (fun x => { x with xmask := v &&& 0xFFFFFFFF })),
    (0x14, trap (fun x => { x with xvec := v &&& ~~~2 })) ] ++
  [ (0x1A, s.updCore i.core (fun c => { c with cbd := putAt 8 0 (fun _ => v &&& 0x1FFFFFFFF) idx c.cbd })),
    (0x1B, s.updHand i.hand (fun h => { h.putC idx (v.setWidth 32) with outst := supersede (.c idx) 0xFFFFFFFF h.outst })) ]

/-- The packets with the first value that their flags may not have (R36, R37). -/
def packetRows : List ((PacketWords → Instr) × Nat) :=
  [ (.nopPacket, 1), (.launch, 2), (.graph, 2), (.wait, 4), (.signal, 4), (.callib, 1), (.fencePacket, 2), (.writeimm, 2) ]

/-- A packet has the words that its type requires, and flags below a bound (R36). -/
def formed (w : PacketWords) (bound : Nat) : Prop :=
  ((packetCount w.type).join = none ∨ (packetCount w.type).join = some w.count) ∧ w.flags < bound

/-- A packet of a queue has been executed in `s`: the queue's position moves past it (R39). -/
def State.parsed (s : State) (q : Queue) (w : PacketWords) : State := s.advance ((s.queue? (q.fn, q.idx)).getD q) (w.count + 1)

/-- A packet that is wrong leaves its queue FAULTED with a code (R35, R48). -/
def State.packetFault (s : State) (q : Queue) (code : Nat) : State := (s.dropRefusals q.asid).queueFault (q.fn, q.idx) code

/-- An instruction of a command processor in machine mode retires in `s` with a value for rd, if it has one (R46). -/
def State.cpRetires (s : State) (n : Nat) (w : DvWord) (word : Word) (rd : Option DWord) : State :=
  let put (c : Cp) : Cp :=
    { c with pc := c.pc + 4, word := word,
             x := match rd with
               | some v => if w.rd = 0 then c.x else putAt 32 0 (fun _ => v) w.rd.toNat c.x
               | none => c.x }
  { s with cps := putAt 16 Cp.init put n s.cps }

/-- An x register of a command processor; x0 is 0. -/
def Cp.reads (c : Cp) (r : BitVec 5) : DWord := if r = 0 then 0 else c.x.getD r.toNat 0

/-- An instruction that finds a fault counts as issued, raises it and has no other effect; a poisoned read is recorded (R117, R190,
R193). -/
def State.faulted (s : State) (i : SplitIssue) (w : CoreWords) (t : TrapInfo) : State :=
  (((if t.code = 0x12 then s.readPoison i.hand t.info t.mask else s).countIssue i w.rb false).raise i t).finishCycle i.core i.slot

namespace IntRow

variable (r : IntRow) (hForm : Bool) (w : CoreWords)

/-- The instruction of a form. -/
def instr : Instr := if hForm then r.h w else r.g w

/-- Its sources: A is an h register in the H form (R253). -/
def a : Operand := if hForm then w.hA else w.gA
def b : Operand := if 2 ≤ r.sources then w.gB else .lit 0
def c : Operand := if 3 ≤ r.sources then w.gC else .lit 0

/-- Its sources with the check of each. -/
def ops : List (Operand × Check) :=
  let k : Check := if r.int then .int else .move
  [(a hForm w, k), (r.b w, k), (r.c w, k)]

/-- The names that its last-read bits free. -/
def lr : List Nat := w.lrNames (a hForm w) (r.b w) (r.c w)

/-- Its result in a lane. -/
def value (h : Hand) (uni : Uniform) (t : Nat) : Word :=
  r.result w ((a hForm w).word h uni t) ((r.b w).word h uni t) ((r.c w).word h uni t)

/-- The tag of its result: the type's, or RAW32. -/
def tag : BitVec 4 := if r.int then (if isUnsigned w then 2 else 1) else 0

end IntRow

end Sys2Proof.Machine
end

