-- ==== Sys2Proof/Certificates/Slice0/Obligations.lean ====
section
/-!
DEFINITION. The statements about the model that are to be proved.
-/
open Sys2Proof Sys2Proof.Machine

/-! ## Class 0 -/

/-- R282 and R283: with its registers readable, each of the arithmetic, logic, shift and bit-field instructions, in both forms, writes its result into
D in the active lanes, with the tag of R281, and retires. -/
def Obligations.IntegerResults : Prop :=
  ∀ (s : State) (i : SplitIssue) (w : CoreWords) (r : IntRow) (hForm : Bool), r ∈ intRows → Issues s i w →
    let act := i.active (s.hand i.hand) w
    Readable s i act (r.ops hForm w) w.gDst (r.lr hForm w) →
    exec (r.instr hForm w) s = .next (s.finish i w 0 false
      ((s.released i (r.lr hForm w)).writeD i w act (r.value hForm w (s.hand i.hand) i.uni) (r.tag w)))

/-- R126, R127 and R280, the frame of the integer instructions: while the hand's run goes on or ends plainly, D reads as the result in the active
lanes; every other name, and D in every other lane whose thread has not exited, reads as before, but for names that a last-read bit frees; no other register of the hand, no
other hand, no other core and nothing else of the machine changes, so that every byte of memory stays. -/
def Obligations.IntegerFrame : Prop :=
  ∀ (s : State) (i : SplitIssue) (w : CoreWords) (r : IntRow) (hForm : Bool), r ∈ intRows → Issues s i w → RunsOn s i →
    let h := s.hand i.hand
    let act := i.active h w
    Readable s i act (r.ops hForm w) w.gDst (r.lr hForm w) →
    ∃ t, exec (r.instr hForm w) s = .next t ∧ HandsOnly s t ∧ OtherHands s t i.hand ∧ CoreFrame s t i.core ∧
      GOnly w.sw h (t.hand i.hand) ∧ t.mem = s.mem ∧
      ∀ l n, l < 32 → h.exited.has l = false →
        (n = w.nameD ∧ w.nameD ≠ w.zeroName ∧ act.has l →
          ((t.hand i.hand).readG l n).value = (r.value hForm w h i.uni l).zeroExtend 64 ∧
          ((t.hand i.hand).readG l n).poison = false) ∧
        (¬ (n = w.nameD ∧ w.nameD ≠ w.zeroName ∧ act.has l) → n ∉ r.lr hForm w →
          ((t.hand i.hand).readG l n).value = (h.readG l n).value ∧
          ((t.hand i.hand).readG l n).poison = (h.readG l n).poison)

/-- R220, for the integer instructions: a stored word with an uncorrectable error that an active lane reads kills the hand with CODE 0x12; one that
only other lanes hold is poisoned there, logged, and the instruction has its result. -/
def Obligations.StoredErrors : Prop :=
  ∀ (s : State) (i : SplitIssue) (w : CoreWords) (r : IntRow) (hForm : Bool), r ∈ intRows → Issues s i w →
    let h := s.hand i.hand
    let act := i.active h w
    let lr := r.lr hForm w
    let regs := regsOf h act ((r.ops hForm w).map Prod.fst)
    let read := (s.scan i regs).2
    checkSources i act h (r.ops hForm w) = none →
    s.regNeed i.hand act ((r.ops hForm w).foldl (fun acc p => acc ++ p.1.gNames) []) w.gDst (if lr.isEmpty then [] else s.freedDsts i i.lanes lr) = .ready →
    ((∃ p ∈ regs, (h.storedErrs p.1).1 &&& p.2 ≠ 0) → exec (r.instr hForm w) s =
      .next (((read.countIssue i w.rb false).killGang i.hand 0x12 (some i.pc) false).finishCycle i.core i.slot)) ∧
    ((∀ p ∈ regs, (h.storedErrs p.1).1 &&& p.2 = 0) → exec (r.instr hForm w) s = .next (s.finish i w 0 false
      ((read.released i lr).writeD i w act (r.value hForm w h i.uni) (r.tag w))))

/-- R284 and R287: `sel` writes A where the predicate C holds and B elsewhere, `mov` copies A, both with the tag of what they read, or MIXED where the
lanes of a register take values of different tags. R285: the comparisons write the predicate D in the active lanes, from the numbers of the type. -/
def Obligations.SelectAndCompare : Prop :=
  (∀ (s : State) (i : SplitIssue) (w : CoreWords) (hForm : Bool), Issues s i w →
     let h := s.hand i.hand
     let act := i.active h w
     let a := if hForm then w.hA else w.gA
     let pick (t : Nat) : Operand := if h.readQ t w.nameC then a else w.gB
     let lr2 := w.lrNames a w.gB (.lit 0)
     let lr1 := w.lrNames a (.lit 0) (.lit 0)
     (Readable s i act [(a, .move), (w.gB, .move)] w.gDst lr2 →
       exec (if hForm then .selH w else .sel w) s = .next (s.finish i w 0 false ((s.released i lr2).writeDTags i w act
         (fun t => (pick t).word h i.uni t) (fun t => (pick t).tag h i.uni t)))) ∧
     (Readable s i act [(a, .move)] w.gDst lr1 →
       exec (if hForm then .movH w else .mov w) s = .next (s.finish i w 0 false ((s.released i lr1).writeDTags i w act
         (fun t => a.word h i.uni t) (fun t => a.tag h i.uni t))))) ∧
  (∀ (s : State) (i : SplitIssue) (w : CoreWords) (hForm : Bool), Issues s i w →
     ∀ r ∈ cmpRows,
       let h := s.hand i.hand
       let act := i.active h w
       let a := if hForm then w.hA else w.gA
       let lr := w.lrNames a w.gB (.lit 0)
       let num (o : Operand) (t : Nat) : Int := typed (isUnsigned w) (o.word h i.uni t)
       Readable s i act [(a, .int), (w.gB, .int)] [] lr →
       exec (if hForm then r.2.1 w else r.1 w) s = .next (s.finish i w 0 false
         ((s.released i lr).writeQD i w act (fun t => r.2.2 (num a t) (num w.gB t)))))

/-- R286: `lea` and `add64` write a 64-bit sum into the pair D, D + 1, both tagged ADDR. R287 and R288: `movl` writes its literal; `uni` and `uni.chk`
promote the words A and B of the lowest active lane, with A's tag; `uni.chk` does so when no active lane differs, and raises NONUNIF for the lanes
that do. -/
def Obligations.AddressAndUniform : Prop :=
  (∀ (s : State) (i : SplitIssue) (w : CoreWords), Issues s i w →
     let h := s.hand i.hand
     let act := i.active h w
     (let lr := w.lrNames w.pA w.gB (.lit 0)
      Readable s i act [(w.pA, .int), (w.gB, .int)] w.pairDst lr →
       exec (.lea w) s = .next (s.finish i w 0 false ((s.released i lr).writePairD i w act (fun t => BitVec.ofInt 64
         (((w.pA.val h i.uni t).toNat : Int) + typed (isUnsigned w) (w.gB.word h i.uni t) * 2 ^ w.f2 0 3)) 0xD))) ∧
     (let lr := w.lrNames w.pA w.pB (.lit 0)
      Readable s i act [(w.pA, .int), (w.pB, .int)] w.pairDst lr →
       exec (.add64 w) s = .next (s.finish i w 0 false ((s.released i lr).writePairD i w act (fun t => BitVec.ofNat 64
         ((w.pA.val h i.uni t).toNat + (w.pB.val h i.uni t).toNat)) 0xD)))) ∧
  (∀ (s : State) (i : SplitIssue) (w : CoreWords), Issues s i w →
     let h := s.hand i.hand
     let act := i.active h w
     let l := Lanes.lowest act
     let lr := w.lrNames w.gA w.gB (.lit 0)
     let both (t : Nat) : DWord := BitVec.ofNat 64 ((w.gA.word h i.uni t).toNat + (w.gB.word h i.uni t).toNat * 2 ^ 32)
     let src := [(w.gA, Check.move), (w.gB, Check.move)]
     let put : Host.Outcome State Fault Refusal := .next (s.finish i w 0 false ((s.released i lr).writeH i.hand w.nameD (both l) (w.gA.tag h i.uni l)))
     exec (.movl w) s = .next (s.finish i w 0 false (s.writeH i.hand w.nameD w.litVal 0)) ∧
     (Readable s i (Lanes.one l) src [] lr → exec (.uni w) s = put) ∧
     (Readable s i act src [] lr → (∀ t ∈ act.list, both t = both l) → exec (.uniChk w) s = put) ∧
     (Readable s i act src [] lr → ∀ d, d = Lanes.of (fun t => act.has t && both t != both l) → d ≠ 0 →
       exec (.uniChk w) s = .next (s.faulted i w (i.fault act 0x03 0 (both l) d))))

/-! ## Class 1 -/

/-- R291: a taken `bra` sends each active lane to X + A, taken as a signed 32-bit offset; the other threads of the split go on at the next
instruction, every other thread stays where it is, and no byte of memory changes. -/
def Obligations.BranchTargets : Prop :=
  ∀ (s : State) (i : SplitIssue) (w : CoreWords), Issues s i w → RunsOn s i →
    let h := s.hand i.hand
    let act := i.active h w
    Readable s i act [(w.gA, .move)] [] (w.lrNames w.gA (.lit 0) (.lit 0)) →
    ∃ t, exec (.bra w) s = .next t ∧ HandsOnly s t ∧ OtherHands s t i.hand ∧
      ∀ l, l < 32 → (t.hand i.hand).pcOf l =
        if act.has l then (i.pc + (w.gA.word h i.uni l).signExtend 64) &&& ~~~3
        else if i.lanes.has l then i.next &&& ~~~3 else h.pcOf l

/-- R292, R293 and R130: a call moves each active lane one depth down, to X + A for `call` and to A for `calli`, and its link is g60 and g61 of the
new window; at depth 31 or in trap mode it raises CALLX with the depth of the lowest such lane and has no effect; a `ret` at depth 1 or more sends
each active lane to the link that g60 and g61 of its window hold, one depth up. -/
def Obligations.CallsAndReturns : Prop :=
  (∀ (s : State) (i : SplitIssue) (w : CoreWords) (indirect : Bool), Issues s i w → RunsOn s i →
     let h := s.hand i.hand
     let act := i.active h w
     let a := if indirect then w.pA else w.gA
     let deep := s.updHand i.hand (fun h =>
       { h with depth := (List.range 32).map (fun t => if act.has t then h.depthOf t + 1 else h.depthOf t) })
     Readable s i act [(a, .move)] [] [] → (∀ l ∈ act.list, h.depthOf l ≠ 31 ∧ h.trapMode.has l = false) →
     s.needOf i.hand [] (((deep.hand i.hand).places act 60 ++ (deep.hand i.hand).places act 61).map Prod.fst)
       (a.gNames.foldl (fun acc n => acc ++ (h.places act n).map Prod.fst) []) false
       (s.freedDsts i i.lanes (w.lrNames a (.lit 0) (.lit 0))) = .ready → w.x.lr = 0 →
     ∃ t, exec (if indirect then .calli w else .call w) s = .next t ∧ HandsOnly s t ∧ OtherHands s t i.hand ∧
       ∀ l, l < 32 →
         (act.has l = true → (t.hand i.hand).depthOf l = h.depthOf l + 1 ∧
           (t.hand i.hand).pcOf l =
             (if indirect then a.val h i.uni l else i.pc + (a.word h i.uni l).signExtend 64) &&& ~~~3 ∧
           ((t.hand i.hand).readG l 60).value = BitVec.ofNat 64 (i.next.toNat % 2 ^ 32) ∧
           ((t.hand i.hand).readG l 61).value = BitVec.ofNat 64 (i.next.toNat / 2 ^ 32)) ∧
         (act.has l = false → (t.hand i.hand).depthOf l = h.depthOf l ∧
           (t.hand i.hand).pcOf l = if i.lanes.has l then i.next &&& ~~~3 else h.pcOf l)) ∧
  (∀ (s : State) (i : SplitIssue) (w : CoreWords) (indirect : Bool) (l : Nat), Issues s i w →
     let h := s.hand i.hand
     let act := i.active h w
     checkSources i act h [(if indirect then w.pA else w.gA, .move)] = none →
     l ∈ act.list → (h.depthOf l = 31 ∨ h.trapMode.has l = true) →
     (∀ m ∈ act.list, m < l → h.depthOf m ≠ 31 ∧ h.trapMode.has m = false) →
     exec (if indirect then .calli w else .call w) s = .next (s.faulted i w (i.fault act 0x1B 0 (BitVec.ofNat 64 (h.depthOf l)) act))) ∧
  (∀ (s : State) (i : SplitIssue) (w : CoreWords), Issues s i w → RunsOn s i →
     let h := s.hand i.hand
     let act := i.active h w
     (∀ l ∈ act.list, h.depthOf l ≠ 0) → Readable s i act [(.pair 60, .move)] [] [] →
     ∃ t, exec (.ret w) s = .next t ∧ HandsOnly s t ∧ OtherHands s t i.hand ∧
       ∀ l, l < 32 →
         (t.hand i.hand).depthOf l = (if act.has l then h.depthOf l - 1 else h.depthOf l) ∧
         (t.hand i.hand).pcOf l =
           if act.has l then
             (((h.readG l 61).value <<< 32) ||| (h.readG l 60).value) &&& ~~~3
           else if i.lanes.has l then i.next &&& ~~~3 else h.pcOf l)

/-- R295: when every index of `brx` lies in its table and the table can be fetched, each active lane goes to X plus its table word, and the other
threads of the split go past the table. -/
def Obligations.TableBranch : Prop :=
  ∀ (s s' : State) (i : SplitIssue) (w : CoreWords) (words : List (Nat × Word)), Issues s i w →
    let h := s.hand i.hand
    let act := i.active h w
    let count := (w.litVal.setWidth 32).toNat
    let table := i.pc + BitVec.ofNat 64 (4 * w.len)
    let idx (t : Nat) : Nat := (w.gA.word h i.uni t).toNat
    Readable s i act [(w.gA, .move)] [] [] → (∀ t ∈ act.list, idx t < count) →
    brxFetch i.core h.asid i.pc table (act.list.map idx) s [] = .ok (words, s') →
    exec (.brx w) s = .next (s.finish i w act false
      (((s'.freeNames i i.lanes (w.lrNames w.gA (.lit 0) (.lit 0))).branchTo i act
        (fun t => i.pc + (lookupD (idx t) 0 words).signExtend 64)).updHand i.hand (fun x =>
          x.goto (i.lanes &&& ~~~act &&& x.live) (fun _ => table + BitVec.ofNat 64 (4 * count)))))

/-- R294, R297, R298 and R302: `exit` ends the active threads, `yield` ends the run with the threads at the next instruction, and `nop` only retires.
`yieldw` registers the hand under its key and ends the run asleep when the word still holds the expected value; otherwise it acts as `yield`, as
it does when the table has no room. Of a word in a peer it asks the peer, and sleeps meanwhile (log 103). -/
def Obligations.ExitAndYield : Prop :=
  (∀ (s : State) (i : SplitIssue) (w : CoreWords), Issues s i w →
     let act := i.active (s.hand i.hand) w
     exec (.exit w) s = .next (s.finish i w act true (s.exitThreads i.hand act)) ∧
     exec (.yield w) s = .next (s.finish i w 0 false (s.yieldRun i)) ∧
     exec (.nop w) s = .next (s.finish i w 0 false s)) ∧
  (∀ (s : State) (i : SplitIssue) (w : CoreWords) (loc : Nat) (e : TlbEntry), Issues s i w →
     let h := s.hand i.hand
     let act := i.active h w
     let key := uniVal i act h w.nameA
     let reg := (s.tlbAdd e).registerWaiter h.asid key (fun x => { x with hands := x.hands ++ [i.hand] })
     Readable s i act [(w.hA, .move), (w.hB, .move)] [] [] → key.toNat % 8 = 0 →
     s.translate h.asid key .read = .ok loc e →
     (reg = none → exec (.yieldw w) s = .next (s.finish i w 0 false ((s.tlbAdd e).yieldRun i))) ∧
     let sleeps (s' : State) : State := ((s'.updHand i.hand (fun h => { h with key64 := some key })).updSlot i.core i.slot
       (fun x => { x with ending := true, fate := .asleep })).owlReset (s'.hand i.hand).lid
     (∀ s', reg = some s' → spaceOf loc = .peer → s'.reqs = [] → ∀ s2,
       s'.readPeer (coreDie h.core) loc 8 (.watch i.hand key (uniVal i act h w.nameB)) = some s2 →
       exec (.yieldw w) s = .next (s.finish i w 0 false (sleeps s2))) ∧
     (∀ s', reg = some s' → spaceOf loc ≠ .peer → (s'.lastWrite (wordOf loc)).value = uniVal i act h w.nameB →
       exec (.yieldw w) s = .next (s.finish i w 0 false (sleeps s'))) ∧
     (∀ s', reg = some s' → spaceOf loc ≠ .peer → (s'.lastWrite (wordOf loc)).value ≠ uniVal i act h w.nameB →
       exec (.yieldw w) s = .next (s.finish i w 0 false ((s'.withdrawWaiter h.asid key
         (fun x => { x with hands := x.hands.filter (fun k => k ≠ i.hand) })).yieldRun i))))

/-- R299 and R301: `elect` holds in the lowest active lane alone, `qany` and `qall` range over the active lanes, `qmask` gives their mask, and the
predicate operations act lane by lane. R300: each `lx` form gives an active lane the word that the source lane holds in A's register, with its
tag. -/
def Obligations.PredicatesAndLanes : Prop :=
  (∀ (s : State) (i : SplitIssue) (w : CoreWords), Issues s i w →
     let h := s.hand i.hand
     let act := i.active h w
     exec (.elect w) s = .next (s.finish i w 0 false (s.writeQD i w act (fun t => act.list.all (fun u => t ≤ u)))) ∧
     exec (.qany w) s = .next (s.finish i w 0 false
       (s.writeQD i w act (fun _ => decide (∃ t ∈ act.list, h.readQ t w.nameA = true)))) ∧
     exec (.qall w) s = .next (s.finish i w 0 false
       (s.writeQD i w act (fun _ => decide (∀ t ∈ act.list, h.readQ t w.nameA = true)))) ∧
     (Readable s i act [] w.gDst [] → exec (.qmask w) s = .next (s.finish i w 0 false
       (s.writeD i w act (fun _ => Lanes.of (fun t => act.has t && h.readQ t w.nameA)) 0))) ∧
     ∀ r ∈ predRows, exec (r.1 w) s = .next (s.finish i w 0 false
       (s.writeQD i w act (fun t => r.2 (h.readQ t w.nameA) (h.readQ t w.nameB))))) ∧
  (∀ (s : State) (i : SplitIssue) (w : CoreWords), Issues s i w →
     ∀ r ∈ lxRows,
       let h := s.hand i.hand
       let act := i.active h w
       let lr := w.lrNames w.gA w.gB (.lit 0)
       let from_ (t : Nat) : LaneRead := crossLane w.gA h t (r.2 t (w.gB.word h i.uni t).toNat)
       (∀ t ∈ act.list, (from_ t).poison = false) → poisonOf i act h w.gB = none →
       s.regNeed i.hand act (w.gA.gNames ++ w.gB.gNames) w.gDst (s.freedDsts i i.lanes lr) = .ready →
       h.intact (regsOf h act [w.gA, w.gB]) = true →
       exec (r.1 w) s = .next (s.finish i w 0 false ((s.freeNames i i.lanes lr).writeDTags i w act
         (fun t => (from_ t).value.setWidth 32) (fun t => (from_ t).tag))))

/-- R135 and R304: `loop` reads the word at its END; it raises fault 0x06 or 0x07 with the first row of R135 that applies, declares its level, or,
with a trip count of 0, goes past it. In until mode the count is 0 and the level is declared. R305 and R141: outside trap mode `lbrk` takes the
members of a level out of it to the address after its END, `lnext` holds them at its edge, and `lend` retires the innermost level at each depth
among them; in trap mode all three only retire. -/
def Obligations.LoopInstructions : Prop :=
  (∀ (s s' : State) (i : SplitIssue) (w : CoreWords) (word : Word), Issues s i w →
     let h := s.hand i.hand
     let act := i.active h w
     let until_ := w.f2 23 1 == 1
     let tripLit := w.f2 28 1 == 1
     let end_ := i.pc + BitVec.ofNat 64 (4 * w.f2 0 16)
     let next := end_ + BitVec.ofNat 64 (4 * lenWords word)
     let trip : Nat := if until_ then 0 else if tripLit then w.litVal.toNat % 2 ^ 32 else (uniVal i act h w.nameA).toNat
     let l : Level :=
       { start := i.next, end_ := end_, trip := BitVec.ofNat 32 trip, pass := 0, memb := act, edge := 0, base := BitVec.ofNat 6 w.nameD,
         rsize := BitVec.ofNat 4 (w.f2 16 4), s := BitVec.ofNat 3 (w.f2 20 3), stg := 1,
         depth := BitVec.ofNat 5 (h.depthOf (Lanes.lowest act)), until_ := until_, uq := BitVec.ofNat 4 (w.f2 24 4), valid := true,
         order := 0, nextEnd := next }
     Readable s i act (if !until_ && !tripLit then [(w.hA, .move)] else []) [] [] → s.fetchWord i.core h.asid end_ end_ = .ok word s' →
     (∀ row, loopRow h act l trip = some row →
       exec (.loop w) s = .next ((if h.pendTrap.isSome then s else s').faulted i w
         (i.faultW act (if row ≤ 5 then 0x06 else 0x07) (BitVec.ofNat 16 row)))) ∧
     (loopRow h act l trip = none → trip ≠ 0 ∨ until_ = true →
       exec (.loop w) s = .next (s.finish i w 0 false (s'.updHand i.hand (fun h => h.declare l)))) ∧
     (loopRow h act l trip = none → trip = 0 → until_ = false →
       exec (.loop w) s = .next (s.finish i w act false (s'.updHand i.hand (fun h => h.goto act (fun _ => next)))))) ∧
  (∀ (s : State) (i : SplitIssue) (w : CoreWords), Issues s i w →
     let h := s.hand i.hand
     let act := i.active h w
     let members := Lanes.of (fun t => act.has t && (h.memberOf t).isSome)
     let level (t : Nat) : Level := (h.memberOf t).getD default
     let mine (l : Level) (t : Nat) : Bool := members.has t && (h.memberOf t).any (fun m => m.order == l.order)
     let depths := (List.range 32).filter (fun d => act.list.any (fun t => h.depthOf t == d && (h.memberOf t).isSome))
     (h.inTrap = true → exec (.lbrk w) s = .next (s.finish i w 0 false s) ∧
       exec (.lnext w) s = .next (s.finish i w 0 false s) ∧ exec (.lend w) s = .next (s.finish i w 0 false s)) ∧
     (h.inTrap = false →
       exec (.lbrk w) s = .next (s.finish i w members false (s.updHand i.hand (fun x =>
         (x.leaveLevels mine).goto members (fun t => (level t).nextEnd)))) ∧
       exec (.lnext w) s = .next (s.finish i w members false (s.updHand i.hand (fun x =>
         { x.goto members (fun t => (level t).nextEnd) with
           lc := x.lc.map (fun l => if l.valid then { l with edge := l.edge ||| Lanes.of (mine l) } else l) }))) ∧
       exec (.lend w) s = .next (s.finish i w 0 false (s.updHand i.hand (fun x => depths.foldl (fun x d =>
         match innermost x.lc (fun l => l.depth.toNat == d) with
         | some j => x.retireLevel j
         | none => x) x)))))

/-- R136, for a level in counted mode that is due: when PASS + 1 is below TRIP + S − 1, its members go back to START, PASS rises by 1, the stages
shift with a new one while PASS is below TRIP, and no member is at the edge; otherwise its members go past END. No other hand, and nothing else of
the machine, changes. -/
def Obligations.BackEdgeFires : Prop :=
  ∀ (s : State) (h : Hand), s.hand? s.args.n = some h → s.args.m < 6 →
    let l := h.lc.getD s.args.m default
    h.state = .running → (∀ x ∈ (s.core h.core).slots, x.hand = some s.args.n → x.second = none) →
    h.dueLevel = some s.args.m → l.until_ = false →
    ∃ t, exec .backEdge s = .next t ∧ t = { s with hands := t.hands } ∧ OtherHands s t s.args.n ∧
      (l.pass.toNat + 1 < l.trip.toNat + l.s.toNat - 1 →
        (t.hand s.args.n).lc.getD s.args.m default =
          { l with pass := l.pass + 1, edge := 0,
                   stg := ((l.stg <<< 1) ||| (if (l.pass + 1).toNat < l.trip.toNat then 1 else 0)) &&&
                     BitVec.ofNat 7 (2 ^ l.s.toNat - 1) } ∧
        ∀ x, x < 32 → l.memb.has x → (t.hand s.args.n).pc.getD x 0 = l.start) ∧
      (¬ l.pass.toNat + 1 < l.trip.toNat + l.s.toNat - 1 →
        ((t.hand s.args.n).lc.getD s.args.m default).valid = false ∧
        ∀ x, x < 32 → l.memb.has x → (t.hand s.args.n).pc.getD x 0 = l.nextEnd)

/-! ## Exceptions -/

/-- R189 and R190: a fault of disposition HAND, `trap` and `brk` are kept for the hand's next grant and end its run; nothing else changes. In a thread
that is in trap mode, or with `xvec`.EN 0, the hand fails; PAGE is served, and the split parks; CHKSUM and SIGMIS kill. A hand that runs
speculatively stops at the edge (R194). -/
def Obligations.FaultDispositions : Prop :=
  ∀ (s : State) (i : SplitIssue) (t : TrapInfo),
    let h := s.hand i.hand
    h.state = .running → h.pendTrap = none →
    (s.specRun h = true → s.raise i t = s.effectEdge i.hand) ∧
    (s.specRun h = false → ¬ (t.code = 0x0B ∧ t.kind = 0) → t.code ≠ 0x16 → t.code ≠ 0x17 → t.split &&& h.trapMode = 0 →
      h.trapRegs.xvec.getLsbD 0 = true →
      s.raise i t = (s.updHand i.hand (fun h => { h with pendTrap := some t, yields := if t.kind == 0 then h.yields else 0 })).updSlot
        i.core i.slot (fun x => { x with ending := true })) ∧
    (s.specRun h = false → ¬ (t.code = 0x0B ∧ t.kind = 0) →
      t.code = 0x16 ∨ t.code = 0x17 ∨ t.split &&& h.trapMode ≠ 0 ∨ h.trapRegs.xvec.getLsbD 0 = false →
      s.raise i t = s.killGang i.hand t.code (some i.pc) false) ∧
    (s.specRun h = false → t.code = 0x0B → t.kind = 0 → ∀ s', s' = (match s.translate h.asid t.val .read with
        | .page home e => s.requestPage h.core h.asid t.val home e
        | _ => s) →
      s.raise i t = s'.updHand i.hand (fun h => { h with parks := h.parks ++ [(t.split, .page h.asid t.val t.mask none)] }))

/-- R196, R200 and R201: at the hand's grant a pending trap writes `xcause` from its code, kind and INFO, and `xpc`, `xval` and `xmask`; the threads
of the trapped split are in trap mode, at `xvec`[63:2] × 4, with a trap window of zeros, and every other thread stays where it was. With no trap
pending and outside trap mode, a user interrupt that was set before this grant is taken for the voting split of lowest PC: its tag is INFO, its payload `xval`. -/
def Obligations.TrapEntryTakesException : Prop :=
  (∀ (s : State) (hk : Nat) (h : Hand) (t : TrapInfo),
     let c := s.args.n
     let k := s.args.m
     (s.slot c k).hand = some hk → s.hand? hk = some h → h.state = .running → (s.slot c k).count = 0 → h.pendTrap = some t →
     (t.kind = 2 → (s.part h.part).cfg.dbg = false) →
     exec .trapEntry s = .next ((s.takeTrap c k hk t).finishCycle c k) ∧
     ∀ h', h' = (s.takeTrap c k hk t).hand hk →
       h'.trapRegs.xcause.extractLsb' 0 8 = (if t.kind = 0 then t.code else 0) ∧ h'.trapRegs.xcause.extractLsb' 8 2 = t.kind ∧
       h'.trapRegs.xcause.extractLsb' 10 6 = 0 ∧ h'.trapRegs.xcause.extractLsb' 16 16 = t.info ∧
       h'.trapRegs.xcause.extractLsb' 32 32 = 0 ∧
       h'.trapRegs.xpc = t.pc ∧ h'.trapRegs.xval = t.val ∧ h'.trapRegs.xmask = t.mask.zeroExtend 64 ∧
       h'.trapRegs.xvec = h.trapRegs.xvec ∧ h'.trapMode = t.split ∧ h'.pendTrap = none ∧
       h'.trapWin = List.replicate 16 { value := List.replicate 32 0, tag := 0, poison := 0 } ∧
       (∀ l, l < 32 → h'.pc.getD l 0 = if t.split.has l then h.trapRegs.xvec &&& ~~~3 else h.pc.getD l 0) ∧
       h'.map = h.map ∧ h'.uni = h.uni ∧ h'.q = h.q ∧ h'.lc = h.lc ∧ h'.depth = h.depth ∧ h'.exited = h.exited) ∧
  (∀ (s : State) (hk : Nat) (h : Hand) (tag : BitVec 16) (payload pc : DWord),
     let c := s.args.n
     let k := s.args.m
     let lanes := h.at h.voting pc
     (s.slot c k).hand = some hk → s.hand? hk = some h → h.state = .running → (s.slot c k).count = 0 → h.pendTrap = none →
     h.pendInt = some (tag, payload) → h.intLate = false → h.inTrap = false → h.voting ≠ 0 → h.lowestPc h.voting = some pc → s.specRun h = false →
     h.trapRegs.xvec.getLsbD 0 = true →
     exec .trapEntry s = .next (((s.updHand hk (fun h => { h with pendInt := none })).takeTrap c k hk
       { code := 0, kind := 3, info := tag, pc := pc, val := payload, mask := lanes, split := lanes }).finishCycle c k))

/-- R195 and R198: `tret` takes its threads out of trap mode. When they were the last, trap mode is over and every thread of the trapped split that
has not exited continues at `xpc`, in the depth that it had at the trap's entry; until then no PC changes. Outside trap mode `tret` raises PROT. -/
def Obligations.TrapReturn : Prop :=
  ∀ (s : State) (i : SplitIssue) (w : CoreWords), Issues s i w →
    let h := s.hand i.hand
    let act := i.active h w
    let h' := h.returnFromTrap act
    (act &&& ~~~h.trapMode = 0 →
      exec (.tret w) s = .next (s.finish i w act false (s.updHand i.hand (fun h => h.returnFromTrap act))) ∧
      (h.trapMode &&& ~~~act &&& h.live ≠ 0 → h'.trapMode = h.trapMode &&& ~~~act ∧ h'.pc = h.pc) ∧
      (h.trapMode &&& ~~~act &&& h.live = 0 → h.trapSplit ≠ 0 → h'.trapMode = 0 ∧ h'.lc = h.lc ∧
        ∀ l, l < 32 →
          (h.trapDepth ≠ [] → h'.depthOf l = if h.trapSplit.has l then h.trapDepth.getD l 0 else h.depthOf l) ∧
          h'.pc.getD l 0 = if h.trapSplit.has l && h.live.has l then h.trapRegs.xpc else h.pc.getD l 0)) ∧
    (act &&& ~~~h.trapMode ≠ 0 →
      exec (.tret w) s = .next (s.faulted i w (i.faultW act 0x0A 0)))

/-- R389 and R265: `trap` and `brk` raise a trap of kind 1 and 2 with the immediate as INFO, `trap` with the next address as its PC; a word that is no
instruction raises its fault for the whole split, with the word as `xval`. -/
def Obligations.TrapInstructions : Prop :=
  ∀ (s : State) (i : SplitIssue) (w : CoreWords),
    let act := i.active (s.hand i.hand) w
    (Issues s i w →
      let info (k : BitVec 2) (pc : DWord) : TrapInfo :=
        { code := 0, kind := k, info := w.litVal.setWidth 16, pc := pc, val := 0, mask := act, split := act }
      exec (.trap w) s = .next (s.faulted i w (info 1 i.next)) ∧ exec (.brk w) s = .next (s.faulted i w (info 2 i.pc))) ∧
    ∀ (code : BitVec 8) (word0 : Word), s.cur = some (.split i) →
      exec (.encodingNotInstruction code word0) s = .next ((s.raise i
        { code := code, kind := 0, info := 0, pc := i.pc, val := word0.zeroExtend 64, mask := i.lanes, split := i.lanes }).finishCycle
          i.core i.slot)

/-- R131, R132, R133 and R193: the sources of an integer instruction pass when no active lane reads poison, a MIXED register, or another tag than
RAW32, S32, N32 and ADDR; otherwise the first of POISON, TAGMIX and TAGMIS that applies is raised, and the instruction has no other effect. -/
def Obligations.SourceFaults : Prop :=
  ∀ (s : State) (i : SplitIssue) (w : CoreWords) (r : IntRow) (hForm : Bool), r ∈ intRows → Issues s i w →
    let h := s.hand i.hand
    let act := i.active h w
    let found (int : Bool) (p : LaneRead → Bool) : Prop :=
      ∃ o ∈ r.ops hForm w, (int = true → o.2 = .int) ∧ ∃ t ∈ act.list, ∃ x ∈ o.1.reads h i.uni t, p x.2 = true
    let poison := found false (fun x => x.poison)
    let mixed := found true (fun x => x.tag == 0xE)
    let mistag := found true (fun x => !(x.tag == 0 || x.tag == 1 || x.tag == 2 || x.tag == 0xD))
    (checkSources i act h (r.ops hForm w) = none ↔ ¬ poison ∧ ¬ mixed ∧ ¬ mistag) ∧
    ∀ t, checkSources i act h (r.ops hForm w) = some t →
      (poison → t.code = 0x12) ∧ (¬ poison → mixed → t.code = 0x05) ∧ (¬ poison → ¬ mixed → t.code = 0x04) ∧ t.kind = 0 ∧
      t.pc = i.pc ∧ t.split = act ∧ t.val = i.word0.zeroExtend 64 ∧
      exec (r.instr hForm w) s = .next (s.faulted i w t)

/-- R254: an instruction of any class with no active lane only retires. R107: at each instruction that is an effect edge, a SPECRUN hand with an
active lane does not execute it: its context is saved, its place is free and its segment waits at the edge. -/
def Obligations.IdleLanesAndEdges : Prop :=
  (∀ (s : State) (i : SplitIssue) (ins : Instr) (opc : Nat) (w : CoreWords), ins.core = some (opc, w) → s.cur = some (.split i) →
     i.active (s.hand i.hand) w = 0 → exec ins s = .next (s.retire i w 0 false)) ∧
  (∀ (s : State) (i : SplitIssue) (w : CoreWords) (ins : CoreWords → Instr), ins ∈ edgeInstrs → s.cur = some (.split i) →
     i.active (s.hand i.hand) w ≠ 0 → s.specRun (s.hand i.hand) = true →
     exec (ins w) s = .next ((s.effectEdge i.hand).finishCycle i.core i.slot))

/-! ## Steps -/

/-- A step runs the decoded instruction: when it is the turn of an issue slot whose hand has no trap, interrupt or back edge to take, and the words at
the lowest PC of its voting threads decode to an instruction, the step is that instruction's execution, issued by the threads at that PC; the
other port's split, if there is one, is kept for the slot's next turn. The issue is not stopped in the core's cluster (R91). A word that does not decode raises its fault. The
order in which steps come is the model's choice (log 5), and so is which write a fetched word reads (log 28). -/
def Obligations.StepRunsDecoded : Prop :=
  ∀ (s s1 s2 : State) (c k hk : Nat) (rest : List Turn) (pc : DWord) (w0 : Word) (ws : List Word),
    let s0 := { s.passTime with agenda := rest, tick := s.tick + 1, cur := none }
    let h := s0.hand hk
    let lanes := h.at h.voting pc
    let others := h.voting &&& ~~~lanes
    let second : Option Second := match h.lowestPc others with
      | none => none
      | some pc' =>
        if (s0.slot c k).count + 2 > 24 then none
        else if pairedAt s0 h pc && pairedAt s0 h pc' then none
        else some { pc := pc', lanes := h.at others pc', uni := h.uni }
    let split (next : DWord) : SplitIssue :=
      { core := c, slot := k, hand := hk, pc := pc, next := next, lanes := lanes, uni := h.uni, word0 := w0, second := false }
    s.agenda = .issue c k :: rest → s.mgmt.heldReset = false → s0.coreStops c = false →
    (s0.slot c k).hand = some hk → (s0.slot c k).second = none → h.state = .running →
    ((s0.slot c k).count ≠ 0 ∨ h.pendTrap = none ∧ h.takesInterrupt = false) → h.dueLevel = none → h.lowestPc h.voting = some pc →
    let sx := s0.updSlot c k (fun y => { y with second := second })
    sx.fetchWord c (sx.hand hk).asid pc pc = .ok w0 s1 → State.fetchWords c (sx.hand hk).asid pc (lenWords w0 - 1) (pc + 4) s1 [w0] = .ok (ws, s2) →
    (∀ i, decodeIn s2 (sx.hand hk).part pc ws = .ok i →
      step s = exec i { s2 with cur := some (.split (split (nextOf pc ws i))) }) ∧
    (∀ code, decodeIn s2 (sx.hand hk).part pc ws = .error code →
      step s = exec (.encodingNotInstruction code w0) { s2 with cur := some (.split (split pc)) })

/-- The other turns: a step of the table runs with its input, a flit or a register write as the step that it is, a command processor runs the word at its fetch port, a packet is the one at its slot's
queue, whose header and data have been read (log 50). Held in reset with no bring-up under way the module answers only a cold start; during a
bring-up only the management domain acts, and from stage 3 on the command processors and the Badger cores too (R16, R28, R227). The order in which steps come is the model's choice (log 5). -/
def Obligations.OtherTurns : Prop :=
  ∀ (s : State) (t : Turn) (rest : List Turn), s.agenda = t :: rest →
    let s0 := { s.passTime with agenda := rest, tick := s.tick + 1, cur := none }
    (s.mgmt.heldReset = true → s.mgmt.bringup = 0 → t.coldStart = false → step s = .next s0) ∧
    (s.mgmt.heldReset = true → s.mgmt.bringup ≠ 0 → t.management = false →
      (t.early = false ∨ s.mgmt.bringup < 3 ∨ 6 ≤ s.mgmt.bringup ∨ s.mgmt.alarm = 3) → step s = .next s0) ∧
    (s.mgmt.heldReset = false ∨ (s.mgmt.bringup = 0 ∧ t.coldStart = true) ∨ (s.mgmt.bringup ≠ 0 ∧ t.management = true) ∨
        (3 ≤ s.mgmt.bringup ∧ s.mgmt.bringup < 6 ∧ s.mgmt.alarm ≠ 3 ∧ t.early = true) →
      (∀ i x, t = .event i x → isTableStep i = true → step s = exec i { s0 with args := x }) ∧
      (∀ p bs, t = .flit p bs → step s = exec (flitInstr p bs).1 { s0 with args := (flitInstr p bs).2 }) ∧
      (∀ f off v i x es, t = .barWrite f off v → s0.barEvents f off v = (i, x) :: es →
        step s = exec i { s0 with args := x, agenda := es.map (fun e => .event e.1 e.2) ++ rest }) ∧
      (∀ n (c : Cp) i, t = .cp n → s0.cps[n]? = some c → decodeDv c.word = some i →
        step s = exec i { s0 with cur := some (.cp n) }) ∧
      (∀ d n i, t = .packet d n → s0.fetchPacket d n = .ok i →
        step s = exec i { s0.fetchedPacket d n i with cur := some (.front d) }))

/-! ## Encoding -/

/-- R246 to R250 and R46: decoding the words that encode a well-formed instruction gives it back, with every field at every value that its encoding
admits. -/
def Obligations.DecodeEncode : Prop :=
  ∀ i : Instr, i.wellFormed = true → i.hasWords = true → decode (encode i) = some i

/-! ## Reset -/

/-- What reset leaves: no hand, launch, queue, record or outstanding request, memory without a byte listed, no partition enabled, translation
disabled, the alarm at level 0 and every port up with its credit. What the spec gives no value for has the value that logs 3, 26 and 71 name. -/
def Obligations.ResetState : Prop :=
  let s := State.reset
  s.hands = [] ∧ s.launches = [] ∧ s.queues = [] ∧ s.recs = [] ∧ s.reqs = [] ∧ s.mem = [] ∧ Memory.wf s.mem = true ∧
  (∀ p, p < 16 → (s.part p).cfg.en = false ∧ (s.part p).cfg.clusters = 0) ∧ s.trans.en = false ∧ s.trans.tbase = 0 ∧
  s.mgmt.alarm = 0 ∧ (∀ n, n < 18 → ((s.ports.getD n Port.init).up = true ∧ (s.ports.getD n Port.init).credit = 512))

/-! ## Class 2 -/

/-- R310: a load whose addresses pass their checks becomes outstanding, with the location of each active lane, its type, its acquire scope and the
stores of its thread that are older; nothing is read yet. -/
def Obligations.LoadsIssue : Prop :=
  ∀ (s s' : State) (i : SplitIssue) (w : CoreWords) (locs : List (Nat × Nat)), Issues s i w →
    ∀ r ∈ loadRows,
      let h := s.hand i.hand
      let act := i.active h w
      let a := memBase r.1 r.2.2.1 w
      let n := memSize w
      let names := if n = 8 then w.pairDst else w.gDst
      let lr := w.lrNames a w.gB (.lit 0)
      Readable s i act [(a, .move), (w.gB, .move)] names lr →
      (s.released i lr).checkAccess i act r.1 .read n n (effAddr r.1 w a w.gB h i.uni) = .ok (locs, s') → s'.specRun h = false →
      let id := (s'.hand i.hand).nextId
      let x := loadLanes i.hand id n r.1 locs s'
      exec (r.2.2.2 w) s = .next (s.finish i w 0 false (x.2.addOutst i.hand act
        (if r.2.1 then .inv n w.x.fmt x.1 else .load n w.x.fmt (ordScope w) x.1)
        (asyncDsts (x.2.hand i.hand) act w names w.x.fmt) 0 0))

/-- R312: an access that is misaligned in some active lane raises fault 0x09; in scratch, a bad address raises 0x0A and one outside the hand's shares
0x0C; in memory a refused translation raises 0x0A and an absent page 0x0B; the fault names the lanes that met it and the address of the lowest. -/
def Obligations.AccessChecks : Prop :=
  ∀ (s : State) (i : SplitIssue) (act : Lanes) (acc : Access) (n : Nat) (ea : Nat → DWord),
    let h := s.hand i.hand
    let some_ (p : Nat → Prop) : Prop := ∃ t ∈ act.list, p t
    let faults (scratch : Bool) (code : BitVec 8) (p : Nat → Prop) : Prop :=
      ∃ s' t, s.checkAccess i act scratch acc n n ea = .error (s', t) ∧ t.code = code ∧ t.kind = 0 ∧ t.pc = i.pc ∧ t.split = act ∧
        (∀ l, l < 32 → (t.mask.has l = true ↔ act.has l = true ∧ p l)) ∧ t.val = ea (Lanes.lowest t.mask)
    let odd (t : Nat) : Prop := (ea t).toNat % n ≠ 0
    let place (t : Nat) : Option Nat := clusterLoc (coreCluster h.core) (ea t).toNat
    let out (t : Nat) : Prop := s.inShare h ((place t).getD 0) n = false
    let prot (t : Nat) : Prop := s.translate h.asid (ea t) acc = .prot
    let page (t : Nat) : Prop := ∃ home e, s.translate h.asid (ea t) acc = .page home e
    (∀ scratch, some_ odd → faults scratch 0x09 odd) ∧
    (¬ some_ odd →
      (some_ (fun t => place t = none) → faults true 0x0A (fun t => place t = none)) ∧
      (¬ some_ (fun t => place t = none) → some_ out → faults true 0x0C out) ∧
      (¬ some_ (fun t => place t = none) → ¬ some_ out →
        s.checkAccess i act true acc n n ea = .ok (act.list.map (fun t => (t, (place t).getD 0)), s)) ∧
      (some_ prot → faults false 0x0A prot) ∧
      (¬ some_ prot → some_ page → faults false 0x0B page) ∧
      (¬ some_ prot → ¬ some_ page → ∃ locs s', s.checkAccess i act false acc n n ea = .ok (locs, s') ∧
        s' = { s with tlb := s'.tlb } ∧ locs.map Prod.fst = act.list))

/-- R311 and R171: a store whose addresses pass their checks is appended to the store buffer of each active lane's thread, with its bytes and its
place in program order, and no byte of memory changes until it drains. The hand is of no pair and runs no segment of a speculation. -/
def Obligations.StoresAreBuffered : Prop :=
  ∀ (s s' : State) (i : SplitIssue) (w : CoreWords) (locs : List (Nat × Nat)), Issues s i w → RunsOn s i →
    ∀ r ∈ storeRows,
      let h := s.hand i.hand
      let act := i.active h w
      let a := memBase r.1 r.2.1 w
      let n := memSize w
      let d := if n = 8 then w.pairName w.nameD else w.gName w.nameD
      let lr := w.lrNames a w.gB (.lit 0)
      h.pair = 0 → h.seg = none →
      Readable s i act [(a, .move), (w.gB, .move), (d, .move)] [] lr →
      (s.released i lr).checkAccess i act r.1 .write n n (effAddr r.1 w a w.gB h i.uni) = .ok (locs, s') →
      ∃ t, exec (r.2.2 w) s = .next t ∧ t = { s with hands := t.hands, cores := t.cores, cluBanks := t.cluBanks, tlb := s'.tlb } ∧
        t.mem = s.mem ∧ t.orders = s.orders ∧ OtherHands s t i.hand ∧
        (∀ x, x < 32 → act.has x = false → ((t.hand i.hand).thread x).sb = (h.thread x).sb ∧ ((t.hand i.hand).thread x).sbNext = (h.thread x).sbNext) ∧
        (w.sw = false ∨ h.owed = [] → ∀ x, x < 32 → ((t.hand i.hand).thread x).view = (h.thread x).view) ∧
        ∀ x ∈ locs, ((t.hand i.hand).thread x.1).sb = (h.thread x.1).sb ++
            [storeEntry x.2 n (d.val h i.uni x.1) (if ordScope w == 0 then none else some (ordScope w)) (h.thread x.1).sbNext] ∧
          ((t.hand i.hand).thread x.1).sbNext = (h.thread x.1).sbNext + 1

/-- R313 to R316: `ldh` and `fence` become outstanding, and `pref` only retires. An `ldh` of a peer's word asks the peer, and has tag POISON when it
cannot. `bind` reads the words of its entry and sends the registration of its object's location, with whether the entry is well formed; an entry
in a peer is asked for first, and one that cannot be read has a poisoned result (log 104). -/
def Obligations.FencesAndBindings : Prop :=
  (∀ (s s' : State) (i : SplitIssue) (w : CoreWords) (locs : List (Nat × Nat)), Issues s i w →
     let h := s.hand i.hand
     let act := i.active h w
     let since (m : Lanes) : List (Nat × Nat) := m.list.map (fun t => (t, (h.thread t).sbNext))
     let ea : DWord := uniVal i act h w.nameA + (w.litVal.setWidth 32).signExtend 64 + memOff w
     let loc := ((locs.head?).map Prod.snd).getD 0
     (Readable s i act [(w.hA, .move)] [] [] → s.checkAccess i act false .read 8 8 (fun _ => ea) = .ok (locs, s') →
       s'.specRun h = false →
       let sent (s' : State) : State := s.finish i w 0 false
         (s'.addOutst i.hand act (.loadH loc w.x.fmt (since i.lanes) false) [pendingDst (.h w.nameD) w.x.fmt] 0 0)
       let asked := s'.readPeer (coreDie h.core) loc 8 (.load i.hand (s'.hand i.hand).nextId (Lanes.lowest act))
       (spaceOf loc ≠ .peer → exec (.ldh w) s = .next (sent s')) ∧
       (spaceOf loc = .peer → ∀ u, asked = some u → exec (.ldh w) s = .next (sent u)) ∧
       (spaceOf loc = .peer → asked = none → exec (.ldh w) s = .next (s.finish i w 0 false
         (s'.addOutst i.hand act .value [poisonedDst (.h w.nameD) w.x.fmt] 0 0)))) ∧
     (∀ hForm, let a := memBase false hForm w
       let lr := w.lrNames a w.gB (.lit 0)
       Readable s i act [(a, .move), (w.gB, .move)] [] lr →
       exec (if hForm then .prefH w else .pref w) s = .next (s.finish i w 0 false (s.released i lr))) ∧
     exec (.fence w) s = .next (s.finish i w 0 false (s.addOutst i.hand act (.fence (ordScope w) (since act)) [] 0 0))) ∧
  (∀ (s s1 s2 : State) (i : SplitIssue) (w : CoreWords) (locs objs : List (Nat × Nat)), Issues s i w →
     let h := s.hand i.hand
     let act := i.active h w
     let loc := ((locs.head?).map Prod.snd).getD 0
     let part (k : Nat) : Loaded := s1.issueWord h i.lanes.list (loc + 8 * k)
     let word (k : Nat) : DWord := BitVec.ofNat 64 (part k).value
     let ok : Prop := (word 0).toNat % 8 = 0 ∧ (word 1).toNat % 64 = 0 ∧ (word 2).toNat % 64 = 0 ∧ word 2 ≠ 0 ∧ word 3 >>> 1 = 0
     let got := s1.entryReads.find? (fun x => x.1 = i.hand && x.2.1 == loc)
     let logged := ((List.range 4).filter (fun k => (part k).bad)).foldl (fun s k => s.logUE (loc + 8 * k)) s1
     let read : State := { (logged.crossHome (coreDie h.core) loc).hostRead loc with
       entryReads := logged.entryReads.filter (fun x => !(x.1 = i.hand && x.2.1 == loc)) }
     let came := spaceOf loc ≠ .peer ∧ got = none ∨ got = some (i.hand, loc, true)
     let clear := ∀ k, k < 4 → (part k).bad = false ∧ (part k).lost = false
     Readable s i act [(w.hA, .move)] [] [] →
     s.checkAccess i act false .read 32 32 (fun _ => uniVal i act h w.nameA) = .ok (locs, s1) →
     (spaceOf loc = .peer → got = none → exec (.bind w) s = .next (((s1.askEntry i loc).countIssue i w.rb false).finishCycle i.core i.slot)) ∧
     (got = some (i.hand, loc, false) ∨ came ∧ ¬ clear →
       exec (.bind w) s = .next (s.finish i w 0 true (read.addOutst i.hand act .value [poisonedDst (.h w.nameD) 2] 0 0))) ∧
     (came → clear → read.checkAccess i act false .read 1 8 (fun _ => word 0) = .ok (objs, s2) → ∀ good : Bool, (good = true ↔ ok) →
       exec (.bind w) s = .next (s.finish i w 0 true
         (s2.addOutst i.hand act (.bind (((objs.head?).map Prod.snd).getD 0) (word 1) (word 2) good) [pendingDst (.h w.nameD) 2] 0 0))))

/-- R119, R170, R173 and R184: an outstanding result is performed lane by lane, those lanes of a load or a fence that the step's input names and that
wait for nothing, and returns when every lane has been; a result whose value is known reaches the lanes that the input names. -/
def Obligations.ResultsReturn : Prop :=
  ∀ (s : State) (o : Outst),
    let k := s.args.n
    let id := s.args.m
    (s.hand k).outst.find? (fun o => o.id = id) = some o → o.returned = false →
    let ready (ls : List LoadLane) : List LoadLane :=
      ls.filter (fun l => s.args.lanes.has l.lane && !o.back.has l.lane && l.win.isNone && s.answered k id l.lane)
    (o.work = .value ∨ o.work = .sent →
      exec .resultReturn s = .next ((s.updOutst k id (fun o => { o with work := .value, back := o.back ||| s.args.lanes })).returnIfDone k id)) ∧
    (∀ n fmt acq ls, o.work = .load n fmt acq ls → exec .resultReturn s =
      .next ((performLanes (fun s l p => s.performLane k id n fmt acq l p) (ready ls) s.args.picks s).returnIfDone k id)) ∧
    (∀ n fmt ls, o.work = .inv n fmt ls → exec .resultReturn s =
      .next ((performLanes (fun s l p => s.performInv k id n fmt l p) (ready ls) s.args.picks s).returnIfDone k id)) ∧
    (∀ scope ls, o.work = .fence scope ls → exec .resultReturn s =
      .next (((ls.filter (fun l => s.args.lanes.has l.1 && !o.back.has l.1)).foldl (fun s l => s.performFence k id scope l) s).returnIfDone k id))

/-- R170: what a load returns of a word. When its thread's buffered stores give every byte of the access, those of the youngest store of each byte;
otherwise the bytes of one write of the word's order, not older than the thread's view, under those of the buffer. -/
def Obligations.LoadReturnsAllowedWrite : Prop :=
  ∀ (s : State) (sb : List StoreEntry) (view : View) (loc n pick : Nat),
    let w := wordOf loc
    let x := s.loadWord sb [] view loc n pick
    let own (j : Nat) : Option (BitVec 8) := entryByte sb w (loc - w + j)
    ¬ (spaceOf loc = .host ∧ s.hostLink.lost = true) → view.get w ≤ s.lastIdx w →
    ((∀ j, j < n → (own j).isSome = true) → x.from_ = none ∧ x.bad = false ∧ ∀ j, j < n → x.value / 2 ^ (8 * j) % 256 = ((own j).getD 0).toNat) ∧
    (¬ (∀ j, j < n → (own j).isSome = true) → ∃ idx r, x.from_ = some (idx, r) ∧ view.get w ≤ idx ∧ idx ≤ s.lastIdx w ∧ r = s.writeAt w idx ∧
      x.bad = r.bad ∧ ∀ j, j < n → x.value / 2 ^ (8 * j) % 256 =
        ((own j).getD (r.value.extractLsb' (8 * (loc - w + j)) 8)).toNat)

/-- R171, the drain of a store in device memory or scratch: when it may drain, it leaves its thread's buffer and becomes the last write of its word,
with its fence view and scope, or its thread's view and its own scope for a release store; the thread's view takes its index; of memory the bytes
of its mask change and no others; engine threads that waited for it start (R181). When it may drain is the model's reading (log 41). -/
def Obligations.StoreDrains : Prop :=
  ∀ (s : State) (h : Hand) (e : StoreEntry),
    let k := s.args.n
    let t := s.args.m
    let m := h.thread t
    let write : WriteRec :=
      { value := mergeBytes e.mask e.data (s.lastWrite e.word).value, bad := (s.lastWrite e.word).bad && decide (e.mask ≠ 0xFF),
        marked := (s.lastWrite e.word).marked && decide (e.mask ≠ 0xFF),
        msg := if e.rel.isSome then m.view else m.fview, scope := e.rel.getD m.fscope, writer := h.party }
    s.hand? k = some h → t < 32 → m.sb[s.args.k]? = some e → h.mayDrain t e = true → spaceOf e.word = .device ∨ spaceOf e.word = .scratch →
    e.post = false →
    let alone (x : Hand) : Hand := { x with arrival := none, slice := none }
    ∃ u, exec .storeDrain s = .next u ∧
      u = { s with hands := u.hands, mem := u.mem, orders := u.orders, bbarViews := u.bbarViews, routes := u.routes, copies := u.copies,
                   jobs := u.jobs, clusters := u.clusters, cores := u.cores } ∧
      (∀ j, j ≠ k → (u.hand? j).map alone = (s.hand? j).map alone) ∧
      u.order e.word = s.order e.word ++ [write] ∧
      (∀ w, w ≠ e.word → s.orders.find? (fun o => o.word = w) ≠ none → u.order w = s.order w) ∧
      (Memory.wf s.mem = true → ∀ a, a < e.word ∨ e.word + 8 ≤ a → readCell u.mem a = readCell s.mem a) ∧
      (Memory.wf s.mem = true → ∀ j, j < 8 → readCell u.mem (e.word + j) =
        if e.mask.getLsbD j then e.data.extractLsb' (8 * j) 8 else (s.lastWrite e.word).value.extractLsb' (8 * j) 8) ∧
      ((u.hand k).thread t).sb = m.sb.filter (fun x => x.seq ≠ e.seq) ∧
      ((u.hand k).thread t).view = View.raise e.word (s.order e.word).length m.view

/-! ## Class 3 -/

/-- R320 to R327: an announcement whose lanes may announce and whose addresses pass their checks becomes outstanding, one lane each with its object
and operands. -/
def Obligations.AnnouncementsIssue : Prop :=
  ∀ (s s' : State) (i : SplitIssue) (w : CoreWords), Issues s i w →
    ∀ r ∈ annRows,
      let h := s.hand i.hand
      let act := i.active h w
      let b := r.2.2.1 w
      let lr := w.lrNames (.lit 0) b (annC w)
      let ea (t : Nat) : DWord := w.hA.val h i.uni t + ((annC w).word h i.uni t).signExtend 64
      let lane (t : Nat) : AnnLane :=
        h.newLane i.pc t (s'.placed h.asid (ea t) .write) (ea t) (r.2.2.2 w h i.uni t).1 (r.2.2.2 w h i.uni t).2
      Readable s i act [(w.hA, .move), (b, .move), (annC w, .move)] w.pairDst lr → (∀ t ∈ act.list, mayAnnounce h i.pc t) →
      badRcell h.rcell = false →
      (s.released i lr).checkAddrs i act (act.list.map (fun t => (t, ea t, .write))) = .ok s' →
      exec (r.1 w) s = .next (s.finish i w 0 true (s'.launchAnn i act w 0 r.2.1 (w.f2 0 3) w.pairDst (act.list.map lane)))

/-- R327 to R331 and R376: `ann.mcas` announces the words of its lanes' descriptors, whose addresses rise strictly and lie in device memory; `help`,
`coll` and `bkt` become outstanding, one lane each with its object. -/
def Obligations.ObjectsIssue : Prop :=
  (∀ (s s1 s2 : State) (i : SplitIssue) (w : CoreWords), Issues s i w →
     let h := s.hand i.hand
     let act := i.active h w
     let nw := w.f2 0 2 + 1
     let lr := w.lrNames (.lit 0) (.lit 0) (annC w)
     let ea (t : Nat) : DWord := w.hA.val h i.uni t + ((annC w).word h i.uni t).signExtend 64
     let words (t : Nat) : List DWord := s1.descAddrs h t (ea t) nw
     let lane (t : Nat) : AnnLane := h.newLane i.pc t (s2.placed h.asid ((words t).headD 0) .write) ((words t).headD 0) (ea t) (BitVec.ofNat 64 nw)
     Readable s i act [(w.hA, .move), (annC w, .move)] w.pairDst lr → (∀ t ∈ act.list, mayAnnounce h i.pc t) → badRcell h.rcell = false →
     (s.released i lr).checkAddrs i act
       (act.list.foldr (fun t acc => (List.range (3 * nw)).map (fun j => (t, ea t + BitVec.ofNat 64 (8 * j), .read)) ++ acc) []) = .ok s1 →
     s1.checkAddrs i act (act.list.foldr (fun t acc => (words t).map (fun a => (t, a, .write)) ++ acc) []) = .ok s2 →
     (∀ t ∈ act.list, rising (words t) = true ∧ ∀ a ∈ words t, spaceOf (s2.placed h.asid a .write).1 = .device) →
     exec (.annMcas w) s = .next (s.finish i w 0 true (s2.launchAnn i act w 0 mcasOp 0 w.pairDst (act.list.map lane)))) ∧
  (∀ (s s' : State) (i : SplitIssue) (w : CoreWords), Issues s i w →
     let h := s.hand i.hand
     let act := i.active h w
     let lr := w.lrNames (.lit 0) (.lit 0) (annC w)
     let ea (t : Nat) : DWord := w.hA.val h i.uni t + ((annC w).word h i.uni t).signExtend 64
     let lane (t : Nat) : AnnLane := h.newLane i.pc t (s'.placed h.asid (ea t) .read) (ea t) 0 0
     (Readable s i act [(w.hA, .move), (annC w, .move)] w.pairDst lr →
       (s.released i lr).checkAddrs i act (act.list.map (fun t => (t, ea t, .read))) = .ok s' →
       exec (.help w) s = .next (s.finish i w 0 false (s'.launchAnn i act w 1 0 0 w.pairDst (act.list.map lane))) ∧
       ((∀ t ∈ act.list, (h.redoOf i.pc t).isSome = true ∨ (s.released i lr).ownsObject h t (ea t) = true) →
         exec (.coll w) s = .next (s.finish i w 0 false (s'.launchAnn i act w 2 0 0 w.pairDst (act.list.map lane))))) ∧
     (let lr := w.lrNames (.lit 0) w.gB (.lit 0)
      let a := uniVal i act h w.nameA
      let ea (t : Nat) : DWord := (a &&& ~~~(63 : DWord)) + (((w.gB.word h i.uni t).zeroExtend 64 >>> 20) <<< (a.toNat % 32))
      let lane (t : Nat) : AnnLane :=
        h.newLane i.pc t (s'.placed h.asid (ea t) .write) (ea t) ((w.gB.word h i.uni t &&& 0xFFFFF).zeroExtend 64) 0
      Readable s i act [(w.hA, .move), (w.gB, .move)] w.gDst lr → 3 ≤ a.toNat % 32 → a.getLsbD 5 = false → canonical (a &&& ~~~(63 : DWord)) = true →
       (s.released i lr).checkAddrs i act (act.list.map (fun t => (t, ea t, .write))) = .ok s' →
       (∀ t ∈ act.list, spaceOf (s'.placed h.asid (ea t) .write).1 ≠ .host) →
       exec (.bkt w) s = .next (s.finish i w 0 true (s'.launchAnn i act w 3 bktOp 0 w.gDst (act.list.map lane)))))

/-- R324 and R325: a lane of an announcement that may act makes its first action, or sends its step to the record's home, which answers, finds no
room, meets PAGE, or asks the owner's device; on a peer's object it sends its next message (log 42). R321 and R322: the new value of a word under an integer operation. -/
def Obligations.AnnouncementSteps : Prop :=
  (∀ (s : State) (o : Outst) (kind op type : Nat) (pc : DWord) (ls : List AnnLane) (l : AnnLane),
     let k := s.args.n
     let id := s.args.m
     let h := s.hand k
     h.outst.find? (fun o => o.id = id) = some o → o.work = .ann kind op type pc ls → ls.find? (fun l => l.lane = s.args.k) = some l →
     s.annReady h o kind ls l = true →
     (l.phase = .start → exec .announceStep s = .next (s.startLane kind k id op type l)) ∧
     (l.phase = .peer → exec .announceStep s = .next (s.peerStep kind k id l)) ∧
     ∀ t j own, l.phase = .send t j own →
       let x := (s.crossHome (coreDie h.core) l.obj).homeStep t j
       (∀ s' b, x = .answered s' b → exec .announceStep s = .next (s'.stepAnswered kind k id l own)) ∧
       (∀ s', x = .full s' → exec .announceStep s = .next (s'.stepAnswered kind k id l own)) ∧
       (∀ s' asid va, x = .page s' asid va → exec .announceStep s = .next (s'.annPage k id l asid va)) ∧
       (∀ s', x = .remote s' → exec .announceStep s = .next (s'.setAnnLane k id { l with phase := .cell t j own }))) ∧
  (∀ (a b old : DWord),
     (∀ type ∈ [0, 1], let m (x : DWord) : Nat := x.toNat % 2 ^ 32
       let num (x : DWord) : Int := if type = 0 then (BitVec.ofNat 32 (m x)).toInt else m x
       annNew 0 type a b old = (BitVec.ofNat 64 ((m old + m a) % 2 ^ 32), 0) ∧
       annNew 1 type a b old = (BitVec.ofNat 64 (if num a < num old then m a else m old), 0) ∧
       annNew 2 type a b old = (BitVec.ofNat 64 (if num old < num a then m a else m old), 0) ∧
       annNew 6 type a b old = (BitVec.ofNat 64 (m a), 0) ∧
       annNew 7 type a b old = (BitVec.ofNat 64 (if m old = m a then m b else m old), 0)) ∧
     (∀ type ∈ [3, 4], let num (x : DWord) : Int := if type = 3 then x.toInt else x.toNat
       annNew 0 type a b old = (BitVec.ofNat 64 (old.toNat + a.toNat), 0) ∧
       annNew 1 type a b old = (if num a < num old then a else old, 0) ∧ annNew 2 type a b old = (if num old < num a then a else old, 0) ∧
       annNew 3 type a b old = (old &&& a, 0) ∧ annNew 4 type a b old = (old ||| a, 0) ∧ annNew 5 type a b old = (old ^^^ a, 0) ∧
       annNew 6 type a b old = (a, 0) ∧ annNew 7 type a b old = (if old = a then b else old, 0)))

/-- R179 and R192: a home accepts step k of a record only when the record is QUEUED and its progress is k − 1, and changes nothing when it rejects one
of another number; the home that has just accepted a step rejects the same step when it comes again. -/
def Obligations.StepsApplyOnce : Prop :=
  ∀ (s : State) (t k : Nat),
    (∀ r, s.rec? t = some r → r.state ≠ 1 ∨ r.prog + 1 ≠ k → s.homeStep t k = .answered s false) ∧
    (∀ s', s.homeStep t k = .answered s' true → (∃ r, s.rec? t = some r ∧ r.state = 1 ∧ r.prog + 1 = k) ∧
      s'.homeStep t k = .answered s' false)

/-- R332, R176, R177 and R316: `acq` and `rel` become outstanding for the objects of their lanes; a lane of `rel`, once its older stores have drained,
joins its thread's view of the object's regions into the publish entry and takes its version, which rises by 1; a lane of `acq` takes the version
and joins the entry's view; a `bind` is registered with its status; the home of an object in a peer is asked. A `bind` that could meet one still
under way at a peer waits for it (log 116). -/
def Obligations.AcquireReleaseBind : Prop :=
  ∀ (s : State),
    (∀ (s' : State) (i : SplitIssue) (w : CoreWords), Issues s i w →
      let h := s.hand i.hand
      let act := i.active h w
      let lr := w.lrNames (.lit 0) (.lit 0) (annC w)
      let ea (t : Nat) : DWord := w.hA.val h i.uni t + ((annC w).word h i.uni t).signExtend 64
      let obj (t : Nat) : Nat := (s'.placed h.asid (ea t) .read).1
      Readable s i act [(w.hA, .move), (annC w, .move)] w.gDst lr →
      (s.released i lr).checkAddrs i act (act.list.map (fun t => (t, ea t, .read))) = .ok s' →
      exec (.acq w) s = .next (s.finish i w 0 false (s'.addOutst i.hand act (.acq (act.list.map (fun t => (t, obj t))))
        (asyncDsts (s'.hand i.hand) act w w.gDst 2) 0 0)) ∧
      exec (.rel w) s = .next (s.finish i w 0 true (s'.addOutst i.hand act (.rel (act.list.map (fun t => (t, obj t, (h.thread t).sbNext))))
        (asyncDsts (s'.hand i.hand) act w w.gDst 2) 0 0))) ∧
    (let k := s.args.n
     let t := s.args.k
     let h := s.hand k
     ∀ o, s.pendingLane k s.args.m t = some o →
      (∀ objs obj, o.work = .acq objs → objs.find? (fun x => x.1 = t) = some (t, obj) →
        (spaceOf obj ≠ .peer → exec .acqApply s = .next (s.fillVersion k o.id t (s.version obj) (s.acqJoin h t obj))) ∧
        (spaceOf obj = .peer → exec .acqApply s = .next (s.askObject k o.id t obj 4 0))) ∧
      (∀ objs obj seq, o.work = .rel objs → objs.find? (fun x => x.1 = t) = some (t, obj, seq) → s.storesDrained h t seq = true →
        (spaceOf obj ≠ .peer → exec .relApply s = .next ((s.relJoin h t obj).fillVersion k o.id t ((s.relJoin h t obj).version obj) [])) ∧
        (spaceOf obj = .peer → exec .relApply s = .next ((s.relJoin h t obj).askObject k o.id t obj 5 0)) ∧
        ∀ p, s.pubs.find? (fun p => p.obj = obj) = some p → (s.relJoin h t obj).pubs.find? (fun p => p.obj = obj) =
          some { p with ver := p.ver + 1, pub := View.join p.pub (s.restrictTo h.lid obj (h.thread t).view) })) ∧
    (let k := s.args.n
     let h := s.hand k
     ∀ o obj base len ok, h.outst.find? (fun o => o.id = s.args.m && !o.returned) = some o → o.work = .bind obj base len ok →
      s.reqs.any (fun r => r.use == .object k o.id (Lanes.lowest o.lanes)) = false →
      (s.bindStatus h.lid obj base len ok ≠ 0 → exec .bindRegister s = .next (s.fillBind k o.id (s.bindStatus h.lid obj base len ok))) ∧
      (s.bindStatus h.lid obj base len ok = 0 → s.bindWaits h.lid base len = true → exec .bindRegister s = .next s) ∧
      (s.bindStatus h.lid obj base len ok = 0 → s.bindWaits h.lid base len = false → spaceOf obj = .peer → ∀ s', s.sendStep (coreDie h.core) obj
          (stepData 3 0 s.devNum 0 (peerAddr obj + base.toNat * 2 ^ 64 + len.toNat * 2 ^ 128)) (.object k o.id (Lanes.lowest o.lanes)) = some s' →
        exec .bindRegister s = .next s') ∧
      (s.bindStatus h.lid obj base len ok = 0 → s.bindWaits h.lid base len = false → spaceOf obj ≠ .peer →
        exec .bindRegister s = .next ((s.addBinding { lid := h.lid, obj := obj, base := base, len := len }).fillBind k o.id 0)))

/-- R333, R334, R165 and R336: an arrival becomes outstanding, and once its thread's older stores have drained it is recorded and receives PHASE as it
stands; `bar.tst` becomes outstanding, and counts a failed test, up to the partition's limit; when it is applied it gives the lanes whose phase is over,
with the views of the phases that have ended since (log 70). `bbar.post` stands in the store buffer of its split's lowest thread (log 97), and when it
drains posts the expected count in its object; when it equals the bytes that have arrived the phase is over; `bbar.tst` becomes outstanding, and when
it is applied gives whether PHASE differs from the parity it is given, with the views of the copies that the ended phase counted. -/
def Obligations.Barriers : Prop :=
  (∀ (s : State),
     (∀ (i : SplitIssue) (w : CoreWords) (g : Nat), Issues s i w →
       let h := s.hand i.hand
       let act := i.active h w
       let a := uniVal i act h w.nameA
       s.barGroup h a = some g →
       (Readable s i act [(w.hA, .move)] w.gDst [] →
         exec (.barArv w) s = .next (s.finish i w 0 true (s.addOutst i.hand act (.barArv g (act.list.map (fun t => (t, (h.thread t).sbNext))))
           (asyncDsts h act w w.gDst 2) 0 0))) ∧
       (w.x.lr = 0 → Readable s i act [(w.hA, .move), (w.gB, .move)] [] [] →
         let x := (s.launch h.lid).group g
         let old (t : Nat) : BitVec 16 := (w.gB.word h i.uni t).setWidth 16
         let barb := (s.part h.part).cfg.barb.toNat
         let counts : Prop := (∃ t ∈ act.list, x.phase = old t) ∧ barb ≠ 0 ∧ x.arrived ≠ []
         let sent (s1 : State) : State := s1.addOutst i.hand act (.barTst g (act.list.map (fun t => (t, old t)))) [flagDst w.nameD] 0 0
         (counts → ¬ 2 ^ barb < x.failed + 1 → exec (.barTst w) s = .next (s.finish i w 0 false
           (sent (s.updGroup h.lid g (fun g => { g with failed := g.failed + 1 }))))) ∧
         (¬ counts → exec (.barTst w) s = .next (s.finish i w 0 false (sent s))))) ∧
     (let k := s.args.n
      let t := s.args.k
      let h := s.hand k
      ∀ o g ls seq, s.pendingLane k s.args.m t = some o → o.work = .barArv g ls → ls.find? (fun x => x.1 = t) = some (t, seq) →
       s.storesDrained h t seq = true →
       exec .barArrival s = .next ((s.arrive h g t).fillVersion k o.id t ((((s.launch h.lid).group g).phase).zeroExtend 32) [])) ∧
     (let k := s.args.n
      let id := s.args.m
      ∀ o, (s.hand k).outst.find? (fun o => o.id = id) = some o → o.returned = false →
       (∀ g olds, o.work = .barTst g olds →
         let x := (s.launch (s.hand k).lid).group g
         let ended := olds.filter (fun y => x.phase ≠ y.2)
         exec .resultReturn s = .next (s.fillFlags k id (Lanes.of (fun t => ended.any (fun y => y.1 = t)))
           (ended.foldr (fun y acc => (x.views.filter (fun p => (p.1 - y.2).toNat < (x.phase - y.2).toNat)).map (fun p => (y.1, p.2)) ++ acc) []))) ∧
       (∀ loc parity, o.work = .bbarTst loc parity →
         let b := s.readBBar loc
         (b.phase.getLsbD 0 = parity → exec .resultReturn s = .next (s.fillFlags k id 0 [])) ∧
         (b.phase.getLsbD 0 ≠ parity → exec .resultReturn s = .next (s.fillFlags k id o.lanes (o.lanes.list.foldr (fun t acc =>
           (s.bbarViews.filter (fun p => p.1 = loc && p.2.1 == b.phase - 1)).map (fun p => (t, p.2.2)) ++ acc) [])))))) ∧
  (∀ (s s' : State) (i : SplitIssue) (w : CoreWords) (locs : List (Nat × Nat)), Issues s i w →
     let h := s.hand i.hand
     let act := i.active h w
     let a := uniVal i act h w.nameA
     let v := uniVal i act h w.nameB
     let loc := ((locs.head?).map Prod.snd).getD 0
     Readable s i act [(w.hA, .move), (w.hB, .move)] [] [] →
     (s.checkAccess i act true .write 16 16 (fun _ => a) = .ok (locs, s') →
       exec (.bbarPost w) s = .next (s.finish i w 0 true (s'.appendPost i.hand i.lanes loc (v.setWidth 32)))) ∧
     (∀ (s : State) (h : Hand) (e : StoreEntry), s.hand? s.args.n = some h → (h.thread s.args.m).sb[s.args.k]? = some e → e.post = true →
       h.mayDrain s.args.m e = true → spaceOf e.word = .scratch → spaceOf (e.word + 8) = .scratch →
       ∃ u, exec .storeDrain s = .next u ∧ u.readBBar e.word = (s.readBBar e.word).post (e.data.setWidth 32)) ∧
     (s.checkAccess i act true .read 16 16 (fun _ => a) = .ok (locs, s') → (s'.readBBar loc).isOver = false →
       exec (.bbarTst w) s = .next (s.finish i w 0 false (s'.addOutst i.hand act (.bbarTst loc (v.getLsbD 0)) [flagDst w.nameD] 0 0))) ∧
     ∀ (b : BBar) (x : Word), b.isOver = false → b.posted = false → 0 ≤ x.toInt →
       ((b.arrived : Int) = x.toInt → (b.post x).phase = b.phase + 1 ∧ (b.post x).arrived = 0 ∧ (b.post x).posted = false) ∧
       ((b.arrived : Int) < x.toInt → (b.post x).phase = b.phase ∧ (b.post x).expect = x ∧ (b.post x).posted = true ∧ (b.post x).isOver = false) ∧
       (x.toInt < (b.arrived : Int) → (b.post x).isOver = true))

/-- R53, R54 and R210: an AtomicOp of a host object completes with the old value, or fails its record; one that times out fails it, and counts towards
the loss of the host; a killed owner's record that has made no progress is cancelled. -/
def Obligations.HostAtomicsAndCancel : Prop :=
  ∀ (s : State) (r : AnnRec),
    (let t := 64 * 8192 + s.args.n
     let done := { s with atomics := s.atomics.filter (fun x => x ≠ t), hostLink := { s.hostLink with timeouts := 0 } }
     let gone := { s with atomics := s.atomics.filter (fun x => x ≠ t) }
     s.rec? t = some r → t ∈ s.atomics →
      (s.args.ok = true → r.dx = false → exec .atomicopCompletion s = .next (done.failRec r 1 0x00000011)) ∧
      (s.args.ok = false ∨ r.dx = true → exec .atomicopCompletion s = .next (done.hostDone r s.args.value)) ∧
      (s.args.ok = false → exec .atomicopTimeout s = .next (gone.hostTimeout.failRec r 1 0x00010011)) ∧
      (s.args.ok = true → exec .atomicopTimeout s = .next ((gone.appendWrite (wordOf r.obj) (if r.type < 3 then 0x0F else 0xFF)
        (annNew r.op r.type r.opA r.opB (gone.lastWrite (wordOf r.obj)).value).1 [] 0 Party.nobody).hostTimeout.failRec r 1 0x00010011))) ∧
    (let t := s.args.n * 8192 + s.args.m
     s.peerCancels.find? (fun x => homeOf x.obj = s.args.n && x.ticket == s.args.m) = none → s.rec? t = some r → r.killed = true → r.state = 1 → r.prog = 0 →
      r.op ≠ holdOp → t ∉ s.atomics → exec .recordCancel s = .next (s.updRec t (fun r => { r with state := 5 })))

/-! ## Class 4 -/

/-- R337 to R341 and R347: the float instructions take FMT's format or their first register source's, and, when their sources pass the checks, work
element by element: each element of the result is the exact value of R339 and R340 rounded once, of an elementary function the value of R341, and
a comparison writes the predicate D from the elements at its position, with the flags of R242. A source that fails its check raises its fault. -/
def Obligations.FloatResults : Prop :=
  ∀ (s : State) (i : SplitIssue) (w : CoreWords), Issues s i w →
    let h := s.hand i.hand
    let act := i.active h w
    let ffOf (fmt : BitVec 4) : FFmt := (FFmt.ofTag fmt).getD .f32
    (∀ r ∈ fltRows, ∀ hForm : Bool,
      let a := if hForm then w.hA else w.gA
      let ops := if r.three then [a, w.gB, w.gC] else [a, w.gB]
      let lr := w.lrNames a w.gB (if r.three then w.gC else .lit 0)
      let fmt := fltFmt i act h w ops
      let ins := if hForm then r.h w else r.g w
      let third (t : Nat) : Word := if r.three then w.gC.word h i.uni t else 0
      (∀ t, fltCheck i act h w ops isFloatTag = some t → exec ins s = .next (s.faulted i w t)) ∧
      (fltCheck i act h w ops isFloatTag = none → Readable s i act (ops.map (fun o => (o, .move))) w.gDst lr →
        exec ins s = .next (s.finish i w 0 false ((s.released i lr).writeFlagged i w act
          (fun t => mapElems fmt (r.elem w (ffOf fmt)) (a.word h i.uni t) (w.gB.word h i.uni t) (third t)) fmt)))) ∧
    (∀ r ∈ elemRows,
      let lr := w.lrNames w.gA (.lit 0) (.lit 0)
      let fmt := fltFmt i act h w [w.gA]
      let small (t : BitVec 4) : Bool := t == 3 || t == 4 || t == 5
      (∀ t, fltCheck i act h w [w.gA] small = some t → exec (r.1 w) s = .next (s.faulted i w t)) ∧
      (fltCheck i act h w [w.gA] small = none → Readable s i act [(w.gA, .move)] w.gDst lr →
        exec (r.1 w) s = .next (s.finish i w 0 false ((s.released i lr).writeFlagged i w act
          (fun t => mapElems fmt (fun x _ _ => (ffOf fmt).elementary r.2 x w.x.rnd.toNat w.x.sat) (w.gA.word h i.uni t) 0 0) fmt)))) ∧
    ∀ r ∈ fcmpRows,
      let a := if r.2.1 then w.hA else w.gA
      let lr := w.lrNames a w.gB (.lit 0)
      let fmt := fltFmt i act h w [a, w.gB]
      let at_ (o : Operand) (t : Nat) : Machine.Num := (ffOf fmt).decode (elemOf fmt (o.word h i.uni t) (w.f2 0 3 % tagElems fmt))
      let nan (t : Nat) : Bool := (at_ a t).isNaN || (at_ w.gB t).isNaN
      let res (t : Nat) : Bool := if nan t then r.2.2.2.1 else r.2.2.1 ((at_ a t).cmp (at_ w.gB t))
      let flags (t : Nat) : Flags := (at_ a t).sig ||| (at_ w.gB t).sig ||| (if nan t && r.2.2.2.2 then flagINV else 0)
      fltCheck i act h w [a, w.gB] isFloatTag = none → Readable s i act [(a, .move), (w.gB, .move)] [] lr →
      exec (r.1 w) s = .next (s.finish i w 0 false (((s.released i lr).writeQD i w act res).updHand i.hand
        (fun h => h.orFlags (act.list.foldl (fun f t => f ||| flags t) 0))))

/-- R342 to R348: `cvt` converts and packs elements; `pkscl` puts a scale code in place; `unpk` gives a scaled element; `dot8` adds the exact sum of
eight products to C and rounds once; `hred` reduces over the active lanes by the tree of R245; `ftag` gives A's tag and `stag` gives A's word a
tag. -/
def Obligations.ConversionResults : Prop :=
  ∀ (s : State) (i : SplitIssue) (w : CoreWords), Issues s i w →
    let h := s.hand i.hand
    let act := i.active h w
    let low := Lanes.lowest act
    let a := w.gA
    let d := w.gName w.nameD
    let rnd := w.x.rnd.toNat
    let lrA := w.lrNames a (.lit 0) (.lit 0)
    let clean (o : Operand) (tag : BitVec 4) : Prop := poisonOf i act h o = none ∧ mixedOf i act h o = none ∧ tagmisOf i act h o (fun t => t == tag) = none
    (let src : BitVec 4 := if w.f2 5 4 = 0 then checkTag (a.tag h i.uni low) else BitVec.ofNat 4 (w.f2 5 4)
     let dst := w.x.fmt
     let d := if tagElems src < tagElems dst then d else .lit 0
     poisonOf i act h a = none → mixedOf i act h a = none → tagmisOf i act h a (fun t => checkTag t == src) = none → poisonOf i act h d = none →
      convListed src dst = true → Readable s i act [(a, .move), (d, .move)] w.gDst lrA →
      exec (.cvt w) s = .next (s.finish i w 0 false ((s.released i lrA).writeFlagged i w act
        (fun t => convWord src dst (w.f2 0 5) rnd w.x.sat (a.word h i.uni t) (d.word h i.uni t)) dst))) ∧
    (clean a 3 → poisonOf i act h d = none → Readable s i act [(a, .move), (d, .move)] w.gDst lrA →
      exec (.pkscl w) s = .next (s.finish i w 0 false ((s.released i lrA).writeFlagged i w act (fun t =>
        let c := scaleCode w.x.fmt (FFmt.f32.decode (a.word h i.uni t).toNat)
        (putElems (d.word h i.uni t) 8 (w.f2 0 2) [c.1], c.2)) 0xC))) ∧
    (∀ tag ∈ [(6 : BitVec 4), 7, 8, 9], let lr := w.lrNames a w.gB (.lit 0)
     a.isReg = true → clean a tag → clean w.gB 0xC → Readable s i act [(a, .move), (w.gB, .move)] w.gDst lr →
      exec (.unpk w) s = .next (s.finish i w 0 false ((s.released i lr).writeFlagged i w act (fun t =>
        unpkWord (a.tag h i.uni t) (w.f2 0 5) (w.f2 5 2) rnd (a.word h i.uni t) (w.gB.word h i.uni t)) 3))) ∧
    (∀ ta tb : BitVec 4, dotPair ta tb = true → w.pA = .pair w.nameA → w.pB = .pair w.nameB →
      let one (n : Nat) (t : BitVec 4) : Operand := if t = 6 ∨ t = 7 then .pair n else .g n
      let a := one w.nameA ta
      let b := one w.nameB tb
      let lr := w.lrNames w.pA w.pB w.gC
      w.pA.tag h i.uni low = ta → w.pB.tag h i.uni low = tb → clean a ta → clean b tb → clean w.gC 3 →
      Readable s i act [(a, .move), (b, .move), (w.gC, .move)] w.gDst lr →
      exec (.dot8 w) s = .next (s.finish i w 0 false ((s.released i lr).writeFlagged i w act (fun t =>
        dot8Word ta tb rnd w.x.sat (w.pA.val h i.uni t) (w.pB.val h i.uni t) (w.gC.word h i.uni t)) 3))) ∧
    (∀ r ∈ hredRows,
      let fmt := fltFmt i act h w [a]
      let fold := hredTree (hredWord w r.2 fmt) ((List.range 32).map (fun t => if act.has t then some (a.word h i.uni t) else none))
      fltCheck i act h w [a] (fun t => isFloatTag t || t == 1 || t == 2) = none → Readable s i act [(a, .move)] w.gDst lrA →
      exec (r.1 w) s = .next (s.finish i w 0 false (((s.released i lrA).writeD i w act (fun _ => fold.1) fmt).updHand i.hand
        (fun h => h.orFlags fold.2)))) ∧
    (Readable s i act [(a, .move)] w.gDst lrA →
      exec (.ftag w) s = .next (s.finish i w 0 false ((s.released i lrA).writeD i w act (fun t => (a.tag h i.uni t).zeroExtend 32) 2)) ∧
      exec (.stag w) s = .next (s.finish i w 0 false ((s.released i lrA).writeD i w act (fun t => a.word h i.uni t) w.x.fmt)))

/-! ## Class 5 -/

/-- R350 and R353 to R365: `tcfg` gives a tile its shape, or raises TILEX; each other tile or accumulator instruction, when its shapes, its block
(R352) and its addresses pass, joins the order of its core's work with the place it names, becomes outstanding and ends the count of its hand's
yields (R86). In a handler, one that reads what work in flight will write, or accumulates onto it, parks until that work has completed (R202). -/
def Obligations.TilesIssue : Prop :=
  ∀ (s : State) (i : SplitIssue) (w : CoreWords), Issues s i w →
    let h := s.hand i.hand
    let act := i.active h w
    let a := uniVal i act h w.nameA
    let b := uniVal i act h w.nameB
    let shape (t : Nat) : DWord := ((s.core i.core).tiles.getD t Tile.init).tsh
    let place (locs : List (Nat × Nat)) : Nat := ((locs.head?).map Prod.snd).getD 0
    let sent (ins : Instr) (s' : State) (op : TileOp) (va vb : DWord) : Prop :=
      let first := (s'.core i.core).work.find? (fun e => meetsRes e.writes (newWork s' i op va vb).needs)
      (i.lanes &&& (s'.hand i.hand).trapMode = 0 ∨ first = none →
        exec ins s = .next (s.finish i w 0 true
          ((s'.addWork i.core (newWork s' i op va vb)).addOutst i.hand act (.tile i.core (8 * s'.tick)) [] 0 0))) ∧
      ∀ e, i.lanes &&& (s'.hand i.hand).trapMode ≠ 0 → first = some e →
        exec ins s = .next (((s'.updHand i.hand (fun h => { h with parks := h.parks ++ [(i.lanes, .tile e.id)] })).countIssue i w.rb false).finishCycle
          i.core i.slot)
    (let lit := decide (w.nameB = w.zeroName)
     let v := (if lit then w.litVal else a) &&& ~~~((1 : DWord) <<< 24)
     Readable s i act (if lit then [] else [(w.hA, .move)]) [] [] →
      (shBroken v = true → exec (.tcfg w) s = .next (s.faulted i w (i.fault act 0x18 0 (shape w.nameD) act))) ∧
      (shBroken v = false → ∀ s1, s1 = s.updCore i.core (fun c =>
          { c with tiles := putAt 16 Tile.init (fun t => { t with tsh := v ||| (1 <<< 24) }) w.nameD c.tiles }) →
        ∀ s2, s2 = s1.addWork i.core (newWork s1 i (.cfg w.nameD) v 0) →
        exec (.tcfg w) s = .next (s.finish i w 0 false (s2.kick (s2.core i.core).work.length i.core)))) ∧
    (let v := shape w.nameD
     let ea := (a &&& 0xFFFFFFFF00000000) ||| BitVec.ofNat 64 ((a.toNat + w.x.w2.toNat) % 2 ^ 32)
     let broken := shValid v = false ∨ shBroken (v &&& ~~~((1 : DWord) <<< 24)) = true
     Readable s i act [(w.hA, .move)] [] [] →
      (broken → exec (.tld w) s = .next (s.faulted i w (i.fault act 0x18 0 v act)) ∧ exec (.tst w) s = .next (s.faulted i w (i.fault act 0x18 0 v act))) ∧
      (¬ broken → ∀ locs s', s.checkAccess i act true .read 64 (tileBytes v) (fun _ => ea) = .ok (locs, s') →
        sent (.tld w) (s'.touchRange (s'.hand i.hand) act.list (place locs) (tileBytes v)) (.load w.nameD (place locs) false) v 0) ∧
      (¬ broken → ∀ locs s', s.checkAccess i act true .write 64 (tileBytes v) (fun _ => ea) = .ok (locs, s') →
        sent (.tst w) s' (.store w.nameD (place locs)) v 0)) ∧
    (let va := shape w.nameB
     let vb := shape w.nameC
     let row := (a + BitVec.ofNat 64 (w.f2 0 8)).toNat
     let pairs := mmaPair (shTag va) (shTag vb) = true
     let fits := shK va = false ∧ shK vb = true ∧ shCols va = shRows vb
     Readable s i act [(w.hA, .move)] [] [] →
      (¬ pairs → exec (.mma w) s = .next (s.faulted i w (litMis i act w.nameC (shTag vb)))) ∧
      (pairs → fits → row + shRows va ≤ 256 → w.f2 8 8 + shCols vb ≤ 256 →
        sent (.mma w) s (.mma row (w.f2 8 8) w.nameB w.nameC (List.range (shRows va))) va vb) ∧
      (pairs → fits → 256 < row + shRows va →
        exec (.mma w) s = .next (s.faulted i w (i.faultW act 0x19 (BitVec.ofNat 16 (max row 256))))) ∧
      (let width := w.f2 13 6
       let n := 8 * (w.f2 8 5 + 1)
       let r (m : Nat) : Nat := (m / width + w.f2 19 2) * (width + 3) + m % width + w.f2 21 2
       pairs → fits → r (n - 1) < shRows va → row + n ≤ 256 → w.f2 24 8 + shCols vb ≤ 256 →
        sent (.mmaWin w) s (.mma row (w.f2 24 8) w.nameB w.nameC ((List.range n).map r)) va vb)) ∧
    (let row := (a + BitVec.ofNat 64 (w.f2 0 8)).toNat
     let nr := w.f2 16 8 + 1
     let nc := 8 * (w.f2 24 5 + 1)
     let mem := w.f2 29 1 == 1
     row + nr ≤ 256 → w.f2 8 8 + nc ≤ 256 →
      (Readable s i act [(w.hA, .move)] [] [] → sent (.acz w) s (.acz row (w.f2 8 8) nr nc) 0 0) ∧
      (Readable s i act [(w.hA, .move), (w.hB, .move)] [] [] →
        (∀ locs s', s.checkAccess i act true .read 16 (4 * nr * nc) (fun _ => b) = .ok (locs, s') →
          sent (.acld w) s' (.acld row (w.f2 8 8) nr nc (place locs)) 0 0) ∧
        (∀ lines off s', s.blockDest i act mem b (4 * nr * nc) = .ok (lines, off, s') →
          sent (.acst w) s' (.acst row (w.f2 8 8) nr nc lines off) 0 0) ∧
        (getField b 0 8 + nr ≤ 256 → getField b 8 8 + nc ≤ 256 → b >>> 26 = 0 →
          (s.part h.part).cfg.clusters.getLsbD (getField b 21 5) = true →
          sent (.acdrain w) s (.drain row (w.f2 8 8) nr nc (32 * getField b 21 5 + getField b 16 5) (getField b 0 8) (getField b 8 8)) 0 0))) ∧
    (let c := uniVal i act h w.nameC
     let row := getField a 0 32 + w.f2 0 8
     let nr := w.f2 16 8 + 1
     let nc := 8 * (w.f2 24 5 + 1)
     let bias := getField a 32 32
     Readable s i act [(w.hA, .move), (w.hB, .move), (.h w.nameC, .move)] [] [] →
      getField c 32 2 ≠ 3 → c >>> 34 = 0 → row + nr ≤ 256 → w.f2 8 8 + nc ≤ 256 →
      ∀ bl s1 lines off s2,
        (bias = 0 ∧ bl = none ∧ s1 = s ∨ bias ≠ 0 ∧ ∃ locs, s.checkAccess i act true .read 4 (4 * nc) (fun _ => BitVec.ofNat 64 bias) =
          .ok (locs, s1) ∧ bl = (locs.head?).map Prod.snd) →
        s1.blockDest i act (w.f2 29 1 == 1) b (nr * nc * elemBits w.x.fmt / 8) = .ok (lines, off, s2) →
        sent (.epi w) s2 (.epi row (w.f2 8 8) nr nc lines off (c.setWidth 32) (getField c 32 2) bl w.x.fmt w.x.rnd.toNat w.x.sat) 0 0)

/-- R181, R354 and R360 to R365: `gmma` marks its hand as arrived with its view and its older stores, and the round does not fire while a member
that is not DONE has not arrived; in a handler it parks while work in flight will write what it reads (R202). A member's slice, once the leader's A tile has been read, every member's older stores have drained and nothing in
its core's order holds it, is written, joins the members' views and sets DONE, or an uncorrectable word kills. The work of a tile result may start,
reads no uncorrectable word of a tile or accumulator, and its writes have drained: it returns with its flags and its engine's view; a check that
fails kills with the rows written before in place. A drain's block reaches its target core, which adds it. -/
def Obligations.TileWorkCompletes : Prop :=
  ∀ (s : State),
    (∀ (i : SplitIssue) (w : CoreWords), Issues s i w →
      let h := s.hand i.hand
      let act := i.active h w
      let va := ((s.core i.core).tiles.getD w.nameB Tile.init).tsh
      let vb := ((s.core i.core).tiles.getD w.nameC Tile.init).tsh
      let row := (uniVal i act h w.nameA + BitVec.ofNat 64 (w.f2 0 8)).toNat
      let arrived := s.updHand i.hand (fun h' =>
        { h' with gang := setField (setField h'.gang 9 1 1) 10 1 0, gangView := [],
                  arrival := some { row := row, col := w.f2 8 8, a := w.nameB, b := w.nameC, shA := va, shB := vb, lead := getField h'.gang 6 3,
                                    fork := h'.fork i.lanes.list } })
      Readable s i act [(w.hA, .move)] [] [] → getField h.gang 0 3 ≠ 0 → h.gang.getLsbD 9 = false → shValid vb = true → shK vb = true →
      (getField h.gang 3 3 = getField h.gang 6 3 → shValid va = true ∧ shK va = false) → row < 256 → w.f2 8 8 + shCols vb ≤ 256 →
      let needs : List TileRes := .tile w.nameC ::
        (if getField h.gang 3 3 = getField h.gang 6 3 then .tile w.nameB :: block row (w.f2 8 8) (shRows va) (shCols vb) else [])
      let first := (s.core i.core).work.find? (fun e => meetsRes e.writes needs)
      (i.lanes &&& h.trapMode = 0 ∨ first = none → exec (.gmma w) s = .next (s.finish i w 0 true (arrived.fireRound i))) ∧
      (∀ e, i.lanes &&& h.trapMode ≠ 0 → first = some e →
        exec (.gmma w) s = .next (((s.updHand i.hand (fun h => { h with parks := h.parks ++ [(i.lanes, .tile e.id)] })).countIssue i w.rb false).finishCycle
          i.core i.slot)) ∧
      ((∃ k ∈ arrived.roundKeys (arrived.hand i.hand), (arrived.hand k).arrival = none ∧ (arrived.hand k).state ≠ .done) →
        arrived.fireRound i = arrived)) ∧
    (let h := s.hand s.args.n
     ∀ z a x, h.slice = some z → z.a = some a →
      (s.core z.core).work.find? (fun x => x.fork.hand = h.key && (match x.op with | .slice _ _ _ _ => true | _ => false)) = some x →
      let core := s.core z.core
      let b := core.tiles.getD z.b Tile.init
      let rows := List.range (shRows z.shA)
      let clean := meets (a.badRows z.shA) rows = false ∧ b.badRows z.shB = []
      conflicts (core.before x.id) [.tile z.b] (block z.row z.col rows.length (shCols z.shB)) = false → (∀ f ∈ z.forks, s.forkReady f = true) →
      (clean → core.badBlock z.row z.col rows.length (shCols z.shB) = false →
        let m := core.mma z.row z.col a z.shA b z.shB rows
        exec .gmmaSliceDone s = .next (((s.updCore z.core (fun _ => m.1)).updSaved h.key (fun h =>
          { h.orFlags m.2 with gang := setField h.gang 10 1 1, slice := none,
                               gangView := z.forks.foldl (fun v f => View.join v (s.forkView f)) [] })).endWork z.core x.id)) ∧
      (¬ clean → exec .gmmaSliceDone s =
        .next ((if a.hit.isEmpty && b.hit.isEmpty then s else s.logTile z.core 1).killGang h.key 0x12 none false)) ∧
      (clean → core.badBlock z.row z.col rows.length (shCols z.shB) = true →
        exec .gmmaSliceDone s = .next ((s.logTile z.core 2).killGang h.key 0x12 none false))) ∧
    ∀ o c wid x, (s.hand s.args.n).outst.find? (fun o => o.id = s.args.m && !o.returned) = some o →
      (s.hand s.args.n).outst.find? (fun o => o.id = s.args.m) = some o → o.work = .tile c wid →
      (s.core c).work.find? (fun x => x.id = wid) = some x →
      (∀ r c' nr nc tgt tr tc, x.op = .drain r c' nr nc tgt tr tc → s.workReady c x = true → (s.core c).badBlock r c' nr nc = false →
        let vals := (List.range nr).map (fun m => rowPart ((s.core c).accRow (r + m)) c' nc)
        exec .acdrainAdd s = .next (((s.endWork c wid).addWork tgt { x with op := .sums tr tc vals }).updOutst s.args.n o.id
          (fun o => { o with work := .tile tgt wid }))) ∧
      (let k := s.kick (s.core c).work.length c
       (k.core c).work.find? (fun x => x.id = wid) = some x →
       let done (s' : State) (f : Flags) (v : View) (ws : List Chunk) : State :=
         let p := State.writeChunks (coreParty c) ws (s', v)
         ((p.1.updOutst s.args.n o.id (fun o =>
           { o with back := o.lanes, flags := o.flags ||| f, owed := o.owed ++ o.split.list.map (fun t => (t, p.2)) })).endWork c wid).returnResult
             s.args.n o.id
       let starts := x.ran = none ∧ k.workReady c x = true
       (∀ r c' vals, x.op = .sums r c' vals → starts → (k.core c).badBlock r c' vals.length ((vals.headD []).length) = false →
         let m := (k.core c).addBlock r c' vals.length (fun m => vals.getD m [])
         exec .acdrainAdd s = .next (done (k.updCore c (fun _ => m.1)) m.2 (k.forkView x.fork) [])) ∧
       ((∀ y ∈ (s.core c).work, y.id = wid → (∀ r c' nr nc tgt tr tc, y.op ≠ .drain r c' nr nc tgt tr tc) ∧ ∀ r c' vals, y.op ≠ .sums r c' vals) →
         (starts → x.op.meetsBad (k.core c) x.shA x.shB = none →
           (∀ s' f v ws, k.runWork c x s.args.picks = .ok s' f v ws →
             exec .resultReturn s = .next (done s' f v (k.workWrites s.args.n x ws))) ∧
           (∀ s' code ws, k.runWork c x s.args.picks = .kill s' code ws →
             exec .resultReturn s = .next (s'.workKills s.args.n c x code ws))) ∧
         (starts → ∀ u, x.op.meetsBad (k.core c) x.shA x.shB = some u → exec .resultReturn s =
           .next ((if (k.core c).tiles.all (fun t => t.hit.isEmpty) && u == 1 then k else k.logTile c u).workKills s.args.n c x 0x12 [])) ∧
         (∀ f, x.ran = some f → exec .resultReturn s = .next (done k f x.fork.view x.wait))))

/-- R244 and R358: a matrix operation over rows of A changes, of the accumulator, the block that it names: each element of it is the element before
with the K-blocks of its row and column added in order, and every other element, row and tile stays. -/
def Obligations.MatrixAccumulates : Prop :=
  ∀ (c : Core) (row col : Nat) (a b : Tile) (va vb : DWord) (rows : List Nat),
    row + rows.length ≤ 256 → col + shCols vb ≤ 256 →
    let c' := (c.mma row col a va b vb rows).1
    (∀ m, m < rows.length → ∀ j, j < 256 → (c'.accRow (row + m)).getD j 0 =
      if col ≤ j ∧ j < col + shCols vb then (mmaElem a va (rows.getD m 0) b vb (j - col) ((c.accRow (row + m)).getD j 0)).1
      else (c.accRow (row + m)).getD j 0) ∧
    (∀ r, r < row ∨ row + rows.length ≤ r → c'.accRow r = c.accRow r ∧ c'.chkElem r = c.chkElem r) ∧
    c'.tiles = c.tiles ∧ c'.slots = c.slots ∧ c'.work = c.work

/-! ## Class 6 -/

/-- R368 to R375: `cpy` hands a copy to its engine, with its scratch range or its circular buffer and with its barrier; `wbind` reads its image and
binds when its result returns; `winq` answers in order with the window's word; `qput` queues a job or finds the queue full, and `qget` takes the
oldest finished job, waits for it, or finds none. -/
def Obligations.EnginesIssue : Prop :=
  (∀ (s : State) (o : Outst) (win loc : Nat) (f : Fork),
    let k := s.args.n
    let id := s.args.m
    (s.hand k).outst.find? (fun o => o.id = id) = some o → o.returned = false → o.work = .wbind win loc f →
    (s.forkReady f = false → exec .resultReturn s = .next s) ∧
    ∀ bs bad v st s', s.forkReady f = true → s.engRead (s.forkView f) loc 32 s.args.picks = (bs, bad, v) →
      (bad.foldl State.logUE ((s.crossHome (coreDie (s.hand k).core) loc).hostRead loc)).bindWindow (s.hand k) win (leNat bs) = (st, s') →
      exec .resultReturn s = .next ((s'.updOutst k id (fun o =>
        { o with dsts := o.dsts.map (fun d => { d with vals := (uniformDst d.dst 2 (BitVec.ofNat 64 st)).vals }) })).deliverResult k id)) ∧
  ∀ (s : State) (i : SplitIssue) (w : CoreWords), Issues s i w →
    let h := s.hand i.hand
    let act := i.active h w
    let a := uniVal i act h w.nameA
    let b := uniVal i act h w.nameB
    let place (locs : List (Nat × Nat)) : Nat := ((locs.head?).map Prod.snd).getD 0
    (let lines := w.f2 0 13 + 1
     let out := w.f2 13 1 == 1
     let cb := w.f2 14 1 == 1
     let bb := w.f2 18 1 == 1
     let b := if cb && !bb then 0 else b
     let cbd := (s.core i.core).cbd.getD (w.f2 15 3) 0
     Readable s i act ([(w.hA, .move)] ++ (if cb && !bb then [] else [(w.hB, .move)])) [] [] → (bb = true ∨ b >>> 32 = 0) →
      ∀ locs s1 bars s2,
      (cb = false → s.checkAccess i act true (if out then .read else .write) 64 (64 * lines) (fun _ => (b.setWidth 32).zeroExtend 64) = .ok (locs, s1)) →
      (bb = true → s.checkAccess i act true .write 16 16 (fun _ => b >>> 32) = .ok (bars, s2)) →
      (cb = true → cbdBlock (i.core / 32) cbd ≠ none) →
      let c : Copy :=
        { id := s.nextCopy, core := i.core, outId := h.nextId, part := h.part, handle := a.setWidth 32, off := (a >>> 32).toNat * 64, lines := lines,
          out := out, scratch := if cb then 0 else place locs, block := if cb then cbdBlock (i.core / 32) cbd else none, slot := none,
          barrier := if bb then some (place bars) else none, fork := h.fork i.lanes.list, started := false, early := none, discarded := false,
          prog := default }
      exec (.cpy w) s = .next (s.finish i w 0 true (({ s with copies := s.copies ++ [c], nextCopy := s.nextCopy + 1 }.addOutst i.hand act
        (.copy s.nextCopy) [pendingDst (.h w.nameD) 0] 0 0).kickCopies))) ∧
    (Readable s i act [(w.hA, .move), (w.hB, .move)] [] [] →
      (a >>> 6 ≠ 0 → exec (.wbind w) s = .next (s.faulted i w (i.fault act 0x0A 0 a act))) ∧
      (a >>> 6 = 0 → b >>> 32 = 0 → ∀ locs s', s.checkAccess i act true .read 32 32 (fun _ => b) = .ok (locs, s') →
        exec (.wbind w) s = .next (s.finish i w 0 true (s.addOutst i.hand act (.wbind a.toNat (place locs) (h.fork i.lanes.list)) [pendingDst (.h w.nameD) 2] 0 0)))) ∧
    (let s' := s.touch h i.lanes.list (i.core / 32) a.toNat
     Readable s i act [(w.hA, .move)] [] [] →
      (a >>> 6 ≠ 0 → exec (.winq w) s = .next (s.faulted i w (i.fault act 0x0A 0 a act))) ∧
      (a >>> 6 = 0 → (s'.cluster (i.core / 32)).windows.find? (fun x => x.idx = a.toNat) = none →
        exec (.winq w) s = .next (s.finish i w 0 false (s'.writeH i.hand w.nameD 3 2))) ∧
      (a >>> 6 = 0 → ∀ x, (s'.cluster (i.core / 32)).windows.find? (fun x => x.idx = a.toNat) = some x →
        let joined := i.lanes.list.foldl (fun s t => s.updThread i.hand t (fun m => { m with view := View.join m.view x.fork.view })) s'
        exec (.winq w) s = .next (s.finish i w 0 false ((if x.state = 2 then joined else s').writeH i.hand w.nameD
          (BitVec.ofNat 64 (x.state.toNat + (if x.err then 4 else 0) + x.tier.toNat * 8 + x.expert * 2 ^ 16)) 2)))) ∧
    (let jobs := s.jobs.filter (fun j => j.fork.hand = i.hand && j.queue == w.nameA)
     Readable s i act [(w.hB, .move)] [] [] → b >>> 32 = 0 → ∀ locs s', s.checkAccess i act true .read 32 32 (fun _ => b) = .ok (locs, s') →
      (8 ≤ jobs.length → exec (.qput w) s = .next (s.finish i w 0 true (s.answer i act [uniformDst (.h w.nameD) 2 1] []))) ∧
      (jobs.length < 8 → ∀ j : Job, j = { queue := w.nameA, loc := place locs, core := i.core, shares := s.shares h,
                                          fork := h.fork i.lanes.list, finished := none, flags := 0 } →
        exec (.qput w) s = .next (s.finish i w 0 true (State.answer { s with jobs := s.jobs ++ [j] } i act [uniformDst (.h w.nameD) 2 0] [])))) ∧
    (let jobs := s.jobs.filter (fun j => j.fork.hand = i.hand && j.queue == w.nameA)
     let waits := h.outst.any (fun o => !o.returned && o.work == .qget w.nameA)
     let d := pendingDst (.h w.nameD) 0
     (jobs = [] → exec (.qget w) s = .next (s.finish i w 0 false (s.answer i act [uniformDst (.h w.nameD) 0 1] []))) ∧
     ∀ j rest, jobs = j :: rest →
      (j.finished.isSome = true → waits = false → exec (.qget w) s = .next (s.finish i w 0 false
        ((((s.popJob i.hand w.nameA).addOutst i.hand act .value [d] 0 0).updOutst i.hand h.nextId (fun o => o.withJob j)).updHand i.hand
          (fun h => { h with yields := 0 })))) ∧
      (j.finished = none ∨ waits = true → exec (.qget w) s = .next (s.finish i w 0 false (s.addOutst i.hand act (.qget w.nameA) [d] 0 0))))

/-- R162, R163 and R372: the circular-buffer instructions raise CBSTATE without a valid descriptor; a `take` takes the slot at its index when that is
FULL or free, or answers EMPTY, or waits for a copy in flight or an earlier take; a `give` waits until the split's older stores have drained, then gives
its slot back. A block that breaks its limits, or whose slot or FEED does not allow the action, answers CBSTATE, which comes with the answer.
R377 and R378: `xcnt.rd` and `xcnt.clr` give each active lane the counter of its expert, one lane after another, and `xcnt.clr` leaves 0; `rng` claims
the next chunk of its hand's range, at most GRAIN long and never past its end, and gives the last chunk again after a relaunch. -/
def Obligations.BuffersAndCounters : Prop :=
  (∀ (s : State) (i : SplitIssue) (w : CoreWords), Issues s i w →
     let h := s.hand i.hand
     let act := i.active h w
     let cbd := (s.core i.core).cbd.getD w.nameA 0
     let d (v : DWord) : OutDst := uniformDst (.h w.nameD) 0 v
     let fault := s.faulted i w (i.fault act 0x1A 0 cbd act)
     let drained := s.storesOpen h i.lanes = false
     let answered (s' : State) (dst : List OutDst) (view : View) (acted : Bool) : State := s'.cbAnswer i act dst view acted
     let parked (s' : State) : State := s'.updHand i.hand (fun x => { x with parks := x.parks ++ [(i.lanes &&& x.live, .result h.nextId)] })
     let fails (dst : List OutDst) : Host.Outcome State Fault Refusal :=
       .next (s.finish i w 0 false (parked (s.addOutst i.hand act (.cbFault i.pc cbd) dst 0 0)))
     let taken : List OutDst := [pendingDst (.h w.nameD) 0]
     (cbdBlock (i.core / 32) cbd = none →
       exec (.cbtakeFull w) s = .next fault ∧ exec (.cbtakeFree w) s = .next fault ∧
       (drained → exec (.cbgiveFull w) s = .next fault ∧ exec (.cbgiveFree w) s = .next fault)) ∧
     (¬ drained → ∀ s', s' = s.updHand i.hand (fun h => { h with parks := h.parks ++ [(i.lanes, .stores)] }) →
       let waits := (s'.countIssue i w.rb false).finishCycle i.core i.slot
       exec (.cbgiveFull w) s = .next waits ∧ exec (.cbgiveFree w) s = .next waits) ∧
     (∀ block, cbdBlock (i.core / 32) cbd = some block → s.cbRead block = none →
       (s.firstTake block = none → exec (.cbtakeFull w) s = fails taken) ∧ exec (.cbtakeFree w) s = fails taken ∧
       (drained → exec (.cbgiveFull w) s = fails [] ∧ exec (.cbgiveFree w) s = fails [])) ∧
     ∀ block n, cbdBlock (i.core / 32) cbd = some block → s.cbRead block = some n →
       (s.firstTake block ≠ none ∨ cbState n (cbCI n) = 2 → exec (.cbtakeFull w) s = .next (s.finish i w 0 false
         ((s.addOutst i.hand act (.cbTake block i.pc cbd s.tick) taken 0 0).updHand i.hand (fun x =>
           { x with parks := x.parks ++ [(i.lanes &&& x.live, .result h.nextId)], yields := 0 })))) ∧
       (cbFeed n = false → exec (.cbtakeFree w) s = fails taken) ∧
       (drained → cbFeed n = false ∨ cbState n (cbWI n) ≠ 1 → exec (.cbgiveFull w) s = fails []) ∧
       (s.firstTake block = none →
         (cbState n (cbCI n) = 3 →
           let kept := { s with slotViews := s.slotViews.filter (fun x => !(x.block = block && x.slot == cbCI n)) }
           let view := ((s.slotViews.find? (fun x => x.block = block && x.slot == cbCI n)).map SlotView.view).getD []
           let addr : DWord := BitVec.ofNat 64 (cbAddr n (cbCI n))
           exec (.cbtakeFull w) s = .next (s.finish i w 0 false
             (answered (kept.cbWrite block n (cbNext (cbSet n (cbCI n) 4) 80)) [d addr] view (addr != 0xFFFFFFFF)))) ∧
         (cbState n (cbCI n) ≠ 2 → cbState n (cbCI n) ≠ 3 →
           exec (.cbtakeFull w) s = .next (s.finish i w 0 false (answered s [d 0xFFFFFFFF] [] false)))) ∧
       (cbFeed n = true →
         (cbState n (cbPI n) = 0 → let addr : DWord := BitVec.ofNat 64 (cbAddr n (cbPI n))
           exec (.cbtakeFree w) s = .next (s.finish i w 0 false
             (answered (s.cbWrite block n (cbNext (cbSet n (cbPI n) 1) 64)) [d addr] [] (addr != 0xFFFFFFFF)))) ∧
         (cbState n (cbPI n) ≠ 0 → exec (.cbtakeFree w) s = .next (s.finish i w 0 false (answered s [d 0xFFFFFFFF] [] false))) ∧
         (drained → cbState n (cbWI n) = 1 →
           let sv : SlotView := { block := block, slot := cbWI n, view := (h.fork i.lanes.list).view }
           let viewed := { s with slotViews := sv :: s.slotViews.filter (fun x => !(x.block = block && x.slot == cbWI n)) }
           exec (.cbgiveFull w) s = .next (s.finish i w 0 false
             (answered (viewed.cbWrite block n (cbNext (cbSet n (cbWI n) 3) 72)) [] [] true).kickCopies))) ∧
       (drained → cbState n (cbRI n) = 4 → exec (.cbgiveFree w) s = .next (s.finish i w 0 false
         (answered (s.cbWrite block n (cbNext (cbSet n (cbRI n) 0) 88)) [] [] true).kickCopies)) ∧
       (drained → cbState n (cbRI n) ≠ 4 → exec (.cbgiveFree w) s = fails [])) ∧
  (∀ (s : State) (i : SplitIssue) (w : CoreWords), Issues s i w →
     let h := s.hand i.hand
     let act := i.active h w
     (let lr := w.lrNames w.gA (.lit 0) (.lit 0)
      let e (t : Nat) : Nat := (w.gA.word h i.uni t).toNat
      let s' := s.released i lr
      Readable s i act [(w.gA, .move)] w.gDst lr → (∀ t ∈ act.list, e t < 4096) → ∀ clear : Bool,
       exec (if clear then .xcntClr w else .xcntRd w) s = .next (s.finish i w 0 clear
         (s'.addOutst i.hand act (.xcnt clear (act.list.map (fun t => (t, e t)))) (asyncDsts (s'.hand i.hand) act w w.gDst 2) 0 0))) ∧
     (h.pair ≠ 2 →
      let give (s' : State) (lo hi : DWord) : State :=
        s'.addOutst i.hand act .sent [uniformDst (.h w.nameD) 0 lo, uniformDst (.h (w.nameD + 1)) 0 hi] 0 0
      (h.range = none → exec (.rng w) s = .next (s.faulted i w (i.faultW act 0x0A 0))) ∧
      ∀ id r, h.range = some id → s.ranges.find? (fun x => x.id = id) = some r →
       let b := s.retain h.lid h.hid
       (b.rngAgain = true → exec (.rng w) s = .next (s.finish i w 0 true (give (s.setRetain { b with rngAgain := false }) b.rlo b.rhi))) ∧
       (b.rngAgain = false → r.hi.toInt ≤ r.cur.toInt → ∃ s', exec (.rng w) s = .next (s.finish i w 0 true (give s' r.hi r.hi)) ∧
         s' = { s with ranges := updWhere (fun x => x.id = id) (fun _ => r) s.ranges }) ∧
       (b.rngAgain = false → r.cur.toInt < r.hi.toInt → 0 < r.grain.toNat → ∃ s' hi,
         exec (.rng w) s = .next (s.finish i w 0 true (give s' r.cur hi)) ∧ hi.toInt = min r.hi.toInt (r.cur.toInt + r.grain.toNat) ∧
         s' = State.setRetain { s with ranges := updWhere (fun x => x.id = id) (fun _ => { r with cur := hi }) s.ranges }
           { b with chv := true, rlo := r.cur, rhi := hi }))) ∧
  ∀ (s : State) (o : Outst),
    let k := s.args.n
    let id := s.args.m
    let p := (s.hand k).part
    (s.hand k).outst.find? (fun o => o.id = id) = some o → o.returned = false →
    (∀ pc cbd, o.work = .cbFault pc cbd → exec .resultReturn s = .next (s.cbFaulted k o pc cbd)) ∧
    ∀ clear t e rest, o.work = .xcnt clear ((t, e) :: rest) →
      ∃ s' : State, s' = { s with parts := s'.parts } ∧
        (p < 16 → ∀ x, lookupD x (0 : Word) (s'.part p).xcnt = if clear = true ∧ x = e then 0 else lookupD x 0 (s.part p).xcnt) ∧
        exec .resultReturn s = .next ((s'.updOutst k id (fun o =>
          { o.fill t [((lookupD e (0 : Word) (s.part p).xcnt).zeroExtend 64, false)] with work := .xcnt clear rest })).returnIfDone k id)

/-- R369, R158, R159 and R374: a copy or fill whose lines are all there ends when its engine gets to it, a copy to a peer sends its next line instead
until every line has been answered (R24), and a job runs: a sort leaves the keys of its
input in rising order, equal keys in input order, and none lost. -/
def Obligations.EnginesComplete : Prop :=
  (∀ (s : State) (c : Copy), s.kickCopies.copies.find? (fun c => c.id = s.kickCopies.args.n) = some c → c.moving = true →
    s.kickCopies.linesOpen c.id = false → (s.kickCopies.hand c.fork.hand).pair ≠ 2 →
    (s.kickCopies.linesLeft c = false → exec .copyComplete s = .next (s.kickCopies.endCopy c s.kickCopies.args.picks)) ∧
    (s.kickCopies.linesLeft c = true →
      exec .copyComplete s = .next ((s.kickCopies.copyStep c.id none s.kickCopies.args.picks).copyStep c.id (some 0) []))) ∧
  (∀ (s : State) (x : Window), (s.cluster s.args.n).windows.find? (fun x => x.idx = s.args.m && x.state == 1) = some x → s.forkReady x.fork = true →
    s.linesOpen x.fill = false → exec .windowFillEnd s = .next (s.endFill s.args.n x s.args.picks)) ∧
  (∀ (s : State) (j : Job) (h : Hand) (r : JobOut) (v : View) (bad : List Nat),
    let is (j : Job) : Bool := j.fork.hand = s.args.n && j.queue == s.args.m && j.finished.isNone
    s.jobs.find? is = some j → s.forkReady j.fork = true → j.ran = none → s.hand? s.args.n = some h → h.state ≠ .killed →
    h.outst.find? (fun o => !o.returned && o.work == .qget s.args.m) = none → s.runJob j (s.forkView j.fork) s.args.picks = (r, v, bad) →
    let logged := bad.foldl State.logUE (s.crossHome (coreDie j.core) j.loc)
    let put (x : Job) (s : State) : State := { s with jobs := s.jobs.takeWhile (fun x => !is x) ++ [x] ++ (s.jobs.dropWhile (fun x => !is x)).tail }
    let ends (word : DWord) (f : Flags) (v : View) : Job :=
      { j with ran := some word, finished := some word, flags := f, wait := [], fork := { j.fork with view := v, started := true } }
    (∀ code, r = .error code → logged.hand? s.args.n = some h → j.wait = [] →
      exec .jobComplete s = .next (put (ends (BitVec.ofNat 64 (2 + code * 2 ^ 8)) j.flags v) logged)) ∧
    (∀ loc bs f n, r = .done loc bs f n → let p := State.writeChunks (clusterParty (coreCluster j.core)) (chunksOf loc bs) (logged, v)
      p.1.hand? s.args.n = some h → exec .jobComplete s = .next (put (ends (BitVec.ofNat 64 (n * 2 ^ 32)) f p.2) p.1))) ∧
  ∀ xs : List (Nat × Nat), (sortKeys xs).Perm xs ∧ (sortKeys xs).Pairwise (fun x y => x.1 ≤ y.1) ∧
    ∀ k, (sortKeys xs).filter (fun x => x.1 = k) = xs.filter (fun x => x.1 = k)

/-! ## Class 7 -/

/-- R381 to R385 and R93 to R95: a spawn sends its entry, its arguments in h24 to h31, its token and its factor to the Deck; `cond` gives an OPEN
token of its launch while an entry is free; `resolve` settles an OPEN token of its launch and sends its resolution to every die, does nothing to
another one, and raises NONUNIF when the lanes differ; `lkset` and `lkget` write and read the k register of the scheduler memory, and `segq` asks
its Deck for an entry. -/
def Obligations.SpeculationIssues : Prop :=
  ∀ (s : State) (i : SplitIssue) (w : CoreWords), Issues s i w →
    let h := s.hand i.hand
    let act := i.active h w
    let a := uniVal i act h w.nameA
    (∀ r ∈ spawnRows,
      let entry := i.next + (BitVec.ofNat 24 (w.f2 0 24)).signExtend 64 <<< 2
      let args := (List.range 8).map (fun n => uniVal i act h (24 + n))
      let token := h.schedC w.nameA
      let lk := h.schedK w.nameB
      let pidx := bits i.pc.toNat 2 10 ^^^ bits i.pc.toNat 12 10 ^^^ bits h.lid.toNat 0 10
      let seqs := act.list.map (fun t => (t, (h.thread t).sbNext))
      let parent := h.seg.bind (fun p => (s.seg? p).map (fun e => (p.1, p.2, e.seq)))
      let work : Work := match r.2 with
        | none => .spawn ((h.seg.map Prod.fst).getD (coreDie h.core)) entry args none false 0x8000 false 0 (w.f2 24 1 == 1) seqs parent
        | some (pol, pred) => .spawn (tokenDie token) entry args (some token) pol
            (if pred then BitVec.ofNat 16 (s.estimate (tokenDie token) pidx) else if 0x8000 < lk.toNat then 0x8000 else lk) pred pidx (w.f2 24 1 == 1) seqs
            parent
      Readable s i act ((List.range 8).map (fun n => (Operand.h (24 + n), .move))) [] [] →
      exec (r.1 w) s = .next (s.finish i w 0 true (s.addOutst i.hand act work [pendingDst (.h w.nameD) 2] 0 0))) ∧
    (h.pair ≠ 2 → ((s.die (coreDie i.core)).tokens.filter (fun e => e.state != 0)).length < 4096 → coreDie i.core < 4 →
      ∃ (s' : State) (t : Word) (e : Token), exec (.cond w) s = .next (s.finish i w 0 true (s'.addOutst i.hand act .sent [uniformDst (.c w.nameD) 0 (t.zeroExtend 64)] 0 0)) ∧
        s' = { s with dies := s'.dies } ∧ s.token? h.lid t = none ∧ s'.token? h.lid t = some e ∧ e.state = 1) ∧
    (let v := h.readQ (Lanes.lowest act) w.nameB
     let t := h.schedC w.nameA
     (∀ d, d = Lanes.of (fun t => act.has t && h.readQ t w.nameB != v) → d ≠ 0 →
      exec (.resolve w) s = .next (s.faulted i w (i.fault act 0x03 0 (if v then 1 else 0) d))) ∧
     ((∀ l ∈ act.list, h.readQ l w.nameB = v) → h.pair ≠ 2 →
      ((∀ e, s.token? h.lid t = some e → e.state ≠ 1) → exec (.resolve w) s = .next (s.finish i w 0 true s)) ∧
      (∀ e, s.token? h.lid t = some e → e.state = 1 → ∃ s', exec (.resolve w) s = .next (s.finish i w 0 true s') ∧
        s' = { s with dies := s'.dies, resolutions := s'.resolutions } ∧
        s'.resolutions = s.resolutions ++ (List.range 4).map (fun j => { die := j, token := t, outcome := v, hand := i.hand, order := h.nextId }) ∧
        (s'.token? h.lid t).map Token.state = some (if v then 2 else 3)))) ∧
    (Readable s i act [(w.hA, .move)] [] [] → exec (.lkset w) s = .next (s.finish i w 0 true
      (s.answer i act [uniformDst (.k w.nameD) 0 (BitVec.ofNat 64 (a.toNat % 2 ^ 16))] []))) ∧
    exec (.lkget w) s = .next (s.finish i w 0 false (s.answer i act [uniformDst (.h w.nameD) 2 ((h.schedK w.nameA).zeroExtend 64)] [])) ∧
    (Readable s i act [(w.hA, .move)] [] [] →
      (a >>> 30 ≠ 0 → exec (.segq w) s = .next (s.faulted i w (i.fault act 0x0A 0 a act))) ∧
      (a >>> 30 = 0 → exec (.segq w) s = .next (s.finish i w 0 false
        (s.addOutst i.hand act (.segq (getField a 28 2) (getField a 16 12)) [pendingDst (.h w.nameD) 0] 0 0))))

/-- R99 to R102, R108, R110, R113 and R385: a spawn entry reaches its Deck, in issue order among its hand's, and returns its status with the Deck's die;
a `segq` reads the entry, 0 where there is none of the hand's launch, of which a twin's is its primary's; a resolution that can reach a die is applied there: the
predictor learns of it, the segments of the other polarity are pruned, and the Decks settle: likelihoods are computed again and each confirmed segment is confirmed;
the oldest store of a confirmed segment's region drains once its ancestors' regions have. -/
def Obligations.SpeculationSteps : Prop :=
  ∀ (s : State),
    (let k := s.args.n
     let h := s.hand k
     ∀ o d entry args token pol own pred pidx rng seqs parent, h.outst.find? (fun o => o.id = s.args.m && !o.returned) = some o →
      o.work = .spawn d entry args token pol own pred pidx rng seqs parent → (∀ q ∈ seqs, (h.thread q.1).older q.2 = []) →
      s.deckEarlier h d o.id = false →
      let view := seqs.foldl (fun v q => View.join v (h.thread q.1).view) []
      let in_ := s.enterSeg h d entry args token pol own pred pidx rng view parent
      let st : BitVec 2 := match token with
        | none => 0
        | some t => s.tokenAt d h.lid t
      exec .spawnEntryArrival s = .next ((in_.2.updOutst k o.id (fun o =>
        { o with dsts := o.dsts.map (fun d => { d with vals := (uniformDst d.dst 2 (BitVec.ofNat 64 in_.1)).vals }) })).deliverResult k o.id) ∧
      (token.isSome = true → st = 0 → in_ = (2 + d * 2 ^ 28, s)) ∧
      (¬ (token.isSome = true ∧ st = 0) → 4096 ≤ (s.die d).deck.length → (∀ j, j < 4096 → ∃ e ∈ (s.die d).deck, e.idx = j) → in_ = (1 + d * 2 ^ 28, s)) ∧
      (token.isSome = true → (st = 2 ∧ pol = false ∨ st = 3 ∧ pol = true) → (s.die d).deck = [] → in_ = (3 + d * 2 ^ 28, s))) ∧
    (let k := s.args.n
     let h := s.hand k
     ∀ o d idx, h.outst.find? (fun o => o.id = s.args.m) = some o → o.returned = false → o.work = .segq d idx →
      (s.deckEarlier h d o.id = true → exec .resultReturn s = .next s) ∧
      (s.deckEarlier h d o.id = false → ∀ v : DWord, v = (match s.seg? (d, idx) with
          | some e => if e.lid = h.lid ∨ h.pair = 2 ∧ e.lid = ~~~h.lid then BitVec.ofNat 64 (e.state.toNat + (if e.pol then 8 else 0) +
              e.depth % 16 * 2 ^ 8 + e.cum.toNat * 2 ^ 16 + e.seq.toNat * 2 ^ 32) else 0
          | none => 0) →
        exec .resultReturn s = .next ((s.updOutst k o.id (fun o =>
          { o with dsts := o.dsts.map (fun x => { x with vals := (uniformDst x.dst 0 v).vals }) })).deliverResult k o.id))) ∧
    (let d := s.args.n
     let can (r : Resolution) : Bool := r.die = d &&
       !(s.hand r.hand).outst.any (fun o => !o.returned && o.id < r.order &&
         (match o.work with | .spawn x _ _ _ _ _ _ _ _ _ _ => x == d | .segq x _ => x == d | _ => false))
     ∀ r, s.resolutions.find? can = some r → ∀ direct pairs s1 s2 s3,
      direct = (s.die d).deck.filter (fun e => e.token == r.token) →
      pairs = direct.foldl (fun acc e => if acc.contains (e.pidx, e.pol) then acc else acc ++ [(e.pidx, e.pol)]) [] →
      s1 = { s with resolutions := s.resolutions.filter (fun x => !(x.die = d && x.token == r.token)) } →
      s2 = pairs.foldl (fun s x => s.updPredictor d x.1 (x.2 == r.outcome)) s1 →
      s3 = direct.foldl (fun s e =>
        if e.pol = r.outcome then s.updSeg (d, e.idx) (fun e => { e with own := 0x8000 }) else s.pruneSeg (d, e.idx)) s2 →
      exec .resolutionApply s = .next s3.settle) ∧
    (let p := (s.args.n, s.args.m)
     ∀ e t x rest, s.seg? p = some e → e.region = (t, x) :: rest → e.draining = true → s.ancestorsDrained e = true → e.hand = none →
      ∀ s1, s1 = (s.updSeg p (fun e => { e with region := rest, drained := e.drained + 1 })).storeWord
          p.1 x.word x.mask x.data [] 0 (default : Hand).party →
        let s2 := s1.showStore p e.seq e.drained x.word (s1.lastIdx x.word)
        exec .commitDrain s = .next (if rest = [] then s2.settle else s2))

/-! ## Class 8 -/

/-- R386 to R388 and R9: `srd` gives each active lane its number for LANE, and otherwise writes the register's value into h[D]; the core's cycle
counter has moved on by a free amount (log 46), and a read of `gang` with DONE joins the round (R182). `swr` writes the bits of a register that it may write, and raises PROT for any other. R391 to R393
and R127: `uintr` gives a hand of its launch, where it stands, a pending interrupt, unless it has one, has ended or does not exist, and wakes it; `sig` wakes the
key of its address space; `drop` frees the names of its operands. -/
def Obligations.SystemInstructions : Prop :=
  (∀ (s : State) (i : SplitIssue) (w : CoreWords), Issues s i w →
     let h := s.hand i.hand
     let act := i.active h w
     let ticked := s.updCore i.core (fun x => { x with cyc := x.cyc + (Config.freeWord s.tick).zeroExtend 64 })
     let v := uniVal i act h w.nameA
     (w.nameA = 1 → Readable s i act [] w.gDst [] →
       exec (.srd w) s = .next (s.finish i w 0 false (s.writeD i w act (fun t => BitVec.ofNat 32 t) 2))) ∧
     (let joins (t : State) : State := i.lanes.list.foldl (fun t n => t.updThread i.hand n (fun m => { m with view := View.join m.view h.gangView })) t
      w.nameA ≠ 1 → ∀ r ∈ sysRows ticked i (w.f2 0 4) (w.f2 4 3), w.nameA = r.1 →
       exec (.srd w) s = .next (s.finish i w 0 false
         ((if w.nameA = 7 ∧ h.gang.getLsbD 10 = true then joins ticked else ticked).writeH i.hand w.nameD r.2 0))) ∧
     (Readable s i act [(w.hA, .move)] [] [] →
       (∀ r ∈ sysWrites s i (w.f2 0 4) v, w.nameD = r.1 → exec (.swr w) s = .next (s.finish i w 0 true r.2)) ∧
       ((∀ r ∈ sysWrites s i (w.f2 0 4) v, w.nameD ≠ r.1) → exec (.swr w) s = .next (s.faulted i w (i.faultW act 0x0A 0))))) ∧
  (∀ (s : State) (i : SplitIssue) (w : CoreWords), Issues s i w →
     let h := s.hand i.hand
     let act := i.active h w
     let a := uniVal i act h w.nameA
     let gives (s' : State) (st : DWord) : Prop := exec (.uintr w) s = .next (s.finish i w 0 true (s'.writeH i.hand w.nameD st 2))
     (Readable s i act [(w.hA, .move), (w.hB, .move)] [] [] →
       (a >>> 16 ≠ 0 → exec (.uintr w) s = .next (s.faulted i w (i.fault act 0x0A 0 a act))) ∧
       (a >>> 16 = 0 → (s.launch h.lid).nextHid ≤ a.toNat → gives s 2) ∧
       (a >>> 16 = 0 → a.toNat < (s.launch h.lid).nextHid →
         (s.handOf h.lid a.toNat = none → gives s 2) ∧
         ∀ x, s.handOf h.lid a.toNat = some x →
           (x.state = .done → gives s 2) ∧
           (x.state ≠ .done → ((s.reload x.key).hand x.key).pendInt.isSome = true → gives s 1) ∧
           (x.state ≠ .done → ((s.reload x.key).hand x.key).pendInt = none →
             let s' := s.updSaved x.key (fun x =>
               { x with pendInt := some (BitVec.ofNat 16 (w.f2 0 16), uniVal i act h w.nameB), intLate := x.state == .running })
             gives (if x.state = .asleep ∨ x.state = .swappedAsleep then (s'.unwait x.key).wakeHand x.key else s') 0))) ∧
     (Readable s i act [(w.hA, .move)] [] [] →
       (a.toNat % 8 ≠ 0 → exec (.sig w) s = .next (s.faulted i w (i.fault act 0x09 0 a act))) ∧
       (a.toNat % 8 = 0 → canonical a = false → exec (.sig w) s = .next (s.faulted i w (i.fault act 0x0A 0 a act))) ∧
       (a.toNat % 8 = 0 → canonical a = true → h.pair ≠ 2 → exec (.sig w) s = .next (s.finish i w 0 true (s.wakeKey h.asid a)))) ∧
     exec (.drop w) s = .next (s.finish i w 0 false
       (s.freeNames i act (w.gA.gNames ++ w.gB.gNames ++ (if w.isExt then w.gC.gNames else [])))))

/-! ## The scheduler -/

/-- R74, R75, R82 to R84, R103, R104, R128, R129 and R221: placement takes the partition's head where it fits, else the first item of another launch
that passes it; an arbitration grants the lowest free slot to a READY hand before which no other goes, unless issue is stopped in the cluster (R91); the Squirrel's oldest job is done; the
Dealer deals the first candidate in rank that can be dealt; a failed lane is retired, and its slot rebuilt, where a live
thread's uncorrectable word kills (R220). R153, R40 and R24: the Badger core
that serves a page writes its entry, and what waited for the page goes on; or it refuses the page, and each split that was parked there takes
PROT. -/
def Obligations.SchedulerSteps : Prop :=
  (∀ (s : State),
     (let p := s.args.n
      ∀ s0, s0 = s.startNodes (fun s k => s.queueFault k 0x86) →
       (s0.waiting p = [] → exec .placement s = .next (if (s0.part p).reserve then s0.endReserve p else s0)) ∧
       ∀ hd rest, s0.waiting p = hd :: rest →
         (∀ c s', s0.fitItem hd = some (c, s') → exec .placement s = .next ((s0.placeItem hd c s').endReserve p)) ∧
         (s0.fitItem hd = none → (s0.part p).reserve = false → ∀ a b it c s',
           rest.filter (fun it => (s0.hand (it.headD 0)).lid != (s0.hand (hd.headD 0)).lid) = a ++ it :: b → (∀ x ∈ a, s0.fitItem x = none) →
           s0.fitItem it = some (c, s') → exec .placement s = .next ((s0.placeItem it c s').backFill p))) ∧
     (let c := s.args.n
      let k := s.args.m
      let ready := (((s.core c).hands.filterMap id).map s.hand).filter (fun h => h.state == .ready && !s.covered h.part)
      k < 4 → s.coreStops c = false → (s.core c).slots.findIdx (fun x => x.hand.isNone && !x.rebuild) = k → ready ≠ [] →
       ∃ u, exec .slotArbitration s = .next u ∧ ∃ win ∈ ready, (∀ x ∈ ready, x.before win = false) ∧
         (win.inTrap = false → u = { s with hands := u.hands, cores := u.cores } ∧ (u.slot c k).hand = some win.key ∧
           (u.hand win.key).state = .running ∧ (u.hand win.key).cls = baseClass win.kid ∧ (u.core c).grants = (s.core c).grants + 1)) ∧
     (let k := s.args.n
      (∀ j js, (s.hand k).squirrel = j :: js → (∀ w n, j ≠ .refill w n) → (∀ x ∈ s.jobEntries k j, (s.hand x.1).settled x.2 = true) →
       let loaded := if j = .trapMove true then s.updHand k (fun h => { h with trapWin := s.ctxTrapWin h }) else s
       exec .spillComplete s = .next (((s.jobEntries k j).foldl (fun s x =>
         if x.1 = k then s.spill k x.2.win x.2.name else s.spillOut x.1 x.2.win x.2.name) loaded).popSquirrel k)) ∧
      (∀ w n js, (s.hand k).squirrel = .refill w n :: js → exec .refillComplete s = .next ((s.refillEntry k w n).popSquirrel k))) ∧
     (let d := s.args.n
      let c := s.args.m
      ∀ p, s.partOf c = some p → coreDie c = d → c < 1024 → (s.part p).reserve = false → (s.part p).quiesced = false → s.covered p = false →
       s.someItemFits p = false →
       let segs := (s.die d).deck.filter (fun e => (s.launch e.lid).part = p && (s.launch? e.lid).isSome && (e.state == 1 || e.state == 7) &&
         (s.launch e.lid).kmin.toNat ≤ e.cum.toNat)
       let ranges := s.ranges.filter (fun r => (s.launch? r.lid).isSome && (s.launch r.lid).part = p && s.rangeRuns r)
       let ranked := (segs.map Candidate.seg ++ ranges.map Candidate.range).foldl (fun l x => rankInsert x l) []
       let try_ (x : Candidate) : Option State := match x with
         | .range r => s.halve r c
         | .seg e => if e.state = 7 then s.dealResume d e c else s.dealPending d e c
       ranked.Pairwise (fun x y => y.before x = false) ∧
       ∀ a x b s', ranked = a ++ x :: b → (∀ y ∈ a, try_ y = none) → try_ x = some s' → exec .deal s = .next (s'.backFill p)) ∧
     (let c := s.args.n
      let k := s.args.m
      let lane := s.args.k % 32
      ((s.slot c k).retired = none → k < 4 → c < 1024 → exec .laneRetire s =
        .next ((s.magpie (coreDie c) unitBank 0 [c, k, lane]).updSlot c k (fun x => { x with retired := some lane, rebuild := true }))) ∧
      (∀ t, (s.slot c k).retired = some t → (s.slot c k).hand = none → (s.slot c k).rebuild = true →
        let owners := s.hands.filter (fun h => h.core = c && (h.resident || h.state == .swapped || h.state == .swappedAsleep || h.state == .halted))
        exec .laneRebuild s = .next ((owners.foldl (fun s h => s.rebuildHand c k t h) s).updSlot c k (fun x => { x with rebuild := false })) ∧
        (∀ h, h.laneErrs true t ≠ 0 → h.laneErrs false t = 0 → h.live.has t = true →
          s.rebuildHand c k t h = ((s.readErrs c (h.laneErrs true t) 0).updHand h.key (fun h => h.rewriteLane t)).killGang h.key 0x12 none false)))) ∧
  (∀ (s : State) (r : PageReq),
     let asid := s.args.half
     let page := vaBits s.args.value / 2 ^ 16
     let s' := { s with pageReqs := s.pageReqs.filter (fun x => !(x.asid = asid && x.page == page)) }
     s.pageReqs.find? (fun r => r.asid = asid && r.page == page) = some r → s.firstOfSender r = true →
     (s.args.ok = false → ∀ s1, s1 = s'.writeBytes r.entry (leBytes s.args.value2.toNat 8) Party.nobody → s1.validPage r s.args.value = true →
       exec .pageService s = .next (((s1.frontServed asid page).unparkPage asid page).peersServed asid page 5)) ∧
     (s.args.ok = true → (∀ h ∈ s.hands, ∀ o ∈ h.outst, o.appending = false) →
       let keep := r.front && s'.frontOpen asid page
       let s2 := State.frontServed { s' with refusals := if r.front then (asid, page) :: s'.refusals else s'.refusals } asid page
       exec .pageService s = .next ((State.refuseParks
         { s2 with refusals := if keep then s2.refusals else s2.refusals.filter (fun x => x ≠ (asid, page)) } asid page).peersServed asid page 2)))

/-! ## The front end -/

/-- R36, R37, R39 to R41, R410 and R411: a packet of the wrong length or with other flags faults its queue with CMDFMT and an unlisted type with
CMDTYPE; each packet has the effect of R37 and the queue's position moves past it, or it waits for completions, or for its word. A word in a peer is
asked for, and an add to one waits for it (R155, log 50). -/
def Obligations.PacketsServed : Prop :=
  ∀ (s : State) (w : PacketWords) (q : Queue), s.slotQueue w.die w.slot = some q →
    let key := (q.fn, q.idx)
    let addr := w.lo
    let waits := if s.readyQueues q.die = [] then s.updQueue key (fun q => { q with hold := .completions }) else s.queueWait key .completions
    (∀ r ∈ packetRows, ¬ formed w r.2 → exec (r.1 w) s = .next (s.packetFault q 0x81)) ∧
    (formed w 1 → exec (.nopPacket w) s = .next (s.parsed q w)) ∧
    (packetCount w.type = none → exec (.unknownPacket w) s = .next (s.packetFault q 0x80)) ∧
    (formed w 2 →
      (q.settled = true → exec (.fencePacket w) s = .next (s.parsed q w)) ∧
      (q.settled = false → exec (.fencePacket w) s = .next waits)) ∧
    (formed w 1 →
      (4 ≤ q.ib.length → exec (.callib w) s = .next (s.packetFault q 0x82)) ∧
      (q.ib.length < 4 → addr.toNat % 4 ≠ 0 → exec (.callib w) s = .next (s.packetFault q 0x81)) ∧
      (q.ib.length < 4 → addr.toNat % 4 = 0 → w.w3 ≠ 0 →
        exec (.callib w) s = .next (((s.endRead (.queue q.fn q.idx)).updQueue key (fun q =>
          { q with ib := q.ib ++ [0], parsed := q.parsed + 1 })).afterPacket key)) ∧
      (q.ib.length < 4 → addr.toNat % 4 = 0 → w.w3 = 0 → exec (.callib w) s = .next (s.advance q 4))) ∧
    (formed w 4 → addr.toNat % 8 = 0 →
      (q.settled = false → exec (.signal w) s = .next waits) ∧
      (q.settled = true → ∀ loc, s.feLoc q.reader q.asid addr .write = .ok loc →
        let end_ (s' : State) : State := (if w.flags / 2 % 2 = 1 then s'.wakeKey q.asid addr else s').parsed q w
        (w.flags % 2 = 0 → exec (.signal w) s = .next (end_ (s.feStore q (wordOf loc) 0xFF w.hi q.stores 5))) ∧
        (w.flags % 2 = 1 → spaceOf loc ≠ .peer → exec (.signal w) s = .next (end_
          (s.feStore q (wordOf loc) 0xFF ((s.lastWrite (wordOf loc)).value + w.hi) q.stores 5).retryPeerAdds)) ∧
        (w.flags % 2 = 1 → spaceOf loc = .peer →
          (∀ s', s.addTurn q.die q.reader loc = .wait s' → exec (.signal w) s = .next (s'.updQueue key (fun q => { q with hold := .reread }))) ∧
          (∀ s', s.addTurn q.die q.reader loc = .go s' → exec (.signal w) s = .next (end_
            (s'.feStore q (wordOf loc) 0xFF ((s'.lastWrite (wordOf loc)).value + w.hi) q.stores 5).retryPeerAdds)))) ∧
      (s.feLoc q.reader q.asid addr .read = .error .bad → exec (.wait w) s = .next (s.packetFault q 0x85)) ∧
      (∀ l, s.feLoc q.reader q.asid addr .read = .error (.peer l) →
        exec (.wait w) s = .next ((s.askPeer q.die q.reader l 64).updQueue key (fun q => { q with hold := .reread }))) ∧
      (∀ loc, s.feLoc q.reader q.asid addr .read = .ok loc → ¬ (spaceOf loc = .host ∧ s.hostLink.lost = true) →
        let m := (readWord s.mem loc).toNat
        let holds : Prop := if w.flags = 0 then m = w.hi.toNat else if w.flags = 1 then m ≠ w.hi.toNat else if w.flags = 2 then w.hi.toNat ≤ m else m < w.hi.toNat
        let s' := s.frontWord q.die loc
        (spaceOf loc ≠ .peer →
          (holds → exec (.wait w) s = .next (s'.parsed q w)) ∧
          (¬ holds → s.readyQueues q.die = [] → exec (.wait w) s = .next (s'.updQueue key (fun q => { q with hold := .reread })))) ∧
        (spaceOf loc = .peer →
          (holds → exec (.wait w) s = .next ((s'.waitWithdraw q addr).parsed q w)) ∧
          (¬ holds → s'.waitRegistered q addr = true → exec (.wait w) s = .next (s'.queueWait key (.wake addr)))))) ∧
    (formed w 2 → w.flags = 1 → addr.toNat % 8 = 0 → ∀ loc, s.feLoc q.reader q.asid addr .write = .ok loc →
      exec (.writeimm w) s = .next ((s.feStore q (wordOf loc) 0xFF w.hi [] 0).parsed q w)) ∧
    (formed w 2 → w.flags = 0 → addr.toNat % 4 = 0 → w.w4 = 0 → ∀ loc, s.feLoc q.reader q.asid addr .write = .ok loc →
      exec (.writeimm w) s = .next ((if addr.toNat % 8 = 0 then s.feStore q (wordOf loc) 0x0F w.hi [] 0
        else s.feStore q (wordOf loc) 0xF0 (w.hi <<< 32) [] 0).parsed q w)) ∧
    (∀ (mask : BitVec 8) (data : DWord) (view : View) (scope : BitVec 3) (w0 : Nat), ∃ t, s.feStore q w0 mask data view scope =
        t.updQueue key (fun q => { q with stores := View.raise w0 (t.lastIdx w0) q.stores }) ∧
      (spaceOf w0 ≠ .peer → t = (s.crossHome q.die w0).putWord w0 mask data view scope (frontParty q.die) (.queue q.fn q.idx)) ∧
      (spaceOf w0 = .peer → ∀ u, s.writePeer q.die w0 mask data = some u → t = u.putWord w0 mask data view scope (frontParty q.die))) ∧
    (formed w 2 → addr.toNat % 8 = 0 → w.hi.toNat % 8 = 0 →
      (w.flags = 1 → q.settled = false → exec (.launch w) s = .next waits) ∧
      (w.flags = 0 ∨ q.settled = true →
        (∀ s', s.dispatch q addr w.hi none = .fault s' → exec (.launch w) s = .next (s'.packetFault q 0x86)) ∧
        (∀ va home e, s.dispatch q addr w.hi none = .page va home e → exec (.launch w) s = .next (s.queuePage key q.asid va home e)) ∧
        (∀ s', s.dispatch q addr w.hi none = .asked s' → exec (.launch w) s = .next (s'.updQueue key (fun q => { q with hold := .reread }))) ∧
        (∀ s', s.dispatch q addr w.hi none = .full s' → exec (.launch w) s = .next (s'.release key qReady)) ∧
        ∀ lid s', s.dispatch q addr w.hi none = .ok lid s' → exec (.launch w) s = .next ((s'.takeOff q (.launch lid)).parsed q w))) ∧
    (formed w 2 → w.hi.toNat % 8 = 0 →
      s.graphs.find? (fun g => g.queue = key && g.parsing && g.pos == { rptr := s.qRptr q, ib := q.ib } && g.first == w.w1.toNat && g.count == w.w2.toNat) = none →
      let s1 := s.closeGraphs q
      let g : Graph := { id := s.nextGraph, die := q.die, first := w.w1.toNat, count := w.w2.toNat, mode := w.flags == 1, signal := w.hi, asid := q.asid,
                         queue := key, pos := { rptr := s.qRptr q, ib := q.ib }, parsing := true }
      (8192 < w.w1.toNat + w.w2.toNat → exec (.graph w) s = .next (s.packetFault q 0x87)) ∧
      (w.w1.toNat + w.w2.toNat ≤ 8192 → (∀ i ∈ g.nodes, (s.node g.die i).nstate = nIdle ∨ (s.node g.die i).nstate = nDone) →
        ∀ s', State.startGraph { s1.arm g with graphs := s1.graphs ++ [g], nextGraph := s1.nextGraph + 1 } q g = (s', none) →
        let g' := { g with parsing := false }
        exec (.graph w) s = .next (((({ s' with graphs := updWhere (fun x => x.id = g.id) (fun _ => g') s'.graphs }.takeOff q (.graph g.id)).failConsumers
          g').graphEnd g').parsed q w)))

/-- R31 to R35, R40, R67 and R410: a queue is created from its descriptor, or refused with QCFG; a doorbell moves WPTR, or faults the queue with
DBELL; a resume makes a FAULTED queue IDLE; the lowest free slot of a die goes to the READY queue before which no other goes; a wait that has
lasted its time gives its slot up; a launch that has ended completes; and the host registers and withdraws its waits. -/
def Obligations.QueuesServed : Prop :=
  ∀ (s : State),
    let f := s.args.n
    let i := s.args.m
    let k := (s.args.n, s.args.m)
    (let a := s.args.value.toNat
     let n := readN s.mem a 64
     let bad : Prop := bits n 64 5 < 10 ∨ 24 < bits n 64 5 ∨ bits n 77 3 ≠ 0 ∨ bits n 96 32 ≠ 0 ∨ bits n 195 5 ≠ 0 ∨ bits n 243 13 ≠ 0 ∨ bits n 384 128 ≠ 0 ∨
       bits n 0 12 ≠ 0 ∨ s.owns f (bits n 71 4) = false
     s.queue? k = none → f < 64 → i < (if f = 0 then 65536 else 4096) → deviceExists a = true → a % 64 = 0 →
      (bad → exec .queueCreate s = .next (s.magpie (a / 2 ^ 37) unitFrontEnd 0x88 [f, i])) ∧
      (¬ bad → (s.queues.filter (fun q => q.part = bits n 71 4)).length < 4096 → ∃ q, exec .queueCreate s = .next { s with queues := s.queues ++ [q] } ∧
        (q.fn, q.idx) = k ∧ q.desc = a ∧ q.base = BitVec.ofNat 64 (bits n 0 64) ∧ q.logsz = bits n 64 5 ∧ q.prio = bits n 69 2 ∧ q.part = bits n 71 4 ∧
        q.die = bits n 75 2 ∧ q.asid = BitVec.ofNat 16 (bits n 80 16) ∧ q.slot = none ∧ q.ib = [])) ∧
    (∀ q, s.queue? k = some q →
      (let new : Word := s.args.value.setWidth 32
       let ahead := (new - s.qRptr q).toNat
       let bad : Prop := s.args.value >>> 32 ≠ 0 ∨ 2 ^ q.logsz < ahead ∨ ahead < (s.qWptr q - s.qRptr q).toNat
       let s' := (s.qPut q 20 new.toNat 4).updQueue k (fun q => { q with stalled := q.stalled && new == s.qWptr q })
       (bad → exec .doorbell s = .next (s.queueFault k 0x89)) ∧
       (¬ bad → exec .doorbell s = .next (if s'.qState q = qIdle ∧ new ≠ s.qRptr q then s'.qPutState q qReady else s'))) ∧
      (s.qState q = qFaulted → exec .queueResume s = .next ((s.qPutState q qIdle).updQueue k (fun q => { q with lastGrant := none, stalled := false })))) ∧
    (let d := s.args.n
     let n := (s.die d).fslots.findIdx Option.isNone
     s.readyQueues d ≠ [] → n < 64 → ∃ q ∈ s.readyQueues d, (∀ x ∈ s.readyQueues d, x.before q = false) ∧
      exec .slotGrant s = .next (((s.updDie d (fun x =>
        { x with fslots := putAt 64 none (fun _ => some (q.fn, q.idx)) n x.fslots, fgrants := (s.die d).fgrants + 1 })).qPutState q qActive).updQueue (q.fn, q.idx)
          (fun x => { x with slot := some n, lastGrant := some (s.die d).fgrants, parsed := 0, hold := .none, await := .none,
                             ib := (List.range (min 4 (s.qField q 240 3))).map (fun i => BitVec.ofNat 32 (s.qField q (256 + 32 * i) 32)) }))) ∧
    (∀ q, s.slotQueue s.args.n s.args.m = some q →
      (q.hold = .completions → q.settled = false → exec .completionWaitExpiry s = .next (s.queueWait (q.fn, q.idx) .completions)) ∧
      (∀ w loc s', q.hold = .reread → s.fetchPacket s.args.n s.args.m = .ok (.wait w) → w.die = s.args.n → w.slot = s.args.m → formed w 4 → w.lo.toNat % 8 = 0 →
        s.feLoc q.reader q.asid w.lo .read = .ok loc → ¬ (spaceOf loc = .host ∧ s.hostLink.lost = true) → spaceOf loc ≠ .peer →
        waitCond (w.flags % 4) (readWord s.mem loc) w.hi = false →
        (s.frontWord q.die loc).registerWaiter q.asid w.lo (fun e => { e with queues := e.queues.filter (fun x => x ≠ (q.fn, q.idx)) ++ [(q.fn, q.idx)] }) = some s' →
        waitCond (w.flags % 4) (readWord s'.mem loc) w.hi = false →
        exec .waitRereadExpiry s = .next (s'.queueWait (q.fn, q.idx) (.wake w.lo)))) ∧
    (∀ l s', s.launch? s.args.lid = some l → l.twinOf = none → s.launchOver l = true → s.partDrains l.part = false → s.endLaunch l = .ok s' →
      exec .launchComplete s = .next ((s'.dropRefusals l.asid).startNodes (fun s k => s.queueFault k 0x86))) ∧
    (let key := s.args.value
     let line := s.args.value2
     let bad : Prop := key.toNat % 8 ≠ 0 ∨ canonical key = false ∨ ∀ q ∈ s.queues, ¬ (q.fn = f ∧ q.asid = s.args.half)
     let held := (s.wakeEntry s.args.half key).bind WakeEntry.line
     (bad → exec .hostWaitRegister s = .next (s.putWait f false 3) ∧ exec .hostWaitWithdraw s = .next (s.putWait f true 3)) ∧
     (¬ bad →
      (∀ l, held = some l → exec .hostWaitRegister s = .next (s.putWait f false (if l = line then 0 else 2))) ∧
      (held = none → s.registerWaiter s.args.half key (fun e => { e with line := some line }) = none → exec .hostWaitRegister s = .next (s.putWait f false 1)) ∧
      (∀ s', held = none → s.registerWaiter s.args.half key (fun e => { e with line := some line }) = some s' →
        exec .hostWaitRegister s = .next (s'.putWait f false 0)) ∧
      exec .hostWaitWithdraw s = .next ((s.withdrawWaiter s.args.half key (fun e =>
        if e.line == some line then { e with line := none } else e)).putWait f true 0)))

/-- R46 and R47: in machine mode `dv.rfetch` gives a word of the ring of a slot of its die that lies before WPTR, `dv.bfx` a bit field, `dv.swait`
whether a signal word meets its condition, and `dv.disp` the identifier of the launch that it dispatches; the next word at the fetch port is free
(log 54). In another mode each raises the illegal-instruction exception (log 22). -/
def Obligations.FirmwareInstructions : Prop :=
  ∀ (s : State) (n : Nat) (c : Cp) (w : DvWord), s.cur = some (.cp n) → s.cps.getD n Cp.init = c →
    let a := c.reads w.rs1
    let b := c.reads w.rs2
    let retires (s' : State) (rd : Option DWord) : State := s'.cpRetires n w (Config.freeWord s.tick) rd
    (c.mode ≠ 3 → ∀ ins ∈ [Instr.dvRfetch w, .dvBfx w, .dvSwait w, .dvDisp w],
      exec ins s = .next { s with cps := putAt 16 Cp.init (fun c =>
        { c with mstatus := trapStatus c.mode.toNat c.mstatus, mepc := c.pc, mcause := 2, mtval := c.word.zeroExtend 64, mode := 3, pc := c.mtvec &&& ~~~3, word := Config.freeWord s.tick }) n s.cps }) ∧
    (c.mode = 3 →
      (∀ lo width, lo = bits b.toNat 0 6 → width = bits b.toNat 6 7 →
        (0 < width → lo + width ≤ 64 → b >>> 13 = 0 → exec (.dvBfx w) s = .next (retires s (some (BitVec.ofNat 64 (a.toNat / 2 ^ lo % 2 ^ width))))) ∧
        (width = 0 ∨ 64 < lo + width ∨ b >>> 13 ≠ 0 → ∀ q, s.slotQueue (n / 4) c.slot = some q → exec (.dvBfx w) s = .next (retires (s.packetFault q 0x84) none))) ∧
      let served := s.serveSlot n (a.toNat % 64)
      (served.slotQueue (n / 4) (a.toNat % 64) = none → exec (.dvRfetch w) s = .next (retires served (some (~~~0)))) ∧
      (∀ q, served.slotQueue (n / 4) (a.toNat % 64) = some q → a >>> 6 = 0 →
        ((served.qWptr q - served.qRptr q).toNat ≤ b.toNat → exec (.dvRfetch w) s = .next (retires served (some (~~~0)))) ∧
        (∀ v, b.toNat < (served.qWptr q - served.qRptr q).toNat → served.ringWord q ((served.qRptr q).toNat + b.toNat) = .ok v →
          exec (.dvRfetch w) s = .next (retires (served.endRead q.reader) (some (BitVec.ofNat 64 v))))) ∧
      (∀ q, s.slotQueue (n / 4) c.slot = some q →
        (a.toNat % 8 ≠ 0 → exec (.dvSwait w) s = .next (retires (s.packetFault q 0x85) none)) ∧
        (∀ loc, a.toNat % 8 = 0 → s.feLoc q.reader q.asid a .read = .ok loc → ¬ (spaceOf loc = .host ∧ s.hostLink.lost = true) →
          exec (.dvSwait w) s = .next (retires ((s.frontWord q.die loc).endRead q.reader) (some (if waitCond w.cond.toNat (readWord s.mem loc) b then 1 else 0)))) ∧
        (∀ s', s.dispatch q a b none = .fault s' → exec (.dvDisp w) s = .next (retires (s'.packetFault q 0x86) none)) ∧
        (∀ va home e, s.dispatch q a b none = .page va home e →
          exec (.dvDisp w) s = .next (retires (s.queuePage (q.fn, q.idx) q.asid va home e) (some 0))) ∧
        (∀ s', s.dispatch q a b none = .asked s' → exec (.dvDisp w) s = .next s') ∧
        (∀ s', s.dispatch q a b none = .full s' → exec (.dvDisp w) s = .next (retires (s'.release (q.fn, q.idx) qReady) (some 0))) ∧
        (∀ lid s', s.dispatch q a b none = .ok lid s' → exec (.dvDisp w) s = .next (retires (s'.takeOff q (.launch lid)) (some (lid.zeroExtend 64))))))

/-! ## The peer fabric -/

/-- R20 to R22 and R24: on a port that is up, an ACK frees the retained flits at or below its number, a REPLAY counts against the port and the ninth
in a row takes it down, a CREDIT adds to its credit; a flit that fails its check is asked for again, one of an unlisted kind is accepted, counted
and logged, the timer acknowledges what is open, a request that gets no response is treated as lost, and training brings a port up anew or leaves it down. R23,
R24, R155, R185 and R319: a sequenced flit in order is accepted and has its effect; one out of order is discarded (log 57). A RD is answered with
the bytes as last written, with POISON or with NOMEM; a WR writes its masked bytes and is answered; a STEP gives its record a step, a place in its
object, or its object a version; a CELL is the delivery write of a record's owner here; and each response ends the request that it matches. -/
def Obligations.PeerFabric : Prop :=
  (∀ (s : State),
     (∀ p, p < s.ports.length → (s.port p).up = true →
       let x := s.port p
       (∀ seq : BitVec 24, let left := x.retained.filter (fun f => 2 ^ 23 ≤ (seq - f.1).toNat)
         exec (.ack p seq) s = .next ((s.updPort p (fun x =>
           { x with retained := left, replayFails := if left.length < (s.port p).retained.length then 0 else x.replayFails })).flushPort p)) ∧
       (∀ seq, (x.replayFails < 8 → let again := x.retained.filter (fun f => (f.1 - seq).toNat < 2 ^ 23)
           exec (.replay p seq) s = .next (s.updPort p (fun x => { x with replayFails := x.replayFails + 1, wire := x.wire ++ again }))) ∧
         (8 ≤ x.replayFails → exec (.replay p seq) s = .next (s.portDown p))) ∧
       ∀ freed, exec (.credit p freed) s = .next ((s.updPort p (fun x => { x with credit := x.credit + freed.toNat })).flushPort p)) ∧
     (let p := s.args.n
      let x := s.port p
      (p < s.ports.length → x.up = true →
       exec .flitChkMismatch s = .next (s.updPort p (fun x => { x with control := x.control ++ [(0x02, x.seqRx)] })) ∧
       (listedKind s.args.code = false → exec .flitUnlistedKind s = .next
         ((s.updPort p (fun x => { (if s.args.m = x.seqRx.toNat then x.accept else x) with badKind := x.badKind + 1 })).magpie (portDie p) unitLink 0 [p, s.args.code.toNat])) ∧
       (x.sinceAck ≠ 0 → exec .ackTimer s = .next (s.updPort p Port.acknowledge))) ∧
      (p < s.ports.length →
       (s.args.ok = true → exec .portRetrain s = .next ((s.updPort p (fun _ =>
         { Port.init with waiting := x.retained.map (fun f => (f.2.1, f.2.2)) ++ x.waiting, badKind := x.badKind, control := x.control, wire := x.wire })).flushPort p)) ∧
       (s.args.ok = false → exec .portRetrain s = .next ((if x.up then s.portDown p else s).magpie (portDie p) unitLink 0 [p])))) ∧
     (∀ r, s.reqs.find? (fun r => r.die = s.args.n && r.tag.toNat == s.args.m && r.dev == s.args.half) = some r → exec .requestTimeout s = .next (s.lose r)) ∧
     ∀ x : Port, x.sinceAck ≠ 0 → x.acknowledge = { x with
       control := x.control ++ [(0x01, x.seqRx - 1)] ++ [(0x03, BitVec.ofNat 24 x.sinceAck)], sinceAck := 0 }) ∧
  (∀ (s : State) (p : Nat) (m : PeerMsg),
     let ok := s.inOrder p m
     let t := s.updPort p Port.accept
     let a := m.addr.toNat
     let d := m.data.toNat
     let base := a / 64 * 64
     let reply (st : BitVec 3) (data : BitVec 512) : PeerMsg :=
       { (default : PeerMsg) with tag := m.tag, die := m.die, size := m.size, status := st, data := data }
     let cella (u : State) (st : BitVec 3) : State := u.sendFlit p kindCELLA (reply st 0)
     let stepa (u : State) (st : BitVec 3) (ver : Word) : State := u.sendFlit p kindSTEPA (stepaOf m st none false 0 ver)
     let owner : Option Launch := t.launch? (BitVec.ofNat 32 (bits d 128 32))
     (ok = false → ∀ ins ∈ [Instr.rd p m, .rdr p m, .wr p m, .wra p m, .peerStep p m, .stepa p m, .cell p m, .cella p m], exec ins s = .next s) ∧
     (ok = true →
       (∀ n, sizeBytes m.size = some n →
         (deviceRange a n = false → exec (.rd p m) s = .next (t.sendFlit p kindRDR (reply 2 0))) ∧
         (deviceRange a n = true → t.badRange a n = true → exec (.rd p m) s = .next
           ((((wordsOf a n).filter t.isBad).foldl State.logUE (t.crossHome (portDie p) a)).sendFlit p kindRDR (reply 1 0))) ∧
         (deviceRange a n = true → t.badRange a n = false →
           exec (.rd p m) s = .next ((t.crossHome (portDie p) a).sendFlit p kindRDR (reply 0 (BitVec.ofNat 512 (leNat (t.readBytes a n))))))) ∧
       (deviceRange base 64 = false → exec (.wr p m) s = .next (t.sendFlit p kindWRA (reply 2 0))) ∧
       (deviceRange base 64 = true → exec (.wr p m) s = .next (((t.crossHome (portDie p) base).peerWrite m.src.toNat base m.mask m.data).sendFlit p kindWRA (reply 0 0))) ∧
       (deviceRange a 8 = false ∨ a % 8 ≠ 0 → exec (.peerStep p m) s = .next (stepa t 2 0)) ∧
       (deviceRange a 8 = true → a % 8 = 0 →
         let ticket := bits d 32 32
         (∀ n u, bits d 0 8 = 0 → t.allocRec (homeOf a) { t.foreignRec m with obj := a } = some (n, u) →
           exec (.peerStep p m) s = .next (u.answerStep p m 0 n true)) ∧
         (∀ u b, bits d 0 8 = 1 → t.homeStep ticket (bits d 8 8) = .answered u b → exec (.peerStep p m) s = .next (u.answerStep p m 0 ticket b)) ∧
         (bits d 0 8 = 4 → exec (.peerStep p m) s = .next (stepa t 0 (t.version a))) ∧
         (bits d 0 8 = 5 → ∀ u, u = { t with pubs := updWhere (fun q => q.obj = a) (fun q => { q with ver := q.ver + 1 }) t.pubs } →
           exec (.peerStep p m) s = .next (stepa u 0 (u.version a)))) ∧
       (owner = none → exec (.cell p m) s = .next (cella t 2)) ∧
       (∀ l loc e, owner = some l → t.translate l.asid m.addr .write (2048 + portDie p) = .ok loc e →
         let u := (t.tlbAdd e).storeWord (portDie p) (wordOf loc) 0xFF (BitVec.ofNat 64 (bits d 64 64)) [] 0 Party.nobody
         exec (.cell p m) s = .next (cella (u.cellWritten m (wordOf loc)) 0)) ∧
       (∀ r, t.matching p kindRD m = some r →
         let u := t.dropReq r
         let loc := peerLoc r.dev.toNat r.msg.addr.toNat
         let v := u.learn loc (leBytes d ((sizeBytes r.msg.size).getD 1))
         (∀ k id l, r.use = .load k id l → exec (.rdr p m) s = .next (if m.status = 0 then v else u.failLoadLane k id l)) ∧
         (∀ e j, m.status = 0 → r.use = .line e j → exec (.rdr p m) s = .next v) ∧
         (∀ k key x, r.use = .watch k key x → exec (.rdr p m) s = .next
           (if m.status = 0 then (if m.data.extractLsb' 0 64 = x then v else v.watchEnds k key) else u.watchEnds k key)) ∧
         (∀ k loc, r.use = .entry k loc → exec (.rdr p m) s = .next (if m.status = 0 then v.entryAnswer k loc true else u.entryAnswer k loc false)) ∧
         (∀ who loc n, r.use = .front who loc n → exec (.rdr p m) s = .next
           (if m.status = 0 then v.frontAnswer who loc n true else u.frontAnswer who loc n false))) ∧
       (∀ r, t.matching p kindWR m = some r →
         ((∀ e j, r.use ≠ .out e j) → exec (.wra p m) s = .next (if m.status = 0 then t.dropReq r else (t.dropReq r).dropPeerStore r.die)) ∧
         (∀ e j, r.use = .out e j → exec (.wra p m) s = .next (if m.status = 0 then t.dropReq r else (t.dropReq r).copyLost e j))) ∧
       (∀ r k id l, t.matching p kindSTEP m = some r →
         (r.use = .step k id l → exec (.stepa p m) s = .next (((t.dropReq r).orphanAnswer r m.status m.data).annAnswer k id l m.status m.data)) ∧
         (r.use = .object k id l → exec (.stepa p m) s = .next ((t.dropReq r).objectAnswer k id l m.status m.data))) ∧
       (∀ r home idx x, t.matching p kindCELL m = some r → r.use = .cell home idx → t.rec? (home * 8192 + idx) = some x →
         (m.status = 0 → exec (.cella p m) s = .next (((t.dropReq r).acceptStep x x.nsteps).settleCell (home * 8192 + idx) true false)) ∧
         (m.status = 2 → exec (.cella p m) s = .next (((t.dropReq r).failRec x x.nsteps 0x0000000A).settleCell (home * 8192 + idx) true false)) ∧
         (m.status = 5 → exec (.cella p m) s = .next ((t.dropReq r).settleCell (home * 8192 + idx) false true)))))

/-! ## BAR0 and checkpoints -/

/-- R62 to R66, R105, R154 and R222: the registers of BAR0. A commit takes a staged block when no check fails, and says which failed first; a binding
is taken unless the partition is bound already or in use; TBASE may change while no partition is enabled; an invalidation clears the entries that
match it and is then done; an error bank is cleared; a register without a behaviour of its own holds what is written; and a finaliser checks its
module and writes its code and entries. R203: a debug command is refused from alarm level 2 on or in a partition without debug enable, finds no
hand, or acts: HALT stops a resident hand at its next boundary; READ and WRITE move bytes of a halted hand's spill area; RESUME and STEP let it go
on when its record is good. -/
def Obligations.BarRegisters : Prop :=
  (∀ (s : State),
     let p := s.args.n
     let off := s.args.m
     let v := s.args.value
     (p < 16 →
       let st := s.commitStatus p
       (st = 0 → exec .partitionCommit s = .next ((s.updPart p (fun x => { x with cfg := x.staged, status := 0 })).remeasure)) ∧
       (st ≠ 0 → exec .partitionCommit s = .next (s.updPart p (fun x => { x with status := st }))) ∧
       (st = 1 ↔ s.partBusy p = true) ∧ (st = 2 ↔ s.partBusy p = false ∧ s.clusterTaken p = true) ∧
       (st = 3 ↔ s.partBusy p = false ∧ s.clusterTaken p = false ∧ s.specOver p = true)) ∧
     (let bind (f : Nat) : BitVec 8 := (s.funcs.getD f Func.init).bind
      let new := s.args.code &&& 0x8F
      0 < p → p < 64 → (new.getLsbD 7 = true → ∀ g, 0 < g → g < 64 → g ≠ p → bind g ≠ new) →
       ((bind p).getLsbD 7 = true → bind p ≠ new → ∀ l ∈ s.launches, l.part ≠ bits (bind p).toNat 0 4) →
       exec .bindingWrite s = .next (State.remeasure { s with funcs := putAt 64 Func.init (fun x => { x with bind := new }) p s.funcs })) ∧
     ((∀ x ∈ s.parts, x.cfg.en = false) → exec .tbaseWrite s = .next { s with trans := { s.trans with
       en := v.getLsbD 0, tbase := v &&& BitVec.ofNat 64 (2 ^ 56 - 2 ^ 19) } }) ∧
     ((∃ x ∈ s.parts, x.cfg.en = true) → exec .tbaseWrite s = .next s) ∧
     (s.trans.done = true → exec .tlbInvalidate s = .next { s with trans := { s.trans with
       iva := v &&& BitVec.ofNat 64 (2 ^ 57 - 1), ictl := s.args.value2 &&& BitVec.ofNat 64 (2 ^ 19 - 1), done := !s.args.value2.getLsbD 63 } }) ∧
     (s.trans.done = false → ∃ t, exec .invalidateComplete s = .next t ∧ t = { s with tlb := t.tlb, trans := { s.trans with done := true } } ∧
       ∀ e, e ∈ t.tlb ↔ e ∈ s.tlb ∧ s.trans.clears e = false) ∧
     (let clear (b : Bank) : Bank := { b with valid := false, ue := false, ovf := false, disc := false, cecnt := 0 }
      exec .errorBankClear s = .next (if s.args.ok then { s with sliceBanks := putAt 64 Bank.init clear p s.sliceBanks }
        else { s with cluBanks := putAt 32 Bank.init clear p s.cluBanks })) ∧
     (s.args.k = 0 → off % 8 = 0 →
       (p < 64 → 0x4100 ≤ off → off < 0x4320 → off < 0x4200 ∨ 0x4300 ≤ off →
         exec .registerWrite s = .next { s with funcs := putAt 64 Func.init (fun x => x.write off v) p s.funcs }) ∧
       (p = 0 → 0x2000 ≤ off → off < 0x3000 →
         exec .registerWrite s = .next (s.updPart ((off - 0x2000) / 256) (fun p => { p with staged := p.staged.stage (off % 256 / 8) v }))) ∧
       (p = 0 → 0x4000 ≤ off → off < 0x4100 → exec .registerWrite s = .next
         (if s.debugBusy then s else { s with debugBox := s.debugBox.write (off - 0x4000) v })) ∧
       (p = 0 → 0x4200 ≤ off → off < 0x4300 → exec .registerWrite s = .next { s with lossBox := s.lossBox.write (off - 0x4200) v })) ∧
     (let box := (s.funcs.getD p Func.init).fin
      let arg (i : Nat) : DWord := box.args.getD i 0
      let asid : BitVec 16 := (arg 5).setWidth 16
      p < 64 →
       ((∀ q ∈ s.queues, ¬ (q.fn = p ∧ q.asid = asid)) → exec .finalise s = .next (s.finReply p 5 [0, 0, 0, 0])) ∧
       ∀ s1, s1 = s.frontTouch 0 (.finaliser p) asid (arg 0, (arg 1).toNat) →
       ∀ m, (∃ q ∈ s.queues, q.fn = p ∧ q.asid = asid) → s1.feBytes (.finaliser p) asid (arg 1).toNat (arg 0) = .ok m →
         let r : Reader := .finaliser p
         let s0 := s1.endRead r
         let version := s1.mgmt.images.getD 3 0
         let code := epfOutput version m
         let table := (List.range (epfKernels m)).flatMap (fun k => leBytes (epfNativeEntry version m k) 8)
         let fail (status : BitVec 16) (at_ : Nat) : State :=
           (s0.finWrite r asid (arg 2) ((List.range (arg 3).toNat).map (Config.ckptByte 3 s1.tick))).finReply p status [0, 0, BitVec.ofNat 64 at_, 0]
         let stays (u : State) : State :=
           { u with funcs := putAt 64 Func.init (fun x => { x with fin := { x.fin with cmd := 1, busy := true } }) p s1.funcs }
         let busy (e : Stop) : State := match e with
           | .page va home entry => stays (s1.frontPage 0 asid va home entry)
           | .peer l => stays (s1.askPeer 0 r l 64)
           | .bad => s0.finReply p 4 [0, 0, 0, 0]
         (epfHeaderOk m = false → exec .finalise s = .next (fail 1 0)) ∧
         (epfHeaderOk m = true → ∀ off, epfBadRecord m = some off → exec .finalise s = .next (fail 2 off)) ∧
         (epfHeaderOk m = true → epfBadRecord m = none →
           exec .finalise s = .next (if epfTooMany (epfProgram m) then fail 3 0 else if (arg 3).toNat < code.length then fail 4 0
             else match s1.rangeStop r asid (arg 2) code.length .write, s1.rangeStop r asid (arg 4) table.length .write with
               | some e, _ => busy e
               | none, some e => busy e
               | none, none => ((s0.finWrite r asid (arg 2) code).finWrite r asid (arg 4) table).finReply p 0
                   [BitVec.ofNat 64 code.length, BitVec.ofNat 64 (epfKernels m), 0, 0])))) ∧
  (∀ (s : State), s.debugBusy = false →
     let a := s.args
     let rows := [(1, Instr.debugHalt), (2, .debugRead), (3, .debugWrite), (4, .debugResume), (5, .debugStep)]
     (2 ≤ s.mgmt.alarm.toNat → ∀ r ∈ rows, exec r.2 s = .next (s.debugReply (BitVec.ofNat 8 r.1) false 4 0)) ∧
     (s.mgmt.alarm.toNat < 2 → s.debugHand = none → ∀ r ∈ rows, exec r.2 s = .next (s.debugReply (BitVec.ofNat 8 r.1) false 1 0)) ∧
     (s.mgmt.alarm.toNat < 2 → ∀ h, s.debugHand = some h →
       ((s.part h.part).cfg.dbg = false → ∀ r ∈ rows, exec r.2 s = .next (s.debugReply (BitVec.ofNat 8 r.1) false 4 0)) ∧
       ((s.part h.part).cfg.dbg = true →
         (h.state = .ready ∨ h.state = .running ∨ h.state = .parked ∨ h.state = .asleep →
           exec .debugHalt s = .next ((s.updHand h.key (fun h => { h with haltReq := true })).debugReply 1 true 0 0)) ∧
         (h.state = .swapped ∨ h.state = .swappedAsleep → exec .debugHalt s = .next
           ((((s.unwait h.key).updHand h.key (fun h => { h with state := .halted, key64 := none })).putHeader h 21 1 1).debugReply 1 false 0 0)) ∧
         (h.state = .unplaced → exec .debugHalt s = .next ((s.swapOut h.key .halted).debugReply 1 false 0 0)) ∧
         (h.state ≠ .halted → ∀ r ∈ rows, r.1 ≠ 1 → exec r.2 s = .next (s.debugReply (BitVec.ofNat 8 r.1) false 2 0)) ∧
         (h.state = .halted →
           (∀ toArea u n, State.debugMove h toArea a.value.toNat a.m a.k s = (u, n) →
             exec (if toArea then .debugWrite else .debugRead) s = .next (u.debugReply (if toArea then 3 else 2) false 0 n)) ∧
           ∀ step : Bool, let cmd : BitVec 8 := if step then 5 else 4
             (s.readCtx h = none → exec (if step then .debugStep else .debugResume) s = .next
               (((s.updHand h.key (fun h => { h with ctxStatus := 2 })).putHeader h 17 2 2).debugReply cmd false 3 0)) ∧
             (s.readCtx h ≠ none → exec (if step then .debugStep else .debugResume) s = .next
               (((s.updHand h.key (fun h => { h with state := .swapped, stepHalt := step })).putHeader h 21 1 0).debugReply cmd false 0 0))))))

/-- R57 to R59 and R61: a CKPT of the physical function, at an aligned offset with a vault port up and ranges that fit, stops its partitions once its
queue has settled; when no hand of theirs runs, the copy stands in the vault and they resume. A restore of a good header loads the state, or
resets the partitions when the body is not as it was written. -/
def Obligations.Checkpoints : Prop :=
  ∀ (s : State),
    (∀ (w : PacketWords) (q : Queue), s.slotQueue w.die w.slot = some q → formed w 4 → w.hi.toNat % 8 = 0 →
      let full := w.flags % 2 = 1
      let header := readCells s.vault w.lo.toNat 4096
      let n := leNat (header.take 16)
      let bad : Prop := q.fn ≠ 0 ∨ w.lo.toNat % 4096 ≠ 0 ∨ s.vaultUp = 0
      let starts (c : Ckpt) : State := ({ s with ckpt := some c }.takeOff q .ckpt).parsed q w
      (bad → exec (.ckpt w) s = .next (s.packetFault q 0x8A) ∧ exec (.ckptRestore w) s = .next (s.packetFault q 0x8A)) ∧
      (¬ bad → q.settled = true → s.ckpt = none → (s.ckptRanges (decide full) q.part).length ≤ 240 → exec (.ckpt w) s = .next (starts
        { restore := false, full := decide full, parts := if full then 0xFFFF else (1 : BitVec 16) <<< q.part, offset := w.lo, signal := w.hi, asid := q.asid,
          queue := (q.fn, q.idx) })) ∧
      (¬ bad → s.headerOk header = false → exec (.ckptRestore w) s = .next (s.packetFault q 0x8A)) ∧
      (¬ bad → s.headerOk header = true → q.settled = true → s.ckpt = none → exec (.ckptRestore w) s = .next (starts
        { restore := true, full := bits n 48 1 == 1, parts := BitVec.ofNat 16 (bits n 64 16), offset := w.lo, signal := w.hi, asid := q.asid,
          queue := (q.fn, q.idx) }))) ∧
    (∀ c, s.ckpt = some c → c.restore = false → (∀ h ∈ s.hands, c.parts.getLsbD h.part = true → h.state ≠ .running ∧ h.allSettled = true) →
      ∀ s1, s1 = (s.hands.filter (fun h => c.parts.getLsbD h.part)).foldl State.toMemory s →
      let rs := s1.ckptRanges c.full (((s1.queue? c.queue).map Queue.part).getD 0)
      let x := s1.seal c rs
      let body := xtsEncrypt x.key (rs.foldr (fun r acc => readCells x.mem r.1 r.2 ++ acc) [] ++ x.stateBytes)
      x.header = ckptHeader c.full c.parts s1.mgmt.kekGen (s1.mgmt.versions.getD 1 0) (rs.foldl (fun n r => n + r.2) x.stateBytes.length)
        x.stateBytes.length (keyWrap (kekBytes s1.mgmt.kekGen.toNat) x.key) (sha256 body) rs ∧
      exec .ckptCopyComplete s = .next (State.endCkpt { s1 with
        vault := writeCells c.offset.toNat (x.header ++ body) s1.vault, snapshots := s1.snapshots ++ [x] } false)) ∧
    (∀ c, s.ckpt = some c → c.restore = true →
      (∀ sn, s.args.ok = true → s.intact c.offset.toNat = some sn → exec .ckptRestoreComplete s =
        .next ((s.loadSnapshot sn (headerRanges (readCells s.vault c.offset.toNat 4096))).endCkpt false)) ∧
      (s.args.ok = false ∨ s.intact c.offset.toNat = none → exec .ckptRestoreComplete s =
        .next ((coveredParts c.parts).foldl (fun s p => s.resetPartition p (s.resetDie p) 0x8D 0x8D (fun _ => false)) s)))

/-! ## Resets and management -/

/-- R15, R28 to R30, R64, R90 and R91: bring-up runs its stages, stops at a failed image with the alarm at level 2, and clears everything but what
lies outside the power domain; a warm reset keeps each die's Magpie and sensor, the management controller and the vault, and is held during bring-
up; a partition, a function or an expired Owl resets its partitions; the queues of an expired Owl's partition drain from then on. A reset stays
pending, or the widest of those pending are performed and the narrower ones discarded (R30), whose queues go on. -/
def Obligations.Resets : Prop :=
  ∀ (s : State),
    let m := s.mgmt
    let widest (rs : List ResetReq) : List ResetReq := rs.filter (fun r => rs.all (fun x => decide (x.width ≤ r.width)))
    let asks (u : State) (r : ResetReq) : State :=
      if u.args.pend then { u with pendResets := u.pendResets ++ [r] }
      else ((widest (u.pendResets ++ [r])).foldl State.performReset { u with pendResets := [] }).undrain
    (m.bringup < 3 ∨ 6 ≤ m.bringup →
      (s.args.ok = true → s.args.ok2 = true → exec .coldStart s = .next s.powerOn.broughtUp) ∧
      (s.args.ok = true → s.args.ok2 = false → exec .coldStart s = .next (s.powerOn.updMgmt (fun m => { m with bringup := max 3 (min 5 s.args.n) }))) ∧
      (s.args.ok = false → exec .coldStart s = .next ((s.powerOn.updMgmt (fun m => { m with bringup := 2 })).raiseAlarm 2))) ∧
    ((∀ p, p < 18 → (s.powerOn.port p).up = false) ∧ s.powerOn.vaultUp = 0 ∧ s.powerOn.hostLink.up = false ∧ s.powerOn.mgmt.heldReset = true) ∧
    (3 ≤ m.bringup → m.bringup < 6 → s.args.ok2 = true → exec .coldStart s = .next s.broughtUp) ∧
    (m.bringup < 6 → exec .warmReset s = .next (s.updMgmt (fun m => { m with perstHeld := true }))) ∧
    (6 ≤ m.bringup → m.heldReset = false → exec .warmReset s = .next (asks s .warm)) ∧
    (s.ckpt = none → ∀ t, t = s.performReset .warm → t.hands = [] ∧ t.launches = [] ∧ t.queues = [] ∧ t.recs = [] ∧
      (∀ p, p < 16 → (t.part p).cfg.en = false) ∧ t.mgmt.staged = [] ∧ t.mgmt.alarm = m.alarm ∧ t.vault = s.vault ∧ t.sensors = s.sensors ∧
      (∀ d, d < 4 → (t.die d).eol = (s.die d).eol) ∧ ∀ a, deviceExists a = true → readCell t.mem a = 0) ∧
    exec .lossOfModulePower s = .next (s.powerOn.updMgmt (fun x => { x with
      kekGen := m.kekGen, kekPresent := false, flashKek := m.flashKek, bringup := 0, measured := m.measured,
      versions := m.versions, fuses := m.fuses, images := m.images, staged := m.staged })) ∧
    exec .thermalTrip s = .next (if s.junctionAt (s.args.n % 4) 110 then
      (s.warm.magpie (s.args.n % 4) unitManagement 0 [s.args.n]).updMgmt (fun m => { m with heldReset := true }) else s) ∧
    (let dieOf (u : State) (p : Nat) : Nat := ((u.clustersOf p).headD 0) / 8
     let reset (u : State) (p : Nat) (gone : Queue → Bool) : State := u.resetPartition p (dieOf u p) 0x8D 0x8D gone
     let f := s.args.n
     (f < 16 → exec .partitionReset s = .next (asks s (.partition f (dieOf s f) 0x8D 0x8D))) ∧
     (∀ q l, s.queue? (s.args.n, s.args.m) = some q → s.oldestLaunch (s.args.n, s.args.m) = some l → q.owl = .counting → q.paused = none → 2 ^ l.owlb ≤ q.owlCount →
      exec .owlExpiry s = .next (asks (s.drainPartition q) (.partition q.part q.die 0x14 0x8C))) ∧
     (∀ q l, s.queue? (s.args.n, s.args.m) = some q → s.oldestLaunch (s.args.n, s.args.m) = some l → q.owl = .draining →
      exec .owlExpiry s = .next (if s.args.pend then s else
        ((widest s.pendResets).foldl State.performReset { s with pendResets := [] }).undrain)) ∧
     (0 < f → f < 64 → exec .flrVf s = .next (asks s (.function f))) ∧
     exec .flrPf s = .next (asks s (.function 0)) ∧
     ∀ u : State,
      (∀ p d code fcode, u.performReset (.partition p d code fcode) = u.resetPartition p d code fcode (fun _ => false)) ∧
      (∀ g, 0 < g → let b := ((u.funcs.getD g Func.init).bind).toNat
        ∀ t, t = (if b / 2 ^ 7 % 2 = 1 then reset u (b % 16) (fun q => q.fn = g) else u) →
          u.performReset (.function g) = (t.queues.filter (fun q => q.fn = g)).foldl State.destroyQueue t) ∧
      ∀ t, t = (List.range 16).foldl (fun s p => reset s p (fun _ => true)) u → u.performReset (.function 0) = t.queues.foldl State.destroyQueue t)

/-- R14, R16, R17, R55 to R57 and R225 to R229: the management domain. Duty moves by sixteenths; the alarm rises on glitches, failed unlocks and
tampering, and at level 3 erases the keys and holds the module in reset; the sensor warns below 6; the host link trains, is lost, and what was
parked is replayed or dropped once; sessions, quiescing, updates and measurements follow their rules. -/
def Obligations.Management : Prop :=
  ∀ (s : State),
    let m := s.mgmt
    let put (f : Mgmt → Mgmt) : State := { s with mgmt := f s.mgmt }
    exec .dutyWindow s = .next (s.updDie s.args.n (fun d => { d with duty := if s.args.ok then max 1 (d.duty - 1) else min 16 (d.duty + 1) })) ∧
    exec .thermalThrottle s = .next (if ((s.sensors.drop (8 * s.args.n)).take 8).any (fun x => 95 ≤ x.value) then
      s.updDie s.args.n (fun d => { d with duty := max 1 (d.duty - 1) }) else s) ∧
    (∀ level, level ≤ m.alarm.toNat → s.raiseAlarm level = s) ∧
    (∀ level, m.alarm.toNat < level → level < 3 → ((s.raiseAlarm level).mgmt.alarm = BitVec.ofNat 2 level ∧ (s.raiseAlarm level).mem = s.mem ∧
      (s.raiseAlarm level).hands = s.hands)) ∧
    (m.alarm.toNat < 3 → s.ckpt = none → (s.raiseAlarm 3).mgmt.alarm = 3 ∧ (s.raiseAlarm 3).mgmt.kekPresent = false ∧ (s.raiseAlarm 3).mgmt.flashKek = false ∧
      (s.raiseAlarm 3).mgmt.heldReset = true ∧ (s.raiseAlarm 3).hands = []) ∧
    exec .glitchDetect s = .next ((put (fun m => { m with glitches := m.glitches + 1 })).raiseAlarm (if m.glitches = 0 then 1 else 2)) ∧
    exec .tamperBreak s = .next (s.raiseAlarm 3) ∧
    (s.args.ok = false ∨ 2 ≤ m.alarm.toNat →
      let s' := put (fun m => { m with unlockFails := m.unlockFails + 1 })
      exec .debugUnlock s = .next (if 7 ≤ m.unlockFails then s'.raiseAlarm 3 else if 2 ≤ m.unlockFails then s'.raiseAlarm 2 else s')) ∧
    (s.args.n < 4 → s.args.m ≤ 240 →
      let s' := s.updDie s.args.n (fun x => { x with eol := s.args.m })
      exec .eolUpdate s = .next (if s.args.m < 6 ∧ 6 ≤ (s.die s.args.n).eol then
        (s'.updMgmt (fun x => { x with pldmEvents := x.pldmEvents + 1 })).magpie s.args.n unitManagement 0 [s.args.m] else s')) ∧
    (let l := s.hostLink
     let link (f : HostLink → HostLink) : State := { s with hostLink := f s.hostLink }
     let replied (s : State) (cmd : BitVec 8) (st : BitVec 16) : State := if s.args.ok then s else s.lossReply cmd st
     (s.args.n ∈ linkRates → s.args.m ∈ linkWidths →
      exec .hostLinkTrain s = .next (link (fun l => { l with rate := s.args.n, width := s.args.m, up := true })).carryOut) ∧
     (s.args.n = 0 → exec .hostLoss s = .next (link (fun l => { l with up := false, lost := true, choice := if l.lost then l.choice else none }))) ∧
     exec .hostCompletionTimeOut s = .next (link (fun l => if l.lost = false ∧ 16 ≤ l.timeouts + 1
       then { l with timeouts := l.timeouts + 1, lost := true, choice := none } else { l with timeouts := l.timeouts + 1 })) ∧
     exec .hostLossStatus s = .next (s.lossReply 1 (if l.lost then 0 else 2)) ∧
     (l.lost = true → l.choice = none → s.args.ok = false ∨ m.spdm = true →
      exec .hostLossReplay s = .next (replied (link (fun l => { l with choice := some true })) 2 0).carryOut ∧
      exec .hostLossDrop s = .next (replied (l.parked.foldl (fun s _ => s.dropHostWrite)
        (link (fun l => { l with choice := some false, parked := [] }))) 3 0).carryOut) ∧
     (s.args.ok = false ∨ m.spdm = true →
      (l.choice.isSome = true → exec .hostLossReplay s = .next (replied s 2 1) ∧ exec .hostLossDrop s = .next (replied s 3 1)) ∧
      (l.choice = none → l.lost = false → exec .hostLossReplay s = .next (replied s 2 2) ∧ exec .hostLossDrop s = .next (replied s 3 2))) ∧
     (let base := s.args.value.toNat / 64 * 64
      let x : HostWrite := { addr := s.args.value, mask := s.args.mask, data := s.args.block, rel := s.args.ok2 }
      (s.args.ok = true → exec .hostMemoryWrite s = .next (s.hostWrite (hostLoc base) x)) ∧
      (s.args.ok = false → l.up = true → deviceRange base 64 = true →
       (s.ckpt = none → exec .hostMemoryWrite s = .next (s.hostWrite base x)) ∧
       (s.ckpt ≠ none → exec .hostMemoryWrite s = .next (if 2 ^ 22 ≤ l.heldWrites.length then s
         else link (fun l => { l with heldWrites := l.heldWrites ++ [x] })))))) ∧
    (s.args.ok = true → m.alarm.toNat < 2 → exec .spdmSession s = .next (put (fun m => { m with spdm := true }))) ∧
    (m.spdm = true → s.hostLink.lost = true → ∃ t, exec .quiescePartitions s = .next t ∧ t = { s with parts := t.parts } ∧
      ∀ p, p < s.parts.length → t.part p = { s.part p with quiesced := (s.part p).quiesced || s.args.half.getLsbD p }) ∧
    (0 < s.args.n → s.args.n ≤ 4 → s.args.ok = true → m.fuses.getD (s.args.n - 1) 0 ≤ s.args.m → exec .imageUpdate s = .next (put (fun m =>
      { m with staged := m.staged.filter (fun u => u.1 ≠ s.args.n - 1) ++ [(s.args.n - 1, s.args.m, s.tick)] }))) ∧
    (let ds := (List.range 5).map (fun i => Config.digest (i + 1) (m.measured.getD i 0))
     exec .getMeasurements s = .next (put (fun m => { m with reply := ds ++ [Config.signature ds] })))

/-! ## The whole machine -/

/-- The encodings that spec/12 to spec/16 write out, and a word of R46, decode to the instructions that they stand for; the words of spec/12 that are
no instruction do not. -/
def Obligations.DecodeWords : Prop :=
  let ext : ExtWords := { px := false, pinv := false, pq := 0, c := 0, dh := false, ah := false, bh := false, lr := 0, rnd := 0, sat := false, fmt := 0,
                          ord := 0, w2 := 0 }
  let w : CoreWords := { sw := false, rb := false, p := 0, d := 0, a := 0, b := 0, ext := none, lit := none }
  decode [0xF9060001, 0x64, 0] = some (.add { w with d := 3, a := 4, b := 31, lit := some 100 }) ∧
  decode [0x31481036, 0x38, 0] = some (.fma { w with sw := true, d := 4, a := 5, b := 6, ext := some { ext with c := 7 } }) ∧
  decode [0xFA044173, 0x00820006, 0, 7, 0] = some (.cmpLt { w with
    p := 1, d := 2, a := 8, b := 31, ext := some { ext with pinv := true, ah := true, bh := true, fmt := 2 }, lit := some 7 }) ∧
  decode [0x07C04401, 0xFFFFFFC0, 0xFFFFFFFF] = some (.bra { w with p := 1, a := 31, lit := some 0xFFFFFFFFFFFFFFC0 }) ∧
  decode [0xF8200583, 4, 0x10220009, 8, 0] = some (.loop { w with d := 16, b := 31, ext := some { ext with bh := true, w2 := 0x10220009 }, lit := some 8 }) ∧
  decode [0xF88E0904] = some (.ldH { w with sw := true, d := 7, a := 2, b := 31 }) ∧
  decode [0x61100C72, 0x30, 3] = some (.annCas { w with d := 8, a := 4, b := 12, ext := some { ext with c := 6, w2 := 3 } }) ∧
  decode [0x31481200] = some (.faddH { w with d := 4, a := 5, b := 6 }) ∧
  decode [0x08801432, 0x18, 0] = some (.mma { w with a := 2, b := 1, ext := some { ext with c := 3 } }) ∧
  decode [0x00D01834] = some (.cbtakeFull { w with sw := true, d := 8, a := 3 }) ∧
  decode [0x08541C22, 0, 0x10] = some (.spawncT { w with d := 10, a := 1, b := 1, ext := some { ext with w2 := 0x10 } }) ∧
  decode [0x07C02001, 0x21, 0] = some (.trap { w with a := 31, lit := some 0x21 }) ∧
  decode [0x0073128B] = some (.dvBfx { rd := 5, rs1 := 6, rs2 := 7, cond := 0 }) ∧
  decode [0x00000001, 0, 0] = none ∧ decode [0x00000040] = none ∧ decode [0x00002400] = none

/-- The model's own promise, that no instruction stops the machine: in every state an instruction of a core answers a next state whenever a split
issues it, one of a command processor whenever its word is the one that runs, and every other step always. Without an issuer an instruction is
refused (log 6), an event that is not enabled answers the state as it was (log 8), and nothing ends in a fault. -/
def Obligations.InstructionsAnswer : Prop :=
  ∀ (i : Instr) (s : State),
    ((∃ x j, i.core = some x ∧ s.cur = some (.split j)) → ∃ t, exec i s = .next t) ∧
    ((∃ code word0 j, i = .encodingNotInstruction code word0 ∧ s.cur = some (.split j)) → ∃ t, exec i s = .next t) ∧
    ((∃ w n, s.cur = some (.cp n) ∧ i ∈ [Instr.dvRfetch w, .dvBfx w, .dvSwait w, .dvDisp w]) → ∃ t, exec i s = .next t) ∧
    (i.core = none → (∀ code word0, i ≠ .encodingNotInstruction code word0) → (∀ w, i ∉ [Instr.dvRfetch w, .dvBfx w, .dvSwait w, .dvDisp w]) →
      ∃ t, exec i s = .next t) ∧
    ∀ f, exec i s ≠ .fault f

/-- The canonical form of memory, which is the model's own representation (log 3): every step keeps the list of bytes of memory in rising order of
address without a listed zero, so that equal memories are equal states. -/
def Obligations.MemoryFormKept : Prop :=
  ∀ (s t : State), Memory.wf s.mem = true → step s = .next t → Memory.wf t.mem = true
end

