-- ==== Sys2Proof/Laws/Dispatch.lean ====
section
/-!
SUPPORT. The meaning of each instruction, one lemma each, so that no proof unfolds the dispatch.
-/
namespace Sys2Proof.Machine

@[simp] theorem exec_ack (port : Nat) (seq : BitVec 24) (s : State) : exec (.ack port seq) s = execAck port seq s := rfl
@[simp] theorem exec_replay (port : Nat) (seq : BitVec 24) (s : State) : exec (.replay port seq) s = execReplay port seq s := rfl
@[simp] theorem exec_credit (port : Nat) (freed : BitVec 16) (s : State) : exec (.credit port freed) s = execCredit port freed s := rfl
@[simp] theorem exec_rd (port : Nat) (m : PeerMsg) (s : State) : exec (.rd port m) s = execRd port m s := rfl
@[simp] theorem exec_rdr (port : Nat) (m : PeerMsg) (s : State) : exec (.rdr port m) s = execRdr port m s := rfl
@[simp] theorem exec_wr (port : Nat) (m : PeerMsg) (s : State) : exec (.wr port m) s = execWr port m s := rfl
@[simp] theorem exec_wra (port : Nat) (m : PeerMsg) (s : State) : exec (.wra port m) s = execWra port m s := rfl
@[simp] theorem exec_peerStep (port : Nat) (m : PeerMsg) (s : State) : exec (.peerStep port m) s = execPeerStep port m s := rfl
@[simp] theorem exec_stepa (port : Nat) (m : PeerMsg) (s : State) : exec (.stepa port m) s = execStepa port m s := rfl
@[simp] theorem exec_cell (port : Nat) (m : PeerMsg) (s : State) : exec (.cell port m) s = execCell port m s := rfl
@[simp] theorem exec_cella (port : Nat) (m : PeerMsg) (s : State) : exec (.cella port m) s = execCella port m s := rfl
@[simp] theorem exec_nopPacket (w : PacketWords) (s : State) : exec (.nopPacket w) s = execNopPacket w s := rfl
@[simp] theorem exec_launch (w : PacketWords) (s : State) : exec (.launch w) s = execLaunch w s := rfl
@[simp] theorem exec_graph (w : PacketWords) (s : State) : exec (.graph w) s = execGraph w s := rfl
@[simp] theorem exec_wait (w : PacketWords) (s : State) : exec (.wait w) s = execWait w s := rfl
@[simp] theorem exec_signal (w : PacketWords) (s : State) : exec (.signal w) s = execSignal w s := rfl
@[simp] theorem exec_callib (w : PacketWords) (s : State) : exec (.callib w) s = execCallib w s := rfl
@[simp] theorem exec_fencePacket (w : PacketWords) (s : State) : exec (.fencePacket w) s = execFencePacket w s := rfl
@[simp] theorem exec_writeimm (w : PacketWords) (s : State) : exec (.writeimm w) s = execWriteimm w s := rfl
@[simp] theorem exec_ckpt (w : PacketWords) (s : State) : exec (.ckpt w) s = execCkpt w s := rfl
@[simp] theorem exec_ckptRestore (w : PacketWords) (s : State) : exec (.ckptRestore w) s = execCkptRestore w s := rfl
@[simp] theorem exec_unknownPacket (w : PacketWords) (s : State) : exec (.unknownPacket w) s = execUnknownPacket w s := rfl
@[simp] theorem exec_dvRfetch (w : DvWord) (s : State) : exec (.dvRfetch w) s = execDvRfetch w s := rfl
@[simp] theorem exec_dvBfx (w : DvWord) (s : State) : exec (.dvBfx w) s = execDvBfx w s := rfl
@[simp] theorem exec_dvSwait (w : DvWord) (s : State) : exec (.dvSwait w) s = execDvSwait w s := rfl
@[simp] theorem exec_dvDisp (w : DvWord) (s : State) : exec (.dvDisp w) s = execDvDisp w s := rfl
@[simp] theorem exec_add (w : CoreWords) (s : State) : exec (.add w) s = execAdd w s := rfl
@[simp] theorem exec_sub (w : CoreWords) (s : State) : exec (.sub w) s = execSub w s := rfl
@[simp] theorem exec_mul (w : CoreWords) (s : State) : exec (.mul w) s = execMul w s := rfl
@[simp] theorem exec_mulhi (w : CoreWords) (s : State) : exec (.mulhi w) s = execMulhi w s := rfl
@[simp] theorem exec_mad (w : CoreWords) (s : State) : exec (.mad w) s = execMad w s := rfl
@[simp] theorem exec_imin (w : CoreWords) (s : State) : exec (.imin w) s = execImin w s := rfl
@[simp] theorem exec_imax (w : CoreWords) (s : State) : exec (.imax w) s = execImax w s := rfl
@[simp] theorem exec_iand (w : CoreWords) (s : State) : exec (.iand w) s = execIand w s := rfl
@[simp] theorem exec_ior (w : CoreWords) (s : State) : exec (.ior w) s = execIor w s := rfl
@[simp] theorem exec_ixor (w : CoreWords) (s : State) : exec (.ixor w) s = execIxor w s := rfl
@[simp] theorem exec_andn (w : CoreWords) (s : State) : exec (.andn w) s = execAndn w s := rfl
@[simp] theorem exec_shl (w : CoreWords) (s : State) : exec (.shl w) s = execShl w s := rfl
@[simp] theorem exec_shr (w : CoreWords) (s : State) : exec (.shr w) s = execShr w s := rfl
@[simp] theorem exec_sar (w : CoreWords) (s : State) : exec (.sar w) s = execSar w s := rfl
@[simp] theorem exec_rotl (w : CoreWords) (s : State) : exec (.rotl w) s = execRotl w s := rfl
@[simp] theorem exec_clz (w : CoreWords) (s : State) : exec (.clz w) s = execClz w s := rfl
@[simp] theorem exec_popc (w : CoreWords) (s : State) : exec (.popc w) s = execPopc w s := rfl
@[simp] theorem exec_brev (w : CoreWords) (s : State) : exec (.brev w) s = execBrev w s := rfl
@[simp] theorem exec_bfx (w : CoreWords) (s : State) : exec (.bfx w) s = execBfx w s := rfl
@[simp] theorem exec_bfi (w : CoreWords) (s : State) : exec (.bfi w) s = execBfi w s := rfl
@[simp] theorem exec_sel (w : CoreWords) (s : State) : exec (.sel w) s = execSel w s := rfl
@[simp] theorem exec_cmpEq (w : CoreWords) (s : State) : exec (.cmpEq w) s = execCmpEq w s := rfl
@[simp] theorem exec_cmpNe (w : CoreWords) (s : State) : exec (.cmpNe w) s = execCmpNe w s := rfl
@[simp] theorem exec_cmpLt (w : CoreWords) (s : State) : exec (.cmpLt w) s = execCmpLt w s := rfl
@[simp] theorem exec_cmpLe (w : CoreWords) (s : State) : exec (.cmpLe w) s = execCmpLe w s := rfl
@[simp] theorem exec_lea (w : CoreWords) (s : State) : exec (.lea w) s = execLea w s := rfl
@[simp] theorem exec_add64 (w : CoreWords) (s : State) : exec (.add64 w) s = execAdd64 w s := rfl
@[simp] theorem exec_mov (w : CoreWords) (s : State) : exec (.mov w) s = execMov w s := rfl
@[simp] theorem exec_movl (w : CoreWords) (s : State) : exec (.movl w) s = execMovl w s := rfl
@[simp] theorem exec_uni (w : CoreWords) (s : State) : exec (.uni w) s = execUni w s := rfl
@[simp] theorem exec_uniChk (w : CoreWords) (s : State) : exec (.uniChk w) s = execUniChk w s := rfl
@[simp] theorem exec_addH (w : CoreWords) (s : State) : exec (.addH w) s = execAddH w s := rfl
@[simp] theorem exec_subH (w : CoreWords) (s : State) : exec (.subH w) s = execSubH w s := rfl
@[simp] theorem exec_mulH (w : CoreWords) (s : State) : exec (.mulH w) s = execMulH w s := rfl
@[simp] theorem exec_mulhiH (w : CoreWords) (s : State) : exec (.mulhiH w) s = execMulhiH w s := rfl
@[simp] theorem exec_madH (w : CoreWords) (s : State) : exec (.madH w) s = execMadH w s := rfl
@[simp] theorem exec_minH (w : CoreWords) (s : State) : exec (.minH w) s = execMinH w s := rfl
@[simp] theorem exec_maxH (w : CoreWords) (s : State) : exec (.maxH w) s = execMaxH w s := rfl
@[simp] theorem exec_andH (w : CoreWords) (s : State) : exec (.andH w) s = execAndH w s := rfl
@[simp] theorem exec_orH (w : CoreWords) (s : State) : exec (.orH w) s = execOrH w s := rfl
@[simp] theorem exec_xorH (w : CoreWords) (s : State) : exec (.xorH w) s = execXorH w s := rfl
@[simp] theorem exec_andnH (w : CoreWords) (s : State) : exec (.andnH w) s = execAndnH w s := rfl
@[simp] theorem exec_shlH (w : CoreWords) (s : State) : exec (.shlH w) s = execShlH w s := rfl
@[simp] theorem exec_shrH (w : CoreWords) (s : State) : exec (.shrH w) s = execShrH w s := rfl
@[simp] theorem exec_sarH (w : CoreWords) (s : State) : exec (.sarH w) s = execSarH w s := rfl
@[simp] theorem exec_rotlH (w : CoreWords) (s : State) : exec (.rotlH w) s = execRotlH w s := rfl
@[simp] theorem exec_clzH (w : CoreWords) (s : State) : exec (.clzH w) s = execClzH w s := rfl
@[simp] theorem exec_popcH (w : CoreWords) (s : State) : exec (.popcH w) s = execPopcH w s := rfl
@[simp] theorem exec_brevH (w : CoreWords) (s : State) : exec (.brevH w) s = execBrevH w s := rfl
@[simp] theorem exec_bfxH (w : CoreWords) (s : State) : exec (.bfxH w) s = execBfxH w s := rfl
@[simp] theorem exec_bfiH (w : CoreWords) (s : State) : exec (.bfiH w) s = execBfiH w s := rfl
@[simp] theorem exec_selH (w : CoreWords) (s : State) : exec (.selH w) s = execSelH w s := rfl
@[simp] theorem exec_cmpEqH (w : CoreWords) (s : State) : exec (.cmpEqH w) s = execCmpEqH w s := rfl
@[simp] theorem exec_cmpNeH (w : CoreWords) (s : State) : exec (.cmpNeH w) s = execCmpNeH w s := rfl
@[simp] theorem exec_cmpLtH (w : CoreWords) (s : State) : exec (.cmpLtH w) s = execCmpLtH w s := rfl
@[simp] theorem exec_cmpLeH (w : CoreWords) (s : State) : exec (.cmpLeH w) s = execCmpLeH w s := rfl
@[simp] theorem exec_movH (w : CoreWords) (s : State) : exec (.movH w) s = execMovH w s := rfl
@[simp] theorem exec_bra (w : CoreWords) (s : State) : exec (.bra w) s = execBra w s := rfl
@[simp] theorem exec_brx (w : CoreWords) (s : State) : exec (.brx w) s = execBrx w s := rfl
@[simp] theorem exec_call (w : CoreWords) (s : State) : exec (.call w) s = execCall w s := rfl
@[simp] theorem exec_calli (w : CoreWords) (s : State) : exec (.calli w) s = execCalli w s := rfl
@[simp] theorem exec_ret (w : CoreWords) (s : State) : exec (.ret w) s = execRet w s := rfl
@[simp] theorem exec_exit (w : CoreWords) (s : State) : exec (.exit w) s = execExit w s := rfl
@[simp] theorem exec_yield (w : CoreWords) (s : State) : exec (.yield w) s = execYield w s := rfl
@[simp] theorem exec_yieldw (w : CoreWords) (s : State) : exec (.yieldw w) s = execYieldw w s := rfl
@[simp] theorem exec_elect (w : CoreWords) (s : State) : exec (.elect w) s = execElect w s := rfl
@[simp] theorem exec_qany (w : CoreWords) (s : State) : exec (.qany w) s = execQany w s := rfl
@[simp] theorem exec_qall (w : CoreWords) (s : State) : exec (.qall w) s = execQall w s := rfl
@[simp] theorem exec_qmask (w : CoreWords) (s : State) : exec (.qmask w) s = execQmask w s := rfl
@[simp] theorem exec_lxSel (w : CoreWords) (s : State) : exec (.lxSel w) s = execLxSel w s := rfl
@[simp] theorem exec_lxRot (w : CoreWords) (s : State) : exec (.lxRot w) s = execLxRot w s := rfl
@[simp] theorem exec_lxRev (w : CoreWords) (s : State) : exec (.lxRev w) s = execLxRev w s := rfl
@[simp] theorem exec_lxDup (w : CoreWords) (s : State) : exec (.lxDup w) s = execLxDup w s := rfl
@[simp] theorem exec_qand (w : CoreWords) (s : State) : exec (.qand w) s = execQand w s := rfl
@[simp] theorem exec_qor (w : CoreWords) (s : State) : exec (.qor w) s = execQor w s := rfl
@[simp] theorem exec_qxor (w : CoreWords) (s : State) : exec (.qxor w) s = execQxor w s := rfl
@[simp] theorem exec_qnot (w : CoreWords) (s : State) : exec (.qnot w) s = execQnot w s := rfl
@[simp] theorem exec_nop (w : CoreWords) (s : State) : exec (.nop w) s = execNop w s := rfl
@[simp] theorem exec_loop (w : CoreWords) (s : State) : exec (.loop w) s = execLoop w s := rfl
@[simp] theorem exec_lbrk (w : CoreWords) (s : State) : exec (.lbrk w) s = execLbrk w s := rfl
@[simp] theorem exec_lnext (w : CoreWords) (s : State) : exec (.lnext w) s = execLnext w s := rfl
@[simp] theorem exec_lend (w : CoreWords) (s : State) : exec (.lend w) s = execLend w s := rfl
@[simp] theorem exec_ld (w : CoreWords) (s : State) : exec (.ld w) s = execLd w s := rfl
@[simp] theorem exec_st (w : CoreWords) (s : State) : exec (.st w) s = execSt w s := rfl
@[simp] theorem exec_lds (w : CoreWords) (s : State) : exec (.lds w) s = execLds w s := rfl
@[simp] theorem exec_sts (w : CoreWords) (s : State) : exec (.sts w) s = execSts w s := rfl
@[simp] theorem exec_ldh (w : CoreWords) (s : State) : exec (.ldh w) s = execLdh w s := rfl
@[simp] theorem exec_pref (w : CoreWords) (s : State) : exec (.pref w) s = execPref w s := rfl
@[simp] theorem exec_fence (w : CoreWords) (s : State) : exec (.fence w) s = execFence w s := rfl
@[simp] theorem exec_bind (w : CoreWords) (s : State) : exec (.bind w) s = execBind w s := rfl
@[simp] theorem exec_ldInv (w : CoreWords) (s : State) : exec (.ldInv w) s = execLdInv w s := rfl
@[simp] theorem exec_ldH (w : CoreWords) (s : State) : exec (.ldH w) s = execLdH w s := rfl
@[simp] theorem exec_stH (w : CoreWords) (s : State) : exec (.stH w) s = execStH w s := rfl
@[simp] theorem exec_ldsH (w : CoreWords) (s : State) : exec (.ldsH w) s = execLdsH w s := rfl
@[simp] theorem exec_stsH (w : CoreWords) (s : State) : exec (.stsH w) s = execStsH w s := rfl
@[simp] theorem exec_prefH (w : CoreWords) (s : State) : exec (.prefH w) s = execPrefH w s := rfl
@[simp] theorem exec_ldInvH (w : CoreWords) (s : State) : exec (.ldInvH w) s = execLdInvH w s := rfl
@[simp] theorem exec_annFadd (w : CoreWords) (s : State) : exec (.annFadd w) s = execAnnFadd w s := rfl
@[simp] theorem exec_annFmin (w : CoreWords) (s : State) : exec (.annFmin w) s = execAnnFmin w s := rfl
@[simp] theorem exec_annFmax (w : CoreWords) (s : State) : exec (.annFmax w) s = execAnnFmax w s := rfl
@[simp] theorem exec_annAnd (w : CoreWords) (s : State) : exec (.annAnd w) s = execAnnAnd w s := rfl
@[simp] theorem exec_annOr (w : CoreWords) (s : State) : exec (.annOr w) s = execAnnOr w s := rfl
@[simp] theorem exec_annXor (w : CoreWords) (s : State) : exec (.annXor w) s = execAnnXor w s := rfl
@[simp] theorem exec_annSwap (w : CoreWords) (s : State) : exec (.annSwap w) s = execAnnSwap w s := rfl
@[simp] theorem exec_annCas (w : CoreWords) (s : State) : exec (.annCas w) s = execAnnCas w s := rfl
@[simp] theorem exec_annMcas (w : CoreWords) (s : State) : exec (.annMcas w) s = execAnnMcas w s := rfl
@[simp] theorem exec_annBkt (w : CoreWords) (s : State) : exec (.annBkt w) s = execAnnBkt w s := rfl
@[simp] theorem exec_help (w : CoreWords) (s : State) : exec (.help w) s = execHelp w s := rfl
@[simp] theorem exec_coll (w : CoreWords) (s : State) : exec (.coll w) s = execColl w s := rfl
@[simp] theorem exec_acq (w : CoreWords) (s : State) : exec (.acq w) s = execAcq w s := rfl
@[simp] theorem exec_rel (w : CoreWords) (s : State) : exec (.rel w) s = execRel w s := rfl
@[simp] theorem exec_barArv (w : CoreWords) (s : State) : exec (.barArv w) s = execBarArv w s := rfl
@[simp] theorem exec_barTst (w : CoreWords) (s : State) : exec (.barTst w) s = execBarTst w s := rfl
@[simp] theorem exec_bbarPost (w : CoreWords) (s : State) : exec (.bbarPost w) s = execBbarPost w s := rfl
@[simp] theorem exec_bbarTst (w : CoreWords) (s : State) : exec (.bbarTst w) s = execBbarTst w s := rfl
@[simp] theorem exec_fadd (w : CoreWords) (s : State) : exec (.fadd w) s = execFadd w s := rfl
@[simp] theorem exec_fsub (w : CoreWords) (s : State) : exec (.fsub w) s = execFsub w s := rfl
@[simp] theorem exec_fmul (w : CoreWords) (s : State) : exec (.fmul w) s = execFmul w s := rfl
@[simp] theorem exec_fma (w : CoreWords) (s : State) : exec (.fma w) s = execFma w s := rfl
@[simp] theorem exec_fmin (w : CoreWords) (s : State) : exec (.fmin w) s = execFmin w s := rfl
@[simp] theorem exec_fmax (w : CoreWords) (s : State) : exec (.fmax w) s = execFmax w s := rfl
@[simp] theorem exec_rcp (w : CoreWords) (s : State) : exec (.rcp w) s = execRcp w s := rfl
@[simp] theorem exec_rsq (w : CoreWords) (s : State) : exec (.rsq w) s = execRsq w s := rfl
@[simp] theorem exec_ex2 (w : CoreWords) (s : State) : exec (.ex2 w) s = execEx2 w s := rfl
@[simp] theorem exec_lg2 (w : CoreWords) (s : State) : exec (.lg2 w) s = execLg2 w s := rfl
@[simp] theorem exec_tanh (w : CoreWords) (s : State) : exec (.tanh w) s = execTanh w s := rfl
@[simp] theorem exec_cvt (w : CoreWords) (s : State) : exec (.cvt w) s = execCvt w s := rfl
@[simp] theorem exec_pkscl (w : CoreWords) (s : State) : exec (.pkscl w) s = execPkscl w s := rfl
@[simp] theorem exec_unpk (w : CoreWords) (s : State) : exec (.unpk w) s = execUnpk w s := rfl
@[simp] theorem exec_dot8 (w : CoreWords) (s : State) : exec (.dot8 w) s = execDot8 w s := rfl
@[simp] theorem exec_hredAdd (w : CoreWords) (s : State) : exec (.hredAdd w) s = execHredAdd w s := rfl
@[simp] theorem exec_hredMin (w : CoreWords) (s : State) : exec (.hredMin w) s = execHredMin w s := rfl
@[simp] theorem exec_hredMax (w : CoreWords) (s : State) : exec (.hredMax w) s = execHredMax w s := rfl
@[simp] theorem exec_fcmpEq (w : CoreWords) (s : State) : exec (.fcmpEq w) s = execFcmpEq w s := rfl
@[simp] theorem exec_fcmpNe (w : CoreWords) (s : State) : exec (.fcmpNe w) s = execFcmpNe w s := rfl
@[simp] theorem exec_fcmpLt (w : CoreWords) (s : State) : exec (.fcmpLt w) s = execFcmpLt w s := rfl
@[simp] theorem exec_fcmpLe (w : CoreWords) (s : State) : exec (.fcmpLe w) s = execFcmpLe w s := rfl
@[simp] theorem exec_fcmpUn (w : CoreWords) (s : State) : exec (.fcmpUn w) s = execFcmpUn w s := rfl
@[simp] theorem exec_ftag (w : CoreWords) (s : State) : exec (.ftag w) s = execFtag w s := rfl
@[simp] theorem exec_stag (w : CoreWords) (s : State) : exec (.stag w) s = execStag w s := rfl
@[simp] theorem exec_faddH (w : CoreWords) (s : State) : exec (.faddH w) s = execFaddH w s := rfl
@[simp] theorem exec_fsubH (w : CoreWords) (s : State) : exec (.fsubH w) s = execFsubH w s := rfl
@[simp] theorem exec_fmulH (w : CoreWords) (s : State) : exec (.fmulH w) s = execFmulH w s := rfl
@[simp] theorem exec_fmaH (w : CoreWords) (s : State) : exec (.fmaH w) s = execFmaH w s := rfl
@[simp] theorem exec_fminH (w : CoreWords) (s : State) : exec (.fminH w) s = execFminH w s := rfl
@[simp] theorem exec_fmaxH (w : CoreWords) (s : State) : exec (.fmaxH w) s = execFmaxH w s := rfl
@[simp] theorem exec_fcmpEqH (w : CoreWords) (s : State) : exec (.fcmpEqH w) s = execFcmpEqH w s := rfl
@[simp] theorem exec_fcmpNeH (w : CoreWords) (s : State) : exec (.fcmpNeH w) s = execFcmpNeH w s := rfl
@[simp] theorem exec_fcmpLtH (w : CoreWords) (s : State) : exec (.fcmpLtH w) s = execFcmpLtH w s := rfl
@[simp] theorem exec_fcmpLeH (w : CoreWords) (s : State) : exec (.fcmpLeH w) s = execFcmpLeH w s := rfl
@[simp] theorem exec_tld (w : CoreWords) (s : State) : exec (.tld w) s = execTld w s := rfl
@[simp] theorem exec_tst (w : CoreWords) (s : State) : exec (.tst w) s = execTst w s := rfl
@[simp] theorem exec_tcfg (w : CoreWords) (s : State) : exec (.tcfg w) s = execTcfg w s := rfl
@[simp] theorem exec_mma (w : CoreWords) (s : State) : exec (.mma w) s = execMma w s := rfl
@[simp] theorem exec_mmaWin (w : CoreWords) (s : State) : exec (.mmaWin w) s = execMmaWin w s := rfl
@[simp] theorem exec_gmma (w : CoreWords) (s : State) : exec (.gmma w) s = execGmma w s := rfl
@[simp] theorem exec_acz (w : CoreWords) (s : State) : exec (.acz w) s = execAcz w s := rfl
@[simp] theorem exec_acld (w : CoreWords) (s : State) : exec (.acld w) s = execAcld w s := rfl
@[simp] theorem exec_acst (w : CoreWords) (s : State) : exec (.acst w) s = execAcst w s := rfl
@[simp] theorem exec_acdrain (w : CoreWords) (s : State) : exec (.acdrain w) s = execAcdrain w s := rfl
@[simp] theorem exec_epi (w : CoreWords) (s : State) : exec (.epi w) s = execEpi w s := rfl
@[simp] theorem exec_cpy (w : CoreWords) (s : State) : exec (.cpy w) s = execCpy w s := rfl
@[simp] theorem exec_wbind (w : CoreWords) (s : State) : exec (.wbind w) s = execWbind w s := rfl
@[simp] theorem exec_winq (w : CoreWords) (s : State) : exec (.winq w) s = execWinq w s := rfl
@[simp] theorem exec_cbtakeFull (w : CoreWords) (s : State) : exec (.cbtakeFull w) s = execCbtakeFull w s := rfl
@[simp] theorem exec_cbtakeFree (w : CoreWords) (s : State) : exec (.cbtakeFree w) s = execCbtakeFree w s := rfl
@[simp] theorem exec_cbgiveFull (w : CoreWords) (s : State) : exec (.cbgiveFull w) s = execCbgiveFull w s := rfl
@[simp] theorem exec_cbgiveFree (w : CoreWords) (s : State) : exec (.cbgiveFree w) s = execCbgiveFree w s := rfl
@[simp] theorem exec_qput (w : CoreWords) (s : State) : exec (.qput w) s = execQput w s := rfl
@[simp] theorem exec_qget (w : CoreWords) (s : State) : exec (.qget w) s = execQget w s := rfl
@[simp] theorem exec_bkt (w : CoreWords) (s : State) : exec (.bkt w) s = execBkt w s := rfl
@[simp] theorem exec_xcntRd (w : CoreWords) (s : State) : exec (.xcntRd w) s = execXcntRd w s := rfl
@[simp] theorem exec_xcntClr (w : CoreWords) (s : State) : exec (.xcntClr w) s = execXcntClr w s := rfl
@[simp] theorem exec_rng (w : CoreWords) (s : State) : exec (.rng w) s = execRng w s := rfl
@[simp] theorem exec_spawn (w : CoreWords) (s : State) : exec (.spawn w) s = execSpawn w s := rfl
@[simp] theorem exec_cond (w : CoreWords) (s : State) : exec (.cond w) s = execCond w s := rfl
@[simp] theorem exec_spawncT (w : CoreWords) (s : State) : exec (.spawncT w) s = execSpawncT w s := rfl
@[simp] theorem exec_spawncF (w : CoreWords) (s : State) : exec (.spawncF w) s = execSpawncF w s := rfl
@[simp] theorem exec_spawncTPred (w : CoreWords) (s : State) : exec (.spawncTPred w) s = execSpawncTPred w s := rfl
@[simp] theorem exec_spawncFPred (w : CoreWords) (s : State) : exec (.spawncFPred w) s = execSpawncFPred w s := rfl
@[simp] theorem exec_resolve (w : CoreWords) (s : State) : exec (.resolve w) s = execResolve w s := rfl
@[simp] theorem exec_lkset (w : CoreWords) (s : State) : exec (.lkset w) s = execLkset w s := rfl
@[simp] theorem exec_lkget (w : CoreWords) (s : State) : exec (.lkget w) s = execLkget w s := rfl
@[simp] theorem exec_segq (w : CoreWords) (s : State) : exec (.segq w) s = execSegq w s := rfl
@[simp] theorem exec_trap (w : CoreWords) (s : State) : exec (.trap w) s = execTrap w s := rfl
@[simp] theorem exec_tret (w : CoreWords) (s : State) : exec (.tret w) s = execTret w s := rfl
@[simp] theorem exec_srd (w : CoreWords) (s : State) : exec (.srd w) s = execSrd w s := rfl
@[simp] theorem exec_swr (w : CoreWords) (s : State) : exec (.swr w) s = execSwr w s := rfl
@[simp] theorem exec_uintr (w : CoreWords) (s : State) : exec (.uintr w) s = execUintr w s := rfl
@[simp] theorem exec_brk (w : CoreWords) (s : State) : exec (.brk w) s = execBrk w s := rfl
@[simp] theorem exec_sig (w : CoreWords) (s : State) : exec (.sig w) s = execSig w s := rfl
@[simp] theorem exec_drop (w : CoreWords) (s : State) : exec (.drop w) s = execDrop w s := rfl
@[simp] theorem exec_encodingNotInstruction (code : BitVec 8) (word0 : Word) (s : State) : exec (.encodingNotInstruction code word0) s = execEncodingNotInstruction code word0 s := rfl
@[simp] theorem exec_coldStart (s : State) : exec .coldStart s = execColdStart s := rfl
@[simp] theorem exec_warmReset (s : State) : exec .warmReset s = execWarmReset s := rfl
@[simp] theorem exec_flrVf (s : State) : exec .flrVf s = execFlrVf s := rfl
@[simp] theorem exec_flrPf (s : State) : exec .flrPf s = execFlrPf s := rfl
@[simp] theorem exec_partitionReset (s : State) : exec .partitionReset s = execPartitionReset s := rfl
@[simp] theorem exec_dutyWindow (s : State) : exec .dutyWindow s = execDutyWindow s := rfl
@[simp] theorem exec_thermalThrottle (s : State) : exec .thermalThrottle s = execThermalThrottle s := rfl
@[simp] theorem exec_thermalTrip (s : State) : exec .thermalTrip s = execThermalTrip s := rfl
@[simp] theorem exec_eolUpdate (s : State) : exec .eolUpdate s = execEolUpdate s := rfl
@[simp] theorem exec_hostLinkTrain (s : State) : exec .hostLinkTrain s = execHostLinkTrain s := rfl
@[simp] theorem exec_portRetrain (s : State) : exec .portRetrain s = execPortRetrain s := rfl
@[simp] theorem exec_flitChkMismatch (s : State) : exec .flitChkMismatch s = execFlitChkMismatch s := rfl
@[simp] theorem exec_flitUnlistedKind (s : State) : exec .flitUnlistedKind s = execFlitUnlistedKind s := rfl
@[simp] theorem exec_ackTimer (s : State) : exec .ackTimer s = execAckTimer s := rfl
@[simp] theorem exec_requestTimeout (s : State) : exec .requestTimeout s = execRequestTimeout s := rfl
@[simp] theorem exec_queueCreate (s : State) : exec .queueCreate s = execQueueCreate s := rfl
@[simp] theorem exec_doorbell (s : State) : exec .doorbell s = execDoorbell s := rfl
@[simp] theorem exec_queueResume (s : State) : exec .queueResume s = execQueueResume s := rfl
@[simp] theorem exec_slotGrant (s : State) : exec .slotGrant s = execSlotGrant s := rfl
@[simp] theorem exec_waitRereadExpiry (s : State) : exec .waitRereadExpiry s = execWaitRereadExpiry s := rfl
@[simp] theorem exec_completionWaitExpiry (s : State) : exec .completionWaitExpiry s = execCompletionWaitExpiry s := rfl
@[simp] theorem exec_launchComplete (s : State) : exec .launchComplete s = execLaunchComplete s := rfl
@[simp] theorem exec_hostWaitRegister (s : State) : exec .hostWaitRegister s = execHostWaitRegister s := rfl
@[simp] theorem exec_hostWaitWithdraw (s : State) : exec .hostWaitWithdraw s = execHostWaitWithdraw s := rfl
@[simp] theorem exec_atomicopCompletion (s : State) : exec .atomicopCompletion s = execAtomicopCompletion s := rfl
@[simp] theorem exec_atomicopTimeout (s : State) : exec .atomicopTimeout s = execAtomicopTimeout s := rfl
@[simp] theorem exec_hostLoss (s : State) : exec .hostLoss s = execHostLoss s := rfl
@[simp] theorem exec_hostMemoryWrite (s : State) : exec .hostMemoryWrite s = execHostMemoryWrite s := rfl
@[simp] theorem exec_ckptCopyComplete (s : State) : exec .ckptCopyComplete s = execCkptCopyComplete s := rfl
@[simp] theorem exec_ckptRestoreComplete (s : State) : exec .ckptRestoreComplete s = execCkptRestoreComplete s := rfl
@[simp] theorem exec_tbaseWrite (s : State) : exec .tbaseWrite s = execTbaseWrite s := rfl
@[simp] theorem exec_tlbInvalidate (s : State) : exec .tlbInvalidate s = execTlbInvalidate s := rfl
@[simp] theorem exec_invalidateComplete (s : State) : exec .invalidateComplete s = execInvalidateComplete s := rfl
@[simp] theorem exec_partitionCommit (s : State) : exec .partitionCommit s = execPartitionCommit s := rfl
@[simp] theorem exec_bindingWrite (s : State) : exec .bindingWrite s = execBindingWrite s := rfl
@[simp] theorem exec_errorBankClear (s : State) : exec .errorBankClear s = execErrorBankClear s := rfl
@[simp] theorem exec_registerWrite (s : State) : exec .registerWrite s = execRegisterWrite s := rfl
@[simp] theorem exec_debugHalt (s : State) : exec .debugHalt s = execDebugHalt s := rfl
@[simp] theorem exec_debugRead (s : State) : exec .debugRead s = execDebugRead s := rfl
@[simp] theorem exec_debugWrite (s : State) : exec .debugWrite s = execDebugWrite s := rfl
@[simp] theorem exec_debugResume (s : State) : exec .debugResume s = execDebugResume s := rfl
@[simp] theorem exec_debugStep (s : State) : exec .debugStep s = execDebugStep s := rfl
@[simp] theorem exec_finalise (s : State) : exec .finalise s = execFinalise s := rfl
@[simp] theorem exec_hostLossStatus (s : State) : exec .hostLossStatus s = execHostLossStatus s := rfl
@[simp] theorem exec_hostLossReplay (s : State) : exec .hostLossReplay s = execHostLossReplay s := rfl
@[simp] theorem exec_hostLossDrop (s : State) : exec .hostLossDrop s = execHostLossDrop s := rfl
@[simp] theorem exec_spdmSession (s : State) : exec .spdmSession s = execSpdmSession s := rfl
@[simp] theorem exec_quiescePartitions (s : State) : exec .quiescePartitions s = execQuiescePartitions s := rfl
@[simp] theorem exec_getMeasurements (s : State) : exec .getMeasurements s = execGetMeasurements s := rfl
@[simp] theorem exec_imageUpdate (s : State) : exec .imageUpdate s = execImageUpdate s := rfl
@[simp] theorem exec_glitchDetect (s : State) : exec .glitchDetect s = execGlitchDetect s := rfl
@[simp] theorem exec_tamperBreak (s : State) : exec .tamperBreak s = execTamperBreak s := rfl
@[simp] theorem exec_debugUnlock (s : State) : exec .debugUnlock s = execDebugUnlock s := rfl
@[simp] theorem exec_placement (s : State) : exec .placement s = execPlacement s := rfl
@[simp] theorem exec_slotArbitration (s : State) : exec .slotArbitration s = execSlotArbitration s := rfl
@[simp] theorem exec_resultReturn (s : State) : exec .resultReturn s = execResultReturn s := rfl
@[simp] theorem exec_spillComplete (s : State) : exec .spillComplete s = execSpillComplete s := rfl
@[simp] theorem exec_refillComplete (s : State) : exec .refillComplete s = execRefillComplete s := rfl
@[simp] theorem exec_owlExpiry (s : State) : exec .owlExpiry s = execOwlExpiry s := rfl
@[simp] theorem exec_spawnEntryArrival (s : State) : exec .spawnEntryArrival s = execSpawnEntryArrival s := rfl
@[simp] theorem exec_deal (s : State) : exec .deal s = execDeal s := rfl
@[simp] theorem exec_resolutionApply (s : State) : exec .resolutionApply s = execResolutionApply s := rfl
@[simp] theorem exec_commitDrain (s : State) : exec .commitDrain s = execCommitDrain s := rfl
@[simp] theorem exec_backEdge (s : State) : exec .backEdge s = execBackEdge s := rfl
@[simp] theorem exec_laneRetire (s : State) : exec .laneRetire s = execLaneRetire s := rfl
@[simp] theorem exec_laneRebuild (s : State) : exec .laneRebuild s = execLaneRebuild s := rfl
@[simp] theorem exec_pageService (s : State) : exec .pageService s = execPageService s := rfl
@[simp] theorem exec_storeDrain (s : State) : exec .storeDrain s = execStoreDrain s := rfl
@[simp] theorem exec_relApply (s : State) : exec .relApply s = execRelApply s := rfl
@[simp] theorem exec_acqApply (s : State) : exec .acqApply s = execAcqApply s := rfl
@[simp] theorem exec_bindRegister (s : State) : exec .bindRegister s = execBindRegister s := rfl
@[simp] theorem exec_announceStep (s : State) : exec .announceStep s = execAnnounceStep s := rfl
@[simp] theorem exec_barArrival (s : State) : exec .barArrival s = execBarArrival s := rfl
@[simp] theorem exec_recordCancel (s : State) : exec .recordCancel s = execRecordCancel s := rfl
@[simp] theorem exec_copyComplete (s : State) : exec .copyComplete s = execCopyComplete s := rfl
@[simp] theorem exec_windowFillEnd (s : State) : exec .windowFillEnd s = execWindowFillEnd s := rfl
@[simp] theorem exec_jobComplete (s : State) : exec .jobComplete s = execJobComplete s := rfl
@[simp] theorem exec_gmmaSliceDone (s : State) : exec .gmmaSliceDone s = execGmmaSliceDone s := rfl
@[simp] theorem exec_acdrainAdd (s : State) : exec .acdrainAdd s = execAcdrainAdd s := rfl
@[simp] theorem exec_trapEntry (s : State) : exec .trapEntry s = execTrapEntry s := rfl
@[simp] theorem exec_lossOfModulePower (s : State) : exec .lossOfModulePower s = execLossOfModulePower s := rfl
@[simp] theorem exec_hostCompletionTimeOut (s : State) : exec .hostCompletionTimeOut s = execHostCompletionTimeOut s := rfl

end Sys2Proof.Machine
end

