-- ==== Sys2Proof/Laws/Exec.lean ====
section
/-!
SUPPORT. What the shape shared by the core instructions answers, by what its body does: the lemmas that a claim about one
instruction cites.
-/
namespace Sys2Proof.Machine

variable {s s' : State} {i : SplitIssue} {w : CoreWords} {kind : Kind} {body : SplitIssue → Lanes → State → Done}

/-- An issuing split with an active lane runs the body. -/
theorem execCore_issues (h : Issues s i w) :
    execCore kind w s body = .next (match body i (i.active (s.hand i.hand) w) s with
      | .ok s' => if kind.signs then (s.finish i w 0 kind.outside s').comparePair i.hand else s.finish i w 0 kind.outside s'
      | .moved s' m => s.finish i w m kind.outside s'
      | .trap s' t => (if s.specRun (s.hand i.hand) || (s.hand i.hand).pendTrap.isSome then s else s').faulted i w t
      | .stall s' => (s'.countIssue i w.rb false).finishCycle i.core i.slot
      | .kill s' => ((s'.countIssue i w.rb false).killGang i.hand 0x12 (some i.pc) false).finishCycle i.core i.slot
      | .edge => (s.effectEdge i.hand).finishCycle i.core i.slot) := by
  obtain ⟨hc, ha, hs, hb⟩ := h
  have ha' : (i.active (s.hand i.hand) w == 0) = false := by simpa using ha
  cases he : body i (i.active (s.hand i.hand) w) s <;>
    simp only [execCore, hc, hs, hb, ha', he, State.finish, State.faulted, beq_iff_eq, Bool.and_false, Bool.false_eq_true, if_false,
      Bool.false_or]

/-- Its body has its effect: the instruction retires. -/
theorem execCore_ok (h : Issues s i w) (hk : kind.signs = false) (hb : body i (i.active (s.hand i.hand) w) s = .ok s') :
    execCore kind w s body = .next (s.finish i w 0 kind.outside s') := by
  rw [execCore_issues h]; simp [hb, hk]

/-- Its body gives some threads a PC: the others go on at the next instruction. -/
theorem execCore_moved {m : Lanes} (h : Issues s i w) (hb : body i (i.active (s.hand i.hand) w) s = .moved s' m) :
    execCore kind w s body = .next (s.finish i w m kind.outside s') := by
  rw [execCore_issues h]; simp [hb]

/-- Registers that are there are read, and the effect happens. -/
theorem withRegs_readable {act : Lanes} {ops : List (Operand × Check)} {dsts lr : List Nat} {effect : Hand → State → Done}
    (h : Readable s i act ops dsts lr) :
    withRegs i act s ops dsts lr effect =
      match effect (s.hand i.hand) (s.released i lr) with
      | .trap _ t => (match effect (s.hand i.hand) s with
        | .trap s' _ => .trap s' t
        | _ => .trap s t)
      | d => d := by
  obtain ⟨h1, h2, h3⟩ := h
  have h4 : s.scan i (regsOf (s.hand i.hand) act (ops.map Prod.fst)) = (false, s) := by simp [State.scan, h3]
  cases he : effect (s.hand i.hand) (s.released i lr) <;> simp only [State.released] at he <;>
    simp only [withRegs, h1, h2, h4, he]
  all_goals cases effect (s.hand i.hand) s <;> rfl

theorem withRegs_ok {act : Lanes} {ops : List (Operand × Check)} {dsts lr : List Nat} {effect : Hand → State → Done}
    (h : Readable s i act ops dsts lr) (he : effect (s.hand i.hand) (s.released i lr) = .ok s') :
    withRegs i act s ops dsts lr effect = .ok s' := by
  rw [withRegs_readable h, he]

theorem withRegs_moved {act m : Lanes} {ops : List (Operand × Check)} {dsts lr : List Nat} {effect : Hand → State → Done}
    (h : Readable s i act ops dsts lr) (he : effect (s.hand i.hand) (s.released i lr) = .moved s' m) :
    withRegs i act s ops dsts lr effect = .moved s' m := by
  rw [withRegs_readable h, he]

end Sys2Proof.Machine
end

