-- ==== Sys2Proof/Laws/Front.lean ====
section
/-!
SUPPORT. What the shapes shared by packets, by the command processors' instructions and by debug commands answer: the lemmas that a
claim about one of them cites.
-/
namespace Sys2Proof.Machine

variable {s : State} {q : Queue}

/-- A packet that is not formed faults its queue with CMDFMT. -/
theorem packetOp_malformed {w : PacketWords} {bound : Nat} {body : Queue → State → PkEnd} (hq : s.slotQueue w.die w.slot = some q)
    (hb : 0 < bound) (h : ¬ formed w bound) : packetOp bound w s body = .next (s.packetFault q 0x81) := by
  have hc : ((packetCount w.type).join.any (fun n => n != w.count) || w.flags / bound != 0) = true := by
    unfold formed at h
    by_cases hf : w.flags < bound
    · cases hj : (packetCount w.type).join with
      | none => exact absurd ⟨.inl hj, hf⟩ h
      | some n =>
        have hn : n ≠ w.count := fun e => h ⟨.inr (by rw [hj, e]), hf⟩
        simp [hn]
    · have := Nat.div_pos (Nat.le_of_not_lt hf) hb
      have hne : w.flags / bound ≠ 0 := by omega
      simp [hne]
  simp [packetOp, hq, hc, State.packetFault]

/-- A packet that is formed does what its body says. -/
theorem packetOp_formed {w : PacketWords} {bound : Nat} {body : Queue → State → PkEnd} (hq : s.slotQueue w.die w.slot = some q)
    (h : formed w bound) :
    packetOp bound w s body = .next (match body q s with
      | .done t => t.parsed q w
      | .push t len => if len = 0 then t.advance q 4
          else ((t.endRead q.reader).updQueue (q.fn, q.idx) (fun q => { q with ib := q.ib ++ [0], parsed := q.parsed + 1 })).afterPacket (q.fn, q.idx)
      | .fault t code => t.packetFault q code
      | .hold t x => if x = .completions ∧ t.readyQueues q.die ≠ [] then t.queueWait (q.fn, q.idx) .completions
          else t.updQueue (q.fn, q.idx) (fun q => { q with hold := x })
      | .wait t a => t.queueWait (q.fn, q.idx) a
      | .page t va home x => t.queuePage (q.fn, q.idx) q.asid va home x
      | .retry t => t.release (q.fn, q.idx) qReady) := by
  have hc : ((packetCount w.type).join.any (fun n => n != w.count) || w.flags / bound != 0) = false := by
    obtain ⟨hj | hj, hf⟩ := h <;> simp [hj, Nat.div_eq_of_lt hf]
  cases he : body q s <;> simp [packetOp, hq, hc, he, State.parsed, State.packetFault]

/-- Outside machine mode an instruction of a command processor raises the illegal-instruction exception. -/
theorem execCp_illegal {w : DvWord} {n : Nat} {body : Nat → DWord → DWord → State → CpEnd} (hc : s.cur = some (.cp n))
    (hm : (s.cps.getD n Cp.init).mode ≠ 3) :
    execCp w s body = .next { s with cps := putAt 16 Cp.init (fun c => { c.illegal with word := Config.freeWord s.tick }) n s.cps } := by
  simp only [execCp, hc]
  rw [if_pos (by simpa using hm)]

/-- In machine mode it retires with the value that its body gives, after its effect. -/
theorem execCp_machine {w : DvWord} {n : Nat} {body : Nat → DWord → DWord → State → CpEnd} {e : CpEnd} (hc : s.cur = some (.cp n))
    (hm : (s.cps.getD n Cp.init).mode = 3)
    (he : body n ((s.cps.getD n Cp.init).reads w.rs1) ((s.cps.getD n Cp.init).reads w.rs2) s = e) (hs : e.stay = false) :
    execCp w s body = .next (e.s.cpRetires n w (Config.freeWord s.tick) e.rd) := by
  have hm' : ((s.cps.getD n Cp.init).mode != 3) = false := by rw [hm]; rfl
  obtain ⟨t, rd, stay⟩ := e
  obtain rfl : stay = false := hs
  simp only [Cp.reads] at he
  cases rd <;> simp only [execCp, hc, hm', beq_iff_eq, he, State.cpRetires, Bool.false_eq_true, if_false]

/-- A debug command on a hand that is found acts on it. -/
theorem debugCommand_acts {cmd : BitVec 8} {f : Hand → State → State} {h : Hand} (hb : s.debugBusy = false) (ha : s.mgmt.alarm.toNat < 2)
    (hh : s.debugHand = some h) (hd : (s.part h.part).cfg.dbg = true) : debugCommand cmd f s = .next (f h s) := by
  simp [debugCommand, hb, Nat.not_le_of_lt ha, hh, hd]

/-- It is refused from alarm level 2 on. -/
theorem debugCommand_alarm {cmd : BitVec 8} {f : Hand → State → State} (hb : s.debugBusy = false) (ha : 2 ≤ s.mgmt.alarm.toNat) :
    debugCommand cmd f s = .next (s.debugReply cmd false 4 0) := by
  simp [debugCommand, hb, ha]

/-- It finds no hand. -/
theorem debugCommand_noHand {cmd : BitVec 8} {f : Hand → State → State} (hb : s.debugBusy = false) (ha : s.mgmt.alarm.toNat < 2)
    (hh : s.debugHand = none) : debugCommand cmd f s = .next (s.debugReply cmd false 1 0) := by
  simp [debugCommand, hb, Nat.not_le_of_lt ha, hh]

/-- It is refused in a partition without debug enable. -/
theorem debugCommand_disabled {cmd : BitVec 8} {f : Hand → State → State} {h : Hand} (hb : s.debugBusy = false) (ha : s.mgmt.alarm.toNat < 2)
    (hh : s.debugHand = some h) (hd : (s.part h.part).cfg.dbg = false) : debugCommand cmd f s = .next (s.debugReply cmd false 4 0) := by
  simp [debugCommand, hb, Nat.not_le_of_lt ha, hh, hd]

end Sys2Proof.Machine
end

