-- ==== Sys2Proof/Laws/Int.lean ====
section
/-!
SUPPORT. The results of the integer instructions as numbers (spec/13 R282, R283).
-/
namespace Sys2Proof.Machine

/-- `mulhi`: bits [63:32] of the exact product. -/
theorem mulHigh_num (uns a b) : mulHigh uns a b = BitVec.ofInt 32 (typed uns a * typed uns b / 2 ^ 32) := by
  unfold mulHigh typed
  cases uns <;> simp
  apply BitVec.eq_of_toNat_eq
  simp
  norm_cast


/-- The order of the type's numbers. -/
theorem lt_num (uns a b) : lessThan uns a b = decide (typed uns a < typed uns b) := by
  cases uns <;> simp [lessThan, typed, BitVec.slt, BitVec.ult]


/-- `min`. -/
theorem min_num (uns) (a b : Word) : minWord uns a b = if typed uns a ≤ typed uns b then a else b := by
  unfold minWord; rw [lt_num]; by_cases h : typed uns a ≤ typed uns b
  · simp [h, not_lt.mpr h]
  · simp [h, not_le.mp h]


/-- `max`. -/
theorem max_num (uns) (a b : Word) : maxWord uns a b = if typed uns a ≤ typed uns b then b else a := by
  unfold maxWord; rw [lt_num]; by_cases h : typed uns a < typed uns b
  · simp [h, le_of_lt h]
  · simp [h]; intro h2
    have : typed uns a = typed uns b := le_antisymm h2 (not_lt.mp h)
    cases uns
    · simp [typed] at this; exact BitVec.eq_of_toInt_eq this
    · simp [typed] at this; exact BitVec.eq_of_toNat_eq (by exact_mod_cast this)


/-- `shl`: times a power of two. -/
theorem shl_num (a b : Word) : shlWord a b = if b.toNat < 32 then BitVec.ofNat 32 (a.toNat * 2 ^ b.toNat) else 0 := by
  unfold shlWord; split <;> [skip; rfl]
  apply BitVec.eq_of_toNat_eq; simp [Nat.shiftLeft_eq]

/-- `shr`: divided by a power of two. -/
theorem shr_num (a b : Word) : shrWord a b = if b.toNat < 32 then BitVec.ofNat 32 (a.toNat / 2 ^ b.toNat) else 0 := by
  unfold shrWord; split <;> [skip; rfl]
  apply BitVec.eq_of_toNat_eq; simp [Nat.shiftRight_eq_div_pow]
  rw [Nat.mod_eq_of_lt]; exact lt_of_le_of_lt (Nat.div_le_self _ _) a.isLt

/-- The sign of a word is its bit 31. -/
theorem bit31 (a : Word) : (bitAt a 31 = 1) = (a.msb = true) := by
  rw [BitVec.msb_eq_decide]; unfold bitAt; simp; have := a.isLt; omega

/-- `sar`: the signed number divided by a power of two. -/
theorem sar_num (a b : Word) : sarWord a b = if b.toNat < 32 then BitVec.ofInt 32 (a.toInt / 2 ^ b.toNat) else if bitAt a 31 = 1 then 0xFFFFFFFF else 0 := by
  unfold sarWord; split
  · apply BitVec.eq_of_toInt_eq; rw [BitVec.toInt_sshiftRight, Int.shiftRight_eq_div_pow, BitVec.toInt_ofInt]
    rw [Int.bmod_eq_of_le]
    · simp
    · have h1 := BitVec.le_toInt a; have h2 := BitVec.toInt_lt (x := a)
      simp at *
      apply Int.le_ediv_of_mul_le (by positivity)
      have : (1:ℤ) ≤ 2^b.toNat := one_le_pow₀ (by norm_num)
      nlinarith
    · have h1 := BitVec.le_toInt a; have h2 := BitVec.toInt_lt (x := a)
      simp at *
      apply Int.ediv_lt_of_lt_mul (by positivity)
      have : (1:ℤ) ≤ 2^b.toNat := one_le_pow₀ (by norm_num)
      nlinarith
  · simp only [bit31]

/-- `rotl`: the two parts that a rotation exchanges. -/
theorem rotl_num (a b : Word) : rotlWord a b = BitVec.ofNat 32 (a.toNat * 2 ^ (b.toNat % 32) + a.toNat / 2 ^ (32 - b.toNat % 32)) := by
  unfold rotlWord
  rw [BitVec.rotateLeft_def]
  have hlt : b.toNat % 32 < 32 := Nat.mod_lt _ (by norm_num)
  generalize b.toNat % 32 = k at *
  rw [Nat.mod_eq_of_lt hlt]
  apply BitVec.eq_of_toNat_eq
  have hA := a.isLt
  rw [BitVec.toNat_or]
  simp only [BitVec.toNat_shiftLeft, BitVec.toNat_ushiftRight, BitVec.toNat_ofNat, Nat.shiftRight_eq_div_pow, Nat.shiftLeft_eq]
  have h1 : a.toNat / 2^(32-k) < 2^k := by
    rw [Nat.div_lt_iff_lt_mul (by positivity), ← pow_add]; convert hA using 2; omega
  have h2 : a.toNat * 2^k % 2^32 = 2^k * (a.toNat % 2^(32-k)) := by
    have : 2^32 = 2^k * 2^(32-k) := by rw [← pow_add]; congr 1; omega
    rw [this, mul_comm, Nat.mul_mod_mul_left]
  rw [h2, ← Nat.two_pow_add_eq_or_of_lt h1]
  have h3 : a.toNat % 2^(32-k) < 2^(32-k) := Nat.mod_lt _ (by positivity)
  have h4 : 2^k * (a.toNat % 2^(32-k)) + a.toNat / 2^(32-k) < 2^32 := by
    have e : 2^32 = 2^k * 2^(32-k) := by rw [← pow_add]; congr 1; omega
    rw [e]
    calc 2^k * (a.toNat % 2^(32-k)) + a.toNat / 2^(32-k) < 2^k * (a.toNat % 2^(32-k)) + 2^k := by omega
      _ = 2^k * (a.toNat % 2^(32-k) + 1) := by ring
      _ ≤ 2^k * 2^(32-k) := Nat.mul_le_mul_left _ h3
  rw [← h2] at h4 ⊢
  rw [← Nat.mod_add_mod, Nat.mod_eq_of_lt h4]

/-- `clz`: the powers of two, of those below 2^32, that are larger. -/
theorem clz_num (a : Word) : clzWord a = BitVec.ofNat 32 ((List.range 32).filter (fun j => a.toNat < 2 ^ j)).length := by
  unfold clzWord
  split
  · rename_i h; simp at h; subst h; simp
  · rename_i h
    congr 1
    have h0 : a.toNat ≠ 0 := by intro e; apply h; simp; exact BitVec.eq_of_toNat_eq e
    have : ∀ j, (a.toNat < 2 ^ j) ↔ (a.toNat.log2 < j) := fun j => (Nat.log2_lt h0).symm
    simp only [this]
    have hl : a.toNat.log2 < 32 := (Nat.log2_lt h0).2 a.isLt
    generalize a.toNat.log2 = m at *
    interval_cases m <;> rfl

/-- `popc`: the bits that are 1. -/
theorem popc_num (a : Word) : popcWord a = BitVec.ofNat 32 ((List.range 32).filter (fun j => bitAt a j = 1)).length := by
  unfold popcWord allLanes
  congr 3
  funext j
  simp [bitAt, BitVec.getLsbD, Nat.testBit_eq_decide_div_mod_eq]
  rfl

/-- A mask put together bit by bit is the sum of its powers of two. -/
theorem fold_or (p : Nat → Bool) (n : Nat) (hn : n ≤ 32) :
    ((List.range n).foldl (fun m t => if p t then m ||| Lanes.one t else m) (0 : Lanes)).toNat =
      (List.range n).foldl (fun m t => m + (p t).toNat * 2 ^ t) 0 ∧
    (List.range n).foldl (fun m t => m + (p t).toNat * 2 ^ t) 0 < 2 ^ n := by
  induction n with
  | zero => simp
  | succ n ih =>
    obtain ⟨h1, h2⟩ := ih (by omega)
    rw [List.range_succ, List.foldl_append, List.foldl_append]
    simp only [List.foldl_cons, List.foldl_nil]
    generalize (List.range n).foldl (fun m t => m + (p t).toNat * 2 ^ t) 0 = x at *
    cases hp : p n
    · simp only [Bool.false_eq_true, if_false, Bool.toNat_false, zero_mul, add_zero, h1, true_and]; rw [pow_succ]; omega
    · simp only [if_true, Bool.toNat_true, one_mul, BitVec.toNat_or, h1]
      have : (Lanes.one n).toNat = 2 ^ n := by
        have hp : 2 ^ n < 2 ^ 32 := Nat.pow_lt_pow_right (by norm_num) (by omega)
        simp only [Lanes.one, BitVec.toNat_shiftLeft, Nat.shiftLeft_eq]
        show 1 * 2 ^ n % 2 ^ 32 = _
        rw [one_mul, Nat.mod_eq_of_lt hp]
      rw [this]
      constructor
      · rw [Nat.or_comm]; have := (Nat.two_pow_add_eq_or_of_lt h2 1); simp at this; omega
      · rw [pow_succ]; omega

/-- `brev`. -/
theorem brev_num (a : Word) : brevWord a = BitVec.ofNat 32 ((List.range 32).foldl (fun n j => n + bitAt a (31 - j) * 2 ^ j) 0) := by
  have h := fold_or (fun i => a.getLsbD (31 - i)) 32 le_rfl
  have e : ∀ j, bitAt a j = (a.getLsbD j).toNat := by
    intro j; simp only [bitAt, BitVec.getLsbD, Nat.testBit_eq_decide_div_mod_eq]
    have : a.toNat / 2^j % 2 < 2 := Nat.mod_lt _ (by norm_num)
    interval_cases h : (a.toNat / 2^j % 2) <;> simp
  simp only [e]
  apply BitVec.eq_of_toNat_eq
  rw [BitVec.toNat_ofNat, Nat.mod_eq_of_lt h.2]
  exact h.1

/-- A field of a word is a quotient and a remainder. -/
theorem mask_and (a : Word) (lo n : Nat) (h : lo + n ≤ 32) :
    ((a &&& BitVec.ofNat 32 ((2 ^ n - 1) * 2 ^ lo)) >>> lo).toNat = a.toNat / 2 ^ lo % 2 ^ n := by
  have hb : (2^n - 1) * 2^lo < 2^32 := by
    calc (2^n-1) * 2^lo < 2^n * 2^lo := by apply Nat.mul_lt_mul_of_pos_right; have := Nat.two_pow_pos n; omega; positivity
      _ = 2^(lo+n) := by rw [← pow_add, add_comm]
      _ ≤ 2^32 := Nat.pow_le_pow_right (by norm_num) h
  rw [BitVec.toNat_ushiftRight, BitVec.toNat_and, BitVec.toNat_ofNat, Nat.mod_eq_of_lt hb, Nat.shiftRight_and_distrib]
  rw [Nat.shiftRight_eq_div_pow, Nat.shiftRight_eq_div_pow, Nat.mul_div_cancel _ (by positivity), Nat.and_two_pow_sub_one_eq_mod]

/-- `bfx`. -/
theorem bfx_num (w : CoreWords) (a : Word) : bfxWord w a =
    (let lo := w.f2 0 5
      let n := min (w.f2 5 6) (32 - lo)
      let f := a.toNat / 2 ^ lo % 2 ^ n
      if isUnsigned w = false ∧ 0 < n ∧ f / 2 ^ (n - 1) % 2 = 1 then BitVec.ofNat 32 (f + 2 ^ 32 - 2 ^ n)
      else BitVec.ofNat 32 f) := by
  have hlo : w.f2 0 5 < 32 := by unfold CoreWords.f2 bits; exact Nat.mod_lt _ (by norm_num)
  have hm := mask_and a (w.f2 0 5) (fldWidth w) (by unfold fldWidth; omega)
  unfold bfxWord fldMask
  simp only
  generalize hf : ((a &&& BitVec.ofNat 32 ((2 ^ fldWidth w - 1) * 2 ^ w.f2 0 5)) >>> w.f2 0 5) = f at *
  have en : min (w.f2 5 6) (32 - w.f2 0 5) = fldWidth w := rfl
  rw [en]
  rw [← hm]
  have hn : fldWidth w ≤ 32 := by unfold fldWidth; omega
  have hb : f.toNat < 2 ^ fldWidth w := by rw [hm]; exact Nat.mod_lt _ (by positivity)
  generalize fldWidth w = n at *
  by_cases hu : isUnsigned w = true
  · simp [hu]
  · simp only [Bool.not_eq_true] at hu
    by_cases hn0 : 0 < n
    · by_cases hs : f.toNat / 2 ^ (n-1) % 2 = 1
      · have hs' : f.getLsbD (n-1) = true := by simp [BitVec.getLsbD, Nat.testBit_eq_decide_div_mod_eq, hs]
        simp only [hu, hn0, hs, hs', decide_true, Bool.not_false, Bool.and_self, if_true, true_and]
        apply BitVec.eq_of_toNat_eq
        have e2 : ((0xFFFFFFFF : Word) <<< n).toNat = 2^n * (2^(32-n) - 1) := by
          simp only [BitVec.toNat_shiftLeft, Nat.shiftLeft_eq]
          interval_cases n <;> rfl
        rw [BitVec.toNat_or, e2, Nat.or_comm, ← Nat.two_pow_add_eq_or_of_lt hb, BitVec.toNat_ofNat]
        have e3 : 2^n * 2^(32-n) = 2^32 := by rw [← pow_add]; congr 1; omega
        have e4 : 2^n * (2^(32-n) - 1) = 2^32 - 2^n := by rw [Nat.mul_sub, e3, mul_one]
        have e5 : 2^n ≤ 2^32 := Nat.pow_le_pow_right (by norm_num) hn
        rw [e4, Nat.mod_eq_of_lt (by omega)]; omega
      · have hs' : f.getLsbD (n-1) = false := by simp [BitVec.getLsbD, Nat.testBit_eq_decide_div_mod_eq]; omega
        simp [hs, hs']
    · simp [hn0]

end Sys2Proof.Machine
end

