-- ==== Sys2Proof/Laws/Memory.lean ====
section
/-!
SUPPORT. Memory: the canonical form that every write keeps, and what a read finds after a write.
-/
namespace Sys2Proof.Machine

/-! ## The canonical form -/

theorem cellsWf_mono {m : List Host.Cell} {lo lo' : Nat} (h : cellsWf lo m = true) (hl : lo' ≤ lo) : cellsWf lo' m = true := by
  cases m with
  | nil => rfl
  | cons c m =>
    simp only [cellsWf, Bool.and_eq_true, decide_eq_true_eq] at h ⊢
    exact ⟨⟨le_trans hl h.1.1, h.1.2⟩, h.2⟩

theorem writeCell_cellsWf (a : Nat) (b : BitVec 8) {m : List Host.Cell} {lo : Nat} (h : cellsWf lo m = true) (ha : lo ≤ a) :
    cellsWf lo (writeCell a b m) = true := by
  induction m generalizing lo with
  | nil =>
    unfold writeCell
    split
    · rfl
    · simp_all [cellsWf]
  | cons c m ih =>
    obtain ⟨k, v⟩ := c
    simp only [cellsWf, Bool.and_eq_true, decide_eq_true_eq] at h
    obtain ⟨⟨hk, hv⟩, hm⟩ := h
    unfold writeCell
    split
    · split
      · simp_all [cellsWf]
      · simp_all [cellsWf]
    · split
      · subst_vars
        split
        · exact cellsWf_mono hm (by omega)
        · simp_all [cellsWf]
      · have := ih hm (by omega)
        simp_all [cellsWf]

theorem writeCell_wf (a : Nat) (b : BitVec 8) {m : List Host.Cell} (h : Memory.wf m = true) : Memory.wf (writeCell a b m) = true :=
  writeCell_cellsWf a b h (Nat.zero_le a)

theorem writeCells_wf (a : Nat) (bs : List (BitVec 8)) {m : List Host.Cell} (h : Memory.wf m = true) :
    Memory.wf (writeCells a bs m) = true := by
  induction bs generalizing a m with
  | nil => exact h
  | cons b bs ih => exact ih (a + 1) (writeCell_wf a b h)

theorem filter_cellsWf (p : Host.Cell → Bool) {m : List Host.Cell} {lo : Nat} (h : cellsWf lo m = true) :
    cellsWf lo (m.filter p) = true := by
  induction m generalizing lo with
  | nil => rfl
  | cons c m ih =>
    simp only [cellsWf, Bool.and_eq_true, decide_eq_true_eq] at h
    rw [List.filter_cons]
    split
    · simp only [cellsWf, Bool.and_eq_true, decide_eq_true_eq]
      exact ⟨h.1, ih h.2⟩
    · exact cellsWf_mono (ih h.2) (by omega)

theorem filter_wf (p : Host.Cell → Bool) {m : List Host.Cell} (h : Memory.wf m = true) : Memory.wf (m.filter p) = true :=
  filter_cellsWf p h

/-! ## Reads after writes -/

theorem readCell_of_lt {m : List Host.Cell} {lo a : Nat} (h : cellsWf lo m = true) (ha : a < lo) : readCell m a = unlistedByte := by
  induction m generalizing lo with
  | nil => rfl
  | cons c m ih =>
    obtain ⟨k, v⟩ := c
    simp only [cellsWf, Bool.and_eq_true, decide_eq_true_eq] at h
    unfold readCell
    rw [if_neg (by omega)]
    exact ih h.2 (by omega)

theorem readCell_writeCell_other (a a' : Nat) (b : BitVec 8) (m : List Host.Cell) (h : a' ≠ a) :
    readCell (writeCell a b m) a' = readCell m a' := by
  induction m with
  | nil =>
    unfold writeCell
    split
    · rfl
    · simp [readCell, Ne.symm h]
  | cons c m ih =>
    obtain ⟨k, v⟩ := c
    unfold writeCell
    split
    · split
      · rfl
      · simp [readCell, Ne.symm h]
    · split
      · subst_vars
        split <;> simp [readCell, Ne.symm h]
      · simp [readCell, ih]

theorem readCell_writeCell_same (a : Nat) (b : BitVec 8) {m : List Host.Cell} {lo : Nat} (h : cellsWf lo m = true) :
    readCell (writeCell a b m) a = b := by
  induction m generalizing lo with
  | nil =>
    unfold writeCell
    split
    · simp_all [readCell]
    · simp [readCell]
  | cons c m ih =>
    obtain ⟨k, v⟩ := c
    simp only [cellsWf, Bool.and_eq_true, decide_eq_true_eq] at h
    unfold writeCell
    split
    · split
      · have hk : ¬ k = a := by omega
        subst_vars
        simp only [readCell, if_neg hk]
        exact readCell_of_lt h.2 (by omega)
      · simp [readCell]
    · split
      · subst_vars
        split
        · subst_vars
          exact readCell_of_lt h.2 (by omega)
        · simp [readCell]
      · rename_i h1 h2
        simp [readCell, Ne.symm h2, ih h.2]

theorem readCell_writeCells_other (bs : List (BitVec 8)) (a a' : Nat) (m : List Host.Cell) (h : a' < a ∨ a + bs.length ≤ a') :
    readCell (writeCells a bs m) a' = readCell m a' := by
  induction bs generalizing a m with
  | nil => rfl
  | cons b bs ih =>
    simp only [List.length_cons] at h
    unfold writeCells
    rw [ih (a + 1) _ (by omega), readCell_writeCell_other a a' b m (by omega)]

theorem readCell_writeCells_in (bs : List (BitVec 8)) (a i : Nat) {m : List Host.Cell} (hm : Memory.wf m = true) (hi : i < bs.length) :
    readCell (writeCells a bs m) (a + i) = bs[i] := by
  induction bs generalizing a i m with
  | nil => simp at hi
  | cons b bs ih =>
    unfold writeCells
    cases i with
    | zero =>
      rw [readCell_writeCells_other bs (a + 1) (a + 0) _ (by omega)]
      exact readCell_writeCell_same a b hm
    | succ i =>
      have := ih (a + 1) i (writeCell_wf a b hm) (by simpa using hi)
      rw [show a + (i + 1) = a + 1 + i by omega, this]
      rfl

/-- A read of the bytes that were written gives them back. -/
theorem readCells_writeCells (bs : List (BitVec 8)) (a : Nat) {m : List Host.Cell} (hm : Memory.wf m = true) :
    readCells (writeCells a bs m) a bs.length = bs := by
  have key : ∀ (n k : Nat), k + n = bs.length → readCells (writeCells a bs m) (a + k) n = bs.drop k := by
    intro n
    induction n with
    | zero => intro k hk; simp [readCells, List.drop_of_length_le (by omega : bs.length ≤ k)]
    | succ n ih =>
      intro k hk
      have hlt : k < bs.length := by omega
      rw [readCells, readCell_writeCells_in bs a k hm hlt, Nat.add_assoc, ih (k + 1) (by omega), List.drop_eq_getElem_cons hlt]
  simpa using key bs.length 0 (by omega)

/-! ## Bytes and numbers (R4) -/

theorem leBytes_length (v n : Nat) : (leBytes v n).length = n := by
  induction n generalizing v with
  | zero => rfl
  | succ n ih => simp [leBytes, ih]

theorem leNat_leBytes (v n : Nat) : leNat (leBytes v n) = v % 256 ^ n := by
  induction n generalizing v with
  | zero => simp [leBytes, leNat, Nat.mod_one]
  | succ n ih =>
    have e : (BitVec.ofNat 8 v).toNat = v % 256 := BitVec.toNat_ofNat v 8
    rw [leBytes, leNat, ih, e, pow_succ', Nat.mod_mul]

/-! ## Word orders -/

theorem appendWrite_wf {s : State} (w : Nat) (mask : BitVec 8) (data : DWord) (msg : View) (scope : BitVec 3) (p : Party)
    (h : Memory.wf s.mem = true) : Memory.wf (s.appendWrite w mask data msg scope p).mem = true := writeCells_wf _ _ h

theorem foldl_wf {α : Type} (f : State → α → State) (hf : ∀ s a, Memory.wf s.mem = true → Memory.wf (f s a).mem = true)
    (l : List α) {s : State} (h : Memory.wf s.mem = true) : Memory.wf (l.foldl f s).mem = true := by
  induction l generalizing s with
  | nil => exact h
  | cons a l ih => exact ih (hf s a h)

theorem writeBytes_wf {s : State} (a : Nat) (bs : List (BitVec 8)) (p : Party) (h : Memory.wf s.mem = true) :
    Memory.wf (s.writeBytes a bs p).mem = true :=
  foldl_wf _ (fun _ _ hs => appendWrite_wf _ _ _ _ _ _ hs) _ h

theorem putWord_wf {s : State} (w : Nat) (mask : BitVec 8) (data : DWord) (msg : View) (scope : BitVec 3) (p : Party) (o : Owner)
    (h : Memory.wf s.mem = true) : Memory.wf (s.putWord w mask data msg scope p o).mem = true := by
  unfold State.putWord
  split
  · split
    · exact h
    · unfold State.dropHostWrite State.magpie
      dsimp only
      split <;> exact h
  · exact appendWrite_wf _ _ _ _ _ _ h

theorem putBytes_wf {s : State} (a : Nat) (bs : List (BitVec 8)) (p : Party) (h : Memory.wf s.mem = true) :
    Memory.wf (s.putBytes a bs p).mem = true :=
  foldl_wf _ (fun _ _ hs => putWord_wf _ _ _ _ _ _ _ hs) _ h

@[simp] theorem cross_mem (s : State) (a b loc : Nat) : (s.cross a b loc).mem = s.mem := by
  unfold State.cross
  dsimp only
  split <;> rfl

@[simp] theorem crossHome_mem (s : State) (a loc : Nat) : (s.crossHome a loc).mem = s.mem := by
  unfold State.crossHome
  split
  · exact cross_mem ..
  · rfl

theorem areaWrite_wf (h : Hand) (bs : List (BitVec 8)) (off : Nat) {s : State} (hs : Memory.wf s.mem = true) :
    Memory.wf (s.areaWrite h off bs).mem = true := by
  fun_induction State.areaWrite s h off bs with
  | case1 s off b0 b1 b2 b3 b4 b5 b6 b7 bs ih =>
    refine ih ?_
    split
    · exact writeBytes_wf _ _ _ (by simpa using hs)
    · exact hs
  | case2 => exact hs

theorem reset_wf : Memory.wf State.reset.mem = true := rfl

end Sys2Proof.Machine
end

