-- ==== Sys2Proof/Laws/PerInstr.lean ====
section
/-!
SUPPORT. The family Encoding of the per-instruction laws: the row of the opcode map that an instruction's opcode names builds the
instruction again from its fields.
-/
namespace Sys2Proof.Laws.Encoding

/-- A core instruction is what the row of its opcode builds from its words. -/
def Statement (i : Instr) : Prop :=
  ∀ opc w, i.core = some (opc, w) → ∃ r, opRow opc = some r ∧ r.build w = i

/-- An instruction with an opcode: its row. -/
theorem of_row {i : Instr} {opc : Nat} {w : CoreWords} (r : OpRow) (hi : i.core = some (opc, w)) (hr : opRow opc = some r)
    (hb : r.build w = i) : Statement i := by
  intro opc' w' h
  obtain ⟨rfl, rfl⟩ : opc = opc' ∧ w = w' := by simpa [hi] using h
  exact ⟨r, hr, hb⟩

/-- An instruction that no core executes has no opcode. -/
theorem of_none {i : Instr} (hi : i.core = none) : Statement i := by
  intro opc w h
  simp [hi] at h

theorem ack (port : Nat) (seq : BitVec 24) : Statement (.ack port seq) := of_none rfl
theorem replay (port : Nat) (seq : BitVec 24) : Statement (.replay port seq) := of_none rfl
theorem credit (port : Nat) (freed : BitVec 16) : Statement (.credit port freed) := of_none rfl
theorem rd (port : Nat) (m : PeerMsg) : Statement (.rd port m) := of_none rfl
theorem rdr (port : Nat) (m : PeerMsg) : Statement (.rdr port m) := of_none rfl
theorem wr (port : Nat) (m : PeerMsg) : Statement (.wr port m) := of_none rfl
theorem wra (port : Nat) (m : PeerMsg) : Statement (.wra port m) := of_none rfl
theorem peerStep (port : Nat) (m : PeerMsg) : Statement (.peerStep port m) := of_none rfl
theorem stepa (port : Nat) (m : PeerMsg) : Statement (.stepa port m) := of_none rfl
theorem cell (port : Nat) (m : PeerMsg) : Statement (.cell port m) := of_none rfl
theorem cella (port : Nat) (m : PeerMsg) : Statement (.cella port m) := of_none rfl
theorem nopPacket (w : PacketWords) : Statement (.nopPacket w) := of_none rfl
theorem launch (w : PacketWords) : Statement (.launch w) := of_none rfl
theorem graph (w : PacketWords) : Statement (.graph w) := of_none rfl
theorem wait (w : PacketWords) : Statement (.wait w) := of_none rfl
theorem signal (w : PacketWords) : Statement (.signal w) := of_none rfl
theorem callib (w : PacketWords) : Statement (.callib w) := of_none rfl
theorem fencePacket (w : PacketWords) : Statement (.fencePacket w) := of_none rfl
theorem writeimm (w : PacketWords) : Statement (.writeimm w) := of_none rfl
theorem ckpt (w : PacketWords) : Statement (.ckpt w) := of_none rfl
theorem ckptRestore (w : PacketWords) : Statement (.ckptRestore w) := of_none rfl
theorem unknownPacket (w : PacketWords) : Statement (.unknownPacket w) := of_none rfl
theorem dvRfetch (w : DvWord) : Statement (.dvRfetch w) := of_none rfl
theorem dvBfx (w : DvWord) : Statement (.dvBfx w) := of_none rfl
theorem dvSwait (w : DvWord) : Statement (.dvSwait w) := of_none rfl
theorem dvDisp (w : DvWord) : Statement (.dvDisp w) := of_none rfl
theorem add (w : CoreWords) : Statement (.add w) := of_row _ rfl rfl rfl
theorem sub (w : CoreWords) : Statement (.sub w) := of_row _ rfl rfl rfl
theorem mul (w : CoreWords) : Statement (.mul w) := of_row _ rfl rfl rfl
theorem mulhi (w : CoreWords) : Statement (.mulhi w) := of_row _ rfl rfl rfl
theorem mad (w : CoreWords) : Statement (.mad w) := of_row _ rfl rfl rfl
theorem imin (w : CoreWords) : Statement (.imin w) := of_row _ rfl rfl rfl
theorem imax (w : CoreWords) : Statement (.imax w) := of_row _ rfl rfl rfl
theorem iand (w : CoreWords) : Statement (.iand w) := of_row _ rfl rfl rfl
theorem ior (w : CoreWords) : Statement (.ior w) := of_row _ rfl rfl rfl
theorem ixor (w : CoreWords) : Statement (.ixor w) := of_row _ rfl rfl rfl
theorem andn (w : CoreWords) : Statement (.andn w) := of_row _ rfl rfl rfl
theorem shl (w : CoreWords) : Statement (.shl w) := of_row _ rfl rfl rfl
theorem shr (w : CoreWords) : Statement (.shr w) := of_row _ rfl rfl rfl
theorem sar (w : CoreWords) : Statement (.sar w) := of_row _ rfl rfl rfl
theorem rotl (w : CoreWords) : Statement (.rotl w) := of_row _ rfl rfl rfl
theorem clz (w : CoreWords) : Statement (.clz w) := of_row _ rfl rfl rfl
theorem popc (w : CoreWords) : Statement (.popc w) := of_row _ rfl rfl rfl
theorem brev (w : CoreWords) : Statement (.brev w) := of_row _ rfl rfl rfl
theorem bfx (w : CoreWords) : Statement (.bfx w) := of_row _ rfl rfl rfl
theorem bfi (w : CoreWords) : Statement (.bfi w) := of_row _ rfl rfl rfl
theorem sel (w : CoreWords) : Statement (.sel w) := of_row _ rfl rfl rfl
theorem cmpEq (w : CoreWords) : Statement (.cmpEq w) := of_row _ rfl rfl rfl
theorem cmpNe (w : CoreWords) : Statement (.cmpNe w) := of_row _ rfl rfl rfl
theorem cmpLt (w : CoreWords) : Statement (.cmpLt w) := of_row _ rfl rfl rfl
theorem cmpLe (w : CoreWords) : Statement (.cmpLe w) := of_row _ rfl rfl rfl
theorem lea (w : CoreWords) : Statement (.lea w) := of_row _ rfl rfl rfl
theorem add64 (w : CoreWords) : Statement (.add64 w) := of_row _ rfl rfl rfl
theorem mov (w : CoreWords) : Statement (.mov w) := of_row _ rfl rfl rfl
theorem movl (w : CoreWords) : Statement (.movl w) := of_row _ rfl rfl rfl
theorem uni (w : CoreWords) : Statement (.uni w) := of_row _ rfl rfl rfl
theorem uniChk (w : CoreWords) : Statement (.uniChk w) := of_row _ rfl rfl rfl
theorem addH (w : CoreWords) : Statement (.addH w) := of_row _ rfl rfl rfl
theorem subH (w : CoreWords) : Statement (.subH w) := of_row _ rfl rfl rfl
theorem mulH (w : CoreWords) : Statement (.mulH w) := of_row _ rfl rfl rfl
theorem mulhiH (w : CoreWords) : Statement (.mulhiH w) := of_row _ rfl rfl rfl
theorem madH (w : CoreWords) : Statement (.madH w) := of_row _ rfl rfl rfl
theorem minH (w : CoreWords) : Statement (.minH w) := of_row _ rfl rfl rfl
theorem maxH (w : CoreWords) : Statement (.maxH w) := of_row _ rfl rfl rfl
theorem andH (w : CoreWords) : Statement (.andH w) := of_row _ rfl rfl rfl
theorem orH (w : CoreWords) : Statement (.orH w) := of_row _ rfl rfl rfl
theorem xorH (w : CoreWords) : Statement (.xorH w) := of_row _ rfl rfl rfl
theorem andnH (w : CoreWords) : Statement (.andnH w) := of_row _ rfl rfl rfl
theorem shlH (w : CoreWords) : Statement (.shlH w) := of_row _ rfl rfl rfl
theorem shrH (w : CoreWords) : Statement (.shrH w) := of_row _ rfl rfl rfl
theorem sarH (w : CoreWords) : Statement (.sarH w) := of_row _ rfl rfl rfl
theorem rotlH (w : CoreWords) : Statement (.rotlH w) := of_row _ rfl rfl rfl
theorem clzH (w : CoreWords) : Statement (.clzH w) := of_row _ rfl rfl rfl
theorem popcH (w : CoreWords) : Statement (.popcH w) := of_row _ rfl rfl rfl
theorem brevH (w : CoreWords) : Statement (.brevH w) := of_row _ rfl rfl rfl
theorem bfxH (w : CoreWords) : Statement (.bfxH w) := of_row _ rfl rfl rfl
theorem bfiH (w : CoreWords) : Statement (.bfiH w) := of_row _ rfl rfl rfl
theorem selH (w : CoreWords) : Statement (.selH w) := of_row _ rfl rfl rfl
theorem cmpEqH (w : CoreWords) : Statement (.cmpEqH w) := of_row _ rfl rfl rfl
theorem cmpNeH (w : CoreWords) : Statement (.cmpNeH w) := of_row _ rfl rfl rfl
theorem cmpLtH (w : CoreWords) : Statement (.cmpLtH w) := of_row _ rfl rfl rfl
theorem cmpLeH (w : CoreWords) : Statement (.cmpLeH w) := of_row _ rfl rfl rfl
theorem movH (w : CoreWords) : Statement (.movH w) := of_row _ rfl rfl rfl
theorem bra (w : CoreWords) : Statement (.bra w) := of_row _ rfl rfl rfl
theorem brx (w : CoreWords) : Statement (.brx w) := of_row _ rfl rfl rfl
theorem call (w : CoreWords) : Statement (.call w) := of_row _ rfl rfl rfl
theorem calli (w : CoreWords) : Statement (.calli w) := of_row _ rfl rfl rfl
theorem ret (w : CoreWords) : Statement (.ret w) := of_row _ rfl rfl rfl
theorem exit (w : CoreWords) : Statement (.exit w) := of_row _ rfl rfl rfl
theorem yield (w : CoreWords) : Statement (.yield w) := of_row _ rfl rfl rfl
theorem yieldw (w : CoreWords) : Statement (.yieldw w) := of_row _ rfl rfl rfl
theorem elect (w : CoreWords) : Statement (.elect w) := of_row _ rfl rfl rfl
theorem qany (w : CoreWords) : Statement (.qany w) := of_row _ rfl rfl rfl
theorem qall (w : CoreWords) : Statement (.qall w) := of_row _ rfl rfl rfl
theorem qmask (w : CoreWords) : Statement (.qmask w) := of_row _ rfl rfl rfl
theorem lxSel (w : CoreWords) : Statement (.lxSel w) := of_row _ rfl rfl rfl
theorem lxRot (w : CoreWords) : Statement (.lxRot w) := of_row _ rfl rfl rfl
theorem lxRev (w : CoreWords) : Statement (.lxRev w) := of_row _ rfl rfl rfl
theorem lxDup (w : CoreWords) : Statement (.lxDup w) := of_row _ rfl rfl rfl
theorem qand (w : CoreWords) : Statement (.qand w) := of_row _ rfl rfl rfl
theorem qor (w : CoreWords) : Statement (.qor w) := of_row _ rfl rfl rfl
theorem qxor (w : CoreWords) : Statement (.qxor w) := of_row _ rfl rfl rfl
theorem qnot (w : CoreWords) : Statement (.qnot w) := of_row _ rfl rfl rfl
theorem nop (w : CoreWords) : Statement (.nop w) := of_row _ rfl rfl rfl
theorem loop (w : CoreWords) : Statement (.loop w) := of_row _ rfl rfl rfl
theorem lbrk (w : CoreWords) : Statement (.lbrk w) := of_row _ rfl rfl rfl
theorem lnext (w : CoreWords) : Statement (.lnext w) := of_row _ rfl rfl rfl
theorem lend (w : CoreWords) : Statement (.lend w) := of_row _ rfl rfl rfl
theorem ld (w : CoreWords) : Statement (.ld w) := of_row _ rfl rfl rfl
theorem st (w : CoreWords) : Statement (.st w) := of_row _ rfl rfl rfl
theorem lds (w : CoreWords) : Statement (.lds w) := of_row _ rfl rfl rfl
theorem sts (w : CoreWords) : Statement (.sts w) := of_row _ rfl rfl rfl
theorem ldh (w : CoreWords) : Statement (.ldh w) := of_row _ rfl rfl rfl
theorem pref (w : CoreWords) : Statement (.pref w) := of_row _ rfl rfl rfl
theorem fence (w : CoreWords) : Statement (.fence w) := of_row _ rfl rfl rfl
theorem bind (w : CoreWords) : Statement (.bind w) := of_row _ rfl rfl rfl
theorem ldInv (w : CoreWords) : Statement (.ldInv w) := of_row _ rfl rfl rfl
theorem ldH (w : CoreWords) : Statement (.ldH w) := of_row _ rfl rfl rfl
theorem stH (w : CoreWords) : Statement (.stH w) := of_row _ rfl rfl rfl
theorem ldsH (w : CoreWords) : Statement (.ldsH w) := of_row _ rfl rfl rfl
theorem stsH (w : CoreWords) : Statement (.stsH w) := of_row _ rfl rfl rfl
theorem prefH (w : CoreWords) : Statement (.prefH w) := of_row _ rfl rfl rfl
theorem ldInvH (w : CoreWords) : Statement (.ldInvH w) := of_row _ rfl rfl rfl
theorem annFadd (w : CoreWords) : Statement (.annFadd w) := of_row _ rfl rfl rfl
theorem annFmin (w : CoreWords) : Statement (.annFmin w) := of_row _ rfl rfl rfl
theorem annFmax (w : CoreWords) : Statement (.annFmax w) := of_row _ rfl rfl rfl
theorem annAnd (w : CoreWords) : Statement (.annAnd w) := of_row _ rfl rfl rfl
theorem annOr (w : CoreWords) : Statement (.annOr w) := of_row _ rfl rfl rfl
theorem annXor (w : CoreWords) : Statement (.annXor w) := of_row _ rfl rfl rfl
theorem annSwap (w : CoreWords) : Statement (.annSwap w) := of_row _ rfl rfl rfl
theorem annCas (w : CoreWords) : Statement (.annCas w) := of_row _ rfl rfl rfl
theorem annMcas (w : CoreWords) : Statement (.annMcas w) := of_row _ rfl rfl rfl
theorem annBkt (w : CoreWords) : Statement (.annBkt w) := of_row _ rfl rfl rfl
theorem help (w : CoreWords) : Statement (.help w) := of_row _ rfl rfl rfl
theorem coll (w : CoreWords) : Statement (.coll w) := of_row _ rfl rfl rfl
theorem acq (w : CoreWords) : Statement (.acq w) := of_row _ rfl rfl rfl
theorem rel (w : CoreWords) : Statement (.rel w) := of_row _ rfl rfl rfl
theorem barArv (w : CoreWords) : Statement (.barArv w) := of_row _ rfl rfl rfl
theorem barTst (w : CoreWords) : Statement (.barTst w) := of_row _ rfl rfl rfl
theorem bbarPost (w : CoreWords) : Statement (.bbarPost w) := of_row _ rfl rfl rfl
theorem bbarTst (w : CoreWords) : Statement (.bbarTst w) := of_row _ rfl rfl rfl
theorem fadd (w : CoreWords) : Statement (.fadd w) := of_row _ rfl rfl rfl
theorem fsub (w : CoreWords) : Statement (.fsub w) := of_row _ rfl rfl rfl
theorem fmul (w : CoreWords) : Statement (.fmul w) := of_row _ rfl rfl rfl
theorem fma (w : CoreWords) : Statement (.fma w) := of_row _ rfl rfl rfl
theorem fmin (w : CoreWords) : Statement (.fmin w) := of_row _ rfl rfl rfl
theorem fmax (w : CoreWords) : Statement (.fmax w) := of_row _ rfl rfl rfl
theorem rcp (w : CoreWords) : Statement (.rcp w) := of_row _ rfl rfl rfl
theorem rsq (w : CoreWords) : Statement (.rsq w) := of_row _ rfl rfl rfl
theorem ex2 (w : CoreWords) : Statement (.ex2 w) := of_row _ rfl rfl rfl
theorem lg2 (w : CoreWords) : Statement (.lg2 w) := of_row _ rfl rfl rfl
theorem tanh (w : CoreWords) : Statement (.tanh w) := of_row _ rfl rfl rfl
theorem cvt (w : CoreWords) : Statement (.cvt w) := of_row _ rfl rfl rfl
theorem pkscl (w : CoreWords) : Statement (.pkscl w) := of_row _ rfl rfl rfl
theorem unpk (w : CoreWords) : Statement (.unpk w) := of_row _ rfl rfl rfl
theorem dot8 (w : CoreWords) : Statement (.dot8 w) := of_row _ rfl rfl rfl
theorem hredAdd (w : CoreWords) : Statement (.hredAdd w) := of_row _ rfl rfl rfl
theorem hredMin (w : CoreWords) : Statement (.hredMin w) := of_row _ rfl rfl rfl
theorem hredMax (w : CoreWords) : Statement (.hredMax w) := of_row _ rfl rfl rfl
theorem fcmpEq (w : CoreWords) : Statement (.fcmpEq w) := of_row _ rfl rfl rfl
theorem fcmpNe (w : CoreWords) : Statement (.fcmpNe w) := of_row _ rfl rfl rfl
theorem fcmpLt (w : CoreWords) : Statement (.fcmpLt w) := of_row _ rfl rfl rfl
theorem fcmpLe (w : CoreWords) : Statement (.fcmpLe w) := of_row _ rfl rfl rfl
theorem fcmpUn (w : CoreWords) : Statement (.fcmpUn w) := of_row _ rfl rfl rfl
theorem ftag (w : CoreWords) : Statement (.ftag w) := of_row _ rfl rfl rfl
theorem stag (w : CoreWords) : Statement (.stag w) := of_row _ rfl rfl rfl
theorem faddH (w : CoreWords) : Statement (.faddH w) := of_row _ rfl rfl rfl
theorem fsubH (w : CoreWords) : Statement (.fsubH w) := of_row _ rfl rfl rfl
theorem fmulH (w : CoreWords) : Statement (.fmulH w) := of_row _ rfl rfl rfl
theorem fmaH (w : CoreWords) : Statement (.fmaH w) := of_row _ rfl rfl rfl
theorem fminH (w : CoreWords) : Statement (.fminH w) := of_row _ rfl rfl rfl
theorem fmaxH (w : CoreWords) : Statement (.fmaxH w) := of_row _ rfl rfl rfl
theorem fcmpEqH (w : CoreWords) : Statement (.fcmpEqH w) := of_row _ rfl rfl rfl
theorem fcmpNeH (w : CoreWords) : Statement (.fcmpNeH w) := of_row _ rfl rfl rfl
theorem fcmpLtH (w : CoreWords) : Statement (.fcmpLtH w) := of_row _ rfl rfl rfl
theorem fcmpLeH (w : CoreWords) : Statement (.fcmpLeH w) := of_row _ rfl rfl rfl
theorem tld (w : CoreWords) : Statement (.tld w) := of_row _ rfl rfl rfl
theorem tst (w : CoreWords) : Statement (.tst w) := of_row _ rfl rfl rfl
theorem tcfg (w : CoreWords) : Statement (.tcfg w) := of_row _ rfl rfl rfl
theorem mma (w : CoreWords) : Statement (.mma w) := of_row _ rfl rfl rfl
theorem mmaWin (w : CoreWords) : Statement (.mmaWin w) := of_row _ rfl rfl rfl
theorem gmma (w : CoreWords) : Statement (.gmma w) := of_row _ rfl rfl rfl
theorem acz (w : CoreWords) : Statement (.acz w) := of_row _ rfl rfl rfl
theorem acld (w : CoreWords) : Statement (.acld w) := of_row _ rfl rfl rfl
theorem acst (w : CoreWords) : Statement (.acst w) := of_row _ rfl rfl rfl
theorem acdrain (w : CoreWords) : Statement (.acdrain w) := of_row _ rfl rfl rfl
theorem epi (w : CoreWords) : Statement (.epi w) := of_row _ rfl rfl rfl
theorem cpy (w : CoreWords) : Statement (.cpy w) := of_row _ rfl rfl rfl
theorem wbind (w : CoreWords) : Statement (.wbind w) := of_row _ rfl rfl rfl
theorem winq (w : CoreWords) : Statement (.winq w) := of_row _ rfl rfl rfl
theorem cbtakeFull (w : CoreWords) : Statement (.cbtakeFull w) := of_row _ rfl rfl rfl
theorem cbtakeFree (w : CoreWords) : Statement (.cbtakeFree w) := of_row _ rfl rfl rfl
theorem cbgiveFull (w : CoreWords) : Statement (.cbgiveFull w) := of_row _ rfl rfl rfl
theorem cbgiveFree (w : CoreWords) : Statement (.cbgiveFree w) := of_row _ rfl rfl rfl
theorem qput (w : CoreWords) : Statement (.qput w) := of_row _ rfl rfl rfl
theorem qget (w : CoreWords) : Statement (.qget w) := of_row _ rfl rfl rfl
theorem bkt (w : CoreWords) : Statement (.bkt w) := of_row _ rfl rfl rfl
theorem xcntRd (w : CoreWords) : Statement (.xcntRd w) := of_row _ rfl rfl rfl
theorem xcntClr (w : CoreWords) : Statement (.xcntClr w) := of_row _ rfl rfl rfl
theorem rng (w : CoreWords) : Statement (.rng w) := of_row _ rfl rfl rfl
theorem spawn (w : CoreWords) : Statement (.spawn w) := of_row _ rfl rfl rfl
theorem cond (w : CoreWords) : Statement (.cond w) := of_row _ rfl rfl rfl
theorem spawncT (w : CoreWords) : Statement (.spawncT w) := of_row _ rfl rfl rfl
theorem spawncF (w : CoreWords) : Statement (.spawncF w) := of_row _ rfl rfl rfl
theorem spawncTPred (w : CoreWords) : Statement (.spawncTPred w) := of_row _ rfl rfl rfl
theorem spawncFPred (w : CoreWords) : Statement (.spawncFPred w) := of_row _ rfl rfl rfl
theorem resolve (w : CoreWords) : Statement (.resolve w) := of_row _ rfl rfl rfl
theorem lkset (w : CoreWords) : Statement (.lkset w) := of_row _ rfl rfl rfl
theorem lkget (w : CoreWords) : Statement (.lkget w) := of_row _ rfl rfl rfl
theorem segq (w : CoreWords) : Statement (.segq w) := of_row _ rfl rfl rfl
theorem trap (w : CoreWords) : Statement (.trap w) := of_row _ rfl rfl rfl
theorem tret (w : CoreWords) : Statement (.tret w) := of_row _ rfl rfl rfl
theorem srd (w : CoreWords) : Statement (.srd w) := of_row _ rfl rfl rfl
theorem swr (w : CoreWords) : Statement (.swr w) := of_row _ rfl rfl rfl
theorem uintr (w : CoreWords) : Statement (.uintr w) := of_row _ rfl rfl rfl
theorem brk (w : CoreWords) : Statement (.brk w) := of_row _ rfl rfl rfl
theorem sig (w : CoreWords) : Statement (.sig w) := of_row _ rfl rfl rfl
theorem drop (w : CoreWords) : Statement (.drop w) := of_row _ rfl rfl rfl
theorem encodingNotInstruction (code : BitVec 8) (word0 : Word) : Statement (.encodingNotInstruction code word0) := of_none rfl
theorem coldStart : Statement (.coldStart) := of_none rfl
theorem warmReset : Statement (.warmReset) := of_none rfl
theorem flrVf : Statement (.flrVf) := of_none rfl
theorem flrPf : Statement (.flrPf) := of_none rfl
theorem partitionReset : Statement (.partitionReset) := of_none rfl
theorem dutyWindow : Statement (.dutyWindow) := of_none rfl
theorem thermalThrottle : Statement (.thermalThrottle) := of_none rfl
theorem thermalTrip : Statement (.thermalTrip) := of_none rfl
theorem eolUpdate : Statement (.eolUpdate) := of_none rfl
theorem hostLinkTrain : Statement (.hostLinkTrain) := of_none rfl
theorem portRetrain : Statement (.portRetrain) := of_none rfl
theorem flitChkMismatch : Statement (.flitChkMismatch) := of_none rfl
theorem flitUnlistedKind : Statement (.flitUnlistedKind) := of_none rfl
theorem ackTimer : Statement (.ackTimer) := of_none rfl
theorem requestTimeout : Statement (.requestTimeout) := of_none rfl
theorem queueCreate : Statement (.queueCreate) := of_none rfl
theorem doorbell : Statement (.doorbell) := of_none rfl
theorem queueResume : Statement (.queueResume) := of_none rfl
theorem slotGrant : Statement (.slotGrant) := of_none rfl
theorem waitRereadExpiry : Statement (.waitRereadExpiry) := of_none rfl
theorem completionWaitExpiry : Statement (.completionWaitExpiry) := of_none rfl
theorem launchComplete : Statement (.launchComplete) := of_none rfl
theorem hostWaitRegister : Statement (.hostWaitRegister) := of_none rfl
theorem hostWaitWithdraw : Statement (.hostWaitWithdraw) := of_none rfl
theorem atomicopCompletion : Statement (.atomicopCompletion) := of_none rfl
theorem atomicopTimeout : Statement (.atomicopTimeout) := of_none rfl
theorem hostLoss : Statement (.hostLoss) := of_none rfl
theorem hostMemoryWrite : Statement (.hostMemoryWrite) := of_none rfl
theorem ckptCopyComplete : Statement (.ckptCopyComplete) := of_none rfl
theorem ckptRestoreComplete : Statement (.ckptRestoreComplete) := of_none rfl
theorem tbaseWrite : Statement (.tbaseWrite) := of_none rfl
theorem tlbInvalidate : Statement (.tlbInvalidate) := of_none rfl
theorem invalidateComplete : Statement (.invalidateComplete) := of_none rfl
theorem partitionCommit : Statement (.partitionCommit) := of_none rfl
theorem bindingWrite : Statement (.bindingWrite) := of_none rfl
theorem errorBankClear : Statement (.errorBankClear) := of_none rfl
theorem registerWrite : Statement (.registerWrite) := of_none rfl
theorem debugHalt : Statement (.debugHalt) := of_none rfl
theorem debugRead : Statement (.debugRead) := of_none rfl
theorem debugWrite : Statement (.debugWrite) := of_none rfl
theorem debugResume : Statement (.debugResume) := of_none rfl
theorem debugStep : Statement (.debugStep) := of_none rfl
theorem finalise : Statement (.finalise) := of_none rfl
theorem hostLossStatus : Statement (.hostLossStatus) := of_none rfl
theorem hostLossReplay : Statement (.hostLossReplay) := of_none rfl
theorem hostLossDrop : Statement (.hostLossDrop) := of_none rfl
theorem spdmSession : Statement (.spdmSession) := of_none rfl
theorem quiescePartitions : Statement (.quiescePartitions) := of_none rfl
theorem getMeasurements : Statement (.getMeasurements) := of_none rfl
theorem imageUpdate : Statement (.imageUpdate) := of_none rfl
theorem glitchDetect : Statement (.glitchDetect) := of_none rfl
theorem tamperBreak : Statement (.tamperBreak) := of_none rfl
theorem debugUnlock : Statement (.debugUnlock) := of_none rfl
theorem placement : Statement (.placement) := of_none rfl
theorem slotArbitration : Statement (.slotArbitration) := of_none rfl
theorem resultReturn : Statement (.resultReturn) := of_none rfl
theorem spillComplete : Statement (.spillComplete) := of_none rfl
theorem refillComplete : Statement (.refillComplete) := of_none rfl
theorem owlExpiry : Statement (.owlExpiry) := of_none rfl
theorem spawnEntryArrival : Statement (.spawnEntryArrival) := of_none rfl
theorem deal : Statement (.deal) := of_none rfl
theorem resolutionApply : Statement (.resolutionApply) := of_none rfl
theorem commitDrain : Statement (.commitDrain) := of_none rfl
theorem backEdge : Statement (.backEdge) := of_none rfl
theorem laneRetire : Statement (.laneRetire) := of_none rfl
theorem laneRebuild : Statement (.laneRebuild) := of_none rfl
theorem pageService : Statement (.pageService) := of_none rfl
theorem storeDrain : Statement (.storeDrain) := of_none rfl
theorem relApply : Statement (.relApply) := of_none rfl
theorem acqApply : Statement (.acqApply) := of_none rfl
theorem bindRegister : Statement (.bindRegister) := of_none rfl
theorem announceStep : Statement (.announceStep) := of_none rfl
theorem barArrival : Statement (.barArrival) := of_none rfl
theorem recordCancel : Statement (.recordCancel) := of_none rfl
theorem copyComplete : Statement (.copyComplete) := of_none rfl
theorem windowFillEnd : Statement (.windowFillEnd) := of_none rfl
theorem jobComplete : Statement (.jobComplete) := of_none rfl
theorem gmmaSliceDone : Statement (.gmmaSliceDone) := of_none rfl
theorem acdrainAdd : Statement (.acdrainAdd) := of_none rfl
theorem trapEntry : Statement (.trapEntry) := of_none rfl
theorem lossOfModulePower : Statement (.lossOfModulePower) := of_none rfl
theorem hostCompletionTimeOut : Statement (.hostCompletionTimeOut) := of_none rfl

end Sys2Proof.Laws.Encoding
end

