-- ==== Sys2Proof/Laws/State.lean ====
section
/-!
SUPPORT. One lemma per field per update of the state: what each update leaves as it was, and how a lookup sees it.
-/
namespace Sys2Proof.Machine

variable (s : State)

/-! ### updHand -/

@[simp] theorem State.updHand_agenda (k : Nat) (f : Hand → Hand) : (s.updHand k f).agenda = s.agenda := rfl
@[simp] theorem State.updHand_tick (k : Nat) (f : Hand → Hand) : (s.updHand k f).tick = s.tick := rfl
@[simp] theorem State.updHand_args (k : Nat) (f : Hand → Hand) : (s.updHand k f).args = s.args := rfl
@[simp] theorem State.updHand_cur (k : Nat) (f : Hand → Hand) : (s.updHand k f).cur = s.cur := rfl
@[simp] theorem State.updHand_mem (k : Nat) (f : Hand → Hand) : (s.updHand k f).mem = s.mem := rfl
@[simp] theorem State.updHand_orders (k : Nat) (f : Hand → Hand) : (s.updHand k f).orders = s.orders := rfl
@[simp] theorem State.updHand_invBroken (k : Nat) (f : Hand → Hand) : (s.updHand k f).invBroken = s.invBroken := rfl
@[simp] theorem State.updHand_pubs (k : Nat) (f : Hand → Hand) : (s.updHand k f).pubs = s.pubs := rfl
@[simp] theorem State.updHand_binds (k : Nat) (f : Hand → Hand) : (s.updHand k f).binds = s.binds := rfl
@[simp] theorem State.updHand_recs (k : Nat) (f : Hand → Hand) : (s.updHand k f).recs = s.recs := rfl
@[simp] theorem State.updHand_lists (k : Nat) (f : Hand → Hand) : (s.updHand k f).lists = s.lists := rfl
@[simp] theorem State.updHand_nextHand (k : Nat) (f : Hand → Hand) : (s.updHand k f).nextHand = s.nextHand := rfl
@[simp] theorem State.updHand_cores (k : Nat) (f : Hand → Hand) : (s.updHand k f).cores = s.cores := rfl
@[simp] theorem State.updHand_clusters (k : Nat) (f : Hand → Hand) : (s.updHand k f).clusters = s.clusters := rfl
@[simp] theorem State.updHand_copies (k : Nat) (f : Hand → Hand) : (s.updHand k f).copies = s.copies := rfl
@[simp] theorem State.updHand_nextCopy (k : Nat) (f : Hand → Hand) : (s.updHand k f).nextCopy = s.nextCopy := rfl
@[simp] theorem State.updHand_lineFails (k : Nat) (f : Hand → Hand) : (s.updHand k f).lineFails = s.lineFails := rfl
@[simp] theorem State.updHand_slotViews (k : Nat) (f : Hand → Hand) : (s.updHand k f).slotViews = s.slotViews := rfl
@[simp] theorem State.updHand_jobs (k : Nat) (f : Hand → Hand) : (s.updHand k f).jobs = s.jobs := rfl
@[simp] theorem State.updHand_bbarViews (k : Nat) (f : Hand → Hand) : (s.updHand k f).bbarViews = s.bbarViews := rfl
@[simp] theorem State.updHand_dies (k : Nat) (f : Hand → Hand) : (s.updHand k f).dies = s.dies := rfl
@[simp] theorem State.updHand_launches (k : Nat) (f : Hand → Hand) : (s.updHand k f).launches = s.launches := rfl
@[simp] theorem State.updHand_nextLid (k : Nat) (f : Hand → Hand) : (s.updHand k f).nextLid = s.nextLid := rfl
@[simp] theorem State.updHand_ranges (k : Nat) (f : Hand → Hand) : (s.updHand k f).ranges = s.ranges := rfl
@[simp] theorem State.updHand_nextRange (k : Nat) (f : Hand → Hand) : (s.updHand k f).nextRange = s.nextRange := rfl
@[simp] theorem State.updHand_resolutions (k : Nat) (f : Hand → Hand) : (s.updHand k f).resolutions = s.resolutions := rfl
@[simp] theorem State.updHand_retained (k : Nat) (f : Hand → Hand) : (s.updHand k f).retained = s.retained := rfl
@[simp] theorem State.updHand_lastRegs (k : Nat) (f : Hand → Hand) : (s.updHand k f).lastRegs = s.lastRegs := rfl
@[simp] theorem State.updHand_frontReads (k : Nat) (f : Hand → Hand) : (s.updHand k f).frontReads = s.frontReads := rfl
@[simp] theorem State.updHand_queues (k : Nat) (f : Hand → Hand) : (s.updHand k f).queues = s.queues := rfl
@[simp] theorem State.updHand_graphs (k : Nat) (f : Hand → Hand) : (s.updHand k f).graphs = s.graphs := rfl
@[simp] theorem State.updHand_nextGraph (k : Nat) (f : Hand → Hand) : (s.updHand k f).nextGraph = s.nextGraph := rfl
@[simp] theorem State.updHand_heldAdds (k : Nat) (f : Hand → Hand) : (s.updHand k f).heldAdds = s.heldAdds := rfl
@[simp] theorem State.updHand_cps (k : Nat) (f : Hand → Hand) : (s.updHand k f).cps = s.cps := rfl
@[simp] theorem State.updHand_wake (k : Nat) (f : Hand → Hand) : (s.updHand k f).wake = s.wake := rfl
@[simp] theorem State.updHand_tlb (k : Nat) (f : Hand → Hand) : (s.updHand k f).tlb = s.tlb := rfl
@[simp] theorem State.updHand_pageReqs (k : Nat) (f : Hand → Hand) : (s.updHand k f).pageReqs = s.pageReqs := rfl
@[simp] theorem State.updHand_refusals (k : Nat) (f : Hand → Hand) : (s.updHand k f).refusals = s.refusals := rfl
@[simp] theorem State.updHand_peerWin (k : Nat) (f : Hand → Hand) : (s.updHand k f).peerWin = s.peerWin := rfl
@[simp] theorem State.updHand_cellWaits (k : Nat) (f : Hand → Hand) : (s.updHand k f).cellWaits = s.cellWaits := rfl
@[simp] theorem State.updHand_peerCancels (k : Nat) (f : Hand → Hand) : (s.updHand k f).peerCancels = s.peerCancels := rfl
@[simp] theorem State.updHand_parts (k : Nat) (f : Hand → Hand) : (s.updHand k f).parts = s.parts := rfl
@[simp] theorem State.updHand_funcs (k : Nat) (f : Hand → Hand) : (s.updHand k f).funcs = s.funcs := rfl
@[simp] theorem State.updHand_trans (k : Nat) (f : Hand → Hand) : (s.updHand k f).trans = s.trans := rfl
@[simp] theorem State.updHand_debugBox (k : Nat) (f : Hand → Hand) : (s.updHand k f).debugBox = s.debugBox := rfl
@[simp] theorem State.updHand_lossBox (k : Nat) (f : Hand → Hand) : (s.updHand k f).lossBox = s.lossBox := rfl
@[simp] theorem State.updHand_devNum (k : Nat) (f : Hand → Hand) : (s.updHand k f).devNum = s.devNum := rfl
@[simp] theorem State.updHand_ports (k : Nat) (f : Hand → Hand) : (s.updHand k f).ports = s.ports := rfl
@[simp] theorem State.updHand_reqs (k : Nat) (f : Hand → Hand) : (s.updHand k f).reqs = s.reqs := rfl
@[simp] theorem State.updHand_nextTag (k : Nat) (f : Hand → Hand) : (s.updHand k f).nextTag = s.nextTag := rfl
@[simp] theorem State.updHand_hostLink (k : Nat) (f : Hand → Hand) : (s.updHand k f).hostLink = s.hostLink := rfl
@[simp] theorem State.updHand_atomics (k : Nat) (f : Hand → Hand) : (s.updHand k f).atomics = s.atomics := rfl
@[simp] theorem State.updHand_cluBanks (k : Nat) (f : Hand → Hand) : (s.updHand k f).cluBanks = s.cluBanks := rfl
@[simp] theorem State.updHand_sliceBanks (k : Nat) (f : Hand → Hand) : (s.updHand k f).sliceBanks = s.sliceBanks := rfl
@[simp] theorem State.updHand_mgmt (k : Nat) (f : Hand → Hand) : (s.updHand k f).mgmt = s.mgmt := rfl
@[simp] theorem State.updHand_ckpt (k : Nat) (f : Hand → Hand) : (s.updHand k f).ckpt = s.ckpt := rfl
@[simp] theorem State.updHand_vaultUp (k : Nat) (f : Hand → Hand) : (s.updHand k f).vaultUp = s.vaultUp := rfl
@[simp] theorem State.updHand_vault (k : Nat) (f : Hand → Hand) : (s.updHand k f).vault = s.vault := rfl
@[simp] theorem State.updHand_snapshots (k : Nat) (f : Hand → Hand) : (s.updHand k f).snapshots = s.snapshots := rfl
@[simp] theorem State.updHand_heldItems (k : Nat) (f : Hand → Hand) : (s.updHand k f).heldItems = s.heldItems := rfl
@[simp] theorem State.updHand_tableBinds (k : Nat) (f : Hand → Hand) : (s.updHand k f).tableBinds = s.tableBinds := rfl
@[simp] theorem State.updHand_entryReads (k : Nat) (f : Hand → Hand) : (s.updHand k f).entryReads = s.entryReads := rfl
@[simp] theorem State.updHand_routes (k : Nat) (f : Hand → Hand) : (s.updHand k f).routes = s.routes := rfl
@[simp] theorem State.updHand_hostView (k : Nat) (f : Hand → Hand) : (s.updHand k f).hostView = s.hostView := rfl
@[simp] theorem State.updHand_peerViews (k : Nat) (f : Hand → Hand) : (s.updHand k f).peerViews = s.peerViews := rfl
@[simp] theorem State.updHand_barReply (k : Nat) (f : Hand → Hand) : (s.updHand k f).barReply = s.barReply := rfl
@[simp] theorem State.updHand_sensors (k : Nat) (f : Hand → Hand) : (s.updHand k f).sensors = s.sensors := rfl
@[simp] theorem State.updHand_pendResets (k : Nat) (f : Hand → Hand) : (s.updHand k f).pendResets = s.pendResets := rfl

/-! ### setHand -/

@[simp] theorem State.setHand_agenda (h : Hand) : (s.setHand h).agenda = s.agenda := rfl
@[simp] theorem State.setHand_tick (h : Hand) : (s.setHand h).tick = s.tick := rfl
@[simp] theorem State.setHand_args (h : Hand) : (s.setHand h).args = s.args := rfl
@[simp] theorem State.setHand_cur (h : Hand) : (s.setHand h).cur = s.cur := rfl
@[simp] theorem State.setHand_mem (h : Hand) : (s.setHand h).mem = s.mem := rfl
@[simp] theorem State.setHand_orders (h : Hand) : (s.setHand h).orders = s.orders := rfl
@[simp] theorem State.setHand_invBroken (h : Hand) : (s.setHand h).invBroken = s.invBroken := rfl
@[simp] theorem State.setHand_pubs (h : Hand) : (s.setHand h).pubs = s.pubs := rfl
@[simp] theorem State.setHand_binds (h : Hand) : (s.setHand h).binds = s.binds := rfl
@[simp] theorem State.setHand_recs (h : Hand) : (s.setHand h).recs = s.recs := rfl
@[simp] theorem State.setHand_lists (h : Hand) : (s.setHand h).lists = s.lists := rfl
@[simp] theorem State.setHand_nextHand (h : Hand) : (s.setHand h).nextHand = s.nextHand := rfl
@[simp] theorem State.setHand_cores (h : Hand) : (s.setHand h).cores = s.cores := rfl
@[simp] theorem State.setHand_clusters (h : Hand) : (s.setHand h).clusters = s.clusters := rfl
@[simp] theorem State.setHand_copies (h : Hand) : (s.setHand h).copies = s.copies := rfl
@[simp] theorem State.setHand_nextCopy (h : Hand) : (s.setHand h).nextCopy = s.nextCopy := rfl
@[simp] theorem State.setHand_lineFails (h : Hand) : (s.setHand h).lineFails = s.lineFails := rfl
@[simp] theorem State.setHand_slotViews (h : Hand) : (s.setHand h).slotViews = s.slotViews := rfl
@[simp] theorem State.setHand_jobs (h : Hand) : (s.setHand h).jobs = s.jobs := rfl
@[simp] theorem State.setHand_bbarViews (h : Hand) : (s.setHand h).bbarViews = s.bbarViews := rfl
@[simp] theorem State.setHand_dies (h : Hand) : (s.setHand h).dies = s.dies := rfl
@[simp] theorem State.setHand_launches (h : Hand) : (s.setHand h).launches = s.launches := rfl
@[simp] theorem State.setHand_nextLid (h : Hand) : (s.setHand h).nextLid = s.nextLid := rfl
@[simp] theorem State.setHand_ranges (h : Hand) : (s.setHand h).ranges = s.ranges := rfl
@[simp] theorem State.setHand_nextRange (h : Hand) : (s.setHand h).nextRange = s.nextRange := rfl
@[simp] theorem State.setHand_resolutions (h : Hand) : (s.setHand h).resolutions = s.resolutions := rfl
@[simp] theorem State.setHand_retained (h : Hand) : (s.setHand h).retained = s.retained := rfl
@[simp] theorem State.setHand_lastRegs (h : Hand) : (s.setHand h).lastRegs = s.lastRegs := rfl
@[simp] theorem State.setHand_frontReads (h : Hand) : (s.setHand h).frontReads = s.frontReads := rfl
@[simp] theorem State.setHand_queues (h : Hand) : (s.setHand h).queues = s.queues := rfl
@[simp] theorem State.setHand_graphs (h : Hand) : (s.setHand h).graphs = s.graphs := rfl
@[simp] theorem State.setHand_nextGraph (h : Hand) : (s.setHand h).nextGraph = s.nextGraph := rfl
@[simp] theorem State.setHand_heldAdds (h : Hand) : (s.setHand h).heldAdds = s.heldAdds := rfl
@[simp] theorem State.setHand_cps (h : Hand) : (s.setHand h).cps = s.cps := rfl
@[simp] theorem State.setHand_wake (h : Hand) : (s.setHand h).wake = s.wake := rfl
@[simp] theorem State.setHand_tlb (h : Hand) : (s.setHand h).tlb = s.tlb := rfl
@[simp] theorem State.setHand_pageReqs (h : Hand) : (s.setHand h).pageReqs = s.pageReqs := rfl
@[simp] theorem State.setHand_refusals (h : Hand) : (s.setHand h).refusals = s.refusals := rfl
@[simp] theorem State.setHand_peerWin (h : Hand) : (s.setHand h).peerWin = s.peerWin := rfl
@[simp] theorem State.setHand_cellWaits (h : Hand) : (s.setHand h).cellWaits = s.cellWaits := rfl
@[simp] theorem State.setHand_peerCancels (h : Hand) : (s.setHand h).peerCancels = s.peerCancels := rfl
@[simp] theorem State.setHand_parts (h : Hand) : (s.setHand h).parts = s.parts := rfl
@[simp] theorem State.setHand_funcs (h : Hand) : (s.setHand h).funcs = s.funcs := rfl
@[simp] theorem State.setHand_trans (h : Hand) : (s.setHand h).trans = s.trans := rfl
@[simp] theorem State.setHand_debugBox (h : Hand) : (s.setHand h).debugBox = s.debugBox := rfl
@[simp] theorem State.setHand_lossBox (h : Hand) : (s.setHand h).lossBox = s.lossBox := rfl
@[simp] theorem State.setHand_devNum (h : Hand) : (s.setHand h).devNum = s.devNum := rfl
@[simp] theorem State.setHand_ports (h : Hand) : (s.setHand h).ports = s.ports := rfl
@[simp] theorem State.setHand_reqs (h : Hand) : (s.setHand h).reqs = s.reqs := rfl
@[simp] theorem State.setHand_nextTag (h : Hand) : (s.setHand h).nextTag = s.nextTag := rfl
@[simp] theorem State.setHand_hostLink (h : Hand) : (s.setHand h).hostLink = s.hostLink := rfl
@[simp] theorem State.setHand_atomics (h : Hand) : (s.setHand h).atomics = s.atomics := rfl
@[simp] theorem State.setHand_cluBanks (h : Hand) : (s.setHand h).cluBanks = s.cluBanks := rfl
@[simp] theorem State.setHand_sliceBanks (h : Hand) : (s.setHand h).sliceBanks = s.sliceBanks := rfl
@[simp] theorem State.setHand_mgmt (h : Hand) : (s.setHand h).mgmt = s.mgmt := rfl
@[simp] theorem State.setHand_ckpt (h : Hand) : (s.setHand h).ckpt = s.ckpt := rfl
@[simp] theorem State.setHand_vaultUp (h : Hand) : (s.setHand h).vaultUp = s.vaultUp := rfl
@[simp] theorem State.setHand_vault (h : Hand) : (s.setHand h).vault = s.vault := rfl
@[simp] theorem State.setHand_snapshots (h : Hand) : (s.setHand h).snapshots = s.snapshots := rfl
@[simp] theorem State.setHand_heldItems (h : Hand) : (s.setHand h).heldItems = s.heldItems := rfl
@[simp] theorem State.setHand_tableBinds (h : Hand) : (s.setHand h).tableBinds = s.tableBinds := rfl
@[simp] theorem State.setHand_entryReads (h : Hand) : (s.setHand h).entryReads = s.entryReads := rfl
@[simp] theorem State.setHand_routes (h : Hand) : (s.setHand h).routes = s.routes := rfl
@[simp] theorem State.setHand_hostView (h : Hand) : (s.setHand h).hostView = s.hostView := rfl
@[simp] theorem State.setHand_peerViews (h : Hand) : (s.setHand h).peerViews = s.peerViews := rfl
@[simp] theorem State.setHand_barReply (h : Hand) : (s.setHand h).barReply = s.barReply := rfl
@[simp] theorem State.setHand_sensors (h : Hand) : (s.setHand h).sensors = s.sensors := rfl
@[simp] theorem State.setHand_pendResets (h : Hand) : (s.setHand h).pendResets = s.pendResets := rfl

/-! ### updCore -/

@[simp] theorem State.updCore_agenda (c : Nat) (f : Core → Core) : (s.updCore c f).agenda = s.agenda := rfl
@[simp] theorem State.updCore_tick (c : Nat) (f : Core → Core) : (s.updCore c f).tick = s.tick := rfl
@[simp] theorem State.updCore_args (c : Nat) (f : Core → Core) : (s.updCore c f).args = s.args := rfl
@[simp] theorem State.updCore_cur (c : Nat) (f : Core → Core) : (s.updCore c f).cur = s.cur := rfl
@[simp] theorem State.updCore_mem (c : Nat) (f : Core → Core) : (s.updCore c f).mem = s.mem := rfl
@[simp] theorem State.updCore_orders (c : Nat) (f : Core → Core) : (s.updCore c f).orders = s.orders := rfl
@[simp] theorem State.updCore_invBroken (c : Nat) (f : Core → Core) : (s.updCore c f).invBroken = s.invBroken := rfl
@[simp] theorem State.updCore_pubs (c : Nat) (f : Core → Core) : (s.updCore c f).pubs = s.pubs := rfl
@[simp] theorem State.updCore_binds (c : Nat) (f : Core → Core) : (s.updCore c f).binds = s.binds := rfl
@[simp] theorem State.updCore_recs (c : Nat) (f : Core → Core) : (s.updCore c f).recs = s.recs := rfl
@[simp] theorem State.updCore_lists (c : Nat) (f : Core → Core) : (s.updCore c f).lists = s.lists := rfl
@[simp] theorem State.updCore_hands (c : Nat) (f : Core → Core) : (s.updCore c f).hands = s.hands := rfl
@[simp] theorem State.updCore_nextHand (c : Nat) (f : Core → Core) : (s.updCore c f).nextHand = s.nextHand := rfl
@[simp] theorem State.updCore_clusters (c : Nat) (f : Core → Core) : (s.updCore c f).clusters = s.clusters := rfl
@[simp] theorem State.updCore_copies (c : Nat) (f : Core → Core) : (s.updCore c f).copies = s.copies := rfl
@[simp] theorem State.updCore_nextCopy (c : Nat) (f : Core → Core) : (s.updCore c f).nextCopy = s.nextCopy := rfl
@[simp] theorem State.updCore_lineFails (c : Nat) (f : Core → Core) : (s.updCore c f).lineFails = s.lineFails := rfl
@[simp] theorem State.updCore_slotViews (c : Nat) (f : Core → Core) : (s.updCore c f).slotViews = s.slotViews := rfl
@[simp] theorem State.updCore_jobs (c : Nat) (f : Core → Core) : (s.updCore c f).jobs = s.jobs := rfl
@[simp] theorem State.updCore_bbarViews (c : Nat) (f : Core → Core) : (s.updCore c f).bbarViews = s.bbarViews := rfl
@[simp] theorem State.updCore_dies (c : Nat) (f : Core → Core) : (s.updCore c f).dies = s.dies := rfl
@[simp] theorem State.updCore_launches (c : Nat) (f : Core → Core) : (s.updCore c f).launches = s.launches := rfl
@[simp] theorem State.updCore_nextLid (c : Nat) (f : Core → Core) : (s.updCore c f).nextLid = s.nextLid := rfl
@[simp] theorem State.updCore_ranges (c : Nat) (f : Core → Core) : (s.updCore c f).ranges = s.ranges := rfl
@[simp] theorem State.updCore_nextRange (c : Nat) (f : Core → Core) : (s.updCore c f).nextRange = s.nextRange := rfl
@[simp] theorem State.updCore_resolutions (c : Nat) (f : Core → Core) : (s.updCore c f).resolutions = s.resolutions := rfl
@[simp] theorem State.updCore_retained (c : Nat) (f : Core → Core) : (s.updCore c f).retained = s.retained := rfl
@[simp] theorem State.updCore_lastRegs (c : Nat) (f : Core → Core) : (s.updCore c f).lastRegs = s.lastRegs := rfl
@[simp] theorem State.updCore_frontReads (c : Nat) (f : Core → Core) : (s.updCore c f).frontReads = s.frontReads := rfl
@[simp] theorem State.updCore_queues (c : Nat) (f : Core → Core) : (s.updCore c f).queues = s.queues := rfl
@[simp] theorem State.updCore_graphs (c : Nat) (f : Core → Core) : (s.updCore c f).graphs = s.graphs := rfl
@[simp] theorem State.updCore_nextGraph (c : Nat) (f : Core → Core) : (s.updCore c f).nextGraph = s.nextGraph := rfl
@[simp] theorem State.updCore_heldAdds (c : Nat) (f : Core → Core) : (s.updCore c f).heldAdds = s.heldAdds := rfl
@[simp] theorem State.updCore_cps (c : Nat) (f : Core → Core) : (s.updCore c f).cps = s.cps := rfl
@[simp] theorem State.updCore_wake (c : Nat) (f : Core → Core) : (s.updCore c f).wake = s.wake := rfl
@[simp] theorem State.updCore_tlb (c : Nat) (f : Core → Core) : (s.updCore c f).tlb = s.tlb := rfl
@[simp] theorem State.updCore_pageReqs (c : Nat) (f : Core → Core) : (s.updCore c f).pageReqs = s.pageReqs := rfl
@[simp] theorem State.updCore_refusals (c : Nat) (f : Core → Core) : (s.updCore c f).refusals = s.refusals := rfl
@[simp] theorem State.updCore_peerWin (c : Nat) (f : Core → Core) : (s.updCore c f).peerWin = s.peerWin := rfl
@[simp] theorem State.updCore_cellWaits (c : Nat) (f : Core → Core) : (s.updCore c f).cellWaits = s.cellWaits := rfl
@[simp] theorem State.updCore_peerCancels (c : Nat) (f : Core → Core) : (s.updCore c f).peerCancels = s.peerCancels := rfl
@[simp] theorem State.updCore_parts (c : Nat) (f : Core → Core) : (s.updCore c f).parts = s.parts := rfl
@[simp] theorem State.updCore_funcs (c : Nat) (f : Core → Core) : (s.updCore c f).funcs = s.funcs := rfl
@[simp] theorem State.updCore_trans (c : Nat) (f : Core → Core) : (s.updCore c f).trans = s.trans := rfl
@[simp] theorem State.updCore_debugBox (c : Nat) (f : Core → Core) : (s.updCore c f).debugBox = s.debugBox := rfl
@[simp] theorem State.updCore_lossBox (c : Nat) (f : Core → Core) : (s.updCore c f).lossBox = s.lossBox := rfl
@[simp] theorem State.updCore_devNum (c : Nat) (f : Core → Core) : (s.updCore c f).devNum = s.devNum := rfl
@[simp] theorem State.updCore_ports (c : Nat) (f : Core → Core) : (s.updCore c f).ports = s.ports := rfl
@[simp] theorem State.updCore_reqs (c : Nat) (f : Core → Core) : (s.updCore c f).reqs = s.reqs := rfl
@[simp] theorem State.updCore_nextTag (c : Nat) (f : Core → Core) : (s.updCore c f).nextTag = s.nextTag := rfl
@[simp] theorem State.updCore_hostLink (c : Nat) (f : Core → Core) : (s.updCore c f).hostLink = s.hostLink := rfl
@[simp] theorem State.updCore_atomics (c : Nat) (f : Core → Core) : (s.updCore c f).atomics = s.atomics := rfl
@[simp] theorem State.updCore_cluBanks (c : Nat) (f : Core → Core) : (s.updCore c f).cluBanks = s.cluBanks := rfl
@[simp] theorem State.updCore_sliceBanks (c : Nat) (f : Core → Core) : (s.updCore c f).sliceBanks = s.sliceBanks := rfl
@[simp] theorem State.updCore_mgmt (c : Nat) (f : Core → Core) : (s.updCore c f).mgmt = s.mgmt := rfl
@[simp] theorem State.updCore_ckpt (c : Nat) (f : Core → Core) : (s.updCore c f).ckpt = s.ckpt := rfl
@[simp] theorem State.updCore_vaultUp (c : Nat) (f : Core → Core) : (s.updCore c f).vaultUp = s.vaultUp := rfl
@[simp] theorem State.updCore_vault (c : Nat) (f : Core → Core) : (s.updCore c f).vault = s.vault := rfl
@[simp] theorem State.updCore_snapshots (c : Nat) (f : Core → Core) : (s.updCore c f).snapshots = s.snapshots := rfl
@[simp] theorem State.updCore_heldItems (c : Nat) (f : Core → Core) : (s.updCore c f).heldItems = s.heldItems := rfl
@[simp] theorem State.updCore_tableBinds (c : Nat) (f : Core → Core) : (s.updCore c f).tableBinds = s.tableBinds := rfl
@[simp] theorem State.updCore_entryReads (c : Nat) (f : Core → Core) : (s.updCore c f).entryReads = s.entryReads := rfl
@[simp] theorem State.updCore_routes (c : Nat) (f : Core → Core) : (s.updCore c f).routes = s.routes := rfl
@[simp] theorem State.updCore_hostView (c : Nat) (f : Core → Core) : (s.updCore c f).hostView = s.hostView := rfl
@[simp] theorem State.updCore_peerViews (c : Nat) (f : Core → Core) : (s.updCore c f).peerViews = s.peerViews := rfl
@[simp] theorem State.updCore_barReply (c : Nat) (f : Core → Core) : (s.updCore c f).barReply = s.barReply := rfl
@[simp] theorem State.updCore_sensors (c : Nat) (f : Core → Core) : (s.updCore c f).sensors = s.sensors := rfl
@[simp] theorem State.updCore_pendResets (c : Nat) (f : Core → Core) : (s.updCore c f).pendResets = s.pendResets := rfl

/-! ### updSlot -/

@[simp] theorem State.updSlot_agenda (c k : Nat) (f : Slot → Slot) : (s.updSlot c k f).agenda = s.agenda := rfl
@[simp] theorem State.updSlot_tick (c k : Nat) (f : Slot → Slot) : (s.updSlot c k f).tick = s.tick := rfl
@[simp] theorem State.updSlot_args (c k : Nat) (f : Slot → Slot) : (s.updSlot c k f).args = s.args := rfl
@[simp] theorem State.updSlot_cur (c k : Nat) (f : Slot → Slot) : (s.updSlot c k f).cur = s.cur := rfl
@[simp] theorem State.updSlot_mem (c k : Nat) (f : Slot → Slot) : (s.updSlot c k f).mem = s.mem := rfl
@[simp] theorem State.updSlot_orders (c k : Nat) (f : Slot → Slot) : (s.updSlot c k f).orders = s.orders := rfl
@[simp] theorem State.updSlot_invBroken (c k : Nat) (f : Slot → Slot) : (s.updSlot c k f).invBroken = s.invBroken := rfl
@[simp] theorem State.updSlot_pubs (c k : Nat) (f : Slot → Slot) : (s.updSlot c k f).pubs = s.pubs := rfl
@[simp] theorem State.updSlot_binds (c k : Nat) (f : Slot → Slot) : (s.updSlot c k f).binds = s.binds := rfl
@[simp] theorem State.updSlot_recs (c k : Nat) (f : Slot → Slot) : (s.updSlot c k f).recs = s.recs := rfl
@[simp] theorem State.updSlot_lists (c k : Nat) (f : Slot → Slot) : (s.updSlot c k f).lists = s.lists := rfl
@[simp] theorem State.updSlot_hands (c k : Nat) (f : Slot → Slot) : (s.updSlot c k f).hands = s.hands := rfl
@[simp] theorem State.updSlot_nextHand (c k : Nat) (f : Slot → Slot) : (s.updSlot c k f).nextHand = s.nextHand := rfl
@[simp] theorem State.updSlot_clusters (c k : Nat) (f : Slot → Slot) : (s.updSlot c k f).clusters = s.clusters := rfl
@[simp] theorem State.updSlot_copies (c k : Nat) (f : Slot → Slot) : (s.updSlot c k f).copies = s.copies := rfl
@[simp] theorem State.updSlot_nextCopy (c k : Nat) (f : Slot → Slot) : (s.updSlot c k f).nextCopy = s.nextCopy := rfl
@[simp] theorem State.updSlot_lineFails (c k : Nat) (f : Slot → Slot) : (s.updSlot c k f).lineFails = s.lineFails := rfl
@[simp] theorem State.updSlot_slotViews (c k : Nat) (f : Slot → Slot) : (s.updSlot c k f).slotViews = s.slotViews := rfl
@[simp] theorem State.updSlot_jobs (c k : Nat) (f : Slot → Slot) : (s.updSlot c k f).jobs = s.jobs := rfl
@[simp] theorem State.updSlot_bbarViews (c k : Nat) (f : Slot → Slot) : (s.updSlot c k f).bbarViews = s.bbarViews := rfl
@[simp] theorem State.updSlot_dies (c k : Nat) (f : Slot → Slot) : (s.updSlot c k f).dies = s.dies := rfl
@[simp] theorem State.updSlot_launches (c k : Nat) (f : Slot → Slot) : (s.updSlot c k f).launches = s.launches := rfl
@[simp] theorem State.updSlot_nextLid (c k : Nat) (f : Slot → Slot) : (s.updSlot c k f).nextLid = s.nextLid := rfl
@[simp] theorem State.updSlot_ranges (c k : Nat) (f : Slot → Slot) : (s.updSlot c k f).ranges = s.ranges := rfl
@[simp] theorem State.updSlot_nextRange (c k : Nat) (f : Slot → Slot) : (s.updSlot c k f).nextRange = s.nextRange := rfl
@[simp] theorem State.updSlot_resolutions (c k : Nat) (f : Slot → Slot) : (s.updSlot c k f).resolutions = s.resolutions := rfl
@[simp] theorem State.updSlot_retained (c k : Nat) (f : Slot → Slot) : (s.updSlot c k f).retained = s.retained := rfl
@[simp] theorem State.updSlot_lastRegs (c k : Nat) (f : Slot → Slot) : (s.updSlot c k f).lastRegs = s.lastRegs := rfl
@[simp] theorem State.updSlot_frontReads (c k : Nat) (f : Slot → Slot) : (s.updSlot c k f).frontReads = s.frontReads := rfl
@[simp] theorem State.updSlot_queues (c k : Nat) (f : Slot → Slot) : (s.updSlot c k f).queues = s.queues := rfl
@[simp] theorem State.updSlot_graphs (c k : Nat) (f : Slot → Slot) : (s.updSlot c k f).graphs = s.graphs := rfl
@[simp] theorem State.updSlot_nextGraph (c k : Nat) (f : Slot → Slot) : (s.updSlot c k f).nextGraph = s.nextGraph := rfl
@[simp] theorem State.updSlot_heldAdds (c k : Nat) (f : Slot → Slot) : (s.updSlot c k f).heldAdds = s.heldAdds := rfl
@[simp] theorem State.updSlot_cps (c k : Nat) (f : Slot → Slot) : (s.updSlot c k f).cps = s.cps := rfl
@[simp] theorem State.updSlot_wake (c k : Nat) (f : Slot → Slot) : (s.updSlot c k f).wake = s.wake := rfl
@[simp] theorem State.updSlot_tlb (c k : Nat) (f : Slot → Slot) : (s.updSlot c k f).tlb = s.tlb := rfl
@[simp] theorem State.updSlot_pageReqs (c k : Nat) (f : Slot → Slot) : (s.updSlot c k f).pageReqs = s.pageReqs := rfl
@[simp] theorem State.updSlot_refusals (c k : Nat) (f : Slot → Slot) : (s.updSlot c k f).refusals = s.refusals := rfl
@[simp] theorem State.updSlot_peerWin (c k : Nat) (f : Slot → Slot) : (s.updSlot c k f).peerWin = s.peerWin := rfl
@[simp] theorem State.updSlot_cellWaits (c k : Nat) (f : Slot → Slot) : (s.updSlot c k f).cellWaits = s.cellWaits := rfl
@[simp] theorem State.updSlot_peerCancels (c k : Nat) (f : Slot → Slot) : (s.updSlot c k f).peerCancels = s.peerCancels := rfl
@[simp] theorem State.updSlot_parts (c k : Nat) (f : Slot → Slot) : (s.updSlot c k f).parts = s.parts := rfl
@[simp] theorem State.updSlot_funcs (c k : Nat) (f : Slot → Slot) : (s.updSlot c k f).funcs = s.funcs := rfl
@[simp] theorem State.updSlot_trans (c k : Nat) (f : Slot → Slot) : (s.updSlot c k f).trans = s.trans := rfl
@[simp] theorem State.updSlot_debugBox (c k : Nat) (f : Slot → Slot) : (s.updSlot c k f).debugBox = s.debugBox := rfl
@[simp] theorem State.updSlot_lossBox (c k : Nat) (f : Slot → Slot) : (s.updSlot c k f).lossBox = s.lossBox := rfl
@[simp] theorem State.updSlot_devNum (c k : Nat) (f : Slot → Slot) : (s.updSlot c k f).devNum = s.devNum := rfl
@[simp] theorem State.updSlot_ports (c k : Nat) (f : Slot → Slot) : (s.updSlot c k f).ports = s.ports := rfl
@[simp] theorem State.updSlot_reqs (c k : Nat) (f : Slot → Slot) : (s.updSlot c k f).reqs = s.reqs := rfl
@[simp] theorem State.updSlot_nextTag (c k : Nat) (f : Slot → Slot) : (s.updSlot c k f).nextTag = s.nextTag := rfl
@[simp] theorem State.updSlot_hostLink (c k : Nat) (f : Slot → Slot) : (s.updSlot c k f).hostLink = s.hostLink := rfl
@[simp] theorem State.updSlot_atomics (c k : Nat) (f : Slot → Slot) : (s.updSlot c k f).atomics = s.atomics := rfl
@[simp] theorem State.updSlot_cluBanks (c k : Nat) (f : Slot → Slot) : (s.updSlot c k f).cluBanks = s.cluBanks := rfl
@[simp] theorem State.updSlot_sliceBanks (c k : Nat) (f : Slot → Slot) : (s.updSlot c k f).sliceBanks = s.sliceBanks := rfl
@[simp] theorem State.updSlot_mgmt (c k : Nat) (f : Slot → Slot) : (s.updSlot c k f).mgmt = s.mgmt := rfl
@[simp] theorem State.updSlot_ckpt (c k : Nat) (f : Slot → Slot) : (s.updSlot c k f).ckpt = s.ckpt := rfl
@[simp] theorem State.updSlot_vaultUp (c k : Nat) (f : Slot → Slot) : (s.updSlot c k f).vaultUp = s.vaultUp := rfl
@[simp] theorem State.updSlot_vault (c k : Nat) (f : Slot → Slot) : (s.updSlot c k f).vault = s.vault := rfl
@[simp] theorem State.updSlot_snapshots (c k : Nat) (f : Slot → Slot) : (s.updSlot c k f).snapshots = s.snapshots := rfl
@[simp] theorem State.updSlot_heldItems (c k : Nat) (f : Slot → Slot) : (s.updSlot c k f).heldItems = s.heldItems := rfl
@[simp] theorem State.updSlot_tableBinds (c k : Nat) (f : Slot → Slot) : (s.updSlot c k f).tableBinds = s.tableBinds := rfl
@[simp] theorem State.updSlot_entryReads (c k : Nat) (f : Slot → Slot) : (s.updSlot c k f).entryReads = s.entryReads := rfl
@[simp] theorem State.updSlot_routes (c k : Nat) (f : Slot → Slot) : (s.updSlot c k f).routes = s.routes := rfl
@[simp] theorem State.updSlot_hostView (c k : Nat) (f : Slot → Slot) : (s.updSlot c k f).hostView = s.hostView := rfl
@[simp] theorem State.updSlot_peerViews (c k : Nat) (f : Slot → Slot) : (s.updSlot c k f).peerViews = s.peerViews := rfl
@[simp] theorem State.updSlot_barReply (c k : Nat) (f : Slot → Slot) : (s.updSlot c k f).barReply = s.barReply := rfl
@[simp] theorem State.updSlot_sensors (c k : Nat) (f : Slot → Slot) : (s.updSlot c k f).sensors = s.sensors := rfl
@[simp] theorem State.updSlot_pendResets (c k : Nat) (f : Slot → Slot) : (s.updSlot c k f).pendResets = s.pendResets := rfl

/-! ### updCluster -/

@[simp] theorem State.updCluster_agenda (c : Nat) (f : Cluster → Cluster) : (s.updCluster c f).agenda = s.agenda := rfl
@[simp] theorem State.updCluster_tick (c : Nat) (f : Cluster → Cluster) : (s.updCluster c f).tick = s.tick := rfl
@[simp] theorem State.updCluster_args (c : Nat) (f : Cluster → Cluster) : (s.updCluster c f).args = s.args := rfl
@[simp] theorem State.updCluster_cur (c : Nat) (f : Cluster → Cluster) : (s.updCluster c f).cur = s.cur := rfl
@[simp] theorem State.updCluster_mem (c : Nat) (f : Cluster → Cluster) : (s.updCluster c f).mem = s.mem := rfl
@[simp] theorem State.updCluster_orders (c : Nat) (f : Cluster → Cluster) : (s.updCluster c f).orders = s.orders := rfl
@[simp] theorem State.updCluster_invBroken (c : Nat) (f : Cluster → Cluster) : (s.updCluster c f).invBroken = s.invBroken := rfl
@[simp] theorem State.updCluster_pubs (c : Nat) (f : Cluster → Cluster) : (s.updCluster c f).pubs = s.pubs := rfl
@[simp] theorem State.updCluster_binds (c : Nat) (f : Cluster → Cluster) : (s.updCluster c f).binds = s.binds := rfl
@[simp] theorem State.updCluster_recs (c : Nat) (f : Cluster → Cluster) : (s.updCluster c f).recs = s.recs := rfl
@[simp] theorem State.updCluster_lists (c : Nat) (f : Cluster → Cluster) : (s.updCluster c f).lists = s.lists := rfl
@[simp] theorem State.updCluster_hands (c : Nat) (f : Cluster → Cluster) : (s.updCluster c f).hands = s.hands := rfl
@[simp] theorem State.updCluster_nextHand (c : Nat) (f : Cluster → Cluster) : (s.updCluster c f).nextHand = s.nextHand := rfl
@[simp] theorem State.updCluster_cores (c : Nat) (f : Cluster → Cluster) : (s.updCluster c f).cores = s.cores := rfl
@[simp] theorem State.updCluster_copies (c : Nat) (f : Cluster → Cluster) : (s.updCluster c f).copies = s.copies := rfl
@[simp] theorem State.updCluster_nextCopy (c : Nat) (f : Cluster → Cluster) : (s.updCluster c f).nextCopy = s.nextCopy := rfl
@[simp] theorem State.updCluster_lineFails (c : Nat) (f : Cluster → Cluster) : (s.updCluster c f).lineFails = s.lineFails := rfl
@[simp] theorem State.updCluster_slotViews (c : Nat) (f : Cluster → Cluster) : (s.updCluster c f).slotViews = s.slotViews := rfl
@[simp] theorem State.updCluster_jobs (c : Nat) (f : Cluster → Cluster) : (s.updCluster c f).jobs = s.jobs := rfl
@[simp] theorem State.updCluster_bbarViews (c : Nat) (f : Cluster → Cluster) : (s.updCluster c f).bbarViews = s.bbarViews := rfl
@[simp] theorem State.updCluster_dies (c : Nat) (f : Cluster → Cluster) : (s.updCluster c f).dies = s.dies := rfl
@[simp] theorem State.updCluster_launches (c : Nat) (f : Cluster → Cluster) : (s.updCluster c f).launches = s.launches := rfl
@[simp] theorem State.updCluster_nextLid (c : Nat) (f : Cluster → Cluster) : (s.updCluster c f).nextLid = s.nextLid := rfl
@[simp] theorem State.updCluster_ranges (c : Nat) (f : Cluster → Cluster) : (s.updCluster c f).ranges = s.ranges := rfl
@[simp] theorem State.updCluster_nextRange (c : Nat) (f : Cluster → Cluster) : (s.updCluster c f).nextRange = s.nextRange := rfl
@[simp] theorem State.updCluster_resolutions (c : Nat) (f : Cluster → Cluster) : (s.updCluster c f).resolutions = s.resolutions := rfl
@[simp] theorem State.updCluster_retained (c : Nat) (f : Cluster → Cluster) : (s.updCluster c f).retained = s.retained := rfl
@[simp] theorem State.updCluster_lastRegs (c : Nat) (f : Cluster → Cluster) : (s.updCluster c f).lastRegs = s.lastRegs := rfl
@[simp] theorem State.updCluster_frontReads (c : Nat) (f : Cluster → Cluster) : (s.updCluster c f).frontReads = s.frontReads := rfl
@[simp] theorem State.updCluster_queues (c : Nat) (f : Cluster → Cluster) : (s.updCluster c f).queues = s.queues := rfl
@[simp] theorem State.updCluster_graphs (c : Nat) (f : Cluster → Cluster) : (s.updCluster c f).graphs = s.graphs := rfl
@[simp] theorem State.updCluster_nextGraph (c : Nat) (f : Cluster → Cluster) : (s.updCluster c f).nextGraph = s.nextGraph := rfl
@[simp] theorem State.updCluster_heldAdds (c : Nat) (f : Cluster → Cluster) : (s.updCluster c f).heldAdds = s.heldAdds := rfl
@[simp] theorem State.updCluster_cps (c : Nat) (f : Cluster → Cluster) : (s.updCluster c f).cps = s.cps := rfl
@[simp] theorem State.updCluster_wake (c : Nat) (f : Cluster → Cluster) : (s.updCluster c f).wake = s.wake := rfl
@[simp] theorem State.updCluster_tlb (c : Nat) (f : Cluster → Cluster) : (s.updCluster c f).tlb = s.tlb := rfl
@[simp] theorem State.updCluster_pageReqs (c : Nat) (f : Cluster → Cluster) : (s.updCluster c f).pageReqs = s.pageReqs := rfl
@[simp] theorem State.updCluster_refusals (c : Nat) (f : Cluster → Cluster) : (s.updCluster c f).refusals = s.refusals := rfl
@[simp] theorem State.updCluster_peerWin (c : Nat) (f : Cluster → Cluster) : (s.updCluster c f).peerWin = s.peerWin := rfl
@[simp] theorem State.updCluster_cellWaits (c : Nat) (f : Cluster → Cluster) : (s.updCluster c f).cellWaits = s.cellWaits := rfl
@[simp] theorem State.updCluster_peerCancels (c : Nat) (f : Cluster → Cluster) : (s.updCluster c f).peerCancels = s.peerCancels := rfl
@[simp] theorem State.updCluster_parts (c : Nat) (f : Cluster → Cluster) : (s.updCluster c f).parts = s.parts := rfl
@[simp] theorem State.updCluster_funcs (c : Nat) (f : Cluster → Cluster) : (s.updCluster c f).funcs = s.funcs := rfl
@[simp] theorem State.updCluster_trans (c : Nat) (f : Cluster → Cluster) : (s.updCluster c f).trans = s.trans := rfl
@[simp] theorem State.updCluster_debugBox (c : Nat) (f : Cluster → Cluster) : (s.updCluster c f).debugBox = s.debugBox := rfl
@[simp] theorem State.updCluster_lossBox (c : Nat) (f : Cluster → Cluster) : (s.updCluster c f).lossBox = s.lossBox := rfl
@[simp] theorem State.updCluster_devNum (c : Nat) (f : Cluster → Cluster) : (s.updCluster c f).devNum = s.devNum := rfl
@[simp] theorem State.updCluster_ports (c : Nat) (f : Cluster → Cluster) : (s.updCluster c f).ports = s.ports := rfl
@[simp] theorem State.updCluster_reqs (c : Nat) (f : Cluster → Cluster) : (s.updCluster c f).reqs = s.reqs := rfl
@[simp] theorem State.updCluster_nextTag (c : Nat) (f : Cluster → Cluster) : (s.updCluster c f).nextTag = s.nextTag := rfl
@[simp] theorem State.updCluster_hostLink (c : Nat) (f : Cluster → Cluster) : (s.updCluster c f).hostLink = s.hostLink := rfl
@[simp] theorem State.updCluster_atomics (c : Nat) (f : Cluster → Cluster) : (s.updCluster c f).atomics = s.atomics := rfl
@[simp] theorem State.updCluster_cluBanks (c : Nat) (f : Cluster → Cluster) : (s.updCluster c f).cluBanks = s.cluBanks := rfl
@[simp] theorem State.updCluster_sliceBanks (c : Nat) (f : Cluster → Cluster) : (s.updCluster c f).sliceBanks = s.sliceBanks := rfl
@[simp] theorem State.updCluster_mgmt (c : Nat) (f : Cluster → Cluster) : (s.updCluster c f).mgmt = s.mgmt := rfl
@[simp] theorem State.updCluster_ckpt (c : Nat) (f : Cluster → Cluster) : (s.updCluster c f).ckpt = s.ckpt := rfl
@[simp] theorem State.updCluster_vaultUp (c : Nat) (f : Cluster → Cluster) : (s.updCluster c f).vaultUp = s.vaultUp := rfl
@[simp] theorem State.updCluster_vault (c : Nat) (f : Cluster → Cluster) : (s.updCluster c f).vault = s.vault := rfl
@[simp] theorem State.updCluster_snapshots (c : Nat) (f : Cluster → Cluster) : (s.updCluster c f).snapshots = s.snapshots := rfl
@[simp] theorem State.updCluster_heldItems (c : Nat) (f : Cluster → Cluster) : (s.updCluster c f).heldItems = s.heldItems := rfl
@[simp] theorem State.updCluster_tableBinds (c : Nat) (f : Cluster → Cluster) : (s.updCluster c f).tableBinds = s.tableBinds := rfl
@[simp] theorem State.updCluster_entryReads (c : Nat) (f : Cluster → Cluster) : (s.updCluster c f).entryReads = s.entryReads := rfl
@[simp] theorem State.updCluster_routes (c : Nat) (f : Cluster → Cluster) : (s.updCluster c f).routes = s.routes := rfl
@[simp] theorem State.updCluster_hostView (c : Nat) (f : Cluster → Cluster) : (s.updCluster c f).hostView = s.hostView := rfl
@[simp] theorem State.updCluster_peerViews (c : Nat) (f : Cluster → Cluster) : (s.updCluster c f).peerViews = s.peerViews := rfl
@[simp] theorem State.updCluster_barReply (c : Nat) (f : Cluster → Cluster) : (s.updCluster c f).barReply = s.barReply := rfl
@[simp] theorem State.updCluster_sensors (c : Nat) (f : Cluster → Cluster) : (s.updCluster c f).sensors = s.sensors := rfl
@[simp] theorem State.updCluster_pendResets (c : Nat) (f : Cluster → Cluster) : (s.updCluster c f).pendResets = s.pendResets := rfl

/-! ### updDie -/

@[simp] theorem State.updDie_agenda (d : Nat) (f : Die → Die) : (s.updDie d f).agenda = s.agenda := rfl
@[simp] theorem State.updDie_tick (d : Nat) (f : Die → Die) : (s.updDie d f).tick = s.tick := rfl
@[simp] theorem State.updDie_args (d : Nat) (f : Die → Die) : (s.updDie d f).args = s.args := rfl
@[simp] theorem State.updDie_cur (d : Nat) (f : Die → Die) : (s.updDie d f).cur = s.cur := rfl
@[simp] theorem State.updDie_mem (d : Nat) (f : Die → Die) : (s.updDie d f).mem = s.mem := rfl
@[simp] theorem State.updDie_orders (d : Nat) (f : Die → Die) : (s.updDie d f).orders = s.orders := rfl
@[simp] theorem State.updDie_invBroken (d : Nat) (f : Die → Die) : (s.updDie d f).invBroken = s.invBroken := rfl
@[simp] theorem State.updDie_pubs (d : Nat) (f : Die → Die) : (s.updDie d f).pubs = s.pubs := rfl
@[simp] theorem State.updDie_binds (d : Nat) (f : Die → Die) : (s.updDie d f).binds = s.binds := rfl
@[simp] theorem State.updDie_recs (d : Nat) (f : Die → Die) : (s.updDie d f).recs = s.recs := rfl
@[simp] theorem State.updDie_lists (d : Nat) (f : Die → Die) : (s.updDie d f).lists = s.lists := rfl
@[simp] theorem State.updDie_hands (d : Nat) (f : Die → Die) : (s.updDie d f).hands = s.hands := rfl
@[simp] theorem State.updDie_nextHand (d : Nat) (f : Die → Die) : (s.updDie d f).nextHand = s.nextHand := rfl
@[simp] theorem State.updDie_cores (d : Nat) (f : Die → Die) : (s.updDie d f).cores = s.cores := rfl
@[simp] theorem State.updDie_clusters (d : Nat) (f : Die → Die) : (s.updDie d f).clusters = s.clusters := rfl
@[simp] theorem State.updDie_copies (d : Nat) (f : Die → Die) : (s.updDie d f).copies = s.copies := rfl
@[simp] theorem State.updDie_nextCopy (d : Nat) (f : Die → Die) : (s.updDie d f).nextCopy = s.nextCopy := rfl
@[simp] theorem State.updDie_lineFails (d : Nat) (f : Die → Die) : (s.updDie d f).lineFails = s.lineFails := rfl
@[simp] theorem State.updDie_slotViews (d : Nat) (f : Die → Die) : (s.updDie d f).slotViews = s.slotViews := rfl
@[simp] theorem State.updDie_jobs (d : Nat) (f : Die → Die) : (s.updDie d f).jobs = s.jobs := rfl
@[simp] theorem State.updDie_bbarViews (d : Nat) (f : Die → Die) : (s.updDie d f).bbarViews = s.bbarViews := rfl
@[simp] theorem State.updDie_launches (d : Nat) (f : Die → Die) : (s.updDie d f).launches = s.launches := rfl
@[simp] theorem State.updDie_nextLid (d : Nat) (f : Die → Die) : (s.updDie d f).nextLid = s.nextLid := rfl
@[simp] theorem State.updDie_ranges (d : Nat) (f : Die → Die) : (s.updDie d f).ranges = s.ranges := rfl
@[simp] theorem State.updDie_nextRange (d : Nat) (f : Die → Die) : (s.updDie d f).nextRange = s.nextRange := rfl
@[simp] theorem State.updDie_resolutions (d : Nat) (f : Die → Die) : (s.updDie d f).resolutions = s.resolutions := rfl
@[simp] theorem State.updDie_retained (d : Nat) (f : Die → Die) : (s.updDie d f).retained = s.retained := rfl
@[simp] theorem State.updDie_lastRegs (d : Nat) (f : Die → Die) : (s.updDie d f).lastRegs = s.lastRegs := rfl
@[simp] theorem State.updDie_frontReads (d : Nat) (f : Die → Die) : (s.updDie d f).frontReads = s.frontReads := rfl
@[simp] theorem State.updDie_queues (d : Nat) (f : Die → Die) : (s.updDie d f).queues = s.queues := rfl
@[simp] theorem State.updDie_graphs (d : Nat) (f : Die → Die) : (s.updDie d f).graphs = s.graphs := rfl
@[simp] theorem State.updDie_nextGraph (d : Nat) (f : Die → Die) : (s.updDie d f).nextGraph = s.nextGraph := rfl
@[simp] theorem State.updDie_heldAdds (d : Nat) (f : Die → Die) : (s.updDie d f).heldAdds = s.heldAdds := rfl
@[simp] theorem State.updDie_cps (d : Nat) (f : Die → Die) : (s.updDie d f).cps = s.cps := rfl
@[simp] theorem State.updDie_wake (d : Nat) (f : Die → Die) : (s.updDie d f).wake = s.wake := rfl
@[simp] theorem State.updDie_tlb (d : Nat) (f : Die → Die) : (s.updDie d f).tlb = s.tlb := rfl
@[simp] theorem State.updDie_pageReqs (d : Nat) (f : Die → Die) : (s.updDie d f).pageReqs = s.pageReqs := rfl
@[simp] theorem State.updDie_refusals (d : Nat) (f : Die → Die) : (s.updDie d f).refusals = s.refusals := rfl
@[simp] theorem State.updDie_peerWin (d : Nat) (f : Die → Die) : (s.updDie d f).peerWin = s.peerWin := rfl
@[simp] theorem State.updDie_cellWaits (d : Nat) (f : Die → Die) : (s.updDie d f).cellWaits = s.cellWaits := rfl
@[simp] theorem State.updDie_peerCancels (d : Nat) (f : Die → Die) : (s.updDie d f).peerCancels = s.peerCancels := rfl
@[simp] theorem State.updDie_parts (d : Nat) (f : Die → Die) : (s.updDie d f).parts = s.parts := rfl
@[simp] theorem State.updDie_funcs (d : Nat) (f : Die → Die) : (s.updDie d f).funcs = s.funcs := rfl
@[simp] theorem State.updDie_trans (d : Nat) (f : Die → Die) : (s.updDie d f).trans = s.trans := rfl
@[simp] theorem State.updDie_debugBox (d : Nat) (f : Die → Die) : (s.updDie d f).debugBox = s.debugBox := rfl
@[simp] theorem State.updDie_lossBox (d : Nat) (f : Die → Die) : (s.updDie d f).lossBox = s.lossBox := rfl
@[simp] theorem State.updDie_devNum (d : Nat) (f : Die → Die) : (s.updDie d f).devNum = s.devNum := rfl
@[simp] theorem State.updDie_ports (d : Nat) (f : Die → Die) : (s.updDie d f).ports = s.ports := rfl
@[simp] theorem State.updDie_reqs (d : Nat) (f : Die → Die) : (s.updDie d f).reqs = s.reqs := rfl
@[simp] theorem State.updDie_nextTag (d : Nat) (f : Die → Die) : (s.updDie d f).nextTag = s.nextTag := rfl
@[simp] theorem State.updDie_hostLink (d : Nat) (f : Die → Die) : (s.updDie d f).hostLink = s.hostLink := rfl
@[simp] theorem State.updDie_atomics (d : Nat) (f : Die → Die) : (s.updDie d f).atomics = s.atomics := rfl
@[simp] theorem State.updDie_cluBanks (d : Nat) (f : Die → Die) : (s.updDie d f).cluBanks = s.cluBanks := rfl
@[simp] theorem State.updDie_sliceBanks (d : Nat) (f : Die → Die) : (s.updDie d f).sliceBanks = s.sliceBanks := rfl
@[simp] theorem State.updDie_mgmt (d : Nat) (f : Die → Die) : (s.updDie d f).mgmt = s.mgmt := rfl
@[simp] theorem State.updDie_ckpt (d : Nat) (f : Die → Die) : (s.updDie d f).ckpt = s.ckpt := rfl
@[simp] theorem State.updDie_vaultUp (d : Nat) (f : Die → Die) : (s.updDie d f).vaultUp = s.vaultUp := rfl
@[simp] theorem State.updDie_vault (d : Nat) (f : Die → Die) : (s.updDie d f).vault = s.vault := rfl
@[simp] theorem State.updDie_snapshots (d : Nat) (f : Die → Die) : (s.updDie d f).snapshots = s.snapshots := rfl
@[simp] theorem State.updDie_heldItems (d : Nat) (f : Die → Die) : (s.updDie d f).heldItems = s.heldItems := rfl
@[simp] theorem State.updDie_tableBinds (d : Nat) (f : Die → Die) : (s.updDie d f).tableBinds = s.tableBinds := rfl
@[simp] theorem State.updDie_entryReads (d : Nat) (f : Die → Die) : (s.updDie d f).entryReads = s.entryReads := rfl
@[simp] theorem State.updDie_routes (d : Nat) (f : Die → Die) : (s.updDie d f).routes = s.routes := rfl
@[simp] theorem State.updDie_hostView (d : Nat) (f : Die → Die) : (s.updDie d f).hostView = s.hostView := rfl
@[simp] theorem State.updDie_peerViews (d : Nat) (f : Die → Die) : (s.updDie d f).peerViews = s.peerViews := rfl
@[simp] theorem State.updDie_barReply (d : Nat) (f : Die → Die) : (s.updDie d f).barReply = s.barReply := rfl
@[simp] theorem State.updDie_sensors (d : Nat) (f : Die → Die) : (s.updDie d f).sensors = s.sensors := rfl
@[simp] theorem State.updDie_pendResets (d : Nat) (f : Die → Die) : (s.updDie d f).pendResets = s.pendResets := rfl

/-! ### updPart -/

@[simp] theorem State.updPart_agenda (p : Nat) (f : Part → Part) : (s.updPart p f).agenda = s.agenda := rfl
@[simp] theorem State.updPart_tick (p : Nat) (f : Part → Part) : (s.updPart p f).tick = s.tick := rfl
@[simp] theorem State.updPart_args (p : Nat) (f : Part → Part) : (s.updPart p f).args = s.args := rfl
@[simp] theorem State.updPart_cur (p : Nat) (f : Part → Part) : (s.updPart p f).cur = s.cur := rfl
@[simp] theorem State.updPart_mem (p : Nat) (f : Part → Part) : (s.updPart p f).mem = s.mem := rfl
@[simp] theorem State.updPart_orders (p : Nat) (f : Part → Part) : (s.updPart p f).orders = s.orders := rfl
@[simp] theorem State.updPart_invBroken (p : Nat) (f : Part → Part) : (s.updPart p f).invBroken = s.invBroken := rfl
@[simp] theorem State.updPart_pubs (p : Nat) (f : Part → Part) : (s.updPart p f).pubs = s.pubs := rfl
@[simp] theorem State.updPart_binds (p : Nat) (f : Part → Part) : (s.updPart p f).binds = s.binds := rfl
@[simp] theorem State.updPart_recs (p : Nat) (f : Part → Part) : (s.updPart p f).recs = s.recs := rfl
@[simp] theorem State.updPart_lists (p : Nat) (f : Part → Part) : (s.updPart p f).lists = s.lists := rfl
@[simp] theorem State.updPart_hands (p : Nat) (f : Part → Part) : (s.updPart p f).hands = s.hands := rfl
@[simp] theorem State.updPart_nextHand (p : Nat) (f : Part → Part) : (s.updPart p f).nextHand = s.nextHand := rfl
@[simp] theorem State.updPart_cores (p : Nat) (f : Part → Part) : (s.updPart p f).cores = s.cores := rfl
@[simp] theorem State.updPart_clusters (p : Nat) (f : Part → Part) : (s.updPart p f).clusters = s.clusters := rfl
@[simp] theorem State.updPart_copies (p : Nat) (f : Part → Part) : (s.updPart p f).copies = s.copies := rfl
@[simp] theorem State.updPart_nextCopy (p : Nat) (f : Part → Part) : (s.updPart p f).nextCopy = s.nextCopy := rfl
@[simp] theorem State.updPart_lineFails (p : Nat) (f : Part → Part) : (s.updPart p f).lineFails = s.lineFails := rfl
@[simp] theorem State.updPart_slotViews (p : Nat) (f : Part → Part) : (s.updPart p f).slotViews = s.slotViews := rfl
@[simp] theorem State.updPart_jobs (p : Nat) (f : Part → Part) : (s.updPart p f).jobs = s.jobs := rfl
@[simp] theorem State.updPart_bbarViews (p : Nat) (f : Part → Part) : (s.updPart p f).bbarViews = s.bbarViews := rfl
@[simp] theorem State.updPart_dies (p : Nat) (f : Part → Part) : (s.updPart p f).dies = s.dies := rfl
@[simp] theorem State.updPart_launches (p : Nat) (f : Part → Part) : (s.updPart p f).launches = s.launches := rfl
@[simp] theorem State.updPart_nextLid (p : Nat) (f : Part → Part) : (s.updPart p f).nextLid = s.nextLid := rfl
@[simp] theorem State.updPart_ranges (p : Nat) (f : Part → Part) : (s.updPart p f).ranges = s.ranges := rfl
@[simp] theorem State.updPart_nextRange (p : Nat) (f : Part → Part) : (s.updPart p f).nextRange = s.nextRange := rfl
@[simp] theorem State.updPart_resolutions (p : Nat) (f : Part → Part) : (s.updPart p f).resolutions = s.resolutions := rfl
@[simp] theorem State.updPart_retained (p : Nat) (f : Part → Part) : (s.updPart p f).retained = s.retained := rfl
@[simp] theorem State.updPart_lastRegs (p : Nat) (f : Part → Part) : (s.updPart p f).lastRegs = s.lastRegs := rfl
@[simp] theorem State.updPart_frontReads (p : Nat) (f : Part → Part) : (s.updPart p f).frontReads = s.frontReads := rfl
@[simp] theorem State.updPart_queues (p : Nat) (f : Part → Part) : (s.updPart p f).queues = s.queues := rfl
@[simp] theorem State.updPart_graphs (p : Nat) (f : Part → Part) : (s.updPart p f).graphs = s.graphs := rfl
@[simp] theorem State.updPart_nextGraph (p : Nat) (f : Part → Part) : (s.updPart p f).nextGraph = s.nextGraph := rfl
@[simp] theorem State.updPart_heldAdds (p : Nat) (f : Part → Part) : (s.updPart p f).heldAdds = s.heldAdds := rfl
@[simp] theorem State.updPart_cps (p : Nat) (f : Part → Part) : (s.updPart p f).cps = s.cps := rfl
@[simp] theorem State.updPart_wake (p : Nat) (f : Part → Part) : (s.updPart p f).wake = s.wake := rfl
@[simp] theorem State.updPart_tlb (p : Nat) (f : Part → Part) : (s.updPart p f).tlb = s.tlb := rfl
@[simp] theorem State.updPart_pageReqs (p : Nat) (f : Part → Part) : (s.updPart p f).pageReqs = s.pageReqs := rfl
@[simp] theorem State.updPart_refusals (p : Nat) (f : Part → Part) : (s.updPart p f).refusals = s.refusals := rfl
@[simp] theorem State.updPart_peerWin (p : Nat) (f : Part → Part) : (s.updPart p f).peerWin = s.peerWin := rfl
@[simp] theorem State.updPart_cellWaits (p : Nat) (f : Part → Part) : (s.updPart p f).cellWaits = s.cellWaits := rfl
@[simp] theorem State.updPart_peerCancels (p : Nat) (f : Part → Part) : (s.updPart p f).peerCancels = s.peerCancels := rfl
@[simp] theorem State.updPart_funcs (p : Nat) (f : Part → Part) : (s.updPart p f).funcs = s.funcs := rfl
@[simp] theorem State.updPart_trans (p : Nat) (f : Part → Part) : (s.updPart p f).trans = s.trans := rfl
@[simp] theorem State.updPart_debugBox (p : Nat) (f : Part → Part) : (s.updPart p f).debugBox = s.debugBox := rfl
@[simp] theorem State.updPart_lossBox (p : Nat) (f : Part → Part) : (s.updPart p f).lossBox = s.lossBox := rfl
@[simp] theorem State.updPart_devNum (p : Nat) (f : Part → Part) : (s.updPart p f).devNum = s.devNum := rfl
@[simp] theorem State.updPart_ports (p : Nat) (f : Part → Part) : (s.updPart p f).ports = s.ports := rfl
@[simp] theorem State.updPart_reqs (p : Nat) (f : Part → Part) : (s.updPart p f).reqs = s.reqs := rfl
@[simp] theorem State.updPart_nextTag (p : Nat) (f : Part → Part) : (s.updPart p f).nextTag = s.nextTag := rfl
@[simp] theorem State.updPart_hostLink (p : Nat) (f : Part → Part) : (s.updPart p f).hostLink = s.hostLink := rfl
@[simp] theorem State.updPart_atomics (p : Nat) (f : Part → Part) : (s.updPart p f).atomics = s.atomics := rfl
@[simp] theorem State.updPart_cluBanks (p : Nat) (f : Part → Part) : (s.updPart p f).cluBanks = s.cluBanks := rfl
@[simp] theorem State.updPart_sliceBanks (p : Nat) (f : Part → Part) : (s.updPart p f).sliceBanks = s.sliceBanks := rfl
@[simp] theorem State.updPart_mgmt (p : Nat) (f : Part → Part) : (s.updPart p f).mgmt = s.mgmt := rfl
@[simp] theorem State.updPart_ckpt (p : Nat) (f : Part → Part) : (s.updPart p f).ckpt = s.ckpt := rfl
@[simp] theorem State.updPart_vaultUp (p : Nat) (f : Part → Part) : (s.updPart p f).vaultUp = s.vaultUp := rfl
@[simp] theorem State.updPart_vault (p : Nat) (f : Part → Part) : (s.updPart p f).vault = s.vault := rfl
@[simp] theorem State.updPart_snapshots (p : Nat) (f : Part → Part) : (s.updPart p f).snapshots = s.snapshots := rfl
@[simp] theorem State.updPart_heldItems (p : Nat) (f : Part → Part) : (s.updPart p f).heldItems = s.heldItems := rfl
@[simp] theorem State.updPart_tableBinds (p : Nat) (f : Part → Part) : (s.updPart p f).tableBinds = s.tableBinds := rfl
@[simp] theorem State.updPart_entryReads (p : Nat) (f : Part → Part) : (s.updPart p f).entryReads = s.entryReads := rfl
@[simp] theorem State.updPart_routes (p : Nat) (f : Part → Part) : (s.updPart p f).routes = s.routes := rfl
@[simp] theorem State.updPart_hostView (p : Nat) (f : Part → Part) : (s.updPart p f).hostView = s.hostView := rfl
@[simp] theorem State.updPart_peerViews (p : Nat) (f : Part → Part) : (s.updPart p f).peerViews = s.peerViews := rfl
@[simp] theorem State.updPart_barReply (p : Nat) (f : Part → Part) : (s.updPart p f).barReply = s.barReply := rfl
@[simp] theorem State.updPart_sensors (p : Nat) (f : Part → Part) : (s.updPart p f).sensors = s.sensors := rfl
@[simp] theorem State.updPart_pendResets (p : Nat) (f : Part → Part) : (s.updPart p f).pendResets = s.pendResets := rfl

/-! ### updLaunch -/

@[simp] theorem State.updLaunch_agenda (l : Word) (f : Launch → Launch) : (s.updLaunch l f).agenda = s.agenda := rfl
@[simp] theorem State.updLaunch_tick (l : Word) (f : Launch → Launch) : (s.updLaunch l f).tick = s.tick := rfl
@[simp] theorem State.updLaunch_args (l : Word) (f : Launch → Launch) : (s.updLaunch l f).args = s.args := rfl
@[simp] theorem State.updLaunch_cur (l : Word) (f : Launch → Launch) : (s.updLaunch l f).cur = s.cur := rfl
@[simp] theorem State.updLaunch_mem (l : Word) (f : Launch → Launch) : (s.updLaunch l f).mem = s.mem := rfl
@[simp] theorem State.updLaunch_orders (l : Word) (f : Launch → Launch) : (s.updLaunch l f).orders = s.orders := rfl
@[simp] theorem State.updLaunch_invBroken (l : Word) (f : Launch → Launch) : (s.updLaunch l f).invBroken = s.invBroken := rfl
@[simp] theorem State.updLaunch_pubs (l : Word) (f : Launch → Launch) : (s.updLaunch l f).pubs = s.pubs := rfl
@[simp] theorem State.updLaunch_binds (l : Word) (f : Launch → Launch) : (s.updLaunch l f).binds = s.binds := rfl
@[simp] theorem State.updLaunch_recs (l : Word) (f : Launch → Launch) : (s.updLaunch l f).recs = s.recs := rfl
@[simp] theorem State.updLaunch_lists (l : Word) (f : Launch → Launch) : (s.updLaunch l f).lists = s.lists := rfl
@[simp] theorem State.updLaunch_hands (l : Word) (f : Launch → Launch) : (s.updLaunch l f).hands = s.hands := rfl
@[simp] theorem State.updLaunch_nextHand (l : Word) (f : Launch → Launch) : (s.updLaunch l f).nextHand = s.nextHand := rfl
@[simp] theorem State.updLaunch_cores (l : Word) (f : Launch → Launch) : (s.updLaunch l f).cores = s.cores := rfl
@[simp] theorem State.updLaunch_clusters (l : Word) (f : Launch → Launch) : (s.updLaunch l f).clusters = s.clusters := rfl
@[simp] theorem State.updLaunch_copies (l : Word) (f : Launch → Launch) : (s.updLaunch l f).copies = s.copies := rfl
@[simp] theorem State.updLaunch_nextCopy (l : Word) (f : Launch → Launch) : (s.updLaunch l f).nextCopy = s.nextCopy := rfl
@[simp] theorem State.updLaunch_lineFails (l : Word) (f : Launch → Launch) : (s.updLaunch l f).lineFails = s.lineFails := rfl
@[simp] theorem State.updLaunch_slotViews (l : Word) (f : Launch → Launch) : (s.updLaunch l f).slotViews = s.slotViews := rfl
@[simp] theorem State.updLaunch_jobs (l : Word) (f : Launch → Launch) : (s.updLaunch l f).jobs = s.jobs := rfl
@[simp] theorem State.updLaunch_bbarViews (l : Word) (f : Launch → Launch) : (s.updLaunch l f).bbarViews = s.bbarViews := rfl
@[simp] theorem State.updLaunch_dies (l : Word) (f : Launch → Launch) : (s.updLaunch l f).dies = s.dies := rfl
@[simp] theorem State.updLaunch_nextLid (l : Word) (f : Launch → Launch) : (s.updLaunch l f).nextLid = s.nextLid := rfl
@[simp] theorem State.updLaunch_ranges (l : Word) (f : Launch → Launch) : (s.updLaunch l f).ranges = s.ranges := rfl
@[simp] theorem State.updLaunch_nextRange (l : Word) (f : Launch → Launch) : (s.updLaunch l f).nextRange = s.nextRange := rfl
@[simp] theorem State.updLaunch_resolutions (l : Word) (f : Launch → Launch) : (s.updLaunch l f).resolutions = s.resolutions := rfl
@[simp] theorem State.updLaunch_retained (l : Word) (f : Launch → Launch) : (s.updLaunch l f).retained = s.retained := rfl
@[simp] theorem State.updLaunch_lastRegs (l : Word) (f : Launch → Launch) : (s.updLaunch l f).lastRegs = s.lastRegs := rfl
@[simp] theorem State.updLaunch_frontReads (l : Word) (f : Launch → Launch) : (s.updLaunch l f).frontReads = s.frontReads := rfl
@[simp] theorem State.updLaunch_queues (l : Word) (f : Launch → Launch) : (s.updLaunch l f).queues = s.queues := rfl
@[simp] theorem State.updLaunch_graphs (l : Word) (f : Launch → Launch) : (s.updLaunch l f).graphs = s.graphs := rfl
@[simp] theorem State.updLaunch_nextGraph (l : Word) (f : Launch → Launch) : (s.updLaunch l f).nextGraph = s.nextGraph := rfl
@[simp] theorem State.updLaunch_heldAdds (l : Word) (f : Launch → Launch) : (s.updLaunch l f).heldAdds = s.heldAdds := rfl
@[simp] theorem State.updLaunch_cps (l : Word) (f : Launch → Launch) : (s.updLaunch l f).cps = s.cps := rfl
@[simp] theorem State.updLaunch_wake (l : Word) (f : Launch → Launch) : (s.updLaunch l f).wake = s.wake := rfl
@[simp] theorem State.updLaunch_tlb (l : Word) (f : Launch → Launch) : (s.updLaunch l f).tlb = s.tlb := rfl
@[simp] theorem State.updLaunch_pageReqs (l : Word) (f : Launch → Launch) : (s.updLaunch l f).pageReqs = s.pageReqs := rfl
@[simp] theorem State.updLaunch_refusals (l : Word) (f : Launch → Launch) : (s.updLaunch l f).refusals = s.refusals := rfl
@[simp] theorem State.updLaunch_peerWin (l : Word) (f : Launch → Launch) : (s.updLaunch l f).peerWin = s.peerWin := rfl
@[simp] theorem State.updLaunch_cellWaits (l : Word) (f : Launch → Launch) : (s.updLaunch l f).cellWaits = s.cellWaits := rfl
@[simp] theorem State.updLaunch_peerCancels (l : Word) (f : Launch → Launch) : (s.updLaunch l f).peerCancels = s.peerCancels := rfl
@[simp] theorem State.updLaunch_parts (l : Word) (f : Launch → Launch) : (s.updLaunch l f).parts = s.parts := rfl
@[simp] theorem State.updLaunch_funcs (l : Word) (f : Launch → Launch) : (s.updLaunch l f).funcs = s.funcs := rfl
@[simp] theorem State.updLaunch_trans (l : Word) (f : Launch → Launch) : (s.updLaunch l f).trans = s.trans := rfl
@[simp] theorem State.updLaunch_debugBox (l : Word) (f : Launch → Launch) : (s.updLaunch l f).debugBox = s.debugBox := rfl
@[simp] theorem State.updLaunch_lossBox (l : Word) (f : Launch → Launch) : (s.updLaunch l f).lossBox = s.lossBox := rfl
@[simp] theorem State.updLaunch_devNum (l : Word) (f : Launch → Launch) : (s.updLaunch l f).devNum = s.devNum := rfl
@[simp] theorem State.updLaunch_ports (l : Word) (f : Launch → Launch) : (s.updLaunch l f).ports = s.ports := rfl
@[simp] theorem State.updLaunch_reqs (l : Word) (f : Launch → Launch) : (s.updLaunch l f).reqs = s.reqs := rfl
@[simp] theorem State.updLaunch_nextTag (l : Word) (f : Launch → Launch) : (s.updLaunch l f).nextTag = s.nextTag := rfl
@[simp] theorem State.updLaunch_hostLink (l : Word) (f : Launch → Launch) : (s.updLaunch l f).hostLink = s.hostLink := rfl
@[simp] theorem State.updLaunch_atomics (l : Word) (f : Launch → Launch) : (s.updLaunch l f).atomics = s.atomics := rfl
@[simp] theorem State.updLaunch_cluBanks (l : Word) (f : Launch → Launch) : (s.updLaunch l f).cluBanks = s.cluBanks := rfl
@[simp] theorem State.updLaunch_sliceBanks (l : Word) (f : Launch → Launch) : (s.updLaunch l f).sliceBanks = s.sliceBanks := rfl
@[simp] theorem State.updLaunch_mgmt (l : Word) (f : Launch → Launch) : (s.updLaunch l f).mgmt = s.mgmt := rfl
@[simp] theorem State.updLaunch_ckpt (l : Word) (f : Launch → Launch) : (s.updLaunch l f).ckpt = s.ckpt := rfl
@[simp] theorem State.updLaunch_vaultUp (l : Word) (f : Launch → Launch) : (s.updLaunch l f).vaultUp = s.vaultUp := rfl
@[simp] theorem State.updLaunch_vault (l : Word) (f : Launch → Launch) : (s.updLaunch l f).vault = s.vault := rfl
@[simp] theorem State.updLaunch_snapshots (l : Word) (f : Launch → Launch) : (s.updLaunch l f).snapshots = s.snapshots := rfl
@[simp] theorem State.updLaunch_heldItems (l : Word) (f : Launch → Launch) : (s.updLaunch l f).heldItems = s.heldItems := rfl
@[simp] theorem State.updLaunch_tableBinds (l : Word) (f : Launch → Launch) : (s.updLaunch l f).tableBinds = s.tableBinds := rfl
@[simp] theorem State.updLaunch_entryReads (l : Word) (f : Launch → Launch) : (s.updLaunch l f).entryReads = s.entryReads := rfl
@[simp] theorem State.updLaunch_routes (l : Word) (f : Launch → Launch) : (s.updLaunch l f).routes = s.routes := rfl
@[simp] theorem State.updLaunch_hostView (l : Word) (f : Launch → Launch) : (s.updLaunch l f).hostView = s.hostView := rfl
@[simp] theorem State.updLaunch_peerViews (l : Word) (f : Launch → Launch) : (s.updLaunch l f).peerViews = s.peerViews := rfl
@[simp] theorem State.updLaunch_barReply (l : Word) (f : Launch → Launch) : (s.updLaunch l f).barReply = s.barReply := rfl
@[simp] theorem State.updLaunch_sensors (l : Word) (f : Launch → Launch) : (s.updLaunch l f).sensors = s.sensors := rfl
@[simp] theorem State.updLaunch_pendResets (l : Word) (f : Launch → Launch) : (s.updLaunch l f).pendResets = s.pendResets := rfl

/-! ### updThread -/

@[simp] theorem State.updThread_agenda (k t : Nat) (f : ThreadMem → ThreadMem) : (s.updThread k t f).agenda = s.agenda := rfl
@[simp] theorem State.updThread_tick (k t : Nat) (f : ThreadMem → ThreadMem) : (s.updThread k t f).tick = s.tick := rfl
@[simp] theorem State.updThread_args (k t : Nat) (f : ThreadMem → ThreadMem) : (s.updThread k t f).args = s.args := rfl
@[simp] theorem State.updThread_cur (k t : Nat) (f : ThreadMem → ThreadMem) : (s.updThread k t f).cur = s.cur := rfl
@[simp] theorem State.updThread_mem (k t : Nat) (f : ThreadMem → ThreadMem) : (s.updThread k t f).mem = s.mem := rfl
@[simp] theorem State.updThread_orders (k t : Nat) (f : ThreadMem → ThreadMem) : (s.updThread k t f).orders = s.orders := rfl
@[simp] theorem State.updThread_invBroken (k t : Nat) (f : ThreadMem → ThreadMem) : (s.updThread k t f).invBroken = s.invBroken := rfl
@[simp] theorem State.updThread_pubs (k t : Nat) (f : ThreadMem → ThreadMem) : (s.updThread k t f).pubs = s.pubs := rfl
@[simp] theorem State.updThread_binds (k t : Nat) (f : ThreadMem → ThreadMem) : (s.updThread k t f).binds = s.binds := rfl
@[simp] theorem State.updThread_recs (k t : Nat) (f : ThreadMem → ThreadMem) : (s.updThread k t f).recs = s.recs := rfl
@[simp] theorem State.updThread_lists (k t : Nat) (f : ThreadMem → ThreadMem) : (s.updThread k t f).lists = s.lists := rfl
@[simp] theorem State.updThread_nextHand (k t : Nat) (f : ThreadMem → ThreadMem) : (s.updThread k t f).nextHand = s.nextHand := rfl
@[simp] theorem State.updThread_cores (k t : Nat) (f : ThreadMem → ThreadMem) : (s.updThread k t f).cores = s.cores := rfl
@[simp] theorem State.updThread_clusters (k t : Nat) (f : ThreadMem → ThreadMem) : (s.updThread k t f).clusters = s.clusters := rfl
@[simp] theorem State.updThread_copies (k t : Nat) (f : ThreadMem → ThreadMem) : (s.updThread k t f).copies = s.copies := rfl
@[simp] theorem State.updThread_nextCopy (k t : Nat) (f : ThreadMem → ThreadMem) : (s.updThread k t f).nextCopy = s.nextCopy := rfl
@[simp] theorem State.updThread_lineFails (k t : Nat) (f : ThreadMem → ThreadMem) : (s.updThread k t f).lineFails = s.lineFails := rfl
@[simp] theorem State.updThread_slotViews (k t : Nat) (f : ThreadMem → ThreadMem) : (s.updThread k t f).slotViews = s.slotViews := rfl
@[simp] theorem State.updThread_jobs (k t : Nat) (f : ThreadMem → ThreadMem) : (s.updThread k t f).jobs = s.jobs := rfl
@[simp] theorem State.updThread_bbarViews (k t : Nat) (f : ThreadMem → ThreadMem) : (s.updThread k t f).bbarViews = s.bbarViews := rfl
@[simp] theorem State.updThread_dies (k t : Nat) (f : ThreadMem → ThreadMem) : (s.updThread k t f).dies = s.dies := rfl
@[simp] theorem State.updThread_launches (k t : Nat) (f : ThreadMem → ThreadMem) : (s.updThread k t f).launches = s.launches := rfl
@[simp] theorem State.updThread_nextLid (k t : Nat) (f : ThreadMem → ThreadMem) : (s.updThread k t f).nextLid = s.nextLid := rfl
@[simp] theorem State.updThread_ranges (k t : Nat) (f : ThreadMem → ThreadMem) : (s.updThread k t f).ranges = s.ranges := rfl
@[simp] theorem State.updThread_nextRange (k t : Nat) (f : ThreadMem → ThreadMem) : (s.updThread k t f).nextRange = s.nextRange := rfl
@[simp] theorem State.updThread_resolutions (k t : Nat) (f : ThreadMem → ThreadMem) : (s.updThread k t f).resolutions = s.resolutions := rfl
@[simp] theorem State.updThread_retained (k t : Nat) (f : ThreadMem → ThreadMem) : (s.updThread k t f).retained = s.retained := rfl
@[simp] theorem State.updThread_lastRegs (k t : Nat) (f : ThreadMem → ThreadMem) : (s.updThread k t f).lastRegs = s.lastRegs := rfl
@[simp] theorem State.updThread_frontReads (k t : Nat) (f : ThreadMem → ThreadMem) : (s.updThread k t f).frontReads = s.frontReads := rfl
@[simp] theorem State.updThread_queues (k t : Nat) (f : ThreadMem → ThreadMem) : (s.updThread k t f).queues = s.queues := rfl
@[simp] theorem State.updThread_graphs (k t : Nat) (f : ThreadMem → ThreadMem) : (s.updThread k t f).graphs = s.graphs := rfl
@[simp] theorem State.updThread_nextGraph (k t : Nat) (f : ThreadMem → ThreadMem) : (s.updThread k t f).nextGraph = s.nextGraph := rfl
@[simp] theorem State.updThread_heldAdds (k t : Nat) (f : ThreadMem → ThreadMem) : (s.updThread k t f).heldAdds = s.heldAdds := rfl
@[simp] theorem State.updThread_cps (k t : Nat) (f : ThreadMem → ThreadMem) : (s.updThread k t f).cps = s.cps := rfl
@[simp] theorem State.updThread_wake (k t : Nat) (f : ThreadMem → ThreadMem) : (s.updThread k t f).wake = s.wake := rfl
@[simp] theorem State.updThread_tlb (k t : Nat) (f : ThreadMem → ThreadMem) : (s.updThread k t f).tlb = s.tlb := rfl
@[simp] theorem State.updThread_pageReqs (k t : Nat) (f : ThreadMem → ThreadMem) : (s.updThread k t f).pageReqs = s.pageReqs := rfl
@[simp] theorem State.updThread_refusals (k t : Nat) (f : ThreadMem → ThreadMem) : (s.updThread k t f).refusals = s.refusals := rfl
@[simp] theorem State.updThread_peerWin (k t : Nat) (f : ThreadMem → ThreadMem) : (s.updThread k t f).peerWin = s.peerWin := rfl
@[simp] theorem State.updThread_cellWaits (k t : Nat) (f : ThreadMem → ThreadMem) : (s.updThread k t f).cellWaits = s.cellWaits := rfl
@[simp] theorem State.updThread_peerCancels (k t : Nat) (f : ThreadMem → ThreadMem) : (s.updThread k t f).peerCancels = s.peerCancels := rfl
@[simp] theorem State.updThread_parts (k t : Nat) (f : ThreadMem → ThreadMem) : (s.updThread k t f).parts = s.parts := rfl
@[simp] theorem State.updThread_funcs (k t : Nat) (f : ThreadMem → ThreadMem) : (s.updThread k t f).funcs = s.funcs := rfl
@[simp] theorem State.updThread_trans (k t : Nat) (f : ThreadMem → ThreadMem) : (s.updThread k t f).trans = s.trans := rfl
@[simp] theorem State.updThread_debugBox (k t : Nat) (f : ThreadMem → ThreadMem) : (s.updThread k t f).debugBox = s.debugBox := rfl
@[simp] theorem State.updThread_lossBox (k t : Nat) (f : ThreadMem → ThreadMem) : (s.updThread k t f).lossBox = s.lossBox := rfl
@[simp] theorem State.updThread_devNum (k t : Nat) (f : ThreadMem → ThreadMem) : (s.updThread k t f).devNum = s.devNum := rfl
@[simp] theorem State.updThread_ports (k t : Nat) (f : ThreadMem → ThreadMem) : (s.updThread k t f).ports = s.ports := rfl
@[simp] theorem State.updThread_reqs (k t : Nat) (f : ThreadMem → ThreadMem) : (s.updThread k t f).reqs = s.reqs := rfl
@[simp] theorem State.updThread_nextTag (k t : Nat) (f : ThreadMem → ThreadMem) : (s.updThread k t f).nextTag = s.nextTag := rfl
@[simp] theorem State.updThread_hostLink (k t : Nat) (f : ThreadMem → ThreadMem) : (s.updThread k t f).hostLink = s.hostLink := rfl
@[simp] theorem State.updThread_atomics (k t : Nat) (f : ThreadMem → ThreadMem) : (s.updThread k t f).atomics = s.atomics := rfl
@[simp] theorem State.updThread_cluBanks (k t : Nat) (f : ThreadMem → ThreadMem) : (s.updThread k t f).cluBanks = s.cluBanks := rfl
@[simp] theorem State.updThread_sliceBanks (k t : Nat) (f : ThreadMem → ThreadMem) : (s.updThread k t f).sliceBanks = s.sliceBanks := rfl
@[simp] theorem State.updThread_mgmt (k t : Nat) (f : ThreadMem → ThreadMem) : (s.updThread k t f).mgmt = s.mgmt := rfl
@[simp] theorem State.updThread_ckpt (k t : Nat) (f : ThreadMem → ThreadMem) : (s.updThread k t f).ckpt = s.ckpt := rfl
@[simp] theorem State.updThread_vaultUp (k t : Nat) (f : ThreadMem → ThreadMem) : (s.updThread k t f).vaultUp = s.vaultUp := rfl
@[simp] theorem State.updThread_vault (k t : Nat) (f : ThreadMem → ThreadMem) : (s.updThread k t f).vault = s.vault := rfl
@[simp] theorem State.updThread_snapshots (k t : Nat) (f : ThreadMem → ThreadMem) : (s.updThread k t f).snapshots = s.snapshots := rfl
@[simp] theorem State.updThread_heldItems (k t : Nat) (f : ThreadMem → ThreadMem) : (s.updThread k t f).heldItems = s.heldItems := rfl
@[simp] theorem State.updThread_tableBinds (k t : Nat) (f : ThreadMem → ThreadMem) : (s.updThread k t f).tableBinds = s.tableBinds := rfl
@[simp] theorem State.updThread_entryReads (k t : Nat) (f : ThreadMem → ThreadMem) : (s.updThread k t f).entryReads = s.entryReads := rfl
@[simp] theorem State.updThread_routes (k t : Nat) (f : ThreadMem → ThreadMem) : (s.updThread k t f).routes = s.routes := rfl
@[simp] theorem State.updThread_hostView (k t : Nat) (f : ThreadMem → ThreadMem) : (s.updThread k t f).hostView = s.hostView := rfl
@[simp] theorem State.updThread_peerViews (k t : Nat) (f : ThreadMem → ThreadMem) : (s.updThread k t f).peerViews = s.peerViews := rfl
@[simp] theorem State.updThread_barReply (k t : Nat) (f : ThreadMem → ThreadMem) : (s.updThread k t f).barReply = s.barReply := rfl
@[simp] theorem State.updThread_sensors (k t : Nat) (f : ThreadMem → ThreadMem) : (s.updThread k t f).sensors = s.sensors := rfl
@[simp] theorem State.updThread_pendResets (k t : Nat) (f : ThreadMem → ThreadMem) : (s.updThread k t f).pendResets = s.pendResets := rfl

/-! ### updOutst -/

@[simp] theorem State.updOutst_agenda (k id : Nat) (f : Outst → Outst) : (s.updOutst k id f).agenda = s.agenda := rfl
@[simp] theorem State.updOutst_tick (k id : Nat) (f : Outst → Outst) : (s.updOutst k id f).tick = s.tick := rfl
@[simp] theorem State.updOutst_args (k id : Nat) (f : Outst → Outst) : (s.updOutst k id f).args = s.args := rfl
@[simp] theorem State.updOutst_cur (k id : Nat) (f : Outst → Outst) : (s.updOutst k id f).cur = s.cur := rfl
@[simp] theorem State.updOutst_mem (k id : Nat) (f : Outst → Outst) : (s.updOutst k id f).mem = s.mem := rfl
@[simp] theorem State.updOutst_orders (k id : Nat) (f : Outst → Outst) : (s.updOutst k id f).orders = s.orders := rfl
@[simp] theorem State.updOutst_invBroken (k id : Nat) (f : Outst → Outst) : (s.updOutst k id f).invBroken = s.invBroken := rfl
@[simp] theorem State.updOutst_pubs (k id : Nat) (f : Outst → Outst) : (s.updOutst k id f).pubs = s.pubs := rfl
@[simp] theorem State.updOutst_binds (k id : Nat) (f : Outst → Outst) : (s.updOutst k id f).binds = s.binds := rfl
@[simp] theorem State.updOutst_recs (k id : Nat) (f : Outst → Outst) : (s.updOutst k id f).recs = s.recs := rfl
@[simp] theorem State.updOutst_lists (k id : Nat) (f : Outst → Outst) : (s.updOutst k id f).lists = s.lists := rfl
@[simp] theorem State.updOutst_nextHand (k id : Nat) (f : Outst → Outst) : (s.updOutst k id f).nextHand = s.nextHand := rfl
@[simp] theorem State.updOutst_cores (k id : Nat) (f : Outst → Outst) : (s.updOutst k id f).cores = s.cores := rfl
@[simp] theorem State.updOutst_clusters (k id : Nat) (f : Outst → Outst) : (s.updOutst k id f).clusters = s.clusters := rfl
@[simp] theorem State.updOutst_copies (k id : Nat) (f : Outst → Outst) : (s.updOutst k id f).copies = s.copies := rfl
@[simp] theorem State.updOutst_nextCopy (k id : Nat) (f : Outst → Outst) : (s.updOutst k id f).nextCopy = s.nextCopy := rfl
@[simp] theorem State.updOutst_lineFails (k id : Nat) (f : Outst → Outst) : (s.updOutst k id f).lineFails = s.lineFails := rfl
@[simp] theorem State.updOutst_slotViews (k id : Nat) (f : Outst → Outst) : (s.updOutst k id f).slotViews = s.slotViews := rfl
@[simp] theorem State.updOutst_jobs (k id : Nat) (f : Outst → Outst) : (s.updOutst k id f).jobs = s.jobs := rfl
@[simp] theorem State.updOutst_bbarViews (k id : Nat) (f : Outst → Outst) : (s.updOutst k id f).bbarViews = s.bbarViews := rfl
@[simp] theorem State.updOutst_dies (k id : Nat) (f : Outst → Outst) : (s.updOutst k id f).dies = s.dies := rfl
@[simp] theorem State.updOutst_launches (k id : Nat) (f : Outst → Outst) : (s.updOutst k id f).launches = s.launches := rfl
@[simp] theorem State.updOutst_nextLid (k id : Nat) (f : Outst → Outst) : (s.updOutst k id f).nextLid = s.nextLid := rfl
@[simp] theorem State.updOutst_ranges (k id : Nat) (f : Outst → Outst) : (s.updOutst k id f).ranges = s.ranges := rfl
@[simp] theorem State.updOutst_nextRange (k id : Nat) (f : Outst → Outst) : (s.updOutst k id f).nextRange = s.nextRange := rfl
@[simp] theorem State.updOutst_resolutions (k id : Nat) (f : Outst → Outst) : (s.updOutst k id f).resolutions = s.resolutions := rfl
@[simp] theorem State.updOutst_retained (k id : Nat) (f : Outst → Outst) : (s.updOutst k id f).retained = s.retained := rfl
@[simp] theorem State.updOutst_lastRegs (k id : Nat) (f : Outst → Outst) : (s.updOutst k id f).lastRegs = s.lastRegs := rfl
@[simp] theorem State.updOutst_frontReads (k id : Nat) (f : Outst → Outst) : (s.updOutst k id f).frontReads = s.frontReads := rfl
@[simp] theorem State.updOutst_queues (k id : Nat) (f : Outst → Outst) : (s.updOutst k id f).queues = s.queues := rfl
@[simp] theorem State.updOutst_graphs (k id : Nat) (f : Outst → Outst) : (s.updOutst k id f).graphs = s.graphs := rfl
@[simp] theorem State.updOutst_nextGraph (k id : Nat) (f : Outst → Outst) : (s.updOutst k id f).nextGraph = s.nextGraph := rfl
@[simp] theorem State.updOutst_heldAdds (k id : Nat) (f : Outst → Outst) : (s.updOutst k id f).heldAdds = s.heldAdds := rfl
@[simp] theorem State.updOutst_cps (k id : Nat) (f : Outst → Outst) : (s.updOutst k id f).cps = s.cps := rfl
@[simp] theorem State.updOutst_wake (k id : Nat) (f : Outst → Outst) : (s.updOutst k id f).wake = s.wake := rfl
@[simp] theorem State.updOutst_tlb (k id : Nat) (f : Outst → Outst) : (s.updOutst k id f).tlb = s.tlb := rfl
@[simp] theorem State.updOutst_pageReqs (k id : Nat) (f : Outst → Outst) : (s.updOutst k id f).pageReqs = s.pageReqs := rfl
@[simp] theorem State.updOutst_refusals (k id : Nat) (f : Outst → Outst) : (s.updOutst k id f).refusals = s.refusals := rfl
@[simp] theorem State.updOutst_peerWin (k id : Nat) (f : Outst → Outst) : (s.updOutst k id f).peerWin = s.peerWin := rfl
@[simp] theorem State.updOutst_cellWaits (k id : Nat) (f : Outst → Outst) : (s.updOutst k id f).cellWaits = s.cellWaits := rfl
@[simp] theorem State.updOutst_peerCancels (k id : Nat) (f : Outst → Outst) : (s.updOutst k id f).peerCancels = s.peerCancels := rfl
@[simp] theorem State.updOutst_parts (k id : Nat) (f : Outst → Outst) : (s.updOutst k id f).parts = s.parts := rfl
@[simp] theorem State.updOutst_funcs (k id : Nat) (f : Outst → Outst) : (s.updOutst k id f).funcs = s.funcs := rfl
@[simp] theorem State.updOutst_trans (k id : Nat) (f : Outst → Outst) : (s.updOutst k id f).trans = s.trans := rfl
@[simp] theorem State.updOutst_debugBox (k id : Nat) (f : Outst → Outst) : (s.updOutst k id f).debugBox = s.debugBox := rfl
@[simp] theorem State.updOutst_lossBox (k id : Nat) (f : Outst → Outst) : (s.updOutst k id f).lossBox = s.lossBox := rfl
@[simp] theorem State.updOutst_devNum (k id : Nat) (f : Outst → Outst) : (s.updOutst k id f).devNum = s.devNum := rfl
@[simp] theorem State.updOutst_ports (k id : Nat) (f : Outst → Outst) : (s.updOutst k id f).ports = s.ports := rfl
@[simp] theorem State.updOutst_reqs (k id : Nat) (f : Outst → Outst) : (s.updOutst k id f).reqs = s.reqs := rfl
@[simp] theorem State.updOutst_nextTag (k id : Nat) (f : Outst → Outst) : (s.updOutst k id f).nextTag = s.nextTag := rfl
@[simp] theorem State.updOutst_hostLink (k id : Nat) (f : Outst → Outst) : (s.updOutst k id f).hostLink = s.hostLink := rfl
@[simp] theorem State.updOutst_atomics (k id : Nat) (f : Outst → Outst) : (s.updOutst k id f).atomics = s.atomics := rfl
@[simp] theorem State.updOutst_cluBanks (k id : Nat) (f : Outst → Outst) : (s.updOutst k id f).cluBanks = s.cluBanks := rfl
@[simp] theorem State.updOutst_sliceBanks (k id : Nat) (f : Outst → Outst) : (s.updOutst k id f).sliceBanks = s.sliceBanks := rfl
@[simp] theorem State.updOutst_mgmt (k id : Nat) (f : Outst → Outst) : (s.updOutst k id f).mgmt = s.mgmt := rfl
@[simp] theorem State.updOutst_ckpt (k id : Nat) (f : Outst → Outst) : (s.updOutst k id f).ckpt = s.ckpt := rfl
@[simp] theorem State.updOutst_vaultUp (k id : Nat) (f : Outst → Outst) : (s.updOutst k id f).vaultUp = s.vaultUp := rfl
@[simp] theorem State.updOutst_vault (k id : Nat) (f : Outst → Outst) : (s.updOutst k id f).vault = s.vault := rfl
@[simp] theorem State.updOutst_snapshots (k id : Nat) (f : Outst → Outst) : (s.updOutst k id f).snapshots = s.snapshots := rfl
@[simp] theorem State.updOutst_heldItems (k id : Nat) (f : Outst → Outst) : (s.updOutst k id f).heldItems = s.heldItems := rfl
@[simp] theorem State.updOutst_tableBinds (k id : Nat) (f : Outst → Outst) : (s.updOutst k id f).tableBinds = s.tableBinds := rfl
@[simp] theorem State.updOutst_entryReads (k id : Nat) (f : Outst → Outst) : (s.updOutst k id f).entryReads = s.entryReads := rfl
@[simp] theorem State.updOutst_routes (k id : Nat) (f : Outst → Outst) : (s.updOutst k id f).routes = s.routes := rfl
@[simp] theorem State.updOutst_hostView (k id : Nat) (f : Outst → Outst) : (s.updOutst k id f).hostView = s.hostView := rfl
@[simp] theorem State.updOutst_peerViews (k id : Nat) (f : Outst → Outst) : (s.updOutst k id f).peerViews = s.peerViews := rfl
@[simp] theorem State.updOutst_barReply (k id : Nat) (f : Outst → Outst) : (s.updOutst k id f).barReply = s.barReply := rfl
@[simp] theorem State.updOutst_sensors (k id : Nat) (f : Outst → Outst) : (s.updOutst k id f).sensors = s.sensors := rfl
@[simp] theorem State.updOutst_pendResets (k id : Nat) (f : Outst → Outst) : (s.updOutst k id f).pendResets = s.pendResets := rfl

/-! ### updQueue -/

@[simp] theorem State.updQueue_agenda (q : Nat × Nat) (f : Queue → Queue) : (s.updQueue q f).agenda = s.agenda := rfl
@[simp] theorem State.updQueue_tick (q : Nat × Nat) (f : Queue → Queue) : (s.updQueue q f).tick = s.tick := rfl
@[simp] theorem State.updQueue_args (q : Nat × Nat) (f : Queue → Queue) : (s.updQueue q f).args = s.args := rfl
@[simp] theorem State.updQueue_cur (q : Nat × Nat) (f : Queue → Queue) : (s.updQueue q f).cur = s.cur := rfl
@[simp] theorem State.updQueue_mem (q : Nat × Nat) (f : Queue → Queue) : (s.updQueue q f).mem = s.mem := rfl
@[simp] theorem State.updQueue_orders (q : Nat × Nat) (f : Queue → Queue) : (s.updQueue q f).orders = s.orders := rfl
@[simp] theorem State.updQueue_invBroken (q : Nat × Nat) (f : Queue → Queue) : (s.updQueue q f).invBroken = s.invBroken := rfl
@[simp] theorem State.updQueue_pubs (q : Nat × Nat) (f : Queue → Queue) : (s.updQueue q f).pubs = s.pubs := rfl
@[simp] theorem State.updQueue_binds (q : Nat × Nat) (f : Queue → Queue) : (s.updQueue q f).binds = s.binds := rfl
@[simp] theorem State.updQueue_recs (q : Nat × Nat) (f : Queue → Queue) : (s.updQueue q f).recs = s.recs := rfl
@[simp] theorem State.updQueue_lists (q : Nat × Nat) (f : Queue → Queue) : (s.updQueue q f).lists = s.lists := rfl
@[simp] theorem State.updQueue_hands (q : Nat × Nat) (f : Queue → Queue) : (s.updQueue q f).hands = s.hands := rfl
@[simp] theorem State.updQueue_nextHand (q : Nat × Nat) (f : Queue → Queue) : (s.updQueue q f).nextHand = s.nextHand := rfl
@[simp] theorem State.updQueue_cores (q : Nat × Nat) (f : Queue → Queue) : (s.updQueue q f).cores = s.cores := rfl
@[simp] theorem State.updQueue_clusters (q : Nat × Nat) (f : Queue → Queue) : (s.updQueue q f).clusters = s.clusters := rfl
@[simp] theorem State.updQueue_copies (q : Nat × Nat) (f : Queue → Queue) : (s.updQueue q f).copies = s.copies := rfl
@[simp] theorem State.updQueue_nextCopy (q : Nat × Nat) (f : Queue → Queue) : (s.updQueue q f).nextCopy = s.nextCopy := rfl
@[simp] theorem State.updQueue_lineFails (q : Nat × Nat) (f : Queue → Queue) : (s.updQueue q f).lineFails = s.lineFails := rfl
@[simp] theorem State.updQueue_slotViews (q : Nat × Nat) (f : Queue → Queue) : (s.updQueue q f).slotViews = s.slotViews := rfl
@[simp] theorem State.updQueue_jobs (q : Nat × Nat) (f : Queue → Queue) : (s.updQueue q f).jobs = s.jobs := rfl
@[simp] theorem State.updQueue_bbarViews (q : Nat × Nat) (f : Queue → Queue) : (s.updQueue q f).bbarViews = s.bbarViews := rfl
@[simp] theorem State.updQueue_dies (q : Nat × Nat) (f : Queue → Queue) : (s.updQueue q f).dies = s.dies := rfl
@[simp] theorem State.updQueue_launches (q : Nat × Nat) (f : Queue → Queue) : (s.updQueue q f).launches = s.launches := rfl
@[simp] theorem State.updQueue_nextLid (q : Nat × Nat) (f : Queue → Queue) : (s.updQueue q f).nextLid = s.nextLid := rfl
@[simp] theorem State.updQueue_ranges (q : Nat × Nat) (f : Queue → Queue) : (s.updQueue q f).ranges = s.ranges := rfl
@[simp] theorem State.updQueue_nextRange (q : Nat × Nat) (f : Queue → Queue) : (s.updQueue q f).nextRange = s.nextRange := rfl
@[simp] theorem State.updQueue_resolutions (q : Nat × Nat) (f : Queue → Queue) : (s.updQueue q f).resolutions = s.resolutions := rfl
@[simp] theorem State.updQueue_retained (q : Nat × Nat) (f : Queue → Queue) : (s.updQueue q f).retained = s.retained := rfl
@[simp] theorem State.updQueue_lastRegs (q : Nat × Nat) (f : Queue → Queue) : (s.updQueue q f).lastRegs = s.lastRegs := rfl
@[simp] theorem State.updQueue_frontReads (q : Nat × Nat) (f : Queue → Queue) : (s.updQueue q f).frontReads = s.frontReads := rfl
@[simp] theorem State.updQueue_graphs (q : Nat × Nat) (f : Queue → Queue) : (s.updQueue q f).graphs = s.graphs := rfl
@[simp] theorem State.updQueue_nextGraph (q : Nat × Nat) (f : Queue → Queue) : (s.updQueue q f).nextGraph = s.nextGraph := rfl
@[simp] theorem State.updQueue_heldAdds (q : Nat × Nat) (f : Queue → Queue) : (s.updQueue q f).heldAdds = s.heldAdds := rfl
@[simp] theorem State.updQueue_cps (q : Nat × Nat) (f : Queue → Queue) : (s.updQueue q f).cps = s.cps := rfl
@[simp] theorem State.updQueue_wake (q : Nat × Nat) (f : Queue → Queue) : (s.updQueue q f).wake = s.wake := rfl
@[simp] theorem State.updQueue_tlb (q : Nat × Nat) (f : Queue → Queue) : (s.updQueue q f).tlb = s.tlb := rfl
@[simp] theorem State.updQueue_pageReqs (q : Nat × Nat) (f : Queue → Queue) : (s.updQueue q f).pageReqs = s.pageReqs := rfl
@[simp] theorem State.updQueue_refusals (q : Nat × Nat) (f : Queue → Queue) : (s.updQueue q f).refusals = s.refusals := rfl
@[simp] theorem State.updQueue_peerWin (q : Nat × Nat) (f : Queue → Queue) : (s.updQueue q f).peerWin = s.peerWin := rfl
@[simp] theorem State.updQueue_cellWaits (q : Nat × Nat) (f : Queue → Queue) : (s.updQueue q f).cellWaits = s.cellWaits := rfl
@[simp] theorem State.updQueue_peerCancels (q : Nat × Nat) (f : Queue → Queue) : (s.updQueue q f).peerCancels = s.peerCancels := rfl
@[simp] theorem State.updQueue_parts (q : Nat × Nat) (f : Queue → Queue) : (s.updQueue q f).parts = s.parts := rfl
@[simp] theorem State.updQueue_funcs (q : Nat × Nat) (f : Queue → Queue) : (s.updQueue q f).funcs = s.funcs := rfl
@[simp] theorem State.updQueue_trans (q : Nat × Nat) (f : Queue → Queue) : (s.updQueue q f).trans = s.trans := rfl
@[simp] theorem State.updQueue_debugBox (q : Nat × Nat) (f : Queue → Queue) : (s.updQueue q f).debugBox = s.debugBox := rfl
@[simp] theorem State.updQueue_lossBox (q : Nat × Nat) (f : Queue → Queue) : (s.updQueue q f).lossBox = s.lossBox := rfl
@[simp] theorem State.updQueue_devNum (q : Nat × Nat) (f : Queue → Queue) : (s.updQueue q f).devNum = s.devNum := rfl
@[simp] theorem State.updQueue_ports (q : Nat × Nat) (f : Queue → Queue) : (s.updQueue q f).ports = s.ports := rfl
@[simp] theorem State.updQueue_reqs (q : Nat × Nat) (f : Queue → Queue) : (s.updQueue q f).reqs = s.reqs := rfl
@[simp] theorem State.updQueue_nextTag (q : Nat × Nat) (f : Queue → Queue) : (s.updQueue q f).nextTag = s.nextTag := rfl
@[simp] theorem State.updQueue_hostLink (q : Nat × Nat) (f : Queue → Queue) : (s.updQueue q f).hostLink = s.hostLink := rfl
@[simp] theorem State.updQueue_atomics (q : Nat × Nat) (f : Queue → Queue) : (s.updQueue q f).atomics = s.atomics := rfl
@[simp] theorem State.updQueue_cluBanks (q : Nat × Nat) (f : Queue → Queue) : (s.updQueue q f).cluBanks = s.cluBanks := rfl
@[simp] theorem State.updQueue_sliceBanks (q : Nat × Nat) (f : Queue → Queue) : (s.updQueue q f).sliceBanks = s.sliceBanks := rfl
@[simp] theorem State.updQueue_mgmt (q : Nat × Nat) (f : Queue → Queue) : (s.updQueue q f).mgmt = s.mgmt := rfl
@[simp] theorem State.updQueue_ckpt (q : Nat × Nat) (f : Queue → Queue) : (s.updQueue q f).ckpt = s.ckpt := rfl
@[simp] theorem State.updQueue_vaultUp (q : Nat × Nat) (f : Queue → Queue) : (s.updQueue q f).vaultUp = s.vaultUp := rfl
@[simp] theorem State.updQueue_vault (q : Nat × Nat) (f : Queue → Queue) : (s.updQueue q f).vault = s.vault := rfl
@[simp] theorem State.updQueue_snapshots (q : Nat × Nat) (f : Queue → Queue) : (s.updQueue q f).snapshots = s.snapshots := rfl
@[simp] theorem State.updQueue_heldItems (q : Nat × Nat) (f : Queue → Queue) : (s.updQueue q f).heldItems = s.heldItems := rfl
@[simp] theorem State.updQueue_tableBinds (q : Nat × Nat) (f : Queue → Queue) : (s.updQueue q f).tableBinds = s.tableBinds := rfl
@[simp] theorem State.updQueue_entryReads (q : Nat × Nat) (f : Queue → Queue) : (s.updQueue q f).entryReads = s.entryReads := rfl
@[simp] theorem State.updQueue_routes (q : Nat × Nat) (f : Queue → Queue) : (s.updQueue q f).routes = s.routes := rfl
@[simp] theorem State.updQueue_hostView (q : Nat × Nat) (f : Queue → Queue) : (s.updQueue q f).hostView = s.hostView := rfl
@[simp] theorem State.updQueue_peerViews (q : Nat × Nat) (f : Queue → Queue) : (s.updQueue q f).peerViews = s.peerViews := rfl
@[simp] theorem State.updQueue_barReply (q : Nat × Nat) (f : Queue → Queue) : (s.updQueue q f).barReply = s.barReply := rfl
@[simp] theorem State.updQueue_sensors (q : Nat × Nat) (f : Queue → Queue) : (s.updQueue q f).sensors = s.sensors := rfl
@[simp] theorem State.updQueue_pendResets (q : Nat × Nat) (f : Queue → Queue) : (s.updQueue q f).pendResets = s.pendResets := rfl

/-! ### updRec -/

@[simp] theorem State.updRec_agenda (t : Nat) (f : AnnRec → AnnRec) : (s.updRec t f).agenda = s.agenda := rfl
@[simp] theorem State.updRec_tick (t : Nat) (f : AnnRec → AnnRec) : (s.updRec t f).tick = s.tick := rfl
@[simp] theorem State.updRec_args (t : Nat) (f : AnnRec → AnnRec) : (s.updRec t f).args = s.args := rfl
@[simp] theorem State.updRec_cur (t : Nat) (f : AnnRec → AnnRec) : (s.updRec t f).cur = s.cur := rfl
@[simp] theorem State.updRec_mem (t : Nat) (f : AnnRec → AnnRec) : (s.updRec t f).mem = s.mem := rfl
@[simp] theorem State.updRec_orders (t : Nat) (f : AnnRec → AnnRec) : (s.updRec t f).orders = s.orders := rfl
@[simp] theorem State.updRec_invBroken (t : Nat) (f : AnnRec → AnnRec) : (s.updRec t f).invBroken = s.invBroken := rfl
@[simp] theorem State.updRec_pubs (t : Nat) (f : AnnRec → AnnRec) : (s.updRec t f).pubs = s.pubs := rfl
@[simp] theorem State.updRec_binds (t : Nat) (f : AnnRec → AnnRec) : (s.updRec t f).binds = s.binds := rfl
@[simp] theorem State.updRec_lists (t : Nat) (f : AnnRec → AnnRec) : (s.updRec t f).lists = s.lists := rfl
@[simp] theorem State.updRec_hands (t : Nat) (f : AnnRec → AnnRec) : (s.updRec t f).hands = s.hands := rfl
@[simp] theorem State.updRec_nextHand (t : Nat) (f : AnnRec → AnnRec) : (s.updRec t f).nextHand = s.nextHand := rfl
@[simp] theorem State.updRec_cores (t : Nat) (f : AnnRec → AnnRec) : (s.updRec t f).cores = s.cores := rfl
@[simp] theorem State.updRec_clusters (t : Nat) (f : AnnRec → AnnRec) : (s.updRec t f).clusters = s.clusters := rfl
@[simp] theorem State.updRec_copies (t : Nat) (f : AnnRec → AnnRec) : (s.updRec t f).copies = s.copies := rfl
@[simp] theorem State.updRec_nextCopy (t : Nat) (f : AnnRec → AnnRec) : (s.updRec t f).nextCopy = s.nextCopy := rfl
@[simp] theorem State.updRec_lineFails (t : Nat) (f : AnnRec → AnnRec) : (s.updRec t f).lineFails = s.lineFails := rfl
@[simp] theorem State.updRec_slotViews (t : Nat) (f : AnnRec → AnnRec) : (s.updRec t f).slotViews = s.slotViews := rfl
@[simp] theorem State.updRec_jobs (t : Nat) (f : AnnRec → AnnRec) : (s.updRec t f).jobs = s.jobs := rfl
@[simp] theorem State.updRec_bbarViews (t : Nat) (f : AnnRec → AnnRec) : (s.updRec t f).bbarViews = s.bbarViews := rfl
@[simp] theorem State.updRec_dies (t : Nat) (f : AnnRec → AnnRec) : (s.updRec t f).dies = s.dies := rfl
@[simp] theorem State.updRec_launches (t : Nat) (f : AnnRec → AnnRec) : (s.updRec t f).launches = s.launches := rfl
@[simp] theorem State.updRec_nextLid (t : Nat) (f : AnnRec → AnnRec) : (s.updRec t f).nextLid = s.nextLid := rfl
@[simp] theorem State.updRec_ranges (t : Nat) (f : AnnRec → AnnRec) : (s.updRec t f).ranges = s.ranges := rfl
@[simp] theorem State.updRec_nextRange (t : Nat) (f : AnnRec → AnnRec) : (s.updRec t f).nextRange = s.nextRange := rfl
@[simp] theorem State.updRec_resolutions (t : Nat) (f : AnnRec → AnnRec) : (s.updRec t f).resolutions = s.resolutions := rfl
@[simp] theorem State.updRec_retained (t : Nat) (f : AnnRec → AnnRec) : (s.updRec t f).retained = s.retained := rfl
@[simp] theorem State.updRec_lastRegs (t : Nat) (f : AnnRec → AnnRec) : (s.updRec t f).lastRegs = s.lastRegs := rfl
@[simp] theorem State.updRec_frontReads (t : Nat) (f : AnnRec → AnnRec) : (s.updRec t f).frontReads = s.frontReads := rfl
@[simp] theorem State.updRec_queues (t : Nat) (f : AnnRec → AnnRec) : (s.updRec t f).queues = s.queues := rfl
@[simp] theorem State.updRec_graphs (t : Nat) (f : AnnRec → AnnRec) : (s.updRec t f).graphs = s.graphs := rfl
@[simp] theorem State.updRec_nextGraph (t : Nat) (f : AnnRec → AnnRec) : (s.updRec t f).nextGraph = s.nextGraph := rfl
@[simp] theorem State.updRec_heldAdds (t : Nat) (f : AnnRec → AnnRec) : (s.updRec t f).heldAdds = s.heldAdds := rfl
@[simp] theorem State.updRec_cps (t : Nat) (f : AnnRec → AnnRec) : (s.updRec t f).cps = s.cps := rfl
@[simp] theorem State.updRec_wake (t : Nat) (f : AnnRec → AnnRec) : (s.updRec t f).wake = s.wake := rfl
@[simp] theorem State.updRec_tlb (t : Nat) (f : AnnRec → AnnRec) : (s.updRec t f).tlb = s.tlb := rfl
@[simp] theorem State.updRec_pageReqs (t : Nat) (f : AnnRec → AnnRec) : (s.updRec t f).pageReqs = s.pageReqs := rfl
@[simp] theorem State.updRec_refusals (t : Nat) (f : AnnRec → AnnRec) : (s.updRec t f).refusals = s.refusals := rfl
@[simp] theorem State.updRec_peerWin (t : Nat) (f : AnnRec → AnnRec) : (s.updRec t f).peerWin = s.peerWin := rfl
@[simp] theorem State.updRec_cellWaits (t : Nat) (f : AnnRec → AnnRec) : (s.updRec t f).cellWaits = s.cellWaits := rfl
@[simp] theorem State.updRec_peerCancels (t : Nat) (f : AnnRec → AnnRec) : (s.updRec t f).peerCancels = s.peerCancels := rfl
@[simp] theorem State.updRec_parts (t : Nat) (f : AnnRec → AnnRec) : (s.updRec t f).parts = s.parts := rfl
@[simp] theorem State.updRec_funcs (t : Nat) (f : AnnRec → AnnRec) : (s.updRec t f).funcs = s.funcs := rfl
@[simp] theorem State.updRec_trans (t : Nat) (f : AnnRec → AnnRec) : (s.updRec t f).trans = s.trans := rfl
@[simp] theorem State.updRec_debugBox (t : Nat) (f : AnnRec → AnnRec) : (s.updRec t f).debugBox = s.debugBox := rfl
@[simp] theorem State.updRec_lossBox (t : Nat) (f : AnnRec → AnnRec) : (s.updRec t f).lossBox = s.lossBox := rfl
@[simp] theorem State.updRec_devNum (t : Nat) (f : AnnRec → AnnRec) : (s.updRec t f).devNum = s.devNum := rfl
@[simp] theorem State.updRec_ports (t : Nat) (f : AnnRec → AnnRec) : (s.updRec t f).ports = s.ports := rfl
@[simp] theorem State.updRec_reqs (t : Nat) (f : AnnRec → AnnRec) : (s.updRec t f).reqs = s.reqs := rfl
@[simp] theorem State.updRec_nextTag (t : Nat) (f : AnnRec → AnnRec) : (s.updRec t f).nextTag = s.nextTag := rfl
@[simp] theorem State.updRec_hostLink (t : Nat) (f : AnnRec → AnnRec) : (s.updRec t f).hostLink = s.hostLink := rfl
@[simp] theorem State.updRec_atomics (t : Nat) (f : AnnRec → AnnRec) : (s.updRec t f).atomics = s.atomics := rfl
@[simp] theorem State.updRec_cluBanks (t : Nat) (f : AnnRec → AnnRec) : (s.updRec t f).cluBanks = s.cluBanks := rfl
@[simp] theorem State.updRec_sliceBanks (t : Nat) (f : AnnRec → AnnRec) : (s.updRec t f).sliceBanks = s.sliceBanks := rfl
@[simp] theorem State.updRec_mgmt (t : Nat) (f : AnnRec → AnnRec) : (s.updRec t f).mgmt = s.mgmt := rfl
@[simp] theorem State.updRec_ckpt (t : Nat) (f : AnnRec → AnnRec) : (s.updRec t f).ckpt = s.ckpt := rfl
@[simp] theorem State.updRec_vaultUp (t : Nat) (f : AnnRec → AnnRec) : (s.updRec t f).vaultUp = s.vaultUp := rfl
@[simp] theorem State.updRec_vault (t : Nat) (f : AnnRec → AnnRec) : (s.updRec t f).vault = s.vault := rfl
@[simp] theorem State.updRec_snapshots (t : Nat) (f : AnnRec → AnnRec) : (s.updRec t f).snapshots = s.snapshots := rfl
@[simp] theorem State.updRec_heldItems (t : Nat) (f : AnnRec → AnnRec) : (s.updRec t f).heldItems = s.heldItems := rfl
@[simp] theorem State.updRec_tableBinds (t : Nat) (f : AnnRec → AnnRec) : (s.updRec t f).tableBinds = s.tableBinds := rfl
@[simp] theorem State.updRec_entryReads (t : Nat) (f : AnnRec → AnnRec) : (s.updRec t f).entryReads = s.entryReads := rfl
@[simp] theorem State.updRec_routes (t : Nat) (f : AnnRec → AnnRec) : (s.updRec t f).routes = s.routes := rfl
@[simp] theorem State.updRec_hostView (t : Nat) (f : AnnRec → AnnRec) : (s.updRec t f).hostView = s.hostView := rfl
@[simp] theorem State.updRec_peerViews (t : Nat) (f : AnnRec → AnnRec) : (s.updRec t f).peerViews = s.peerViews := rfl
@[simp] theorem State.updRec_barReply (t : Nat) (f : AnnRec → AnnRec) : (s.updRec t f).barReply = s.barReply := rfl
@[simp] theorem State.updRec_sensors (t : Nat) (f : AnnRec → AnnRec) : (s.updRec t f).sensors = s.sensors := rfl
@[simp] theorem State.updRec_pendResets (t : Nat) (f : AnnRec → AnnRec) : (s.updRec t f).pendResets = s.pendResets := rfl

/-! ### updPort -/

@[simp] theorem State.updPort_agenda (p : Nat) (f : Port → Port) : (s.updPort p f).agenda = s.agenda := rfl
@[simp] theorem State.updPort_tick (p : Nat) (f : Port → Port) : (s.updPort p f).tick = s.tick := rfl
@[simp] theorem State.updPort_args (p : Nat) (f : Port → Port) : (s.updPort p f).args = s.args := rfl
@[simp] theorem State.updPort_cur (p : Nat) (f : Port → Port) : (s.updPort p f).cur = s.cur := rfl
@[simp] theorem State.updPort_mem (p : Nat) (f : Port → Port) : (s.updPort p f).mem = s.mem := rfl
@[simp] theorem State.updPort_orders (p : Nat) (f : Port → Port) : (s.updPort p f).orders = s.orders := rfl
@[simp] theorem State.updPort_invBroken (p : Nat) (f : Port → Port) : (s.updPort p f).invBroken = s.invBroken := rfl
@[simp] theorem State.updPort_pubs (p : Nat) (f : Port → Port) : (s.updPort p f).pubs = s.pubs := rfl
@[simp] theorem State.updPort_binds (p : Nat) (f : Port → Port) : (s.updPort p f).binds = s.binds := rfl
@[simp] theorem State.updPort_recs (p : Nat) (f : Port → Port) : (s.updPort p f).recs = s.recs := rfl
@[simp] theorem State.updPort_lists (p : Nat) (f : Port → Port) : (s.updPort p f).lists = s.lists := rfl
@[simp] theorem State.updPort_hands (p : Nat) (f : Port → Port) : (s.updPort p f).hands = s.hands := rfl
@[simp] theorem State.updPort_nextHand (p : Nat) (f : Port → Port) : (s.updPort p f).nextHand = s.nextHand := rfl
@[simp] theorem State.updPort_cores (p : Nat) (f : Port → Port) : (s.updPort p f).cores = s.cores := rfl
@[simp] theorem State.updPort_clusters (p : Nat) (f : Port → Port) : (s.updPort p f).clusters = s.clusters := rfl
@[simp] theorem State.updPort_copies (p : Nat) (f : Port → Port) : (s.updPort p f).copies = s.copies := rfl
@[simp] theorem State.updPort_nextCopy (p : Nat) (f : Port → Port) : (s.updPort p f).nextCopy = s.nextCopy := rfl
@[simp] theorem State.updPort_lineFails (p : Nat) (f : Port → Port) : (s.updPort p f).lineFails = s.lineFails := rfl
@[simp] theorem State.updPort_slotViews (p : Nat) (f : Port → Port) : (s.updPort p f).slotViews = s.slotViews := rfl
@[simp] theorem State.updPort_jobs (p : Nat) (f : Port → Port) : (s.updPort p f).jobs = s.jobs := rfl
@[simp] theorem State.updPort_bbarViews (p : Nat) (f : Port → Port) : (s.updPort p f).bbarViews = s.bbarViews := rfl
@[simp] theorem State.updPort_dies (p : Nat) (f : Port → Port) : (s.updPort p f).dies = s.dies := rfl
@[simp] theorem State.updPort_launches (p : Nat) (f : Port → Port) : (s.updPort p f).launches = s.launches := rfl
@[simp] theorem State.updPort_nextLid (p : Nat) (f : Port → Port) : (s.updPort p f).nextLid = s.nextLid := rfl
@[simp] theorem State.updPort_ranges (p : Nat) (f : Port → Port) : (s.updPort p f).ranges = s.ranges := rfl
@[simp] theorem State.updPort_nextRange (p : Nat) (f : Port → Port) : (s.updPort p f).nextRange = s.nextRange := rfl
@[simp] theorem State.updPort_resolutions (p : Nat) (f : Port → Port) : (s.updPort p f).resolutions = s.resolutions := rfl
@[simp] theorem State.updPort_retained (p : Nat) (f : Port → Port) : (s.updPort p f).retained = s.retained := rfl
@[simp] theorem State.updPort_lastRegs (p : Nat) (f : Port → Port) : (s.updPort p f).lastRegs = s.lastRegs := rfl
@[simp] theorem State.updPort_frontReads (p : Nat) (f : Port → Port) : (s.updPort p f).frontReads = s.frontReads := rfl
@[simp] theorem State.updPort_queues (p : Nat) (f : Port → Port) : (s.updPort p f).queues = s.queues := rfl
@[simp] theorem State.updPort_graphs (p : Nat) (f : Port → Port) : (s.updPort p f).graphs = s.graphs := rfl
@[simp] theorem State.updPort_nextGraph (p : Nat) (f : Port → Port) : (s.updPort p f).nextGraph = s.nextGraph := rfl
@[simp] theorem State.updPort_heldAdds (p : Nat) (f : Port → Port) : (s.updPort p f).heldAdds = s.heldAdds := rfl
@[simp] theorem State.updPort_cps (p : Nat) (f : Port → Port) : (s.updPort p f).cps = s.cps := rfl
@[simp] theorem State.updPort_wake (p : Nat) (f : Port → Port) : (s.updPort p f).wake = s.wake := rfl
@[simp] theorem State.updPort_tlb (p : Nat) (f : Port → Port) : (s.updPort p f).tlb = s.tlb := rfl
@[simp] theorem State.updPort_pageReqs (p : Nat) (f : Port → Port) : (s.updPort p f).pageReqs = s.pageReqs := rfl
@[simp] theorem State.updPort_refusals (p : Nat) (f : Port → Port) : (s.updPort p f).refusals = s.refusals := rfl
@[simp] theorem State.updPort_peerWin (p : Nat) (f : Port → Port) : (s.updPort p f).peerWin = s.peerWin := rfl
@[simp] theorem State.updPort_cellWaits (p : Nat) (f : Port → Port) : (s.updPort p f).cellWaits = s.cellWaits := rfl
@[simp] theorem State.updPort_peerCancels (p : Nat) (f : Port → Port) : (s.updPort p f).peerCancels = s.peerCancels := rfl
@[simp] theorem State.updPort_parts (p : Nat) (f : Port → Port) : (s.updPort p f).parts = s.parts := rfl
@[simp] theorem State.updPort_funcs (p : Nat) (f : Port → Port) : (s.updPort p f).funcs = s.funcs := rfl
@[simp] theorem State.updPort_trans (p : Nat) (f : Port → Port) : (s.updPort p f).trans = s.trans := rfl
@[simp] theorem State.updPort_debugBox (p : Nat) (f : Port → Port) : (s.updPort p f).debugBox = s.debugBox := rfl
@[simp] theorem State.updPort_lossBox (p : Nat) (f : Port → Port) : (s.updPort p f).lossBox = s.lossBox := rfl
@[simp] theorem State.updPort_devNum (p : Nat) (f : Port → Port) : (s.updPort p f).devNum = s.devNum := rfl
@[simp] theorem State.updPort_reqs (p : Nat) (f : Port → Port) : (s.updPort p f).reqs = s.reqs := rfl
@[simp] theorem State.updPort_nextTag (p : Nat) (f : Port → Port) : (s.updPort p f).nextTag = s.nextTag := rfl
@[simp] theorem State.updPort_hostLink (p : Nat) (f : Port → Port) : (s.updPort p f).hostLink = s.hostLink := rfl
@[simp] theorem State.updPort_atomics (p : Nat) (f : Port → Port) : (s.updPort p f).atomics = s.atomics := rfl
@[simp] theorem State.updPort_cluBanks (p : Nat) (f : Port → Port) : (s.updPort p f).cluBanks = s.cluBanks := rfl
@[simp] theorem State.updPort_sliceBanks (p : Nat) (f : Port → Port) : (s.updPort p f).sliceBanks = s.sliceBanks := rfl
@[simp] theorem State.updPort_mgmt (p : Nat) (f : Port → Port) : (s.updPort p f).mgmt = s.mgmt := rfl
@[simp] theorem State.updPort_ckpt (p : Nat) (f : Port → Port) : (s.updPort p f).ckpt = s.ckpt := rfl
@[simp] theorem State.updPort_vaultUp (p : Nat) (f : Port → Port) : (s.updPort p f).vaultUp = s.vaultUp := rfl
@[simp] theorem State.updPort_vault (p : Nat) (f : Port → Port) : (s.updPort p f).vault = s.vault := rfl
@[simp] theorem State.updPort_snapshots (p : Nat) (f : Port → Port) : (s.updPort p f).snapshots = s.snapshots := rfl
@[simp] theorem State.updPort_heldItems (p : Nat) (f : Port → Port) : (s.updPort p f).heldItems = s.heldItems := rfl
@[simp] theorem State.updPort_tableBinds (p : Nat) (f : Port → Port) : (s.updPort p f).tableBinds = s.tableBinds := rfl
@[simp] theorem State.updPort_entryReads (p : Nat) (f : Port → Port) : (s.updPort p f).entryReads = s.entryReads := rfl
@[simp] theorem State.updPort_routes (p : Nat) (f : Port → Port) : (s.updPort p f).routes = s.routes := rfl
@[simp] theorem State.updPort_hostView (p : Nat) (f : Port → Port) : (s.updPort p f).hostView = s.hostView := rfl
@[simp] theorem State.updPort_peerViews (p : Nat) (f : Port → Port) : (s.updPort p f).peerViews = s.peerViews := rfl
@[simp] theorem State.updPort_barReply (p : Nat) (f : Port → Port) : (s.updPort p f).barReply = s.barReply := rfl
@[simp] theorem State.updPort_sensors (p : Nat) (f : Port → Port) : (s.updPort p f).sensors = s.sensors := rfl
@[simp] theorem State.updPort_pendResets (p : Nat) (f : Port → Port) : (s.updPort p f).pendResets = s.pendResets := rfl

end Sys2Proof.Machine
end

