-- ==== Sys2Proof/Tests/Slice0.lean ====
section
/-!
SUPPORT. Tests: ill-formed terms that each check refuses, words of the spec's encodings, single steps with results worked out from
the spec, and for the statements states and operands that meet their hypotheses.
-/
namespace Sys2Proof.Tests
open Sys2Proof.Machine

/-! ## Well-formedness: one ill-formed term for each check -/

def ext0 : ExtWords :=
  { px := false, pinv := false, pq := 0, c := 0, dh := false, ah := false, bh := false, lr := 0, rnd := 0, sat := false, fmt := 0,
    ord := 0, w2 := 0 }

def base0 : CoreWords := { sw := false, rb := false, p := 0, d := 4, a := 6, b := 8, ext := none, lit := none }

/-- The same fields in an extended form. -/
def extended (x : ExtWords) : CoreWords := { base0 with ext := some x }

theorem test_wf_accepts : (Instr.add base0).wellFormed = true := by decide
theorem test_wf_starred_base : (Instr.mad base0).wellFormed = false := by decide
theorem test_wf_two_predicates : (Instr.add { extended { ext0 with px := true } with p := 1 }).wellFormed = false := by decide
theorem test_wf_unread_literal : (Instr.add { base0 with lit := some 5 }).wellFormed = false := by decide
theorem test_wf_d_class : (Instr.cmpEq { base0 with d := 16 }).wellFormed = false := by decide
theorem test_wf_a_unused : (Instr.nop { base0 with d := 0, b := 0 }).wellFormed = false := by decide
theorem test_wf_b_pair : (Instr.add64 { base0 with b := 7 }).wellFormed = false := by decide
theorem test_wf_c_unused : (Instr.add (extended { ext0 with c := 1 })).wellFormed = false := by decide
theorem test_wf_word2 : (Instr.add (extended { ext0 with w2 := 1 })).wellFormed = false := by decide
theorem test_wf_fmt : (Instr.add (extended { ext0 with fmt := 3 })).wellFormed = false := by decide
theorem test_wf_rnd : (Instr.fadd (extended { ext0 with rnd := 4 })).wellFormed = false := by decide
theorem test_wf_sat : (Instr.add (extended { ext0 with sat := true })).wellFormed = false := by decide
theorem test_wf_ord : (Instr.ld (extended { ext0 with ord := 1 })).wellFormed = false := by decide
theorem test_wf_lr : (Instr.tret { extended { ext0 with lr := 1 } with d := 0, a := 0, b := 0 }).wellFormed = false := by decide
theorem test_wf_sysreg : (Instr.srd { extended { ext0 with w2 := 6 } with a := 0x18, b := 0 }).wellFormed = false := by decide
theorem test_wf_dv_cond : (Instr.dvBfx { rd := 1, rs1 := 2, rs2 := 3, cond := 1 }).wellFormed = false := by decide
theorem test_wf_packet_type : (Instr.launch { (default : PacketWords) with hdr := 0x03000003 }).wellFormed = false := by decide
theorem test_wf_port : (Instr.ack 18 0).wellFormed = false := by decide
theorem test_wf_fault_code : (Instr.encodingNotInstruction 3 0).wellFormed = false := by decide

/-! ## Decoding: the words that spec/12 to spec/16 write out -/

theorem test_decode_class0 : decode [0xF9060001, 0x64, 0] = some (.add { base0 with d := 3, a := 4, b := 31, lit := some 100 }) ∧
    decode [0x00000000] = some (.add { base0 with d := 0, a := 0, b := 0 }) := by decide
theorem test_decode_class1 : decode [0x07C00421, 0x100, 0] = some (.call { base0 with d := 0, a := 31, b := 0, lit := some 0x100 }) ∧
    decode [0x00000440] = some (.ret { base0 with d := 0, a := 0, b := 0 }) ∧
    decode [0x28C00470] = some (.yieldw { base0 with d := 0, a := 3, b := 5 }) := by decide
theorem test_decode_class2 : decode [0xF8820910] = some (.stH { base0 with d := 1, a := 2, b := 31 }) ∧
    decode [0x00000866, 0x30000000, 0] = some (.fence { base0 with sw := true, d := 0, a := 0, b := 0, ext := some { ext0 with ord := 12 } }) := by
  decide
theorem test_decode_class3 : decode [0x49100C00] = some (.annFadd { base0 with d := 8, a := 4, b := 9 }) ∧
    decode [0x01140CB4] = some (.coll { base0 with sw := true, d := 10, a := 4, b := 0 }) := by decide
theorem test_decode_class4 : decode [0x31481000] = some (.fadd { base0 with d := 4, a := 5, b := 6 }) ∧
    decode [0x07EA10B2, 0x00C00002, 0x20] =
      some (.cvt { base0 with d := 21, a := 31, b := 0, ext := some { ext0 with ah := true, fmt := 3, w2 := 0x20 } }) := by decide
theorem test_decode_class5 : decode [0x02041404] = some (.tld { base0 with sw := true, d := 2, a := 8, b := 0 }) ∧
    decode [0x00801462, 0, 0x1F1F0000] = some (.acz { base0 with d := 0, a := 2, b := 0, ext := some { ext0 with w2 := 0x1F1F0000 } }) := by decide
theorem test_decode_class6 : decode [0x018E1820] = some (.winq { base0 with d := 7, a := 6, b := 0 }) ∧
    decode [0x29121870] = some (.qput { base0 with d := 9, a := 4, b := 5 }) := by decide
theorem test_decode_class7 : decode [0x00021C10] = some (.cond { base0 with d := 1, a := 0, b := 0 }) ∧
    decode [0x10401C60] = some (.resolve { base0 with d := 0, a := 1, b := 2 }) := by decide
theorem test_decode_class8 : decode [0x00002010] = some (.tret { base0 with d := 0, a := 0, b := 0 }) := by decide
theorem test_decode_reserved : decode [0x00002400] = none ∧ decode [0x00000040] = none ∧ decode [0x00000001, 0, 0] = none := by decide

/-! ## Single steps

A hand of two threads runs the words at its PC. The results are worked out from the rules named. -/

def bytesOf (ws : List Word) : List (BitVec 8) := ws.foldr (fun w acc => leBytes w.toNat 4 ++ acc) []

/-- A g register of the hand that holds a word in lanes 0 and 1, with a tag. -/
def reg (name : Nat) (tag : BitVec 4) (a b : Word) : MapEntry :=
  { win := if name < 16 then none else some 0, name := name, loc := .phys name,
    reg := { value := [a, b] ++ List.replicate 30 0, tag := tag, poison := 0 }, fresh := false }

/-- A hand whose other threads have exited. -/
def two (f : Hand → Hand) (h : Hand) : Hand := f { h with exited := 0xFFFFFFFC }

/-- The state after one step of a hand that runs the words. -/
def after (ws : List Word) (f : Hand → Hand) : State :=
  match step ((State.reset.placeProgram (bytesOf ws)).updHand 0 (two f)) with
  | .next t => t
  | _ => State.reset

def lane (t : State) (n l : Nat) : DWord := ((t.hand 0).readG l n).value

def regs (rs : List MapEntry) (h : Hand) : Hand := { h with map := rs }

/-- The state after one step of a hand that runs an instruction. -/
def run (i : Instr) (f : Hand → Hand) : State := after (encode i) f

def hand (t : State) : Hand := t.hand 0

/-- An h register that holds a number. -/
def hreg (n : Nat) (v : DWord) (h : Hand) : Hand :=
  { h with uni := { h.uni with h := putAt 32 HReg.zero (fun x => { x with value := v }) n h.uni.h } }

/-- A hand with a handler. -/
def traps (h : Hand) : Hand := { h with trapRegs := { h.trapRegs with xvec := 0x200001 } }

/-- R282: 0xFFFFFFFF + 100 wraps. -/
theorem test_add_wraps : lane (after [0xF9060001, 0x64, 0] (regs [reg 4 1 0xFFFFFFFF 5])) 3 0 = 99 ∧
    lane (after [0xF9060001, 0x64, 0] (regs [reg 4 1 0xFFFFFFFF 5])) 3 1 = 105 := by decide
/-- R247: the PC moves past the three words of the literal form. -/
theorem test_pc_past_literal : (hand (after [0xF9060001, 0x64, 0] id)).pcOf 0 = 0x10000C := by decide
/-- R131: F32 is no tag of an integer source. -/
theorem test_add_tagmis : ((hand (run (.add base0) (fun h => traps (regs [reg 6 3 1 1] h)))).pendTrap.map TrapInfo.code) = some 4 := by decide
/-- R133: poison comes before the tag. -/
theorem test_poison_first : ((hand (run (.add base0) (fun h =>
    traps (regs [{ reg 6 3 1 1 with reg := { value := List.replicate 32 1, tag := 3, poison := 2 } }] h)))).pendTrap.map TrapInfo.code) = some 0x12 := by decide
/-- R282: the arithmetic shift of a negative number by 40 is all ones, and by 4 keeps the sign. -/
theorem test_sar : lane (run (.sar base0) (regs [reg 6 1 0x80000000 0x80000000, reg 8 1 40 4])) 4 0 = 0xFFFFFFFF ∧
    lane (run (.sar base0) (regs [reg 6 1 0x80000000 0x80000000, reg 8 1 40 4])) 4 1 = 0xF8000000 := by decide
/-- R282: −1 × −1 has high word 0 signed; R282 under N32: 0xFFFFFFFE. -/
theorem test_mulhi : lane (run (.mulhi base0) (regs [reg 6 1 0xFFFFFFFF 2, reg 8 1 0xFFFFFFFF 3])) 4 0 = 0 ∧
    lane (run (.mulhi (extended { ext0 with fmt := 2 })) (regs [reg 6 1 0xFFFFFFFF 2, reg 8 1 0xFFFFFFFF 3])) 4 0 = 0xFFFFFFFE := by decide
/-- R283: bits 4 to 11 of 0xFFFFF, and −1 from a signed field of ones. -/
theorem test_bfx : lane (run (.bfx { extended { ext0 with fmt := 2, w2 := 4 + 8 * 32 } with b := 0 }) (regs [reg 6 1 0x00000F50 0xFF0])) 4 0 = 0xF5 ∧
    lane (run (.bfx { extended { ext0 with w2 := 4 + 8 * 32 } with b := 0 }) (regs [reg 6 1 0x00000F50 0xFF0])) 4 1 = 0xFFFFFFFF := by decide
/-- R285: −1 < 1 signed, and not unsigned. -/
theorem test_cmp_signed : (hand (run (.cmpLt { base0 with d := 2 }) (regs [reg 6 1 0xFFFFFFFF 1, reg 8 1 1 1]))).readQ 0 2 = true ∧
    (hand (run (.cmpLt { extended { ext0 with fmt := 2 } with d := 2 }) (regs [reg 6 1 0xFFFFFFFF 1, reg 8 1 1 1]))).readQ 0 2 = false := by decide
/-- R286: the carry of `add64` into the high word. -/
theorem test_add64_carry : lane (run (.add64 base0) (regs [reg 6 1 0xFFFFFFFF 0, reg 7 1 1 0, reg 8 1 1 0, reg 9 1 0 0])) 4 0 = 0 ∧
    lane (run (.add64 base0) (regs [reg 6 1 0xFFFFFFFF 0, reg 7 1 1 0, reg 8 1 1 0, reg 9 1 0 0])) 5 0 = 2 := by decide
/-- R288: lane 1 differs from lane 0: NONUNIF, with that lane in its mask. -/
theorem test_uni_chk : (hand (run (.uniChk base0) (fun h => traps (regs [reg 6 1 7 8, reg 8 1 0 0] h)))).pendTrap.map (fun t => (t.code, t.mask)) = some (3, 2) := by decide

/-- R291: X + 0xFFFFFFC0 is X − 64. -/
theorem test_bra_back : (hand (after [0x07C00401, 0xFFFFFFC0, 0xFFFFFFFF] id)).pcOf 0 = 0xFFFC0 := by decide
/-- R292: the target, the depth and the link of a call. -/
theorem test_call : (hand (after [0x07C00421, 0x100, 0] id)).pcOf 1 = 0x100100 ∧ (hand (after [0x07C00421, 0x100, 0] id)).depthOf 1 = 1 ∧
    lane (after [0x07C00421, 0x100, 0] id) 60 1 = 0x10000C := by decide
/-- R130: CALLX in depth 31, with the depth as its value. -/
theorem test_call_depth31 : (hand (after [0x07C00421, 0x100, 0] (fun h => traps { h with depth := List.replicate 32 31 }))).pendTrap.map (fun t => (t.code, t.val)) = some (0x1B, 31) := by decide
/-- R299: the lowest active lane alone is elected. -/
theorem test_elect : (hand (run (.elect { base0 with d := 3, a := 0, b := 0 }) id)).readQ 0 3 = true ∧
    (hand (run (.elect { base0 with d := 3, a := 0, b := 0 }) id)).readQ 1 3 = false := by decide
/-- R300: `lx.rot` by 1 gives lane 0 the word of lane 1. -/
theorem test_lx_rot : lane (run (.lxRot base0) (regs [reg 6 1 10 20, reg 8 1 1 1])) 4 0 = 20 := by decide
/-- R294: the last threads exit, and the hand is done. -/
theorem test_exit : (hand (run (.exit { base0 with d := 0, a := 0, b := 0 }) id)).state = .done := by decide

/-- R254: q1 is false, so nothing is written and the PC moves on. -/
theorem test_inactive : lane (run (.add { base0 with p := 1 }) (regs [reg 6 1 1 1, reg 8 1 2 2])) 4 0 = 0 ∧
    (hand (run (.add { base0 with p := 1 }) (regs [reg 6 1 1 1, reg 8 1 2 2]))).pcOf 0 = 0x100004 := by decide
/-- R265: the word 0x2400 raises ILLOP with itself as `xval`. -/
theorem test_illop : (hand (after [0x00002400] traps)).pendTrap.map
    (fun t => (t.code, t.val)) = some (1, 0x2400) := by decide
/-- R389 and R196: `trap 0x21`, then the entry: INFO, KIND 1, the next address, the handler, trap mode. -/
theorem test_trap_entry :
    let s := (after [0x07C02001, 0x21, 0] traps).updSlot 0 0 (fun x => { x with hand := some 0, count := 0, ending := false })
    let t := match exec .trapEntry (s.updHand 0 (fun h => { h with state := .running })) with
      | .next t => hand t
      | _ => hand s
    (t.trapRegs.xcause, t.trapRegs.xpc, t.pcOf 0, t.trapMode) = (0x210100, 0x10000C, 0x200000, 3) := by decide
/-- R198: `tret` outside trap mode raises PROT. -/
theorem test_tret_prot : (hand (run (.tret { base0 with d := 0, a := 0, b := 0 }) traps)).pendTrap.map
    TrapInfo.code = some 0x0A := by decide

/-- R171: a store waits in its thread's buffer, and memory stays. -/
theorem test_store_buffered : ((hand (after [0xF8820910] (fun h => regs [reg 1 0 0xAABBCCDD 0] (hreg 2 0x200000 { h with exited := 0xFFFFFFFE })))).thread 0).sb.map
    (fun e => (e.word, e.mask, e.data)) = [(0x200000, 0x0F, 0xAABBCCDD)] ∧
    readCell (after [0xF8820910] (fun h => regs [reg 1 0 0xAABBCCDD 0] (hreg 2 0x200000 h))).mem 0x200000 = 0 := by decide
/-- R312: a word access at an odd address raises ALIGN. -/
theorem test_store_align : (hand (after [0xF8820910] (fun h => traps (regs [reg 1 0 1 1] (hreg 2 0x200001 h))))).pendTrap.map TrapInfo.code = some 9 := by decide
/-- R153: an address that no entry maps raises PROT; with a home known, PAGE, which is served: the threads park. -/
theorem test_load_prot : (hand (after [0xF88E0904] (fun h => traps (hreg 2 0x10000000 h)))).pendTrap.map TrapInfo.code = some 0x0A := by decide
theorem test_load_page :
    let s := (State.reset.placeProgram (bytesOf [0xF88E0904])).updHand 0 (fun h => two (hreg 2 0x10000000) h)
    let t := match step { s with mem := writeCells (tablesAt + 0xC008) [0x80] s.mem } with
      | .next t => t
      | _ => s
    ((hand t).parks.map (fun p => p.1), t.pageReqs.length) = ([3], 1) := by decide

/-- R339: 1.5 + 2.5 is 4 in F32; R340: the minimum of −0 and +0 is −0. -/
theorem test_fadd : lane (run (.fadd base0) (regs [reg 6 3 0x3FC00000 0, reg 8 3 0x40200000 0])) 4 0 = 0x40800000 := by decide
theorem test_fmin_zero : lane (run (.fmin base0) (regs [reg 6 3 0x80000000 0, reg 8 3 0 0])) 4 0 = 0x80000000 := by decide
/-- R339: 0 × infinity is the canonical NaN with INV. -/
theorem test_fmul_invalid : lane (run (.fmul base0) (regs [reg 6 3 0 0, reg 8 3 0x7F800000 0])) 4 0 = 0x7FC00000 ∧
    (hand (run (.fmul base0) (regs [reg 6 3 0 0, reg 8 3 0x7F800000 0]))).hstat = 1 := by decide
/-- R341: 1 / 0 is infinity with DZ, and 2^3 is 8. -/
theorem test_rcp_zero : lane (run (.rcp { base0 with b := 0 }) (regs [reg 6 3 0 0x40000000])) 4 0 = 0x7F800000 := by decide
/-- R342: the S32 number −3 in F32. -/
theorem test_cvt : lane (run (.cvt { extended { ext0 with fmt := 3 } with b := 0 }) (regs [reg 6 1 0xFFFFFFFD 0])) 4 0 = 0xC0400000 := by decide
/-- The example of R244: 2^24 and a block of 12 give 16,777,228. -/
theorem test_block_sum :
    let va : DWord := 8 + 8 * 512 + 8 * 2 ^ 18 + 2 ^ 24 + 2 ^ 23
    let vb : DWord := va + 2 ^ 22
    let a : Tile := { Tile.init with tsh := va, data := List.replicate 4 0x33, micro := [0x60], band := [0x3F80] }
    let b : Tile := { Tile.init with tsh := vb, data := (List.range 32).map (fun j => if j % 4 = 0 then 2 else 0), micro := [0x60], band := [0x3F80] }
    (mmaElem a va 0 b vb 0 0x4B800000).1 = 0x4B800006 := by decide
/-- R364: a block that would pass row 255 raises ACCBND. -/
theorem test_acz_bound : (hand (run (.acz { extended { ext0 with w2 := 0x1F1F0000 } with d := 0, a := 2, b := 0 }) (fun h => traps (hreg 2 225 h)))).pendTrap.map TrapInfo.code = some 0x19 := by decide

/-- R371: a window that is not bound answers 3. -/
theorem test_winq_unbound : (((hand (after [0x018E1820] id)).uni.h.getD 7 HReg.zero).value) = 3 := by decide
/-- R93: the first token of die 0 has entry 0 and generation 1. -/
theorem test_cond_first : (((run (.cond { base0 with d := 1, a := 0, b := 0 }) id).die 0).tokens.map (fun e => (e.idx, e.state, e.gen))) = [(0, 1, 1)] := by decide
/-- R388: `swr` to a read-only register raises PROT. -/
theorem test_swr_readonly : (hand (run (.swr { extended ext0 with d := 0, a := 3, b := 0 }) traps)).pendTrap.map TrapInfo.code = some 0x0A := by decide
/-- R360: a LEAD that names no member is not written. -/
theorem test_swr_lead : (hand (run (.swr { extended ext0 with d := 7, a := 3, b := 0 }) (hreg 3 0x40))).gang = 0x400 ∧
    (hand (run (.swr { extended ext0 with d := 7, a := 3, b := 0 }) (fun h => { hreg 3 0x40 h with gang := 0x402 }))).gang = 0x442 := by decide
/-- R393: a dropped name is unmapped. -/
theorem test_drop : (hand (run (.drop { base0 with d := 0 }) (regs [reg 6 1 1 1, reg 8 1 1 1, reg 9 1 1 1]))).map.map MapEntry.name = [9] := by decide
/-- R146: the canonical form lists no zero. -/
theorem test_memory_form : writeCells 4 [0, 7] (writeCells 4 [9] []) = [(5, 7)] := by decide

/-- R20: the check value of CRC-64/ECMA-182, of the string 123456789. -/
theorem test_crc64 : crcBytes 0 ((List.range 9).map (fun i => BitVec.ofNat 8 (0x31 + i))) = 0x6C40DF5F0B497347 := by decide +kernel
/-- R60: the message abc of FIPS 180-4. -/
theorem test_sha256 : sha256 [0x61, 0x62, 0x63] = beBytes 0xBA7816BF8F01CFEA414140DE5DAE2223B00361A396177A9CB410FF61F20015AD 32 := by decide +kernel
/-- R60: the AES-256 example of FIPS 197. -/
theorem test_aes256 : aesEncrypt (aesWords ((List.range 32).map (BitVec.ofNat 8))) ((List.range 16).map (fun i => BitVec.ofNat 8 (17 * i))) =
    beBytes 0x8EA2B7CA516745BFEAFC49904B496089 16 := by decide +kernel

/-! ## Witnesses: states and operands that meet the hypotheses of the statements -/

theorem issues_of {s : State} {i : SplitIssue} {w : CoreWords}
    (h : s.cur = some (.split i) ∧ i.active (s.hand i.hand) w ≠ 0 ∧ s.specRun (s.hand i.hand) = false ∧
      (s.hand i.hand).beforeCompare i.lanes = false) : Issues s i w := h

theorem readable_of {s : State} {i : SplitIssue} {act : Lanes} {ops : List (Operand × Check)} {dsts lr : List Nat}
    (h : checkSources i act (s.hand i.hand) ops = none ∧
      s.regNeed i.hand act (ops.foldl (fun acc p => acc ++ p.1.gNames) []) dsts
        (if lr.isEmpty then [] else s.freedDsts i i.lanes lr) = .ready ∧
      (s.hand i.hand).intact (regsOf (s.hand i.hand) act (ops.map Prod.fst)) = true) : Readable s i act ops dsts lr := h

theorem runsOn_of {s : State} {i : SplitIssue}
    (h : (s.hand? i.hand).isSome ∧ (s.hand i.hand).core = i.core ∧ (s.slot i.core i.slot).hand = some i.hand ∧
      i.lanes &&& (s.hand i.hand).exited = 0 ∧ i.lanes ≠ 0 ∧ (s.hand i.hand).haltReq = false ∧ (s.hand i.hand).stepHalt = false ∧
      (s.slot i.core i.slot).fate = .plain) : RunsOn s i := h

/-- Two threads of hand 0 issue at the program's place. -/
def split0 : SplitIssue :=
  { core := 0, slot := 0, hand := 0, pc := 0x100000, next := 0x100004, lanes := 3, uni := Uniform.init, word0 := 0, second := false }

/-- The state in which they do. -/
def demo (f : Hand → Hand) : State := { (State.reset.placeProgram []).updHand 0 (two f) with cur := some (.split split0) }

/-- The split reads the uniform file as the hand has it. -/
def split1 (s : State) : SplitIssue := { split0 with uni := (s.hand 0).uni }

/-- An issue that reads h registers: the state whose issuer has read them. -/
def demoH (f : Hand → Hand) : State :=
  let s := demo f
  { s with cur := some (.split (split1 s)) }

def h0 (s : State) : Hand := s.hand 0

def plain : State := demo (regs [reg 6 1 1 1, reg 8 1 1 1])

theorem plain_issues : Issues plain split0 base0 := issues_of (by decide)

theorem witness_IntegerResults : ∃ r ∈ intRows, Issues plain split0 base0 ∧
    Readable plain split0 3 (r.ops false base0) base0.gDst (r.lr false base0) :=
  ⟨_, List.mem_cons_self .., plain_issues, readable_of (by decide)⟩

theorem witness_IntegerFrame : ∃ r ∈ intRows, Issues plain split0 base0 ∧ RunsOn plain split0 ∧
    split0.active (h0 plain) base0 = 3 ∧ Readable plain split0 3 (r.ops false base0) base0.gDst (r.lr false base0) :=
  ⟨_, List.mem_cons_self .., plain_issues, runsOn_of (by decide), by decide, readable_of (by decide)⟩

theorem witness_SelectAndCompare : Issues plain split0 base0 ∧
    Readable plain split0 3 [(base0.gA, .move), (base0.gB, .move)] base0.gDst (base0.lrNames base0.gA base0.gB (.lit 0)) ∧
    Readable plain split0 3 [(base0.gA, .int), (base0.gB, .int)] [] (base0.lrNames base0.gA base0.gB (.lit 0)) :=
  ⟨plain_issues, readable_of (by decide), readable_of (by decide)⟩

theorem witness_AddressAndUniform : Issues plain split0 base0 ∧
    Readable plain split0 3 [(base0.pA, .int), (base0.gB, .int)] base0.pairDst (base0.lrNames base0.pA base0.gB (.lit 0)) ∧
    Readable plain split0 3 [(base0.pA, .int), (base0.pB, .int)] base0.pairDst (base0.lrNames base0.pA base0.pB (.lit 0)) ∧
    Readable plain split0 1 [(base0.gA, .move), (base0.gB, .move)] [] [] ∧
    (∀ t ∈ Lanes.list 3, base0.gA.word (h0 plain) split0.uni t = 1) ∧
    (let s := demo (regs [reg 6 1 7 8, reg 8 1 0 0])
     Issues s split0 base0 ∧ Readable s split0 3 [(base0.gA, .move), (base0.gB, .move)] [] [] ∧
     base0.gA.word (h0 s) split0.uni 1 ≠ base0.gA.word (h0 s) split0.uni 0) :=
  ⟨plain_issues, readable_of (by decide), readable_of (by decide), readable_of (by decide), by decide, issues_of (by decide),
    readable_of (by decide), by decide⟩

theorem witness_BranchTargets : Issues plain split0 base0 ∧ RunsOn plain split0 ∧ Readable plain split0 3 [(base0.gA, .move)] [] [] :=
  ⟨plain_issues, runsOn_of (by decide), readable_of (by decide)⟩

/-- A call goes down from depth 30 and not from 31; a return goes up from depth 1. -/
theorem witness_CallsAndReturns :
    let at_ (d : Nat) : State := demo (fun h => { h with depth := List.replicate 32 d })
    (Issues (at_ 30) split0 base0 ∧ RunsOn (at_ 30) split0 ∧ Readable (at_ 30) split0 3 [(base0.gA, .move)] [] [] ∧
      (∀ l ∈ Lanes.list 3, (h0 (at_ 30)).depthOf l ≠ 31 ∧ (h0 (at_ 30)).trapMode.has l = false) ∧
      (at_ 31).regNeed 0 3 [] [60, 61] [] = .ready ∧ base0.x.lr = 0) ∧
    (Issues (at_ 31) split0 base0 ∧ checkSources split0 3 (h0 (at_ 31)) [(base0.gA, .move)] = none ∧ (h0 (at_ 31)).depthOf 0 = 31) ∧
    (Issues (at_ 1) split0 base0 ∧ RunsOn (at_ 1) split0 ∧ (∀ l ∈ Lanes.list 3, (h0 (at_ 1)).depthOf l ≠ 0) ∧
      Readable (at_ 1) split0 3 [(.pair 60, .move)] [] []) :=
  ⟨⟨issues_of (by decide), runsOn_of (by decide), readable_of (by decide), by decide, by decide, rfl⟩,
   ⟨issues_of (by decide), by decide, by decide⟩,
   ⟨issues_of (by decide), runsOn_of (by decide), by decide, readable_of (by decide)⟩⟩

/-- A table of one entry, and index 0. -/
theorem witness_TableBranch :
    let w : CoreWords := { base0 with d := 0, b := 31, lit := some 1 }
    Issues (demo id) split0 w ∧ Readable (demo id) split0 3 [(w.gA, .move)] [] [] ∧ (w.gA.word (h0 (demo id)) split0.uni 0).toNat < 1 ∧
    ∃ words s', brxFetch 0 1 split0.pc (0x100000 + 12) [0, 0] (demo id) [] = .ok (words, s') :=
  ⟨issues_of (by decide), readable_of (by decide), by decide, _, _, rfl⟩

theorem issues_wake {s : State} {i : SplitIssue} {w : CoreWords} (wk : List WakeEntry) (h : Issues s i w) : Issues { s with wake := wk } i w := h

theorem readable_wake {s : State} {i : SplitIssue} {act : Lanes} {ops : List (Operand × Check)} (wk : List WakeEntry)
    (h : Readable s i act ops [] []) : Readable { s with wake := wk } i act ops [] [] := h

theorem full_wake (s : State) (n : Nat) (h : 4096 ≤ n) :
    ({ s with wake := List.replicate n (default : WakeEntry) } : State).registerWaiter 1 0x200000 id = none := by
  have hf : (List.replicate n (default : WakeEntry)).find? (fun e => e.asid = 1 && e.key == 0x200000) = none := by
    rw [List.find?_eq_none]; intro x hx; rw [List.eq_of_mem_replicate hx]; decide
  simp only [State.registerWaiter, State.wakeEntry, hf, List.length_replicate, wakeCapacity]
  rw [if_pos h]

/-- A translation that succeeds, at a location. -/
def goesTo (loc : Nat) : Xlat → Bool
  | .ok l _ => l == loc
  | _ => false

theorem translates_of {r : Xlat} {loc : Nat} (h : goesTo loc r = true) : ∃ e, r = .ok loc e := by
  cases r <;> simp_all [goesTo]

def sleeps : CoreWords := { base0 with d := 0, a := 3, b := 5 }
def sleeper : State := demoH (hreg 3 0x200000)
def sleeper1 : State := demoH (fun h => hreg 3 0x200000 (hreg 5 1 h))

/-- `yieldw` on a word at 0x200000 that holds 0: the expected value, and another value; for a full table see `full_wake`. -/
theorem witness_ExitAndYield : Issues sleeper (split1 sleeper) sleeps ∧
    Readable sleeper (split1 sleeper) 3 [(sleeps.hA, .move), (sleeps.hB, .move)] [] [] ∧
    (∃ e, sleeper.translate 1 0x200000 .read = .ok 0x200000 e) ∧ (sleeper.registerWaiter 1 0x200000 id).isSome = true ∧
    (sleeper.lastWrite 0x200000).value = uniVal (split1 sleeper) 3 (h0 sleeper) 5 ∧
    Issues sleeper1 (split1 sleeper1) sleeps ∧ (sleeper1.lastWrite 0x200000).value ≠ uniVal (split1 sleeper1) 3 (h0 sleeper1) 5 :=
  ⟨issues_of (by decide), readable_of (by decide), translates_of (by decide), by decide, by decide, issues_of (by decide), by decide⟩

theorem ok_of {ε α : Type} {x : Except ε α} (h : x.toOption.isSome = true) : ∃ a, x = .ok a := by
  cases x with
  | ok a => exact ⟨a, rfl⟩
  | error e => simp [Except.toOption] at h

theorem ok2_of {ε α β : Type} {x : Except ε (α × β)} (h : x.toOption.isSome = true) : ∃ a b, x = .ok (a, b) := by
  obtain ⟨⟨a, b⟩, h⟩ := ok_of h; exact ⟨a, b, h⟩

theorem some_of {α : Type} {x : Option α} (h : x.isSome = true) : ∃ a, x = some a := by
  cases x with
  | some a => exact ⟨a, rfl⟩
  | none => simp at h

/-- A fetch that gives a word. -/
def gives (w : Word) : Fetch → Bool
  | .ok x _ => x == w
  | _ => false

theorem fetches_of {r : Fetch} {w : Word} (h : gives w r = true) : ∃ s', r = .ok w s' := by
  cases r <;> simp_all [gives]

theorem witness_PredicatesAndLanes : Issues plain split0 base0 ∧ Readable plain split0 3 [] base0.gDst [] ∧
    (∀ t ∈ Lanes.list 3, (crossLane base0.gA (h0 plain) t t).poison = false) ∧ poisonOf split0 3 (h0 plain) base0.gB = none ∧
    plain.regNeed 0 3 (base0.gA.gNames ++ base0.gB.gNames) base0.gDst [] = .ready :=
  ⟨plain_issues, readable_of (by decide), by decide, by decide, by decide⟩

/-- A loop of six instructions in S stages, with its trip count in the literal. -/
def loops (s trip : Nat) : CoreWords :=
  { base0 with d := 0, a := 0, b := 31, lit := some (BitVec.ofNat 64 trip), ext := some { ext0 with w2 := BitVec.ofNat 32 (6 + s * 2 ^ 20 + 2 ^ 28) } }

/-- Its level. -/
def loopLevel (s trip : Nat) (h : Hand) : Level :=
  { start := split0.next, end_ := 0x100018, trip := BitVec.ofNat 32 trip, pass := 0, memb := 3, edge := 0, base := 0, rsize := 0, s := BitVec.ofNat 3 s,
    stg := 1, depth := BitVec.ofNat 5 (h.depthOf 0), until_ := false, uq := 0, valid := true, order := 0, nextEnd := 0x10001C }

theorem end_fetched : gives 0 ((demo id).fetchWord 0 1 0x100018 0x100018) = true := by decide +kernel

/-- S 0 is the eighth row of R135; trip counts of 1 and of 0; inside and outside trap mode. -/
theorem witness_LoopInstructions :
    Issues (demo id) split0 (loops 0 1) ∧ Readable (demo id) split0 3 [] [] [] ∧ (∃ s', (demo id).fetchWord 0 1 0x100018 0x100018 = .ok 0 s') ∧
    loopRow (h0 (demo id)) 3 (loopLevel 0 1 (h0 (demo id))) 1 = some 8 ∧ Issues (demo id) split0 (loops 1 1) ∧
    loopRow (h0 (demo id)) 3 (loopLevel 1 1 (h0 (demo id))) 1 = none ∧ Issues (demo id) split0 (loops 1 0) ∧
    loopRow (h0 (demo id)) 3 (loopLevel 1 0 (h0 (demo id))) 0 = none ∧ (h0 (demo id)).inTrap = false ∧
    (let s := demo (fun h => { h with trapMode := 3, trapSplit := 3 })
     Issues s split0 base0 ∧ (h0 s).inTrap = true) :=
  ⟨issues_of (by decide), readable_of (by decide), fetches_of end_fetched, by decide, issues_of (by decide), by decide, issues_of (by decide),
    by decide, by decide, issues_of (by decide), by decide⟩

/-- A level of two members at its edge, with some passes done. -/
def edged (pass : Word) : State :=
  let l : Level := { loopLevel 1 3 default with trip := 3, pass := pass, edge := 3 }
  { demo (fun h => { h with lc := l :: List.replicate 5 default }) with args := default }

/-- TRIP 3 and S 1: the second pass is not the last, the third is. -/
theorem witness_BackEdgeFires : (edged 1).hand? 0 = some (h0 (edged 1)) ∧ (edged 1).args.n = 0 ∧ (edged 1).args.m = 0 ∧
    (h0 (edged 1)).state = .running ∧ (∀ x ∈ ((edged 1).core 0).slots, x.hand = some 0 → x.second = none) ∧
    (h0 (edged 1)).dueLevel = some 0 ∧ ((h0 (edged 1)).lc.getD 0 default).until_ = false ∧
    (let l := (h0 (edged 1)).lc.getD 0 default
     l.pass.toNat + 1 < l.trip.toNat + l.s.toNat - 1) :=
  ⟨rfl, rfl, rfl, by decide, by decide, by decide, by decide, by decide⟩

theorem witness_BackEdgeFires_last : (edged 2).hand? 0 = some (h0 (edged 2)) ∧ (edged 2).args.n = 0 ∧ (edged 2).args.m = 0 ∧
    (h0 (edged 2)).state = .running ∧ (∀ x ∈ ((edged 2).core 0).slots, x.hand = some 0 → x.second = none) ∧
    (h0 (edged 2)).dueLevel = some 0 ∧ ((h0 (edged 2)).lc.getD 0 default).until_ = false ∧
    (let l := (h0 (edged 2)).lc.getD 0 default
     ¬ l.pass.toNat + 1 < l.trip.toNat + l.s.toNat - 1) :=
  ⟨rfl, rfl, rfl, by decide, by decide, by decide, by decide, by decide⟩

def fault0 (code : BitVec 8) : TrapInfo := { code := code, kind := 0, info := 0, pc := 0x100000, val := 0x200000, mask := 3, split := 3 }

/-- A hand that runs a segment of die 0 that is not confirmed. -/
def speculates : State :=
  let s := demo (fun h => { h with seg := some (0, 0) })
  s.updDie 0 (fun d => { d with deck := [{ (default : Seg) with state := 3, hand := some 0 }] })

theorem witness_FaultDispositions : (h0 (demo id)).state = .running ∧ (h0 (demo id)).pendTrap = none ∧ (demo id).specRun (h0 (demo id)) = false ∧
    ((fault0 4).split &&& (h0 (demo traps)).trapMode = 0 ∧ (h0 (demo traps)).trapRegs.xvec.getLsbD 0 = true) ∧
    (h0 (demo id)).trapRegs.xvec.getLsbD 0 = false ∧ (fault0 0x16).code = 0x16 ∧
    ((fault0 0x0B).code = 0x0B ∧ (fault0 0x0B).kind = 0) ∧
    ((h0 speculates).state = .running ∧ (h0 speculates).pendTrap = none ∧ speculates.specRun (h0 speculates) = true) := by decide

/-- A pending trap, and a pending interrupt, at the first instruction of a run. -/
theorem witness_TrapEntryTakesException :
    (let s := demo (fun h => { traps h with pendTrap := some (fault0 4) })
     (s.slot 0 0).hand = some 0 ∧ s.args.n = 0 ∧ s.args.m = 0 ∧ (h0 s).state = .running ∧ (s.slot 0 0).count = 0 ∧ (h0 s).pendTrap = some (fault0 4)) ∧
    (let s := demo (fun h => { traps h with pendInt := some (7, 9) })
     (s.slot 0 0).hand = some 0 ∧ (s.hand? 0).isSome = true ∧ (h0 s).state = .running ∧ (s.slot 0 0).count = 0 ∧ (h0 s).pendTrap = none ∧
       (h0 s).pendInt = some (7, 9) ∧ (h0 s).inTrap = false ∧ (h0 s).voting ≠ 0 ∧ (h0 s).lowestPc (h0 s).voting = some 0x100000 ∧
       s.specRun (h0 s) = false ∧ (h0 s).trapRegs.xvec.getLsbD 0 = true) := by decide

/-- Two threads of a trapped split of four return, then the last ones; and two that are not in trap mode. -/
theorem witness_TrapReturn :
    let s (m : Lanes) : State := demo (fun h => { h with exited := 0xFFFFFFF0, trapMode := m, trapSplit := m })
    Issues (s 15) split0 base0 ∧ split0.active (h0 (s 15)) base0 &&& ~~~(h0 (s 15)).trapMode = 0 ∧
    (h0 (s 15)).trapMode &&& ~~~(3 : Lanes) &&& (h0 (s 15)).live ≠ 0 ∧ Issues (s 3) split0 base0 ∧
    (h0 (s 3)).trapMode &&& ~~~(3 : Lanes) &&& (h0 (s 3)).live = 0 ∧ (h0 (s 3)).trapSplit ≠ 0 ∧ Issues (s 0) split0 base0 ∧
    split0.active (h0 (s 0)) base0 &&& ~~~(h0 (s 0)).trapMode ≠ 0 :=
  ⟨issues_of (by decide), by decide, by decide, issues_of (by decide), by decide, by decide, issues_of (by decide), by decide⟩

theorem witness_TrapInstructions : Issues (demo id) split0 base0 ∧ (demo id).cur = some (.split split0) := ⟨issues_of (by decide), rfl⟩

/-- A poisoned, a MIXED and an F32 source. -/
theorem witness_SourceFaults :
    let s (tag : BitVec 4) (p : Lanes) : State :=
      demo (regs [{ reg 6 tag 1 1 with reg := { value := List.replicate 32 1, tag := tag, poison := p } }, reg 8 1 1 1])
    let r : IntRow := intRows.head (by decide)
    Issues (s 1 1) split0 base0 ∧ (checkSources split0 3 (h0 (s 1 1)) (r.ops false base0)).map TrapInfo.code = some 0x12 ∧
    Issues (s 0xE 0) split0 base0 ∧ (checkSources split0 3 (h0 (s 0xE 0)) (r.ops false base0)).map TrapInfo.code = some 5 ∧
    Issues (s 3 0) split0 base0 ∧ (checkSources split0 3 (h0 (s 3 0)) (r.ops false base0)).map TrapInfo.code = some 4 :=
  ⟨issues_of (by decide), by decide, issues_of (by decide), by decide, issues_of (by decide), by decide⟩

/-- q1 holds nowhere; and a hand that runs ahead of its condition. -/
theorem witness_IdleLanesAndEdges :
    (Instr.add { base0 with p := 1 }).core = some (0, { base0 with p := 1 }) ∧ split0.active (h0 (demo id)) { base0 with p := 1 } = 0 ∧
    (demo id).cur = some (.split split0) ∧ speculates.cur = some (.split split0) ∧ split0.active (h0 speculates) base0 ≠ 0 ∧
    speculates.specRun (h0 speculates) = true := by decide

/-- The state in which the slot's turn comes. -/
def turned (w : Word) : State := { (State.reset.placeProgram (bytesOf [w])).updHand 0 (two id) with tick := 1, agenda := [], args := default }

/-- The word of `nop` at the PC decodes; 0x2400 does not. -/
theorem witness_StepRunsDecoded :
    let s := (State.reset.placeProgram (bytesOf [0x00000500])).updHand 0 (two id)
    s.agenda = [.issue 0 0] ∧ s.mgmt.heldReset = false ∧ s.coreStops 0 = false ∧ (s.slot 0 0).hand = some 0 ∧ (s.slot 0 0).second = none ∧ (s.hand 0).state = .running ∧
    (s.hand 0).pendTrap = none ∧ (s.hand 0).takesInterrupt = false ∧ (s.hand 0).dueLevel = none ∧
    (s.hand 0).lowestPc (s.hand 0).voting = some 0x100000 ∧ (∃ s', s.fetchWord 0 1 0x100000 0x100000 = .ok 0x00000500 s') ∧
    (decodeIn s 0 0x100000 [0x00000440]).toOption.isSome = true ∧ (decodeIn s 0 0x100000 [0x00002400]).toOption = none :=
  ⟨by decide, by decide, by decide, by decide, by decide, by decide, by decide, by decide, by decide, by decide, fetches_of (by decide), by decide,
    by decide⟩

theorem witness_OtherTurns :
    (∃ s : State, s.agenda = [.event .placement default] ∧ s.mgmt.heldReset = false ∧ isTableStep .placement = true) ∧
    (∃ s : State, s.agenda = [.event .placement default] ∧ s.mgmt.heldReset = true ∧ (Turn.event .placement default).management = false) ∧
    (∃ (s : State) (c : Cp) (i : Instr), s.agenda = [.cp 0] ∧ s.cps[0]? = some c ∧ decodeDv c.word = some i) :=
  ⟨⟨{ State.reset with agenda := [.event .placement default] }, rfl, rfl, rfl⟩,
   ⟨{ State.reset with agenda := [.event .placement default], mgmt := { Mgmt.init with heldReset := true } }, rfl, rfl, rfl⟩,
   ⟨{ State.reset with agenda := [.cp 0], cps := [{ Cp.init with word := 0x0073128B }] }, _, _, rfl, rfl, rfl⟩⟩

theorem witness_DecodeEncode : (Instr.add base0).wellFormed = true ∧ (Instr.add base0).hasWords = true ∧
    (Instr.dvBfx { rd := 5, rs1 := 6, rs2 := 7, cond := 0 }).wellFormed = true ∧ (Instr.dvBfx { rd := 5, rs1 := 6, rs2 := 7, cond := 0 }).hasWords = true := by
  decide

/-! ### Class 2 and 3 -/

/-- `ld! g7, [h2]` (spec/14) at an address. -/
def ldw : CoreWords := { base0 with sw := true, d := 7, a := 2, b := 31 }
def reads (a : DWord) : State := demoH (hreg 2 a)

/-- The addresses of both lanes. -/
def same (a : DWord) : Nat → DWord := fun _ => a

theorem witness_LoadsIssue : Issues (reads 0x200000) (split1 (reads 0x200000)) ldw ∧
    Readable (reads 0x200000) (split1 (reads 0x200000)) 3 [(ldw.hA, .move), (ldw.gB, .move)] ldw.gDst [] ∧
    (∃ locs s', (reads 0x200000).checkAccess (split1 (reads 0x200000)) 3 false .read 4 4
      (effAddr false ldw ldw.hA ldw.gB (h0 (reads 0x200000)) (split1 (reads 0x200000)).uni) = .ok (locs, s')) ∧
    (reads 0x200000).specRun (h0 (reads 0x200000)) = false :=
  ⟨issues_of (by decide), readable_of (by decide), ok2_of (by decide), by decide⟩

/-- The last aligned word of the cluster address space and the first address past it; a share of 64 bytes at 0: its last word and the first one
past it; memory that is mapped, not mapped, and mapped with a home that serves it. -/
def shared : State :=
  let s := (demo (fun h => { h with groups := [0] })).updCore 0 (fun c => { c with allocs := [(0, 0, 0, 64)] })
  { s with mem := writeCells (tablesAt + 0xC010) [0x80] s.mem }

def sees (x : Except (State × TrapInfo) (List (Nat × Nat) × State)) : Nat :=
  match x with
  | .ok _ => 0
  | .error (_, t) => t.code.toNat

theorem witness_AccessChecks :
    sees (shared.checkAccess split0 3 true .read 4 4 (same 2)) = 9 ∧ sees (shared.checkAccess split0 3 true .read 4 4 (same 0x80000)) = 0x0A ∧
    sees (shared.checkAccess split0 3 true .read 4 4 (same 64)) = 0x0C ∧ sees (shared.checkAccess split0 3 true .read 4 4 (same 60)) = 0 ∧
    sees (shared.checkAccess split0 3 false .read 4 4 (same 0x10000000)) = 0x0A ∧ sees (shared.checkAccess split0 3 false .read 4 4 (same 0x20000000)) = 0x0B ∧
    sees (shared.checkAccess split0 3 false .read 4 4 (same 0xFFFFFFC)) = 0 :=
  ⟨by decide, by decide, by decide, by decide, by decide, by decide, by decide⟩

theorem witness_StoresAreBuffered : Issues (reads 0x200000) (split1 (reads 0x200000)) ldw ∧ RunsOn (reads 0x200000) (split1 (reads 0x200000)) ∧
    (h0 (reads 0x200000)).pair = 0 ∧ (h0 (reads 0x200000)).seg = none ∧
    Readable (reads 0x200000) (split1 (reads 0x200000)) 3 [(ldw.hA, .move), (ldw.gB, .move), (ldw.gName ldw.nameD, .move)] [] [] ∧
    (∃ locs s', (reads 0x200000).checkAccess (split1 (reads 0x200000)) 3 false .write 4 4
      (effAddr false ldw ldw.hA ldw.gB (h0 (reads 0x200000)) (split1 (reads 0x200000)).uni) = .ok (locs, s')) :=
  ⟨issues_of (by decide), runsOn_of (by decide), by decide, by decide, readable_of (by decide), ok2_of (by decide)⟩

/-- A bind-table entry at 0x200000 for the object at 0x300000: LEN 0, which is not well formed, and LEN 64. -/
def binds (len : Nat) : State :=
  let s := reads 0x200000
  { s with mem := writeCells 0x200000 (leBytes 0x300000 8 ++ leBytes 0x400000 8 ++ leBytes len 8 ++ leBytes 0 8) s.mem }

theorem witness_FencesAndBindings :
    (Issues (reads 0x200000) (split1 (reads 0x200000)) ldw ∧ Readable (reads 0x200000) (split1 (reads 0x200000)) 3 [(ldw.hA, .move)] [] [] ∧
      (∃ locs s', (reads 0x200000).checkAccess (split1 (reads 0x200000)) 3 false .read 8 8 (same 0x200000) = .ok (locs, s')) ∧
      spaceOf 0x200000 = .device) ∧
    (Issues (binds 0) (split1 (binds 0)) ldw ∧ readWord (binds 0).mem 0x200010 = 0) ∧
    (Issues (binds 64) (split1 (binds 64)) ldw ∧
      (∃ locs s', (binds 64).checkAccess (split1 (binds 64)) 3 false .read 32 32 (same 0x200000) = .ok (locs, s')) ∧
      (readWord (binds 64).mem 0x200000).toNat % 8 = 0 ∧ (readWord (binds 64).mem 0x200008).toNat % 64 = 0 ∧
      (readWord (binds 64).mem 0x200010).toNat % 64 = 0 ∧ readWord (binds 64).mem 0x200010 ≠ 0 ∧ readWord (binds 64).mem 0x200018 >>> 1 = 0 ∧
      (∃ objs s', (binds 64).checkAccess (split1 (binds 64)) 3 false .read 8 8 (same 0x300000) = .ok (objs, s'))) :=
  ⟨⟨issues_of (by decide), readable_of (by decide), ok2_of (by decide), by decide⟩, ⟨issues_of (by decide), by decide⟩,
   ⟨issues_of (by decide), ok2_of (by decide), by decide, by decide, by decide, by decide, by decide, ok2_of (by decide)⟩⟩

/-- An outstanding result of hand 0. -/
def waitsFor (work : Work) (f : Hand → Hand) (x : StepArgs) : State :=
  let o : Outst := { id := 0, lanes := 3, work := work, dsts := [], back := 0, returned := false, flags := 0, joins := [], sent := [], data := [] }
  { demo (fun h => f { h with outst := [o], nextId := 1 }) with args := x }

def lane0 : LoadLane := { lane := 0, loc := 0x200000, seq := 0, win := none, failed := false }
def lanes3 : StepArgs := { (default : StepArgs) with lanes := 3, picks := [0, 0] }

theorem witness_ResultsReturn : ∀ w ∈ [Work.value, .load 4 0 0 [lane0], .inv 4 0 [lane0], .fence 4 [(0, 0)]],
    ((h0 (waitsFor w id lanes3)).outst.find? (fun o => o.id = 0)).map (fun o => (o.work, o.returned)) = some (w, false) := by decide

/-- A store of four bytes to the low half of the word at 0x200000. -/
def entry0 : StoreEntry := { word := 0x200000, mask := 0x0F, data := 7, rel := none, seq := 0 }

/-- Four bytes that the buffer gives, and eight of which it gives half. -/
theorem witness_LoadReturnsAllowedWrite :
    (∀ j, j < 4 → (entryByte [entry0] 0x200000 j).isSome = true) ∧ ¬ (∀ j, j < 8 → (entryByte [entry0] 0x200000 j).isSome = true) ∧
    ¬ (spaceOf 0x200000 = .host ∧ State.reset.hostLink.lost = true) ∧ View.get [] 0x200000 ≤ State.reset.lastIdx 0x200000 := by decide

def buffered : State := demo (fun h => { h with mem := [{ (default : ThreadMem) with sb := [entry0], sbNext := 1 }] })

theorem witness_StoreDrains : (buffered.hand? 0).isSome = true ∧ buffered.args.n = 0 ∧ ((h0 buffered).thread 0).sb[0]? = some entry0 ∧
    (h0 buffered).mayDrain 0 entry0 = true ∧ spaceOf entry0.word = .device ∧ Memory.wf buffered.mem = true := by decide

/-- Two threads announce at 0x200000. -/
def annw : CoreWords := { base0 with a := 4 }
def announces : State := demoH (hreg 4 0x200000)

theorem witness_AnnouncementsIssue : Issues announces (split1 announces) annw ∧
    Readable announces (split1 announces) 3 [(annw.hA, .move), (annB annw, .move), (annC annw, .move)] annw.pairDst [] ∧
    (∀ t ∈ Lanes.list 3, mayAnnounce (h0 announces) 0x100000 t) ∧ badRcell (h0 announces).rcell = false ∧
    (∃ s', announces.checkAddrs (split1 announces) 3 ((Lanes.list 3).map (fun t => (t, 0x200000, .write))) = .ok s') := by
  refine ⟨issues_of (by decide), readable_of (by decide), ?_, by decide, ok_of (by decide)⟩
  intro t _; exact Or.inr ⟨by simp only [Hand.ownOf]; revert t; decide, by revert t; decide⟩

/-- Descriptors at 0x280000 of one word at 0x300000. -/
def describes : State :=
  let s := announces
  { s with mem := writeCells 0x200000 (leBytes 0x300000 8) s.mem }

/-- `ann.mcas` of one word, whose two lanes name one descriptor. -/
theorem witness_ObjectsIssue :
    Issues describes (split1 describes) annw ∧ annw.f2 0 2 + 1 = 1 ∧
    Readable describes (split1 describes) 3 [(annw.hA, .move), (annC annw, .move)] annw.pairDst [] ∧
    (∀ t ∈ Lanes.list 3, mayAnnounce (h0 describes) 0x100000 t) ∧ badRcell (h0 describes).rcell = false ∧
    (∃ s', describes.checkAddrs (split1 describes) 3 ((Lanes.list 3).foldr (fun t acc =>
      (List.range 3).map (fun j => (t, 0x200000 + BitVec.ofNat 64 (8 * j), .read)) ++ acc) []) = .ok s') ∧
    describes.descAddrs (h0 describes) 0 0x200000 1 = [0x300000] ∧ rising [0x300000] = true ∧ spaceOf (describes.placed 1 0x300000 .write).1 = .device ∧
    (∃ s', describes.checkAddrs (split1 describes) 3 ((Lanes.list 3).map (fun t => (t, 0x300000, .write))) = .ok s') := by
  refine ⟨issues_of (by decide), by decide, readable_of (by decide), ?_, by decide, ok_of (by decide), by decide, by decide, by decide, ok_of (by decide)⟩
  intro t _; exact Or.inr ⟨by simp only [Hand.ownOf]; revert t; decide, by revert t; decide⟩

/-- A `coll` whose threads own a record of the object, and a `bkt` of buckets of 8 bytes. -/
theorem witness_ObjectsIssue_owned :
    (let s := demoH (fun h => { hreg 4 0x200000 h with own := List.replicate 32 (some { (default : OwnRec) with obj := 0x200000 }) })
     Issues s (split1 s) annw ∧ ∀ t ∈ Lanes.list 3, s.ownsObject (h0 s) t 0x200000 = true) ∧
    (let s := demoH (hreg 6 0x200003)
     Issues s (split1 s) base0 ∧ Readable s (split1 s) 3 [(base0.hA, .move), (base0.gB, .move)] base0.gDst [] ∧
     3 ≤ (uniVal (split1 s) 3 (h0 s) 6).toNat % 32 ∧ (uniVal (split1 s) 3 (h0 s) 6).getLsbD 5 = false ∧
     spaceOf (s.placed 1 0x200000 .write).1 ≠ .host) :=
  ⟨⟨issues_of (by decide), by decide⟩, ⟨issues_of (by decide), readable_of (by decide), by decide, by decide, by decide⟩⟩

/-- An add on the word at 0x200000, its record of home 0, and a step of it. -/
def rec0 : AnnRec := { (default : AnnRec) with state := 1, op := 0, nsteps := 1, type := 0, obj := 0x200000, asid := 1 }
def annLane0 (phase : AnnPhase) : AnnLane := { (default : AnnLane) with obj := 0x200000, va := 0x200000, phase := phase }

def homes (r : AnnRec) (phase : AnnPhase) : State :=
  let s := waitsFor (.ann 0 0 0 0x100000 [annLane0 phase]) id default
  { s with recs := [r], lists := [{ obj := 0x200000, recs := [0] }], mem := writeCells (tablesAt + 0xC010) [0x80] s.mem }

/-- What a home answers, as a number. -/
def kindOf : StepOut → Nat
  | .answered _ false => 0
  | .answered _ true => 1
  | .full _ => 2
  | .page .. => 3
  | .remote _ => 4

/-- The first action; a step that is applied, one whose delivery meets a page, and one whose cell lies at a peer. -/
theorem witness_AnnouncementSteps :
    (h0 (homes rec0 .start)).outst.length = 1 ∧
    (∀ p ∈ [AnnPhase.start, .send 0 1 true], ((h0 (homes rec0 p)).outst.head?).any (fun o =>
      (homes rec0 p).annReady (h0 (homes rec0 p)) o 0 [annLane0 p] (annLane0 p)) = true) ∧
    kindOf ((homes rec0 (.send 0 1 true)).homeStep 0 1) = 1 ∧
    kindOf ((homes { rec0 with nsteps := 2, prog := 1, cell := 0x20000000 } (.send 0 2 true)).homeStep 0 2) = 3 :=
  ⟨by decide, by decide, by decide, by decide⟩

/-- A record for which step 2 is not the next one, and step 1 is. -/
theorem witness_StepsApplyOnce : ((homes rec0 .start).rec? 0).map (fun r => (r.state, r.prog)) = some (1, 0) ∧
    kindOf ((homes rec0 .start).homeStep 0 1) = 1 :=
  ⟨by decide, by decide⟩

/-- Two threads on the object at 0x200000; and their results on the way, and a binding of 64 bytes for it. -/
theorem witness_AcquireReleaseBind :
    (Issues announces (split1 announces) annw ∧ Readable announces (split1 announces) 3 [(annw.hA, .move), (annC annw, .move)] annw.gDst [] ∧
      (∃ s', announces.checkAddrs (split1 announces) 3 ((Lanes.list 3).map (fun t => (t, 0x200000, .read))) = .ok s')) ∧
    ((waitsFor (.acq [(0, 0x200000), (1, 0x200000)]) id default).pendingLane 0 0 0).isSome = true ∧ spaceOf 0x200000 ≠ .peer ∧
    ((waitsFor (.rel [(0, 0x200000, 0), (1, 0x200000, 0)]) id default).pendingLane 0 0 0).isSome = true ∧
    (waitsFor (.rel [(0, 0x200000, 0), (1, 0x200000, 0)]) id default).storesDrained (h0 (demo id)) 0 0 = true ∧
    (waitsFor (.bind 0x200000 0x400000 64 true) id default).bindStatus 0 0x200000 0x400000 64 true = 0 ∧
    (waitsFor (.bind 0x200000 0x400000 0 false) id default).bindStatus 0 0x200000 0x400000 0 false = 3 :=
  ⟨⟨issues_of (by decide), readable_of (by decide), ok_of (by decide)⟩, by decide, by decide, by decide, by decide, by decide, by decide⟩

/-- A launch with one barrier group of this hand. -/
def grouped (f : Hand → Hand) : State :=
  let g : Group := { (default : Group) with members := [0], arrived := [(0, 1)], phase := 1, failed := 2 }
  { demoH (fun h => f { h with groups := [0] }) with launches := [{ (default : Launch) with asid := 1, groups := [g], nextHid := 1 }] }

/-- Group 0; a byte-counting barrier at 0 of a share, which holds 0; EXPECT at the bytes arrived, below and above them. -/
theorem witness_Barriers :
    (grouped id).barGroup (h0 (grouped id)) 0 = some 0 ∧ Issues (grouped id) (split1 (grouped id)) base0 ∧ base0.x.lr = 0 ∧
    Readable (grouped id) (split1 (grouped id)) 3 [(base0.hA, .move)] base0.gDst [] ∧
    Readable (grouped id) (split1 (grouped id)) 3 [(base0.hA, .move), (base0.gB, .move)] [] [] ∧
    ¬ 2 ^ 2 < (((grouped id).launch 0).group 0).failed + 1 ∧
    ((waitsFor (.barArv 0 [(0, 0)]) id default).pendingLane 0 0 0).isSome = true ∧
    (waitsFor (.barArv 0 [(0, 0)]) id default).storesDrained (h0 (demo id)) 0 0 = true ∧
    (∃ locs s', shared.checkAccess split0 3 true .write 16 16 (same 0) = .ok (locs, s')) ∧ (shared.readBBar (scratchLoc 0 0)).isOver = false ∧
    0 ≤ (3 : Word).toInt ∧ (4 : Word).toInt = 4 ∧ 0 ≤ (5 : Word).toInt :=
  ⟨by decide +kernel, issues_of (by decide), rfl, readable_of (by decide), readable_of (by decide), by decide +kernel, by decide, by decide, ok2_of (by decide),
    by decide, by decide, by decide, by decide⟩

/-- A record of the proxy with its AtomicOp under way, and one of a killed owner. -/
def atomic (dx : Bool) : State :=
  { waitsFor .value id default with recs := [{ rec0 with home := 64, idx := 0, dx := dx, obj := 2 ^ 61 }], atomics := [64 * 8192] }

theorem witness_HostAtomicsAndCancel :
    (∀ b, ((atomic b).rec? (64 * 8192)).map (fun r => r.dx) = some b ∧ 64 * 8192 ∈ (atomic b).atomics) ∧
    (let s : State := { waitsFor .value id default with recs := [{ rec0 with killed := true }] }
     (s.rec? 0).map (fun r => (r.killed, r.state, r.prog)) = some (true, 1, 0) ∧ s.peerCancels = [] ∧ 0 ∉ s.atomics) :=
  ⟨by decide +kernel, by decide, rfl, by decide⟩

/-! ### Classes 4 and 5 -/

def floats : State := demo (regs [reg 6 3 1 1, reg 8 3 1 1])
def mixedTags : State := demo (regs [reg 6 3 1 1, reg 8 4 1 1])

/-- Two F32 sources; and an F32 with a BF16x2 one, which raises TAGMIS. -/
theorem witness_FloatResults : Issues floats split0 base0 ∧ fltCheck split0 3 (h0 floats) base0 [base0.gA, base0.gB] isFloatTag = none ∧
    Readable floats split0 3 [(base0.gA, .move), (base0.gB, .move)] base0.gDst [] ∧ Issues mixedTags split0 base0 ∧
    (fltCheck split0 3 (h0 mixedTags) base0 [base0.gA, base0.gB] isFloatTag).isSome = true :=
  ⟨issues_of (by decide), by decide, readable_of (by decide), issues_of (by decide), by decide⟩

/-- Clean sources of one tag. -/
def cleanTag (s : State) (o : Operand) (tag : BitVec 4) : Prop :=
  poisonOf split0 3 (h0 s) o = none ∧ mixedOf split0 3 (h0 s) o = none ∧ tagmisOf split0 3 (h0 s) o (fun t => t == tag) = none

/-- F32 to BF16x2; an E4M3x4 element with its scale; a product of E4M3x4 and of E2M1x8 pairs; a reduction over S32. -/
theorem witness_ConversionResults :
    cleanTag floats base0.gA 3 ∧ poisonOf split0 3 (h0 floats) (base0.gName base0.nameD) = none ∧ convListed 3 4 = true ∧
    Readable floats split0 3 [(base0.gA, .move), (base0.gName base0.nameD, .move)] base0.gDst [] ∧
    (let s := demo (regs [reg 6 6 1 1, reg 8 0xC 1 1])
     base0.gA.isReg = true ∧ Issues s split0 base0 ∧ cleanTag s base0.gA 6 ∧ cleanTag s base0.gB 0xC ∧
     Readable s split0 3 [(base0.gA, .move), (base0.gB, .move)] base0.gDst []) ∧
    (∀ t ∈ [(6 : BitVec 4), 8],
      let s := demo (regs [reg 6 t 1 1, reg 7 t 1 1, reg 8 t 1 1, reg 9 t 1 1, reg 0 3 0 0])
      dotPair t t = true ∧ base0.pA = .pair 6 ∧ base0.pB = .pair 8 ∧ base0.pA.tag (h0 s) split0.uni 0 = t ∧ base0.pB.tag (h0 s) split0.uni 0 = t) ∧
    fltCheck split0 3 (h0 plain) base0 [base0.gA] (fun t => isFloatTag t || t == 1 || t == 2) = none :=
  ⟨⟨by decide, by decide, by decide⟩, by decide, by decide, readable_of (by decide),
   ⟨by decide, issues_of (by decide), ⟨by decide, by decide, by decide⟩, ⟨by decide, by decide, by decide⟩, readable_of (by decide)⟩, by decide, by decide⟩

/-- Shapes of 8 × 8 E4M3 tiles, with K along columns and along rows. -/
def shapeA : DWord := 8 + 8 * 2 ^ 9 + 6 * 2 ^ 18 + 2 ^ 24
def shapeB : DWord := shapeA + 2 ^ 22

/-- Tiles t2 and t3 of the core have these shapes, and its scratch is shared. -/
def tiled (f : Hand → Hand) : State :=
  let t (v : DWord) : Tile := { Tile.init with tsh := v }
  (demoH (fun h => f { h with groups := [0] })).updCore 0 (fun c =>
    { c with allocs := [(0, 0, 0, 4096)], tiles := [Tile.init, Tile.init, t shapeA, t shapeB] ++ List.replicate 12 Tile.init })

def tw : CoreWords := { base0 with d := 2, a := 8, b := 2, ext := some { ext0 with c := 3 } }

/-- A load of a tile, an `mma` whose block ends at row 256, one that passes it, a window, a block of 8 by 8, and an epilogue. -/
theorem witness_TilesIssue :
    Issues (tiled id) (split1 (tiled id)) tw ∧ Readable (tiled id) (split1 (tiled id)) 3 [(tw.hA, .move)] [] [] ∧
    (tiled id).core 0 = (tiled id).core 0 ∧ ((((tiled id).core 0).tiles.getD 2 Tile.init).tsh = shapeA) ∧
    shBroken (shapeA &&& ~~~((1 : DWord) <<< 24)) = false ∧ shBroken 0 = true ∧ shValid shapeA = true ∧ tileBytes shapeA = 64 ∧
    (∃ locs s', (tiled id).checkAccess (split1 (tiled id)) 3 true .read 64 64 (same 0) = .ok (locs, s')) ∧
    mmaPair (shTag shapeA) (shTag shapeB) = true ∧ mmaPair 4 5 = false ∧ shK shapeA = false ∧ shK shapeB = true ∧ shCols shapeA = shRows shapeB ∧
    248 + shRows shapeA ≤ 256 ∧ 256 < 249 + shRows shapeA ∧ 0 + shCols shapeB ≤ 256 ∧
    (∃ lines off s', (tiled id).blockDest (split1 (tiled id)) 3 false 0 256 = .ok (lines, off, s')) :=
  ⟨issues_of (by decide), readable_of (by decide), rfl, by decide, by decide, by decide, by decide, by decide, ok2_of (by decide), by decide, by decide,
    by decide, by decide, by decide, by decide, by decide, by decide, by
      obtain ⟨a, ⟨b, c⟩, h⟩ := ok2_of (x := (tiled id).blockDest (split1 (tiled id)) 3 false 0 256) (by decide); exact ⟨a, b, c, h⟩⟩

/-- The beginning of an engine thread that hand 0 forks with no older store. -/
def fork0 : Fork := { hand := 0, view := [], seqs := [], started := false }

/-- A member of a gang of two whose leader it is, in a handler with work in flight on its rows; a slice with the leader's tile, clean and with an uncorrectable word; a drain that may start, work
that may, and work that has been done. -/
theorem witness_TileWorkCompletes :
    (let s := tiled (fun h => { h with gang := 0x402 })
     let w : CoreWords := { tw with ext := some { ext0 with c := 3 } }
     Issues s (split1 s) w ∧ Readable s (split1 s) 3 [(w.hA, .move)] [] [] ∧ getField (h0 s).gang 0 3 ≠ 0 ∧ (h0 s).gang.getLsbD 9 = false ∧
     shValid shapeB = true ∧ shK shapeB = true ∧ getField (h0 s).gang 3 3 = getField (h0 s).gang 6 3 ∧ shValid shapeA = true ∧ shK shapeA = false) ∧
    (let s := (tiled (fun h => { h with gang := 0x402, trapMode := 3, trapSplit := 3 })).updCore 0 (fun c =>
       { c with work := [{ id := 4, pc := 0, op := .sums 0 0 [[0]], shA := 0, shB := 0, fork := fork0 }] })
     Issues s (split1 s) { tw with ext := some { ext0 with c := 3 } } ∧ (split1 s).lanes &&& (h0 s).trapMode ≠ 0 ∧
     ((s.core 0).work.find? (fun e => meetsRes e.writes (block 0 0 (shRows shapeA) (shCols shapeB)))).isSome = true) ∧
    (let z : Slice := { core := 0, row := 0, col := 0, b := 3, shA := shapeA, shB := shapeB, a := some Tile.init, forks := [fork0] }
     let x : TileWork := { id := 5, pc := 0, op := .slice 0 0 3 8, shA := shapeA, shB := shapeB, fork := fork0 }
     let s := (tiled (fun h => { h with slice := some z })).updCore 0 (fun c => { c with work := [x] })
     (h0 s).slice.isSome = true ∧ conflicts ((s.core 0).before 5) [.tile 3] (block 0 0 8 (shCols shapeB)) = false ∧ (∀ f ∈ z.forks, s.forkReady f = true) ∧
     meets (Tile.init.badRows shapeA) (List.range 8) = false ∧ ((s.core 0).tiles.getD 3 Tile.init).badRows shapeB = [] ∧ (s.core 0).badBlock 0 0 8 (shCols shapeB) = false ∧
     meets (Tile.badRows { Tile.init with bad := [0] } shapeA) (List.range 8) = true ∧ (Core.badBlock { s.core 0 with accBad := [(7, 0)] } 0 0 8 (shCols shapeB)) = true) ∧
    (let x : TileWork := { id := 0, pc := 0, op := .drain 0 0 8 8 1 0 0, shA := 0, shB := 0, fork := fork0 }
     let s (x : TileWork) : State := (waitsFor (.tile 0 0) id default).updCore 0 (fun c => { c with work := [x] })
     let y : TileWork := { x with op := .acz 0 0 1 8 }
     ((s x).core 0).work.length = 1 ∧ (s x).workReady 0 x = true ∧ ((s x).core 0).badBlock 0 0 8 8 = false ∧
     (((s y).kick 1 0).core 0).work.length = 1 ∧ y.ran = none ∧ ((s y).kick 1 0).workReady 0 y = true ∧ (y.op.meetsBad (((s y).kick 1 0).core 0) 0 0) = none ∧
     (match (s y).runWork 0 y [] with | .ok _ _ _ _ => true | .kill _ _ _ => false) = true ∧
     (match State.runWork ((s y).updCore 0 (fun c => { c with chk := [(0, 0x3F800000)] })) 0 { y with op := .epi 0 0 1 8 [] 0 0 0 none 3 0 false } [] with
       | .ok _ _ _ _ => false | .kill _ _ _ => true) = true ∧
     (TileOp.meetsBad { (s y).core 0 with accBad := [(0, 0)] } 0 0 y.op) = some 2 ∧ ({ y with ran := some 0 } : TileWork).ran = some 0) :=
  ⟨⟨issues_of (by decide), readable_of (by decide), by decide, by decide, by decide, by decide, by decide, by decide, by decide⟩,
   ⟨issues_of (by decide), by decide, by decide⟩,
   ⟨by decide, by decide, by decide, by decide, by decide, by decide, by decide, by decide⟩,
   ⟨by decide, by decide, by decide, by decide, by decide, by decide, by decide, by decide, by decide +kernel, by decide, rfl⟩⟩

theorem witness_MatrixAccumulates : 248 + (List.range 8).length ≤ 256 ∧ 248 + shCols shapeB ≤ 256 := by decide

/-! ### Classes 6 to 8 -/

/-- h2 and h3 are 0; a share of 4,096 bytes; words of class 6 that name them. -/
def ew : CoreWords := { base0 with d := 6, a := 2, b := 3 }

/-- A copy of one line, a window's image, a window, an empty and a full queue, and a job that has finished. -/
theorem witness_EnginesIssue :
    (let s := tiled id
     Issues s (split1 s) ew ∧ Readable s (split1 s) 3 [(ew.hA, .move), (ew.hB, .move)] [] [] ∧ ew.f2 14 1 = 0 ∧ ew.f2 18 1 = 0 ∧
     uniVal (split1 s) 3 (h0 s) 3 >>> 32 = 0 ∧ uniVal (split1 s) 3 (h0 s) 2 >>> 6 = 0 ∧
     (∃ locs s', s.checkAccess (split1 s) 3 true .write 64 64 (same 0) = .ok (locs, s')) ∧
     (∃ locs s', s.checkAccess (split1 s) 3 true .read 32 32 (same 0) = .ok (locs, s')) ∧
     ((s.touch (h0 s) [0, 1] 0 0).cluster 0).windows.find? (fun x => x.idx = 0) = none ∧ s.jobs = []) ∧
    (let s := tiled (hreg 2 64)
     Issues s (split1 s) ew ∧ uniVal (split1 s) 3 (h0 s) 2 >>> 6 ≠ 0) ∧
    (let s : State := { tiled id with clusters := [(0, { windows := [{ (default : Window) with state := 2 }] })] }
     Issues s (split1 s) ew ∧ (((s.touch (h0 s) [0, 1] 0 0).cluster 0).windows.find? (fun x => x.idx = 0)).map Window.state = some 2) ∧
    (let full (f : Option DWord) : State := { tiled id with jobs := List.replicate 8 { (default : Job) with queue := 2, finished := f } }
     let open_ (s : State) : Nat := (s.jobs.filter (fun j => j.fork.hand = 0 && j.queue == 2)).length
     8 ≤ open_ (full none) ∧ 8 ≤ open_ (full (some 0))) :=
  ⟨⟨issues_of (by decide), readable_of (by decide), by decide, by decide, by decide, by decide, ok2_of (by decide), ok2_of (by decide), by decide, rfl⟩,
   ⟨issues_of (by decide), by decide⟩, ⟨issues_of (by decide), by decide⟩, by decide⟩

/-- A control block of one slot at scratch 0, in a state of its slot. -/
def buffer (state : Nat) : State :=
  let s := (tiled id).updCore 0 (fun c => { c with cbd := List.replicate 8 (2 ^ 32) })
  { s with mem := writeCells (scratchLoc 0 0) (leBytes (2 ^ 32 + 2 ^ 44 + 2 ^ 48 + state * 2 ^ 128) 128) s.mem }

def image (state : Nat) : Nat := readN (buffer state).mem (scratchLoc 0 0) 128

/-- No descriptor; a slot that is free, claimed for a copy, in flight, full and taken; a store that has not drained. -/
theorem witness_BuffersAndCounters :
    cbdBlock 0 (((tiled id).core 0).cbd.getD 2 0) = none ∧ cbdBlock 0 (((buffer 0).core 0).cbd.getD 2 0) = some (scratchLoc 0 0) ∧
    Issues (buffer 0) (split1 (buffer 0)) ew ∧ (buffer 0).storesOpen (h0 (buffer 0)) 3 = false ∧
    (buffer 0).cbRead (scratchLoc 0 0) = some (image 0) ∧ (buffer 4).cbRead (scratchLoc 0 0) = some (image 4) ∧
    ((buffer 3).firstTake (scratchLoc 0 0)).isNone = true ∧ cbFeed (image 0) = true ∧
    cbState (image 0) (cbPI (image 0)) = 0 ∧ cbState (image 1) (cbWI (image 1)) = 1 ∧ cbState (image 3) (cbCI (image 3)) = 3 ∧
    cbState (image 4) (cbRI (image 4)) = 4 ∧ cbState (image 0) (cbCI (image 0)) ≠ 2 ∧
    ((demo (fun h => { h with mem := [{ (default : ThreadMem) with sb := [entry0], sbNext := 1 }] })).storesOpen (h0 buffered) 3 = true) :=
  ⟨by decide, by decide, issues_of (by decide), by decide, by decide +kernel, by decide +kernel, by decide, by decide +kernel, by decide +kernel,
    by decide +kernel, by decide +kernel, by decide +kernel, by decide +kernel, by decide⟩

/-- Experts 4,095 and 0 count; ranges with a chunk left, with none, and with one to give again. -/
def ranged (cur : DWord) (again : Bool) : State :=
  { demo (fun h => { h with range := some 0 }) with
    ranges := [{ (default : RangeState) with cur := cur, hi := 64, grain := 8 }], retained := [{ (default : Retained) with rngAgain := again }] }

theorem witness_BuffersAndCounters_counters :
    (let s := demo (regs [reg 6 0 4095 0])
     Issues s split0 base0 ∧ (h0 s).pair ≠ 2 ∧ (h0 s).part < 16 ∧ Readable s split0 3 [(base0.gA, .move)] base0.gDst [] ∧
     ∀ t ∈ Lanes.list 3, (base0.gA.word (h0 s) split0.uni t).toNat < 4096) ∧
    (h0 (demo id)).range = none ∧ Issues (ranged 0 false) split0 base0 ∧ (h0 (ranged 0 false)).range = some 0 ∧
    ((ranged 0 false).ranges.find? (fun x => x.id = 0)).map (fun r => (r.cur, r.hi, r.grain)) = some (0, 64, 8) ∧
    ((ranged 0 false).retain 0 0).rngAgain = false ∧ ((ranged 64 true).retain 0 0).rngAgain = true :=
  ⟨⟨issues_of (by decide), by decide, by decide, readable_of (by decide), by decide⟩, by decide, issues_of (by decide), by decide, by decide, by decide, by decide⟩

def copy0 : Copy := { (default : Copy) with started := true, fork := fork0 }

theorem witness_EnginesComplete :
    (let s : State := { demo id with copies := [copy0] }
     (s.kickCopies.copies.find? (fun c => c.id = 0)).any (fun c => c.moving) = true ∧ s.kickCopies.linesOpen 0 = false ∧ (s.kickCopies.hand 0).pair ≠ 2) ∧
    (let s : State := { demo id with clusters := [(0, { windows := [{ (default : Window) with state := 1 }] })] }
     ((s.cluster 0).windows.find? (fun x => x.idx = 0 && x.state == 1)).any (fun x => s.forkReady x.fork && !s.linesOpen x.fill) = true) ∧
    (let s : State := { demo id with jobs := [default] }
     (s.jobs.find? (fun j => j.fork.hand = 0 && j.queue == 0 && j.finished.isNone)).any (fun j => s.forkReady j.fork) = true ∧ (s.hand? 0).isSome = true ∧
     (h0 s).state ≠ .killed ∧ (h0 s).outst.length = 0) :=
  ⟨⟨by decide, by decide, by decide⟩, by decide, by decide, by decide, by decide, by decide⟩

/-- An open token, entry 0 of die 0 with generation 1, that c1 names. -/
def tokened (f : Hand → Hand) : State :=
  let s := demo (fun h => f { h with uni := { h.uni with c := putAt 16 0xFFFFFFFF (fun _ => 0x4000) 1 h.uni.c } })
  s.updDie 0 (fun d => { d with tokens := [{ idx := 0, state := 1, gen := 1, lid := 0 }] })

def rw1 : CoreWords := { base0 with d := 0, a := 1, b := 2 }

theorem witness_SpeculationIssues :
    Issues (tokened id) split0 rw1 ∧ Readable (tokened id) split0 3 ((List.range 8).map (fun n => (Operand.h (24 + n), .move))) [] [] ∧
    (h0 (tokened id)).pair ≠ 2 ∧ (((tokened id).die 0).tokens.filter (fun e => e.state != 0)).length < 4096 ∧ (h0 (tokened id)).schedC 1 = 0x4000 ∧
    ((tokened id).token? 0 0x4000).map Token.state = some 1 ∧ (∀ l ∈ Lanes.list 3, (h0 (tokened id)).readQ l 2 = false) ∧
    ((demo id).token? 0 0xFFFFFFFF).isNone = true ∧
    (let s := tokened (fun h => { h with q := [0, 0, 1] ++ List.replicate 13 0 })
     Issues s split0 rw1 ∧ Lanes.of (fun t => (3 : Lanes).has t && (h0 s).readQ t 2 != (h0 s).readQ 0 2) ≠ 0) ∧
    (let s := demoH (hreg 6 (2 ^ 30))
     Issues s (split1 s) base0 ∧ Readable s (split1 s) 3 [(base0.hA, .move)] [] [] ∧ uniVal (split1 s) 3 (h0 s) 6 >>> 30 ≠ 0) :=
  ⟨issues_of (by decide), readable_of (by decide), by decide, by decide, by decide, by decide, by decide, by decide, ⟨issues_of (by decide), by decide⟩,
   ⟨issues_of (by decide), readable_of (by decide), by decide⟩⟩

/-- A spawn on its way, a resolution that can be applied, and the store of a confirmed segment whose hand is gone. -/
theorem witness_SpeculationSteps :
    (let s := waitsFor (.spawn 0 0 [] (some 0x4000) true 0x8000 false 0 false [(0, 0)] none) id default
     (h0 s).outst.length = 1 ∧ ((h0 s).thread 0).older 0 = [] ∧ s.resolutions = [] ∧ s.tokenAt 0 0 0x4000 = 0) ∧
    (let s := waitsFor (.spawn 0 0 [] (some 0x4000) true 0x8000 false 0 false [(0, 0)] none) id default
     let t := s.updDie 0 (fun d => { d with tokens := [{ idx := 0, state := 3, gen := 1, lid := 0 }] })
     t.tokenAt 0 0 0x4000 = 3 ∧ (t.die 0).deck = []) ∧
    (let s : State := { tokened id with resolutions := [{ die := 0, token := 0x4000, outcome := true, hand := 0, order := 0 }] }
     s.resolutions.length = 1 ∧ (h0 s).outst = []) ∧
    (let e : Seg := { (default : Seg) with state := 5, draining := true, region := [(0, entry0)] }
     let s := (demo id).updDie 0 (fun d => { d with deck := [e] })
     s.ancestorsDrained e = true ∧ e.hand = none ∧ ((s.die 0).deck.length = 1)) :=
  ⟨⟨by decide, by decide, rfl, by decide⟩, ⟨by decide, rfl⟩, ⟨rfl, rfl⟩, ⟨by decide, rfl, rfl⟩⟩

/-- `srd` of hid and of tid, `swr` of rcell, an interrupt to hand 0 of its launch, and a `sig`. -/
theorem witness_SystemInstructions :
    (let w : CoreWords := { base0 with d := 4, a := 1, b := 0, ext := some ext0 }
     Issues (demo id) split0 w ∧ w.nameA = 1 ∧ Readable (demo id) split0 3 [] w.gDst []) ∧
    (let w : CoreWords := { base0 with d := 4, a := 0, b := 0, ext := some ext0 }
     Issues (demo id) split0 w ∧ w.nameA ≠ 1 ∧ ∃ r ∈ sysRows (demo id) split0 0 0, w.nameA = r.1) ∧
    (let w : CoreWords := { base0 with d := 9, a := 3, b := 0, ext := some ext0 }
     Issues (demo id) split0 w ∧ Readable (demo id) split0 3 [(w.hA, .move)] [] [] ∧ ∃ r ∈ sysWrites (demo id) split0 0 0, w.nameD = r.1) ∧
    (let s := grouped id
     Issues s (split1 s) ew ∧ Readable s (split1 s) 3 [(ew.hA, .move), (ew.hB, .move)] [] [] ∧ uniVal (split1 s) 3 (h0 s) 2 >>> 16 = 0 ∧
     0 < (s.launch 0).nextHid ∧ (s.handOf 0 0).any (fun x => x.state != .done && x.pendInt.isNone) = true) ∧
    (let s := demoH (hreg 6 0x200001)
     Issues s (split1 s) base0 ∧ Readable s (split1 s) 3 [(base0.hA, .move)] [] [] ∧ (uniVal (split1 s) 3 (h0 s) 6).toNat % 8 ≠ 0) ∧
    (let s := demoH (hreg 6 0x200000)
     Issues s (split1 s) base0 ∧ (uniVal (split1 s) 3 (h0 s) 6).toNat % 8 = 0 ∧ canonical (uniVal (split1 s) 3 (h0 s) 6) = true ∧ (h0 s).pair ≠ 2) :=
  ⟨⟨issues_of (by decide), by decide, readable_of (by decide)⟩, ⟨issues_of (by decide), by decide, ⟨_, List.mem_cons_self .., by decide⟩⟩,
   ⟨issues_of (by decide), readable_of (by decide), ⟨_, List.mem_cons_of_mem _ (List.mem_cons_of_mem _ (List.mem_cons_self ..)), by decide⟩⟩,
   ⟨issues_of (by decide), readable_of (by decide), by decide, by decide, by decide⟩, ⟨issues_of (by decide), readable_of (by decide), by decide⟩,
   ⟨issues_of (by decide), by decide, by decide, by decide⟩⟩

/-! ### The scheduler -/

/-- Beside the hand that runs, a launch of one hand with an identifier and a quota, in a state. -/
def waits (lid : Word) (quota : Nat) (st : HandState) (s : State) : State :=
  let l : Launch := { (default : Launch) with lid := lid, asid := 1, quota := quota, nextHid := 1, nhand := 1, xhand := 1 }
  { s with launches := s.launches ++ [l], hands := s.hands ++ [{ newHand l s.nextHand 0 0 0x100000 [] [] with state := st }], nextHand := s.nextHand + 1 }

/-- Nothing waits; an item that fits; one too large for a core, with one behind it that fits. -/
theorem witness_SchedulerSteps_placement :
    (demo id).waiting 0 = [] ∧
    (let s := waits 1 64 .unplaced (demo id)
     (s.startNodes (fun s k => s.queueFault k 0x86)).waiting 0 = [[1]] ∧ (s.fitItem [1]).map Prod.fst = some 1) ∧
    (let s := waits 2 0 .unplaced (waits 1 1985 .unplaced (demo id))
     s.waiting 0 = [[1], [2]] ∧ (s.fitItem [1]).isNone = true ∧ (s.part 0).reserve = false ∧ (s.hand 1).lid ≠ (s.hand 2).lid ∧
     (s.fitItem [2]).map Prod.fst = some 0) := by decide

/-- Hand 0 READY and slot 0 free; a register to spill and one to refill; a segment and a range task that can be dealt; a slot to retire. -/
theorem witness_SchedulerSteps_others :
    (let s := ((demo (fun h => { h with state := .ready })).updSlot 0 0 (fun x => { x with hand := none }))
     let ready := (((s.core 0).hands.filterMap id).map s.hand).filter (fun h => h.state == .ready && !s.covered h.part)
     s.coreStops 0 = false ∧ (s.core 0).slots.findIdx (fun x => x.hand.isNone && !x.rebuild) = 0 ∧ ready ≠ [] ∧ ready.all (fun h => !h.inTrap) = true) ∧
    (let s := demo (fun h => regs [reg 6 1 1 1] { h with squirrel := [.spillReg none 6] })
     (s.hand 0).squirrel = [.spillReg none 6] ∧ s.jobEntries 0 (.spillReg none 6) ≠ [] ∧
     ∀ x ∈ s.jobEntries 0 (.spillReg none 6), (s.hand x.1).settled x.2 = true) ∧
    ((demo (fun h => { h with squirrel := [.refill none 6] })).hand 0).squirrel = [.refill none 6] ∧
    ((State.reset.slot 0 0).retired = none ∧ (State.reset.slot 0 0).hand = none) := by decide

/-- A launch 1 with a PENDING segment and a running range task of eight chunks. -/
def dealt : State :=
  let s := waits 1 64 .running (demo id)
  let s := s.updHand 1 (fun h => { h with range := some 0 })
  let s := s.updPart 0 (fun p => { p with cfg := { p.cfg with rlrblk := 16 } })
  { s.updDie 0 (fun d => { d with deck := [{ (default : Seg) with state := 1, cum := 0x4000, lid := 1 }] }) with
    ranges := [{ (default : RangeState) with lid := 1, hi := 64, grain := 8 }], nextRange := 1 }

theorem witness_SchedulerSteps_deal :
    dealt.partOf 1 = some 0 ∧ coreDie 1 = 0 ∧ (dealt.part 0).reserve = false ∧ (dealt.part 0).quiesced = false ∧ dealt.covered 0 = false ∧
    dealt.someItemFits 0 = false ∧ dealt.rangeRuns ((dealt.ranges).headD default) = true ∧
    (dealt.halve (dealt.ranges.headD default) 1).isSome = true ∧
    (dealt.dealPending 0 ((dealt.die 0).deck.headD default) 1).isSome = false ∧
    ((dealt.updPart 0 (fun p => { p with cfg := { p.cfg with specsz := 1 } })).dealPending 0 ((dealt.die 0).deck.headD default) 1).isSome = true := by decide

/-- A request for the page at 2^28, whose entry is in the table that the program's page has its own in. -/
def asked : State :=
  { State.reset.placeProgram [] with
    pageReqs := [{ asid := 1, page := 4096, home := 0, entry := tablesAt + 0xC008, front := false, sender := 0 }],
    args := { (default : StepArgs) with half := 1, value := 0x10000000, value2 := 0x1000004F } }

theorem witness_SchedulerSteps_pages :
    (asked.pageReqs.find? (fun r => r.asid = asked.args.half && r.page == vaBits asked.args.value / 2 ^ 16)).isSome = true ∧
    asked.args.ok = false ∧ (asked.pageReqs.headD default).front = false ∧ (∀ h ∈ asked.hands, ∀ o ∈ h.outst, o.appending = false) ∧
    (asked.writeBytes (tablesAt + 0xC008) (leBytes asked.args.value2.toNat 8) Party.nobody).validPage (asked.pageReqs.headD default) asked.args.value =
      true := by decide

/-! ### The front end -/

/-- Queue 0 of the physical function, in slot 0 of die 0, with a ring of 1,024 words at 0x600000 and a descriptor at 0x500000 that says so. -/
def queue0 : Queue :=
  { (default : Queue) with desc := 0x500000, base := 0x600000, logsz := 10, asid := 1, slot := some 0 }

/-- The tables of `placeTables`, the queue's descriptor, and at 0x200000 a launch descriptor of one hand that enters at 0x100000. -/
def servedMem : List Host.Cell :=
  [(0x10008, 1), (0x10009, 0x40), (0x1000A, 1), (0x14000, 1), (0x14001, 0x80), (0x14002, 1), (0x18000, 1), (0x18001, 0xC0), (0x18002, 1), (0x1C000, 15),
   (0x200002, 0x10), (0x200008, 1), (0x500002, 0x60), (0x500008, 10), (0x50000A, 1)]

/-- Memory and the queue as given, with further words; command processor 0 runs in machine mode with 0xABCD in x1 and 4 in x2. -/
def served (f : Queue → Queue) (cells : List (Nat × Nat)) : State :=
  let s := (State.reset.placeProgram []).updPart 0 (fun p => { p with cfg := { p.cfg with rlrblk := 16 } })
  let s := s.updDie 0 (fun d => { d with fslots := putAt 64 none (fun _ => some (0, 0)) 0 d.fslots })
  let c : Cp := { Cp.init with mode := 3, slot := 0, x := [0, 0xABCD, 4] ++ List.replicate 29 0 }
  { s with cps := putAt 16 Cp.init (fun _ => c) 0 s.cps, cur := some (.cp 0), queues := [f queue0], mem := cells.foldl (fun m c => writeCells c.1 (leBytes c.2 8) m) servedMem }

/-- A packet with its words, in that slot. -/
def packet (hdr w1 w3 : Word) : PacketWords := { die := 0, slot := 0, hdr := hdr, w1 := w1, w2 := 0, w3 := w3, w4 := 0 }

theorem formed_of {w : PacketWords} {n : Nat}
    (h : ((packetCount w.type).join = none ∨ (packetCount w.type).join = some w.count) ∧ w.flags < n) : formed w n := h

/-- The queue as a reader. -/
def reader0 : Reader := .queue 0 0

def goes : Except Stop Nat → Nat
  | .ok loc => loc
  | .error .bad => 1
  | .error (.page ..) => 2
  | .error (.peer _) => 3

def launched : Disp → Nat
  | .fault _ => 0
  | .page .. => 1
  | .full _ => 2
  | .ok .. => 3
  | .asked _ => 4

/-- A packet of a wrong length, and one of each type; a queue with nothing in flight and one with a launch in flight; words at 0x300000. -/
theorem witness_PacketsServed :
    ((served id []).slotQueue 0 0 = some queue0) ∧ queue0.settled = true ∧
    (∀ r ∈ packetRows, ¬ formed (packet 0x01003001 0 0) r.2) ∧ packetCount (packet 0x09000000 0 0).type = none ∧
    (formed (packet 0x00000000 0 0) 1 ∧ formed (packet 0x06000001 0 0) 2 ∧ formed (packet 0x05003000 0x300000 1) 1 ∧
     formed (packet 0x04004003 0x300000 1) 4 ∧ formed (packet 0x03004001 0x300000 1) 4 ∧ formed (packet 0x07004001 0x300000 1) 2 ∧
     formed (packet 0x01004001 0x200000 0x300000) 2 ∧ formed (packet 0x02004000 0 0x300000) 2) ∧
    (let q : Queue := { queue0 with inFlight := [(.launch 0, { rptr := 0, ib := [] })], ib := [0, 0, 0, 0] }
     (served (fun _ => q) []).slotQueue 0 0 = some q ∧ q.settled = false ∧ 4 ≤ q.ib.length) ∧
    goes ((served id []).feLoc reader0 1 0x300000 .write) = 0x300000 ∧ goes ((served id []).feLoc reader0 1 0x300000 .read) = 0x300000 ∧
    goes ((served id []).feLoc reader0 1 (2 ^ 60) .read) = 1 ∧ ¬ (spaceOf 0x300000 = .host ∧ (served id []).hostLink.lost = true) ∧
    (readWord (served id [(0x300000, 5)]).mem 0x300000).toNat = 5 ∧ (served id []).readyQueues 0 = [] :=
  ⟨by decide, by decide, fun r hr h => absurd h (by revert r; unfold formed; decide), by decide,
   ⟨formed_of (by decide), formed_of (by decide), formed_of (by decide), formed_of (by decide), formed_of (by decide), formed_of (by decide),
    formed_of (by decide), formed_of (by decide)⟩, by decide, by decide +kernel, by decide +kernel, by decide +kernel, by decide, by decide +kernel, by decide⟩

/-- A launch that is accepted, one refused; a graph of one node that waits for another, and one past the end of the table. -/
theorem witness_PacketsServed_launches :
    launched ((served id []).dispatch queue0 0x200000 0x300000 none) = 3 ∧ launched ((served id []).dispatch queue0 0x200008 0x300000 none) = 0 ∧
    (let s := (served id []).updNode 0 0 (fun n => { n with npred := 1 })
     let g : Graph := { id := s.nextGraph, die := 0, first := 0, count := 1, mode := false, signal := 0x300000, asid := 1, queue := (0, 0),
                        pos := { rptr := s.qRptr queue0, ib := [] }, parsing := true }
     s.graphs.find? (fun g => g.queue = (0, 0) && g.parsing) = none ∧ (∀ i ∈ g.nodes, (s.node g.die i).nstate = nIdle) ∧
     (State.startGraph { s.arm g with graphs := s.graphs ++ [g], nextGraph := s.nextGraph + 1 } queue0 g).2.isNone = true) ∧
    (let w : PacketWords := { packet 0x02004000 8192 0x300000 with w2 := 1 }
     formed w 2 ∧ w.hi.toNat % 8 = 0 ∧ 8192 < w.w1.toNat + w.w2.toNat) :=
  ⟨by decide +kernel, by decide +kernel, by decide, formed_of (by decide), by decide, by decide⟩

/-- A sound descriptor at 0x700000 and one of zeros; the queue with its STATE and pointers; a launch that is over. -/
theorem witness_QueuesServed :
    (let s : State := { served id [(0x700000, 0x600000), (0x700008, 10)] with args := { (default : StepArgs) with m := 1, value := 0x700000 } }
     s.queue? (0, 1) = none ∧ deviceExists 0x700000 = true ∧ bits (readN s.mem 0x700000 64) 64 5 = 10 ∧ bits (readN s.mem 0x700000 64) 96 416 = 0 ∧
     bits (readN s.mem 0x700000 64) 0 12 = 0 ∧ s.owns 0 0 = true ∧ (s.queues.filter (fun q => q.part = 0)).length < 4096 ∧
     bits (readN s.mem 0x780000 64) 64 5 < 10) ∧
    ((served id []).queue? (0, 0)).isSome = true ∧ (served id []).qState queue0 = qIdle ∧ (served id [(0x500018, qFaulted)]).qState queue0 = qFaulted ∧
    ((served id []).qRptr queue0 = 0 ∧ (served id []).qWptr queue0 = 0 ∧ (5 - (0 : Word)).toNat ≤ 2 ^ 10 ∧ 2 ^ 10 < (2000 - (0 : Word)).toNat) ∧
    (let s := (served (fun q => { q with slot := none }) [(0x500010, 5 * 2 ^ 32)]).updDie 0 (fun d => { d with fslots := List.replicate 64 none })
     s.readyQueues 0 ≠ [] ∧ (s.die 0).fslots.findIdx Option.isNone < 64) ∧
    ((served (fun q => { q with hold := .completions, inFlight := [(.launch 0, { rptr := 0, ib := [] })] }) []).slotQueue 0 0).map
      (fun q => (q.hold, q.settled)) = some (.completions, false) ∧
    (let s : State := { waits 1 64 .done (served id []) with args := { (default : StepArgs) with lid := 1 } }
     (s.launch? s.args.lid).any (fun l => l.twinOf.isNone && s.launchOver l && (match s.endLaunch l with | .ok _ => true | .error _ => false)) = true) :=
  ⟨by decide +kernel, by decide, by decide +kernel, by decide +kernel, by decide +kernel, by decide +kernel, by decide, by decide +kernel⟩

def waitWords : PacketWords := packet 0x03004000 0x300000 1

/-- A `wait` in the ring whose word at 0x300000 does not hold; registrations of the host's that can be made, are made, and have no place. -/
theorem witness_QueuesServed_waits :
    (let s := served (fun q => { q with hold := .reread }) [(0x600000, 0x30000003004000), (0x600008, 2 ^ 32), (0x500010, 5 * 2 ^ 32)]
     (match s.fetchPacket 0 0 with | .ok (.wait w) => decide (w = { waitWords with w3 := 1 }) | _ => false) = true ∧
     goes (s.feLoc reader0 1 waitWords.lo .read) = 0x300000 ∧ waitCond (waitWords.flags % 4) (readWord s.mem 0x300000) waitWords.hi = false ∧
     (s.registerWaiter 1 waitWords.lo (fun e => { e with queues := [(0, 0)] })).any (fun t => !waitCond 0 (readWord t.mem 0x300000) 1) = true) ∧
    formed waitWords 4 ∧
    (let s : State := { served id [] with args := { (default : StepArgs) with half := 1, value := 0x300000, value2 := 7 } }
     canonical 0x300000 = true ∧ (∃ q ∈ s.queues, q.fn = 0 ∧ q.asid = s.args.half) ∧ (s.wakeEntry 1 0x300000).bind WakeEntry.line = none ∧
     (s.registerWaiter 1 0x300000 id).isSome = true ∧
     (let e : WakeEntry := { asid := 1, key := 0x300000, hands := [], queues := [], line := some 7 }
      let t : State := { s with wake := [e] }
      (t.wakeEntry 1 0x300000).bind WakeEntry.line = some 7)) :=
  ⟨by decide +kernel, formed_of (by decide), by decide, ⟨_, List.mem_cons_self .., by decide⟩, by decide, by decide, by decide⟩

/-- Every entry of the table holds another word. -/
def waitingWords : State :=
  { served id [] with wake := List.replicate wakeCapacity { asid := 2, key := 0, hands := [0], queues := [], line := none } }

theorem witness_QueuesServed_full : waitingWords.registerWaiter 1 0x300000 id = none := by
  have h : waitingWords.wakeEntry 1 0x300000 = none := by
    simp [State.wakeEntry, waitingWords]
  unfold State.registerWaiter
  rw [h]
  exact if_pos (by simp [waitingWords])

def dv0 : DvWord := { rd := 3, rs1 := 1, rs2 := 2, cond := 0 }

/-- User and machine mode; a field of 8 bits and one of none; a word of the ring and one past WPTR. The signal word and the launches are those of
`witness_PacketsServed`. -/
theorem witness_FirmwareInstructions :
    (let s : State := { served id [] with cps := putAt 16 Cp.init (fun c => { c with mode := 0 }) 0 (served id []).cps }
     s.cur = some (.cp 0) ∧ (s.cps.getD 0 Cp.init).mode ≠ 3) ∧
    (let s := served id [(0x500010, 5 * 2 ^ 32)]
     let c := s.cps.getD 0 Cp.init
     s.cur = some (.cp 0) ∧ c.mode = 3 ∧ s.slotQueue (0 / 4) c.slot = some queue0 ∧ s.slotQueue 0 ((c.reads dv0.rs1).toNat % 64) = none ∧
     (c.reads dv0.rs2).toNat < (s.qWptr queue0 - s.qRptr queue0).toNat ∧ (c.reads 0) >>> 6 = 0 ∧ goes (s.ringWord queue0 4) = 0) ∧
    (((served id []).qWptr queue0 - (served id []).qRptr queue0).toNat ≤ 4) ∧
    (let b : DWord := 8 * 64 + 4
     bits b.toNat 0 6 = 4 ∧ bits b.toNat 6 7 = 8 ∧ b >>> 13 = 0 ∧ bits (0 : DWord).toNat 6 7 = 0) :=
  ⟨by decide, by decide +kernel, by decide +kernel, by decide⟩

/-! ### The peer fabric -/

def port0 (f : Port → Port) : State := { State.reset.updPort 0 f with args := { (default : StepArgs) with code := 0x7F, ok := true } }

def msg0 : PeerMsg := { (default : PeerMsg) with addr := 0x300000 }

/-- Port 0 up, with a flit that waits for its ACK, with what is open to acknowledge, and after eight REPLAYs. -/
theorem witness_PeerFabric :
    (0 < (port0 id).ports.length ∧ ((port0 id).port 0).up = true ∧ ((port0 id).port 0).replayFails < 8 ∧ listedKind 0x7F = false) ∧
    ((port0 (fun x => { x with replayFails := 8 })).port 0).replayFails = 8 ∧ ((port0 (fun x => { x with sinceAck := 3 })).port 0).sinceAck ≠ 0 ∧
    (let r : PeerReq := { (default : PeerReq) with kind := kindRD, msg := msg0 }
     let s : State := { port0 id with reqs := [r] }
     s.reqs.find? (fun r => r.die = s.args.n && r.tag.toNat == s.args.m) = some r) := by decide

/-- A request to the device at port 0, of any kind and for any use. -/
def request0 (kind : BitVec 8) (use : PeerUse) : PeerReq := { (default : PeerReq) with kind := kind, msg := msg0, use := use, dev := Config.peerOf 0 }

theorem witness_PeerFabric_responses (kind : BitVec 8) (use : PeerUse) :
    (({ port0 id with reqs := [request0 kind use] } : State).updPort 0 Port.accept).matching 0 kind msg0 = some (request0 kind use) := by
  simp [State.matching, State.updPort, request0, msg0]; decide

theorem witness_PeerFabric_messages :
    ((port0 id).inOrder 0 msg0 = true ∧ (port0 id).inOrder 0 { msg0 with seq := 5 } = false) ∧
    (∃ n, sizeBytes msg0.size = some n ∧ deviceRange 0x300000 n = true ∧ (port0 id).badRange 0x300000 n = false ∧ deviceRange (2 ^ 60) n = false) ∧
    (deviceRange (0x300000 / 64 * 64) 64 = true ∧ deviceRange (2 ^ 60) 64 = false ∧ deviceRange (2 ^ 60) 8 = false ∧ 0x300000 % 8 = 0) ∧
    (let t := (port0 id).updPort 0 Port.accept
     (t.allocRec (homeOf 0x300000) { t.foreignRec msg0 with obj := 0x300000 }).isSome = true) ∧
    (let s : State := { demo id with launches := [{ (default : Launch) with asid := 1 }] }
     (s.launch? 0).isSome = true ∧ goesTo 0x300000 (s.translate 1 0x300000 .write) = true ∧ ((port0 id).launch? 0) = none) ∧
    (({ port0 id with recs := [rec0] } : State).rec? (0 * 8192 + 0)).isSome = true ∧
    (let s : State := { port0 id with recs := [rec0] }
     (match s.homeStep 0 0 with | .answered _ _ => true | _ => false) = true) :=
  ⟨by decide, ⟨_, rfl, by decide +kernel, by decide +kernel, by decide +kernel⟩, by decide, by decide, by decide +kernel, by decide, by decide⟩

/-! ### BAR0, checkpoints, resets and management -/

/-- Partition 1 takes its staged block; a busy partition, a cluster that partition 0 has, and too large a share; the bindings; the TLBs. -/
theorem witness_BarRegisters :
    (State.reset.commitStatus 1 = 0 ∧ (waits 1 64 .unplaced State.reset).commitStatus 0 = 1 ∧
     ((demo id).updPart 1 (fun p => { p with staged := { p.cfg with en := true, clusters := 1 } })).commitStatus 1 = 2 ∧
     (State.reset.updPart 1 (fun p => { p with staged := { p.cfg with en := true, clusters := 1, specsz := 33 } })).commitStatus 1 = 3) ∧
    (let b : BitVec 8 := 0x83 &&& 0x8F
     b.getLsbD 7 = true ∧ (∀ g, g < 64 → (State.reset.funcs.getD g Func.init).bind ≠ b) ∧
     ((State.reset.funcs.getD 1 Func.init).bind).getLsbD 7 = false) ∧
    ((∀ x ∈ State.reset.parts, x.cfg.en = false) ∧ (∃ x ∈ (demo id).parts, x.cfg.en = true) ∧
     ({ State.reset.trans with done := true } : Trans).done = true ∧ ({ State.reset.trans with done := false } : Trans).done = false) :=
  ⟨by decide, by decide, by decide, ⟨_, List.mem_cons_self .., by decide⟩, by decide, by decide⟩

/-- A module of one kernel, `add` of g6 and g8 to g4, at 0x300000. -/
def epf0 : List (Nat × Nat) :=
  [(0x300000, 0x101465045), (0x300008, 64 + 24 * 2 ^ 32), (0x300018, 56), (0x300040, 4 * 2 ^ 32 + 6 * 2 ^ 56), (0x300048, 8 * 2 ^ 16 + 0xFFFFFF * 2 ^ 40)]

/-- Its bytes, with its one record's D as given. -/
def epfBytes (d : Nat) : Bytes :=
  leBytes 0x101465045 8 ++ leBytes (64 + 24 * 2 ^ 32) 8 ++ leBytes 0 8 ++ leBytes 56 8 ++ List.replicate 32 0 ++
    leBytes (d * 2 ^ 32 + 6 * 2 ^ 56) 8 ++ leBytes (8 * 2 ^ 16 + 0xFFFFFF * 2 ^ 40) 8 ++ leBytes 0 8

/-- A translation of the whole of the first 256 MiB that a TLB holds. -/
def quick (site : Nat) (s : State) : State := { s with tlb := [{ site := site, asid := 1, va := 0, level := 2, leaf := 0xF }] }

/-- The module as it is read; it is good; with zeros for a header, and with a D that names no register, it is not. -/
theorem witness_BarRegisters_finalise :
    (let s := quick 2048 (served id epf0)
     (∃ q ∈ s.queues, q.fn = 0 ∧ q.asid = 1) ∧ (match (s.frontTouch 0 (.finaliser 0) 1 (0x300000, 88)).feBytes (.finaliser 0) 1 88 0x300000 with | .ok m => m == epfBytes 4 | .error _ => false) = true) ∧
    epfHeaderOk (epfBytes 4) = true ∧ epfBadRecord (epfBytes 4) = none ∧ epfHeaderOk (List.replicate 88 0) = false ∧
    epfHeaderOk (epfBytes 0xFFFFFF) = true ∧ epfBadRecord (epfBytes 0xFFFFFF) = some 0 ∧ (∀ q ∈ State.reset.queues, ¬ (q.fn = 0 ∧ q.asid = 0)) :=
  ⟨⟨⟨_, List.mem_cons_self .., by decide⟩, by decide +kernel⟩, by decide +kernel, by decide +kernel, by decide +kernel, by decide +kernel, by decide +kernel,
    by decide⟩

/-- Hand 0 of launch 0, for the debugger. -/
def debugged (dbg : Bool) (st : HandState) : State :=
  { (demo (fun h => { h with state := st })).updPart 0 (fun p => { p with cfg := { p.cfg with dbg := dbg } }) with args := default }

/-- A HALTED hand whose record of VER 1, at 0x200000, maps no register. -/
def haltedGood : State :=
  let h : Hand := { programHand 0 with state := .halted, spbase := 0x200000, spsz := 1 }
  { quick 0 (State.reset.updPart 0 (fun p => { p with cfg := { p.cfg with dbg := true } })) with hands := [h], mem := [(0x200000, 1)], args := default }

theorem witness_BarRegisters_debug :
    (debugged true .halted).debugBusy = false ∧ (debugged true .halted).mgmt.alarm.toNat < 2 ∧ State.reset.debugHand = none ∧
    2 ≤ ({ State.reset.mgmt with alarm := 2 } : Mgmt).alarm.toNat ∧
    (∀ x ∈ [(true, HandState.ready), (true, .running), (true, .parked), (true, .asleep), (true, .halted), (false, .ready)],
      (debugged x.1 x.2).debugHand.map (fun h => (((debugged x.1 x.2).part h.part).cfg.dbg, h.state)) = some x) ∧
    ((debugged true .halted).readCtx ((debugged true .halted).hand 0)).isNone = true ∧
    (haltedGood.debugBusy = false ∧ haltedGood.mgmt.alarm.toNat < 2 ∧ haltedGood.debugHand.map (fun h =>
      ((haltedGood.part h.part).cfg.dbg, h.state, (haltedGood.readCtx h).isSome)) = some (true, .halted, true)) :=
  ⟨by decide, by decide, by decide, by decide, by decide, by decide +kernel, by decide, by decide, by decide +kernel⟩

def key0 : Bytes := List.replicate 64 0
def snap0 : Snapshot := { (default : Snapshot) with key := key0, parts := 1 }

/-- The header of a checkpoint of partition 0 with no range and no state: a body of no bytes. -/
def header0 : Bytes := ckptHeader false 1 0 0 0 0 (keyWrap (kekBytes 0) key0) (sha256 []) []

theorem wkey_length : (keyWrap (kekBytes 0) key0).length = 72 := by decide +kernel
theorem digest_length : (sha256 []).length = 32 := by decide +kernel

theorem header_parts : ∃ pre post : Bytes, header0 = pre ++ (keyWrap (kekBytes 0) key0 ++ (sha256 [] ++ post)) ∧ pre.length = 40 ∧ post.length = 3952 := by
  refine ⟨_, _, by simp only [header0, ckptHeader, List.append_assoc]; rw [← List.append_assoc, ← List.append_assoc, ← List.append_assoc, ← List.append_assoc], ?_, ?_⟩ <;>
  simp only [List.length_append, List.length_replicate, leBytes_length, List.foldr_nil, List.length_nil]

theorem header_length : header0.length = 4096 := by
  obtain ⟨pre, post, h, hl, hp⟩ := header_parts
  rw [h]; simp only [List.length_append, hl, hp, wkey_length, digest_length]

theorem header_wkey : headerWkey header0 = keyWrap (kekBytes 0) key0 := by
  obtain ⟨pre, post, h, hl, _⟩ := header_parts
  rw [headerWkey, h, List.drop_left' hl, List.take_left' wkey_length]

theorem header_digest : headerDigest header0 = sha256 [] := by
  obtain ⟨pre, post, h, hl, _⟩ := header_parts
  rw [headerDigest, h, ← List.append_assoc, List.drop_left' (by simp only [List.length_append, hl, wkey_length]), List.take_left' digest_length]

/-- A vault that holds that checkpoint at 0. -/
def vaulted (s : State) : State :=
  { s with mgmt := { s.mgmt with kekPresent := true, kekGen := 0 }, vault := writeCells 0 header0 [], snapshots := [snap0] }

theorem vaulted_header (s : State) : readCells (vaulted s).vault 0 4096 = header0 := by
  have h : readCells (writeCells 0 header0 []) 0 header0.length = header0 := readCells_writeCells header0 0 (by decide)
  rw [header_length] at h
  simp only [vaulted, h]

theorem vaulted_unwrapped (s : State) : (vaulted s).unwrapped header0 = some snap0 := by
  have h : bits (leNat (header0.take 16)) 96 32 = 0 := by decide +kernel
  simp only [State.unwrapped, vaulted, h, header_wkey]
  simp [snap0]

/-- A good CKPT and a bad one; a copy whose hands do not run. -/
theorem witness_Checkpoints :
    formed (packet 0x08004001 0 0x300000) 4 ∧ queue0.settled = true ∧ (served id []).ckpt = none ∧
    ((queue0.fn = 0 ∧ (packet 0x08004001 0 0x300000).lo.toNat % 4096 = 0 ∧ (served id []).vaultUp ≠ 0) ∧ (packet 0x08004001 8 0).lo.toNat % 4096 ≠ 0) ∧
    ((served id []).ckptRanges true 0).length ≤ 240 ∧ (served id []).headerOk [] = false ∧
    (let s : State := { waits 1 64 .ready (served id []) with ckpt := some { (default : Ckpt) with parts := 1 } }
     let s := s.updHand 0 (fun h => { h with state := .ready })
     (s.ckpt.any (fun c => !c.restore) && s.hands.all (fun h => h.state != .running)) = true) :=
  ⟨formed_of (by decide), by decide, by decide, by decide, by decide, by decide, by decide⟩

theorem witness_Checkpoints_restore : (vaulted (served id [])).headerOk (readCells (vaulted (served id [])).vault 0 4096) = true := by
  have h : leNat (header0.take 24) = 0x102584B43 + 2 ^ 64 := by decide +kernel
  have h' : headerRanges header0 = [] := by decide +kernel
  rw [vaulted_header]
  simp only [State.headerOk, vaulted_unwrapped, h, h']
  decide +kernel

theorem witness_Checkpoints_loaded : (vaulted (served id [])).intact 0 = some snap0 ∧ (served id []).intact 0 = none := by
  refine ⟨?_, rfl⟩
  have h : bits (leNat (header0.take 32)) 192 64 = 0 := by decide +kernel
  simp only [State.intact, vaulted_header, h, vaulted_unwrapped, header_digest]
  simp [readCells]
  decide

/-- Reset's state takes a cold start, a warm reset and an FLR; a queue whose oldest launch has lasted its time. -/
theorem witness_Resets :
    (3 ≤ State.reset.mgmt.bringup ∨ State.reset.mgmt.bringup < 3) ∧
    (let s : State := { State.reset with mgmt := { State.reset.mgmt with bringup := 6, heldReset := false } }
     6 ≤ s.mgmt.bringup ∧ s.mgmt.heldReset = false ∧ s.ckpt = none) ∧
    (∀ n ∈ [0, 3, 5, 6], ({ State.reset.mgmt with bringup := n } : Mgmt).bringup = n) ∧
    (let s := waits 1 64 .running (served (fun q => { q with owl := .counting, owlCount := 1 }) [])
     (s.queue? (0, 0)).map (fun q => q.owl) = some .counting ∧ ((s.oldestLaunch (0, 0)).map (fun l => decide (2 ^ l.owlb ≤ 1))) = some true) :=
  ⟨by decide, by decide, by decide, by decide⟩

/-- Alarm levels 0 to 3; failed unlocks; a sensor that falls to 5; the host link up, lost, and with a checkpoint in work. -/
theorem witness_Management :
    (State.reset.mgmt.alarm.toNat < 3 ∧ State.reset.ckpt = none ∧ ∀ n ∈ [0, 1, 2, 3], (BitVec.ofNat 2 n).toNat = n) ∧
    (∀ n ∈ [0, 2, 7], ({ State.reset.mgmt with unlockFails := n } : Mgmt).unlockFails = n) ∧
    (640 ∈ linkRates ∧ 16 ∈ linkWidths ∧ 0 ∉ linkRates) ∧
    (let l : HostLink := { State.reset.hostLink with lost := true, choice := none, up := true }
     l.lost = true ∧ l.choice = none ∧ l.up = true) ∧
    deviceRange ((0x300000 : DWord).toNat / 64 * 64) 64 = true ∧ State.reset.mgmt.fuses.getD 0 0 ≤ 0 ∧
    ({ State.reset.mgmt with spdm := true } : Mgmt).spdm = true := by decide

/-! ### Further clauses -/

/-- An uncorrectable word in g6 of lane 0, which is active, and of lane 5, which has exited. -/
def errs (l : Lanes) : State := demo (regs [{ reg 6 1 1 1 with reg := { value := List.replicate 32 1, tag := 1, poison := 0, err := l } }, reg 8 1 1 1])

theorem witness_StoredErrors : ∃ r ∈ intRows, ∀ l ∈ [(1 : Lanes), 32],
    Issues (errs l) split0 base0 ∧ split0.active (h0 (errs l)) base0 = 3 ∧ checkSources split0 3 (h0 (errs l)) (r.ops false base0) = none ∧
    (errs l).regNeed 0 3 [6, 8] base0.gDst [] = .ready ∧
    (∃ p ∈ regsOf (h0 (errs l)) 3 ((r.ops false base0).map Prod.fst), ((h0 (errs l)).storedErrs p.1).1 = l) ∧
    ((∀ p ∈ regsOf (h0 (errs l)) 3 ((r.ops false base0).map Prod.fst), ((h0 (errs l)).storedErrs p.1).1 &&& p.2 = 0) ↔ l = 32) := by
  refine ⟨_, List.mem_cons_self .., fun l hl => ?_⟩
  simp only [List.mem_cons, List.not_mem_nil, or_false] at hl
  rcases hl with rfl | rfl <;> exact ⟨issues_of (by decide), by decide, by decide, by decide, by decide, by decide⟩

/-- The windows of depth 31 have room for the link of a call from depth 30. -/
theorem witness_CallsAndReturns_room :
    let s := demo (fun h => { h with depth := List.replicate 32 30 })
    let deep := s.updHand 0 (fun h => { h with depth := (List.range 32).map (fun t => if (3 : Lanes).has t then h.depthOf t + 1 else h.depthOf t) })
    deep.needOf 0 [] (((deep.hand 0).places 3 60 ++ (deep.hand 0).places 3 61).map Prod.fst)
      (base0.gA.gNames.foldl (fun acc n => acc ++ ((h0 s).places 3 n).map Prod.fst) []) false [] = .ready := by decide

theorem spaceOf_peerLoc (d pa : Nat) : spaceOf (peerLoc d pa) = .peer := by
  have h : 2 ^ 65 ≤ peerLoc d pa := by unfold peerLoc; omega
  unfold spaceOf
  rw [if_neg (by omega), if_neg (by omega), if_neg (by omega)]

theorem peerDev_peerLoc (d pa : Nat) (h : pa < 2 ^ 64) : peerDev (peerLoc d pa) = d := by
  unfold peerDev peerLoc
  omega

/-- A place in the memory of the device at port 0. -/
def there : Nat := peerLoc (Config.peerOf 0).toNat 0x300000

/-- A state in which port 0 is up can ask that device for words and steps. -/
theorem portTo_there (s : State) (h : s.ports = State.reset.ports) : s.portTo (Config.peerOf 0) = some 0 := by
  unfold State.portTo State.port
  rw [h]
  show List.find? _ (0 :: (List.range 17).map Nat.succ) = some 0
  rw [List.find?_cons_of_pos]
  simp; decide

theorem asks_peer (s : State) (h : s.ports = State.reset.ports) (die n : Nat) (use : PeerUse) : ∃ t, s.readPeer die there n use = some t := by
  have hd : BitVec.ofNat 16 (peerDev there) = Config.peerOf 0 := by
    unfold there
    rw [peerDev_peerLoc _ _ (by decide), BitVec.ofNat_toNat, BitVec.setWidth_eq]
  unfold State.readPeer State.request
  rw [hd, portTo_there s h]
  exact ⟨_, rfl⟩

/-- The page at 0x300000 lies there. -/
def peered (s : State) : State :=
  { s with peerWin := [(0, Config.peerOf 0)], tlb := [{ site := 0, asid := 1, va := 0, level := 2, leaf := 0x2F }] }

theorem peered_translates (s : State) (i : SplitIssue) (h : s.cur = some (.split i)) (hc : i.core = 0) :
    ∃ e, (peered s).translate 1 0x300000 .read = .ok there e := by
  have hu : (peered s).unit = 0 := by simp [State.unit, peered, h, hc]
  have ht : (peered s).tlbFind 0 1 0x300000 = some { site := 0, asid := 1, va := 0, level := 2, leaf := 0x2F } := by
    have : (tlbSites 0).findSome? (fun k => [({ site := 0, asid := 1, va := 0, level := 2, leaf := 0x2F } : TlbEntry)].find? (fun e => e.covers k 1 0x300000)) =
      some { site := 0, asid := 1, va := 0, level := 2, leaf := 0x2F } := by decide
    exact this
  have hl : (peered s).leafLoc 2 0x2F 0x300000 = some there := by
    unfold State.leafLoc
    simp only [show bits (0x2F : DWord).toNat 16 40 = 0 by decide, show bits (0x2F : DWord).toNat 5 2 = 1 by decide,
      show bits (0x2F : DWord).toNat 56 8 = 0 by decide, show 0x300000 % 2 ^ pageBits 2 = 0x300000 by decide]
    simp [peered, there]
  refine ⟨{ site := 0, asid := 1, va := 0, level := 2, leaf := 0x2F }, ?_⟩
  unfold State.translate
  rw [hu, show canonical 0x300000 = true by decide, show vaBits 0x300000 = 0x300000 by decide]
  simp only [ht, hl, leafPermits]
  rfl

theorem witness_ExitAndYield_peer :
    let s := peered (demoH (hreg 3 0x300000))
    Issues s (split1 s) sleeps ∧ Readable s (split1 s) 3 [(sleeps.hA, .move), (sleeps.hB, .move)] [] [] ∧ uniVal (split1 s) 3 (h0 s) 3 = 0x300000 ∧
    (∃ e, s.translate 1 0x300000 .read = .ok there e) ∧ spaceOf there = .peer ∧ s.reqs = [] ∧ (s.registerWaiter 1 0x300000 id).isSome = true ∧
    ∃ t, s.readPeer 0 there 8 (.watch 0 0x300000 0) = some t :=
  ⟨issues_of (by decide), readable_of (by decide), by decide, peered_translates _ _ rfl rfl, spaceOf_peerLoc _ _, by decide, by decide,
    asks_peer _ (by decide +kernel) _ _ _⟩

/-- A trap was entered from depth 2; a pending interrupt set before the grant; a `brk` where the partition has no debug enable. -/
theorem witness_TrapReturn_depth :
    (let s := demo (fun h => { h with trapMode := 3, trapSplit := 3, trapDepth := List.replicate 32 2 })
     Issues s split0 base0 ∧ (h0 s).trapMode &&& ~~~(3 : Lanes) &&& (h0 s).live = 0 ∧ (h0 s).trapSplit ≠ 0 ∧ (h0 s).trapDepth ≠ []) ∧
    (demo (fun h => { traps h with pendInt := some (7, 9) })).hand? 0 ≠ none ∧ (h0 (demo (fun h => { traps h with pendInt := some (7, 9) }))).intLate = false ∧
    ((demo id).part 0).cfg.dbg = false ∧ (fault0 4).kind ≠ 2 :=
  ⟨⟨issues_of (by decide), by decide, by decide, by decide⟩, by decide, by decide, by decide, by decide⟩

/-- A flit, a write of a doorbell, and a packet in the ring. -/
theorem witness_OtherTurns_outside :
    (∃ s : State, s.agenda = [.flit 0 []] ∧ s.mgmt.heldReset = false) ∧
    (let s : State := { served id [] with agenda := [.barWrite 0 0x100000 5] }
     s.mgmt.heldReset = false ∧ (s.barEvents 0 0x100000 5).map Prod.fst = [.doorbell]) ∧
    (match (served id [(0x600000, 0), (0x500010, 1 * 2 ^ 32)]).fetchPacket 0 0 with | .ok (.nopPacket _) => true | _ => false) = true :=
  ⟨⟨{ served id [] with agenda := [.flit 0 []] }, rfl, by decide⟩, ⟨by decide, by decide⟩, by decide +kernel⟩

/-- Without a working port a peer cannot be asked. -/
theorem asks_nobody (s : State) (h : s.ports = []) (die n : Nat) (use : PeerUse) : s.readPeer die there n use = none := by
  simp [State.readPeer, State.request, State.portTo, h]

/-- A word and an entry at a peer that can and cannot be asked for; an entry in device memory whose words are good, and one of which the third has an
uncorrectable error. -/
theorem witness_FencesAndBindings_peer :
    (let s := peered (reads 0x300000)
     Issues s (split1 s) ldw ∧ Readable s (split1 s) 3 [(ldw.hA, .move)] [] [] ∧ (∃ locs s', s.checkAccess (split1 s) 3 false .read 8 8 (same 0x300000) = .ok (locs, s')) ∧
     (∃ locs s', s.checkAccess (split1 s) 3 false .read 32 32 (same 0x300000) = .ok (locs, s')) ∧ (∃ e, s.translate 1 0x300000 .read = .ok there e) ∧
     spaceOf there = .peer ∧ s.entryReads = [] ∧ (∃ t, s.readPeer 0 there 8 (.load 0 0 0) = some t) ∧
     ∀ k, ({ s with ports := [] } : State).readPeer 0 there 8 (.load 0 k 0) = none) ∧
    (let s := binds 64
     s.entryReads = [] ∧ ∀ k ∈ List.range 4, (s.issueWord (h0 s) [0, 1] (0x200000 + 8 * k)).bad = false ∧ (s.issueWord (h0 s) [0, 1] (0x200000 + 8 * k)).lost = false) ∧
    (let s : State := { binds 64 with orders := [{ word := 0x200010, writes := [{ (default : WriteRec) with bad := true }] }] }
     (s.issueWord (h0 s) [0, 1] 0x200010).bad = true) ∧
    (({ demo id with entryReads := [(0, there, false)] } : State).entryReads.find? (fun x => x.1 = 0 && x.2.1 == there)) = some (0, there, false) :=
  ⟨⟨issues_of (by decide), readable_of (by decide), ok2_of (by decide), ok2_of (by decide), peered_translates _ _ rfl rfl, spaceOf_peerLoc _ _, by decide,
     asks_peer _ (by decide +kernel) _ _ _, fun _ => asks_nobody _ rfl _ _ _⟩, ⟨by decide, by decide⟩, by decide, by simp⟩

/-- A version and a registration that a peer is asked for. -/
theorem witness_AcquireReleaseBind_peer :
    ((waitsFor (.acq [(0, there), (1, there)]) id default).pendingLane 0 0 0).map Outst.work = some (.acq [(0, there), (1, there)]) ∧
    ((waitsFor (.rel [(0, there, 0)]) id default).pendingLane 0 0 0).map Outst.work = some (.rel [(0, there, 0)]) ∧
    (waitsFor (.rel [(0, there, 0)]) id default).storesDrained (h0 (demo id)) 0 0 = true ∧ spaceOf there = .peer ∧
    (waitsFor (.bind there 0x400000 64 true) id default).reqs = [] ∧
    (let s : State := { demo id with pubs := [{ (default : Publish) with obj := 0x200000 }] }
     (s.pubs.find? (fun p => p.obj = 0x200000)).isSome = true) :=
  ⟨rfl, rfl, by decide, spaceOf_peerLoc _ _, by decide, by decide⟩

/-- A `bbar.post` of 64 in thread 0's buffer. -/
def posted : State := demo (fun h => { h with mem := [{ (default : ThreadMem) with
  sb := [{ word := scratchLoc 0 0, mask := 0, data := 64, rel := none, seq := 0, post := true, also := [(0, 0), (1, 0)] }], sbNext := 1 }] })

theorem witness_Barriers_post :
    (posted.hand? posted.args.n).isSome = true ∧ ((h0 posted).thread posted.args.m).sb.length = 1 ∧
    (((h0 posted).thread 0).sb[posted.args.k]?).map (fun e => (e.post, (h0 posted).mayDrain 0 e, e.word)) = some (true, true, scratchLoc 0 0) ∧
    spaceOf (scratchLoc 0 0) = .scratch ∧ spaceOf (scratchLoc 0 0 + 8) = .scratch ∧ entry0.post = false := by decide

/-- A job whose share is too small ends with an error; a sort of one key, and then another, finds them in order. -/
theorem witness_EnginesComplete_jobs :
    (let s : State := { demo id with jobs := [default], mem := [] }
     (default : Job).ran = none ∧ (default : Job).wait = [] ∧ (h0 s).outst.find? (fun o => !o.returned && o.work == .qget 0) = none ∧
     (match (s.runJob default [] []).1 with | .error _ => true | .done .. => false) = true) ∧
    (let j : Job := { (default : Job) with queue := 4, loc := scratchLoc 0 0, shares := [(scratchLoc 0 0, 4096)] }
     let s : State := { demo id with jobs := [j], mem := writeCells (scratchLoc 0 0) (leBytes (2 ^ 8 + 64 * 2 ^ 32 + 128 * 2 ^ 64 + 256 * 2 ^ 96) 32) [] }
     (match (s.runJob j [] []).1 with | .error _ => false | .done .. => true) = true) :=
  ⟨⟨rfl, rfl, by decide, by decide +kernel⟩, by decide +kernel⟩

/-- Every entry of a Deck is taken. -/
theorem witness_SpeculationSteps_full : ∃ deck : List Seg, 4096 ≤ deck.length ∧ ∀ j, j < 4096 → ∃ e ∈ deck, e.idx = j :=
  ⟨(List.range 4096).map (fun j => { (default : Seg) with idx := j }), by simp, fun j hj => ⟨{ (default : Seg) with idx := j }, by simp [hj], rfl⟩⟩

/-- `gang` with DONE; hands that are done, asleep, and have an interrupt already. -/
theorem witness_SystemInstructions_states :
    (let w : CoreWords := { base0 with d := 4, a := 7, b := 0, ext := some ext0 }
     let s := demo (fun h => { h with gang := 0x402 })
     Issues s split0 w ∧ w.nameA = 7 ∧ (h0 s).gang.getLsbD 10 = true ∧ ∃ r ∈ sysRows s split0 0 0, w.nameA = r.1) ∧
    (∀ st ∈ [HandState.done, .asleep, .swappedAsleep], ((grouped (fun h => { h with state := st })).handOf 0 0).map Hand.state = some st) ∧
    ((grouped (fun h => { h with pendInt := some (1, 1) })).handOf 0 0).any (fun h => h.pendInt.isSome) = true ∧
    (let s : State := { grouped id with launches := [{ (default : Launch) with asid := 1, nextHid := 3 }] }
     1 < (s.launch 0).nextHid ∧ (s.handOf 0 1).isNone = true) :=
  ⟨⟨issues_of (by decide), by decide, by decide, ⟨_, List.mem_cons_of_mem _ (List.mem_cons_of_mem _ (List.mem_cons_of_mem _ (List.mem_cons_of_mem _
    (List.mem_cons_of_mem _ (List.mem_cons_of_mem _ (List.mem_cons_self ..)))))), by decide⟩⟩, by decide, by decide, by decide, by decide⟩

/-- A slot whose lane 5 has failed, with a register of the core's hand whose word of lane 0 is uncorrectable; a job that loads a trap window; an
uncorrectable word of lane 1 alone. -/
theorem witness_SchedulerSteps_lanes :
    (let s := ((errs 1).updSlot 1 0 (fun x => { x with retired := some 5, rebuild := true }))
     (s.slot 1 0).retired = some 5 ∧ (s.slot 1 0).hand = none ∧ (s.slot 1 0).rebuild = true) ∧
    ((h0 (errs 1)).laneErrs true 0 ≠ 0 ∧ (h0 (errs 1)).laneErrs false 0 = 0 ∧ (h0 (errs 1)).live.has 0 = true) ∧
    (let s := demo (fun h => { h with squirrel := [.trapMove true] })
     (s.hand 0).squirrel = [.trapMove true] ∧ ∀ x ∈ s.jobEntries 0 (.trapMove true), (s.hand x.1).settled x.2 = true) ∧
    (asked.pageReqs.find? (fun r => r.asid = asked.args.half && r.page == vaBits asked.args.value / 2 ^ 16)).any asked.firstOfSender = true := by decide

/-- The page of a launch descriptor is served; no retained block is free for it. -/
theorem witness_PacketsServed_waits :
    goes ((served id []).feLoc reader0 1 0x10000000 .read) = 1 ∧
    (let s : State := { served id [] with mem := writeCells 0x1C008 [0x80] (served id []).mem }
     goes (s.feLoc reader0 1 0x10000000 .read) = 2 ∧ launched (s.dispatch queue0 0x10000000 0x300000 none) = 1) ∧
    (let s := served id []
     (s.graphs.find? (fun g => g.queue = (0, 0) && g.parsing && g.pos == { rptr := s.qRptr queue0, ib := [] } && g.first == 0 && g.count == 1)).isNone = true ∧
     (s.closeGraphs queue0).graphs = []) ∧
    launched (((served id []).updPart 0 (fun p => { p with cfg := { p.cfg with rlrblk := 0 } })).dispatch queue0 0x200000 0x300000 none) = 2 :=
  ⟨by decide +kernel, ⟨by decide +kernel, by decide +kernel⟩, ⟨by decide, by decide⟩, by decide +kernel⟩

/-- A request of the tag, the die and the device of a time-out; the uses of the requests. -/
theorem witness_PeerFabric_uses :
    (let r : PeerReq := { (default : PeerReq) with kind := kindRD, msg := msg0 }
     let s : State := { port0 id with reqs := [r] }
     s.reqs.find? (fun r => r.die = s.args.n && r.tag.toNat == s.args.m && r.dev == s.args.half) = some r) ∧
    (let s : State := { demo id with launches := [{ (default : Launch) with asid := 1 }] }
     goesTo 0x300000 (s.translate 1 0x300000 .write (2048 + portDie 0)) = true) ∧
    (0 < State.reset.ports.length ∧ ((State.reset.updPort 0 (fun x => { x with up := false })).port 0).up = false ∧ ({ Port.init with sinceAck := 3 } : Port).sinceAck ≠ 0) ∧
    (let s : State := { port0 id with orders := [{ word := 0x300000, writes := [{ (default : WriteRec) with bad := true }] }] }
     (s.updPort 0 Port.accept).badRange 0x300000 8 = true) ∧ sizeBytes 3 = some 8 := by decide

/-- Every result of the hands of the partition has returned. -/
theorem witness_Checkpoints_settled :
    (let s : State := { waits 1 64 .ready (served id []) with ckpt := some { (default : Ckpt) with parts := 1 } }
     let s := s.updHand 0 (fun h => { h with state := .ready })
     (s.hands.all (fun h => h.allSettled)) = true) ∧
    (let s : State := { served id [] with ckpt := some { (default : Ckpt) with restore := true } }
     (s.ckpt.any (fun c => c.restore)) = true ∧ s.args.ok = false) := by decide

/-- A reset that stays pending and one that is performed; a die at 110 degrees; partitions and functions to reset. -/
theorem witness_Resets_pending :
    (∀ b, ({ State.reset with args := { (default : StepArgs) with pend := b } } : State).args.pend = b) ∧
    (({ State.reset with sensors := [{ value := 110, samples := 1 }] } : State).junctionAt 0 110 = true) ∧
    (let s : State := { served id [] with mgmt := { State.reset.mgmt with bringup := 4 } }
     3 ≤ s.mgmt.bringup ∧ s.mgmt.bringup < 6 ∧ s.ckpt = none ∧ s.queues.length = 1) := by decide

/-- A die at 95 degrees; a choice that has been made; a write of the host's and one that is held. -/
theorem witness_Management_link :
    ((([({ value := 95, samples := 1 } : Sensor)].drop (8 * 0)).take 8).any (fun x => 95 ≤ x.value) = true) ∧
    (∀ b, ({ State.reset.hostLink with choice := some b } : HostLink).choice.isSome = true) ∧
    (State.reset.hostLink.choice = none ∧ State.reset.hostLink.lost = false ∧ State.reset.hostLink.up = true) ∧
    (({ State.reset with ckpt := some default } : State).ckpt ≠ none) := by decide

/-- A slot that command processor 0 serves, with a queue; a ring word past WPTR. -/
theorem witness_FirmwareInstructions_slots :
    (let s := (served id [(0x500010, 5 * 2 ^ 32)]).serveSlot 0 0
     s.slotQueue 0 0 = some queue0 ∧ (s.cps.getD 0 Cp.init).slot = 0 ∧ (4 : DWord).toNat < (s.qWptr queue0 - s.qRptr queue0).toNat ∧
     (s.qWptr queue0 - s.qRptr queue0).toNat ≤ (5 : DWord).toNat ∧ ((0 : DWord) >>> 6) = 0 ∧
     (match s.ringWord queue0 ((s.qRptr queue0).toNat + 4) with | .ok _ => true | .error _ => false) = true) ∧
    ((served id []).serveSlot 0 2).slotQueue 0 2 = none ∧ (65 : DWord).toNat % 8 ≠ 0 :=
  ⟨by decide +kernel, by decide, by decide⟩

/-- Without power and at stages 2, 3 and 5 of a bring-up: a cold start, a step of the management domain, a command processor's turn, and a step of
another kind. -/
theorem witness_OtherTurns_bringup :
    (Turn.event .coldStart default).coldStart = true ∧ (Turn.cp 0).coldStart = false ∧ (Turn.event .getMeasurements default).management = true ∧
    (Turn.cp 0).management = false ∧ (Turn.cp 0).early = true ∧ (Turn.event .placement default).early = false ∧
    (Turn.event .placement default).management = false ∧
    (∀ n ∈ [0, 2, 3, 5], ∀ a ∈ [(0 : BitVec 2), 3],
      let s : State := { State.reset with agenda := [.cp 0], mgmt := { Mgmt.init with heldReset := true, bringup := n, alarm := a } }
      s.mgmt.heldReset = true ∧ s.mgmt.bringup = n ∧ s.mgmt.alarm = a) := by decide

/-- A lane on a peer's object that sends its next message. -/
theorem witness_AnnouncementSteps_peer : ((h0 (homes rec0 .peer)).outst.head?).any (fun o =>
    (homes rec0 .peer).annReady (h0 (homes rec0 .peer)) o 0 [annLane0 .peer] (annLane0 .peer)) = true := by decide

/-- A `bind` under way at a peer whose region meets that of another one, and one whose does not. -/
theorem witness_AcquireReleaseBind_waits :
    let s : State := { waitsFor (.bind there 0x400000 64 true) id default with
      reqs := [{ (default : PeerReq) with kind := kindSTEP, use := .object 0 0 0 }] }
    s.bindWaits 0 0x400000 64 = true ∧ s.bindWaits 0 0x500000 64 = false ∧ s.bindStatus 0 0x200000 0x400000 64 true = 0 := by decide

/-- A `bar.tst` of a phase that is over and one that is not; a `bbar.tst` of either parity. -/
theorem witness_Barriers_returns :
    (∀ w ∈ [Work.barTst 0 [(0, 0), (1, 1)], .bbarTst (scratchLoc 0 0) true, .bbarTst (scratchLoc 0 0) false],
      ((h0 (waitsFor w id default)).outst.find? (fun o => o.id = 0)).map (fun o => (o.work, o.returned)) = some (w, false)) ∧
    ((waitsFor .value id default).readBBar (scratchLoc 0 0)).phase.getLsbD 0 = false := by decide

/-- `cpy` with a barrier at 0 and circular buffer 2, whose block is at scratch 0; a window's image that hand 0 waits for, with an older store that
has drained and one that has not. -/
def cpyW : CoreWords := { ew with ext := some { ext0 with w2 := 2 ^ 14 + 2 ^ 16 + 2 ^ 18 } }

theorem witness_EnginesIssue_copies :
    (let s := buffer 0
     Issues s (split1 s) cpyW ∧ cpyW.f2 14 1 = 1 ∧ cpyW.f2 18 1 = 1 ∧ Readable s (split1 s) 3 [(cpyW.hA, .move), (cpyW.hB, .move)] [] [] ∧
     (∃ bars s', s.checkAccess (split1 s) 3 true .write 16 16 (fun _ => uniVal (split1 s) 3 (h0 s) 3 >>> 32) = .ok (bars, s')) ∧
     cbdBlock 0 ((s.core 0).cbd.getD (cpyW.f2 15 3) 0) ≠ none) ∧
    (∀ f ∈ [fork0, { fork0 with seqs := [(0, 1)] }],
      ((h0 (waitsFor (.wbind 0 0x200000 f) id default)).outst.find? (fun o => o.id = 0)).map (fun o => (o.work, o.returned)) = some (.wbind 0 0x200000 f, false)) ∧
    (waitsFor (.wbind 0 0x200000 fork0) id default).forkReady fork0 = true ∧
    (waitsFor .value (fun h => { h with mem := [{ (default : ThreadMem) with sb := [entry0], sbNext := 1 }] }) default).forkReady
      { fork0 with seqs := [(0, 1)] } = false :=
  ⟨⟨issues_of (by decide), by decide, by decide, readable_of (by decide), ok2_of (by decide), by decide⟩, by decide, by decide, by decide⟩

/-- The state of a block of one slot with FEED 0, and one whose block breaks its limits. -/
def bufferAt (n : Nat) : State := { buffer 0 with mem := writeCells (scratchLoc 0 0) (leBytes n 128) [] }

/-- A slot in flight, a take that waits, FEED 0, a slot that is not claimed, a block of no slots; answers that are on their way. -/
theorem witness_BuffersAndCounters_waits :
    (buffer 2).cbRead (scratchLoc 0 0) = some (image 2) ∧ cbState (image 2) (cbCI (image 2)) = 2 ∧
    (State.firstTake (waitsFor (.cbTake (scratchLoc 0 0) 0 0 0) id default) (scratchLoc 0 0)).isSome = true ∧
    ((bufferAt (2 ^ 32 + 2 ^ 48)).cbRead (scratchLoc 0 0)).map cbFeed = some false ∧ cbState (image 0) (cbWI (image 0)) ≠ 1 ∧
    cbState (image 0) (cbRI (image 0)) ≠ 4 ∧ (bufferAt (2 ^ 32)).cbRead (scratchLoc 0 0) = none ∧
    (∀ w ∈ [Work.cbFault 0 0, .xcnt true [(0, 4095), (1, 4095)], .xcnt false [(1, 0)]],
      ((h0 (waitsFor w id default)).outst.find? (fun o => o.id = 0)).map (fun o => (o.work, o.returned)) = some (w, false)) ∧
    (h0 (waitsFor .value id default)).part < 16 :=
  ⟨by decide +kernel, by decide +kernel, by decide, by decide +kernel, by decide +kernel, by decide +kernel, by decide +kernel, by decide, by decide⟩

/-- A copy out whose handle lies in a peer, with a line left and with none. -/
def outward (n : Nat) : State :=
  { demo id with mem := writeCells 0 [0x0F] [], copies := [{ copy0 with out := true, lines := 1, prog := { copy0.prog with read := n } }] }

theorem witness_EnginesComplete_peer :
    (∀ n ∈ [0, 1], ((outward n).kickCopies.copies.find? (fun c => c.id = 0)).any (fun c => c.moving && (outward n).kickCopies.linesLeft c == (n == 0)) = true) ∧
    (∀ n ∈ [0, 1], (outward n).kickCopies.linesOpen 0 = false) := by decide

/-- `segq` of an entry; one on its way, with an earlier spawn to its Deck that has returned and one that has not; an entry of the launch, of another
one, and of a twin's primary. -/
theorem witness_SpeculationSteps_segq :
    (let s := demoH (hreg 6 0)
     Issues s (split1 s) base0 ∧ Readable s (split1 s) 3 [(base0.hA, .move)] [] [] ∧ uniVal (split1 s) 3 (h0 s) 6 >>> 30 = 0) ∧
    (∀ b, let o (id : Nat) (w : Work) (r : Bool) : Outst :=
            { id := id, lanes := 3, work := w, dsts := [], back := 0, returned := r, flags := 0, joins := [], sent := [], data := [] }
          let s := demo (fun h => { h with outst := [o 0 (.segq 0 1) b, o 1 (.segq 0 0) false], nextId := 2 })
          ((h0 s).outst.find? (fun o => o.id = 1)).map (fun o => (o.work, o.returned)) = some (.segq 0 0, false) ∧ s.deckEarlier (h0 s) 0 1 = !b) ∧
    (∀ l ∈ [(0 : Word), 1, 0xFFFFFFFF], let s := (demo id).updDie 0 (fun d => { d with deck := [{ (default : Seg) with state := 3, lid := l }] })
      (s.seg? (0, 0)).map Seg.lid = some l) :=
  ⟨⟨issues_of (by decide), readable_of (by decide), by decide⟩, by decide, by simp only [List.mem_cons, List.not_mem_nil, or_false, forall_eq_or_imp, forall_eq]; decide⟩

/-- An interrupt that the hand has and one that it has not. -/
theorem witness_SystemInstructions_pending : ∀ p ∈ [none, some ((1 : BitVec 16), (1 : DWord))],
    let s := grouped (fun h => { h with pendInt := p })
    (s.handOf 0 0).map (fun x => (x.state, ((s.reload x.key).hand x.key).pendInt)) = some (.running, p) := by
  simp only [List.mem_cons, List.not_mem_nil, or_false, forall_eq_or_imp, forall_eq]; decide

/-- The Owl of a queue that counts and one that drains, with a launch; a partition that drains and one that does not. -/
theorem witness_Resets_owl :
    (∀ w ∈ [OwlState.counting, .draining],
      let s := waits 1 64 .running (served (fun q => { q with owl := w, owlCount := 1 }) [])
      (s.queue? (0, 0)).map (fun q => (q.owl, q.paused)) = some (w, none) ∧ (s.oldestLaunch (0, 0)).isSome = true) ∧
    (served id []).partDrains 0 = false ∧ (served (fun q => { q with paused := some 0 }) []).partDrains 0 = true := by decide

/-- The front end's TLB of die 0 has the page at 0x300000 in the memory of the device at port 0. -/
def fronted (s : State) : State :=
  { s with peerWin := [(0, Config.peerOf 0)], tlb := [{ site := 2048, asid := 1, va := 0, level := 2, leaf := 0x2F }] }

theorem fronted_translates (s : State) (a : Access) : ∃ e, (fronted s).translate 1 0x300000 a 2048 = .ok there e := by
  have ht : (fronted s).tlbFind 2048 1 0x300000 = some { site := 2048, asid := 1, va := 0, level := 2, leaf := 0x2F } := by
    have : (tlbSites 2048).findSome? (fun k => [({ site := 2048, asid := 1, va := 0, level := 2, leaf := 0x2F } : TlbEntry)].find? (fun e => e.covers k 1 0x300000)) =
      some { site := 2048, asid := 1, va := 0, level := 2, leaf := 0x2F } := by decide
    exact this
  have hl : (fronted s).leafLoc 2 0x2F 0x300000 = some there := by
    unfold State.leafLoc
    simp only [show bits (0x2F : DWord).toNat 16 40 = 0 by decide, show bits (0x2F : DWord).toNat 5 2 = 1 by decide,
      show bits (0x2F : DWord).toNat 56 8 = 0 by decide, show 0x300000 % 2 ^ pageBits 2 = 0x300000 by decide]
    simp [fronted, there]
  refine ⟨{ site := 2048, asid := 1, va := 0, level := 2, leaf := 0x2F }, ?_⟩
  unfold State.translate
  rw [show canonical 0x300000 = true by decide, show vaBits 0x300000 = 0x300000 by decide]
  have hp : leafPermits (0x2F : DWord) a = true := by cases a <;> decide
  simp only [ht, hl, hp]
  rfl

/-- A location at which a 64-byte line begins. -/
def Begins (x : Nat) : Prop := x / 64 * 64 = x

theorem peerLoc_begins (d pa : Nat) (h : pa % 64 = 0) : Begins (peerLoc d pa) := by
  unfold Begins peerLoc
  omega

theorem there_begins : Begins there := peerLoc_begins _ _ (by decide)

theorem there_line : there / 64 * 64 = there := there_begins

theorem fronted_write (s : State) (r : Reader) : (fronted s).feLoc r 1 0x300000 .write 2048 = .ok there := by
  obtain ⟨e, h⟩ := fronted_translates s .write
  unfold State.feLoc
  rw [h]
  simp

theorem fronted_read (s : State) (r : Reader) : (fronted s).feLoc r 1 0x300000 .read 2048 =
    match (fronted s).frontGot r there with
    | some true => .ok there
    | some false => .error .bad
    | none => .error (.peer there) := by
  obtain ⟨e, h⟩ := fronted_translates s .read
  unfold State.feLoc
  rw [h]
  simp only [there_line, show spaceOf there = .peer from spaceOf_peerLoc _ _]
  rfl

/-- What the queue has asked the peer for: nothing, a word that has come, and one that will not. -/
def asks (got : Option Bool) (x : Reader) (add : Bool) : State :=
  { served id [] with frontReads := [{ who := x, loc := there, sent := 0, add := add, got := got }] }

theorem hears (got : Option Bool) (r : Reader) (add : Bool) : (fronted (asks got r add)).frontGot r there = got := by
  simp [State.frontGot, fronted, asks]

theorem fronted_unread (r : Reader) : (fronted (served id [])).feLoc r 1 0x300000 .read 2048 = .error (.peer there) := by
  rw [fronted_read]
  rfl

theorem fronted_reads (got : Bool) (r : Reader) (add : Bool) :
    (fronted (asks (some got) r add)).feLoc r 1 0x300000 .read 2048 = if got then .ok there else .error .bad := by
  rw [fronted_read, hears]
  cases got <;> rfl

theorem adds_go (r : Reader) : ∃ s', (fronted (asks (some true) r true)).addTurn 0 r there = .go s' := by
  have h : (fronted (asks (some true) r true)).askPeer 0 r there 8 true = fronted (asks (some true) r true) := by
    simp [State.askPeer, fronted, asks]
  unfold State.addTurn
  rw [if_neg (by rw [show spaceOf there = .peer from spaceOf_peerLoc _ _]; simp), if_neg (by simp [fronted, asks])]
  simp only [h, hears]
  exact ⟨_, rfl⟩

theorem adds_wait : ∃ s', (fronted (asks none .adds true)).addTurn 0 reader0 there = .wait s' := by
  unfold State.addTurn
  rw [if_neg (by rw [show spaceOf there = .peer from spaceOf_peerLoc _ _]; simp), if_pos (by simp [fronted, asks, reader0])]
  exact ⟨_, rfl⟩

/-- A descriptor whose first line has not come from its peer. -/
theorem dispatch_asks (s : State) (q : Queue) (va signal : DWord) (l : Nat) (h : s.launchStop q.reader q.asid va = some (.peer l)) :
    s.dispatch q va signal none = .asked (s.askPeer q.die q.reader l 64) := by
  unfold State.dispatch
  simp only [h]

theorem pageStop_peer (s : State) (r : Reader) (asid : BitVec 16) (x : DWord × Nat) (l : Nat) (hr : s.feLoc r asid x.1 .read = .error (.peer l))
    (hv : pagesOf x.1 x.2 = [x.1]) : s.pageStop r asid .read x = none := by
  unfold State.pageStop
  rw [hv, List.findSome?_cons, List.findSome?_nil, hr]

theorem launchStop_first (s : State) (r : Reader) (asid : BitVec 16) (va : DWord) (n l : Nat) (hr : s.feLoc r asid va .read = .error (.peer l))
    (hv : pagesOf va n = [va]) (hb : s.feBytes r asid n va = .error (.peer l)) (hx : s.launchRanges r asid va = ([(va, n)], [])) :
    s.launchStop r asid va = some (.peer l) := by
  have hp := pageStop_peer s r asid (va, n) l hr hv
  unfold State.launchStop
  simp only [hx, hp, hb, List.findSome?_cons, List.findSome?_nil, Option.or]

theorem launchStop_peer (s : State) (r : Reader) (asid : BitVec 16) (va : DWord) (l : Nat) (hr : s.feLoc r asid va .read = .error (.peer l))
    (hv : pagesOf va 128 = [va]) : s.launchStop r asid va = some (.peer l) := by
  have hb : s.feBytes r asid 128 va = .error (.peer l) := by
    unfold State.feBytes
    rw [hr]
    rfl
  have hx : s.launchRanges r asid va = ([(va, 128)], []) := by
    unfold State.launchRanges State.feRead
    rw [hb]
    rfl
  exact launchStop_first s r asid va 128 l hr hv hb hx

theorem peer_launch : ∃ s', (fronted (served id [])).dispatch queue0 0x300000 0x300008 none = .asked s' :=
  ⟨_, dispatch_asks _ _ _ _ there (launchStop_peer _ _ _ _ _ (fronted_unread reader0) (by decide))⟩

theorem peer_write (mask : BitVec 8) (data : DWord) : ∃ t, (fronted (served id [])).writePeer 0 there mask data = some t := by
  have hd : BitVec.ofNat 16 (peerDev there) = Config.peerOf 0 := by
    unfold there
    rw [peerDev_peerLoc _ _ (by decide), BitVec.ofNat_toNat, BitVec.setWidth_eq]
  unfold State.writePeer State.request
  rw [hd, portTo_there _ (by decide +kernel)]
  exact ⟨_, rfl⟩

/-- A word in a peer that has not been asked for, has come, and does not come; an add whose turn it is and one that waits for another's; a waiter
that is registered; a launch descriptor in a peer. -/
theorem witness_PacketsServed_peer :
    (fronted (served id [])).slotQueue 0 0 = some queue0 ∧
    (fronted (served id [])).feLoc reader0 1 0x300000 .write = .ok there ∧ spaceOf there = .peer ∧
    (fronted (served id [])).feLoc reader0 1 0x300000 .read = .error (.peer there) ∧
    (∀ got, (fronted (asks (some got) reader0 false)).feLoc reader0 1 0x300000 .read = if got then .ok there else .error .bad) ∧
    (∃ s', (fronted (asks (some true) reader0 true)).addTurn 0 reader0 there = .go s') ∧
    (∃ s', (fronted (asks none .adds true)).addTurn 0 reader0 there = .wait s') ∧
    (let s : State := { served id [] with wake := [{ asid := 1, key := 0x300000, hands := [], queues := [(0, 0)], line := none }] }
     s.waitRegistered queue0 0x300000 = true) ∧
    (∃ s', (fronted (served id [])).dispatch queue0 0x300000 0x300008 none = .asked s') ∧
    ∃ t, (fronted (served id [])).writePeer 0 there 0xFF 1 = some t :=
  ⟨rfl, fronted_write _ _, spaceOf_peerLoc _ _, fronted_unread _, fun _ => fronted_reads _ _ _, adds_go _, adds_wait, by decide, peer_launch, peer_write _ _⟩

/-! ### The whole machine -/

/-- An instruction of a core at a split, one of a command processor at its word, and a step of another kind. -/
theorem witness_InstructionsAnswer :
    (∃ x, (Instr.add base0).core = some x) ∧ plain.cur = some (.split split0) ∧ (served id []).cur = some (.cp 0) ∧
    (Instr.slotArbitration).core = none :=
  ⟨⟨_, rfl⟩, rfl, rfl, rfl⟩

/-- A placed program in memory that has the form takes a step. -/
theorem witness_MemoryFormKept :
    Memory.wf (State.reset.placeProgram (bytesOf [0])).mem = true ∧
    (match step (State.reset.placeProgram (bytesOf [0])) with | .next _ => true | _ => false) = true :=
  ⟨by decide, by decide⟩

end Sys2Proof.Tests
end

section
/-!
PROOFS. The turns that are no issue of a split (O19), and the state after reset (O21).
-/
namespace Sys2Proof.Machine

/-! ## A turn of the agenda -/

/-- The state in which the first turn of the agenda is prepared: time has passed, and `rest` is what the agenda still holds. -/
def State.begun (s : State) (rest : List Turn) : State := { s.passTime with agenda := rest, tick := s.tick + 1, cur := none }

section
variable {s : State} {t : Turn} {rest : List Turn}

theorem takeTurn_cons (h : s.agenda = t :: rest) : s.takeTurn = (t, s.begun rest) := by
  have hp : s.passTime.agenda = t :: rest := h
  simp only [State.takeTurn, hp]
  rfl

/-- Time that passes changes nothing that decides whether a turn may happen. -/
theorem begun_admits : (s.begun rest).admits t = s.admits t := rfl

/-- A turn that power or reset does not let happen only lets time pass. -/
theorem step_not_admitted (h : s.agenda = t :: rest) (ha : s.admits t = false) : step s = .next (s.begun rest) := by
  simp [step, takeTurn_cons h, begun_admits, ha]

/-- A turn that may happen executes the instruction that it is prepared as. -/
theorem step_admitted {i : Instr} {s' : State} (h : s.agenda = t :: rest) (ha : s.admits t = true)
    (hp : prepare (s.begun rest) t = .run i s') : step s = exec i s' := by
  simp [step, takeTurn_cons h, begun_admits, ha, hp]

/-! ## Which turns power and reset let happen (R16, R28, R227) -/

theorem admits_running (h : s.mgmt.heldReset = false) : s.admits t = true := by
  simp [State.admits, h]

theorem admits_off (h : s.mgmt.heldReset = true) (hb : s.mgmt.bringup = 0) : s.admits t = t.coldStart := by
  simp [State.admits, h, hb]

theorem admits_bringup (h : s.mgmt.heldReset = true) (hb : s.mgmt.bringup ≠ 0) :
    s.admits t = (t.management || (t.early && decide (3 ≤ s.mgmt.bringup) && decide (s.mgmt.bringup < 6) && s.mgmt.alarm != 3)) := by
  simp [State.admits, h, hb]

/-- A turn that is neither of the management domain nor, in stages 3 to 5, of the parties that start early does not happen in a bring-up. -/
theorem admits_bringup_refused (h : s.mgmt.heldReset = true) (hb : s.mgmt.bringup ≠ 0) (hm : t.management = false)
    (he : t.early = false ∨ s.mgmt.bringup < 3 ∨ 6 ≤ s.mgmt.bringup ∨ s.mgmt.alarm = 3) : s.admits t = false := by
  rw [admits_bringup h hb, hm]
  obtain he | he | he | he := he
  · simp [he]
  · simp [Nat.not_le_of_lt he]
  · simp [Nat.not_lt_of_le he]
  · simp [he]

/-- The turns that O19 lists as possible are admitted. -/
theorem admits_of_possible (h : s.mgmt.heldReset = false ∨ (s.mgmt.bringup = 0 ∧ t.coldStart = true) ∨ (s.mgmt.bringup ≠ 0 ∧ t.management = true) ∨
    (3 ≤ s.mgmt.bringup ∧ s.mgmt.bringup < 6 ∧ s.mgmt.alarm ≠ 3 ∧ t.early = true)) : s.admits t = true := by
  cases hr : s.mgmt.heldReset with
  | false => exact admits_running hr
  | true =>
    obtain h | ⟨hb, hc⟩ | ⟨hb, hm⟩ | ⟨h3, h6, ha, he⟩ := h
    · simp [hr] at h
    · rw [admits_off hr hb, hc]
    · rw [admits_bringup hr hb, hm, Bool.true_or]
    · rw [admits_bringup hr (by omega)]
      have ha' : (s.mgmt.alarm != 3) = true := bne_iff_ne.mpr ha
      simp only [h3, h6, ha', he, decide_true, Bool.and_self, Bool.or_true]

/-! ## How a turn is prepared -/

theorem prepare_event {i : Instr} {x : StepArgs} (h : isTableStep i = true) : prepare s (.event i x) = .run i { s with args := x } := by
  simp [prepare, h]

theorem prepare_flit (p : Nat) (bs : List (BitVec 8)) :
    prepare s (.flit p bs) = .run (flitInstr p bs).1 { s with args := (flitInstr p bs).2 } := rfl

theorem prepare_barWrite {f off : Nat} {v : DWord} {i : Instr} {x : StepArgs} {es : List (Instr × StepArgs)}
    (h : s.barEvents f off v = (i, x) :: es) :
    prepare s (.barWrite f off v) = .run i { s with args := x, agenda := es.map (fun e => .event e.1 e.2) ++ s.agenda } := by
  simp [prepare, h]

theorem prepare_cp {n : Nat} {c : Cp} {i : Instr} (hc : s.cps[n]? = some c) (hd : decodeDv c.word = some i) :
    prepare s (.cp n) = .run i { s with cur := some (.cp n) } := by
  simp [prepare, prepareCp, hc, hd]

theorem prepare_packet {d n : Nat} {i : Instr} (h : s.fetchPacket d n = .ok i) :
    prepare s (.packet d n) = .run i { s.fetchedPacket d n i with cur := some (.front d) } := by
  simp [prepare, h]

end

/-- Settles O19: whether the turn happens is decided by `State.admits`; a turn that does is executed as it is prepared. -/
theorem otherTurns : Obligations.OtherTurns := by
  intro s t rest h
  refine ⟨fun hr hb hc => ?_, fun hr hb hm he => ?_, fun hp => ?_⟩
  · exact step_not_admitted h ((admits_off hr hb).trans hc)
  · exact step_not_admitted h (admits_bringup_refused hr hb hm he)
  · have run {i s'} (e : prepare (s.begun rest) t = .run i s') : step s = exec i s' := step_admitted h (admits_of_possible hp) e
    refine ⟨?_, ?_, ?_, ?_, ?_⟩
    · rintro i x rfl hi
      exact run (prepare_event hi)
    · rintro p bs rfl
      exact run (prepare_flit p bs)
    · rintro f off v i x es rfl hb
      exact run (prepare_barWrite hb)
    · rintro n c i rfl hc hd
      exact run (prepare_cp hc hd)
    · rintro d n i rfl hf
      exact run (prepare_packet hf)

/-! ## The state after reset -/

theorem reset_part {p : Nat} (h : p < 16) : State.reset.part p = Part.init := List.getD_replicate _ h

theorem reset_port {p : Nat} (h : p < 18) : State.reset.ports.getD p Port.init = Port.init := List.getD_replicate _ h

/-- Settles O21: the lists of `State.reset` are empty, and each partition and port has its initial value. -/
theorem resetState : Obligations.ResetState := by
  refine ⟨rfl, rfl, rfl, rfl, rfl, rfl, rfl, fun p hp => ?_, rfl, rfl, rfl, fun n hn => ?_⟩
  · rw [reset_part hp]
    exact ⟨rfl, rfl⟩
  · rw [reset_port hn]
    exact ⟨rfl, rfl⟩

end Sys2Proof.Machine
end

section
/-!
PROOFS. Power, bring-up and resets (O54).
-/
namespace Sys2Proof.Machine

/-! ## The widest of the pending resets (R30) -/

/-- The fold that `State.performResets` takes the greatest width with is at most `k` when its start and every width are. -/
theorem foldl_max_width_le {k : Nat} (rs : List ResetReq) (n : Nat) :
    rs.foldl (fun n r => max n r.width) n ≤ k ↔ n ≤ k ∧ ∀ r ∈ rs, r.width ≤ k := by
  induction rs generalizing n with
  | nil => simp
  | cons r rs ih => simp only [List.foldl_cons, ih, Nat.max_le, List.forall_mem_cons, and_assoc]

/-- A reset has the greatest width exactly when no other is wider. -/
theorem filter_width_eq_widest (rs : List ResetReq) :
    rs.filter (fun r => r.width = rs.foldl (fun n r => max n r.width) 0) = rs.filter (fun r => rs.all (fun x => decide (x.width ≤ r.width))) := by
  refine List.filter_congr fun r hr => decide_eq_decide.mpr ?_ |>.trans (Bool.decide_coe _)
  have upper : r.width ≤ rs.foldl (fun n r => max n r.width) 0 := ((foldl_max_width_le rs 0).mp le_rfl).2 r hr
  rw [List.all_eq_true]
  constructor
  · intro h x hx
    exact decide_eq_true (h ▸ ((foldl_max_width_le rs 0).mp le_rfl).2 x hx)
  · intro h
    exact le_antisymm upper ((foldl_max_width_le rs 0).mpr ⟨Nat.zero_le _, fun x hx => of_decide_eq_true (h x hx)⟩)

section
variable (s : State)

theorem performResets_eq (rs : List ResetReq) :
    s.performResets rs = ((rs.filter (fun r => rs.all (fun x => decide (x.width ≤ r.width)))).foldl State.performReset
      { s with pendResets := [] }).undrain := by
  simp only [State.performResets, filter_width_eq_widest]

theorem requestReset_eq (r : ResetReq) :
    s.requestReset r = if s.args.pend then { s with pendResets := s.pendResets ++ [r] }
      else (((s.pendResets ++ [r]).filter (fun r' => (s.pendResets ++ [r]).all (fun x => decide (x.width ≤ r'.width)))).foldl State.performReset
        { s with pendResets := [] }).undrain := by
  simp only [State.requestReset, performResets_eq]

/-! ## Bring-up (R28) and loss of power -/

/-- No stage from 3 to 5 is under way: a cold start applies power and runs from stage 1. -/
theorem execColdStart_anew (hb : s.mgmt.bringup < 3 ∨ 6 ≤ s.mgmt.bringup) :
    execColdStart s = if !s.args.ok then .next ((s.powerOn.updMgmt (fun m => { m with bringup := 2 })).raiseAlarm 2)
      else if !s.args.ok2 then .next (s.powerOn.updMgmt (fun m => { m with bringup := max 3 (min 5 s.args.n) }))
      else .next s.powerOn.broughtUp := by
  have h : ¬ ((decide (3 ≤ s.mgmt.bringup) && decide (s.mgmt.bringup < 6)) = true) := by
    simp only [Bool.and_eq_true, decide_eq_true_eq]
    omega
  rw [execColdStart, if_neg h]
  rfl

/-- A stage from 3 to 5 is under way: the step goes on with it. -/
theorem execColdStart_goesOn (h3 : 3 ≤ s.mgmt.bringup) (h6 : s.mgmt.bringup < 6) :
    execColdStart s = .next (if s.args.ok2 then s.broughtUp else s) := by
  simp [execColdStart, h3, h6]

theorem powerOn_port_down {p : Nat} (hp : p < 18) : (s.powerOn.port p).up = false :=
  congrArg Port.up (List.getD_replicate _ hp)

/-! ## Warm reset (R15, R29) -/

/-- What a die keeps over a warm reset: its Magpie, its predicted end of life and the count of dropped stores. -/
def Die.warmed (d : Die) : Die := { Die.init with magpie := d.magpie, magSeq := d.magSeq, eol := d.eol, peerDrops := d.peerDrops }

theorem endCkpt_none (fail : Bool) (h : s.ckpt = none) : s.endCkpt fail = s := by
  simp only [State.endCkpt, h]

theorem install_alarm (m : Mgmt) : m.install.alarm = m.alarm := by
  have fold (us : List (Nat × Nat × Nat)) (m : Mgmt) : (us.foldl (fun (m : Mgmt) u =>
      { m with versions := putAt 4 0 (fun _ => u.2.1) u.1 m.versions, fuses := putAt 4 0 (fun v => max v u.2.1) u.1 m.fuses,
               images := putAt 4 0 (fun _ => u.2.2) u.1 m.images }) m).alarm = m.alarm := by
    induction us generalizing m with
    | nil => rfl
    | cons u us ih => exact ih _
  exact fold m.staged m

theorem warm_part_init {p : Nat} (hp : p < 16) : s.warm.part p = Part.init := List.getD_replicate _ hp

theorem warm_alarm : s.warm.mgmt.alarm = (s.endCkpt true).mgmt.alarm := install_alarm _

theorem warm_vault : s.warm.vault = (s.endCkpt true).vault := rfl

theorem warm_sensors : s.warm.sensors = (s.endCkpt true).sensors := rfl

theorem warm_mem : s.warm.mem = (s.endCkpt true).mem.filter (fun c => outsideLoc c.1) := rfl

theorem warm_eol (d : Nat) : (s.warm.die d).eol = ((s.endCkpt true).die d).eol := by
  have h : s.warm.die d = ((s.endCkpt true).die d).warmed := List.getD_map _ Die.init Die.warmed
  rw [h]
  rfl

end

/-- Memory that lists no byte at an address reads there as unlisted. -/
theorem readCell_filter_out {p : Host.Cell → Bool} {a : Nat} (h : ∀ v, p (a, v) = false) (m : List Host.Cell) :
    readCell (m.filter p) a = unlistedByte := by
  induction m with
  | nil => rfl
  | cons c m ih =>
    obtain ⟨k, v⟩ := c
    rw [List.filter_cons]
    split
    · next hp =>
      have hk : k ≠ a := by
        rintro rfl
        simp [h v] at hp
      rw [readCell, if_neg hk, ih]
    · exact ih

theorem outsideLoc_device {a : Nat} (h : deviceExists a = true) : outsideLoc a = false := by
  simp only [deviceExists, Bool.and_eq_true, decide_eq_true_eq] at h
  have hs : spaceOf a = .device := if_pos (by omega)
  rw [outsideLoc, hs]
  rfl

theorem warm_device_byte {s : State} (h : s.ckpt = none) {a : Nat} (ha : deviceExists a = true) : readCell s.warm.mem a = 0 := by
  rw [warm_mem, endCkpt_none s true h]
  exact readCell_filter_out (fun _ => outsideLoc_device ha) s.mem

/-! ## What causes a reset (R29, R64, R90, R91) -/

section
variable (s : State)

theorem execWarmReset_held (h : s.mgmt.bringup < 6) : execWarmReset s = .next (s.updMgmt (fun m => { m with perstHeld := true })) := by
  simp [execWarmReset, h]

theorem execWarmReset_requests (h : 6 ≤ s.mgmt.bringup) (hr : s.mgmt.heldReset = false) : execWarmReset s = .next (s.requestReset .warm) := by
  simp [execWarmReset, Nat.not_lt_of_le h, hr]

theorem execPartitionReset_requests (h : s.args.n < 16) :
    execPartitionReset s = .next (s.requestReset (.partition s.args.n (s.resetDie s.args.n) 0x8D 0x8D)) := by
  simp [execPartitionReset, Nat.not_le_of_lt h]

theorem execFlrVf_requests (h : 0 < s.args.n) (h' : s.args.n < 64) : execFlrVf s = .next (s.requestReset (.function s.args.n)) := by
  have hn : ¬ (s.args.n = 0 ∨ 64 ≤ s.args.n) := by omega
  simp only [execFlrVf, if_neg hn]

variable {s} {q : Queue} {l : Launch}

/-- The Owl of a queue has counted its budget: the partition drains, and its reset is caused. -/
theorem execOwlExpiry_expires (hq : s.queue? (s.args.n, s.args.m) = some q) (hl : s.oldestLaunch (s.args.n, s.args.m) = some l)
    (ho : q.owl = .counting) (hp : q.paused = none) (hc : 2 ^ l.owlb ≤ q.owlCount) :
    execOwlExpiry s = .next ((s.drainPartition q).requestReset (.partition q.part q.die 0x14 0x8C)) := by
  have hd : (q.owl == .draining) = false := by rw [ho]; rfl
  have he : (q.owl == .counting && q.paused.isNone && decide (2 ^ l.owlb ≤ q.owlCount)) = true := by simp [ho, hp, hc]
  simp only [execOwlExpiry, hq, hl, hd, he, Bool.false_eq_true, if_false, if_true]

/-- The partition of an expired Owl drains already: its reset, pending since, may be performed. -/
theorem execOwlExpiry_drains (hq : s.queue? (s.args.n, s.args.m) = some q) (hl : s.oldestLaunch (s.args.n, s.args.m) = some l)
    (ho : q.owl = .draining) : execOwlExpiry s = .next (if s.args.pend then s else s.performResets s.pendResets) := by
  simp [execOwlExpiry, hq, hl, ho]

theorem execThermalTrip_eq : execThermalTrip s = .next (if s.junctionAt (s.args.n % 4) 110 then
    (s.warm.magpie (s.args.n % 4) unitManagement 0 [s.args.n]).updMgmt (fun m => { m with heldReset := true }) else s) := by
  unfold execThermalTrip
  cases s.junctionAt (s.args.n % 4) 110 <;> rfl

end

/-- A virtual function's reset: the partition bound to it, if one is, and the end of its queues. -/
theorem resetFunction_virtual (s : State) {f : Nat} (h : 0 < f) :
    s.resetFunction f =
      let b := ((s.funcs.getD f Func.init).bind).toNat
      let t := if b / 2 ^ 7 % 2 = 1 then s.resetPartition (b % 16) (s.resetDie (b % 16)) 0x8D 0x8D (fun q => q.fn = f) else s
      (t.queues.filter (fun q => q.fn = f)).foldl State.destroyQueue t := by
  have bound (b : Nat) : bits b 7 1 = b / 2 ^ 7 % 2 := by rw [bits, Nat.shiftRight_eq_div_pow, Nat.pow_one]
  have part (b : Nat) : bits b 0 4 = b % 16 := by rw [bits, Nat.shiftRight_zero, show 2 ^ 4 = 16 from rfl]
  simp only [State.resetFunction, if_neg (Nat.ne_of_gt h), bound, part]

/-- The physical function's reset: every partition, and the end of every queue. -/
theorem resetFunction_physical (s : State) :
    s.resetFunction 0 =
      let t := (List.range 16).foldl (fun s p => s.resetPartition p (s.resetDie p) 0x8D 0x8D (fun _ => true)) s
      t.queues.foldl State.destroyQueue t := by
  rw [State.resetFunction, if_pos rfl]

/-- Settles O54: each clause is the equation of the step that causes the reset, or what the reset leaves. -/
theorem resets : Obligations.Resets := by
  intro s
  refine ⟨fun hb => ⟨?_, ?_, ?_⟩, ⟨fun p hp => powerOn_port_down s hp, rfl, rfl, rfl⟩, ?_, ?_, ?_, ?_, rfl, ?_, ?_, ?_, ?_, ?_, ?_, ?_⟩
  · intro h1 h2
    simp only [exec_coldStart, execColdStart_anew s hb, h1, h2, Bool.not_true, Bool.false_eq_true, if_false]
  · intro h1 h2
    simp only [exec_coldStart, execColdStart_anew s hb, h1, h2, Bool.not_true, Bool.not_false, Bool.false_eq_true, if_false, if_true]
  · intro h1
    simp only [exec_coldStart, execColdStart_anew s hb, h1, Bool.not_false, if_true]
  · intro h3 h6 h2
    rw [exec_coldStart, execColdStart_goesOn s h3 h6, if_pos h2]
  · exact execWarmReset_held s
  · intro h hr
    rw [exec_warmReset, execWarmReset_requests s h hr, requestReset_eq]
  · rintro h t rfl
    have hc := endCkpt_none s true h
    refine ⟨rfl, rfl, rfl, rfl, fun p hp => ?_, rfl, ?_, ?_, ?_, fun d _ => ?_, fun a ha => warm_device_byte h ha⟩
    · exact congrArg (fun p => p.cfg.en) (warm_part_init s hp)
    · exact (warm_alarm s).trans (by rw [hc])
    · exact (warm_vault s).trans (by rw [hc])
    · exact (warm_sensors s).trans (by rw [hc])
    · exact (warm_eol s d).trans (by rw [hc])
  · exact execThermalTrip_eq
  · intro h
    rw [exec_partitionReset, execPartitionReset_requests s h, requestReset_eq]
    rfl
  · intro q l hq hl ho hp hc
    rw [exec_owlExpiry, execOwlExpiry_expires hq hl ho hp hc, requestReset_eq]
  · intro q l hq hl ho
    rw [exec_owlExpiry, execOwlExpiry_drains hq hl ho, performResets_eq]
  · intro h h'
    rw [exec_flrVf, execFlrVf_requests s h h', requestReset_eq]
  · rw [exec_flrPf, execFlrPf, requestReset_eq]
  · intro u
    refine ⟨fun _ _ _ _ => rfl, ?_, ?_⟩
    · rintro g hg b t rfl
      exact resetFunction_virtual u hg
    · intro t ht
      rw [ht]
      exact resetFunction_physical u

end Sys2Proof.Machine
end

section
/-!
PROOFS. The management domain and the host link (O55).
-/
namespace Sys2Proof.Machine

section
variable (s : State)

/-! ## The security alarm (R226, R227) -/

/-- The state in which the alarm has risen to a level and been reported; below level 3 that is all. -/
def State.alarmed (level : Nat) : State :=
  (s.updMgmt (fun m => { m with alarm := BitVec.ofNat 2 level, pldmEvents := m.pldmEvents + 1 })).magpie 0 unitManagement 0 [level]

theorem raiseAlarm_of_le {level : Nat} (h : level ≤ s.mgmt.alarm.toNat) : s.raiseAlarm level = s := by
  rw [State.raiseAlarm, if_pos h]

theorem raiseAlarm_low {level : Nat} (h : s.mgmt.alarm.toNat < level) (h3 : level < 3) : s.raiseAlarm level = s.alarmed level := by
  simp only [State.raiseAlarm, if_neg (Nat.not_le_of_lt h), if_pos h3]
  rfl

theorem raiseAlarm_three (h : s.mgmt.alarm.toNat < 3) :
    s.raiseAlarm 3 = (s.alarmed 3).warm.updMgmt (fun m => { m with kekPresent := false, flashKek := false, heldReset := true }) := by
  simp only [State.raiseAlarm, if_neg (Nat.not_le_of_lt h), if_neg (Nat.lt_irrefl 3)]
  rfl

theorem execGlitchDetect_eq : execGlitchDetect s =
    .next ((s.updMgmt (fun m => { m with glitches := m.glitches + 1 })).raiseAlarm (if s.mgmt.glitches = 0 then 1 else 2)) := by
  simp only [execGlitchDetect, State.updMgmt, Nat.add_eq_right]

/-- An attempt to unlock that fails, or that is refused from alarm level 2 on, counts. -/
theorem execDebugUnlock_fails (h : s.args.ok = false ∨ 2 ≤ s.mgmt.alarm.toNat) :
    execDebugUnlock s = .next
      (let s' := s.updMgmt (fun m => { m with unlockFails := m.unlockFails + 1 })
       if 7 ≤ s.mgmt.unlockFails then s'.raiseAlarm 3 else if 2 ≤ s.mgmt.unlockFails then s'.raiseAlarm 2 else s') := by
  have hc : ¬ ((s.args.ok && decide (s.mgmt.alarm.toNat < 2)) = true) := by
    obtain h | h := h
    · simp [h]
    · simp [Nat.not_lt_of_le h]
  simp only [execDebugUnlock, if_neg hc, State.updMgmt, Nat.reduceLeDiff]

/-! ## Duty and health (R16, R225) -/

theorem execThermalThrottle_eq : execThermalThrottle s =
    .next (if s.junctionAt s.args.n 95 then s.updDie s.args.n (fun d => { d with duty := max 1 (d.duty - 1) }) else s) := by
  unfold execThermalThrottle
  split <;> rfl

theorem execEolUpdate_eq (hd : s.args.n < 4) (hm : s.args.m ≤ 240) :
    execEolUpdate s = .next
      (let s' := s.updDie s.args.n (fun x => { x with eol := s.args.m })
       if s.args.m < 6 ∧ 6 ≤ (s.die s.args.n).eol then
         (s'.updMgmt (fun x => { x with pldmEvents := x.pldmEvents + 1 })).magpie s.args.n unitManagement 0 [s.args.m] else s') := by
  have h : ¬ (4 ≤ s.args.n ∨ 240 < s.args.m) := by omega
  simp only [execEolUpdate, if_neg h, Bool.and_eq_true, decide_eq_true_eq]

/-! ## The host link (R17, R55, R56) -/

theorem execHostLinkTrain_trains (hr : s.args.n ∈ linkRates) (hw : s.args.m ∈ linkWidths) :
    execHostLinkTrain s = .next (s.updLink (fun l => { l with rate := s.args.n, width := s.args.m, up := true })).carryOut := by
  simp [execHostLinkTrain, hr, hw]

/-- The link leaves the active state: the host is lost, and a choice made before it was lost is forgotten. -/
theorem execHostLoss_link (h : s.args.n = 0) :
    execHostLoss s = .next (s.updLink (fun l => { l with up := false, lost := true, choice := if l.lost then l.choice else none })) := by
  simp only [execHostLoss, h, State.loseHost, State.updLink]
  by_cases hl : s.hostLink.lost = true <;> simp [hl]

theorem execHostCompletionTimeOut_eq : execHostCompletionTimeOut s =
    .next (s.updLink (fun l => if l.lost = false ∧ 16 ≤ l.timeouts + 1
      then { l with timeouts := l.timeouts + 1, lost := true, choice := none } else { l with timeouts := l.timeouts + 1 })) := by
  simp only [execHostCompletionTimeOut, State.hostTimeout, State.updLink, Bool.and_eq_true, Bool.not_eq_true', decide_eq_true_eq]

/-- What answers a choice: nothing by message, the mailbox by command. -/
def State.choiceReply (cmd : BitVec 8) (st : BitVec 16) : State := if s.args.ok then s else s.lossReply cmd st

variable {s}

/-- A choice comes from the authenticated controller, or through the mailbox. -/
theorem hostChoice_party (h : s.args.ok = false ∨ s.mgmt.spdm = true) : (s.args.ok && !s.mgmt.spdm) = false := by
  obtain h | h := h <;> simp [h]

/-- Only the first choice counts. -/
theorem hostChoice_already {cmd : BitVec 8} {replay : Bool} (h : s.args.ok = false ∨ s.mgmt.spdm = true) (hc : s.hostLink.choice.isSome = true) :
    hostChoice cmd replay s = .next (s.choiceReply cmd 1) := by
  simp only [hostChoice, hostChoice_party h, hc, Bool.false_eq_true, if_false, if_true]
  rfl

theorem hostChoice_notLost {cmd : BitVec 8} {replay : Bool} (h : s.args.ok = false ∨ s.mgmt.spdm = true) (hc : s.hostLink.choice = none)
    (hl : s.hostLink.lost = false) : hostChoice cmd replay s = .next (s.choiceReply cmd 2) := by
  simp only [hostChoice, hostChoice_party h, hc, hl, Option.isSome_none, Bool.not_false, Bool.false_eq_true, if_false, if_true]
  rfl

/-- The first choice since the host was lost is taken: what was parked stays for a replay, or each parked write is dropped. -/
theorem hostChoice_taken {cmd : BitVec 8} {replay : Bool} (h : s.args.ok = false ∨ s.mgmt.spdm = true) (hc : s.hostLink.choice = none)
    (hl : s.hostLink.lost = true) :
    hostChoice cmd replay s = .next ((if replay then s.updLink (fun l => { l with choice := some true })
      else s.hostLink.parked.foldl (fun s _ => s.dropHostWrite) (s.updLink (fun l => { l with choice := some false, parked := [] }))).choiceReply
        cmd 0).carryOut := by
  simp only [hostChoice, hostChoice_party h, hc, hl, Option.isSome_none, Bool.not_true, Bool.false_eq_true, if_false]
  cases replay <;> rfl

theorem execHostMemoryWrite_host (h : s.args.ok = true) : execHostMemoryWrite s =
    .next (s.hostWrite (hostLoc (s.args.value.toNat / 64 * 64))
      { addr := s.args.value, mask := s.args.mask, data := s.args.block, rel := s.args.ok2 }) := by
  simp only [execHostMemoryWrite, h, if_true]

/-- A write of the host to device memory is held while a checkpoint runs, as far as the buffer takes it (R57). -/
theorem execHostMemoryWrite_device (h : s.args.ok = false) (hu : s.hostLink.up = true)
    (hd : deviceRange (s.args.value.toNat / 64 * 64) 64 = true) :
    execHostMemoryWrite s =
      let x : HostWrite := { addr := s.args.value, mask := s.args.mask, data := s.args.block, rel := s.args.ok2 }
      .next (if s.ckpt.isSome then
          if heldCapacity ≤ s.hostLink.heldWrites.length then s
          else s.updLink (fun l => { l with heldWrites := l.heldWrites ++ [x] })
        else s.hostWrite (s.args.value.toNat / 64 * 64) x) := by
  simp only [execHostMemoryWrite, h, hu, hd, Bool.not_true, Bool.or_self, Bool.false_eq_true, if_false]
  split
  · split <;> rfl
  · rfl

/-! ## Sessions, quiescing and updates (R226, R228) -/

theorem execSpdmSession_opens (h : s.args.ok = true) (ha : s.mgmt.alarm.toNat < 2) :
    execSpdmSession s = .next (s.updMgmt (fun m => { m with spdm := true })) := by
  simp [execSpdmSession, h, ha]

/-- The partitions after the controller has quiesced some. -/
def State.quiescedParts (s : State) : List Part :=
  (List.range s.parts.length).map (fun i => { s.part i with quiesced := (s.part i).quiesced || s.args.half.getLsbD i })

theorem execQuiescePartitions_eq (h : s.mgmt.spdm = true) (hl : s.hostLink.lost = true) :
    execQuiescePartitions s = .next { s with parts := s.quiescedParts } := by
  simp only [execQuiescePartitions, h, hl, Bool.not_true, Bool.or_self, Bool.false_eq_true, if_false]
  rfl

theorem quiescedParts_getD {p : Nat} (hp : p < s.parts.length) :
    s.quiescedParts.getD p Part.init = { s.part p with quiesced := (s.part p).quiesced || s.args.half.getLsbD p } := by
  simp [State.quiescedParts, List.getD_eq_getElem?_getD, hp]

theorem execImageUpdate_stages (h0 : 0 < s.args.n) (h4 : s.args.n ≤ 4) (hok : s.args.ok = true) (hf : s.mgmt.fuses.getD (s.args.n - 1) 0 ≤ s.args.m) :
    execImageUpdate s = .next (s.updMgmt (fun m =>
      { m with staged := m.staged.filter (fun u => u.1 ≠ s.args.n - 1) ++ [(s.args.n - 1, s.args.m, s.tick)] })) := by
  have h : ¬ (s.args.n = 0 ∨ 4 < s.args.n ∨ !s.args.ok ∨ s.args.m < s.mgmt.fuses.getD (s.args.n - 1) 0) := by
    simp only [hok, Bool.not_true, Bool.false_eq_true, false_or]
    omega
  simp only [execImageUpdate, if_neg h]

end

/-- Settles O55: each clause is the equation of its step. -/
theorem management : Obligations.Management := by
  intro s
  refine ⟨rfl, execThermalThrottle_eq s, fun _ => raiseAlarm_of_le s, ?_, ?_, execGlitchDetect_eq s, rfl, execDebugUnlock_fails s,
    execEolUpdate_eq s, ⟨execHostLinkTrain_trains s, execHostLoss_link s, execHostCompletionTimeOut_eq s, rfl, ?_, ?_, ?_⟩, execSpdmSession_opens, ?_,
    execImageUpdate_stages, rfl⟩
  · intro level h h3
    rw [raiseAlarm_low s h h3]
    exact ⟨rfl, rfl, rfl⟩
  · intro h hc
    rw [raiseAlarm_three s h]
    have hk : (s.alarmed 3).endCkpt true = s.alarmed 3 := endCkpt_none _ true hc
    exact ⟨(warm_alarm (s.alarmed 3)).trans (by rw [hk]; rfl), rfl, rfl, rfl, rfl⟩
  · intro hl hc hp
    exact ⟨hostChoice_taken hp hc hl, hostChoice_taken hp hc hl⟩
  · intro hp
    exact ⟨fun hc => ⟨hostChoice_already hp hc, hostChoice_already hp hc⟩, fun hc hl => ⟨hostChoice_notLost hp hc hl, hostChoice_notLost hp hc hl⟩⟩
  · refine ⟨execHostMemoryWrite_host, fun h hu hd => ⟨fun hc => ?_, fun hc => ?_⟩⟩
    · rw [exec_hostMemoryWrite, execHostMemoryWrite_device h hu hd, hc]
      rfl
    · rw [exec_hostMemoryWrite, execHostMemoryWrite_device h hu hd]
      simp only [Option.isSome_iff_ne_none.mpr hc, if_true]
      rfl
  · intro h hl
    exact ⟨_, execQuiescePartitions_eq h hl, rfl, fun p hp => quiescedParts_getD hp⟩

end Sys2Proof.Machine
end

section
/-!
PROOFS. The peer fabric (O51).
-/
namespace Sys2Proof.Machine

section
variable {s : State} {p : Nat}

/-! ## Ports (R20 to R22, R24) -/

theorem acknowledge_open {x : Port} (h : x.sinceAck ≠ 0) : x.acknowledge = { x with
    control := x.control ++ [(0x01, x.seqRx - 1)] ++ [(0x03, BitVec.ofNat 24 x.sinceAck)], sinceAck := 0 } := by
  rw [Port.acknowledge, if_neg h]
  rfl

/-- Changes of a port that agree on it as it stands are the same change of the state. -/
theorem updPort_congr {f g : Port → Port} (h : f (s.port p) = g (s.port p)) : s.updPort p f = s.updPort p g := by
  simp only [State.updPort, putAt]
  congr 1
  refine List.map_congr_left fun j _ => ?_
  split
  · next hj => rw [hj]; exact h
  · rfl

/-- A port that exists and is up is not refused its link control. -/
theorem port_works (hp : p < s.ports.length) (hu : (s.port p).up = true) : (decide (s.ports.length ≤ p) || !(s.port p).up) = false := by
  simp [hu, hp]

theorem execAck_frees (hp : p < s.ports.length) (hu : (s.port p).up = true) (seq : BitVec 24) :
    execAck p seq s =
      let left := (s.port p).retained.filter (fun f => 2 ^ 23 ≤ (seq - f.1).toNat)
      .next ((s.updPort p (fun x => { x with
        retained := left, replayFails := if left.length < (s.port p).retained.length then 0 else x.replayFails })).flushPort p) := by
  simp only [execAck, port_works hp hu, Bool.false_eq_true, if_false]

theorem execReplay_down (hp : p < s.ports.length) (hu : (s.port p).up = true) (seq : BitVec 24) (h : 8 ≤ (s.port p).replayFails) :
    execReplay p seq s = .next (s.portDown p) := by
  simp only [execReplay, port_works hp hu, h, Bool.false_eq_true, if_false, if_true]

theorem execCredit_adds (hp : p < s.ports.length) (hu : (s.port p).up = true) (freed : BitVec 16) :
    execCredit p freed s = .next ((s.updPort p (fun x => { x with credit := x.credit + freed.toNat })).flushPort p) := by
  simp only [execCredit, port_works hp hu, Bool.false_eq_true, if_false]

/-- A REPLAY that is not the ninth in a row: the retained flits from its number on go out again. -/
theorem execReplay_again (hp : p < s.ports.length) (hu : (s.port p).up = true) (seq : BitVec 24) (h : (s.port p).replayFails < 8) :
    execReplay p seq s =
      let again := (s.port p).retained.filter (fun f => (f.1 - seq).toNat < 2 ^ 23)
      .next (s.updPort p (fun x => { x with replayFails := x.replayFails + 1, wire := x.wire ++ again })) := by
  simp only [execReplay, port_works hp hu, Nat.not_le_of_lt h, Bool.false_eq_true, if_false]
  exact congrArg Host.Outcome.next (updPort_congr rfl)

theorem execFlitChkMismatch_asks (hp : s.args.n < s.ports.length) (hu : (s.port s.args.n).up = true) :
    execFlitChkMismatch s = .next (s.updPort s.args.n (fun x => { x with control := x.control ++ [(0x02, x.seqRx)] })) := by
  simp only [execFlitChkMismatch, port_works hp hu, Bool.false_eq_true, if_false]
  rfl

theorem execFlitUnlistedKind_counts (hp : s.args.n < s.ports.length) (hu : (s.port s.args.n).up = true) (hk : listedKind s.args.code = false) :
    execFlitUnlistedKind s = .next ((s.updPort s.args.n (fun x =>
      { (if s.args.m = x.seqRx.toNat then x.accept else x) with badKind := x.badKind + 1 })).magpie
        (portDie s.args.n) unitLink 0 [s.args.n, s.args.code.toNat]) := by
  simp only [execFlitUnlistedKind, port_works hp hu, hk, Bool.or_self, Bool.false_eq_true, if_false]

theorem execAckTimer_acknowledges (hp : s.args.n < s.ports.length) (hu : (s.port s.args.n).up = true) :
    execAckTimer s = .next (s.updPort s.args.n Port.acknowledge) := by
  simp only [execAckTimer, port_works hp hu, Bool.false_eq_true, if_false]

theorem execPortRetrain_up (hp : s.args.n < s.ports.length) (hok : s.args.ok = true) :
    execPortRetrain s = .next ((s.updPort s.args.n (fun _ =>
      let x := s.port s.args.n
      { Port.init with waiting := x.retained.map (fun f => (f.2.1, f.2.2)) ++ x.waiting, badKind := x.badKind, control := x.control,
                       wire := x.wire })).flushPort s.args.n) := by
  simp only [execPortRetrain, if_neg (Nat.not_le_of_lt hp), hok, if_true]

theorem execPortRetrain_down (hp : s.args.n < s.ports.length) (hok : s.args.ok = false) :
    execPortRetrain s = .next ((if (s.port s.args.n).up then s.portDown s.args.n else s).magpie (portDie s.args.n) unitLink 0 [s.args.n]) := by
  simp only [execPortRetrain, if_neg (Nat.not_le_of_lt hp), hok, Bool.false_eq_true, if_false]

theorem execRequestTimeout_loses {r : PeerReq}
    (h : s.reqs.find? (fun r => r.die = s.args.n && r.tag.toNat == s.args.m && r.dev == s.args.half) = some r) :
    execRequestTimeout s = .next (s.lose r) := by
  simp only [execRequestTimeout, h]

/-! ## Messages of peers (R23, R24, R155, R185, R319) -/

variable {m : PeerMsg}

/-- The answer to a request, with a status and data. -/
def answerTo (m : PeerMsg) (st : BitVec 3) (data : BitVec 512) : PeerMsg :=
  { (default : PeerMsg) with tag := m.tag, die := m.die, size := m.size, status := st, data := data }

theorem default_bitVec (n : Nat) : (default : BitVec n) = 0 := rfl

theorem default_data : (default : PeerMsg).data = 0 := default_bitVec 512

/-- An answer without data. -/
theorem answerTo_zero (st : BitVec 3) :
    answerTo m st 0 = { (default : PeerMsg) with tag := m.tag, die := m.die, size := m.size, status := st } := by
  rw [answerTo, ← default_data]

/-- A sequenced flit that is not the next one of its port is discarded. -/
theorem outOfOrder_discarded (h : s.inOrder p m = false) :
    ∀ ins ∈ [Instr.rd p m, .rdr p m, .wr p m, .wra p m, .peerStep p m, .stepa p m, .cell p m, .cella p m], exec ins s = .next s := by
  intro ins hi
  simp only [List.mem_cons, List.not_mem_nil, or_false] at hi
  rcases hi with rfl | rfl | rfl | rfl | rfl | rfl | rfl | rfl <;>
    simp only [exec_rd, exec_rdr, exec_wr, exec_wra, exec_peerStep, exec_stepa, exec_cell, exec_cella, execRd, execRdr, execWr, execWra, execPeerStep,
      execStepa, execCell, execCella, h, Bool.not_false, if_true]

section
variable (h : s.inOrder p m = true)
include h

/-! ### Requests -/

theorem execRd_noMemory {n : Nat} (hn : sizeBytes m.size = some n) (hd : deviceRange m.addr.toNat n = false) :
    execRd p m s = .next ((s.updPort p Port.accept).sendFlit p kindRDR (answerTo m 2 0)) := by
  simp only [execRd, h, hn, hd, Bool.not_true, Bool.not_false, Bool.false_eq_true, if_false, if_true]
  rfl

theorem execRd_poison {n : Nat} (hn : sizeBytes m.size = some n) (hd : deviceRange m.addr.toNat n = true)
    (hb : (s.updPort p Port.accept).badRange m.addr.toNat n = true) :
    execRd p m s =
      let t := s.updPort p Port.accept
      .next ((((wordsOf m.addr.toNat n).filter t.isBad).foldl State.logUE (t.crossHome (portDie p) m.addr.toNat)).sendFlit p kindRDR
        (answerTo m 1 0)) := by
  simp only [execRd, State.takeFlit, h, hn, hd, hb, Bool.not_true, Bool.false_eq_true, if_false, if_true]
  rfl

theorem execRd_bytes {n : Nat} (hn : sizeBytes m.size = some n) (hd : deviceRange m.addr.toNat n = true)
    (hb : (s.updPort p Port.accept).badRange m.addr.toNat n = false) :
    execRd p m s =
      let t := s.updPort p Port.accept
      .next ((t.crossHome (portDie p) m.addr.toNat).sendFlit p kindRDR
        (answerTo m 0 (BitVec.ofNat 512 (leNat (t.readBytes m.addr.toNat n))))) := by
  simp only [execRd, State.takeFlit, h, hn, hd, hb, Bool.not_true, Bool.false_eq_true, if_false]
  rfl

theorem execWr_noMemory (hd : deviceRange (m.addr.toNat / 64 * 64) 64 = false) :
    execWr p m s = .next ((s.updPort p Port.accept).sendFlit p kindWRA (answerTo m 2 0)) := by
  simp only [execWr, State.takeFlit, answerTo_zero, h, hd, Bool.not_true, Bool.not_false, Bool.false_eq_true, if_false, if_true]

theorem execWr_writes (hd : deviceRange (m.addr.toNat / 64 * 64) 64 = true) :
    execWr p m s =
      let base := m.addr.toNat / 64 * 64
      .next (((((s.updPort p Port.accept).crossHome (portDie p) base).peerWrite m.src.toNat base m.mask m.data)).sendFlit p kindWRA
        (answerTo m 0 0)) := by
  simp only [execWr, State.takeFlit, answerTo_zero, h, hd, Bool.not_true, Bool.false_eq_true, if_false]

/-- A STEP to an address where no object can be. -/
theorem execPeerStep_noMemory (hd : deviceRange m.addr.toNat 8 = false ∨ m.addr.toNat % 8 ≠ 0) :
    execPeerStep p m s = .next ((s.updPort p Port.accept).sendFlit p kindSTEPA (stepaOf m 2 none false 0 0)) := by
  have hc : (!deviceRange m.addr.toNat 8 || decide (m.addr.toNat % 8 ≠ 0)) = true := by
    obtain hd | hd := hd <;> simp [hd]
  simp only [execPeerStep, h, hc, Bool.not_true, Bool.false_eq_true, if_false, if_true]
  rfl

theorem execPeerStep_append (hd : deviceRange m.addr.toNat 8 = true) (ha : m.addr.toNat % 8 = 0) (hm : bits m.data.toNat 0 8 = 0) {n : Nat}
    {u : State} (hr : (s.updPort p Port.accept).allocRec (homeOf m.addr.toNat) { (s.updPort p Port.accept).foreignRec m with obj := m.addr.toNat } =
      some (n, u)) : execPeerStep p m s = .next (u.answerStep p m 0 n true) := by
  simp [execPeerStep, State.takeFlit, h, hd, ha, hm, hr]

theorem execPeerStep_step (hd : deviceRange m.addr.toNat 8 = true) (ha : m.addr.toNat % 8 = 0) (hm : bits m.data.toNat 0 8 = 1) {b : Bool}
    {u : State} (hr : (s.updPort p Port.accept).homeStep (bits m.data.toNat 32 32) (bits m.data.toNat 8 8) = .answered u b) :
    execPeerStep p m s = .next (u.answerStep p m 0 (bits m.data.toNat 32 32) b) := by
  simp [execPeerStep, State.takeFlit, h, hd, ha, hm, hr]

theorem execPeerStep_version (hd : deviceRange m.addr.toNat 8 = true) (ha : m.addr.toNat % 8 = 0) (hm : bits m.data.toNat 0 8 = 4) :
    execPeerStep p m s =
      let t := s.updPort p Port.accept
      .next (t.sendFlit p kindSTEPA (stepaOf m 0 none false 0 (t.version m.addr.toNat))) := by
  simp [execPeerStep, State.takeFlit, h, hd, ha, hm]

theorem execPeerStep_publish (hd : deviceRange m.addr.toNat 8 = true) (ha : m.addr.toNat % 8 = 0) (hm : bits m.data.toNat 0 8 = 5) :
    execPeerStep p m s =
      let t := s.updPort p Port.accept
      let u := { t with pubs := updWhere (fun q => q.obj = m.addr.toNat) (fun q => { q with ver := q.ver + 1 }) t.pubs }
      .next (u.sendFlit p kindSTEPA (stepaOf m 0 none false 0 (u.version m.addr.toNat))) := by
  simp [execPeerStep, State.takeFlit, h, hd, ha, hm]

theorem execCell_noLaunch (hl : (s.updPort p Port.accept).launch? (BitVec.ofNat 32 (bits m.data.toNat 128 32)) = none) :
    execCell p m s = .next ((s.updPort p Port.accept).sendFlit p kindCELLA (answerTo m 2 0)) := by
  simp only [execCell, State.answerCell, answerTo_zero, State.takeFlit, h, hl, Bool.not_true, Bool.false_eq_true, if_false]

theorem execCell_writes {l : Launch} {loc : Nat} {e : TlbEntry}
    (hl : (s.updPort p Port.accept).launch? (BitVec.ofNat 32 (bits m.data.toNat 128 32)) = some l)
    (ht : (s.updPort p Port.accept).translate l.asid m.addr .write (2048 + portDie p) = .ok loc e) :
    execCell p m s =
      let u := ((s.updPort p Port.accept).tlbAdd e).storeWord (portDie p) (wordOf loc) 0xFF (BitVec.ofNat 64 (bits m.data.toNat 64 64)) [] 0 Party.nobody
      .next ((u.cellWritten m (wordOf loc)).sendFlit p kindCELLA (answerTo m 0 0)) := by
  simp only [execCell, State.answerCell, answerTo_zero, State.takeFlit, h, hl, ht, Bool.not_true, Bool.false_eq_true, if_false]

/-! ### Responses -/

variable {r : PeerReq}

/-- An RDR ends the request that it matches; what it brings is known from then on, and whatever waited for it goes on. -/
theorem execRdr_answers (hm : (s.updPort p Port.accept).matching p kindRD m = some r) :
    let u := (s.updPort p Port.accept).dropReq r
    let loc := peerLoc r.dev.toNat r.msg.addr.toNat
    let v := u.learn loc (leBytes m.data.toNat ((sizeBytes r.msg.size).getD 1))
    (∀ k id l, r.use = .load k id l → execRdr p m s = .next (if m.status = 0 then v else u.failLoadLane k id l)) ∧
    (∀ e j, m.status = 0 → r.use = .line e j → execRdr p m s = .next v) ∧
    (∀ k key x, r.use = .watch k key x → execRdr p m s = .next
      (if m.status = 0 then (if m.data.extractLsb' 0 64 = x then v else v.watchEnds k key) else u.watchEnds k key)) ∧
    (∀ k loc, r.use = .entry k loc → execRdr p m s = .next (if m.status = 0 then v.entryAnswer k loc true else u.entryAnswer k loc false)) ∧
    (∀ who loc n, r.use = .front who loc n → execRdr p m s = .next
      (if m.status = 0 then v.frontAnswer who loc n true else u.frontAnswer who loc n false)) := by
  refine ⟨fun k id l hu => ?_, fun e j hs hu => ?_, fun k key x hu => ?_, fun k loc hu => ?_, fun who loc n hu => ?_⟩
  · by_cases hs : m.status = 0 <;> simp only [execRdr, State.takeFlit, h, hm, hu, hs, Bool.not_true, Bool.false_eq_true, beq_iff_eq, if_true, if_false]
  · simp only [execRdr, State.takeFlit, h, hm, hu, hs, Bool.not_true, Bool.false_eq_true, beq_iff_eq, if_true, if_false]
  · by_cases hs : m.status = 0 <;> simp only [execRdr, State.takeFlit, h, hm, hu, hs, Bool.not_true, Bool.false_eq_true, beq_iff_eq, if_true, if_false]
  · by_cases hs : m.status = 0 <;> simp only [execRdr, State.takeFlit, h, hm, hu, hs, Bool.not_true, Bool.false_eq_true, beq_iff_eq, if_true, if_false]
  · by_cases hs : m.status = 0 <;> simp only [execRdr, State.takeFlit, h, hm, hu, hs, Bool.not_true, Bool.false_eq_true, beq_iff_eq, if_true, if_false]

theorem execWra_store (hm : (s.updPort p Port.accept).matching p kindWR m = some r) (hu : ∀ e j, r.use ≠ .out e j) :
    execWra p m s =
      let u := (s.updPort p Port.accept).dropReq r
      .next (if m.status = 0 then u else u.dropPeerStore r.die) := by
  cases hr : r.use with
  | out e j => exact absurd hr (hu e j)
  | _ => simp only [execWra, State.takeFlit, h, hm, hr, Bool.not_true, Bool.false_eq_true, if_false, beq_iff_eq]

theorem execWra_copy (hm : (s.updPort p Port.accept).matching p kindWR m = some r) {e j : Nat} (hu : r.use = .out e j) :
    execWra p m s =
      let u := (s.updPort p Port.accept).dropReq r
      .next (if m.status = 0 then u else u.copyLost e j) := by
  simp only [execWra, State.takeFlit, h, hm, hu, Bool.not_true, Bool.false_eq_true, if_false, beq_iff_eq]

theorem execStepa_step (hm : (s.updPort p Port.accept).matching p kindSTEP m = some r) {k id l : Nat} (hu : r.use = .step k id l) :
    execStepa p m s = .next ((((s.updPort p Port.accept).dropReq r).orphanAnswer r m.status m.data).annAnswer k id l m.status m.data) := by
  simp only [execStepa, State.takeFlit, h, hm, hu, Bool.not_true, Bool.false_eq_true, if_false]

theorem execStepa_object (hm : (s.updPort p Port.accept).matching p kindSTEP m = some r) {k id l : Nat} (hu : r.use = .object k id l) :
    execStepa p m s = .next (((s.updPort p Port.accept).dropReq r).objectAnswer k id l m.status m.data) := by
  simp only [execStepa, State.takeFlit, h, hm, hu, Bool.not_true, Bool.false_eq_true, if_false]

/-- A CELLA settles the delivery of the record that its request names: DELIVERED, FAILED, or sent again. -/
theorem execCella_settles {home idx : Nat} {x : AnnRec} (hm : (s.updPort p Port.accept).matching p kindCELL m = some r)
    (hu : r.use = .cell home idx) (hx : (s.updPort p Port.accept).rec? (home * 8192 + idx) = some x) :
    let u := (s.updPort p Port.accept).dropReq r
    (m.status = 0 → execCella p m s = .next ((u.acceptStep x x.nsteps).settleCell (home * 8192 + idx) true false)) ∧
    (m.status = 2 → execCella p m s = .next ((u.failRec x x.nsteps 0x0000000A).settleCell (home * 8192 + idx) true false)) ∧
    (m.status = 5 → execCella p m s = .next (u.settleCell (home * 8192 + idx) false true)) := by
  refine ⟨fun hs => ?_, fun hs => ?_, fun hs => ?_⟩ <;>
    simp [execCella, State.takeFlit, h, hm, hu, hx, hs]

end

end

/-- Settles O51: the first half is about ports as they stand; in the second, a flit in order is accepted, and each message then has its effect. -/
theorem peerFabric : Obligations.PeerFabric := by
  refine ⟨fun s => ⟨fun p hp hu => ⟨?_, ?_, ?_⟩, ⟨fun hp hu => ⟨?_, ?_, ?_⟩, fun hp => ⟨?_, ?_⟩⟩, ?_, ?_⟩, fun s p m => ⟨?_, fun h => ?_⟩⟩
  · exact execAck_frees hp hu
  · exact fun seq => ⟨execReplay_again hp hu seq, execReplay_down hp hu seq⟩
  · exact execCredit_adds hp hu
  · exact execFlitChkMismatch_asks hp hu
  · exact execFlitUnlistedKind_counts hp hu
  · exact fun _ => execAckTimer_acknowledges hp hu
  · exact execPortRetrain_up hp
  · exact execPortRetrain_down hp
  · exact fun r => execRequestTimeout_loses
  · exact fun x => acknowledge_open
  · exact outOfOrder_discarded
  · refine ⟨fun n hn => ⟨execRd_noMemory h hn, execRd_poison h hn, execRd_bytes h hn⟩, execWr_noMemory h, execWr_writes h, execPeerStep_noMemory h,
      fun hd ha => ⟨fun n u hm hr => execPeerStep_append h hd ha hm hr, fun u b hm hr => execPeerStep_step h hd ha hm hr,
        execPeerStep_version h hd ha, ?_⟩,
      execCell_noLaunch h, fun l loc e hl ht => execCell_writes h hl ht, fun r hm => execRdr_answers h hm,
      fun r hm => ⟨execWra_store h hm, fun e j => execWra_copy h hm⟩, fun r k id l hm => ⟨execStepa_step h hm, execStepa_object h hm⟩,
      fun r home idx x hm hu hx => execCella_settles h hm hu hx⟩
    rintro hm u rfl
    exact execPeerStep_publish h hd ha hm

end Sys2Proof.Machine
end

section
/-!
PROOFS. Words that the spec writes out decode as it says (O56).
-/
namespace Sys2Proof.Machine

/-- Settles O56: each word is decoded as it stands. -/
theorem decodeWords : Obligations.DecodeWords := by
  unfold Obligations.DecodeWords
  intro ext w
  refine ⟨?_, ?_, ?_, ?_, ?_, ?_, ?_, ?_, ?_, ?_, ?_, ?_, ?_, ?_, ?_, ?_⟩ <;> rfl

end Sys2Proof.Machine
end

section
/-!
PROOFS. Host atomics and the cancel of a killed owner (O35).
-/
namespace Sys2Proof.Machine

section
variable {s : State} {r : AnnRec}

/-- The host-bound AtomicOp of a ticket is no longer under way. -/
def State.endAtomic (s : State) (t : Nat) : State := { s with atomics := s.atomics.filter (fun x => x ≠ t) }

/-- An AtomicOp that timed out has updated the host word all the same (R54). -/
def State.atomicWritten (s : State) (r : AnnRec) : State :=
  s.appendWrite (wordOf r.obj) (if r.type < 3 then 0x0F else 0xFF)
    (annNew r.op r.type r.opA r.opB (s.lastWrite (wordOf r.obj)).value).1 [] 0 Party.nobody

/-- Unsupported Request of a page that is not device-exclusive. -/
theorem execAtomicopCompletion_fails (hr : s.rec? (64 * 8192 + s.args.n) = some r) (ha : 64 * 8192 + s.args.n ∈ s.atomics)
    (h : (s.args.ok && !r.dx) = true) :
    execAtomicopCompletion s = .next ((s.endAtomic (64 * 8192 + s.args.n)).hostAnswered.failRec r 1 0x00000011) := by
  simp only [execAtomicopCompletion, hr, List.contains_iff_mem.mpr ha, Bool.not_true, Bool.false_eq_true, if_false]
  exact if_pos h

theorem execAtomicopCompletion_completes (hr : s.rec? (64 * 8192 + s.args.n) = some r) (ha : 64 * 8192 + s.args.n ∈ s.atomics)
    (h : (s.args.ok && !r.dx) = false) :
    execAtomicopCompletion s = .next ((s.endAtomic (64 * 8192 + s.args.n)).hostAnswered.hostDone r s.args.value) := by
  simp only [execAtomicopCompletion, hr, List.contains_iff_mem.mpr ha, Bool.not_true, Bool.false_eq_true, if_false]
  exact if_neg (ne_true_of_eq_false h)

theorem execAtomicopTimeout_eq (hr : s.rec? (64 * 8192 + s.args.n) = some r) (ha : 64 * 8192 + s.args.n ∈ s.atomics) :
    execAtomicopTimeout s =
      let gone := s.endAtomic (64 * 8192 + s.args.n)
      .next ((if s.args.ok then gone.atomicWritten r else gone).hostTimeout.failRec r 1 0x00010011) := by
  simp only [execAtomicopTimeout, hr, List.contains_iff_mem.mpr ha, Bool.not_true, Bool.false_eq_true, if_false]
  rfl

theorem execRecordCancel_cancels (hp : s.peerCancels.find? (fun x => homeOf x.obj = s.args.n && x.ticket == s.args.m) = none)
    (hr : s.rec? (s.args.n * 8192 + s.args.m) = some r) (hk : r.killed = true) (hs : r.state = 1) (h0 : r.prog = 0) (ho : r.op ≠ holdOp)
    (ha : s.args.n * 8192 + s.args.m ∉ s.atomics) :
    execRecordCancel s = .next (s.updRec (s.args.n * 8192 + s.args.m) (fun r => { r with state := 5 })) := by
  simp [execRecordCancel, hp, hr, hk, hs, h0, ho, ha]

end

/-- Settles O35: a completion ends the AtomicOp and answers its record, a time-out fails it, and a cancel needs a record without progress. -/
theorem hostAtomicsAndCancel : Obligations.HostAtomicsAndCancel := by
  intro s r
  refine ⟨fun hr ha => ⟨fun hok hdx => ?_, fun h => ?_, fun hok => ?_, fun hok => ?_⟩, execRecordCancel_cancels⟩
  · exact execAtomicopCompletion_fails hr ha (by simp [hok, hdx])
  · exact execAtomicopCompletion_completes hr ha (by obtain h | h := h <;> simp [h])
  · rw [exec_atomicopTimeout, execAtomicopTimeout_eq hr ha, hok]
    rfl
  · rw [exec_atomicopTimeout, execAtomicopTimeout_eq hr ha, hok]
    rfl

end Sys2Proof.Machine
end

section
/-!
PROOFS. What the front end's reading of a word leaves as it was, and where it may read a signal word.
-/
namespace Sys2Proof.Machine

section
variable (s : State) (d k loc : Nat)

@[simp] theorem logUE_mem : (s.logUE loc).mem = s.mem := by
  unfold State.logUE
  split <;> rfl

@[simp] theorem logUE_queues : (s.logUE loc).queues = s.queues := by
  unfold State.logUE
  split <;> rfl

@[simp] theorem crossHome_queues : (s.crossHome d loc).queues = s.queues := by
  simp only [State.crossHome, State.cross]
  split_ifs <;> rfl

@[simp] theorem hostRead_mem : (s.hostRead loc).mem = s.mem := by
  unfold State.hostRead
  split <;> rfl

@[simp] theorem hostRead_queues : (s.hostRead loc).queues = s.queues := by
  unfold State.hostRead
  split <;> rfl

/-- A word that the front end takes changes no byte of memory. -/
@[simp] theorem frontWord_mem : (s.frontWord d loc).mem = s.mem := by
  rw [State.frontWord, hostRead_mem, crossHome_mem]
  split
  · exact logUE_mem s loc
  · rfl

@[simp] theorem frontWord_queues : (s.frontWord d loc).queues = s.queues := by
  rw [State.frontWord, hostRead_queues, crossHome_queues]
  split
  · exact logUE_queues s loc
  · rfl

theorem readyQueues_congr {t : State} (hm : t.mem = s.mem) (hq : t.queues = s.queues) : t.readyQueues k = s.readyQueues k := by
  simp only [State.readyQueues, State.qIsReady, State.qState, State.qRptr, State.qWptr, State.qField, hm, hq]

@[simp] theorem frontWord_readyQueues : (s.frontWord d loc).readyQueues k = s.readyQueues k :=
  readyQueues_congr s k (frontWord_mem s d loc) (frontWord_queues s d loc)

end

section
variable {s : State} {q : Queue}

/-- The word of a WAIT or `dv.swait` can be read where the front end can, unless it lies in the memory of a lost host (log 80). -/
theorem swaitLoc_ok {va : DWord} {loc : Nat} (hl : s.feLoc q.reader q.asid va .read = .ok loc)
    (hh : ¬ (spaceOf loc = .host ∧ s.hostLink.lost = true)) : s.swaitLoc q va = .ok loc := by
  have hc : (spaceOf loc == .host && s.hostLink.lost) = false := by
    rw [Bool.eq_false_iff]
    simpa using hh
  simp only [State.swaitLoc, hl, hc, Bool.false_eq_true, if_false]

theorem swaitLoc_error {va : DWord} {e : Stop} (hl : s.feLoc q.reader q.asid va .read = .error e) : s.swaitLoc q va = .error e := by
  simp only [State.swaitLoc, hl]

end

end Sys2Proof.Machine
end

section
/-!
PROOFS. The instructions of the command processors (O50).
-/
namespace Sys2Proof.Machine

section
variable {s : State} {q : Queue}

/-! ## How an instruction ends (R46) -/

variable {n : Nat} {c : Cp} {w : DvWord} {body : Nat → DWord → DWord → State → CpEnd}

/-- In machine mode an instruction whose body does not stay retires with what the body gives. -/
theorem execCp_retires {t : State} {rd : Option DWord} (hc : s.cur = some (.cp n)) (hn : s.cps.getD n Cp.init = c) (hm : c.mode = 3)
    (he : body n (c.reads w.rs1) (c.reads w.rs2) s = { s := t, rd := rd }) :
    execCp w s body = .next (t.cpRetires n w (Config.freeWord s.tick) rd) := by
  subst hn
  exact execCp_machine hc hm he rfl

/-- One whose body stays is executed again when its answer has come. -/
theorem execCp_stays {t : State} {rd : Option DWord} (hc : s.cur = some (.cp n)) (hn : s.cps.getD n Cp.init = c) (hm : c.mode = 3)
    (he : body n (c.reads w.rs1) (c.reads w.rs2) s = { s := t, rd := rd, stay := true }) : execCp w s body = .next t := by
  subst hn
  have hm' : ((s.cps.getD n Cp.init).mode != 3) = false := by rw [hm]; rfl
  simp only [Cp.reads] at he
  simp only [execCp, hc, hm', beq_iff_eq, he, Bool.false_eq_true, if_false, if_true]

theorem dv_illegal (hc : s.cur = some (.cp n)) (hm : (s.cps.getD n Cp.init).mode ≠ 3) :
    ∀ ins ∈ [Instr.dvRfetch w, .dvBfx w, .dvSwait w, .dvDisp w],
      exec ins s = .next { s with cps := putAt 16 Cp.init (fun c => { c.illegal with word := Config.freeWord s.tick }) n s.cps } := by
  intro ins hi
  simp only [List.mem_cons, List.not_mem_nil, or_false] at hi
  obtain rfl | rfl | rfl | rfl := hi
  · exact (exec_dvRfetch w s).trans (execCp_illegal hc hm)
  · exact (exec_dvBfx w s).trans (execCp_illegal hc hm)
  · exact (exec_dvSwait w s).trans (execCp_illegal hc hm)
  · exact (exec_dvDisp w s).trans (execCp_illegal hc hm)

theorem cpFault_some (code : Nat) : s.cpFault (some q) code = { s := s.packetFault q code, rd := none } := rfl

theorem cpQueue_eq (hn : s.cps.getD n Cp.init = c) : s.cpQueue n = s.slotQueue (n / 4) c.slot := by rw [State.cpQueue, hn]

/-! ## The four instructions in machine mode -/

section
variable (hc : s.cur = some (.cp n)) (hn : s.cps.getD n Cp.init = c) (hm : c.mode = 3)
include hc hn hm

theorem execDvBfx_field {lo width : Nat} (hlo : lo = bits (c.reads w.rs2).toNat 0 6) (hw : width = bits (c.reads w.rs2).toNat 6 7)
    (h0 : 0 < width) (h64 : lo + width ≤ 64) (hz : c.reads w.rs2 >>> 13 = 0) :
    execDvBfx w s = .next (s.cpRetires n w (Config.freeWord s.tick) (some (BitVec.ofNat 64 ((c.reads w.rs1).toNat / 2 ^ lo % 2 ^ width)))) := by
  subst hlo hw
  refine execCp_retires hc hn hm ?_
  have hg : ¬ (bits (c.reads w.rs2).toNat 6 7 = 0 ∨ 64 < bits (c.reads w.rs2).toNat 6 7 ∨
      64 < bits (c.reads w.rs2).toNat 0 6 + bits (c.reads w.rs2).toNat 6 7 ∨ (c.reads w.rs2 >>> 13 != 0) = true) := by
    simp only [hz, bne_self_eq_false, Bool.false_eq_true, or_false]
    omega
  rw [if_neg hg]
  simp only [bits, Nat.shiftRight_eq_div_pow]

/-- A field of no bits, one past bit 63, or a wrong rs2[63:13] faults the queue. -/
theorem execDvBfx_faults {lo width : Nat} (hlo : lo = bits (c.reads w.rs2).toNat 0 6) (hw : width = bits (c.reads w.rs2).toNat 6 7)
    (h : width = 0 ∨ 64 < lo + width ∨ c.reads w.rs2 >>> 13 ≠ 0) (hq : s.slotQueue (n / 4) c.slot = some q) :
    execDvBfx w s = .next ((s.packetFault q 0x84).cpRetires n w (Config.freeWord s.tick) none) := by
  subst hlo hw
  refine execCp_retires hc hn hm ?_
  have hg : bits (c.reads w.rs2).toNat 6 7 = 0 ∨ 64 < bits (c.reads w.rs2).toNat 6 7 ∨
      64 < bits (c.reads w.rs2).toNat 0 6 + bits (c.reads w.rs2).toNat 6 7 ∨ (c.reads w.rs2 >>> 13 != 0) = true := by
    rw [bne_iff_ne]
    tauto
  rw [if_pos hg, cpQueue_eq hn, hq, cpFault_some]

/-- A slot without a queue reads as an empty ring (log 82). -/
theorem execDvRfetch_noQueue
    (hq : (s.serveSlot n ((c.reads w.rs1).toNat % 64)).slotQueue (n / 4) ((c.reads w.rs1).toNat % 64) = none) :
    execDvRfetch w s = .next ((s.serveSlot n ((c.reads w.rs1).toNat % 64)).cpRetires n w (Config.freeWord s.tick) (some (~~~0))) := by
  refine execCp_retires hc hn hm ?_
  simp only [hq]

section
variable {served : State} (hs : served = s.serveSlot n ((c.reads w.rs1).toNat % 64))
  (hq : served.slotQueue (n / 4) ((c.reads w.rs1).toNat % 64) = some q) (hz : c.reads w.rs1 >>> 6 = 0)
include hs hq hz

/-- A word at or past WPTR reads as all ones. -/
theorem execDvRfetch_pastEnd (h : (served.qWptr q - served.qRptr q).toNat ≤ (c.reads w.rs2).toNat) :
    execDvRfetch w s = .next (served.cpRetires n w (Config.freeWord s.tick) (some (~~~0))) := by
  subst hs
  refine execCp_retires hc hn hm ?_
  simp only [hq, hz, bne_self_eq_false, Bool.false_eq_true, if_false, h, if_true]

theorem execDvRfetch_word {v : Nat} (h : (c.reads w.rs2).toNat < (served.qWptr q - served.qRptr q).toNat)
    (hr : served.ringWord q ((served.qRptr q).toNat + (c.reads w.rs2).toNat) = .ok v) :
    execDvRfetch w s = .next ((served.endRead q.reader).cpRetires n w (Config.freeWord s.tick) (some (BitVec.ofNat 64 v))) := by
  subst hs
  refine execCp_retires hc hn hm ?_
  simp only [hq, hz, bne_self_eq_false, Bool.false_eq_true, if_false, Nat.not_le_of_lt h, hr]

end

section
variable (hq : s.slotQueue (n / 4) c.slot = some q)
include hq

theorem execDvSwait_misaligned (h : (c.reads w.rs1).toNat % 8 ≠ 0) :
    execDvSwait w s = .next ((s.packetFault q 0x85).cpRetires n w (Config.freeWord s.tick) none) := by
  refine execCp_retires hc hn hm ?_
  simp only [cpQueue_eq hn, hq, ne_eq, h, not_false_eq_true, if_true, cpFault_some]

theorem execDvSwait_tests {loc : Nat} (h : (c.reads w.rs1).toNat % 8 = 0) (hl : s.feLoc q.reader q.asid (c.reads w.rs1) .read = .ok loc)
    (hh : ¬ (spaceOf loc = .host ∧ s.hostLink.lost = true)) :
    execDvSwait w s = .next (((s.frontWord q.die loc).endRead q.reader).cpRetires n w (Config.freeWord s.tick)
      (some (if waitCond w.cond.toNat (readWord s.mem loc) (c.reads w.rs2) then 1 else 0))) := by
  refine execCp_retires hc hn hm ?_
  simp only [cpQueue_eq hn, hq, h, swaitLoc_ok hl hh, ne_eq, not_true_eq_false, if_false]

theorem execDvDisp_faults {s' : State} (h : s.dispatch q (c.reads w.rs1) (c.reads w.rs2) none = .fault s') :
    execDvDisp w s = .next ((s'.packetFault q 0x86).cpRetires n w (Config.freeWord s.tick) none) := by
  refine execCp_retires hc hn hm ?_
  simp only [cpQueue_eq hn, hq, h, cpFault_some]

theorem execDvDisp_page {va : DWord} {home e : Nat} (h : s.dispatch q (c.reads w.rs1) (c.reads w.rs2) none = .page va home e) :
    execDvDisp w s = .next ((s.queuePage (q.fn, q.idx) q.asid va home e).cpRetires n w (Config.freeWord s.tick) (some 0)) := by
  refine execCp_retires hc hn hm ?_
  simp only [cpQueue_eq hn, hq, h]

theorem execDvDisp_asked {s' : State} (h : s.dispatch q (c.reads w.rs1) (c.reads w.rs2) none = .asked s') :
    execDvDisp w s = .next s' := by
  refine execCp_stays (rd := none) hc hn hm ?_
  simp only [cpQueue_eq hn, hq, h]

theorem execDvDisp_full {s' : State} (h : s.dispatch q (c.reads w.rs1) (c.reads w.rs2) none = .full s') :
    execDvDisp w s = .next ((s'.release (q.fn, q.idx) qReady).cpRetires n w (Config.freeWord s.tick) (some 0)) := by
  refine execCp_retires hc hn hm ?_
  simp only [cpQueue_eq hn, hq, h]

theorem execDvDisp_dispatches {lid : Word} {s' : State} (h : s.dispatch q (c.reads w.rs1) (c.reads w.rs2) none = .ok lid s') :
    execDvDisp w s = .next ((s'.takeOff q (.launch lid)).cpRetires n w (Config.freeWord s.tick) (some (lid.zeroExtend 64))) := by
  refine execCp_retires hc hn hm ?_
  simp only [cpQueue_eq hn, hq, h]

end

end

end

/-- Settles O50: outside machine mode each instruction is illegal; in machine mode each clause is an equation of its instruction. -/
theorem firmwareInstructions : Obligations.FirmwareInstructions := by
  intro s n c w hc hn
  refine ⟨fun hm => ?_, fun hm => ⟨fun lo width hlo hw => ⟨?_, ?_⟩, ?_, fun q hq hz => ⟨?_, ?_⟩, fun q hq => ⟨?_, ?_, ?_, ?_, ?_, ?_, ?_⟩⟩⟩
  · exact dv_illegal hc (hn ▸ hm)
  · exact execDvBfx_field hc hn hm hlo hw
  · exact fun h q hq => execDvBfx_faults hc hn hm hlo hw h hq
  · exact execDvRfetch_noQueue hc hn hm
  · exact execDvRfetch_pastEnd hc hn hm rfl hq hz
  · exact fun v => execDvRfetch_word hc hn hm rfl hq hz
  · exact execDvSwait_misaligned hc hn hm hq
  · exact fun loc => execDvSwait_tests hc hn hm hq
  · exact fun s' => execDvDisp_faults hc hn hm hq
  · exact fun va home e => execDvDisp_page hc hn hm hq
  · exact fun s' => execDvDisp_asked hc hn hm hq
  · exact fun s' => execDvDisp_full hc hn hm hq
  · exact fun lid s' => execDvDisp_dispatches hc hn hm hq

end Sys2Proof.Machine
end

section
/-!
PROOFS. The packets of a queue (O48).
-/
namespace Sys2Proof.Machine

/-- A queue waits for completions: with its slot, unless another queue of its die waits for one (R410). -/
def State.holdCompletions (s : State) (q : Queue) : State :=
  if s.readyQueues q.die = [] then s.updQueue (q.fn, q.idx) (fun q => { q with hold := .completions })
  else s.queueWait (q.fn, q.idx) .completions

/-- A queue stays at its packet, whose word is read again. -/
def State.holdReread (s : State) (q : Queue) : State := s.updQueue (q.fn, q.idx) (fun q => { q with hold := .reread })

section
variable {s t : State} {w : PacketWords} {q : Queue}

/-! ## What a packet comes to, by what its body gives -/

section
variable {bound : Nat} {body : Queue → State → PkEnd} (hq : s.slotQueue w.die w.slot = some q) (hw : formed w bound)
include hq hw

theorem packetOp_done (h : body q s = .done t) : packetOp bound w s body = .next (t.parsed q w) := by rw [packetOp_formed hq hw, h]

theorem packetOp_fault {code : Nat} (h : body q s = .fault t code) : packetOp bound w s body = .next (t.packetFault q code) := by
  rw [packetOp_formed hq hw, h]

theorem packetOp_completions (h : body q s = .hold t .completions) : packetOp bound w s body = .next (t.holdCompletions q) := by
  rw [packetOp_formed hq hw, h]
  by_cases hr : t.readyQueues q.die = [] <;> simp [State.holdCompletions, hr]

theorem packetOp_reread (h : body q s = .hold t .reread) : packetOp bound w s body = .next (t.holdReread q) := by
  rw [packetOp_formed hq hw, h]
  exact congrArg Host.Outcome.next (if_neg (by simp))

theorem packetOp_wait {a : Await} (h : body q s = .wait t a) : packetOp bound w s body = .next (t.queueWait (q.fn, q.idx) a) := by
  rw [packetOp_formed hq hw, h]

theorem packetOp_page {va : DWord} {home e : Nat} (h : body q s = .page t va home e) :
    packetOp bound w s body = .next (t.queuePage (q.fn, q.idx) q.asid va home e) := by
  rw [packetOp_formed hq hw, h]

theorem packetOp_retry (h : body q s = .retry t) : packetOp bound w s body = .next (t.release (q.fn, q.idx) qReady) := by
  rw [packetOp_formed hq hw, h]

end

theorem exec_wait_eq (w : PacketWords) (s : State) : exec (.wait w) s = waitOp false w s := rfl

/-! ## Malformed and unlisted packets (R36) -/

theorem packets_malformed (hq : s.slotQueue w.die w.slot = some q) :
    ∀ r ∈ packetRows, ¬ formed w r.2 → exec (r.1 w) s = .next (s.packetFault q 0x81) := by
  intro r hr hf
  simp only [packetRows, List.mem_cons, List.not_mem_nil, or_false] at hr
  obtain rfl | rfl | rfl | rfl | rfl | rfl | rfl | rfl := hr
  · exact (exec_nopPacket w s).trans (packetOp_malformed hq (by decide) hf)
  · exact (exec_launch w s).trans (packetOp_malformed hq (by decide) hf)
  · exact (exec_graph w s).trans (packetOp_malformed hq (by decide) hf)
  · exact (exec_wait_eq w s).trans (packetOp_malformed hq (by decide) hf)
  · exact (exec_signal w s).trans (packetOp_malformed hq (by decide) hf)
  · exact (exec_callib w s).trans (packetOp_malformed hq (by decide) hf)
  · exact (exec_fencePacket w s).trans (packetOp_malformed hq (by decide) hf)
  · exact (exec_writeimm w s).trans (packetOp_malformed hq (by decide) hf)

/-- A header of an unlisted type has no words of its own, and any flags. -/
theorem formed_unlisted (h : packetCount w.type = none) : formed w 4096 :=
  ⟨.inl (by rw [h]; rfl), by rw [PacketWords.flags, bits]; exact Nat.mod_lt _ (by decide)⟩

theorem execUnknownPacket_faults (hq : s.slotQueue w.die w.slot = some q) (h : packetCount w.type = none) :
    execUnknownPacket w s = .next (s.packetFault q 0x80) := packetOp_fault hq (formed_unlisted h) rfl

/-! ## NOP, FENCE and CALLIB -/

theorem execNopPacket_parsed (hq : s.slotQueue w.die w.slot = some q) (hw : formed w 1) : execNopPacket w s = .next (s.parsed q w) :=
  packetOp_done hq hw rfl

theorem execFencePacket_settled (hq : s.slotQueue w.die w.slot = some q) (hw : formed w 2) (h : q.settled = true) :
    execFencePacket w s = .next (s.parsed q w) := packetOp_done hq hw (if_pos h)

theorem execFencePacket_waits (hq : s.slotQueue w.die w.slot = some q) (hw : formed w 2) (h : q.settled = false) :
    execFencePacket w s = .next (s.holdCompletions q) := packetOp_completions hq hw (if_neg (ne_true_of_eq_false h))

section
variable (hq : s.slotQueue w.die w.slot = some q) (hw : formed w 1)
include hq hw

theorem execCallib_tooDeep (h : 4 ≤ q.ib.length) : execCallib w s = .next (s.packetFault q 0x82) := packetOp_fault hq hw (if_pos h)

theorem execCallib_misaligned (hd : q.ib.length < 4) (ha : w.lo.toNat % 4 ≠ 0) : execCallib w s = .next (s.packetFault q 0x81) :=
  packetOp_fault hq hw ((if_neg (Nat.not_le_of_lt hd)).trans (if_pos ha))

theorem execCallib_opens (hd : q.ib.length < 4) (ha : w.lo.toNat % 4 = 0) (h : w.w3 ≠ 0) :
    execCallib w s = .next (((s.endRead (.queue q.fn q.idx)).updQueue (q.fn, q.idx) (fun q =>
      { q with ib := q.ib ++ [0], parsed := q.parsed + 1 })).afterPacket (q.fn, q.idx)) := by
  have h0 : w.w3.toNat ≠ 0 := fun e => h (BitVec.eq_of_toNat_eq e)
  rw [execCallib, packetOp_formed hq hw]
  simp only [if_neg (Nat.not_le_of_lt hd), ha, ne_eq, not_true_eq_false, if_false]
  exact congrArg Host.Outcome.next (if_neg h0)

/-- A buffer of no words is passed over. -/
theorem execCallib_empty (hd : q.ib.length < 4) (ha : w.lo.toNat % 4 = 0) (h : w.w3 = 0) : execCallib w s = .next (s.advance q 4) := by
  rw [execCallib, packetOp_formed hq hw]
  simp only [if_neg (Nat.not_le_of_lt hd), ha, h, ne_eq, not_true_eq_false, if_false]
  rfl

end

/-! ## SIGNAL -/

/-- The wake that a SIGNAL with flag 1 makes. -/
def State.signalled (s : State) (q : Queue) (w : PacketWords) : State := if w.flags / 2 % 2 = 1 then s.wakeKey q.asid w.lo else s

section
variable (hq : s.slotQueue w.die w.slot = some q) (hw : formed w 4) (ha : w.lo.toNat % 8 = 0)
include hq hw ha

theorem execSignal_waits (hs : q.settled = false) : execSignal w s = .next (s.holdCompletions q) := by
  refine packetOp_completions hq hw ?_
  simp only [ha, hs, ne_eq, not_true_eq_false, Bool.not_false, if_false, if_true]

variable {loc : Nat} (hs : q.settled = true) (hl : s.feLoc q.reader q.asid w.lo .write = .ok loc)
include hs hl

theorem execSignal_stores (hf : w.flags % 2 = 0) :
    execSignal w s = .next (((s.feStore q (wordOf loc) 0xFF w.hi q.stores 5).signalled q w).parsed q w) := by
  refine packetOp_done hq hw ?_
  have hn : ¬ (0 = 1) := by decide
  simp only [ha, hs, State.feWrite, hl, hf, hn, ne_eq, not_true_eq_false, Bool.not_true, decide_false, Bool.false_eq_true, if_false]
  rfl

/-- An add whose turn has come. -/
theorem execSignal_adds (hf : w.flags % 2 = 1) (hg : s.addTurn q.die q.reader loc = .go t) :
    execSignal w s = .next (((t.feStore q (wordOf loc) 0xFF ((t.lastWrite (wordOf loc)).value + w.hi) q.stores 5).retryPeerAdds.signalled
      q w).parsed q w) := by
  refine packetOp_done hq hw ?_
  simp only [ha, hs, State.feWrite, hl, hf, hg, ne_eq, not_true_eq_false, Bool.not_true, decide_true, Bool.false_eq_true, if_false, if_true]
  rfl

theorem execSignal_asks (hf : w.flags % 2 = 1) (hg : s.addTurn q.die q.reader loc = .wait t) : execSignal w s = .next (t.holdReread q) := by
  refine packetOp_reread hq hw ?_
  simp only [ha, hs, State.feWrite, hl, hf, hg, ne_eq, not_true_eq_false, Bool.not_true, decide_true, Bool.false_eq_true, if_false, if_true]

end

/-- An add to a word of this device needs no turn (R155). -/
theorem addTurn_here {die loc : Nat} {r : Reader} (h : spaceOf loc ≠ .peer) : s.addTurn die r loc = .go s := if_pos h

/-! ## WAIT -/

/-- The condition of a WAIT, as a number compares with its value. -/
theorem waitCond_iff {c : Nat} (hc : c < 4) (m v : DWord) : waitCond (c % 4) m v = true ↔
    if c = 0 then m.toNat = v.toNat else if c = 1 then m.toNat ≠ v.toNat else if c = 2 then v.toNat ≤ m.toNat else m.toNat < v.toNat := by
  have h : c = 0 ∨ c = 1 ∨ c = 2 ∨ c = 3 := by omega
  obtain rfl | rfl | rfl | rfl := h <;> simp [waitCond, BitVec.toNat_inj]

section
variable (hq : s.slotQueue w.die w.slot = some q) (hw : formed w 4) (ha : w.lo.toNat % 8 = 0)
include hq hw ha

theorem waitOp_bad (hl : s.feLoc q.reader q.asid w.lo .read = .error .bad) : waitOp false w s = .next (s.packetFault q 0x85) := by
  refine packetOp_fault hq hw ?_
  simp only [ha, swaitLoc_error hl, ne_eq, not_true_eq_false, if_false]

theorem waitOp_asks {l : Nat} (hl : s.feLoc q.reader q.asid w.lo .read = .error (.peer l)) :
    waitOp false w s = .next ((s.askPeer q.die q.reader l 64).holdReread q) := by
  refine packetOp_reread hq hw ?_
  simp only [ha, swaitLoc_error hl, State.waitPeer, ne_eq, not_true_eq_false, Bool.false_and, Bool.false_eq_true, if_false]

variable {loc : Nat} (hl : s.feLoc q.reader q.asid w.lo .read = .ok loc) (hh : ¬ (spaceOf loc = .host ∧ s.hostLink.lost = true))
include hl hh

theorem waitOp_holds (hp : spaceOf loc ≠ .peer) (hc : waitCond (w.flags % 4) (readWord s.mem loc) w.hi = true) :
    waitOp false w s = .next ((s.frontWord q.die loc).parsed q w) := by
  refine packetOp_done hq hw ?_
  simp only [ha, swaitLoc_ok hl hh, hp, frontWord_mem, hc, ne_eq, not_true_eq_false, if_false, if_true]

/-- A false WAIT is read again while no other queue waits for a slot (R40). -/
theorem waitOp_rereads (hp : spaceOf loc ≠ .peer) (hc : waitCond (w.flags % 4) (readWord s.mem loc) w.hi = false)
    (hr : s.readyQueues q.die = []) : waitOp false w s = .next ((s.frontWord q.die loc).holdReread q) := by
  refine packetOp_reread hq hw ?_
  simp only [ha, swaitLoc_ok hl hh, hp, frontWord_mem, frontWord_readyQueues, hc, hr, List.isEmpty_nil, ne_eq, not_true_eq_false, Bool.not_true,
    Bool.or_self, Bool.false_eq_true, if_false]

/-- A WAIT whose time is over and whose word still does not meet the condition, also when it is read once more after the
registration, gives its slot up (R40). -/
theorem waitOp_givesUp (hp : spaceOf loc ≠ .peer) (hc : waitCond (w.flags % 4) (readWord s.mem loc) w.hi = false)
    (hr : (s.frontWord q.die loc).registerWaiter q.asid w.lo (fun e =>
      { e with queues := e.queues.filter (fun x => x ≠ (q.fn, q.idx)) ++ [(q.fn, q.idx)] }) = some t)
    (hc' : waitCond (w.flags % 4) (readWord t.mem loc) w.hi = false) :
    waitOp true w s = .next (t.queueWait (q.fn, q.idx) (.wake w.lo)) := by
  refine packetOp_wait hq hw ?_
  simp only [ha, swaitLoc_ok hl hh, hp, frontWord_mem, hc, State.waitGiveUp, hr, hc', ne_eq, not_true_eq_false, Bool.true_or, Bool.false_eq_true,
    if_false, if_true]

theorem waitOp_peerHolds (hp : spaceOf loc = .peer) (hc : waitCond (w.flags % 4) (readWord s.mem loc) w.hi = true) :
    waitOp false w s = .next (((s.frontWord q.die loc).waitWithdraw q w.lo).parsed q w) := by
  refine packetOp_done hq hw ?_
  simp only [ha, swaitLoc_ok hl hh, hp, frontWord_mem, hc, ne_eq, not_true_eq_false, if_false, if_true]

/-- A false WAIT on a word in a peer that is registered already gives its slot up. -/
theorem waitOp_peerWaits (hp : spaceOf loc = .peer) (hc : waitCond (w.flags % 4) (readWord s.mem loc) w.hi = false)
    (hr : (s.frontWord q.die loc).waitRegistered q w.lo = true) :
    waitOp false w s = .next ((s.frontWord q.die loc).queueWait (q.fn, q.idx) (.wake w.lo)) := by
  refine packetOp_wait hq hw ?_
  simp only [ha, swaitLoc_ok hl hh, hp, frontWord_mem, hc, hr, ne_eq, not_true_eq_false, Bool.false_eq_true, if_false, if_true]

end

/-! ## WRITEIMM and the stores of a queue -/

section
variable (hq : s.slotQueue w.die w.slot = some q) (hw : formed w 2) {loc : Nat} (hl : s.feLoc q.reader q.asid w.lo .write = .ok loc)
include hq hw hl

theorem execWriteimm_wide (hf : w.flags = 1) (ha : w.lo.toNat % 8 = 0) :
    execWriteimm w s = .next ((s.feStore q (wordOf loc) 0xFF w.hi [] 0).parsed q w) := by
  refine packetOp_done hq hw ?_
  simp only [hf, ha, State.feWrite, hl, ne_eq, not_true_eq_false, false_and, or_self, Bool.false_eq_true, if_false, if_true]

/-- A 32-bit value goes to the half of its word that it is aligned to. -/
theorem execWriteimm_narrow (hf : w.flags = 0) (ha : w.lo.toNat % 4 = 0) (hz : w.w4 = 0) :
    execWriteimm w s = .next ((if w.lo.toNat % 8 = 0 then s.feStore q (wordOf loc) 0x0F w.hi [] 0
      else s.feStore q (wordOf loc) 0xF0 (w.hi <<< 32) [] 0).parsed q w) := by
  have hn : ¬ (0 = 1) := by decide
  by_cases h8 : w.lo.toNat % 8 = 0
  · rw [if_pos h8]
    refine packetOp_done hq hw ?_
    simp only [hf, hn, ha, hz, h8, State.feWrite, hl, ne_eq, not_true_eq_false, not_false_eq_true, and_false, or_self, Bool.false_eq_true, if_false, if_true]
  · rw [if_neg h8]
    refine packetOp_done hq hw ?_
    simp only [hf, hn, ha, hz, h8, State.feWrite, hl, ne_eq, not_true_eq_false, not_false_eq_true, and_false, or_self, Bool.false_eq_true, if_false]

end

theorem feStore_eq (mask : BitVec 8) (data : DWord) (view : View) (scope : BitVec 3) (a : Nat) :
    let t := s.storeWord q.die a mask data view scope (frontParty q.die) (.queue q.fn q.idx)
    s.feStore q a mask data view scope = t.updQueue (q.fn, q.idx) (fun q => { q with stores := View.raise a (t.lastIdx a) q.stores }) := rfl

theorem storeWord_here {die a : Nat} {mask : BitVec 8} {data : DWord} {view : View} {scope : BitVec 3} {p : Party} {o : Owner}
    (h : spaceOf a ≠ .peer) :
    s.storeWord die a mask data view scope p o = (s.crossHome die a).putWord a mask data view scope p o := if_neg h

theorem storeWord_peer {die a : Nat} {mask : BitVec 8} {data : DWord} {view : View} {scope : BitVec 3} {p : Party} {o : Owner}
    (h : spaceOf a = .peer) (hu : s.writePeer die a mask data = some t) :
    s.storeWord die a mask data view scope p o = t.putWord a mask data view scope p := by
  simp only [State.storeWord, h, hu, if_true]

/-! ## LAUNCH -/

section
variable (hq : s.slotQueue w.die w.slot = some q) (hw : formed w 2) (ha : w.lo.toNat % 8 = 0) (hb : w.hi.toNat % 8 = 0)
include hq hw ha hb

theorem execLaunch_waits (hf : w.flags = 1) (hs : q.settled = false) : execLaunch w s = .next (s.holdCompletions q) := by
  refine packetOp_completions hq hw ?_
  simp only [ha, hb, hf, hs, ne_eq, not_true_eq_false, or_self, Bool.not_false, and_self, if_false, if_true]

/-- A launch that need not wait is dispatched. -/
theorem execLaunch_dispatches (hf : w.flags = 0 ∨ q.settled = true) :
    (∀ t, s.dispatch q w.lo w.hi none = .fault t → execLaunch w s = .next (t.packetFault q 0x86)) ∧
    (∀ va home e, s.dispatch q w.lo w.hi none = .page va home e → execLaunch w s = .next (s.queuePage (q.fn, q.idx) q.asid va home e)) ∧
    (∀ t, s.dispatch q w.lo w.hi none = .asked t → execLaunch w s = .next (t.holdReread q)) ∧
    (∀ t, s.dispatch q w.lo w.hi none = .full t → execLaunch w s = .next (t.release (q.fn, q.idx) qReady)) ∧
    ∀ lid t, s.dispatch q w.lo w.hi none = .ok lid t → execLaunch w s = .next ((t.takeOff q (.launch lid)).parsed q w) := by
  have hn : ¬ (w.flags = 1 ∧ (!q.settled) = true) := by
    rintro ⟨h1, hs⟩
    obtain h | h := hf
    · omega
    · simp [h] at hs
  refine ⟨fun t h => packetOp_fault hq hw ?_, fun va home e h => packetOp_page hq hw ?_, fun t h => packetOp_reread hq hw ?_,
    fun t h => packetOp_retry hq hw ?_, fun lid t h => packetOp_done hq hw ?_⟩ <;>
  simp only [ha, hb, hn, h, ne_eq, not_true_eq_false, or_self, if_false]

end

/-! ## GRAPH -/

/-- The graph that a GRAPH packet at a queue's position opens. -/
def State.graphAsked (s : State) (q : Queue) (w : PacketWords) : Graph :=
  { id := s.nextGraph, die := q.die, first := w.w1.toNat, count := w.w2.toNat, mode := w.flags == 1, signal := w.hi, asid := q.asid,
    queue := (q.fn, q.idx), pos := { rptr := s.qRptr q, ib := q.ib }, parsing := true }

/-- A graph whose nodes have started is no longer being parsed. -/
def State.graphParsed (s : State) (q : Queue) (g : Graph) : State :=
  let g' := { g with parsing := false }
  (({ s with graphs := updWhere (fun x => x.id = g.id) (fun _ => g') s.graphs }.takeOff q (.graph g.id)).failConsumers g').graphEnd g'

section
variable (hq : s.slotQueue w.die w.slot = some q) (hw : formed w 2) (hb : w.hi.toNat % 8 = 0)
  (ho : s.graphs.find? (fun g => g.queue = (q.fn, q.idx) && g.parsing && g.pos == { rptr := s.qRptr q, ib := q.ib } && g.first == w.w1.toNat &&
    g.count == w.w2.toNat) = none)
include hq hw hb ho

theorem execGraph_tooMany (h : 8192 < w.w1.toNat + w.w2.toNat) : execGraph w s = .next (s.packetFault q 0x87) := by
  refine packetOp_fault hq hw ?_
  simp only [hb, ho, h, Option.getD_none, Option.isNone_none, true_or, and_self, ne_eq, not_true_eq_false, if_false, if_true]

/-- All nodes are idle or done, and every one that may start does. -/
theorem execGraph_starts (h : w.w1.toNat + w.w2.toNat ≤ 8192)
    (hi : ∀ i ∈ (s.graphAsked q w).nodes, (s.node q.die i).nstate = nIdle ∨ (s.node q.die i).nstate = nDone)
    (hs : State.startGraph { (s.closeGraphs q).arm (s.graphAsked q w) with
      graphs := (s.closeGraphs q).graphs ++ [s.graphAsked q w], nextGraph := (s.closeGraphs q).nextGraph + 1 } q (s.graphAsked q w) = (t, none)) :
    execGraph w s = .next ((t.graphParsed q (s.graphAsked q w)).parsed q w) := by
  have hall : (s.graphAsked q w).nodes.all (fun i => (s.node q.die i).nstate == nIdle || (s.node q.die i).nstate == nDone) = true := by
    simpa only [List.all_eq_true, Bool.or_eq_true, beq_iff_eq] using hi
  have hn : ¬ (8192 < w.w1.toNat + w.w2.toNat ∨ (!(s.graphAsked q w).nodes.all (fun i =>
      (s.node q.die i).nstate == nIdle || (s.node q.die i).nstate == nDone)) = true) := by
    rw [hall]
    simpa using h
  refine packetOp_done hq hw ?_
  simp only [State.graphAsked] at hn hs
  simp only [hb, ho, Option.getD_none, Option.isNone_none, Option.isSome_none, true_and, hn, hs, ne_eq, not_true_eq_false, Bool.false_eq_true, if_false]
  rfl

end

end

/-- Settles O48: each packet's clause is the equation of its body, through what `packetOp` makes of it. -/
theorem packetsServed : Obligations.PacketsServed := by
  intro s w q hq
  refine ⟨packets_malformed hq, execNopPacket_parsed hq, execUnknownPacket_faults hq, fun hw => ⟨?_, ?_⟩, fun hw => ⟨?_, ?_, ?_, ?_⟩,
    fun hw ha => ⟨?_, fun hs loc hl => ⟨?_, ?_, ?_⟩, ?_, ?_, fun loc hl hh => ⟨fun hp => ⟨?_, ?_⟩, fun hp => ⟨?_, ?_⟩⟩⟩, ?_, ?_, ?_,
    fun hw ha hb => ⟨?_, ?_⟩, fun hw hb ho => ⟨?_, ?_⟩⟩
  · exact execFencePacket_settled hq hw
  · exact execFencePacket_waits hq hw
  · exact execCallib_tooDeep hq hw
  · exact execCallib_misaligned hq hw
  · exact execCallib_opens hq hw
  · exact execCallib_empty hq hw
  · exact execSignal_waits hq hw ha
  · exact execSignal_stores hq hw ha hs hl
  · exact fun hf hp => execSignal_adds hq hw ha hs hl hf (addTurn_here hp)
  · exact fun hf _ => ⟨fun t => execSignal_asks hq hw ha hs hl hf, fun t => execSignal_adds hq hw ha hs hl hf⟩
  · exact waitOp_bad hq hw ha
  · exact fun l => waitOp_asks hq hw ha
  · exact fun hc => waitOp_holds hq hw ha hl hh hp ((waitCond_iff hw.2 _ _).mpr hc)
  · exact fun hc => waitOp_rereads hq hw ha hl hh hp (Bool.eq_false_iff.mpr (mt (waitCond_iff hw.2 _ _).mp hc))
  · exact fun hc => waitOp_peerHolds hq hw ha hl hh hp ((waitCond_iff hw.2 _ _).mpr hc)
  · exact fun hc => waitOp_peerWaits hq hw ha hl hh hp (Bool.eq_false_iff.mpr (mt (waitCond_iff hw.2 _ _).mp hc))
  · exact fun hw hf ha loc hl => execWriteimm_wide hq hw hl hf ha
  · exact fun hw hf ha hz loc hl => execWriteimm_narrow hq hw hl hf ha hz
  · exact fun mask data view scope a => ⟨_, feStore_eq mask data view scope a, storeWord_here, fun hp u => storeWord_peer hp⟩
  · exact execLaunch_waits hq hw ha hb
  · exact execLaunch_dispatches hq hw ha hb
  · exact execGraph_tooMany hq hw hb ho
  · exact fun h hi t => execGraph_starts hq hw hb ho h hi

end Sys2Proof.Machine
end

section
/-!
PROOFS. Queues, doorbells, slots, launches and host waits (O49).
-/
namespace Sys2Proof.Machine

/-! ## The READY queue before which no other goes (R34) -/

/-- A queue's turn: one that was never granted goes before any that was, and among those the one granted longest ago goes first. -/
def Queue.turn (q : Queue) : Nat := match q.lastGrant with | some n => n + 1 | none => 0

theorem before_iff {a b : Queue} : a.before b = true ↔
    b.prio < a.prio ∨ (a.prio = b.prio ∧ (a.turn < b.turn ∨ (a.turn = b.turn ∧ (a.idx < b.idx ∨ (a.idx = b.idx ∧ a.fn < b.fn))))) := by
  have h : a.before b = if a.prio != b.prio then decide (b.prio < a.prio) else if a.turn != b.turn then decide (a.turn < b.turn)
      else if a.idx != b.idx then decide (a.idx < b.idx) else decide (a.fn < b.fn) := rfl
  rw [h]
  split_ifs <;> simp_all

theorem not_before_of_before {a b : Queue} (h : a.before b = true) : b.before a = false := by
  rw [Bool.eq_false_iff, ne_eq, before_iff]
  rw [before_iff] at h
  omega

theorem not_before_trans {a b c : Queue} (hab : a.before b = false) (hbc : b.before c = false) : a.before c = false := by
  rw [Bool.eq_false_iff, ne_eq, before_iff] at *
  omega

theorem not_before_self (a : Queue) : a.before a = false := by
  rw [Bool.eq_false_iff, ne_eq, before_iff]
  omega

/-- The queue that SLOT_GRANT picks: `q`, or the one of a list that takes its place. -/
def firstQueue (q : Queue) (qs : List Queue) : Queue := qs.foldl (fun b x => if x.before b then x else b) q

theorem firstQueue_cons (q y : Queue) (qs : List Queue) : firstQueue q (y :: qs) = firstQueue (if y.before q then y else q) qs := rfl

theorem firstQueue_mem (q : Queue) (qs : List Queue) : firstQueue q qs ∈ q :: qs := by
  induction qs generalizing q with
  | nil => exact List.mem_cons_self
  | cons y qs ih =>
    rw [firstQueue_cons]
    split
    · exact List.mem_cons_of_mem _ (ih y)
    · exact List.mem_cons.mpr ((List.mem_cons.mp (ih q)).imp_right (List.mem_cons_of_mem y))

theorem firstQueue_first (q : Queue) (qs : List Queue) : ∀ x ∈ q :: qs, x.before (firstQueue q qs) = false := by
  induction qs generalizing q with
  | nil => simp [firstQueue, not_before_self]
  | cons y qs ih =>
    rw [firstQueue_cons]
    split
    · next hy =>
      have h := ih y
      simp only [List.forall_mem_cons] at h ⊢
      exact ⟨not_before_trans (not_before_of_before hy) h.1, h⟩
    · next hy =>
      have h := ih q
      simp only [List.forall_mem_cons] at h ⊢
      exact ⟨h.1, not_before_trans (Bool.eq_false_iff.mpr hy) h.1, h.2⟩

section
variable {s : State} {q : Queue}

/-- The grant of slot `n` of a die to a queue, which resumes from its descriptor (R39). -/
def State.grantSlot (s : State) (d n : Nat) (q : Queue) : State :=
  ((s.updDie d (fun x =>
    { x with fslots := putAt 64 none (fun _ => some (q.fn, q.idx)) n x.fslots, fgrants := (s.die d).fgrants + 1 })).qPutState q qActive).updQueue (q.fn, q.idx)
      (fun x => { x with slot := some n, lastGrant := some (s.die d).fgrants, parsed := 0, hold := .none, await := .none,
                         ib := (List.range (min 4 (s.qField q 240 3))).map (fun i => BitVec.ofNat 32 (s.qField q (256 + 32 * i) 32)) })

theorem execSlotGrant_grants {qs : List Queue} (hr : s.readyQueues s.args.n = q :: qs) (hn : (s.die s.args.n).fslots.findIdx Option.isNone < 64) :
    execSlotGrant s = .next (s.grantSlot s.args.n ((s.die s.args.n).fslots.findIdx Option.isNone) (firstQueue q qs)) := by
  simp only [execSlotGrant, hr, if_neg (Nat.not_le_of_lt hn)]
  rfl

theorem execSlotGrant_first (hr : s.readyQueues s.args.n ≠ []) (hn : (s.die s.args.n).fslots.findIdx Option.isNone < 64) :
    ∃ q ∈ s.readyQueues s.args.n, (∀ x ∈ s.readyQueues s.args.n, x.before q = false) ∧
      execSlotGrant s = .next (s.grantSlot s.args.n ((s.die s.args.n).fslots.findIdx Option.isNone) q) := by
  obtain ⟨q, qs, h⟩ := List.exists_cons_of_ne_nil hr
  refine ⟨firstQueue q qs, ?_, ?_, execSlotGrant_grants h hn⟩
  · exact h ▸ firstQueue_mem q qs
  · exact h ▸ firstQueue_first q qs

/-! ## Queues and doorbells (R31 to R33, R35) -/

/-- Nothing stands in the way of looking at a descriptor. -/
theorem execQueueCreate_looks (hk : s.queue? (s.args.n, s.args.m) = none) (hf : s.args.n < 64)
    (hi : s.args.m < (if s.args.n = 0 then 65536 else 4096)) (hd : deviceExists s.args.value.toNat = true) (ha : s.args.value.toNat % 64 = 0) :
    ((s.queue? (s.args.n, s.args.m)).isSome || decide (64 ≤ s.args.n) || decide ((if s.args.n = 0 then 65536 else 4096) ≤ s.args.m) ||
      !deviceExists s.args.value.toNat || s.args.value.toNat % 64 != 0) = false := by
  simp [hk, Nat.not_le_of_lt hf, Nat.not_le_of_lt hi, hd, ha]

/-- What a descriptor of 64 bytes must not hold (R31), for a queue of a function. -/
def State.badDesc (s : State) (f n : Nat) : Bool :=
  bits n 64 5 < 10 || 24 < bits n 64 5 || bits n 77 3 != 0 || bits n 96 32 != 0 || bits n 195 5 != 0 || bits n 243 13 != 0 ||
    bits n 384 128 != 0 || bits n 0 12 != 0 || !s.owns f (bits n 71 4)

theorem badDesc_iff {f n : Nat} : s.badDesc f n = true ↔
    bits n 64 5 < 10 ∨ 24 < bits n 64 5 ∨ bits n 77 3 ≠ 0 ∨ bits n 96 32 ≠ 0 ∨ bits n 195 5 ≠ 0 ∨ bits n 243 13 ≠ 0 ∨ bits n 384 128 ≠ 0 ∨
      bits n 0 12 ≠ 0 ∨ s.owns f (bits n 71 4) = false := by
  simp only [State.badDesc, Bool.or_eq_true, decide_eq_true_eq, bne_iff_ne, Bool.not_eq_true', or_assoc]

/-- The queue that a descriptor at `a` describes, as it is created. -/
def newQueue (f i a n : Nat) : Queue :=
  { fn := f, idx := i, desc := a, base := BitVec.ofNat 64 (bits n 0 64), logsz := bits n 64 5, prio := bits n 69 2, part := bits n 71 4,
    die := bits n 75 2, asid := BitVec.ofNat 16 (bits n 80 16), stalled := false, slot := none, lastGrant := none, parsed := 0, ib := [],
    hold := .none, await := .none, owl := .idle, owlCount := 0, inFlight := [], stores := [] }

section
variable (hk : s.queue? (s.args.n, s.args.m) = none) (hf : s.args.n < 64) (hi : s.args.m < (if s.args.n = 0 then 65536 else 4096))
  (hd : deviceExists s.args.value.toNat = true) (ha : s.args.value.toNat % 64 = 0)
include hk hf hi hd ha

theorem execQueueCreate_refuses (hb : s.badDesc s.args.n (readN s.mem s.args.value.toNat 64) = true) :
    execQueueCreate s = .next (s.magpie (s.args.value.toNat / 2 ^ 37) unitFrontEnd 0x88 [s.args.n, s.args.m]) := by
  unfold execQueueCreate
  refine (if_neg (ne_true_of_eq_false (execQueueCreate_looks hk hf hi hd ha))).trans (if_pos ?_)
  exact Bool.or_eq_true_iff.mpr (.inl hb)

theorem execQueueCreate_creates (hb : s.badDesc s.args.n (readN s.mem s.args.value.toNat 64) = false)
    (hl : (s.queues.filter (fun q => q.part = bits (readN s.mem s.args.value.toNat 64) 71 4)).length < 4096) :
    execQueueCreate s = .next { s with queues := s.queues ++
      [newQueue s.args.n s.args.m s.args.value.toNat (readN s.mem s.args.value.toNat 64)] } := by
  unfold execQueueCreate
  refine (if_neg (ne_true_of_eq_false (execQueueCreate_looks hk hf hi hd ha))).trans (if_neg ?_)
  exact ne_true_of_eq_false (Bool.or_eq_false_iff.mpr ⟨hb, decide_eq_false (Nat.not_le_of_lt hl)⟩)

end

section
variable (hq : s.queue? (s.args.n, s.args.m) = some q)
include hq

/-- A doorbell value is refused: it has bits above 31, passes the ring's size, or lies before WPTR. -/
theorem execDoorbell_refused (h : s.args.value >>> 32 ≠ 0 ∨ 2 ^ q.logsz < ((s.args.value.setWidth 32 : Word) - s.qRptr q).toNat ∨
      ((s.args.value.setWidth 32 : Word) - s.qRptr q).toNat < (s.qWptr q - s.qRptr q).toNat) :
    execDoorbell s = .next (s.queueFault (s.args.n, s.args.m) 0x89) := by
  have hc : (s.args.value >>> 32 != 0 || decide (2 ^ q.logsz < ((s.args.value.setWidth 32 : Word) - s.qRptr q).toNat) ||
      decide (((s.args.value.setWidth 32 : Word) - s.qRptr q).toNat < (s.qWptr q - s.qRptr q).toNat)) = true := by
    simpa only [Bool.or_eq_true, bne_iff_ne, decide_eq_true_eq, or_assoc] using h
  simp only [execDoorbell, hq, hc, if_true]

/-- The queue once a doorbell has moved its WPTR: what was stalled goes on when WPTR has changed (R36). -/
def State.rung (s : State) (q : Queue) (new : Word) : State :=
  (s.qPut q 20 new.toNat 4).updQueue (s.args.n, s.args.m) (fun x => { x with stalled := x.stalled && new == s.qWptr x })

theorem execDoorbell_moves (h : ¬ (s.args.value >>> 32 ≠ 0 ∨ 2 ^ q.logsz < ((s.args.value.setWidth 32 : Word) - s.qRptr q).toNat ∨
      ((s.args.value.setWidth 32 : Word) - s.qRptr q).toNat < (s.qWptr q - s.qRptr q).toNat)) :
    execDoorbell s =
      let new : Word := s.args.value.setWidth 32
      let s' := s.rung q new
      .next (if s'.qState q = qIdle ∧ new ≠ s.qRptr q then s'.qPutState q qReady else s') := by
  have hc : (s.args.value >>> 32 != 0 || decide (2 ^ q.logsz < ((s.args.value.setWidth 32 : Word) - s.qRptr q).toNat) ||
      decide (((s.args.value.setWidth 32 : Word) - s.qRptr q).toNat < (s.qWptr q - s.qRptr q).toNat)) = false := by
    rw [Bool.eq_false_iff]
    simpa only [ne_eq, Bool.or_eq_true, bne_iff_ne, decide_eq_true_eq, or_assoc] using h
  simp only [execDoorbell, hq, hc, Bool.false_eq_true, if_false, Bool.and_eq_true, decide_eq_true_eq, bne_iff_ne]
  rfl

theorem execQueueResume_resumes (h : s.qState q = qFaulted) :
    execQueueResume s = .next ((s.qPutState q qIdle).updQueue (s.args.n, s.args.m) (fun x => { x with lastGrant := none, stalled := false })) := by
  simp only [execQueueResume, hq, h, ne_eq, not_true_eq_false, if_false]

end

/-! ## Waits that have lasted their time (R40, R410) -/

theorem execCompletionWaitExpiry_gives (hq : s.slotQueue s.args.n s.args.m = some q) (hh : q.hold = .completions) (hs : q.settled = false) :
    execCompletionWaitExpiry s = .next (s.queueWait (q.fn, q.idx) .completions) := by
  have hc : (q.hold != .completions || q.settled) = false := by rw [hh, hs]; rfl
  simp only [execCompletionWaitExpiry, hq, hc, Bool.false_eq_true, if_false]

theorem execWaitRereadExpiry_waits {w : PacketWords} (hq : s.slotQueue s.args.n s.args.m = some q) (hh : q.hold = .reread)
    (hf : s.fetchPacket s.args.n s.args.m = .ok (.wait w)) : execWaitRereadExpiry s = waitOp true w s := by
  have hc : (q.hold != .reread) = false := by rw [hh]; rfl
  simp only [execWaitRereadExpiry, hq, hc, hf, Bool.false_eq_true, if_false]

/-! ## The end of a launch -/

theorem execLaunchComplete_ends {l : Launch} {s' : State} (hl : s.launch? s.args.lid = some l) (ht : l.twinOf = none) (ho : s.launchOver l = true)
    (hd : s.partDrains l.part = false) (he : s.endLaunch l = .ok s') :
    execLaunchComplete s = .next ((s'.dropRefusals l.asid).startNodes (fun s k => s.queueFault k 0x86)) := by
  simp only [execLaunchComplete, hl, ht, ho, hd, he, Option.isSome_none, Bool.not_true, Bool.or_self, Bool.false_eq_true, if_false]

/-! ## Host wait registrations (R67) -/

theorem badKey_iff {f : Nat} : s.badKey f = true ↔
    s.args.value.toNat % 8 ≠ 0 ∨ canonical s.args.value = false ∨ ∀ q ∈ s.queues, ¬ (q.fn = f ∧ q.asid = s.args.half) := by
  simp only [State.badKey, Bool.or_eq_true, bne_iff_ne, Bool.not_eq_true', List.any_eq_false, Bool.and_eq_true, decide_eq_true_eq, beq_iff_eq,
    or_assoc]

theorem execHostWaitRegister_bad (h : s.badKey s.args.n = true) : execHostWaitRegister s = .next (s.putWait s.args.n false 3) := by
  simp only [execHostWaitRegister, h, if_true]

theorem execHostWaitWithdraw_bad (h : s.badKey s.args.n = true) : execHostWaitWithdraw s = .next (s.putWait s.args.n true 3) := by
  simp only [execHostWaitWithdraw, h, if_true]

section
variable (hb : s.badKey s.args.n = false)
include hb

/-- A key that has a line already keeps it. -/
theorem execHostWaitRegister_held {l : DWord} (hl : (s.wakeEntry s.args.half s.args.value).bind WakeEntry.line = some l) :
    execHostWaitRegister s = .next (s.putWait s.args.n false (if l = s.args.value2 then 0 else 2)) := by
  simp only [execHostWaitRegister, hb, hl, Bool.false_eq_true, if_false, beq_iff_eq]

theorem execHostWaitRegister_full (hl : (s.wakeEntry s.args.half s.args.value).bind WakeEntry.line = none)
    (hr : s.registerWaiter s.args.half s.args.value (fun e => { e with line := some s.args.value2 }) = none) :
    execHostWaitRegister s = .next (s.putWait s.args.n false 1) := by
  simp only [execHostWaitRegister, hb, hl, hr, Bool.false_eq_true, if_false]

theorem execHostWaitRegister_registers {s' : State} (hl : (s.wakeEntry s.args.half s.args.value).bind WakeEntry.line = none)
    (hr : s.registerWaiter s.args.half s.args.value (fun e => { e with line := some s.args.value2 }) = some s') :
    execHostWaitRegister s = .next (s'.putWait s.args.n false 0) := by
  simp only [execHostWaitRegister, hb, hl, hr, Bool.false_eq_true, if_false]

theorem execHostWaitWithdraw_withdraws :
    execHostWaitWithdraw s = .next ((s.withdrawWaiter s.args.half s.args.value (fun e =>
      if e.line == some s.args.value2 then { e with line := none } else e)).putWait s.args.n true 0) := by
  simp only [execHostWaitWithdraw, hb, Bool.false_eq_true, if_false]

end

end

/-- Settles O49: the queue that a slot goes to is the minimum that the fold of SLOT_GRANT keeps; the other clauses are equations of their steps. -/
theorem queuesServed : Obligations.QueuesServed := by
  intro s
  refine ⟨fun hk hf hi hd ha => ⟨fun hb => ?_, fun hb hl => ?_⟩, fun q hq => ⟨⟨?_, ?_⟩, ?_⟩, ?_, fun q hq => ⟨?_, ?_⟩, fun l s' => ?_,
    fun hb => ?_, fun hb => ?_⟩
  · exact execQueueCreate_refuses hk hf hi hd ha (badDesc_iff.mpr hb)
  · exact ⟨_, execQueueCreate_creates hk hf hi hd ha (Bool.eq_false_iff.mpr (mt badDesc_iff.mp hb)) hl, rfl, rfl, rfl, rfl, rfl, rfl, rfl, rfl, rfl, rfl⟩
  · exact execDoorbell_refused hq
  · exact execDoorbell_moves hq
  · exact execQueueResume_resumes hq
  · exact execSlotGrant_first
  · exact execCompletionWaitExpiry_gives hq
  · rintro w loc s' hh hf hd hk hw ha hl hlost hp hc hr hc'
    rw [exec_waitRereadExpiry, execWaitRereadExpiry_waits hq hh hf]
    exact waitOp_givesUp (hd ▸ hk ▸ hq) hw ha hl hlost hp hc hr hc'
  · exact execLaunchComplete_ends
  · have h := badKey_iff.mpr hb
    exact ⟨execHostWaitRegister_bad h, execHostWaitWithdraw_bad h⟩
  · have h := Bool.eq_false_iff.mpr (mt badKey_iff.mp hb)
    exact ⟨fun l => execHostWaitRegister_held h, execHostWaitRegister_full h, fun s' => execHostWaitRegister_registers h,
      execHostWaitWithdraw_withdraws h⟩

end Sys2Proof.Machine
end

section
/-!
PROOFS. Checkpoints and restores (O53).
-/
namespace Sys2Proof.Machine

/-- The checkpoint that a CKPT of a queue asks for. -/
def Queue.copyAsked (q : Queue) (w : PacketWords) : Ckpt :=
  let full := w.flags % 2 = 1
  { restore := false, full := decide full, parts := if full then 0xFFFF else (1 : BitVec 16) <<< q.part, offset := w.lo, signal := w.hi,
    asid := q.asid, queue := (q.fn, q.idx) }

/-- The restore that a CKPT with RESTORE asks for, of the header that begins with `n`. -/
def Queue.restoreAsked (q : Queue) (w : PacketWords) (n : Nat) : Ckpt :=
  { restore := true, full := bits n 48 1 == 1, parts := BitVec.ofNat 16 (bits n 64 16), offset := w.lo, signal := w.hi, asid := q.asid,
    queue := (q.fn, q.idx) }

section
variable {s : State} {w : PacketWords} {q : Queue} (hq : s.slotQueue w.die w.slot = some q) (hw : formed w 4) (ha : w.hi.toNat % 8 = 0)
include hq hw ha

/-! ## The packets CKPT and CKPT with RESTORE (R57, R61) -/

/-- Only the physical function, at an aligned offset with a vault port up. -/
theorem execCkpt_refused (h : q.fn ≠ 0 ∨ w.lo.toNat % 4096 ≠ 0 ∨ s.vaultUp = 0) : execCkpt w s = .next (s.packetFault q 0x8A) := by
  rw [execCkpt, packetOp_formed hq hw]
  simp only [ha, h, ne_eq, not_true_eq_false, if_false, if_true]

theorem execCkpt_starts (h : ¬ (q.fn ≠ 0 ∨ w.lo.toNat % 4096 ≠ 0 ∨ s.vaultUp = 0)) (hs : q.settled = true) (hc : s.ckpt = none)
    (hr : (s.ckptRanges (decide (w.flags % 2 = 1)) q.part).length ≤ 240) :
    execCkpt w s = .next (({ s with ckpt := some (q.copyAsked w) }.takeOff q .ckpt).parsed q w) := by
  rw [execCkpt, packetOp_formed hq hw]
  simp only [ha, if_neg h, hs, hc, Nat.not_lt_of_le hr, ne_eq, not_true_eq_false, Bool.not_true, Bool.false_eq_true, Option.isSome_none, if_false]
  rfl

theorem execCkptRestore_refused (h : (q.fn ≠ 0 ∨ w.lo.toNat % 4096 ≠ 0 ∨ s.vaultUp = 0) ∨ s.headerOk (readCells s.vault w.lo.toNat 4096) = false) :
    execCkptRestore w s = .next (s.packetFault q 0x8A) := by
  have hc : q.fn ≠ 0 ∨ w.lo.toNat % 4096 ≠ 0 ∨ s.vaultUp = 0 ∨ (!s.headerOk (readCells s.vault w.lo.toNat 4096)) = true := by
    simpa only [or_assoc, Bool.not_eq_true'] using h
  rw [execCkptRestore, packetOp_formed hq hw]
  simp only [ha, if_pos hc, ne_eq, not_true_eq_false, if_false]

theorem execCkptRestore_starts (h : ¬ (q.fn ≠ 0 ∨ w.lo.toNat % 4096 ≠ 0 ∨ s.vaultUp = 0))
    (hh : s.headerOk (readCells s.vault w.lo.toNat 4096) = true) (hs : q.settled = true) (hc : s.ckpt = none) :
    execCkptRestore w s =
      let n := leNat ((readCells s.vault w.lo.toNat 4096).take 16)
      .next (({ s with ckpt := some (q.restoreAsked w n) }.takeOff q .ckpt).parsed q w) := by
  have hb : ¬ (q.fn ≠ 0 ∨ w.lo.toNat % 4096 ≠ 0 ∨ s.vaultUp = 0 ∨ (!s.headerOk (readCells s.vault w.lo.toNat 4096)) = true) := by
    simpa only [hh, Bool.not_true, Bool.false_eq_true, or_false] using h
  rw [execCkptRestore, packetOp_formed hq hw]
  simp only [ha, if_neg hb, hs, hc, ne_eq, not_true_eq_false, Bool.not_true, Bool.false_eq_true, Option.isSome_none, if_false]
  rfl

end

section
variable {s : State} {c : Ckpt}

/-! ## The end of a copy (R57 to R60) -/

theorem seal_header (s : State) (c : Ckpt) (rs : List (Nat × Nat)) :
    let x := s.seal c rs
    x.header = ckptHeader c.full c.parts s.mgmt.kekGen (s.mgmt.versions.getD 1 0) (rs.foldl (fun n r => n + r.2) x.stateBytes.length)
      x.stateBytes.length (keyWrap (kekBytes s.mgmt.kekGen.toNat) x.key) (sha256 x.cipher) rs := rfl

/-- The body of a checkpoint: its ranges and its state section, encrypted. -/
theorem seal_cipher (s : State) (c : Ckpt) (rs : List (Nat × Nat)) :
    let x := s.seal c rs
    x.cipher = xtsEncrypt x.key (rs.foldr (fun r acc => readCells x.mem r.1 r.2 ++ acc) [] ++ x.stateBytes) := rfl

/-- No hand of the covered partitions runs or waits for a result: the copy stands in the vault, and the partitions go on. -/
theorem execCkptCopyComplete_copies (hc : s.ckpt = some c) (hr : c.restore = false)
    (hh : ∀ h ∈ s.hands, c.parts.getLsbD h.part = true → h.state ≠ .running ∧ h.allSettled = true) :
    execCkptCopyComplete s =
      let t := (s.hands.filter (fun h => c.parts.getLsbD h.part)).foldl State.toMemory s
      let x := t.seal c (t.ckptRanges c.full (((t.queue? c.queue).map Queue.part).getD 0))
      .next (State.endCkpt { t with vault := writeCells c.offset.toNat (x.header ++ x.cipher) t.vault, snapshots := t.snapshots ++ [x] } false) := by
  have hb : (s.hands.any fun h => c.parts.getLsbD h.part && (h.state == .running || !h.allSettled)) = false := by
    rw [List.any_eq_false]
    intro h hm hcov
    simp only [Bool.and_eq_true, Bool.or_eq_true, beq_iff_eq, Bool.not_eq_true'] at hcov
    obtain ⟨hp, hrun⟩ := hcov
    obtain ⟨hn, hset⟩ := hh h hm hp
    exact hrun.elim hn (fun e => absurd hset (ne_true_of_eq_false e))
  simp only [execCkptCopyComplete, hc, hr, hb, Bool.or_self, Bool.false_eq_true, if_false]

/-! ## The end of a restore (R61) -/

theorem execCkptRestoreComplete_loads (hc : s.ckpt = some c) (hr : c.restore = true) {sn : Snapshot} (hok : s.args.ok = true)
    (hi : s.intact c.offset.toNat = some sn) :
    execCkptRestoreComplete s =
      .next ((s.loadSnapshot sn (headerRanges (readCells s.vault c.offset.toNat 4096))).endCkpt false) := by
  simp only [execCkptRestoreComplete, hc, hr, hok, hi, Bool.not_true, Bool.false_eq_true, if_false, if_true]

/-- A body that is not as it was written, or an error of the vault: the covered partitions are reset. -/
theorem execCkptRestoreComplete_resets (hc : s.ckpt = some c) (hr : c.restore = true)
    (h : s.args.ok = false ∨ s.intact c.offset.toNat = none) :
    execCkptRestoreComplete s =
      .next ((coveredParts c.parts).foldl (fun s p => s.resetPartition p (s.resetDie p) 0x8D 0x8D (fun _ => false)) s) := by
  have hn : (if s.args.ok = true then s.intact c.offset.toNat else none) = none := by
    obtain h | h := h
    · rw [h, if_neg Bool.false_ne_true]
    · rw [h, ite_self]
  simp only [execCkptRestoreComplete, hc, hr, hn, Bool.not_true, Bool.false_eq_true, if_false]

end

/-- Settles O53: each packet starts its checkpoint or is refused, and each end is the equation of its step. -/
theorem checkpoints : Obligations.Checkpoints := by
  intro s
  refine ⟨fun w q hq hw ha => ⟨fun hb => ⟨?_, ?_⟩, ?_, ?_, ?_⟩, ?_, fun c hc hr => ⟨fun sn => ?_, ?_⟩⟩
  · exact execCkpt_refused hq hw ha hb
  · exact execCkptRestore_refused hq hw ha (.inl hb)
  · exact execCkpt_starts hq hw ha
  · exact fun _ hh => execCkptRestore_refused hq hw ha (.inr hh)
  · exact execCkptRestore_starts hq hw ha
  · rintro c hc hr hh s1 rfl
    refine ⟨?_, ?_⟩
    · exact seal_header _ _ _
    · exact execCkptCopyComplete_copies hc hr hh
  · exact execCkptRestoreComplete_loads hc hr
  · exact execCkptRestoreComplete_resets hc hr

end Sys2Proof.Machine
end

section
/-!
PROOFS. The registers of BAR0 (O52): the clause about a module that the finaliser refuses fails. `execFinalise` makes its answer to a refused
module from the state before it has read the module, so that what the reading does is lost: here the completion of a read of host memory, which
ends the run of time-outs (R55, log 14).
-/
namespace Sys2Proof.Machine

/-- A module of eight zero bytes at virtual address 0, which a TLB maps to host memory; one request to the host has timed out. -/
def zeroModule : State :=
  { State.reset with
    args := default
    queues := [{ (default : Queue) with asid := 1 }]
    tlb := [{ site := 2048, asid := 1, va := 0, level := 2, leaf := 0x47 }]
    hostLink := { State.reset.hostLink with timeouts := 1 }
    funcs := putAt 64 Func.init (fun x => { x with fin := { x.fin with args := [0, 8, 0, 0, 0, 1] } }) 0 State.reset.funcs }

/-- The module is read, and it is no EPF module. -/
theorem zeroModule_read :
    (zeroModule.frontTouch 0 (.finaliser 0) 1 (0, 8)).feBytes (.finaliser 0) 1 8 0 = .ok (List.replicate 8 0) := rfl

theorem zeroModule_refused : epfHeaderOk (List.replicate 8 0) = false := by decide

/-- Reading it ends the run of time-outs. -/
theorem zeroModule_touched : (zeroModule.frontTouch 0 (.finaliser 0) 1 (0, 8)).hostLink.timeouts = 0 := by decide

/-- The time-outs in a row after a step. -/
def timeoutsOf : Host.Outcome State Fault Refusal → Option Nat
  | .next t => some t.hostLink.timeouts
  | _ => none

/-- The run goes on after the step of the model. -/
theorem zeroModule_finalised : timeoutsOf (exec .finalise zeroModule) = some 1 := by decide +kernel

/-- Refutes O52: the finaliser refuses the module `zeroModule`, whose reading ended a run of one time-out; after the step the run is still 1. -/
theorem not_barRegisters : ¬ Obligations.BarRegisters := by
  rintro ⟨registers, -⟩
  obtain ⟨-, -, -, -, -, -, -, -, finaliser⟩ := registers zeroModule
  obtain ⟨-, reads⟩ := finaliser (by decide)
  obtain ⟨refuses, -⟩ := reads _ rfl (List.replicate 8 0) ⟨_, List.mem_cons_self, by decide⟩ zeroModule_read
  have claim : some 1 = some (zeroModule.frontTouch 0 (.finaliser 0) 1 (0, 8)).hostLink.timeouts :=
    zeroModule_finalised.symm.trans (congrArg timeoutsOf (refuses zeroModule_refused))
  rw [zeroModule_touched] at claim
  exact absurd claim (by decide)

end Sys2Proof.Machine
end

section
/-!
PROOFS. What a core instruction that frees no register answers, by what its body does.
-/
namespace Sys2Proof.Machine

/-- The lanes for which an issuing instruction acts. -/
abbrev State.acting (s : State) (i : SplitIssue) (w : CoreWords) : Lanes := i.active (s.hand i.hand) w

/-- The value of a uniform source of an issuing instruction. -/
abbrev State.uniAt (s : State) (i : SplitIssue) (w : CoreWords) (n : Nat) : DWord := uniVal i (s.acting i w) (s.hand i.hand) n

section
variable {s s' : State} {i : SplitIssue} {w : CoreWords} {kind : Kind} {act : Lanes}

section
variable {body : SplitIssue → Lanes → State → Done} (h : Issues s i w)
include h

/-- The body finds a fault and has no other effect. -/
theorem execCore_trap {t : TrapInfo} (hb : body i (s.acting i w) s = .trap s t) :
    execCore kind w s body = .next (s.faulted i w t) := by
  rw [execCore_issues h, hb]
  simp only [ite_self]

/-- The body parks its split. -/
theorem execCore_stall (hb : body i (s.acting i w) s = .stall s') :
    execCore kind w s body = .next ((s'.countIssue i w.rb false).finishCycle i.core i.slot) := by
  rw [execCore_issues h, hb]

end

/-- Without last-read bits an instruction whose registers are there does what its effect does, a fault among it. -/
theorem withRegs_noLr {ops : List (Operand × Check)} {dsts : List Nat} {effect : Hand → State → Done} (h : Readable s i act ops dsts []) :
    withRegs i act s ops dsts [] effect = effect (s.hand i.hand) s := by
  have hs : s.released i [] = s := rfl
  rw [withRegs_readable h, hs]
  cases effect (s.hand i.hand) s <;> rfl

end

end Sys2Proof.Machine
end

section
/-!
PROOFS. Tile and accumulator instructions issue (O38).
-/
namespace Sys2Proof

/-- Rows and columns of an accumulator block, as `acz`, `acld`, `acst`, `acdrain` and `epi` give them (R352). -/
abbrev CoreWords.blockRows (w : CoreWords) : Nat := w.f2 16 8 + 1
abbrev CoreWords.blockCols (w : CoreWords) : Nat := 8 * (w.f2 24 5 + 1)

end Sys2Proof

namespace Sys2Proof.Machine

section
variable {s s' : State} {i : SplitIssue} {w : CoreWords} {kind : Kind} {act : Lanes}

/-! ## Work enters its core's order, or its split parks (R202, R353) -/

/-- The first work in flight on the issuing core that will write what new work needs. -/
def State.heldBy (s : State) (i : SplitIssue) (x : TileWork) : Option TileWork :=
  (s.core i.core).work.find? (fun e => meetsRes e.writes x.needs)

/-- The split is parked until work has completed. -/
def State.parkedFor (s : State) (i : SplitIssue) (e : TileWork) : State :=
  s.updHand i.hand (fun h => { h with parks := h.parks ++ [(i.lanes, .tile e.id)] })

/-- The work has joined its core's order and is outstanding. -/
def State.sentTile (s : State) (i : SplitIssue) (act : Lanes) (op : TileOp) (va vb : DWord) : State :=
  (s.addWork i.core (newWork s i op va vb)).addOutst i.hand act (.tile i.core (8 * s.tick)) [] 0 0

/-- What an instruction that sends work from `s'` answers: outside a handler, or with nothing in the way, the work is sent and the count of
yields ends; in a handler the split parks for the first work in the way. -/
def SendsTile (out : Host.Outcome State Fault Refusal) (s : State) (i : SplitIssue) (w : CoreWords) (act : Lanes) (s' : State) (op : TileOp)
    (va vb : DWord) : Prop :=
  (i.lanes &&& (s'.hand i.hand).trapMode = 0 ∨ s'.heldBy i (newWork s' i op va vb) = none →
    out = .next (s.finish i w 0 true (s'.sentTile i act op va vb))) ∧
  ∀ e, i.lanes &&& (s'.hand i.hand).trapMode ≠ 0 → s'.heldBy i (newWork s' i op va vb) = some e →
    out = .next (((s'.parkedFor i e).countIssue i w.rb false).finishCycle i.core i.slot)

section
variable {op : TileOp} {va vb : DWord}

theorem parkHandler_none {rd : List TileRes}
    (h : i.lanes &&& (s.hand i.hand).trapMode = 0 ∨ (s.core i.core).work.find? (fun e => meetsRes e.writes rd) = none) :
    s.parkHandler i rd = none := by
  obtain h | h := h
  · simp only [State.parkHandler, h, bne_self_eq_false, Bool.false_eq_true, if_false]
  · simp only [State.parkHandler, h, ite_self]

theorem parkHandler_some {rd : List TileRes} {e : TileWork} (h : i.lanes &&& (s.hand i.hand).trapMode ≠ 0)
    (he : (s.core i.core).work.find? (fun e => meetsRes e.writes rd) = some e) : s.parkHandler i rd = some (s.parkedFor i e) := by
  simp only [State.parkHandler, he, bne_iff_ne.mpr h, if_true, State.parkedFor]

theorem issueTile_sends (h : i.lanes &&& (s.hand i.hand).trapMode = 0 ∨ s.heldBy i (newWork s i op va vb) = none) :
    s.issueTile i act op va vb = .ok (s.sentTile i act op va vb) := by
  simp only [State.issueTile, parkHandler_none h]
  rfl

theorem issueTile_parks {e : TileWork} (h : i.lanes &&& (s.hand i.hand).trapMode ≠ 0)
    (he : s.heldBy i (newWork s i op va vb) = some e) : s.issueTile i act op va vb = .stall (s.parkedFor i e) := by
  simp only [State.issueTile, parkHandler_some h he]

/-- An instruction that acts outside its hand and whose body issues work sends it. -/
theorem execCore_sendsTile {body : SplitIssue → Lanes → State → Done} (h : Issues s i w) (ho : kind.outside = true) (hk : kind.signs = false)
    (hb : body i (s.acting i w) s = s'.issueTile i act op va vb) :
    SendsTile (execCore kind w s body) s i w act s' op va vb := by
  refine ⟨fun hf => ?_, fun e ht he => ?_⟩
  · rw [execCore_ok h hk (hb.trans (issueTile_sends hf)), ho]
  · exact execCore_stall h (hb.trans (issueTile_parks ht he))

end

/-! ## Accumulator blocks (R352) -/

section
variable {row nr col nc : Nat}

theorem accBound_inside (hr : row + nr ≤ 256) (hc : col + nc ≤ 256) : accBound i act row nr col nc = none := by
  simp only [accBound, Nat.not_lt_of_le hr, Nat.not_lt_of_le hc, if_false]

theorem accBound_pastRows (hr : 256 < row + nr) :
    accBound i act row nr col nc = some (i.faultW act 0x19 (BitVec.ofNat 16 (max row 256))) := if_pos hr

end

/-! ## `tcfg` (R350) -/

/-- The shape that `tcfg` gives, without the bit that marks it valid. -/
def cfgShape (s : State) (i : SplitIssue) (w : CoreWords) : DWord :=
  (if w.nameB = w.zeroName then w.litVal else s.uniAt i w w.nameA) &&& ~~~((1 : DWord) <<< 24)

section
variable (h : Issues s i w)
  (hr : Readable s i (s.acting i w) (if w.nameB = w.zeroName then [] else [(w.hA, .move)]) [] [])
include h hr

theorem execTcfg_broken (hv : shBroken (cfgShape s i w) = true) :
    execTcfg w s = .next (s.faulted i w (tilex i (s.acting i w) (s.shapeOf i w.nameD))) :=
  execCore_trap h ((withRegs_noLr hr).trans (if_pos hv))

/-- The tile has its shape, the clearing of its planes joins the order of the core's work, and what nothing holds is done. -/
theorem execTcfg_shapes (hv : shBroken (cfgShape s i w) = false) {s1 s2 : State}
    (h1 : s1 = s.updCore i.core (fun c =>
      { c with tiles := putAt 16 Tile.init (fun t => { t with tsh := cfgShape s i w ||| (1 <<< 24) }) w.nameD c.tiles }))
    (h2 : s2 = s1.addWork i.core (newWork s1 i (.cfg w.nameD) (cfgShape s i w) 0)) :
    execTcfg w s = .next (s.finish i w 0 false (s2.kick (s2.core i.core).work.length i.core)) := by
  subst h1 h2
  exact execCore_ok h rfl ((withRegs_noLr hr).trans (if_neg (ne_true_of_eq_false hv)))

end

/-! ## `tld` and `tst` (R356) -/

/-- The address of R356, with its low half as a number. -/
theorem tileAddr_eq (w : CoreWords) (a : DWord) :
    tileAddr w a = (a &&& 0xFFFFFFFF00000000) ||| BitVec.ofNat 64 ((a.toNat + w.x.w2.toNat) % 2 ^ 32) := by
  rw [tileAddr]
  congr 1
  apply BitVec.eq_of_toNat_eq
  simp only [BitVec.truncate_eq_setWidth, BitVec.toNat_setWidth, BitVec.toNat_add, BitVec.toNat_ofNat]
  omega

/-- A tile's shape register holds no shape that `tld` and `tst` take. -/
def BadShape (v : DWord) : Prop := shValid v = false ∨ shBroken (v &&& ~~~((1 : DWord) <<< 24)) = true

section
variable {acc : Access} {k : SplitIssue → Lanes → State → Nat → DWord → Done} (hr : Readable s i act [(w.hA, .move)] [] [])
include hr

/-- A tile without a valid shape raises TILEX. -/
theorem tileAccess_broken (hv : BadShape (s.shapeOf i w.nameD)) :
    tileAccess acc k w i act s = .trap s (tilex i act (s.shapeOf i w.nameD)) := by
  refine (withRegs_noLr hr).trans (if_pos ?_)
  simpa only [BadShape, Bool.or_eq_true, Bool.not_eq_true'] using hv

/-- With a valid shape the access goes on at the place that the checks of its address give. -/
theorem tileAccess_place (hv : ¬ BadShape (s.shapeOf i w.nameD)) {locs : List (Nat × Nat)}
    (hc : s.checkAccess i act true acc 64 (tileBytes (s.shapeOf i w.nameD)) (fun _ => tileAddr w (uniVal i act (s.hand i.hand) w.nameA)) =
      .ok (locs, s')) :
    tileAccess acc k w i act s = k i act s' (((locs.head?).map Prod.snd).getD 0) (s.shapeOf i w.nameD) := by
  refine (withRegs_noLr hr).trans ((if_neg ?_).trans ?_)
  · simpa only [BadShape, Bool.or_eq_true, Bool.not_eq_true'] using hv
  · simp only [hc]

end

/-! ## `mma` and `mma.win` (R357 to R359) -/

section
variable {col : CoreWords → Nat} {rows : CoreWords → DWord → Option (List Nat)} {out : Host.Outcome State Fault Refusal}
  (ho : out = mmaOp col rows w s) (h : Issues s i w) (hr : Readable s i (s.acting i w) [(w.hA, .move)] [] [])
include ho h hr

/-- A pair of tags that no matrix operation takes. -/
theorem mmaOp_pair (hp : mmaPair (shTag (s.shapeOf i w.nameB)) (shTag (s.shapeOf i w.nameC)) ≠ true) :
    out = .next (s.faulted i w (litMis i (s.acting i w) w.nameC (shTag (s.shapeOf i w.nameC)))) := by
  refine ho.trans (execCore_trap h ((withRegs_noLr hr).trans (if_pos ?_)))
  simpa only [Bool.not_eq_true', Bool.not_eq_true] using hp

variable (hp : mmaPair (shTag (s.shapeOf i w.nameB)) (shTag (s.shapeOf i w.nameC)) = true)
  (hf : shK (s.shapeOf i w.nameB) = false ∧ shK (s.shapeOf i w.nameC) = true ∧ shCols (s.shapeOf i w.nameB) = shRows (s.shapeOf i w.nameC))
  {rs : List Nat} (hrs : rows w (s.shapeOf i w.nameB) = some rs)
include hp hf hrs

/-- The rows of the block pass the accumulator's last one. -/
theorem mmaOp_pastRows (hb : 256 < accRow0 w (s.uniAt i w w.nameA) + rs.length) :
    out = .next (s.faulted i w (i.faultW (s.acting i w) 0x19 (BitVec.ofNat 16 (max (accRow0 w (s.uniAt i w w.nameA)) 256)))) := by
  obtain ⟨ha, hb', hd⟩ := hf
  refine ho.trans (execCore_trap h ((withRegs_noLr hr).trans ?_))
  simp [hp, ha, hb', hd, hrs, accBound_pastRows hb]

theorem mmaOp_sends (hb : accRow0 w (s.uniAt i w w.nameA) + rs.length ≤ 256)
    (hc : col w + shCols (s.shapeOf i w.nameC) ≤ 256) :
    SendsTile out s i w (s.acting i w) s (.mma (accRow0 w (s.uniAt i w w.nameA)) (col w) w.nameB w.nameC rs)
      (s.shapeOf i w.nameB) (s.shapeOf i w.nameC) := by
  obtain ⟨ha, hb', hd⟩ := hf
  rw [ho]
  refine execCore_sendsTile h rfl rfl ((withRegs_noLr hr).trans ?_)
  simp [hp, ha, hb', hd, hrs, accBound_inside hb hc]

end

/-- The row of A that row `m` of a window's block reads (R359). -/
def winRow (w : CoreWords) (m : Nat) : Nat := (m / w.f2 13 6 + w.f2 19 2) * (w.f2 13 6 + 3) + m % w.f2 13 6 + w.f2 21 2

theorem exec_mma_eq (w : CoreWords) (s : State) :
    exec (.mma w) s = mmaOp (fun w => w.f2 8 8) (fun _ va => some (List.range (shRows va))) w s := rfl

theorem exec_mmaWin_eq (w : CoreWords) (s : State) :
    exec (.mmaWin w) s = mmaOp (fun w => w.f2 24 8) (fun w va => if shRows va ≤ winRow w (8 * (w.f2 8 5 + 1) - 1) then none
      else some ((List.range (8 * (w.f2 8 5 + 1))).map (winRow w))) w s := rfl

/-! ## Accumulator blocks (R363 to R365) -/

section
variable (h : Issues s i w) (hrow : accRow0 w (s.uniAt i w w.nameA) + w.blockRows ≤ 256)
  (hcol : w.f2 8 8 + w.blockCols ≤ 256)
include h hrow hcol

theorem execAcz_sends (hr : Readable s i (s.acting i w) [(w.hA, .move)] [] []) :
    SendsTile (execAcz w s) s i w (s.acting i w) s
      (.acz (accRow0 w (s.uniAt i w w.nameA)) (w.f2 8 8) w.blockRows w.blockCols) 0 0 := by
  refine execCore_sendsTile h rfl rfl ((withRegs_noLr hr).trans ?_)
  simp only [accBound_inside hrow hcol]

variable (hr : Readable s i (s.acting i w) [(w.hA, .move), (w.hB, .move)] [] [])
include hr

theorem execAcld_sends {locs : List (Nat × Nat)}
    (hc : s.checkAccess i (s.acting i w) true .read 16 (4 * w.blockRows * w.blockCols)
      (fun _ => s.uniAt i w w.nameB) = .ok (locs, s')) :
    SendsTile (execAcld w s) s i w (s.acting i w) s'
      (.acld (accRow0 w (s.uniAt i w w.nameA)) (w.f2 8 8) w.blockRows w.blockCols (((locs.head?).map Prod.snd).getD 0)) 0 0 := by
  refine execCore_sendsTile h rfl rfl ((withRegs_noLr hr).trans ?_)
  simp only [accBound_inside hrow hcol, hc]

theorem execAcst_sends {lines : List Nat} {off : Nat}
    (hc : s.blockDest i (s.acting i w) (w.f2 29 1 == 1) (s.uniAt i w w.nameB) (4 * w.blockRows * w.blockCols) = .ok (lines, off, s')) :
    SendsTile (execAcst w s) s i w (s.acting i w) s'
      (.acst (accRow0 w (s.uniAt i w w.nameA)) (w.f2 8 8) w.blockRows w.blockCols lines off) 0 0 := by
  refine execCore_sendsTile h rfl rfl ((withRegs_noLr hr).trans ?_)
  simp only [accBound_inside hrow hcol, hc]

theorem execAcdrain_sends {b : DWord} (hb : b = s.uniAt i w w.nameB)
    (htr : getField b 0 8 + w.blockRows ≤ 256) (htc : getField b 8 8 + w.blockCols ≤ 256) (hz : b >>> 26 = 0)
    (hcl : (s.part (s.hand i.hand).part).cfg.clusters.getLsbD (getField b 21 5) = true) :
    SendsTile (execAcdrain w s) s i w (s.acting i w) s
      (.drain (accRow0 w (s.uniAt i w w.nameA)) (w.f2 8 8) w.blockRows w.blockCols
        (32 * getField b 21 5 + getField b 16 5) (getField b 0 8) (getField b 8 8)) 0 0 := by
  subst hb
  refine execCore_sendsTile h rfl rfl ((withRegs_noLr hr).trans ?_)
  simp [accBound_inside hrow hcol, accBound_inside htr htc, hz, hcl]

end

/-- What `epi` finds of its bias row: no word without one, or the place that the checks of its address give, and the state after them. -/
def BiasAt (s : State) (i : SplitIssue) (act : Lanes) (bias nc : Nat) (bl : Option Nat) (s1 : State) : Prop :=
  bias = 0 ∧ bl = none ∧ s1 = s ∨ bias ≠ 0 ∧ ∃ locs, s.checkAccess i act true .read 4 (4 * nc) (fun _ => BitVec.ofNat 64 bias) =
    .ok (locs, s1) ∧ bl = (locs.head?).map Prod.snd

theorem execEpi_sends (h : Issues s i w) {a c : DWord} {s1 s2 : State} {lines : List Nat} {off : Nat} {bl : Option Nat}
    (hr : Readable s i (s.acting i w) [(w.hA, .move), (w.hB, .move), (.h w.nameC, .move)] [] [])
    (ha : a = s.uniAt i w w.nameA) (hc : c = s.uniAt i w w.nameC)
    (hact : getField c 32 2 ≠ 3) (hz : c >>> 34 = 0)
    (hrow : getField a 0 32 + w.f2 0 8 + w.blockRows ≤ 256) (hcol : w.f2 8 8 + w.blockCols ≤ 256)
    (hbias : BiasAt s i (s.acting i w) (getField a 32 32) w.blockCols bl s1)
    (hdest : s1.blockDest i (s.acting i w) (w.f2 29 1 == 1) (s.uniAt i w w.nameB)
      (w.blockRows * w.blockCols * elemBits w.x.fmt / 8) = .ok (lines, off, s2)) :
    SendsTile (execEpi w s) s i w (s.acting i w) s2
      (.epi (getField a 0 32 + w.f2 0 8) (w.f2 8 8) w.blockRows w.blockCols lines off (c.setWidth 32) (getField c 32 2) bl w.x.fmt
        w.x.rnd.toNat w.x.sat) 0 0 := by
  subst ha hc
  refine execCore_sendsTile h rfl rfl ((withRegs_noLr hr).trans ?_)
  obtain ⟨hb, rfl, rfl⟩ | ⟨hb, locs, hcheck, rfl⟩ := hbias
  · simp [hact, hz, accBound_inside hrow hcol, hb, hdest]
  · simp [hact, hz, accBound_inside hrow hcol, hb, hcheck, hdest]

end

/-- Settles O38: `tcfg` gives its shape, each tile access passes its checks to `State.issueTile`, as does each matrix and block instruction, and
`execCore_sendsTile` says what that comes to. -/
theorem tilesIssue : Obligations.TilesIssue := by
  intro s i w h
  refine ⟨?_, fun hr => ⟨fun hv => ⟨?_, ?_⟩, fun hv locs s' hc => ?_, fun hv locs s' hc => ?_⟩,
    fun hr => ⟨?_, fun hp hf hb hc => ?_, fun hp hf hb => ?_, fun hp hf hm hb hc => ?_⟩,
    fun hrow hcol => ⟨?_, fun hr => ⟨fun locs s' => ?_, fun lines off s' => ?_, ?_⟩⟩, ?_⟩
  · simp only [decide_eq_true_eq]
    exact fun hr => ⟨execTcfg_broken h hr, fun hv s1 h1 s2 => execTcfg_shapes h hr hv h1⟩
  · exact execCore_trap h (tileAccess_broken hr hv)
  · exact execCore_trap h (tileAccess_broken hr hv)
  · rw [← tileAddr_eq] at hc
    exact execCore_sendsTile h rfl rfl (tileAccess_place hr hv hc)
  · rw [← tileAddr_eq] at hc
    exact execCore_sendsTile h rfl rfl (tileAccess_place hr hv hc)
  · exact mmaOp_pair (exec_mma_eq w s) h hr
  · exact mmaOp_sends (exec_mma_eq w s) h hr hp hf rfl (by rwa [List.length_range]) hc
  · exact mmaOp_pastRows (exec_mma_eq w s) h hr hp hf rfl (by rwa [List.length_range])
  · exact mmaOp_sends (exec_mmaWin_eq w s) h hr hp hf (if_neg (Nat.not_le_of_lt hm)) (by rwa [List.length_map, List.length_range]) hc
  · exact execAcz_sends h hrow hcol
  · exact execAcld_sends h hrow hcol hr
  · exact execAcst_sends h hrow hcol hr
  · exact execAcdrain_sends h hrow hcol hr rfl
  · exact fun hr hact hz hrow hcol bl s1 lines off s2 => execEpi_sends h hr rfl rfl hact hz hrow hcol

end Sys2Proof.Machine
end

section
/-!
PROOFS. What a lookup finds after an update: hands by key, cores and slots by number.
-/
namespace Sys2Proof.Machine

theorem lookupD_insertK_same {α : Type} (k : Nat) (d x : α) (l : List (Nat × α)) : lookupD k d (insertK k x l) = x := by
  induction l with
  | nil => simp [insertK, lookupD]
  | cons p l ih =>
    obtain ⟨j, y⟩ := p
    by_cases hj : j = k <;> simp [insertK, lookupD, hj, ih]

theorem getD_putAt_same {α : Type} {n i : Nat} (h : i < n) (d : α) (f : α → α) (l : List α) : (putAt n d f i l).getD i d = f (l.getD i d) := by
  simp [putAt, h]

section
variable (s : State)

@[simp] theorem core_updCore_same (c : Nat) (f : Core → Core) : (s.updCore c f).core c = f (s.core c) := lookupD_insertK_same _ _ _ _

theorem slot_updSlot_same {c k : Nat} (h : k < 4) (f : Slot → Slot) : (s.updSlot c k f).slot c k = f (s.slot c k) := by
  rw [State.slot, State.updSlot, core_updCore_same]
  exact getD_putAt_same h _ f _

theorem key_of_hand? {s : State} {k : Nat} {h : Hand} (hs : s.hand? k = some h) : h.key = k :=
  of_decide_eq_true (List.find?_some (p := fun (x : Hand) => decide (x.key = k)) hs)

/-- An update that keeps the key of a hand changes what its key finds, and nothing that another key finds. -/
theorem hand?_updHand {f : Hand → Hand} (hf : ∀ h, (f h).key = h.key) (j k : Nat) :
    (s.updHand k f).hand? j = if j = k then (s.hand? j).map f else s.hand? j := by
  have hk (h : Hand) : (if h.key = k then f h else h).key = h.key := by split <;> simp [hf]
  simp only [State.hand?, State.updHand, updWhere]
  induction s.hands with
  | nil => simp
  | cons h hs ih =>
    rw [List.map_cons, List.find?_cons, List.find?_cons]
    simp only [decide_eq_true_eq, hk]
    by_cases hj : h.key = j
    · by_cases e : j = k <;> simp [hj, e]
    · simpa [hj] using ih

theorem hand_updHand_same {f : Hand → Hand} (hf : ∀ h, (f h).key = h.key) {k : Nat} {h : Hand} (hs : s.hand? k = some h) :
    (s.updHand k f).hand k = f h := by
  rw [State.hand, hand?_updHand s hf, if_pos rfl, hs]
  rfl

end

end Sys2Proof.Machine
end

section
/-!
PROOFS. Ranking: the first of a list under an order of precedence, and lists that are kept in such an order.
-/
namespace Sys2Proof.Machine

/-- "Goes before" as the arbiters use it: never both ways, and what does not go before one that does not go before a third does not go before the
third. Two that tie go before each other neither way. -/
structure Precedes {α : Type} (before : α → α → Bool) : Prop where
  asymm : ∀ {a b}, before a b = true → before b a = false
  negTrans : ∀ {a b c}, before a b = false → before b c = false → before a c = false

/-- A fold that keeps one of two each time ends with one of the list. -/
theorem foldl_pick_mem {α : Type} (before : α → α → Bool) (a : α) (l : List α) : l.foldl (fun b x => if before x b then x else b) a ∈ a :: l := by
  induction l generalizing a with
  | nil => exact List.mem_cons_self
  | cons y l ih =>
    rw [List.foldl_cons]
    split
    · exact List.mem_cons_of_mem _ (ih y)
    · exact List.mem_cons.mpr ((List.mem_cons.mp (ih a)).imp_right (List.mem_cons_of_mem y))

namespace Precedes

variable {α : Type} {before : α → α → Bool} (hp : Precedes before)
include hp

theorem irrefl (a : α) : before a a = false := by
  cases h : before a a with
  | false => rfl
  | true => exact h.symm.trans (hp.asymm h)

/-- The fold that keeps the one that goes before the other ends with one before which none of the list goes. -/
theorem foldl_first (a : α) (l : List α) : ∀ x ∈ a :: l, before x (l.foldl (fun b x => if before x b then x else b) a) = false := by
  induction l generalizing a with
  | nil => simp [hp.irrefl]
  | cons y l ih =>
    rw [List.foldl_cons]
    split
    · next hy =>
      have h := ih y
      simp only [List.forall_mem_cons] at h ⊢
      exact ⟨hp.negTrans (hp.asymm hy) h.1, h⟩
    · next hy =>
      have h := ih a
      simp only [List.forall_mem_cons] at h ⊢
      exact ⟨h.1, hp.negTrans (Bool.eq_false_iff.mpr hy) h.1, h.2⟩

end Precedes

/-! ## Hands at an arbitration (R82, R83) -/

/-- A hand's turn: one that was never granted goes before any that was, and among those the one granted longest ago goes first. -/
def Hand.turn (h : Hand) : Nat := match h.lastGrant with | some n => n + 1 | none => 0

theorem Hand.before_iff {a b : Hand} : a.before b = true ↔
    b.cls < a.cls ∨ (a.cls = b.cls ∧ (a.turn < b.turn ∨ (a.turn = b.turn ∧ a.hslot < b.hslot))) := by
  have h : a.before b = if a.cls != b.cls then decide (b.cls < a.cls) else if a.turn != b.turn then decide (a.turn < b.turn)
      else decide (a.hslot < b.hslot) := rfl
  rw [h]
  split_ifs <;> simp_all

theorem Hand.precedes : Precedes Hand.before where
  asymm h := by
    rw [Bool.eq_false_iff, ne_eq, Hand.before_iff]
    rw [Hand.before_iff] at h
    omega
  negTrans hab hbc := by
    rw [Bool.eq_false_iff, ne_eq, Hand.before_iff] at *
    omega

/-! ## Candidates of the Dealer (R103) -/

theorem Candidate.before_iff {a b : Candidate} : a.before b = true ↔ b.cum < a.cum ∨ (a.cum = b.cum ∧ a.seq < b.seq) := by
  rw [Candidate.before]
  split_ifs <;> simp_all

theorem Candidate.precedes : Precedes Candidate.before where
  asymm h := by
    rw [Bool.eq_false_iff, ne_eq, Candidate.before_iff]
    rw [Candidate.before_iff] at h
    omega
  negTrans hab hbc := by
    rw [Bool.eq_false_iff, ne_eq, Candidate.before_iff] at *
    omega

/-- A list of candidates is ranked: none goes before an earlier one. -/
def Ranked (l : List Candidate) : Prop := l.Pairwise (fun x y => y.before x = false)

theorem mem_rankInsert {x y : Candidate} {l : List Candidate} : y ∈ rankInsert x l ↔ y = x ∨ y ∈ l := by
  induction l with
  | nil => simp [rankInsert]
  | cons z l ih =>
    rw [rankInsert]
    split
    · simp
    · simp only [List.mem_cons, ih]
      tauto

theorem rankInsert_ranked (x : Candidate) {l : List Candidate} (h : Ranked l) : Ranked (rankInsert x l) := by
  induction l with
  | nil => exact List.pairwise_singleton _ x
  | cons y l ih =>
    obtain ⟨hy, hl⟩ := List.pairwise_cons.mp h
    rw [rankInsert]
    split
    · next hxy =>
      have hyx := Candidate.precedes.asymm hxy
      refine List.pairwise_cons.mpr ⟨List.forall_mem_cons.mpr ⟨hyx, fun z hz => ?_⟩, h⟩
      exact Candidate.precedes.negTrans (hy z hz) hyx
    · next hxy =>
      refine List.pairwise_cons.mpr ⟨fun z hz => ?_, ih hl⟩
      obtain rfl | hz := mem_rankInsert.mp hz
      · exact Bool.eq_false_iff.mpr hxy
      · exact hy z hz

theorem foldl_rankInsert_ranked (xs : List Candidate) {l : List Candidate} (h : Ranked l) :
    Ranked (xs.foldl (fun l x => rankInsert x l) l) := by
  induction xs generalizing l with
  | nil => exact h
  | cons x xs ih => exact ih (rankInsert_ranked x h)

end Sys2Proof.Machine
end

section
/-!
PROOFS. The steps of the scheduler and the page service (O47).
-/
namespace Sys2Proof.Machine

/-! ## Placement (R74, R75) -/

section
variable {s s0 s' : State} (h0 : s0 = s.startNodes (fun s k => s.queueFault k 0x86))
include h0

theorem execPlacement_nothing (hw : s0.waiting s.args.n = []) :
    execPlacement s = .next (if (s0.part s.args.n).reserve then s0.endReserve s.args.n else s0) := by
  subst h0
  simp only [execPlacement, hw]

variable {hd : List Nat} {rest : List (List Nat)} (hw : s0.waiting s.args.n = hd :: rest)
include hw

theorem execPlacement_head {c : Nat} (hf : s0.fitItem hd = some (c, s')) :
    execPlacement s = .next ((s0.placeItem hd c s').endReserve s.args.n) := by
  subst h0
  simp only [execPlacement, hw, hf]

/-- The head does not fit, and the first item of another launch that does passes it. -/
theorem execPlacement_passes (hf : s0.fitItem hd = none) (hr : (s0.part s.args.n).reserve = false) {a b : List (List Nat)} {it : List Nat} {c : Nat}
    (hs : rest.filter (fun it => (s0.hand (it.headD 0)).lid != (s0.hand (hd.headD 0)).lid) = a ++ it :: b) (ha : ∀ x ∈ a, s0.fitItem x = none)
    (hi : s0.fitItem it = some (c, s')) : execPlacement s = .next ((s0.placeItem it c s').backFill s.args.n) := by
  subst h0
  have found : (a ++ it :: b).findSome? (fun it => ((s.startNodes (fun s k => s.queueFault k 0x86)).fitItem it).map (fun x => (it, x))) =
      some (it, c, s') :=
    List.findSome?_eq_some_iff.mpr ⟨a, it, b, rfl, by rw [hi, Option.map_some], fun x hx => by rw [ha x hx, Option.map_none]⟩
  simp only [execPlacement, hw, hf, hr, hs, found, Bool.false_eq_true, if_false]

end

/-! ## The arbitration of issue slots (R82, R83) -/

section
variable (s : State)

/-- The hands of a core that take part in an arbitration. -/
def State.readyHands (s : State) (c : Nat) : List Hand :=
  (((s.core c).hands.filterMap id).map s.hand).filter (fun h => h.state == .ready && !s.covered h.part)

/-- A hand that takes part is one that its key finds. -/
theorem hand?_of_mem_readyHands {s : State} {c : Nat} {h : Hand} (hm : h ∈ s.readyHands c) : s.hand? h.key = some h := by
  obtain ⟨hm, hr⟩ := List.mem_filter.mp hm
  obtain ⟨k, -, rfl⟩ := List.mem_map.mp hm
  cases hk : s.hand? k with
  | none =>
    have hd : s.hand k = default := by rw [State.hand, hk, Option.getD_none]
    rw [hd] at hr
    exact absurd (Bool.and_eq_true_iff.mp hr).1 (by decide)
  | some h =>
    rw [State.hand, hk, Option.getD_some, key_of_hand? hk, hk]

/-- The hands of a list but the one of a key have lost. -/
def State.loseTo (s : State) (hs : List Hand) (k : Nat) : State :=
  hs.foldl (fun s h => if h.key = k then s else s.updHand h.key Hand.lose) s

theorem Hand.lose_key (h : Hand) : h.lose.key = h.key := by
  unfold Hand.lose
  split <;> rfl

theorem loseTo_cons (h : Hand) (hs : List Hand) (k : Nat) :
    s.loseTo (h :: hs) k = (if h.key = k then s else s.updHand h.key Hand.lose).loseTo hs k := rfl

theorem loseTo_hand? (hs : List Hand) (k : Nat) : (s.loseTo hs k).hand? k = s.hand? k := by
  induction hs generalizing s with
  | nil => rfl
  | cons h hs ih =>
    rw [loseTo_cons]
    split
    · exact ih s
    · next hk => rw [ih, hand?_updHand s Hand.lose_key, if_neg (Ne.symm hk)]

/-- Nothing but hands changes. -/
theorem loseTo_eq (hs : List Hand) (k : Nat) : s.loseTo hs k = { s with hands := (s.loseTo hs k).hands } := by
  induction hs generalizing s with
  | nil => rfl
  | cons h hs ih =>
    rw [loseTo_cons]
    split
    · exact ih s
    · exact ih (s.updHand h.key Hand.lose)

theorem loseTo_core (hs : List Hand) (k c : Nat) : (s.loseTo hs k).core c = s.core c := by
  rw [loseTo_eq]
  rfl

/-- The winner runs: with its base class, as the hand of the core granted last. -/
def Hand.runs (h : Hand) (n : Nat) : Hand :=
  { h with state := .running, cls := baseClass h.kid, losses := 0, lastGrant := some n, intLate := false }

/-- A slot that has been granted to the hand of a key. -/
def Slot.grantedTo (x : Slot) (key : Nat) : Slot := { x with hand := some key, count := 0, second := none, ending := false, fate := .plain }

/-- The grant of slot `k` of a core to the winner of its READY hands. -/
def State.grantRun (s : State) (c k : Nat) (win : Hand) : State :=
  let t := s.loseTo (s.readyHands c) win.key
  ((t.updCore c (fun x => { x with grants := (t.core c).grants + 1 })).updHand win.key (fun h => h.runs (t.core c).grants)).updSlot c k
    (fun x => x.grantedTo win.key)

end

section
variable {s : State} {c k : Nat} {win : Hand}

/-- A grant changes hands and cores only. -/
theorem grantRun_eq : s.grantRun c k win = { s with hands := (s.grantRun c k win).hands, cores := (s.grantRun c k win).cores } := by
  rw [State.grantRun, loseTo_eq]
  rfl

theorem grantRun_slot (hk : k < 4) : ((s.grantRun c k win).slot c k).hand = some win.key := by
  rw [State.grantRun, slot_updSlot_same _ hk]
  rfl

theorem grantRun_hand (hw : s.hand? win.key = some win) : (s.grantRun c k win).hand win.key = win.runs (s.core c).grants := by
  have ht := (loseTo_hand? s (s.readyHands c) win.key).trans hw
  rw [State.grantRun, loseTo_core]
  exact hand_updHand_same (f := fun h => h.runs (s.core c).grants) (State.updCore _ _ _) (fun _ => rfl) ht

theorem grantRun_grants : ((s.grantRun c k win).core c).grants = (s.core c).grants + 1 := by
  have hc (t : State) (key : Nat) (f : Hand → Hand) : (t.updHand key f).core c = t.core c := rfl
  rw [State.grantRun, State.updSlot, core_updCore_same, hc, core_updCore_same, loseTo_core]

/-- The hand that an arbitration picks: `h`, or the one of a list that takes its place. -/
def firstHand (h : Hand) (hs : List Hand) : Hand := hs.foldl (fun b h => if h.before b then h else b) h

/-- The lowest free slot of a core is granted to the READY hand that the arbitration picks. -/
theorem execSlotArbitration_grants {h0 : Hand} {hs : List Hand} (hr : s.readyHands s.args.n = h0 :: hs) (hk : s.args.m < 4)
    (hc : s.coreStops s.args.n = false) (hi : (s.core s.args.n).slots.findIdx (fun x => x.hand.isNone && !x.rebuild) = s.args.m)
    (hw : win = firstHand h0 hs) :
    execSlotArbitration s = .next (if win.inTrap
      then ((s.grantRun s.args.n s.args.m win).claimWindow s.args.n s.args.m win.key true).finishCycle s.args.n s.args.m
      else s.grantRun s.args.n s.args.m win) := by
  subst hw
  have go : ((s.core s.args.n).slots.findIdx (fun x => x.hand.isNone && !x.rebuild) ≠ s.args.m || 4 ≤ s.args.m || s.coreStops s.args.n) = false := by
    simp [hi, hk, hc]
  have hr' : (((s.core s.args.n).hands.filterMap id).map s.hand).filter (fun h => h.state == .ready && !s.covered h.part) = h0 :: hs := hr
  simp only [execSlotArbitration, go, hr', Bool.false_eq_true, if_false, State.grantRun, hr]
  exact (apply_ite Host.Outcome.next _ _ _).symm

/-- The winner is a READY hand before which no other goes; outside trap mode the grant is all that happens. -/
theorem execSlotArbitration_first (hr : s.readyHands s.args.n ≠ []) (hk : s.args.m < 4) (hc : s.coreStops s.args.n = false)
    (hi : (s.core s.args.n).slots.findIdx (fun x => x.hand.isNone && !x.rebuild) = s.args.m) :
    ∃ u, execSlotArbitration s = .next u ∧ ∃ win ∈ s.readyHands s.args.n, (∀ x ∈ s.readyHands s.args.n, x.before win = false) ∧
      (win.inTrap = false → u = s.grantRun s.args.n s.args.m win) := by
  obtain ⟨h0, hs, hl⟩ := List.exists_cons_of_ne_nil hr
  refine ⟨_, execSlotArbitration_grants hl hk hc hi rfl, firstHand h0 hs, ?_, ?_, fun ht => ?_⟩
  · exact hl ▸ foldl_pick_mem Hand.before h0 hs
  · exact hl ▸ Hand.precedes.foldl_first h0 hs
  · exact if_neg (ne_true_of_eq_false ht)

end

/-! ## The Squirrel (R128, R129) -/

section
variable {s : State}

theorem execSpillComplete_done {j : SquirrelJob} {js : List SquirrelJob} (hq : (s.hand s.args.n).squirrel = j :: js) (hj : ∀ w n, j ≠ .refill w n)
    (hs : ∀ x ∈ s.jobEntries s.args.n j, (s.hand x.1).settled x.2 = true) :
    execSpillComplete s =
      let k := s.args.n
      let loaded := if j = .trapMove true then s.updHand k (fun h => { h with trapWin := s.ctxTrapWin h }) else s
      .next (((s.jobEntries k j).foldl (fun s x =>
        if x.1 = k then s.spill k x.2.win x.2.name else s.spillOut x.1 x.2.win x.2.name) loaded).popSquirrel k) := by
  have all : ((s.jobEntries s.args.n j).all (fun x => (s.hand x.1).settled x.2)) = true := List.all_eq_true.mpr hs
  cases j with
  | refill w n => exact absurd rfl (hj w n)
  | _ => simp only [execSpillComplete, hq, all, if_true, beq_iff_eq]

theorem execRefillComplete_done {w : Option Nat} {n : Nat} {js : List SquirrelJob} (hq : (s.hand s.args.n).squirrel = .refill w n :: js) :
    execRefillComplete s = .next ((s.refillEntry s.args.n w n).popSquirrel s.args.n) := by
  simp only [execRefillComplete, hq]

end

/-! ## The Dealer (R103, R104) -/

section
variable (s : State)

/-- The candidates of a partition on a die: its segments that wait for a hand or for their place, and its running range tasks. -/
def State.candidates (s : State) (d p : Nat) : List Candidate :=
  ((s.die d).deck.filter (fun e => (s.launch e.lid).part = p && (s.launch? e.lid).isSome && (e.state == 1 || e.state == 7) &&
    (s.launch e.lid).kmin.toNat ≤ e.cum.toNat)).map Candidate.seg ++
  (s.ranges.filter (fun r => (s.launch? r.lid).isSome && (s.launch r.lid).part = p && s.rangeRuns r)).map Candidate.range

/-- They are dealt in rank. -/
def State.ranked (s : State) (d p : Nat) : List Candidate := (s.candidates d p).foldl (fun l x => rankInsert x l) []

theorem ranked_ranked (d p : Nat) : Ranked (s.ranked d p) := foldl_rankInsert_ranked _ List.Pairwise.nil

/-- A candidate is dealt to a core, if it can be. -/
def State.dealTo (s : State) (d c : Nat) : Candidate → Option State
  | .range r => s.halve r c
  | .seg e => if e.state = 7 then s.dealResume d e c else s.dealPending d e c

variable {s}

/-- The first candidate in rank that can be dealt is dealt. -/
theorem execDeal_first {p : Nat} (hp : s.partOf s.args.m = some p) (hd : coreDie s.args.m = s.args.n) (hc : s.args.m < 1024)
    (hr : (s.part p).reserve = false) (hq : (s.part p).quiesced = false) (hk : s.covered p = false) (hi : s.someItemFits p = false)
    {a b : List Candidate} {x : Candidate} {s' : State} (hl : s.ranked s.args.n p = a ++ x :: b)
    (ha : ∀ y ∈ a, s.dealTo s.args.n s.args.m y = none) (hx : s.dealTo s.args.n s.args.m x = some s') : execDeal s = .next (s'.backFill p) := by
  have found : (s.ranked s.args.n p).findSome? (s.dealTo s.args.n s.args.m) = some s' :=
    List.findSome?_eq_some_iff.mpr ⟨a, x, b, hl, hx, ha⟩
  have go : (coreDie s.args.m ≠ s.args.n || 1024 ≤ s.args.m || (s.part p).reserve || (s.part p).quiesced || s.covered p || s.someItemFits p) =
      false := by
    simp [hd, Nat.not_le_of_lt hc, hr, hq, hk, hi]
  simp only [execDeal, hp, go, Bool.false_eq_true, if_false, beq_iff_eq]
  show (match (s.ranked s.args.n p).findSome? (s.dealTo s.args.n s.args.m) with
    | some s' => Host.Outcome.next (s'.backFill p)
    | none => .next s) = _
  rw [found]

end

/-! ## Lane sparing (R220, R221) -/

section
variable {s : State}

theorem execLaneRetire_retires (hr : (s.slot s.args.n s.args.m).retired = none) (hk : s.args.m < 4) (hc : s.args.n < 1024) :
    execLaneRetire s = .next ((s.magpie (coreDie s.args.n) unitBank 0 [s.args.n, s.args.m, s.args.k % 32]).updSlot s.args.n s.args.m
      (fun x => { x with retired := some (s.args.k % 32), rebuild := true })) := by
  simp [execLaneRetire, hr, Nat.not_le_of_lt hk, Nat.not_le_of_lt hc]

/-- The hands whose registers a core holds (log 92). -/
def State.registerOwners (s : State) (c : Nat) : List Hand :=
  s.hands.filter (fun h => h.core = c && (h.resident || h.state == .swapped || h.state == .swappedAsleep || h.state == .halted))

theorem execLaneRebuild_rebuilds {t : Nat} (hr : (s.slot s.args.n s.args.m).retired = some t) (hh : (s.slot s.args.n s.args.m).hand = none)
    (hb : (s.slot s.args.n s.args.m).rebuild = true) :
    execLaneRebuild s = .next (((s.registerOwners s.args.n).foldl (fun u h => u.rebuildHand s.args.n s.args.m t h) s).updSlot s.args.n s.args.m
      (fun x => { x with rebuild := false })) := by
  simp only [execLaneRebuild, hr, hh, hb, Option.isSome_none, Bool.not_true, Bool.or_self, Bool.false_eq_true, if_false, State.registerOwners]

/-- An uncorrectable word of a live thread kills its hand. -/
theorem rebuildHand_kills {c k t : Nat} {h : Hand} (he : h.laneErrs true t ≠ 0) (hs : h.laneErrs false t = 0) (hl : h.live.has t = true) :
    s.rebuildHand c k t h = ((s.readErrs c (h.laneErrs true t) 0).updHand h.key (fun h => h.rewriteLane t)).killGang h.key 0x12 none false := by
  simp only [State.rebuildHand, hs, hl, he, if_true, if_false, List.range_zero, List.foldl_nil]

end

/-! ## The page service (R153, R40, R24) -/

section
variable {s : State} {r : PageReq}

/-- The requests for a page stand no longer. -/
def State.withoutReqs (s : State) (asid : BitVec 16) (page : Nat) : State :=
  { s with pageReqs := s.pageReqs.filter (fun x => !(x.asid = asid && x.page == page)) }

/-- The refusal of a page whose request the front end has sent is known there while its queues, graphs and launches may still meet it. -/
def State.frontRefused (s : State) (r : PageReq) (asid : BitVec 16) (page : Nat) : State :=
  let t := State.frontServed { s with refusals := if r.front then (asid, page) :: s.refusals else s.refusals } asid page
  { t with refusals := if r.front && s.frontOpen asid page then t.refusals else t.refusals.filter (fun x => x ≠ (asid, page)) }

variable (hr : s.pageReqs.find? (fun r => r.asid = s.args.half && r.page == vaBits s.args.value / 2 ^ 16) = some r) (hf : s.firstOfSender r = true)
include hr hf

/-- The page becomes valid, and what waited for it goes on. -/
theorem execPageService_serves (hok : s.args.ok = false) {s1 : State}
    (h1 : s1 = (s.withoutReqs s.args.half (vaBits s.args.value / 2 ^ 16)).writeBytes r.entry (leBytes s.args.value2.toNat 8) Party.nobody)
    (hv : s1.validPage r s.args.value = true) :
    execPageService s =
      let asid := s.args.half
      let page := vaBits s.args.value / 2 ^ 16
      .next (((s1.frontServed asid page).unparkPage asid page).peersServed asid page 5) := by
  subst h1
  simp only [State.withoutReqs] at hv ⊢
  simp only [execPageService, hr, hf, hok, hv, Bool.not_true, Bool.false_eq_true, if_false]

/-- The page is refused: each split parked there takes PROT, and each peer is answered. -/
theorem execPageService_refuses (hok : s.args.ok = true) (ha : ∀ h ∈ s.hands, ∀ o ∈ h.outst, o.appending = false) :
    execPageService s =
      let asid := s.args.half
      let page := vaBits s.args.value / 2 ^ 16
      .next ((((s.withoutReqs asid page).frontRefused r asid page).refuseParks asid page).peersServed asid page 2) := by
  have idle : (s.hands.any fun h => h.outst.any fun o => o.appending && h.parks.any (fun p => match p.2 with
      | .page _ _ _ r => r == some o.id
      | _ => false)) = false := by
    rw [List.any_eq_false]
    intro h hh
    rw [Bool.not_eq_true, List.any_eq_false]
    intro o ho
    rw [ha h hh o ho, Bool.false_and]
    exact Bool.false_ne_true
  simp only [execPageService, hr, hf, hok, Bool.not_true, Bool.false_eq_true, if_false, if_true]
  exact if_neg (ne_true_of_eq_false idle)

end

/-- Settles O47: the winner of an arbitration is the minimum that its fold keeps, and the Dealer's list is ranked because each insertion keeps it
so; the other clauses are equations of their steps. -/
theorem schedulerSteps : Obligations.SchedulerSteps := by
  refine ⟨fun s => ⟨fun s0 h0 => ⟨?_, fun hd rest hw => ⟨fun c s' => ?_, fun hf hr a b it c s' => ?_⟩⟩, fun hk hc hi hr => ?_,
    ⟨fun j js => ?_, fun w n js => ?_⟩, fun p hp hd hc hr hq hk hi => ⟨?_, fun a x b s' => ?_⟩, ?_, fun t hr hh hb => ⟨?_, fun h => ?_⟩⟩,
    fun s r hr hf => ⟨fun hok s1 => ?_, ?_⟩⟩
  · exact execPlacement_nothing h0
  · exact execPlacement_head h0 hw
  · exact execPlacement_passes h0 hw hf hr
  · obtain ⟨u, hu, win, hm, hfirst, hgrant⟩ := execSlotArbitration_first hr hk hc hi
    refine ⟨u, hu, win, hm, hfirst, fun ht => ?_⟩
    have hand := grantRun_hand (c := s.args.n) (k := s.args.m) (hand?_of_mem_readyHands hm)
    rw [hgrant ht, hand]
    exact ⟨grantRun_eq, grantRun_slot hk, rfl, rfl, grantRun_grants⟩
  · exact execSpillComplete_done
  · exact execRefillComplete_done
  · exact ranked_ranked s _ p
  · exact execDeal_first hp hd hc hr hq hk hi
  · exact execLaneRetire_retires
  · exact execLaneRebuild_rebuilds hr hh hb
  · exact rebuildHand_kills
  · exact execPageService_serves hr hf hok
  · exact execPageService_refuses hr hf

end Sys2Proof.Machine
end

section
/-!
PROOFS. The lowest free number of a table, and a die as it is found after an update.
-/
namespace Sys2Proof.Machine

/-! ## The lowest free number (R93, R101) -/

/-- The search stops at the first number that is not used, or at its last one. -/
theorem lowestFree_stops (used : List Nat) (fuel i : Nat) :
    (∀ j, i ≤ j → j < lowestFree used fuel i → j ∈ used) ∧ (lowestFree used fuel i < i + fuel → lowestFree used fuel i ∉ used) := by
  induction fuel generalizing i with
  | zero =>
    rw [lowestFree]
    exact ⟨fun j hij hji => absurd hij (Nat.not_le_of_lt hji), fun h => absurd h (Nat.lt_irrefl i)⟩
  | succ fuel ih =>
    rw [lowestFree]
    split
    · next hi =>
      obtain ⟨below, stop⟩ := ih (i + 1)
      refine ⟨fun j hij hj => ?_, fun h => stop (by omega)⟩
      obtain rfl | hlt := Nat.eq_or_lt_of_le hij
      · exact List.contains_iff_mem.mp hi
      · exact below j hlt hj
    · next hi => exact ⟨fun j hij hji => absurd hij (Nat.not_le_of_lt hji), fun _ hm => hi (List.contains_iff_mem.mpr hm)⟩

section
variable (used : List Nat)

theorem le_length_of_forall_mem {n : Nat} (h : ∀ j, j < n → j ∈ used) : n ≤ used.length := by
  have hle := (List.nodup_range.subperm fun j hj => h j (List.mem_range.mp hj)).length_le
  rwa [List.length_range] at hle

theorem lowestFree_le_length : lowestFree used used.length 0 ≤ used.length :=
  le_length_of_forall_mem used fun j => (lowestFree_stops used used.length 0).1 j (Nat.zero_le j)

/-- Among as many numbers as are used, and one more, one is free. -/
theorem lowestFree_not_mem : lowestFree used used.length 0 ∉ used := by
  obtain ⟨below, stop⟩ := lowestFree_stops used used.length 0
  intro hm
  have hle := le_length_of_forall_mem used (n := lowestFree used used.length 0 + 1) fun j hj => by
    obtain hlt | rfl := Nat.lt_or_eq_of_le (Nat.le_of_lt_succ hj)
    · exact below j (Nat.zero_le j) hlt
    · exact hm
  exact stop (by omega) hm

/-- With every number below `n` used, the lowest free one is not below. -/
theorem le_lowestFree {n : Nat} (h : ∀ j, j < n → j ∈ used) : n ≤ lowestFree used used.length 0 :=
  Nat.le_of_not_lt fun hlt => lowestFree_not_mem used (h _ hlt)

end

/-- A die of the device is found as it was updated. -/
theorem die_updDie_same (s : State) {d : Nat} (h : d < 4) (f : Die → Die) : (s.updDie d f).die d = f (s.die d) := getD_putAt_same h _ f _

end Sys2Proof.Machine
end

section
/-!
PROOFS. Spawns, tokens, likelihoods and `segq` issue (O44).
-/
namespace Sys2Proof.Machine

/-! ## Tokens (R93 to R95) -/

theorem tokenDie_lt (t : Word) : tokenDie t < 4 := Nat.mod_lt _ (by decide)

section
variable {die idx : Nat} (hd : die < 4) (hi : idx < 4096) (gen : BitVec 18)
include hd hi

/-- The fields of an identifier: DIE, the number of the entry, and GEN. -/
theorem tokenId_fields :
    tokenDie (tokenId die idx gen.toNat) = die ∧ bits (tokenId die idx gen.toNat).toNat 0 12 = idx ∧
      BitVec.ofNat 18 (bits (tokenId die idx gen.toNat).toNat 14 18) = gen := by
  have hg := gen.isLt
  have hn : (tokenId die idx gen.toNat).toNat = idx + die * 4096 + gen.toNat * 16384 := by
    rw [tokenId, BitVec.toNat_ofNat]
    omega
  simp only [tokenDie, hn, bits, Nat.shiftRight_eq_div_pow]
  refine ⟨by omega, by omega, BitVec.eq_of_toNat_eq ?_⟩
  rw [BitVec.toNat_ofNat]
  omega

/-- The entry that an identifier other than the null token names. -/
theorem token?_tokenId {s : State} {lid : Word} (hn : tokenId die idx gen.toNat ≠ nullToken) :
    s.token? lid (tokenId die idx gen.toNat) =
      (s.die die).tokens.find? (fun e => e.idx = idx && e.gen == gen && e.state != 0 && e.lid == lid) := by
  obtain ⟨h1, h2, h3⟩ := tokenId_fields hd hi gen
  rw [State.token?, if_neg (by simpa using hn), h1, h2, h3]

omit gen in
/-- The first generation of an entry is not that of the null token. -/
theorem tokenId_first : tokenId die idx (0 : BitVec 18).toNat ≠ nullToken := by
  intro h
  have hn := congrArg BitVec.toNat h
  rw [tokenId, BitVec.toNat_ofNat] at hn
  simp [nullToken] at hn
  omega

end

/-- While an entry is free, `cond` opens the lowest free one, at a generation that is not that of the null token. -/
theorem newToken_opens (s : State) {die : Nat} (lid : Word) (hd : die < 4)
    (hf : ((s.die die).tokens.filter (fun e => e.state != 0)).length < 4096) :
    ∃ (idx : Nat) (gen : BitVec 18), idx < 4096 ∧ (∀ e ∈ (s.die die).tokens, e.idx = idx → e.state = 0) ∧
      tokenId die idx gen.toNat ≠ nullToken ∧
      s.newToken die lid = (tokenId die idx gen.toNat, s.updDie die (fun d =>
        { d with tokens := { idx := idx, state := 1, gen := gen, lid := lid } :: d.tokens.filter (fun e => e.idx ≠ idx) })) := by
  have hle := lowestFree_le_length (((s.die die).tokens.filter (fun e => e.state != 0)).map Token.idx)
  have hfree := lowestFree_not_mem (((s.die die).tokens.filter (fun e => e.state != 0)).map Token.idx)
  rw [List.length_map] at hle
  have hlt := Nat.lt_of_le_of_lt hle hf
  rw [State.newToken]
  simp only [List.length_map] at hfree ⊢
  rw [if_neg (Nat.not_le_of_lt hlt)]
  refine ⟨_, _, hlt, fun e he hi => ?_, ?_, rfl⟩
  · by_contra hs
    exact hfree (List.mem_map.mpr ⟨e, List.mem_filter.mpr ⟨he, bne_iff_ne.mpr hs⟩, hi⟩)
  · split
    · exact tokenId_first hd hlt
    · next hn => simpa using hn

/-- The token that `cond` gives named no entry before, and names an OPEN one after. -/
theorem newToken_token? (s : State) {die : Nat} (lid : Word) (hd : die < 4)
    (hf : ((s.die die).tokens.filter (fun e => e.state != 0)).length < 4096) :
    ∃ e, s.token? lid (s.newToken die lid).1 = none ∧ (s.newToken die lid).2.token? lid (s.newToken die lid).1 = some e ∧ e.state = 1 := by
  obtain ⟨idx, gen, hi, hfree, hn, hnew⟩ := newToken_opens s lid hd hf
  rw [hnew]
  refine ⟨{ idx := idx, state := 1, gen := gen, lid := lid }, ?_, ?_, rfl⟩
  · rw [token?_tokenId hd hi gen hn, List.find?_eq_none]
    intro e he
    simp only [Bool.and_eq_true, decide_eq_true_eq, bne_iff_ne]
    rintro ⟨⟨⟨hidx, -⟩, hs⟩, -⟩
    exact hs (hfree e he hidx)
  · rw [token?_tokenId hd hi gen hn, die_updDie_same s hd]
    exact List.find?_cons_of_pos (by simp)

theorem newToken_dies (s : State) (die : Nat) (lid : Word) : (s.newToken die lid).2 = { s with dies := (s.newToken die lid).2.dies } := by
  rw [State.newToken]
  dsimp only
  split <;> rfl

/-! ## The settling of a token (R95, R383) -/

/-- The entry number `idx` settles. -/
def Token.settle (idx : Nat) (v : Bool) (y : Token) : Token := if y.idx = idx then { y with state := if v then 2 else 3 } else y

theorem Token.settle_same {idx : Nat} {y : Token} (v : Bool) (h : y.idx = idx) : y.settle idx v = { y with state := if v then 2 else 3 } :=
  if_pos h

theorem Token.settle_idx (idx : Nat) (v : Bool) (y : Token) : (y.settle idx v).idx = y.idx := by
  rw [Token.settle]
  split <;> rfl

/-- The entries of a token's die after it has settled. -/
def State.settleToken (s : State) (t : Word) (idx : Nat) (v : Bool) : State :=
  s.updDie (tokenDie t) (fun x => { x with tokens := x.tokens.map (Token.settle idx v) })

/-- A token that names an entry then names one that is TRUE or FALSE. -/
theorem token?_settleToken {s : State} {lid t : Word} {e : Token} (h : s.token? lid t = some e) (v : Bool) :
    ((s.settleToken t e.idx v).token? lid t).map Token.state = some (if v then 2 else 3) := by
  have hn : ¬ (t == nullToken) = true := fun hn => by simp [State.token?, hn] at h
  rw [State.token?, if_neg hn] at h
  have hm := List.mem_of_find?_eq_some h
  have he := List.find?_some h
  simp only [Bool.and_eq_true, decide_eq_true_eq] at he
  obtain ⟨⟨⟨hidx, hgen⟩, -⟩, hlid⟩ := he
  rw [State.token?, if_neg hn, State.settleToken, die_updDie_same s (tokenDie_lt t), List.find?_map]
  cases hfind : List.find? _ (s.die (tokenDie t)).tokens with
  | none =>
    refine absurd ?_ (List.find?_eq_none.mp hfind e hm)
    cases v <;> simp [Token.settle_same, hidx, hgen, hlid]
  | some x =>
    have hx := List.find?_some hfind
    simp only [Function.comp_apply, Bool.and_eq_true, decide_eq_true_eq, Token.settle_idx] at hx
    obtain ⟨⟨⟨hxi, -⟩, -⟩, -⟩ := hx
    rw [Option.map_some, Option.map_some, Token.settle_same v (hxi.trans hidx.symm)]

/-! ## Class-7 instructions (R381 to R385) -/

/-- An entry without a token goes to the Deck of its hand's segment, or of its hand's core (R100). -/
theorem deckOf_none (h : Hand) : h.deckOf none = (h.seg.map Prod.fst).getD (coreDie h.core) := by
  cases hs : h.seg <;> simp only [Hand.deckOf, hs] <;> rfl

section
variable {s : State} {i : SplitIssue} {w : CoreWords} (h : Issues s i w)

/-- What a spawn sends: its entry with its arguments, to the Deck of its token's die, or without one of its hand's. -/
def spawnWork (s : State) (i : SplitIssue) (w : CoreWords) : Option (Bool × Bool) → Work :=
  let hand := s.hand i.hand
  let sends (deck : Nat) (token : Option Word) (pol : Bool) (own : BitVec 16) (pred : Bool) (pidx : Nat) : Work :=
    .spawn deck (i.next + (BitVec.ofNat 24 (w.f2 0 24)).signExtend 64 <<< 2) (spawnArgs.map (s.uniAt i w)) token pol own pred pidx
      (w.f2 24 1 == 1) ((s.acting i w).list.map (fun t => (t, (hand.thread t).sbNext)))
      (hand.seg.bind (fun p => (s.seg? p).map (fun e => (p.1, p.2, e.seq))))
  let token := hand.schedC w.nameA
  let pidx := predIndex i.pc hand.lid
  fun
  | none => sends ((hand.seg.map Prod.fst).getD (coreDie hand.core)) none false 0x8000 false 0
  | some (pol, pred) => sends (tokenDie token) (some token) pol
      (if pred then BitVec.ofNat 16 (s.estimate (tokenDie token) pidx)
        else if 0x8000 < (hand.schedK w.nameB).toNat then 0x8000 else hand.schedK w.nameB) pred pidx

section
include h

theorem spawnOp_sends (kind : Option (Bool × Bool))
    (hr : Readable s i (s.acting i w) (spawnArgs.map (fun n => (Operand.h n, .move))) [] []) :
    spawnOp kind w s =
      .next (s.finish i w 0 true (s.addOutst i.hand (s.acting i w) (spawnWork s i w kind) [pendingDst (.h w.nameD) 2] 0 0)) := by
  refine execCore_ok h rfl ((withRegs_noLr hr).trans ?_)
  cases kind with
  | none =>
    simp only [deckOf_none]
    rfl
  | some k => rfl

/-- `cond` gives the token that it has opened. -/
theorem execCond_gives (hp : (s.hand i.hand).pair ≠ 2) :
    let new := s.newToken (coreDie i.core) (s.hand i.hand).lid
    execCond w s = .next (s.finish i w 0 true
      (new.2.addOutst i.hand (s.acting i w) .sent [uniformDst (.c w.nameD) 0 (new.1.zeroExtend 64)] 0 0)) :=
  execCore_ok h rfl (if_neg hp)

end

/-- The predicate of `resolve`, as the lowest active lane reads it. -/
def voteOf (s : State) (i : SplitIssue) (w : CoreWords) : Bool := (s.hand i.hand).readQ (Lanes.lowest (s.acting i w)) w.nameB

/-- The active lanes that read another value. -/
def otherVotes (s : State) (i : SplitIssue) (w : CoreWords) : Lanes :=
  Lanes.of (fun t => (s.acting i w).has t && (s.hand i.hand).readQ t w.nameB != voteOf s i w)

/-- The lanes agree. -/
def VotesAgree (s : State) (i : SplitIssue) (w : CoreWords) : Prop := ∀ l ∈ (s.acting i w).list, (s.hand i.hand).readQ l w.nameB = voteOf s i w

theorem otherVotes_of_agree (ha : VotesAgree s i w) : ¬ (otherVotes s i w != 0) = true := by
  have hnone : (fun t => (s.acting i w).has t && (s.hand i.hand).readQ t w.nameB != voteOf s i w) = fun _ => false := by
    funext t
    cases ht : (s.acting i w).has t with
    | false => rfl
    | true => simp [ha t (List.mem_filter.mpr ⟨List.mem_range.mpr (BitVec.lt_of_getLsbD ht), ht⟩)]
  rw [otherVotes, hnone]
  decide

include h

theorem execResolve_differs (hd : otherVotes s i w ≠ 0) :
    execResolve w s = .next (s.faulted i w (i.fault (s.acting i w) 0x03 0 (if voteOf s i w then 1 else 0) (otherVotes s i w))) :=
  execCore_trap h (if_pos (bne_iff_ne.mpr hd))

section
variable (ha : VotesAgree s i w) (hp : (s.hand i.hand).pair ≠ 2)
include ha hp

/-- A token that names no OPEN entry of the launch: nothing happens. -/
theorem execResolve_closed
    (hn : ∀ e, s.token? (s.hand i.hand).lid ((s.hand i.hand).schedC w.nameA) = some e → e.state ≠ 1) :
    execResolve w s = .next (s.finish i w 0 true s) := by
  refine execCore_ok h rfl ((if_neg (otherVotes_of_agree ha)).trans ((if_neg hp).trans ?_))
  dsimp only
  split
  · rfl
  · next e he => exact if_pos (bne_iff_ne.mpr (hn e he))

/-- An OPEN one settles, and its resolution goes to every die. -/
theorem execResolve_open {e : Token} (he : s.token? (s.hand i.hand).lid ((s.hand i.hand).schedC w.nameA) = some e) (ho : e.state = 1) :
    execResolve w s = .next (s.finish i w 0 true
      { s.settleToken ((s.hand i.hand).schedC w.nameA) e.idx (voteOf s i w) with
        resolutions := s.resolutions ++ (List.range 4).map (fun j =>
          { die := j, token := (s.hand i.hand).schedC w.nameA, outcome := voteOf s i w, hand := i.hand, order := (s.hand i.hand).nextId }) }) := by
  refine execCore_ok h rfl ((if_neg (otherVotes_of_agree ha)).trans ((if_neg hp).trans ?_))
  dsimp only
  rw [he]
  refine (if_neg (by simp [ho])).trans ?_
  simp only [State.settleToken, updWhere, decide_eq_true_eq]
  rfl

end

theorem execLkset_answers (hr : Readable s i (s.acting i w) [(w.hA, .move)] [] []) :
    execLkset w s = .next (s.finish i w 0 true
      (s.answer i (s.acting i w) [uniformDst (.k w.nameD) 0 (BitVec.ofNat 64 ((s.uniAt i w w.nameA).toNat % 2 ^ 16))] [])) := by
  have hv (a : DWord) : BitVec.ofNat 64 (a.toNat % 2 ^ 16) = (a.setWidth 16 : BitVec 16).zeroExtend 64 := by
    apply BitVec.eq_of_toNat_eq
    simp only [BitVec.truncate_eq_setWidth, BitVec.toNat_setWidth, BitVec.toNat_ofNat]
  rw [hv]
  exact execCore_ok h rfl (withRegs_noLr hr)

theorem execLkget_answers :
    execLkget w s = .next (s.finish i w 0 false
      (s.answer i (s.acting i w) [uniformDst (.h w.nameD) 2 (((s.hand i.hand).schedK w.nameA).zeroExtend 64)] [])) :=
  execCore_ok h rfl rfl

section
variable (hr : Readable s i (s.acting i w) [(w.hA, .move)] [] [])
include hr

theorem execSegq_past (hz : s.uniAt i w w.nameA >>> 30 ≠ 0) :
    execSegq w s = .next (s.faulted i w (i.fault (s.acting i w) 0x0A 0 (s.uniAt i w w.nameA) (s.acting i w))) :=
  execCore_trap h ((withRegs_noLr hr).trans (if_pos (bne_iff_ne.mpr hz)))

theorem execSegq_asks (hz : s.uniAt i w w.nameA >>> 30 = 0) :
    execSegq w s = .next (s.finish i w 0 false (s.addOutst i.hand (s.acting i w)
      (.segq (getField (s.uniAt i w w.nameA) 28 2) (getField (s.uniAt i w w.nameA) 16 12)) [pendingDst (.h w.nameD) 0] 0 0)) :=
  execCore_ok h rfl ((withRegs_noLr hr).trans (if_neg (by simpa using hz)))

end

end

/-- Settles O44: a spawn's work is what `spawnWork` says, a free entry of the die becomes the token of `cond`, and `resolve` settles the one entry
that its token names. -/
theorem speculationIssues : Obligations.SpeculationIssues := by
  intro s i w h
  refine ⟨fun r hr hread => ?_, fun hp hf hd => ?_, ⟨fun d hd hne => ?_, fun ha hp => ⟨fun hn => ?_, fun e he ho => ?_⟩⟩, fun hr => ?_, ?_,
    fun hr => ⟨fun hz => ?_, fun hz => ?_⟩⟩
  · have sends := spawnOp_sends h r.2 hread
    simp only [spawnRows, List.mem_cons, List.not_mem_nil, or_false] at hr
    obtain rfl | rfl | rfl | rfl | rfl := hr <;> exact sends
  · obtain ⟨e, hnone, hsome, hopen⟩ := newToken_token? s (s.hand i.hand).lid hd hf
    exact ⟨_, _, e, execCond_gives h hp, newToken_dies _ _ _, hnone, hsome, hopen⟩
  · subst hd
    exact execResolve_differs h hne
  · exact execResolve_closed h ha hp hn
  · exact ⟨_, execResolve_open h ha hp he ho, rfl, rfl, token?_settleToken he _⟩
  · exact execLkset_answers h hr
  · exact execLkget_answers h
  · exact execSegq_past h hr hz
  · exact execSegq_asks h hr hz

end Sys2Proof.Machine
end

section
/-!
PROOFS. Spawn entries, `segq`, resolutions and commits take their steps (O45).
-/
namespace Sys2Proof.Machine

section
variable {s : State}

/-! ## Spawn entries (R99 to R102) -/

section
variable {h : Hand} {d : Nat} {entry : DWord} {args : List DWord} {token : Option Word} {pol : Bool} {own : BitVec 16} {pred : Bool} {pidx : Nat}
  {rng : Bool} {view : View} {parent : Option (Nat × Nat × Word)}

/-- The token of an entry as its Deck sees it; 0 also for an entry without one (R96). -/
def State.tokenSeen (s : State) (d : Nat) (lid : Word) : Option Word → BitVec 2
  | none => 0
  | some t => s.tokenAt d lid t

/-- A token that names no entry of the launch: status 2. -/
theorem enterSeg_noToken (ht : token.isSome = true) (hz : s.tokenSeen d h.lid token = 0) :
    s.enterSeg h d entry args token pol own pred pidx rng view parent = (2 + d * 2 ^ 28, s) :=
  if_pos (Bool.and_eq_true_iff.mpr ⟨ht, beq_iff_eq.mpr hz⟩)

/-- A Deck whose entries are all taken: status 1. -/
theorem enterSeg_full (ht : ¬ (token.isSome = true ∧ s.tokenSeen d h.lid token = 0)) (hfull : ∀ j, j < 4096 → ∃ e ∈ (s.die d).deck, e.idx = j) :
    s.enterSeg h d entry args token pol own pred pidx rng view parent = (1 + d * 2 ^ 28, s) := by
  have hne : ¬ (token.isSome && s.tokenSeen d h.lid token == 0) = true := by simpa using ht
  exact (if_neg hne).trans (if_pos (le_lowestFree _ fun j hj => List.mem_map.mpr (hfull j hj)))

/-- A token that is settled the other way: status 3. -/
theorem enterSeg_refuted (hr : s.tokenSeen d h.lid token = 2 ∧ pol = false ∨ s.tokenSeen d h.lid token = 3 ∧ pol = true)
    (he : (s.die d).deck = []) : s.enterSeg h d entry args token pol own pred pidx rng view parent = (3 + d * 2 ^ 28, s) := by
  have hne : ¬ (token.isSome && s.tokenSeen d h.lid token == 0) = true := by
    obtain ⟨hs, -⟩ | ⟨hs, -⟩ := hr <;> simp [hs]
  have hlow : ¬ 4096 ≤ lowestFree ((s.die d).deck.map Seg.idx) ((s.die d).deck.map Seg.idx).length 0 := by
    rw [he]
    decide
  refine (if_neg hne).trans ((if_neg hlow).trans (if_pos ?_))
  obtain ⟨hs, hp⟩ | ⟨hs, hp⟩ := hr
  · have h2 : (s.tokenSeen d h.lid token == 2 && !pol) = true := by rw [hs, hp]; decide
    exact Bool.or_eq_true_iff.mpr (.inl (Bool.or_eq_true_iff.mpr (.inl h2)))
  · have h3 : (s.tokenSeen d h.lid token == 3 && pol) = true := by rw [hs, hp]; decide
    exact Bool.or_eq_true_iff.mpr (.inl (Bool.or_eq_true_iff.mpr (.inr h3)))

/-- With no older store and nothing earlier of its hand on its way to the Deck, the entry gets there, and its status returns. -/
theorem execSpawnEntryArrival_enters {o : Outst} {seqs : List (Nat × Nat)}
    (ho : (s.hand s.args.n).outst.find? (fun o => o.id = s.args.m && !o.returned) = some o)
    (hw : o.work = .spawn d entry args token pol own pred pidx rng seqs parent)
    (hold : ∀ q ∈ seqs, ((s.hand s.args.n).thread q.1).older q.2 = []) (hearly : s.deckEarlier (s.hand s.args.n) d o.id = false) :
    let entered := s.enterSeg (s.hand s.args.n) d entry args token pol own pred pidx rng
      (seqs.foldl (fun v q => View.join v ((s.hand s.args.n).thread q.1).view) []) parent
    execSpawnEntryArrival s = .next ((entered.2.updOutst s.args.n o.id (fun o =>
      { o with dsts := o.dsts.map (fun d => { d with vals := (uniformDst d.dst 2 (BitVec.ofNat 64 entered.1)).vals }) })).deliverResult s.args.n o.id) := by
  have hdrained : seqs.all (fun q => (((s.hand s.args.n).thread q.1).older q.2).isEmpty) = true :=
    List.all_eq_true.mpr fun q hq => List.isEmpty_iff.mpr (hold q hq)
  simp only [execSpawnEntryArrival, ho, hw, hdrained, hearly]
  rfl

end

/-! ## `segq` (R385) -/

section
variable {o : Outst} {d idx : Nat} (ho : (s.hand s.args.n).outst.find? (fun o => o.id = s.args.m) = some o) (hr : o.returned = false)
  (hw : o.work = .segq d idx)
include ho

theorem id_of_outst : o.id = s.args.m := of_decide_eq_true (List.find?_some (p := fun (o : Outst) => decide (o.id = s.args.m)) ho)

include hr hw

/-- An earlier spawn or resolution of the hand has not reached the Deck: `segq` waits. -/
theorem execResultReturn_segq_waits (hearly : s.deckEarlier (s.hand s.args.n) d o.id = true) : execResultReturn s = .next s := by
  rw [id_of_outst ho] at hearly
  simp only [execResultReturn, ho, hr, hw, hearly, Bool.false_eq_true, if_false, if_true]

theorem execResultReturn_segq_reads (hearly : s.deckEarlier (s.hand s.args.n) d o.id = false) :
    execResultReturn s = .next ((s.updOutst s.args.n o.id (fun o =>
      { o with dsts := o.dsts.map (fun x => { x with vals := (uniformDst x.dst 0 (s.segWord (s.hand s.args.n) d idx)).vals }) })).deliverResult
        s.args.n o.id) := by
  rw [id_of_outst ho] at hearly ⊢
  simp only [execResultReturn, ho, hr, hw, hearly, Bool.false_eq_true, if_false]

end

/-! ## Resolutions (R110, R113) -/

/-- Nothing that its hand sent earlier to the die is still on its way. -/
def State.reaches (s : State) (d : Nat) (r : Resolution) : Bool :=
  r.die = d && !(s.hand r.hand).outst.any (fun o => !o.returned && o.id < r.order &&
    (match o.work with
    | .spawn x _ _ _ _ _ _ _ _ _ _ => x == d
    | .segq x _ => x == d
    | _ => false))

/-- The sites and polarities of segments, each once. -/
def sitesOf (direct : List Seg) : List (Nat × Bool) :=
  direct.foldl (fun acc e => if acc.contains (e.pidx, e.pol) then acc else acc ++ [(e.pidx, e.pol)]) []

/-- A segment of a resolved token's polarity has factor 1; one of the other polarity is pruned. -/
def State.resolveSeg (s : State) (d : Nat) (r : Resolution) (e : Seg) : State :=
  if e.pol = r.outcome then s.updSeg (d, e.idx) (fun e => { e with own := 0x8000 }) else s.pruneSeg (d, e.idx)

/-- The segments that depend on a token directly. -/
def State.dependents (s : State) (d : Nat) (t : Word) : List Seg := (s.die d).deck.filter (fun e => e.token == t)

/-- The oldest resolution that can reach the die is applied. -/
theorem execResolutionApply_applies {r : Resolution} (hr : s.resolutions.find? (s.reaches s.args.n) = some r) :
    let d := s.args.n
    let s1 : State := { s with resolutions := s.resolutions.filter (fun x => !(x.die = d && x.token == r.token)) }
    let s2 := (sitesOf (s.dependents d r.token)).foldl (fun s x => s.updPredictor d x.1 (x.2 == r.outcome)) s1
    execResolutionApply s = .next ((s.dependents d r.token).foldl (fun s e => s.resolveSeg d r e) s2).settle := by
  rw [execResolutionApply]
  dsimp only
  split
  · next hn => cases hn.symm.trans hr
  · next hs =>
    obtain rfl := Option.some.inj (hs.symm.trans hr)
    simp only [beq_iff_eq]
    rfl

/-! ## Commits (R110, R183) -/

/-- The oldest store of a region drains once its ancestors' regions have: it is written, and shown to the segments that have to see it. -/
theorem execCommitDrain_drains {e : Seg} {t : Nat} {x : StoreEntry} {rest : List (Nat × StoreEntry)}
    (he : s.seg? (s.args.n, s.args.m) = some e) (hx : e.region = (t, x) :: rest) (hd : e.draining = true) (ha : s.ancestorsDrained e = true)
    (hh : e.hand = none) :
    let p := (s.args.n, s.args.m)
    let s1 := (s.updSeg p (fun e => { e with region := rest, drained := e.drained + 1 })).storeWord
      p.1 x.word x.mask x.data [] 0 (default : Hand).party
    let s2 := s1.showStore p e.seq e.drained x.word (s1.lastIdx x.word)
    execCommitDrain s = .next (if rest = [] then s2.settle else s2) := by
  simp only [execCommitDrain, he, hx, hd, ha, hh, List.isEmpty_iff]
  rfl

end

/-- Settles O45: each clause is the equation of its step; the statuses of an arrival are the branches of `State.enterSeg`. -/
theorem speculationSteps : Obligations.SpeculationSteps := by
  intro s
  refine ⟨fun o d entry args token pol own pred pidx rng seqs parent ho hw hold hearly =>
      ⟨?_, fun ht hz => ?_, fun ht _ hfull => ?_, fun _ hr he => ?_⟩,
    fun o d idx ho hr hw => ⟨fun hearly => ?_, fun hearly v hv => ?_⟩, fun r hr direct pairs s1 s2 s3 h1 h2 h3 h4 h5 => ?_,
    fun e t x rest he hx hd ha hh s1 h1 => ?_⟩
  · exact execSpawnEntryArrival_enters ho hw hold hearly
  · exact enterSeg_noToken ht hz
  · exact enterSeg_full ht hfull
  · exact enterSeg_refuted hr he
  · exact execResultReturn_segq_waits ho hr hw hearly
  · subst hv
    exact execResultReturn_segq_reads ho hr hw hearly
  · subst h1 h2 h3 h4 h5
    exact execResolutionApply_applies hr
  · subst h1
    exact execCommitDrain_drains he hx hd ha hh

end Sys2Proof.Machine
end

section
/-!
PROOFS. Masks of lanes: which lanes they hold.
-/
namespace Sys2Proof

/-! ## Lane masks -/

theorem Lanes.mem_list {m : Lanes} {t : Nat} : t ∈ m.list ↔ m.has t = true := by
  rw [Lanes.list, List.mem_filter, allLanes, List.mem_range]
  exact ⟨And.right, fun h => ⟨BitVec.lt_of_getLsbD h, h⟩⟩

theorem Lanes.has_one (a t : Nat) : (Lanes.one a).has t = (decide (t < 32) && decide (t = a)) := by
  have h1 : (1 : BitVec 32).getLsbD (t - a) = decide (t - a = 0) := BitVec.getLsbD_one.trans (by simp)
  rw [Lanes.one, Lanes.has, BitVec.getLsbD_shiftLeft, h1, Bool.eq_iff_iff]
  simp only [Bool.and_eq_true, Bool.not_eq_true', decide_eq_true_eq, decide_eq_false_iff_not]
  omega

/-- A mask put together from the lanes below `n`. -/
theorem Lanes.has_foldl_one (p : Nat → Bool) (t n : Nat) (hn : n ≤ 32) :
    ((List.range n).foldl (fun m j => if p j then m ||| Lanes.one j else m) (0 : Lanes)).has t = (decide (t < n) && p t) := by
  induction n with
  | zero => simp [Lanes.has]
  | succ n ih =>
    rw [List.range_succ, List.foldl_append, List.foldl_cons, List.foldl_nil]
    have hs : ((if p n then (List.range n).foldl (fun m j => if p j then m ||| Lanes.one j else m) (0 : Lanes) ||| Lanes.one n
        else (List.range n).foldl (fun m j => if p j then m ||| Lanes.one j else m) (0 : Lanes)).has t) =
        ((decide (t < n) && p t) || (p n && decide (t = n))) := by
      cases hp : p n
      · simpa using ih (by omega)
      · have hlt : (decide (t < 32) && decide (t = n)) = decide (t = n) := by
          rw [Bool.and_eq_right_iff_imp, decide_eq_true_eq, decide_eq_true_eq]
          omega
        rw [if_pos rfl, Lanes.has, BitVec.getLsbD_or, ← Lanes.has, ← Lanes.has, ih (by omega), Lanes.has_one, hlt, Bool.true_and]
    rw [hs]
    by_cases e : t = n
    · simp [e]
    · have : (t < n + 1) = (t < n) := propext (by omega)
      simp [e, this]

theorem Lanes.has_of (p : Nat → Bool) (t : Nat) : (Lanes.of p).has t = (decide (t < 32) && p t) :=
  Lanes.has_foldl_one p t 32 le_rfl

@[simp] theorem Lanes.has_or (a b : Lanes) (t : Nat) : (a ||| b).has t = (a.has t || b.has t) := BitVec.getLsbD_or

@[simp] theorem Lanes.has_and (a b : Lanes) (t : Nat) : (a &&& b).has t = (a.has t && b.has t) := BitVec.getLsbD_and

@[simp] theorem Lanes.has_not (a : Lanes) (t : Nat) : (~~~a).has t = (decide (t < 32) && !a.has t) := BitVec.getLsbD_not

@[simp] theorem Lanes.has_zero (t : Nat) : (0 : Lanes).has t = false := BitVec.getLsbD_zero

theorem Lanes.and_not_zero (m : Lanes) : m &&& ~~~(0 : Lanes) = m := by
  rw [show ~~~(0 : Lanes) = BitVec.allOnes 32 by decide, BitVec.and_allOnes]

theorem Lanes.lt_of_has {m : Lanes} {t : Nat} (h : m.has t = true) : t < 32 := BitVec.lt_of_getLsbD h

theorem Lanes.eq_zero_iff {m : Lanes} : m = 0 ↔ ∀ t, m.has t = false :=
  ⟨fun h t => h ▸ Lanes.has_zero t, fun h => BitVec.eq_of_getLsbD_eq fun t _ => (h t).trans (Lanes.has_zero t).symm⟩

end Sys2Proof
end

section
/-!
PROOFS. The issue of a slot runs what is decoded at its lowest PC (O18), and outstanding results are performed and return (O26).
-/
namespace Sys2Proof.Machine

/-! ## The issue of a slot (R115, R246, R265) -/

section
variable {s s1 s2 : State} {c k hk : Nat} {pc : DWord} {lanes : Lanes} {uni : Uniform} {second : Bool} {w0 : Word} {ws : List Word}

/-- The split that an issue names, with the address that it goes on at. -/
def issuedSplit (c k hk : Nat) (pc : DWord) (lanes : Lanes) (uni : Uniform) (second : Bool) (w0 : Word) (next : DWord) : SplitIssue :=
  { core := c, slot := k, hand := hk, pc := pc, next := next, lanes := lanes, uni := uni, word0 := w0, second := second }

section
variable (h1 : s.fetchWord c (s.hand hk).asid pc pc = .ok w0 s1)
  (h2 : State.fetchWords c (s.hand hk).asid pc (lenWords w0 - 1) (pc + 4) s1 [w0] = .ok (ws, s2))
include h1 h2

theorem issueSplit_decoded {i : Instr} (hd : decodeIn s2 (s.hand hk).part pc ws = .ok i) :
    issueSplit s c k hk pc lanes uni second =
      .run i { s2 with cur := some (.split (issuedSplit c k hk pc lanes uni second w0 (nextOf pc ws i))) } := by
  simp only [issueSplit, h1, h2, hd, issuedSplit]

theorem issueSplit_noInstruction {code : BitVec 8} (hd : decodeIn s2 (s.hand hk).part pc ws = .error code) :
    issueSplit s c k hk pc lanes uni second =
      .run (.encodingNotInstruction code w0) { s2 with cur := some (.split (issuedSplit c k hk pc lanes uni second w0 pc)) } := by
  simp only [issueSplit, h1, h2, hd, issuedSplit]

end

/-- The split of the other fetch port, kept for the slot's next turn: the threads at the second lowest PC, unless the run ends before,
or both instructions are of the paired classes (R115 to R117). -/
def State.otherPort (s : State) (c k hk : Nat) (pc : DWord) : Option Second :=
  let h := s.hand hk
  let others := h.voting &&& ~~~(h.at h.voting pc)
  match h.lowestPc others with
  | none => none
  | some pc' =>
    if (s.slot c k).count + 2 > 24 then none
    else if pairedAt s h pc && pairedAt s h pc' then none
    else some { pc := pc', lanes := h.at others pc', uni := h.uni }

/-- A slot whose hand has no trap, interrupt or back edge to take issues the threads at the lowest PC. -/
theorem prepareIssue_issues (hc : s.coreStops c = false) (hh : (s.slot c k).hand = some hk) (hn : (s.slot c k).second = none)
    (hr : (s.hand hk).state = .running)
    (ht : (s.slot c k).count ≠ 0 ∨ (s.hand hk).pendTrap = none ∧ (s.hand hk).takesInterrupt = false)
    (hd : (s.hand hk).dueLevel = none) (hp : (s.hand hk).lowestPc (s.hand hk).voting = some pc) :
    prepareIssue s c k = issueSplit (s.updSlot c k (fun y => { y with second := s.otherPort c k hk pc })) c k hk pc
      ((s.hand hk).at (s.hand hk).voting pc) (s.hand hk).uni false := by
  have hnot : ¬ ((s.slot c k).count = 0 ∧ ((s.hand hk).pendTrap.isSome || (s.hand hk).takesInterrupt) = true) := by
    rintro ⟨h0, h1⟩
    obtain ht | ⟨ht, hi⟩ := ht
    · exact ht h0
    · simp [ht, hi] at h1
  simp only [prepareIssue, hh, hr, hc, hn, hd, hp, if_neg hnot, bne_self_eq_false, Bool.or_self, Bool.false_eq_true, if_false]
  rfl

end

/-- Settles O18: the turn of the slot is prepared as the issue of its lowest PC, and then executed as any admitted turn. -/
theorem stepRunsDecoded : Obligations.StepRunsDecoded := by
  intro s s1 s2 c k hk rest pc w0 ws s0 h lanes others second split ha hr hc hh hn hs ht hd hp sx h1 h2
  have hprep : prepare (s.begun rest) (.issue c k) = issueSplit sx c k hk pc lanes h.uni false :=
    prepareIssue_issues hc hh hn hs ht hd hp
  exact ⟨fun i hi => step_admitted ha (admits_running hr) (hprep.trans (issueSplit_decoded h1 h2 hi)),
    fun code hi => step_admitted ha (admits_running hr) (hprep.trans (issueSplit_noInstruction h1 h2 hi))⟩

/-! ## RESULT_RETURN (R119, R170, R173, R184) -/

section
variable {s : State} {o : Outst} (ho : (s.hand s.args.n).outst.find? (fun o => o.id = s.args.m) = some o) (hr : o.returned = false)
include ho hr

/-- The lanes of a load that a step performs: those that it names, that are not back, and that wait for nothing. -/
def State.readyLanes (s : State) (o : Outst) (ls : List LoadLane) : List LoadLane :=
  ls.filter (fun l => s.args.lanes.has l.lane && !o.back.has l.lane && l.win.isNone && s.answered s.args.n s.args.m l.lane)

theorem execResultReturn_delivers (hw : o.work = .value ∨ o.work = .sent) :
    execResultReturn s = .next (s.deliverResult s.args.n s.args.m) := by
  obtain hw | hw := hw <;> simp only [execResultReturn, ho, hr, hw, Bool.false_eq_true, if_false]

theorem execResultReturn_load {n : Nat} {fmt acq} {ls : List LoadLane} (hw : o.work = .load n fmt acq ls) :
    execResultReturn s = .next ((performLanes (fun s' l p => s'.performLane s.args.n s.args.m n fmt acq l p) (s.readyLanes o ls)
      s.args.picks s).returnIfDone s.args.n s.args.m) := by
  simp only [execResultReturn, ho, hr, hw, Bool.false_eq_true, if_false, State.readyLanes]

theorem execResultReturn_inv {n : Nat} {fmt} {ls : List LoadLane} (hw : o.work = .inv n fmt ls) :
    execResultReturn s = .next ((performLanes (fun s' l p => s'.performInv s.args.n s.args.m n fmt l p) (s.readyLanes o ls)
      s.args.picks s).returnIfDone s.args.n s.args.m) := by
  simp only [execResultReturn, ho, hr, hw, Bool.false_eq_true, if_false, State.readyLanes]

theorem execResultReturn_fence {scope} {ls : List (Nat × Nat)} (hw : o.work = .fence scope ls) :
    execResultReturn s = .next (((ls.filter (fun l => s.args.lanes.has l.1 && !o.back.has l.1)).foldl
      (fun s' l => s'.performFence s.args.n s.args.m scope l) s).returnIfDone s.args.n s.args.m) := by
  simp only [execResultReturn, ho, hr, hw, Bool.false_eq_true, if_false]

end

/-- Settles O26: each clause is the equation of RESULT_RETURN for one kind of work. -/
theorem resultsReturn : Obligations.ResultsReturn := by
  intro s o k id ho hr ready
  exact ⟨execResultReturn_delivers ho hr, fun _ _ _ _ => execResultReturn_load ho hr, fun _ _ _ => execResultReturn_inv ho hr,
    fun _ _ => execResultReturn_fence ho hr⟩

end Sys2Proof.Machine
end

section
/-!
PROOFS. The loop instructions (O10).
-/
namespace Sys2Proof.Machine

/-! ## A fault of an issuing instruction -/

/-- The body finds a fault after steps that it keeps, unless another instruction of the cycle has trapped. -/
theorem execCore_trapAfter {s s' : State} {i : SplitIssue} {w : CoreWords} {kind : Kind} {body : SplitIssue → Lanes → State → Done} {t : TrapInfo}
    (h : Issues s i w) (hb : body i (s.acting i w) s = .trap s' t) :
    execCore kind w s body = .next ((if (s.hand i.hand).pendTrap.isSome then s else s').faulted i w t) := by
  obtain ⟨-, -, hs, -⟩ := id h
  rw [execCore_issues h, hb]
  simp only [hs, Bool.false_or]

/-! ## `loop` (R135, R304) -/

section
variable (s : State) (i : SplitIssue) (w : CoreWords)

/-- The word of the trip count's register is read only outside until mode, and when no literal gives it. -/
def loopReadsTrip (w : CoreWords) : Bool := !(w.f2 23 1 == 1) && !(w.f2 28 1 == 1)

/-- The address of END. -/
def loopEnd (i : SplitIssue) (w : CoreWords) : DWord := i.pc + BitVec.ofNat 64 (4 * w.f2 0 16)

/-- The trip count. -/
def State.loopTrip : Nat :=
  if w.f2 23 1 == 1 then 0 else if w.f2 28 1 == 1 then bits w.litVal.toNat 0 32 else (s.uniAt i w w.nameA).toNat

/-- The level that `loop` declares when the word at END is `word`. -/
def State.loopLevel (word : Word) : Level :=
  { start := i.next, end_ := loopEnd i w, trip := BitVec.ofNat 32 (s.loopTrip i w), pass := 0, memb := s.acting i w, edge := 0,
    base := BitVec.ofNat 6 w.nameD, rsize := BitVec.ofNat 4 (w.f2 16 4), s := BitVec.ofNat 3 (w.f2 20 3), stg := 1,
    depth := BitVec.ofNat 5 ((s.hand i.hand).depthOf (Lanes.lowest (s.acting i w))), until_ := w.f2 23 1 == 1,
    uq := BitVec.ofNat 4 (w.f2 24 4), valid := true, order := 0, nextEnd := loopEnd i w + BitVec.ofNat 64 (4 * lenWords word) }

end

/-- What the body of `loop` does once the word at END is there, in `s'` (R135, R304). -/
def State.loopDone (s s' : State) (i : SplitIssue) (w : CoreWords) (word : Word) : Done :=
  match loopRow (s.hand i.hand) (s.acting i w) (s.loopLevel i w word) (s.loopTrip i w) with
  | some row => .trap s' (i.faultW (s.acting i w) (if row ≤ 5 then 0x06 else 0x07) (BitVec.ofNat 16 row))
  | none =>
    if !(w.f2 23 1 == 1) && s.loopTrip i w == 0 then
      .moved (s'.updHand i.hand (fun h => h.goto (s.acting i w) (fun _ => (s.loopLevel i w word).nextEnd))) (s.acting i w)
    else .ok (s'.updHand i.hand (fun h => h.declare (s.loopLevel i w word)))

section
variable {s s' : State} {i : SplitIssue} {w : CoreWords} {word : Word}

theorem execLoop_body (hr : Readable s i (s.acting i w) (if loopReadsTrip w then [(w.hA, .move)] else []) [] [])
    (hf : s.fetchWord i.core (s.hand i.hand).asid (loopEnd i w) (loopEnd i w) = .ok word s') :
    ∃ body, execLoop w s = execCore {} w s body ∧ body i (s.acting i w) s = s.loopDone s' i w word := by
  refine ⟨_, rfl, (withRegs_noLr hr).trans ?_⟩
  simp only [loopEnd] at hf
  simp only [hf]
  rfl

variable (h : Issues s i w)
  (hr : Readable s i (s.acting i w) (if loopReadsTrip w then [(w.hA, .move)] else []) [] [])
  (hf : s.fetchWord i.core (s.hand i.hand).asid (loopEnd i w) (loopEnd i w) = .ok word s')
include h hr hf

/-- A row of R135 applies: its fault is raised, and no level is declared. -/
theorem execLoop_faults {row : Nat} (hrow : loopRow (s.hand i.hand) (s.acting i w) (s.loopLevel i w word) (s.loopTrip i w) = some row) :
    execLoop w s = .next ((if (s.hand i.hand).pendTrap.isSome then s else s').faulted i w
      (i.faultW (s.acting i w) (if row ≤ 5 then 0x06 else 0x07) (BitVec.ofNat 16 row))) := by
  obtain ⟨body, he, hb⟩ := execLoop_body hr hf
  rw [he]
  exact execCore_trapAfter h (hb.trans (by simp only [State.loopDone, hrow]))

section
variable (hrow : loopRow (s.hand i.hand) (s.acting i w) (s.loopLevel i w word) (s.loopTrip i w) = none)
include hrow

theorem execLoop_declares (ht : s.loopTrip i w ≠ 0 ∨ (w.f2 23 1 == 1) = true) :
    execLoop w s = .next (s.finish i w 0 false (s'.updHand i.hand (fun h => h.declare (s.loopLevel i w word)))) := by
  have hgo : (!(w.f2 23 1 == 1) && s.loopTrip i w == 0) = false := by
    obtain ht | ht := ht <;> simp [ht]
  obtain ⟨body, he, hb⟩ := execLoop_body hr hf
  rw [he]
  exact execCore_ok h rfl (hb.trans (by simp only [State.loopDone, hrow, hgo, Bool.false_eq_true, if_false]))

theorem execLoop_goesPast (ht : s.loopTrip i w = 0) (hu : (w.f2 23 1 == 1) = false) :
    execLoop w s = .next (s.finish i w (s.acting i w) false
      (s'.updHand i.hand (fun h => h.goto (s.acting i w) (fun _ => (s.loopLevel i w word).nextEnd)))) := by
  have hgo : (!(w.f2 23 1 == 1) && s.loopTrip i w == 0) = true := by simp [ht, hu]
  obtain ⟨body, he, hb⟩ := execLoop_body hr hf
  rw [he]
  exact execCore_moved h (hb.trans (by simp only [State.loopDone, hrow, hgo, if_true]))

end

end

/-! ## `lbrk`, `lnext` and `lend` (R141, R305) -/

section
variable (s : State) (i : SplitIssue) (w : CoreWords)

/-- The issuing lanes that are members of a level at their depth. -/
def State.loopMembers : Lanes := Lanes.of (fun t => (s.acting i w).has t && ((s.hand i.hand).memberOf t).isSome)

/-- A lane is one of them, and its innermost level is `l`. -/
def State.loopMine (l : Level) (t : Nat) : Bool := (s.loopMembers i w).has t && ((s.hand i.hand).memberOf t).any (fun m => m.order == l.order)

/-- The address after the END of a thread's innermost level. -/
def Hand.pastLoop (h : Hand) (t : Nat) : DWord := ((h.memberOf t).getD default).nextEnd

/-- The depths at which they stand. -/
def State.loopDepths : List Nat :=
  (List.range 32).filter (fun d => (s.acting i w).list.any (fun t => (s.hand i.hand).depthOf t == d && ((s.hand i.hand).memberOf t).isSome))

end

section
variable {s : State} {i : SplitIssue} {w : CoreWords} (h : Issues s i w)
include h

/-- In trap mode the three instructions only retire. -/
theorem loopExits_inTrap (ht : (s.hand i.hand).inTrap = true) : execLbrk w s = .next (s.finish i w 0 false s) ∧
    execLnext w s = .next (s.finish i w 0 false s) ∧ execLend w s = .next (s.finish i w 0 false s) :=
  ⟨execCore_ok h rfl (if_pos ht), execCore_ok h rfl (if_pos ht), execCore_ok h rfl (if_pos ht)⟩

section
variable (ht : (s.hand i.hand).inTrap = false)
include ht

theorem execLbrk_leaves : execLbrk w s = .next (s.finish i w (s.loopMembers i w) false (s.updHand i.hand (fun x =>
    (x.leaveLevels (s.loopMine i w)).goto (s.loopMembers i w) (s.hand i.hand).pastLoop))) :=
  execCore_moved h (if_neg (ne_true_of_eq_false ht))

theorem execLnext_holds : execLnext w s = .next (s.finish i w (s.loopMembers i w) false (s.updHand i.hand (fun x =>
    { x.goto (s.loopMembers i w) (s.hand i.hand).pastLoop with
      lc := x.lc.map (fun l => if l.valid then { l with edge := l.edge ||| Lanes.of (s.loopMine i w l) } else l) }))) :=
  execCore_moved h (if_neg (ne_true_of_eq_false ht))

theorem execLend_retires : execLend w s = .next (s.finish i w 0 false (s.updHand i.hand (fun x => (s.loopDepths i w).foldl (fun x d =>
    match innermost x.lc (fun l => l.depth.toNat == d) with
    | some j => x.retireLevel j
    | none => x) x))) :=
  execCore_ok h rfl (if_neg (ne_true_of_eq_false ht))

end

end

/-- Settles O10: each clause is the equation of its instruction. -/
theorem loopInstructions : Obligations.LoopInstructions := by
  refine ⟨fun s s' i w word h => ?_, fun s i w h => ?_⟩
  · intro _ act until_ tripLit end_ next trip l hr hf
    have htrip : s.loopTrip i w = trip := by
      rfl
    have hl : s.loopLevel i w word = l := by
      simp only [State.loopLevel, htrip]
      rfl
    rw [← hl, ← htrip]
    exact ⟨fun row hrow => execLoop_faults h hr hf hrow, fun hrow ht => execLoop_declares h hr hf hrow ht,
      fun hrow ht hu => execLoop_goesPast h hr hf hrow ht hu⟩
  · exact ⟨loopExits_inTrap h, fun ht => ⟨execLbrk_leaves h ht, execLnext_holds h ht, execLend_retires h ht⟩⟩

end Sys2Proof.Machine
end

section
/-!
PROOFS. The checks of an instruction's sources, the rows of the integer instructions, and the faults of their sources (O16).
-/
namespace Sys2Proof.Machine

/-! ## The first of a list of tests that finds something -/

theorem firstSome_eq_none {α β : Type} {f : α → Option β} {l : List α} : firstSome f l = none ↔ ∀ a ∈ l, f a = none := by
  induction l with
  | nil => simp [firstSome]
  | cons a l ih => cases h : f a <;> simp [firstSome, h, ih]

theorem exists_of_firstSome {α β : Type} {f : α → Option β} {l : List α} {b : β} (h : firstSome f l = some b) : ∃ a ∈ l, f a = some b := by
  induction l with
  | nil => simp [firstSome] at h
  | cons a l ih =>
    cases ha : f a with
    | none =>
      obtain ⟨x, hx, e⟩ := ih (by simpa [firstSome, ha] using h)
      exact ⟨x, List.mem_cons_of_mem _ hx, e⟩
    | some c => exact ⟨a, List.mem_cons_self, ha.trans (by simpa [firstSome, ha] using h)⟩

/-- A fold that never loses what it has found finds nothing exactly when no element gives anything. -/
theorem foldl_eq_none {α β : Type} {f : Option β → α → Option β} (hf : ∀ b a, (f (some b) a).isSome = true) (l : List α) :
    l.foldl f none = none ↔ ∀ a ∈ l, f none a = none := by
  have hkeep (l : List α) : ∀ b, (l.foldl f (some b)).isSome = true := by
    induction l with
    | nil => exact fun _ => rfl
    | cons a l ih =>
      intro b
      obtain ⟨c, hc⟩ := Option.isSome_iff_exists.mp (hf b a)
      rw [List.foldl_cons, hc]
      exact ih c
  induction l with
  | nil => simp
  | cons a l ih =>
    rw [List.foldl_cons, List.forall_mem_cons]
    cases h : f none a with
    | none => simp [ih]
    | some b => simpa using Option.isSome_iff_ne_none.mp (hkeep l b)

/-! ## A source that fails a test (R131 to R133) -/

/-- The registers of a source are the same in every lane. -/
theorem reads_names (o : Operand) (h : Hand) (uni : Uniform) (t t' : Nat) :
    (o.reads h uni t).map Prod.fst = (o.reads h uni t').map Prod.fst := by
  cases o <;> rfl

/-- Some active lane reads a register of the source that fails a test. -/
def Operand.Fails (o : Operand) (act : Lanes) (h : Hand) (uni : Uniform) (bad : LaneRead → Bool) : Prop :=
  ∃ t ∈ act.list, ∃ x ∈ o.reads h uni t, bad x.2 = true

theorem firstBad_eq_none {act : Lanes} {h : Hand} {uni : Uniform} {o : Operand} {bad : LaneRead → Bool} :
    firstBad act h uni o bad = none ↔ ¬ o.Fails act h uni bad := by
  have hlanes (n : Nat) : Lanes.of (fun t => act.has t && (o.reads h uni t).any (fun p => decide (p.1 = n) && bad p.2)) = 0 ↔
      ∀ t, act.has t = true → ∀ x ∈ o.reads h uni t, x.1 = n → bad x.2 = false := by
    rw [Lanes.eq_zero_iff]
    refine forall_congr' fun t => ?_
    by_cases ha : act.has t = true
    · simp [Lanes.has_of, ha, Lanes.lt_of_has ha]
    · simp [Lanes.has_of, ha]
  rw [firstBad, foldl_eq_none (fun _ _ => rfl)]
  simp only [beq_iff_eq, ite_eq_left_iff, reduceCtorEq, imp_false, not_not, hlanes]
  constructor
  · rintro hall ⟨t, ht, x, hx, hb⟩
    have hn : x.1 ∈ (o.reads h uni 0).map Prod.fst := reads_names o h uni t 0 ▸ List.mem_map_of_mem hx
    exact absurd hb (by simp [hall x.1 hn t (Lanes.mem_list.mp ht) x hx rfl])
  · intro hno n _ t ht x hx _
    exact Bool.eq_false_iff.mpr fun hb => hno ⟨t, Lanes.mem_list.mpr ht, x, hx, hb⟩

/-! ## The checks of the sources, in their order (R193) -/

section
variable {i : SplitIssue} {act : Lanes} {h : Hand}

theorem poisonOf_eq_none {o : Operand} : poisonOf i act h o = none ↔ ¬ o.Fails act h i.uni LaneRead.poison := by
  rw [poisonOf, Option.map_eq_none_iff, firstBad_eq_none]

theorem mixedOf_eq_none {o : Operand} : mixedOf i act h o = none ↔ ¬ o.Fails act h i.uni (fun r => r.tag == 0xE) := by
  rw [mixedOf, Option.map_eq_none_iff, firstBad_eq_none]

theorem tagmisOf_eq_none {o : Operand} {ok : BitVec 4 → Bool} :
    tagmisOf i act h o ok = none ↔ ¬ o.Fails act h i.uni (fun r => !ok r.tag) := by
  rw [tagmisOf, Option.map_eq_none_iff, firstBad_eq_none]

/-- A fault that a check of a source raises: a fault of the issuing split, with word 0 as its value. -/
def SourceFault (i : SplitIssue) (act : Lanes) (code : BitVec 8) (t : TrapInfo) : Prop :=
  t.code = code ∧ t.kind = 0 ∧ t.pc = i.pc ∧ t.split = act ∧ t.val = i.word0.zeroExtend 64

theorem sourceFault_of_poisonOf {o : Operand} {t : TrapInfo} (ht : poisonOf i act h o = some t) : SourceFault i act 0x12 t := by
  obtain ⟨p, -, rfl⟩ := Option.map_eq_some_iff.mp ht
  exact ⟨rfl, rfl, rfl, rfl, rfl⟩

theorem sourceFault_of_mixedOf {o : Operand} {t : TrapInfo} (ht : mixedOf i act h o = some t) : SourceFault i act 0x05 t := by
  obtain ⟨p, -, rfl⟩ := Option.map_eq_some_iff.mp ht
  exact ⟨rfl, rfl, rfl, rfl, rfl⟩

theorem sourceFault_of_tagmisOf {o : Operand} {ok : BitVec 4 → Bool} {t : TrapInfo} (ht : tagmisOf i act h o ok = some t) :
    SourceFault i act 0x04 t := by
  obtain ⟨p, -, rfl⟩ := Option.map_eq_some_iff.mp ht
  exact ⟨rfl, rfl, rfl, rfl, rfl⟩

/-- Some active lane reads a register of a source that fails a test; with `int`, of a source that is checked to be an integer. -/
def SourceFails (i : SplitIssue) (act : Lanes) (h : Hand) (ops : List (Operand × Check)) (int : Bool) (bad : LaneRead → Bool) : Prop :=
  ∃ o ∈ ops, (int = true → o.2 = .int) ∧ o.1.Fails act h i.uni bad

section
variable {ops : List (Operand × Check)} {f : Operand → Option TrapInfo} {bad : LaneRead → Bool}
  (hf : ∀ o, f o = none ↔ ¬ o.Fails act h i.uni bad)
include hf

theorem firstSome_sources : firstSome (fun p => f p.1) ops = none ↔ ¬ SourceFails i act h ops false bad := by
  rw [firstSome_eq_none]
  simp [SourceFails, hf]

theorem firstSome_ints : firstSome (fun p => f p.1) (ops.filter (fun p => p.2 == .int)) = none ↔ ¬ SourceFails i act h ops true bad := by
  rw [firstSome_eq_none]
  simp only [SourceFails, hf, List.mem_filter, beq_iff_eq, and_imp, not_exists, not_and, forall_const]

end

/-- The four outcomes of the checks, the first that applies: POISON, TAGMIX, TAGMIS, or none (R193). -/
theorem checkSources_cases (i : SplitIssue) (act : Lanes) (h : Hand) (ops : List (Operand × Check)) :
    let poison := SourceFails i act h ops false LaneRead.poison
    let mixed := SourceFails i act h ops true (fun r => r.tag == 0xE)
    let mistag := SourceFails i act h ops true (fun r => !intTag r.tag)
    (poison ∧ ∃ t, checkSources i act h ops = some t ∧ SourceFault i act 0x12 t) ∨
    (¬ poison ∧ mixed ∧ ∃ t, checkSources i act h ops = some t ∧ SourceFault i act 0x05 t) ∨
    (¬ poison ∧ ¬ mixed ∧ mistag ∧ ∃ t, checkSources i act h ops = some t ∧ SourceFault i act 0x04 t) ∨
    (¬ poison ∧ ¬ mixed ∧ ¬ mistag ∧ checkSources i act h ops = none) := by
  intro poison mixed mistag
  have hp := firstSome_sources (ops := ops) (fun o => poisonOf_eq_none (i := i) (act := act) (h := h) (o := o))
  have hm := firstSome_ints (ops := ops) (fun o => mixedOf_eq_none (i := i) (act := act) (h := h) (o := o))
  have hg := firstSome_ints (ops := ops) (fun o => tagmisOf_eq_none (i := i) (act := act) (h := h) (o := o) (ok := intTag))
  cases ep : firstSome (fun p => poisonOf i act h p.1) ops with
  | some t =>
    obtain ⟨o, -, ho⟩ := exists_of_firstSome ep
    exact .inl ⟨not_not.mp (hp.not.mp (by simp [ep])), t, by simp only [checkSources, ep], sourceFault_of_poisonOf ho⟩
  | none =>
    refine .inr ?_
    cases em : firstSome (fun p => mixedOf i act h p.1) (ops.filter (fun p => p.2 == .int)) with
    | some t =>
      obtain ⟨o, -, ho⟩ := exists_of_firstSome em
      exact .inl ⟨hp.mp ep, not_not.mp (hm.not.mp (by simp [em])), t, by simp only [checkSources, ep, em], sourceFault_of_mixedOf ho⟩
    | none =>
      refine .inr ?_
      cases eg : firstSome (fun p => tagmisOf i act h p.1 intTag) (ops.filter (fun p => p.2 == .int)) with
      | some t =>
        obtain ⟨o, -, ho⟩ := exists_of_firstSome eg
        exact .inl ⟨hp.mp ep, hm.mp em, not_not.mp (hg.not.mp (by simp [eg])), t, by simp only [checkSources, ep, em, eg],
          sourceFault_of_tagmisOf ho⟩
      | none => exact .inr ⟨hp.mp ep, hm.mp em, hg.mp eg, by simp only [checkSources, ep, em, eg]⟩

theorem checkSources_eq_none {ops : List (Operand × Check)} : checkSources i act h ops = none ↔
    ¬ SourceFails i act h ops false LaneRead.poison ∧ ¬ SourceFails i act h ops true (fun r => r.tag == 0xE) ∧
      ¬ SourceFails i act h ops true (fun r => !intTag r.tag) := by
  obtain ⟨hp, t, ht, -⟩ | ⟨hp, hm, t, ht, -⟩ | ⟨hp, hm, hg, t, ht, -⟩ | ⟨hp, hm, hg, ht⟩ := checkSources_cases i act h ops
  · exact iff_of_false (by simp [ht]) fun ⟨hn, _⟩ => hn hp
  · exact iff_of_false (by simp [ht]) fun ⟨_, hn, _⟩ => hn hm
  · exact iff_of_false (by simp [ht]) fun ⟨_, _, hn⟩ => hn hg
  · exact iff_of_true ht ⟨hp, hm, hg⟩

theorem checkSources_eq_some {ops : List (Operand × Check)} {t : TrapInfo} (h' : checkSources i act h ops = some t) :
    (SourceFails i act h ops false LaneRead.poison → t.code = 0x12) ∧
    (¬ SourceFails i act h ops false LaneRead.poison → SourceFails i act h ops true (fun r => r.tag == 0xE) → t.code = 0x05) ∧
    (¬ SourceFails i act h ops false LaneRead.poison → ¬ SourceFails i act h ops true (fun r => r.tag == 0xE) → t.code = 0x04) ∧
    t.kind = 0 ∧ t.pc = i.pc ∧ t.split = act ∧ t.val = i.word0.zeroExtend 64 := by
  obtain ⟨hp, t', ht, hs⟩ | ⟨hp, hm, t', ht, hs⟩ | ⟨hp, hm, hg, t', ht, hs⟩ | ⟨-, -, -, ht⟩ := checkSources_cases i act h ops
  · obtain rfl := Option.some.inj (ht.symm.trans h')
    exact ⟨fun _ => hs.1, fun hn => absurd hp hn, fun hn => absurd hp hn, hs.2⟩
  · obtain rfl := Option.some.inj (ht.symm.trans h')
    exact ⟨fun hy => absurd hy hp, fun _ _ => hs.1, fun _ hn => absurd hm hn, hs.2⟩
  · obtain rfl := Option.some.inj (ht.symm.trans h')
    exact ⟨fun hy => absurd hy hp, fun _ hy => absurd hy hm, fun _ _ => hs.1, hs.2⟩
  · rw [ht] at h'
    contradiction

/-- Registers whose sources fail a check are not read: the fault is the instruction's. -/
theorem withRegs_fault {s : State} {ops : List (Operand × Check)} {dsts lr : List Nat} {effect : Hand → State → Done} {t : TrapInfo}
    (ht : checkSources i act (s.hand i.hand) ops = some t) : withRegs i act s ops dsts lr effect = .trap s t := by
  simp only [withRegs, ht]

end

/-! ## The integer instructions (R280 to R283) -/

/-- What an integer instruction does for the lanes of a split: its sources are read under its checks, its last-read bits free their names, and
the result is written into D. -/
def IntRow.body (r : IntRow) (hForm : Bool) (w : CoreWords) (i : SplitIssue) (act : Lanes) (s : State) : Done :=
  withRegs i act s (r.ops hForm w) w.gDst (r.lr hForm w) fun h s => .ok (s.writeD i w act (r.value hForm w h i.uni) (r.tag w))

/-- The instructions of a row have its meaning. -/
def IntRow.Runs (r : IntRow) : Prop := ∀ hForm w s, exec (r.instr hForm w) s = execCore {} w s (r.body hForm w)

/-- A row of which the model makes its shared per-lane shape, with a function that gives the row's result. -/
theorem IntRow.runs_of_laneOp {r : IntRow} (chk : Check) (two three : Bool) (tag : CoreWords → BitVec 4)
    {f : CoreWords → Word → Word → Word → Word} (hf : ∀ w a b c, f w a b c = r.result w a b c)
    (hg : ∀ w s, exec (r.g w) s = laneOp false chk two three tag f w s := by exact fun _ _ => rfl)
    (hh : ∀ w s, exec (r.h w) s = laneOp true chk two three tag f w s := by exact fun _ _ => rfl)
    (hchk : chk = if r.int then .int else .move := by rfl)
    (htwo : two = decide (2 ≤ r.sources) := by rfl) (hthree : three = decide (3 ≤ r.sources) := by rfl)
    (htag : ∀ w, tag w = r.tag w := by exact fun _ => rfl) : r.Runs := by
  intro hForm w s
  have he : exec (r.instr hForm w) s = laneOp hForm chk two three tag f w s := by cases hForm <;> simp [IntRow.instr, hg, hh]
  have hb : (if two = true then w.gB else Operand.lit 0) = r.b w := by simp only [htwo, decide_eq_true_eq, IntRow.b]
  have hc : (if three = true then w.gC else Operand.lit 0) = r.c w := by simp only [hthree, decide_eq_true_eq, IntRow.c]
  rw [he, laneOp]
  simp only [hb, hc, hf, htag, hchk]
  rfl

theorem intRows_run : ∀ r ∈ intRows, r.Runs := by
  have add_num (a b : Word) : a + b = BitVec.ofNat 32 (a.toNat + b.toNat) := by simp [BitVec.ofNat_add]
  have mul_num (a b : Word) : a * b = BitVec.ofNat 32 (a.toNat * b.toNat) := by simp [BitVec.ofNat_mul]
  have sub_num (a b : Word) : a - b = BitVec.ofInt 32 ((a.toNat : Int) - b.toNat) := by
    apply BitVec.eq_of_toNat_eq
    have ha := a.isLt
    have hb := b.isLt
    rw [BitVec.toNat_sub, BitVec.toNat_ofInt]
    omega
  have mad_num (a b c : Word) : a * b + c = BitVec.ofNat 32 (a.toNat * b.toNat + c.toNat) := by simp [BitVec.ofNat_add, BitVec.ofNat_mul]
  simp only [intRows, List.forall_mem_append, List.forall_mem_cons, List.not_mem_nil, false_implies, implies_true, and_true]
  refine ⟨⟨⟨?_, ?_, ?_, ?_, ?_, ?_, ?_⟩, ?_, ?_, ?_, ?_, ?_, ?_, ?_, ?_⟩, ?_, ?_, ?_, ?_, ?_⟩
  · exact IntRow.runs_of_laneOp .int true false typeTag (fun _ a b _ => add_num a b)
  · exact IntRow.runs_of_laneOp .int true false typeTag (fun _ a b _ => sub_num a b)
  · exact IntRow.runs_of_laneOp .int true false typeTag (fun _ a b _ => mul_num a b)
  · exact IntRow.runs_of_laneOp .int true false typeTag (fun w a b _ => mulHigh_num (isUnsigned w) a b)
  · exact IntRow.runs_of_laneOp .int true true typeTag (fun _ a b c => mad_num a b c)
  · exact IntRow.runs_of_laneOp .int true false typeTag (fun w a b _ => min_num (isUnsigned w) a b)
  · exact IntRow.runs_of_laneOp .int true false typeTag (fun w a b _ => max_num (isUnsigned w) a b)
  · exact IntRow.runs_of_laneOp .move true false (fun _ => 0) (f := fun _ a b _ => a &&& b) (fun _ _ _ _ => rfl)
  · exact IntRow.runs_of_laneOp .move true false (fun _ => 0) (f := fun _ a b _ => a ||| b) (fun _ _ _ _ => rfl)
  · exact IntRow.runs_of_laneOp .move true false (fun _ => 0) (f := fun _ a b _ => a ^^^ b) (fun _ _ _ _ => rfl)
  · exact IntRow.runs_of_laneOp .move true false (fun _ => 0) (f := fun _ a b _ => a &&& ~~~b) (fun _ _ _ _ => rfl)
  · exact IntRow.runs_of_laneOp .move true false (fun _ => 0) (fun _ a b _ => shl_num a b)
  · exact IntRow.runs_of_laneOp .move true false (fun _ => 0) (fun _ a b _ => shr_num a b)
  · exact IntRow.runs_of_laneOp .move true false (fun _ => 0) (fun _ a b _ => sar_num a b)
  · exact IntRow.runs_of_laneOp .move true false (fun _ => 0) (fun _ a b _ => rotl_num a b)
  · exact IntRow.runs_of_laneOp .move false false (fun _ => 0) (fun _ a _ _ => clz_num a)
  · exact IntRow.runs_of_laneOp .move false false (fun _ => 0) (fun _ a _ _ => popc_num a)
  · exact IntRow.runs_of_laneOp .move false false (fun _ => 0) (fun _ a _ _ => brev_num a)
  · exact IntRow.runs_of_laneOp .move false false (fun _ => 0) (fun w a _ _ => bfx_num w a)
  · exact IntRow.runs_of_laneOp .move true false (fun _ => 0) (f := fun w a b _ => bfiWord w a b) (fun _ _ _ _ => rfl)

/-- An integer instruction whose sources fail a check has no effect but the fault. -/
theorem IntRow.exec_faults {r : IntRow} (hr : r ∈ intRows) {s : State} {i : SplitIssue} {w : CoreWords} {hForm : Bool} (h : Issues s i w)
    {t : TrapInfo} (ht : checkSources i (s.acting i w) (s.hand i.hand) (r.ops hForm w) = some t) :
    exec (r.instr hForm w) s = .next (s.faulted i w t) := by
  rw [intRows_run r hr hForm w s]
  exact execCore_trap h (withRegs_fault ht)

/-- Settles O16: the checks of the sources have four outcomes, and the instruction raises the fault of the first three. -/
theorem sourceFaults : Obligations.SourceFaults := by
  intro s i w r hForm hr hi h act found poison mixed mistag
  refine ⟨checkSources_eq_none, fun t ht => ?_⟩
  obtain ⟨hp, hm, hg, hk, hpc, hs, hv⟩ := checkSources_eq_some ht
  exact ⟨hp, hm, hg, hk, hpc, hs, hv, IntRow.exec_faults hr hi ht⟩

end Sys2Proof.Machine
end

section
/-!
PROOFS. The back edge of a counted level (O11).
-/
namespace Sys2Proof.Machine

/-! ## Register files of a fixed size -/

theorem getD_putAt {α : Type} (n : Nat) (d : α) (f : α → α) (i j : Nat) (l : List α) :
    (putAt n d f i l).getD j d = if j < n then if j = i then f (l.getD j d) else l.getD j d else d := by
  by_cases h : j < n <;> simp [putAt, h]

/-! ## The innermost level (R135, R138) -/

section
variable {lc : List Level} {p : Level → Bool}

theorem innermost_mem {j : Nat} (h : innermost lc p = some j) :
    j < lc.length ∧ (lc.getD j default).valid = true ∧ p (lc.getD j default) = true := by
  suffices hinv : ∀ k, innermost lc p = some k → k < lc.length ∧ ((lc.getD k default).valid && p (lc.getD k default)) = true by
    obtain ⟨hj, hv⟩ := hinv j h
    exact ⟨hj, Bool.and_eq_true_iff.mp hv⟩
  rw [innermost]
  refine List.foldlRecOn (motive := fun b => ∀ k, b = some k → k < lc.length ∧ ((lc.getD k default).valid && p (lc.getD k default)) = true)
    _ _ (by simp) fun b hb i hi k hk => ?_
  dsimp only at hk
  split at hk
  · next hv =>
    split at hk
    · obtain rfl := Option.some.inj hk
      exact ⟨List.mem_range.mp hi, hv⟩
    · split at hk <;> obtain rfl := Option.some.inj hk
      · exact ⟨List.mem_range.mp hi, hv⟩
      · exact hb _ rfl
  · exact hb k hk

theorem innermost_none (h : innermost lc p = none) {j : Nat} (hj : j < lc.length) (hv : (lc.getD j default).valid = true) :
    p (lc.getD j default) = false := by
  have hall := (foldl_eq_none (fun b a => by dsimp only; split <;> [split; skip] <;> rfl) (List.range lc.length)).mp h j (List.mem_range.mpr hj)
  by_contra hp
  have hvp : ((lc.getD j default).valid && p (lc.getD j default)) = true := Bool.and_eq_true_iff.mpr ⟨hv, by simpa using hp⟩
  simp only [hvp, if_true, reduceCtorEq] at hall

end

/-! ## Levels that retire (R139) -/

theorem retireOne_frame (h : Hand) (j : Nat) : h.retireOne j =
    { h with lc := putAt 6 default (fun x => { x with valid := false }) j h.lc, q := (h.retireOne j).q, outst := (h.retireOne j).outst } := by
  unfold Hand.retireOne
  dsimp only
  split <;> rfl

theorem retireFrom_frame (d : BitVec 5) (o fuel : Nat) (h : Hand) : Hand.retireFrom d o fuel h =
    { h with lc := (Hand.retireFrom d o fuel h).lc, q := (Hand.retireFrom d o fuel h).q, outst := (Hand.retireFrom d o fuel h).outst } := by
  induction fuel generalizing h with
  | zero => rfl
  | succ fuel ih =>
    unfold Hand.retireFrom
    split
    · next j _ =>
      rw [ih, retireOne_frame]
    · rfl

theorem retireOne_lc (h : Hand) (j : Nat) : (h.retireOne j).lc = putAt 6 default (fun x => { x with valid := false }) j h.lc := by
  rw [retireOne_frame]

/-- A level is of a depth, and declared from some moment on. -/
def Level.declaredFrom (d : BitVec 5) (o : Nat) (l : Level) : Bool := l.depth == d && decide (o ≤ l.order)

/-- The levels that `retireFrom` goes through. -/
def Hand.toRetire (h : Hand) (d : BitVec 5) (o : Nat) : Finset Nat :=
  (Finset.range 6).filter (fun j => (h.lc.getD j default).valid = true ∧ (h.lc.getD j default).declaredFrom d o = true)

theorem mem_toRetire {h : Hand} {d : BitVec 5} {o j : Nat} :
    j ∈ h.toRetire d o ↔ j < 6 ∧ (h.lc.getD j default).valid = true ∧ (h.lc.getD j default).declaredFrom d o = true := by
  rw [Hand.toRetire, Finset.mem_filter, Finset.mem_range]

/-- Retiring one of them leaves the others. -/
theorem retireOne_toRetire (h : Hand) (d : BitVec 5) (o k : Nat) : (h.retireOne k).toRetire d o = (h.toRetire d o).erase k := by
  ext j
  rw [Finset.mem_erase, mem_toRetire, mem_toRetire, retireOne_lc, getD_putAt]
  by_cases hj : j < 6
  · rw [if_pos hj]
    by_cases e : j = k <;> simp [hj, e]
  · simp only [hj, false_and, and_false]

/-- With fuel for every level that is to retire, each has retired. -/
theorem retireFrom_retires {d : BitVec 5} {o j : Nat} (hj : j < 6) (fuel : Nat) {h : Hand} (hl : h.lc.length = 6)
    (hd : (h.lc.getD j default).declaredFrom d o = true) (hf : (h.toRetire d o).card ≤ fuel) :
    ((Hand.retireFrom d o fuel h).lc.getD j default).valid = false := by
  induction fuel generalizing h with
  | zero =>
    have hn : j ∉ h.toRetire d o := by simp [Finset.card_eq_zero.mp (Nat.le_zero.mp hf)]
    exact Bool.eq_false_iff.mpr fun hv => hn (mem_toRetire.mpr ⟨hj, hv, hd⟩)
  | succ fuel ih =>
    unfold Hand.retireFrom
    split
    · next k hk =>
      obtain ⟨hk6, hkv, hkd⟩ := innermost_mem hk
      have hmem : k ∈ h.toRetire d o := mem_toRetire.mpr ⟨hl ▸ hk6, hkv, hkd⟩
      have hjk : ((h.retireOne k).lc.getD j default).declaredFrom d o = true := by
        rw [retireOne_lc, getD_putAt, if_pos hj]
        split <;> exact hd
      refine ih (by rw [retireOne_lc]; simp [putAt]) hjk ?_
      rw [retireOne_toRetire, Finset.card_erase_of_mem hmem]
      omega
    · next hk =>
      by_contra hv
      exact absurd hd (by rw [Level.declaredFrom, innermost_none hk (hl ▸ hj) (by simpa using hv)]; decide)

/-- A level that has retired is free. -/
theorem retireLevel_valid {h : Hand} {n : Nat} (hl : h.lc.length = 6) (hn : n < 6) : ((h.retireLevel n).lc.getD n default).valid = false :=
  retireFrom_retires hn 6 hl (by simp [Level.declaredFrom]) ((Finset.card_filter_le _ _).trans (by simp))

theorem retireLevel_pc (h : Hand) (n : Nat) : (h.retireLevel n).pc = h.pc := by
  rw [Hand.retireLevel, retireFrom_frame]

theorem retireLevel_key (h : Hand) (n : Nat) : (h.retireLevel n).key = h.key := by
  rw [Hand.retireLevel, retireFrom_frame]

/-! ## The back edge of a level (R136) -/

/-- Threads are given one PC. -/
def Hand.sentTo (h : Hand) (m : Lanes) (pc : DWord) : Hand :=
  { h with pc := (List.range 32).map (fun t => if m.has t then pc else h.pc.getD t 0) }

theorem sentTo_pc {h : Hand} {m : Lanes} {pc : DWord} {t : Nat} (ht : t < 32) (hm : m.has t = true) : (h.sentTo m pc).pc.getD t 0 = pc := by
  simp [Hand.sentTo, ht, hm]

/-- The next pass of a level: PASS rises by 1, and in counted mode the stages shift with a new one while PASS is below TRIP. -/
def Level.nextPass (l : Level) : Level :=
  { l with pass := l.pass + 1, edge := 0,
           stg := if l.until_ then l.stg
             else ((l.stg <<< 1) ||| (if (l.pass + 1).toNat < l.trip.toNat then 1 else 0)) &&& BitVec.ofNat 7 (2 ^ l.s.toNat - 1) }

/-- The members of level `n`, which is `l`, start its next pass, after its names have rotated. -/
def Hand.startPass (h : Hand) (n : Nat) (l : Level) : Hand :=
  (driveStages { h.rotate l.depth.toNat l.base.toNat l.rsize.toNat with lc := putAt 6 default (fun _ => l) n h.lc } l).sentTo l.memb l.start

/-- The members of level `n`, which is `l`, go past its END, and it retires. -/
def Hand.endLoop (h : Hand) (n : Nat) (l : Level) : Hand :=
  (({ h with lc := putAt 6 default (fun _ => l) n h.lc } : Hand).sentTo l.memb l.nextEnd).retireLevel n

/-- The threads that leave an until-mode level at its edge. -/
def Hand.leavers (h : Hand) (l : Level) : Lanes := if l.until_ then Lanes.of (fun t => l.edge.has t && h.readQ t l.uq.toNat) else 0

/-- A level of which some members stay goes on, while it has members in until mode, and passes in counted mode. -/
def Level.goesOn (l : Level) (memb : Lanes) : Bool :=
  if l.until_ then memb != 0 else l.pass.toNat + 1 < l.trip.toNat + l.s.toNat - 1

theorem backEdge_eq (h : Hand) (n : Nat) {l : Level} (hl : l = h.lc.getD n default) {memb : Lanes} (hm : memb = l.memb &&& ~~~h.leavers l) :
    h.backEdge n = if l.goesOn memb then (h.sentTo (h.leavers l) l.nextEnd).startPass n { l.nextPass with memb := memb }
      else (h.sentTo (h.leavers l) l.nextEnd).endLoop n { l with memb := memb, pass := l.pass + 1 } := by
  subst hl hm
  rfl

/-- In counted mode no member leaves, and passes are counted. -/
theorem backEdge_counted (h : Hand) (n : Nat) {l : Level} (hl : l = h.lc.getD n default) (hu : l.until_ = false) :
    h.backEdge n = if l.pass.toNat + 1 < l.trip.toNat + l.s.toNat - 1 then (h.sentTo 0 l.nextEnd).startPass n l.nextPass
      else (h.sentTo 0 l.nextEnd).endLoop n { l with pass := l.pass + 1 } := by
  have h0 : h.leavers l = 0 := if_neg (ne_true_of_eq_false hu)
  have hg : l.goesOn l.memb = decide (l.pass.toNat + 1 < l.trip.toNat + l.s.toNat - 1) := if_neg (ne_true_of_eq_false hu)
  rw [backEdge_eq h n hl (memb := l.memb) (by rw [h0, Lanes.and_not_zero]), h0, hg]
  simp only [decide_eq_true_eq]
  rfl

theorem startPass_lc (h : Hand) {n : Nat} (hn : n < 6) (l : Level) : (h.startPass n l).lc.getD n default = l := by
  have he : (h.startPass n l).lc = putAt 6 default (fun _ => l) n h.lc := rfl
  rw [he, getD_putAt, if_pos hn, if_pos rfl]

theorem startPass_pc (h : Hand) (n : Nat) (l : Level) {t : Nat} (ht : t < 32) (hm : l.memb.has t = true) :
    (h.startPass n l).pc.getD t 0 = l.start := sentTo_pc ht hm

theorem endLoop_valid (h : Hand) {n : Nat} (hn : n < 6) (l : Level) : ((h.endLoop n l).lc.getD n default).valid = false :=
  retireLevel_valid (by simp [Hand.sentTo, putAt]) hn

theorem endLoop_pc (h : Hand) (n : Nat) (l : Level) {t : Nat} (ht : t < 32) (hm : l.memb.has t = true) :
    (h.endLoop n l).pc.getD t 0 = l.nextEnd := by
  rw [Hand.endLoop, retireLevel_pc]
  exact sentTo_pc ht hm

theorem backEdge_key (h : Hand) (n : Nat) : (h.backEdge n).key = h.key := by
  rw [backEdge_eq h n rfl rfl]
  split
  · rfl
  · exact retireLevel_key _ n

/-- A level that is due fires, in a cycle in which the hand has issued nothing. -/
theorem execBackEdge_fires {s : State} (hr : (s.hand s.args.n).state = .running)
    (hb : ∀ x ∈ (s.core (s.hand s.args.n).core).slots, x.hand = some s.args.n → x.second = none)
    (hd : (s.hand s.args.n).dueLevel = some s.args.m) :
    execBackEdge s = .next (s.updHand s.args.n (fun h => h.backEdge s.args.m)) := by
  have hbusy : (s.core (s.hand s.args.n).core).slots.any (fun x => decide (x.hand = some s.args.n) && x.second.isSome) = false := by
    rw [List.any_eq_false]
    intro x hx
    simpa using hb x hx
  simp only [execBackEdge, hr, hbusy, hd]
  exact if_pos (by simp)

/-- Settles O11: the level that is due fires, and a counted level goes on or ends. -/
theorem backEdgeFires : Obligations.BackEdgeFires := by
  intro s h hh hm l hr hb hd hu
  have he : s.hand s.args.n = h := by rw [State.hand, hh, Option.getD_some]
  have hkey : ∀ x : Hand, (x.backEdge s.args.m).key = x.key := fun x => backEdge_key x _
  have ht := hand_updHand_same s hkey hh
  refine ⟨_, execBackEdge_fires (he ▸ hr) (he ▸ hb) (he ▸ hd), rfl, fun j hj => ?_, fun ha => ?_, fun ha => ?_⟩
  · rw [hand?_updHand s hkey, if_neg hj]
  · rw [ht, backEdge_counted h _ rfl hu, if_pos ha]
    refine ⟨?_, fun x hx hx' => startPass_pc _ _ l.nextPass hx hx'⟩
    rw [startPass_lc _ hm, Level.nextPass, if_neg (ne_true_of_eq_false hu)]
  · rw [ht, backEdge_counted h _ rfl hu, if_neg ha]
    exact ⟨endLoop_valid _ hm _, fun x hx hx' => endLoop_pc _ _ { l with pass := l.pass + 1 } hx hx'⟩

end Sys2Proof.Machine
end

section
/-!
PROOFS. What a register reads after names have been freed and written, and what else of a hand stays.
-/
namespace Sys2Proof.Machine

/-! ## Lookups after updates -/

theorem lookupD_insertK_other {α : Type} {j k : Nat} (hj : j ≠ k) (d x : α) (l : List (Nat × α)) :
    lookupD j d (insertK k x l) = lookupD j d l := by
  induction l with
  | nil => simp [insertK, lookupD, Ne.symm hj]
  | cons p l ih =>
    obtain ⟨a, y⟩ := p
    by_cases ha : a = k
    · simp [insertK, lookupD, ha, Ne.symm hj]
    · simp [insertK, lookupD, ha, ih]

theorem core_updCore_other (s : State) {c d : Nat} (hd : d ≠ c) (f : Core → Core) : (s.updCore c f).core d = s.core d :=
  lookupD_insertK_other hd _ _ _

/-- What an update of the elements that pass a test makes of the first of them. -/
theorem find?_updWhere_same {α : Type} {p : α → Bool} {f : α → α} (hf : ∀ x, p x = true → p (f x) = true) (l : List α) :
    (updWhere p f l).find? p = (l.find? p).map f := by
  induction l with
  | nil => rfl
  | cons x l ih =>
    rw [updWhere] at ih ⊢
    cases hx : p x
    · simp [hx, ih]
    · simp [hx, hf x hx]

/-- An update of elements that fail a test, before and after, does not change the first that passes. -/
theorem find?_updWhere_other {α : Type} {p q : α → Bool} {f : α → α} (hq : ∀ x, p x = true → q x = false ∧ q (f x) = false) (l : List α) :
    (updWhere p f l).find? q = l.find? q := by
  induction l with
  | nil => rfl
  | cons x l ih =>
    rw [updWhere] at ih ⊢
    cases hx : p x
    · rw [List.map_cons, List.find?_cons, List.find?_cons, ih]
      simp [hx]
    · rw [List.map_cons, List.find?_cons, List.find?_cons, ih]
      simp [hx, hq x hx]

theorem hand?_updHand_same {s : State} {f : Hand → Hand} (hf : ∀ x, (f x).key = x.key) {k : Nat} {h : Hand} (hs : s.hand? k = some h) :
    (s.updHand k f).hand? k = some (f h) := by
  rw [hand?_updHand s hf, if_pos rfl, hs]
  rfl

/-! ## One hand and its core -/

/-- Of the machine, only one hand, one core's registers and slots, and error banks differ. -/
structure Within (k c : Nat) (s t : State) : Prop where
  only : HandsOnly s t
  others : OtherHands s t k
  core : CoreFrame s t c

namespace Within
variable {k c : Nat} {s t u : State}

theorem refl (k c : Nat) (s : State) : Within k c s s := ⟨rfl, fun _ _ => rfl, fun _ _ => rfl, rfl⟩

theorem trans (h1 : Within k c s t) (h2 : Within k c t u) : Within k c s u where
  only := by
    have e1 := h1.only
    have e2 := h2.only
    unfold HandsOnly at e1 e2 ⊢
    rw [e1] at e2
    exact e2
  others j hj := (h2.others j hj).trans (h1.others j hj)
  core := by
    obtain ⟨o1, c1⟩ := h1.core
    obtain ⟨o2, c2⟩ := h2.core
    refine ⟨fun d hd => (o2 d hd).trans (o1 d hd), ?_⟩
    rw [c1] at c2
    exact c2

theorem updHand {f : Hand → Hand} (hf : ∀ h, (f h).key = h.key) (k c : Nat) (s : State) : Within k c s (s.updHand k f) where
  only := rfl
  others j hj := by rw [hand?_updHand s hf, if_neg hj]
  core := ⟨fun _ _ => rfl, rfl⟩

theorem updCore {f : Core → Core} (hf : ∀ x, f x = { x with pool := (f x).pool, slots := (f x).slots, forced := (f x).forced }) (k c : Nat)
    (s : State) : Within k c s (s.updCore c f) where
  only := rfl
  others _ _ := rfl
  core := ⟨fun d hd => core_updCore_other s hd f, by rw [core_updCore_same]; exact hf _⟩

end Within

/-! ## Steps on the registers of a hand -/

/-- Of a hand, only g registers and what is outstanding for them differ. -/
def RegsOnly (h h' : Hand) : Prop := h' = { h with map := h'.map, trapWin := h'.trapWin, outst := h'.outst, newcomer := h'.newcomer }

theorem RegsOnly.trans {a b c : Hand} (h1 : RegsOnly a b) (h2 : RegsOnly b c) : RegsOnly a c := by
  unfold RegsOnly at h1 h2 ⊢
  rw [h1] at h2
  exact h2

/-- A step from `s` to `t` on the registers of a hand that is `h` and becomes `h'`. -/
structure RegStep (k c : Nat) (s t : State) (h h' : Hand) : Prop where
  within : Within k c s t
  slots : (t.core c).slots = (s.core c).slots
  hand : t.hand? k = some h'
  regs : RegsOnly h h'

namespace RegStep
variable {k c : Nat} {s t u : State} {h h' h'' : Hand}

theorem refl (hs : s.hand? k = some h) : RegStep k c s s h h := ⟨Within.refl k c s, rfl, hs, rfl⟩

theorem trans (h1 : RegStep k c s t h h') (h2 : RegStep k c t u h' h'') : RegStep k c s u h h'' :=
  ⟨h1.within.trans h2.within, h2.slots.trans h1.slots, h2.hand, h1.regs.trans h2.regs⟩

theorem core_eq (h1 : RegStep k c s t h h') (hc : h.core = c) : h'.core = c := by
  rw [h1.regs]
  exact hc

/-- A change of the hand. -/
theorem updHand {f : Hand → Hand} (hs : s.hand? k = some h) (hf : ∀ x, (f x).key = x.key) (hr : RegsOnly h (f h)) :
    RegStep k c s (s.updHand k f) h (f h) :=
  ⟨Within.updHand hf k c s, rfl, hand?_updHand_same hf hs, hr⟩

/-- A change of the free registers of its core. -/
theorem updPool (hs : s.hand? k = some h) (f : Core → List PReg) : RegStep k c s (s.updCore c (fun x => { x with pool := f x })) h h :=
  ⟨Within.updCore (fun _ => rfl) k c s, by rw [core_updCore_same], hs, rfl⟩

end RegStep

theorem hand_of_hand? {s : State} {k : Nat} {h : Hand} (hs : s.hand? k = some h) : s.hand k = h := by
  rw [State.hand, hs, Option.getD_some]

/-! ## What results that are outstanding bring to a lane (R121) -/

theorem overlay_supersede_same (d : Dst) {lanes : Lanes} (os : List Outst) (tag : List (BitVec 4)) {t : Nat} (ht : lanes.has t = true) :
    overlay (supersede d lanes os tag) d t = none := by
  rw [overlay, supersede, List.foldl_map]
  refine List.foldl_fixed' (fun o => ?_) os
  rw [updWhere, List.foldl_map]
  refine List.foldl_fixed' (fun x => ?_) o.dsts
  by_cases hx : x.dst = d <;> simp [hx, ht]

theorem overlay_supersede_other (d : Dst) {d' : Dst} {lanes : Lanes} (os : List Outst) (tag : List (BitVec 4)) {t : Nat}
    (h : d' = d → lanes.has t = false) : overlay (supersede d lanes os tag) d' t = overlay os d' t := by
  rw [overlay, supersede, List.foldl_map, overlay]
  congr 1
  funext acc o
  rw [updWhere, List.foldl_map]
  congr 1
  funext acc x
  by_cases hx : x.dst = d
  · by_cases hd : d' = d
    · simp [hx, h hd]
    · simp [hx, Ne.symm hd]
  · simp [hx]


/-! ## The name of a destination -/

/-- A destination is a g name of a hand. -/
def Dst.Named : Dst → Prop
  | .g _ _ => True
  | .trapG n => 16 ≤ n ∧ n < 32
  | _ => False

theorem resolve_named (h : Hand) (t n : Nat) : (h.resolve t n).Named := by
  unfold Hand.resolve
  split
  · trivial
  · next h16 =>
    split
    · next ht =>
      simp only [Bool.and_eq_true, decide_eq_true_eq] at ht
      exact ⟨by omega, by omega⟩
    · trivial

theorem resolve_num (h : Hand) (t n : Nat) : (h.resolve t n).num = n := by
  unfold Hand.resolve
  split
  · rfl
  · split <;> rfl

/-! ## The places in which lanes resolve a name (R124, R130) -/

section
variable (h : Hand) (n : Nat)

/-- A further lane is added to the places of a name. -/
def Hand.addPlace (acc : List (Dst × Lanes)) (t : Nat) : List (Dst × Lanes) :=
  if acc.any (fun p => p.1 = h.resolve t n) then acc.map (fun p => if p.1 = h.resolve t n then (p.1, p.2 ||| Lanes.one t) else p)
  else acc ++ [(h.resolve t n, Lanes.one t)]

/-- Places gather lanes: each holds those of them that resolve the name there, and each of them has one. -/
def Hand.Gathers (acc : List (Dst × Lanes)) (ts : List Nat) : Prop :=
  (∀ p ∈ acc, (∃ t, p.1 = h.resolve t n) ∧ ∀ t, t < 32 → (p.2.has t = true ↔ t ∈ ts ∧ h.resolve t n = p.1)) ∧
    ∀ t ∈ ts, ∃ p ∈ acc, p.1 = h.resolve t n

variable {h n}

theorem Hand.Gathers.add {acc : List (Dst × Lanes)} {ts : List Nat} (hg : h.Gathers n acc ts) {t : Nat} (ht : t < 32) :
    h.Gathers n (h.addPlace n acc t) (ts ++ [t]) := by
  obtain ⟨hp, hc⟩ := hg
  have hone (l : Nat) (hl : l < 32) : (Lanes.one t).has l = true ↔ l = t := by simp [Lanes.has_one, hl]
  unfold Hand.addPlace
  split
  · next hany =>
    obtain ⟨q, hq, hqe⟩ := List.any_eq_true.mp hany
    refine ⟨fun p' hp' => ?_, fun l hl => ?_⟩
    · obtain ⟨p, hm, rfl⟩ := List.mem_map.mp hp'
      obtain ⟨he, hh⟩ := hp p hm
      by_cases e : p.1 = h.resolve t n
      · rw [if_pos e]
        refine ⟨he, fun l hl => ?_⟩
        rw [Lanes.has_or, Bool.or_eq_true, hh l hl, hone l hl, List.mem_append, List.mem_singleton]
        constructor
        · rintro (⟨h1, h2⟩ | rfl)
          · exact ⟨.inl h1, h2⟩
          · exact ⟨.inr rfl, e.symm⟩
        · rintro ⟨h1 | h1, h2⟩
          · exact .inl ⟨h1, h2⟩
          · exact .inr h1
      · rw [if_neg e]
        refine ⟨he, fun l hl => (hh l hl).trans ?_⟩
        rw [List.mem_append, List.mem_singleton]
        refine and_congr_left fun h2 => ⟨.inl, fun h1 => h1.resolve_right ?_⟩
        rintro rfl
        exact e h2.symm
    · obtain ⟨p, hm, he⟩ : ∃ p ∈ acc, p.1 = h.resolve l n := by
        obtain hl | hl := List.mem_append.mp hl
        · exact hc l hl
        · rw [List.mem_singleton.mp hl]
          exact ⟨q, hq, of_decide_eq_true hqe⟩
      exact ⟨_, List.mem_map_of_mem hm, by split <;> exact he⟩
  · next hany =>
    have hno (p : Dst × Lanes) (hm : p ∈ acc) : p.1 ≠ h.resolve t n := fun e => hany (List.any_eq_true.mpr ⟨p, hm, decide_eq_true e⟩)
    refine ⟨fun p hpm => ?_, fun l hl => ?_⟩
    · obtain hm | hm := List.mem_append.mp hpm
      · obtain ⟨he, hh⟩ := hp p hm
        refine ⟨he, fun l hl => (hh l hl).trans ?_⟩
        rw [List.mem_append, List.mem_singleton]
        refine and_congr_left fun h2 => ⟨.inl, fun h1 => h1.resolve_right ?_⟩
        rintro rfl
        exact hno p hm h2.symm
      · rw [List.mem_singleton.mp hm]
        refine ⟨⟨t, rfl⟩, fun l hl => ?_⟩
        rw [hone l hl, List.mem_append, List.mem_singleton]
        refine ⟨fun e => ⟨.inr e, by rw [e]⟩, fun ⟨h1, h2⟩ => h1.resolve_left fun h1 => ?_⟩
        obtain ⟨p, hm, he⟩ := hc l h1
        exact hno p hm (he.trans h2)
    · obtain hl | hl := List.mem_append.mp hl
      · obtain ⟨p, hm, he⟩ := hc l hl
        exact ⟨p, List.mem_append_left _ hm, he⟩
      · rw [List.mem_singleton.mp hl]
        exact ⟨_, List.mem_append_right _ (List.mem_singleton.mpr rfl), rfl⟩

theorem foldl_addPlace_gathers (ts : List Nat) (hts : ∀ t ∈ ts, t < 32) : h.Gathers n (ts.foldl (h.addPlace n) []) ts := by
  induction ts using List.reverseRecOn with
  | nil => exact ⟨by simp, by simp⟩
  | append_singleton ts t ih =>
    rw [List.foldl_append, List.foldl_cons, List.foldl_nil]
    exact (ih fun x hx => hts x (List.mem_append_left _ hx)).add (hts t (List.mem_append_right _ (List.mem_singleton.mpr rfl)))

theorem places_gathers (lanes : Lanes) : h.Gathers n (h.places lanes n) lanes.list :=
  foldl_addPlace_gathers lanes.list fun _ ht => Lanes.lt_of_has (Lanes.mem_list.mp ht)

variable {lanes : Lanes} {p : Dst × Lanes} (hp : p ∈ h.places lanes n)
include hp

theorem resolve_of_mem_places : ∃ t, p.1 = h.resolve t n := ((places_gathers lanes).1 p hp).1

theorem num_of_mem_places : p.1.num = n := by
  obtain ⟨t, ht⟩ := resolve_of_mem_places hp
  rw [ht, resolve_num]

theorem named_of_mem_places : p.1.Named := by
  obtain ⟨t, ht⟩ := resolve_of_mem_places hp
  rw [ht]
  exact resolve_named h t n

theorem has_of_mem_places {t : Nat} (ht : t < 32) : p.2.has t = true ↔ lanes.has t = true ∧ h.resolve t n = p.1 := by
  rw [((places_gathers lanes).1 p hp).2 t ht, Lanes.mem_list]

end

theorem exists_place {h : Hand} {n : Nat} {lanes : Lanes} {t : Nat} (ht : lanes.has t = true) :
    ∃ p ∈ h.places lanes n, p.1 = h.resolve t n ∧ p.2.has t = true := by
  obtain ⟨p, hp, he⟩ := (places_gathers (h := h) (n := n) lanes).2 t (Lanes.mem_list.mpr ht)
  exact ⟨p, hp, he, (has_of_mem_places hp (Lanes.lt_of_has ht)).mpr ⟨ht, he.symm⟩⟩

/-! ## Freed names (R127) -/

section
variable {s : State} {k c : Nat} {h : Hand}

/-- A hand of which a name has been freed. -/
def Hand.freed (h : Hand) : Dst → Hand
  | .g win n =>
    if (h.mapping win n).isSome then
      { h with map := h.map.filter (fun x => !(x.win = win && x.name == n)), outst := supersede (.g win n) 0xFFFFFFFF h.outst }
    else h
  | _ => h

theorem freeName_step (d : Dst) (hs : s.hand? k = some h) (hc : h.core = c) : RegStep k c s (s.freeName k d) h (h.freed d) := by
  unfold State.freeName
  split
  · next win n =>
    dsimp only
    rw [hand_of_hand? hs]
    cases hm : h.mapping win n with
    | none =>
      rw [Hand.freed, hm]
      exact RegStep.refl hs
    | some e =>
      have hrel : RegStep k c s (s.releasePhys h.core e.loc) h h := by
        unfold State.releasePhys
        split
        · rw [hc]
          exact RegStep.updPool hs _
        · exact RegStep.refl hs
      have hf : h.freed (.g win n) = { h with
          map := h.map.filter (fun x => !(x.win = win && x.name == n)), outst := supersede (.g win n) 0xFFFFFFFF h.outst } := by
        rw [Hand.freed, hm]
        rfl
      rw [hf]
      exact hrel.trans (RegStep.updHand (f := fun h => { h with
        map := h.map.filter (fun x => !(x.win = win && x.name == n)), outst := supersede (.g win n) 0xFFFFFFFF h.outst }) hrel.hand
        (fun _ => rfl) rfl)
  · next hd =>
    have hf : h.freed d = h := by
      unfold Hand.freed
      split
      · next win n => exact absurd rfl (hd win n)
      · rfl
    rw [hf]
    exact RegStep.refl hs

/-- Names of another number read as before. -/
theorem freed_readDst {d d' : Dst} (hd : d'.num ≠ d.num) (t : Nat) : (h.freed d).readDst d' t = h.readDst d' t := by
  unfold Hand.freed
  split
  · next win n =>
    split
    · have hne : d' ≠ .g win n := fun e => hd (congrArg Dst.num e)
      have hmap (w : Option Nat) (m : Nat) (hm : m ≠ n) :
          (h.map.filter (fun x => !(decide (x.win = win) && x.name == n))).find? (fun e => decide (e.win = w) && e.name == m) =
            h.map.find? (fun e => decide (e.win = w) && e.name == m) := by
        rw [List.find?_filter]
        congr 1
        funext e
        by_cases he : e.name = m
        · simp [he, hm]
        · simp [he]
      rw [Hand.readDst, overlay_supersede_other _ _ _ (fun e => absurd e hne), Hand.readDst]
      congr 1
      unfold Hand.regLane
      split
      · rfl
      · next w m =>
        rw [Hand.mapping, hmap w m hd]
        rfl
      · rfl
    · rfl
  · rfl

theorem freeNames_eq (s : State) (i : SplitIssue) (lanes : Lanes) (names : List Nat) :
    s.freeNames i lanes names = (s.freedDsts i lanes names).foldl (fun s d => s.freeName i.hand d) s := by
  unfold State.freeNames State.freedDsts
  dsimp only
  split
  · rfl
  · rw [← List.flatMap_eq_foldl, List.foldl_flatMap]
    simp only [List.foldl_map]

/-- The names that are freed are those of the list. -/
theorem num_of_mem_freedDsts {i : SplitIssue} {lanes : Lanes} {names : List Nat} {d : Dst} (hd : d ∈ s.freedDsts i lanes names) : d.num ∈ names := by
  unfold State.freedDsts at hd
  dsimp only at hd
  split at hd
  · contradiction
  · rw [← List.flatMap_eq_foldl, List.mem_flatMap] at hd
    obtain ⟨n, hn, hd⟩ := hd
    obtain ⟨p, hp, rfl⟩ := List.mem_map.mp hd
    rwa [num_of_mem_places hp]

theorem foldl_freeName_step (ds : List Dst) (hs : s.hand? k = some h) (hc : h.core = c) : ∃ h',
    RegStep k c s (ds.foldl (fun s d => s.freeName k d) s) h h' ∧
    ∀ d' t, (∀ d ∈ ds, d'.num ≠ d.num) → h'.readDst d' t = h.readDst d' t := by
  induction ds generalizing s h with
  | nil => exact ⟨h, RegStep.refl hs, fun _ _ _ => rfl⟩
  | cons d ds ih =>
    have h1 := freeName_step d hs hc
    obtain ⟨h', h2, hr⟩ := ih h1.hand (h1.core_eq hc)
    refine ⟨h', h1.trans h2, fun d' t hd => ?_⟩
    obtain ⟨hd1, hd2⟩ := List.forall_mem_cons.mp hd
    rw [hr d' t hd2, freed_readDst hd1]

end

/-! ## Written lanes of a register (R126, R132, R133) -/

theorem tagAfter_ne_poison {old new : BitVec 4} (hn : new ≠ 0xF) (full : Bool) : (tagAfter old new full == 0xF) = false := by
  have hn' : (new == 0xF) = false := beq_eq_false_iff_ne.mpr hn
  unfold tagAfter
  rw [hn']
  split
  · exact hn'
  · rfl

/-- What a lane reads has a value and is not poisoned. -/
def LaneRead.Holds (r : LaneRead) (v : DWord) : Prop := r.value = v ∧ r.poison = false

/-- What a lane reads has the value and the poison of another read; its tag may differ. -/
def LaneRead.SameBut (r r' : LaneRead) : Prop := r.value = r'.value ∧ r.poison = r'.poison

section
variable {lanes : Lanes} {f : Nat → Word} {tag : BitVec 4} {l : Nat}

theorem write_lane_value (r : GReg) (full : Bool) (hl : l < 32) : ((r.write lanes f 0 tag full).lane l).value =
    if lanes.has l then (f l).zeroExtend 64 else (r.lane l).value := by
  have hv : (r.write lanes f 0 tag full).value.getD l 0 = if lanes.has l then f l else r.value.getD l 0 := by
    simp [GReg.write, GReg.put, allLanes, hl]
  rw [GReg.lane, hv, GReg.lane]
  split <;> rfl

theorem write_lane_poison (r : GReg) (ht : tag ≠ 0xF) (full : Bool) (hl : l < 32) : ((r.write lanes f 0 tag full).lane l).poison =
    if lanes.has l then false else (r.lane l).poison := by
  have hp : (r.write lanes f 0 tag full).poison = (r.poison &&& ~~~lanes) ||| (0 &&& lanes) := by
    simp only [GReg.write, tagAfter_ne_poison ht, Bool.false_eq_true, if_false, GReg.put]
  rw [GReg.lane, hp, GReg.lane]
  cases hm : lanes.has l <;> simp [hl, hm]

theorem write_lane_holds (r : GReg) (ht : tag ≠ 0xF) (full : Bool) (hl : l < 32) (hm : lanes.has l = true) :
    ((r.write lanes f 0 tag full).lane l).Holds ((f l).zeroExtend 64) :=
  ⟨(write_lane_value r full hl).trans (if_pos hm), (write_lane_poison r ht full hl).trans (if_pos hm)⟩

theorem write_lane_sameBut (r : GReg) (ht : tag ≠ 0xF) (full : Bool) (hl : l < 32) (hm : lanes.has l = false) :
    ((r.write lanes f 0 tag full).lane l).SameBut (r.lane l) :=
  ⟨(write_lane_value r full hl).trans (if_neg (ne_true_of_eq_false hm)),
    (write_lane_poison r ht full hl).trans (if_neg (ne_true_of_eq_false hm))⟩

/-- A register that nothing has been written into reads as an unmapped name. -/
theorem zero_lane (l : Nat) : GReg.zero.lane l = LaneRead.zero := by
  have hv : GReg.zero.value.getD l 0 = 0 := by
    rw [GReg.zero, List.getD_eq_getElem?_getD, List.getElem?_replicate]
    split <;> rfl
  have hp : GReg.zero.poison.has l = false := Lanes.has_zero l
  rw [GReg.lane, hv, hp]
  rfl

end

/-! ## A write of a destination (R126) -/

section
variable (h : Hand) (lanes : Lanes) (f : Nat → Word) (tag : BitVec 4) (full : Bool) (p : Nat)

theorem putG_key (d : Dst) : (h.putG d lanes f 0 tag full p).key = h.key := by
  unfold Hand.putG
  split
  · rfl
  · split <;> rfl
  · rfl

theorem putG_outst (d : Dst) : (h.putG d lanes f 0 tag full p).outst = h.outst := by
  unfold Hand.putG
  split
  · rfl
  · split <;> rfl
  · rfl

theorem putG_regsOnly (d : Dst) : RegsOnly h (h.putG d lanes f 0 tag full p) := by
  unfold Hand.putG
  split
  · rfl
  · split <;> rfl
  · rfl

/-- An entry of the map after a write of its name: a fresh one, and a spilled one that is written in full, start from zero. -/
def MapEntry.written (e : MapEntry) : MapEntry :=
  { e with loc := match e.loc with | .spill _ => .phys p | .phys i => .phys i, fresh := false,
           reg := if e.fresh || (full && match e.loc with | .spill _ => true | .phys _ => false) then GReg.zero.write lanes f 0 tag true
             else e.reg.write lanes f 0 tag full }

theorem putG_of_mapped {win : Option Nat} {n : Nat} {e : MapEntry} (hm : h.mapping win n = some e) : h.putG (.g win n) lanes f 0 tag full p =
    { h with map := updWhere (fun e => decide (e.win = win) && e.name == n) (fun e => e.written lanes f tag full p) h.map } := by
  simp only [Hand.putG, hm]
  rfl

theorem putG_of_unmapped {win : Option Nat} {n : Nat} (hm : h.mapping win n = none) : h.putG (.g win n) lanes f 0 tag full p =
    { h with map := h.map ++ [{ win := win, name := n, loc := .phys p, fresh := false, reg := GReg.zero.write lanes f 0 tag true }] } := by
  simp only [Hand.putG, hm]

/-- The name of the entry is mapped to the written entry. -/
theorem putG_mapping_same (win : Option Nat) (n : Nat) : (h.putG (.g win n) lanes f 0 tag full p).mapping win n = match h.mapping win n with
    | some e => some (e.written lanes f tag full p)
    | none => some { win := win, name := n, loc := .phys p, fresh := false, reg := GReg.zero.write lanes f 0 tag true } := by
  cases hm : h.mapping win n with
  | none =>
    rw [putG_of_unmapped h lanes f tag full p hm, Hand.mapping, List.find?_append]
    rw [Hand.mapping] at hm
    simp [hm]
  | some e =>
    rw [putG_of_mapped h lanes f tag full p hm]
    refine (find?_updWhere_same (p := fun e => decide (e.win = win) && e.name == n) (f := fun e => e.written lanes f tag full p)
      (fun x hx => hx) h.map).trans ?_
    rw [← Hand.mapping, hm]
    rfl

theorem putG_mapping_other {win win' : Option Nat} {n n' : Nat} (hne : ¬ (win' = win ∧ n' = n)) :
    (h.putG (.g win n) lanes f 0 tag full p).mapping win' n' = h.mapping win' n' := by
  cases hm : h.mapping win n with
  | none =>
    have hno : (decide (win = win') && n == n') = false := by
      rw [Bool.eq_false_iff]
      simp only [ne_eq, Bool.and_eq_true, decide_eq_true_eq, beq_iff_eq]
      exact fun ⟨a, b⟩ => hne ⟨a.symm, b.symm⟩
    rw [putG_of_unmapped h lanes f tag full p hm, Hand.mapping, List.find?_append, Hand.mapping]
    simp [hno]
  | some e =>
    rw [putG_of_mapped h lanes f tag full p hm, Hand.mapping, find?_updWhere_other, Hand.mapping]
    intro x hx
    have hno : (decide (x.win = win') && x.name == n') = false := by
      rw [Bool.eq_false_iff]
      simp only [ne_eq, Bool.and_eq_true, decide_eq_true_eq, beq_iff_eq] at hx ⊢
      exact fun ⟨a, b⟩ => hne ⟨a.symm.trans hx.1, b.symm.trans hx.2⟩
    exact ⟨hno, hno⟩

/-- The register that a destination names is written in lanes; without a full write, it is the register as it stands. -/
theorem putG_regLane_same {d : Dst} (hd : d.Named) : ∃ (r : GReg) (full' : Bool), (full = false → ∀ l, r.lane l = h.regLane d l) ∧
    ∀ l, (h.putG d lanes f 0 tag full p).regLane d l = (r.write lanes f 0 tag full').lane l := by
  cases d with
  | trapG n =>
    have hn : n - 16 < 16 := by
      have := hd.2
      omega
    refine ⟨h.trapWin.getD (n - 16) GReg.zero, full, fun _ _ => rfl, fun l => ?_⟩
    rw [Hand.putG, Hand.regLane, getD_putAt, if_pos hn, if_pos rfl]
  | g win n =>
    have hw := putG_mapping_same h lanes f tag full p win n
    cases hm : h.mapping win n with
    | none =>
      rw [hm] at hw
      refine ⟨GReg.zero, true, fun _ l => by rw [zero_lane, Hand.regLane, hm], fun l => ?_⟩
      rw [Hand.regLane, hw]
      rfl
    | some e =>
      rw [hm] at hw
      by_cases ha : (e.fresh || (full && match e.loc with | .spill _ => true | .phys _ => false)) = true
      · refine ⟨GReg.zero, true, fun hf l => ?_, fun l => ?_⟩
        · have hfresh : e.fresh = true := by simpa [hf] using ha
          rw [zero_lane, Hand.regLane, hm]
          exact (if_pos hfresh).symm
        · rw [Hand.regLane, hw]
          simp only [MapEntry.written, if_pos ha, Bool.false_eq_true, if_false]
      · have hfresh : e.fresh = false := by
          rw [Bool.or_eq_true, not_or] at ha
          exact Bool.eq_false_iff.mpr ha.1
        refine ⟨e.reg, full, fun _ l => ?_, fun l => ?_⟩
        · rw [Hand.regLane, hm]
          exact (if_neg (ne_true_of_eq_false hfresh)).symm
        · rw [Hand.regLane, hw]
          simp only [MapEntry.written, if_neg ha, Bool.false_eq_true, if_false]
  | _ => exact hd.elim

/-- Every other destination keeps its register. -/
theorem putG_regLane_other {d d' : Dst} (hd : d.Named) (hd' : d'.Named) (hne : d' ≠ d) (l : Nat) :
    (h.putG d lanes f 0 tag full p).regLane d' l = h.regLane d' l := by
  cases d' with
  | trapG n' =>
    cases d with
    | trapG n =>
      have hn : ¬ n' - 16 = n - 16 := fun e => hne (congrArg Dst.trapG (by
        have := hd.1
        have := hd'.1
        omega))
      have hn' : n' - 16 < 16 := by
        have := hd'.2
        omega
      rw [Hand.putG, Hand.regLane, getD_putAt, if_pos hn', if_neg hn, Hand.regLane]
    | g win n =>
      have hw : (h.putG (.g win n) lanes f 0 tag full p).trapWin = h.trapWin := by
        unfold Hand.putG
        dsimp only
        split <;> rfl
      rw [Hand.regLane, hw, Hand.regLane]
    | _ => exact hd.elim
  | g win' n' =>
    cases d with
    | trapG n => rfl
    | g win n =>
      rw [Hand.regLane, putG_mapping_other h lanes f tag full p (fun e => hne (by rw [e.1, e.2])), Hand.regLane]
    | _ => exact hd.elim
  | _ => exact hd'.elim

end

/-! ## A write of a name in lanes (R126) -/

section
variable {s : State} {k c : Nat} {h : Hand}

theorem writeDst_step (d : Dst) (lanes : Lanes) (f : Nat → Word) (tag : BitVec 4) (full : Bool) (hs : s.hand? k = some h) (hc : h.core = c) :
    ∃ p b, RegStep k c s (s.writeDst k d lanes f 0 tag full) h { h.putG d lanes f 0 tag full p with newcomer := b } := by
  have hput (p : Nat) (b : Bool) : RegsOnly h { h.putG d lanes f 0 tag full p with newcomer := b } := by
    have hr := putG_regsOnly h lanes f tag full p d
    unfold RegsOnly at hr ⊢
    rw [hr]
  unfold State.writeDst
  dsimp only
  rw [hand_of_hand? hs]
  split
  · rw [hc]
    have hp := RegStep.updPool (c := c) hs (fun x => { idx := ((s.core c).freeReg).getD 0, owner := k } :: x.pool)
    exact ⟨_, false, hp.trans (RegStep.updHand (f := fun h => { h.putG d lanes f 0 tag full _ with newcomer := false }) hp.hand
      (fun x => putG_key x lanes f tag full _ d) (hput _ _))⟩
  · have hk := RegStep.updHand (c := c) (f := fun h => h.putG d lanes f 0 tag full 0) hs (fun x => putG_key x lanes f tag full _ d)
      (putG_regsOnly h lanes f tag full 0 d)
    exact ⟨0, (h.putG d lanes f 0 tag full 0).newcomer, hk⟩

/-- The threads that have not exited are all of a covering set. -/
theorem has_of_coveredBy {act : Lanes} (hcov : h.coveredBy act = true) {l : Nat} (hl : h.live.has l = true) : act.has l = true := by
  have h0 := Lanes.eq_zero_iff.mp (beq_iff_eq.mp hcov) l
  have hl32 := Lanes.lt_of_has hl
  simpa [hl, hl32] using h0

variable {full : Bool} (f : Nat → Word) {tag : BitVec 4} (ht : tag ≠ 0xF)
include ht

/-- A lane reads what is written to it, and otherwise, without a full write of the destination, as before. -/
theorem writePlace_step {p : Dst × Lanes} (hp : p.1.Named) (hs : s.hand? k = some h) (hc : h.core = c) : ∃ h',
    RegStep k c s (s.writePlace k full f tag p) h h' ∧ ∀ d l, d.Named → l < 32 →
      (d = p.1 → p.2.has l = true → (h'.readDst d l).Holds ((f l).zeroExtend 64)) ∧
      ((d = p.1 → p.2.has l = false ∧ full = false) → (h'.readDst d l).SameBut (h.readDst d l)) := by
  obtain ⟨d0, m⟩ := p
  obtain ⟨p, b, h1⟩ := writeDst_step d0 m f tag full hs hc
  refine ⟨_, h1.trans (RegStep.updHand (f := fun h => { h with outst := supersede d0 m h.outst [tag] }) h1.hand (fun _ => rfl) rfl),
    fun d l hd hl => ?_⟩
  have hread : Hand.readDst { h.putG d0 m f 0 tag full p with newcomer := b, outst := supersede d0 m (h.putG d0 m f 0 tag full p).outst [tag] } d l =
      (overlay (supersede d0 m h.outst [tag]) d l).getD ((h.putG d0 m f 0 tag full p).regLane d l) := by
    rw [putG_outst]
    rfl
  rw [hread]
  by_cases e : d = d0
  · subst e
    obtain ⟨r, full', hfrom, hr⟩ := putG_regLane_same h m f tag full p hd
    rw [hr]
    refine ⟨fun _ hm => ?_, fun hn => ?_⟩
    · rw [overlay_supersede_same d h.outst [tag] hm]
      exact write_lane_holds r ht full' hl hm
    · obtain ⟨hm, hf⟩ := hn rfl
      rw [overlay_supersede_other d h.outst [tag] (fun _ => hm), Hand.readDst, ← hfrom hf]
      cases overlay h.outst d l with
      | none => exact write_lane_sameBut r ht full' hl hm
      | some _ => exact ⟨rfl, rfl⟩
  · refine ⟨fun e' => absurd e' e, fun _ => ?_⟩
    rw [overlay_supersede_other d0 h.outst [tag] (fun e' => absurd e' e), putG_regLane_other h m f tag full p hp hd e]
    exact ⟨rfl, rfl⟩

/-- The places of a name are written one after the other: a lane that one of them holds reads what is written to it, if each place of that
destination holds it; a lane that none of them holds reads as before, without a full write. -/
theorem foldl_writePlace_step (ps : List (Dst × Lanes)) (hps : ∀ p ∈ ps, p.1.Named) (hs : s.hand? k = some h) (hc : h.core = c) : ∃ h',
    RegStep k c s (ps.foldl (fun s p => s.writePlace k full f tag p) s) h h' ∧ ∀ d l, d.Named → l < 32 →
      ((∃ p ∈ ps, d = p.1) → (∀ p ∈ ps, d = p.1 → p.2.has l = true) → (h'.readDst d l).Holds ((f l).zeroExtend 64)) ∧
      ((∀ p ∈ ps, d = p.1 → p.2.has l = false ∧ full = false) → (h'.readDst d l).SameBut (h.readDst d l)) := by
  induction ps using List.reverseRecOn with
  | nil => exact ⟨h, RegStep.refl hs, fun d l _ _ => ⟨fun ⟨_, hp, _⟩ => absurd hp List.not_mem_nil, fun _ => ⟨rfl, rfl⟩⟩⟩
  | append_singleton ps p ih =>
    obtain ⟨h1, hstep, hr⟩ := ih fun q hq => hps q (List.mem_append_left _ hq)
    have hlast : p ∈ ps ++ [p] := List.mem_append_right _ (List.mem_singleton.mpr rfl)
    obtain ⟨h2, hstep2, hr2⟩ := writePlace_step f ht (hps p hlast) hstep.hand (hstep.core_eq hc)
    rw [List.foldl_append, List.foldl_cons, List.foldl_nil]
    refine ⟨h2, hstep.trans hstep2, fun d l hd hl => ?_⟩
    obtain ⟨hin, hout⟩ := hr d l hd hl
    obtain ⟨hin2, hout2⟩ := hr2 d l hd hl
    refine ⟨fun ⟨q, hq, he⟩ hall => ?_, fun hall => ?_⟩
    · by_cases e : d = p.1
      · exact hin2 e (hall p hlast e)
      · obtain ⟨hv, hp⟩ := hout2 fun e' => absurd e' e
        have hq' : q ∈ ps := (List.mem_append.mp hq).resolve_right fun hq => e (by rw [he, List.mem_singleton.mp hq])
        obtain ⟨hv', hp'⟩ := hin ⟨q, hq', he⟩ fun q hq => hall q (List.mem_append_left _ hq)
        exact ⟨hv.trans hv', hp.trans hp'⟩
    · obtain ⟨hv, hp⟩ := hout2 (hall p hlast)
      obtain ⟨hv', hp'⟩ := hout fun q hq => hall q (List.mem_append_left _ hq)
      exact ⟨hv.trans hv', hp.trans hp'⟩

/-- A write of a name in lanes. -/
theorem writeG_step (n : Nat) (act : Lanes) (hs : s.hand? k = some h) (hc : h.core = c) : ∃ h',
    RegStep k c s (s.writeG k n act f tag) h h' ∧ ∀ l m, h.live.has l = true →
      (m = n ∧ act.has l = true → (h'.readG l m).Holds ((f l).zeroExtend 64)) ∧
      (¬ (m = n ∧ act.has l = true) → (h'.readG l m).SameBut (h.readG l m)) := by
  unfold State.writeG
  dsimp only
  rw [hand_of_hand? hs]
  obtain ⟨h', hstep, hr⟩ := foldl_writePlace_step (full := h.coveredBy act) f ht (h.places act n) (fun p hp => named_of_mem_places hp) hs hc
  refine ⟨h', hstep, fun l m hlive => ?_⟩
  have hl := Lanes.lt_of_has hlive
  have hres : h'.resolve l m = h.resolve l m := by
    rw [hstep.regs]
    rfl
  rw [Hand.readG, hres, Hand.readG]
  obtain ⟨hin, hout⟩ := hr (h.resolve l m) l (resolve_named h l m) hl
  have hnum {p : Dst × Lanes} (hp : p ∈ h.places act n) (he : h.resolve l m = p.1) : m = n := by
    rw [← resolve_num h l m, he, num_of_mem_places hp]
  refine ⟨fun ⟨hm, hact⟩ => ?_, fun hnot => hout fun p hp he => ?_⟩
  · subst hm
    obtain ⟨p, hp, he, -⟩ := exists_place (h := h) (n := m) hact
    exact hin ⟨p, hp, he.symm⟩ fun q hq he => (has_of_mem_places hq hl).mpr ⟨hact, he⟩
  · have hact : ¬ act.has l = true := fun ha => hnot ⟨hnum hp he, ha⟩
    exact ⟨Bool.eq_false_iff.mpr fun hh => hact ((has_of_mem_places hp hl).mp hh).1,
      Bool.eq_false_iff.mpr fun hcov => hact (has_of_coveredBy hcov hlive)⟩

end

end Sys2Proof.Machine
end

section
/-!
PROOFS. What an integer instruction leaves unchanged (O2).
-/
namespace Sys2Proof.Machine

/-! ## Steps on a hand that keep its g registers -/

theorem RegsOnly.gOnly {h h' : Hand} (hr : RegsOnly h h') (sw : Bool) : GOnly sw h h' := by
  unfold RegsOnly at hr
  rw [hr]
  exact ⟨rfl, fun _ => ⟨rfl, rfl⟩, fun _ => rfl⟩

theorem GOnly.trans {sw : Bool} {a b c : Hand} (h1 : GOnly sw a b) (h2 : GOnly sw b c) : GOnly sw a c := by
  obtain ⟨e1, k1, s1⟩ := h1
  obtain ⟨e2, k2, s2⟩ := h2
  refine ⟨?_, fun h => ?_, fun t => (s2 t).trans (s1 t)⟩
  · rw [e1] at e2
    exact e2
  · obtain ⟨hm, ho⟩ := k1 h
    obtain ⟨hm', ho'⟩ := k2 (h.imp_right ho.trans)
    exact ⟨hm'.trans hm, ho'.trans ho⟩

/-- A step within the frame of an instruction that leaves g registers, and what is outstanding for them, as they are. -/
structure NamesStay (sw : Bool) (h h' : Hand) : Prop where
  gOnly : GOnly sw h h'
  map : h'.map = h.map
  trapWin : h'.trapWin = h.trapWin
  outst : h'.outst = h.outst

namespace NamesStay
variable {sw : Bool} {a b c : Hand}

theorem refl (sw : Bool) (h : Hand) : NamesStay sw h h := ⟨⟨rfl, fun _ => ⟨rfl, rfl⟩, fun _ => rfl⟩, rfl, rfl, rfl⟩

theorem trans (h1 : NamesStay sw a b) (h2 : NamesStay sw b c) : NamesStay sw a c :=
  ⟨h1.gOnly.trans h2.gOnly, h2.map.trans h1.map, h2.trapWin.trans h1.trapWin, h2.outst.trans h1.outst⟩

theorem readG_eq (h : NamesStay sw a b) (l n : Nat) : b.readG l n = a.readG l n := by
  obtain ⟨⟨e, -, -⟩, hm, ht, ho⟩ := h
  have hres : b.resolve l n = a.resolve l n := by
    rw [e]
    rfl
  have hreg (d : Dst) : b.regLane d l = a.regLane d l := by
    unfold Hand.regLane Hand.mapping
    rw [hm, ht]
  rw [Hand.readG, hres, Hand.readDst, ho, hreg]
  rfl

end NamesStay

/-! ## Retirement in the hand (R86, R120, R136, R182) -/

/-- The threads of the split that are given no PC go on at the next instruction; the split has passed no compare point of it. -/
def Hand.fallThrough (h : Hand) (i : SplitIssue) (moved : Lanes) : Hand :=
  { h with
    pc := (List.range 32).map (fun t => if (i.lanes &&& ~~~moved).has t && h.live.has t then i.next else h.pc.getD t 0),
    passed := h.passed &&& ~~~i.lanes }

/-- At a switch marker, the split joins the views that are owed to it. -/
def Hand.joinOwed (h : Hand) (i : SplitIssue) (w : CoreWords) : Hand := if w.sw && !h.owed.isEmpty then h.takeOwed i.lanes else h

/-- At a switch marker, the split parks while results are outstanding for it. -/
def Hand.parkAtMarker (h : Hand) (i : SplitIssue) (w : CoreWords) : Hand :=
  if w.sw && h.outst.any (fun o => !o.returned && (o.split &&& i.lanes) != 0) then { h with parks := h.parks ++ [(i.lanes &&& h.live, .marker)] }
  else h

/-- What the retirement of an instruction that acts only within its hand does to the hand. -/
def Hand.retired (h : Hand) (i : SplitIssue) (w : CoreWords) (moved : Lanes) : Hand :=
  (((h.fallThrough i moved).reachEdge (i.lanes &&& ~~~moved &&& h.live) i.pc).joinOwed i w).parkAtMarker i w

theorem retire_eq (s : State) (i : SplitIssue) (w : CoreWords) (moved : Lanes) : s.retire i w moved false =
    ((s.updHand i.hand (fun h => h.retired i w moved)).countIssue i w.rb).finishCycle i.core i.slot := rfl

section
variable (h : Hand) (i : SplitIssue) (w : CoreWords) (moved : Lanes)

theorem namesStay_fallThrough (sw : Bool) : NamesStay sw h (h.fallThrough i moved) :=
  ⟨⟨rfl, fun _ => ⟨rfl, rfl⟩, fun _ => rfl⟩, rfl, rfl, rfl⟩

theorem namesStay_reachEdge (sw : Bool) (lanes : Lanes) (pc : DWord) : NamesStay sw h (h.reachEdge lanes pc) := by
  unfold Hand.reachEdge
  split
  · exact NamesStay.refl sw h
  · exact ⟨⟨rfl, fun _ => ⟨rfl, rfl⟩, fun _ => rfl⟩, rfl, rfl, rfl⟩

/-- Threads that join views keep their store buffers. -/
theorem takeOwed_sb (lanes : Lanes) (t : Nat) : ((h.takeOwed lanes).thread t).sb = (h.thread t).sb := by
  by_cases ht : t < h.mem.length
  · have hm : (h.takeOwed lanes).thread t = if lanes.has t then { h.thread t with 
        view := h.owed.foldl (fun v j => if j.1 = t then View.join v j.2 else v) (h.thread t).view } else h.thread t := by
      simp [Hand.takeOwed, Hand.thread, ht]
    rw [hm]
    split <;> rfl
  · simp [Hand.takeOwed, Hand.thread, ht]

theorem namesStay_joinOwed : NamesStay w.sw h (h.joinOwed i w) := by
  unfold Hand.joinOwed
  split
  · next hsw =>
    refine ⟨⟨rfl, fun hno => absurd hsw ?_, takeOwed_sb h i.lanes⟩, rfl, rfl, rfl⟩
    obtain hno | hno := hno <;> simp [hno]
  · exact NamesStay.refl w.sw h

theorem namesStay_parkAtMarker (sw : Bool) : NamesStay sw h (h.parkAtMarker i w) := by
  unfold Hand.parkAtMarker
  split
  · exact ⟨⟨rfl, fun _ => ⟨rfl, rfl⟩, fun _ => rfl⟩, rfl, rfl, rfl⟩
  · exact NamesStay.refl sw h

theorem namesStay_retired : NamesStay w.sw h (h.retired i w moved) :=
  (namesStay_fallThrough h i moved w.sw).trans ((namesStay_reachEdge _ w.sw _ i.pc).trans
    ((namesStay_joinOwed _ i w).trans (namesStay_parkAtMarker _ i w w.sw)))

end

/-! ## The end of a cycle (R81, R115, R117) -/

/-- A slot's run belongs to a hand, if it is anyone's, and ends plainly. -/
def Slot.PlainFor (sl : Slot) (k : Nat) : Prop := (∀ hk, sl.hand = some hk → hk = k) ∧ sl.fate = .plain

theorem slot_updSlot (s : State) (c k : Nat) (f : Slot → Slot) : (s.updSlot c k f).slot c k = if k < 4 then f (s.slot c k) else Slot.init := by
  rw [State.slot, State.updSlot, core_updCore_same, getD_putAt]
  simp only [if_true, State.slot]

theorem updSlot_within (k c : Nat) (s : State) (j : Nat) (f : Slot → Slot) : Within k c s (s.updSlot c j f) :=
  Within.updCore (fun _ => rfl) k c s

section
variable {s : State} {i : SplitIssue} {k : Nat}

theorem countIssue_within (k : Nat) (s : State) (i : SplitIssue) (rb : Bool) : Within k i.core s (s.countIssue i rb) := by
  unfold State.countIssue
  dsimp only
  split
  · exact (updSlot_within k i.core s i.slot _).trans (Within.updCore (fun _ => rfl) k i.core _)
  · exact updSlot_within k i.core s i.slot _

theorem countIssue_hand? (rb : Bool) : (s.countIssue i rb).hand? k = s.hand? k := by
  unfold State.countIssue
  dsimp only
  split <;> rfl

/-- A counted instruction does not change whose run it is, nor how it ends. -/
theorem countIssue_plainFor (rb : Bool) (hp : (s.slot i.core i.slot).PlainFor k) : ((s.countIssue i rb).slot i.core i.slot).PlainFor k := by
  have hu (f : Slot → Slot) (hf : (f (s.slot i.core i.slot)).PlainFor k) : ((s.updSlot i.core i.slot f).slot i.core i.slot).PlainFor k := by
    rw [slot_updSlot]
    split
    · exact hf
    · exact ⟨fun _ he => absurd he (by simp [Slot.init]), rfl⟩
  unfold State.countIssue
  dsimp only
  split
  · rw [State.slot, core_updCore_same]
    exact hu _ hp
  · exact hu _ hp

end

section
variable {s : State} {k c j : Nat} {h : Hand} (hs : s.hand? k = some h) (hp : (s.slot c j).PlainFor k)
  (hh : h.haltReq = false) (hst : h.stepHalt = false)
include hs hp hh hst

/-- The end of a plain run changes only the state of its hand. -/
theorem endRun_plain (swapAt : State → Nat → State) : ∃ st, Within k c s (s.endRun c j swapAt) ∧
    (s.endRun c j swapAt).hand? k = some { h with state := st } := by
  obtain ⟨hk, hf⟩ := hp
  unfold State.endRun
  dsimp only
  split
  · exact ⟨h.state, Within.refl k c s, hs⟩
  · next hk' he =>
    obtain rfl := hk hk' he
    have hw := updSlot_within hk' c s j (fun x => { x with hand := none, count := 0, second := none, ending := false, fate := .plain })
    have hu : (s.updSlot c j (fun x => { x with hand := none, count := 0, second := none, ending := false, fate := .plain })).hand? hk' = some h := hs
    rw [hand_of_hand? hu]
    split
    · exact ⟨h.state, hw, hu⟩
    · rw [if_neg (by simp [hh, hst]), hf]
      exact ⟨h.afterRun, hw.trans (Within.updHand (f := fun h => { h with state := h.afterRun }) (fun _ => rfl) hk' c _),
        hand?_updHand_same (f := fun h => { h with state := h.afterRun }) (fun _ => rfl) hu⟩

/-- At the end of a cycle, so does the slot's, while a thread of the hand has not exited. -/
theorem finishCycle_plain (hl : h.live ≠ 0) : ∃ st, Within k c s (s.finishCycle c j) ∧
    (s.finishCycle c j).hand? k = some { h with state := st } := by
  have hstay : ∃ st, Within k c s s ∧ s.hand? k = some { h with state := st } := ⟨h.state, Within.refl k c s, hs⟩
  unfold State.finishCycle
  dsimp only
  split
  · next hk he _ =>
    obtain rfl := hp.1 hk he
    rw [hand_of_hand? hs, if_neg (by simpa using hl : ¬ (h.live == 0) = true)]
    split
    · exact hstay
    · split
      · exact endRun_plain hs hp hh hst State.yieldSwap
      · exact hstay
  · exact hstay

end

/-! ## Discarded errors (R220) -/

/-- The hand's record of poison that it has read, for names that are poisoned still. -/
def Hand.keepSeen (h : Hand) (ps : List (Dst × Lanes)) : Hand := { h with seen := h.seen.filter (fun y => ps.any (fun p => p.1.num = y.1)) }

theorem logDiscards_eq (s : State) {h : Hand} (he : h.poisons.isEmpty = false) : ∃ (lost : Bool) (banks : List Bank), s.logDiscards h =
    if lost then { s.updHand h.key (fun x => x.keepSeen (s.hand h.key).poisons) with cluBanks := banks }
    else s.updHand h.key (fun x => x.keepSeen (s.hand h.key).poisons) :=
  ⟨_, _, if_neg (ne_true_of_eq_false he)⟩

/-- Logging discarded errors changes, of the hand, only its record of poison that it has read. -/
theorem logDiscards_frame {s : State} {k : Nat} {x : Hand} (hs : s.hand? k = some x) {h : Hand} (hkey : h.key = k) (c : Nat) :
    ∃ seen, Within k c s (s.logDiscards h) ∧ (s.logDiscards h).hand? k = some { x with seen := seen } := by
  subst hkey
  cases he : h.poisons.isEmpty with
  | true =>
    rw [State.logDiscards, if_pos he]
    exact ⟨x.seen, Within.refl h.key c s, hs⟩
  | false =>
    obtain ⟨lost, banks, hd⟩ := logDiscards_eq s he
    have hw := Within.updHand (f := fun x => x.keepSeen (s.hand h.key).poisons) (fun _ => rfl) h.key c s
    have hu := hand?_updHand_same (f := fun x => x.keepSeen (s.hand h.key).poisons) (fun _ => rfl) hs
    rw [hd]
    split
    · exact ⟨_, hw.trans ⟨rfl, fun _ _ => rfl, fun _ _ => rfl, rfl⟩, hu⟩
    · exact ⟨_, hw, hu⟩

/-! ## An instruction that acts only within its hand retires -/

theorem live_ne_zero {h : Hand} {lanes : Lanes} (hx : lanes &&& h.exited = 0) (hl : lanes ≠ 0) : h.live ≠ 0 := by
  intro h0
  refine hl (Lanes.eq_zero_iff.mpr fun t => Bool.eq_false_iff.mpr fun ht => ?_)
  have hex := Lanes.eq_zero_iff.mp hx t
  have hlive := Lanes.eq_zero_iff.mp h0 t
  have ht32 := Lanes.lt_of_has ht
  rw [Lanes.has_and, ht, Bool.true_and] at hex
  simp [Hand.live, hex, ht32] at hlive

section
variable {s u : State} {i : SplitIssue} {h x : Hand} (hs : s.hand? i.hand = some h) (hrun : RunsOn s i) (hu : RegStep i.hand i.core s u h x)
include hs hrun hu

/-- An instruction that has changed only registers retires: its hand's registers are as it has left them, and the frame stays. -/
theorem finish_frame (w : CoreWords) : ∃ y, Within i.hand i.core s (s.finish i w 0 false u) ∧ (s.finish i w 0 false u).hand? i.hand = some y ∧
    NamesStay w.sw x y := by
  obtain ⟨-, -, hslot, hex, hlanes, hhalt, hstep, hfate⟩ := hrun
  rw [hand_of_hand? hs] at hex hhalt hstep
  have hret : NamesStay w.sw x (x.retired i w 0) := namesStay_retired x i w 0
  have hfix : (x.retired i w 0).haltReq = h.haltReq ∧ (x.retired i w 0).stepHalt = h.stepHalt ∧ (x.retired i w 0).live = h.live := by
    obtain ⟨e, -, -⟩ := (hu.regs.gOnly w.sw).trans hret.gOnly
    rw [e]
    exact ⟨rfl, rfl, rfl⟩
  obtain ⟨ehalt, estep, elive⟩ := hfix
  have hkey (a : Hand) : (a.retired i w 0).key = a.key := by
    obtain ⟨e, -, -⟩ := (namesStay_retired a i w 0).gOnly
    rw [e]
  have hw1 := Within.updHand (f := fun a => a.retired i w 0) hkey i.hand i.core u
  have hu1 := hand?_updHand_same (f := fun a => a.retired i w 0) hkey hu.hand
  have hplain : (u.slot i.core i.slot).PlainFor i.hand := by
    have he : u.slot i.core i.slot = s.slot i.core i.slot := by rw [State.slot, hu.slots, State.slot]
    rw [he]
    exact ⟨fun hk e => Option.some.inj (e.symm.trans hslot), hfate⟩
  obtain ⟨st, hw2, hu2⟩ := finishCycle_plain (c := i.core) (j := i.slot) ((countIssue_hand? w.rb).trans hu1) (countIssue_plainFor w.rb hplain)
    (ehalt.trans hhalt) (estep.trans hstep) (elive ▸ live_ne_zero hex hlanes)
  obtain ⟨seen, hw3, hu3⟩ := logDiscards_frame hu2 (key_of_hand? hs) i.core
  refine ⟨_, ?_, ?_, hret.trans (c := { x.retired i w 0 with state := st, seen := seen })
    ⟨⟨rfl, fun _ => ⟨rfl, rfl⟩, fun _ => rfl⟩, rfl, rfl, rfl⟩⟩
  · rw [State.finish, retire_eq, hand_of_hand? hs]
    exact hu.within.trans (hw1.trans ((countIssue_within i.hand _ i w.rb).trans (hw2.trans hw3)))
  · rw [State.finish, retire_eq, hand_of_hand? hs]
    exact hu3

end

/-! ## The integer instructions (R280) -/

section
variable {s : State} {k c : Nat} {h : Hand}

/-- Names that last-read bits do not free read as before. -/
theorem released_step (i : SplitIssue) (lr : List Nat) (hs : s.hand? i.hand = some h) (hc : h.core = c) : ∃ h',
    RegStep i.hand c s (s.released i lr) h h' ∧ ∀ l n, n ∉ lr → h'.readG l n = h.readG l n := by
  unfold State.released
  split
  · exact ⟨h, RegStep.refl hs, fun _ _ _ => rfl⟩
  · rw [freeNames_eq]
    obtain ⟨h', hstep, hr⟩ := foldl_freeName_step (s.freedDsts i i.lanes lr) hs hc
    refine ⟨h', hstep, fun l n hn => ?_⟩
    have hres : h'.resolve l n = h.resolve l n := by
      rw [hstep.regs]
      rfl
    rw [Hand.readG, hres, hr _ _ fun d hd e => hn ?_, Hand.readG]
    rw [← resolve_num h l n, e]
    exact num_of_mem_freedDsts hd

/-- D reads as what is written in the active lanes, unless it is the zero name; every other name, and D in other lanes, reads as before. -/
theorem writeD_step (i : SplitIssue) (w : CoreWords) (act : Lanes) (f : Nat → Word) {tag : BitVec 4} (ht : tag ≠ 0xF)
    (hs : s.hand? i.hand = some h) (hc : h.core = c) : ∃ h',
    RegStep i.hand c s (s.writeD i w act f tag) h h' ∧ ∀ l n, h.live.has l = true →
      (n = w.nameD ∧ w.nameD ≠ w.zeroName ∧ act.has l = true → (h'.readG l n).Holds ((f l).zeroExtend 64)) ∧
      (¬ (n = w.nameD ∧ w.nameD ≠ w.zeroName ∧ act.has l = true) → (h'.readG l n).SameBut (h.readG l n)) := by
  unfold State.writeD
  split
  · next hz => exact ⟨h, RegStep.refl hs, fun l n _ => ⟨fun hd => absurd hz hd.2.1, fun _ => ⟨rfl, rfl⟩⟩⟩
  · next hz =>
    obtain ⟨h', hstep, hr⟩ := writeG_step f ht w.nameD act hs hc
    refine ⟨h', hstep, fun l n hl => ?_⟩
    obtain ⟨hin, hout⟩ := hr l n hl
    exact ⟨fun ⟨hn, _, ha⟩ => hin ⟨hn, ha⟩, fun hno => hout fun ⟨hn, ha⟩ => hno ⟨hn, hz, ha⟩⟩

end

theorem IntRow.tag_ne_poison (r : IntRow) (w : CoreWords) : r.tag w ≠ 0xF := by
  unfold IntRow.tag
  split
  · split <;> decide
  · decide

/-- Registers that are read, freed and written: the instruction retires with its result in D. -/
theorem IntRow.exec_result {r : IntRow} (hr : r ∈ intRows) {s : State} {i : SplitIssue} {w : CoreWords} {hForm : Bool} (h : Issues s i w)
    (hread : Readable s i (s.acting i w) (r.ops hForm w) w.gDst (r.lr hForm w)) :
    exec (r.instr hForm w) s = .next (s.finish i w 0 false
      ((s.released i (r.lr hForm w)).writeD i w (s.acting i w) (r.value hForm w (s.hand i.hand) i.uni) (r.tag w))) := by
  rw [intRows_run r hr hForm w s]
  exact execCore_ok h rfl (withRegs_ok hread rfl)

/-- Settles O2: names are freed, D is written and the instruction retires, each within the frame. -/
theorem integerFrame : Obligations.IntegerFrame := by
  intro s i w r hForm hr hi hrun h act hread
  obtain ⟨x, hs⟩ := Option.isSome_iff_exists.mp hrun.1
  have hx : h = x := hand_of_hand? hs
  have hc : x.core = i.core := hx ▸ hrun.2.1
  obtain ⟨x1, hfree, hr1⟩ := released_step i (r.lr hForm w) hs hc
  obtain ⟨x2, hwrite, hr2⟩ := writeD_step i w act (r.value hForm w h i.uni) (r.tag_ne_poison w) hfree.hand (hfree.core_eq hc)
  obtain ⟨y, hw, hy, hstay⟩ := finish_frame hs hrun (hfree.trans hwrite) w
  refine ⟨_, IntRow.exec_result hr hi hread, hw.only, hw.others, hw.core, ?_, ?_, fun l n hl hex => ?_⟩
  · rw [hand_of_hand? hy, hx]
    exact ((hfree.trans hwrite).regs.gOnly w.sw).trans hstay.gOnly
  · rw [hw.only]
  · have hlive : x1.live.has l = true := by
      rw [hfree.regs]
      rw [hx] at hex
      simp [Hand.live, hl, hex]
    obtain ⟨hin, hout⟩ := hr2 l n hlive
    rw [hand_of_hand? hy, hstay.readG_eq]
    refine ⟨hin, fun hno hfreed => ?_⟩
    obtain ⟨hv, hp⟩ := hout hno
    rw [hv, hp, hr1 l n hfreed, hx]
    exact ⟨rfl, rfl⟩

end Sys2Proof.Machine
end

section
/-!
PROOFS. Copies, fills and jobs complete, and a sort is a stable permutation of its keys (O43).
-/
namespace Sys2Proof.Machine

/-! ## Sorting (R374) -/

section
variable (x : Nat × Nat)

theorem insertKey_perm (l : List (Nat × Nat)) : (insertKey x l).Perm (l ++ [x]) := by
  induction l with
  | nil => exact .refl _
  | cons y l ih =>
    rw [insertKey]
    split
    · exact (List.perm_append_singleton x (y :: l)).symm
    · exact ih.cons y

variable {l : List (Nat × Nat)}

theorem insertKey_sorted (h : l.Pairwise (fun x y => x.1 ≤ y.1)) : (insertKey x l).Pairwise (fun x y => x.1 ≤ y.1) := by
  induction l with
  | nil => exact List.pairwise_singleton _ x
  | cons y l ih =>
    obtain ⟨hy, hl⟩ := List.pairwise_cons.mp h
    rw [insertKey]
    split
    · next hlt =>
      refine List.pairwise_cons.mpr ⟨fun z hz => ?_, h⟩
      obtain rfl | hz := List.mem_cons.mp hz
      · exact hlt.le
      · exact hlt.le.trans (hy z hz)
    · next hge =>
      refine List.pairwise_cons.mpr ⟨fun z hz => ?_, ih hl⟩
      obtain hz | hz := List.mem_append.mp ((insertKey_perm x l).mem_iff.mp hz)
      · exact hy z hz
      · rw [List.mem_singleton.mp hz]
        exact not_lt.mp hge

/-- In a sorted list the new key comes after those equal to it. -/
theorem insertKey_filter (h : l.Pairwise (fun x y => x.1 ≤ y.1)) (k : Nat) :
    (insertKey x l).filter (fun x => x.1 = k) = (l ++ [x]).filter (fun x => x.1 = k) := by
  induction l with
  | nil => rfl
  | cons y l ih =>
    obtain ⟨hy, hl⟩ := List.pairwise_cons.mp h
    rw [insertKey]
    split
    · next hlt =>
      have hlarger : ∀ z ∈ y :: l, x.1 < z.1 := List.forall_mem_cons.mpr ⟨hlt, fun z hz => hlt.trans_le (hy z hz)⟩
      by_cases hk : x.1 = k
      · have hnone : (y :: l).filter (fun x => x.1 = k) = [] :=
          List.filter_eq_nil_iff.mpr fun z hz => by simpa using hk ▸ (hlarger z hz).ne'
        rw [← List.singleton_append, List.filter_append, List.filter_append, hnone, List.append_nil, List.nil_append]
      · rw [List.filter_append, List.filter_cons_of_neg (a := x) (by simpa using hk), List.filter_cons_of_neg (a := x) (by simpa using hk),
          List.filter_nil, List.append_nil]
    · rw [List.cons_append, List.filter_cons, List.filter_cons, ih hl]

end

/-- What a fold of insertions makes of a sorted list: all keys, in order, equal ones in the order in which they came. -/
theorem foldl_insertKey (xs : List (Nat × Nat)) {l : List (Nat × Nat)} (h : l.Pairwise (fun x y => x.1 ≤ y.1)) :
    let r := xs.foldl (fun l x => insertKey x l) l
    r.Perm (l ++ xs) ∧ r.Pairwise (fun x y => x.1 ≤ y.1) ∧ ∀ k, r.filter (fun x => x.1 = k) = (l ++ xs).filter (fun x => x.1 = k) := by
  induction xs generalizing l with
  | nil => simp [h]
  | cons x xs ih =>
    obtain ⟨hp, hs, hf⟩ := ih (insertKey_sorted x h)
    refine ⟨?_, hs, fun k => ?_⟩
    · rw [List.append_cons]
      exact hp.trans ((insertKey_perm x l).append_right xs)
    · rw [List.append_cons, List.filter_append, ← insertKey_filter x h k, ← List.filter_append]
      exact hf k

theorem sortKeys_stable (xs : List (Nat × Nat)) : (sortKeys xs).Perm xs ∧ (sortKeys xs).Pairwise (fun x y => x.1 ≤ y.1) ∧
    ∀ k, (sortKeys xs).filter (fun x => x.1 = k) = xs.filter (fun x => x.1 = k) :=
  foldl_insertKey xs .nil

/-! ## Copies and fills (R369, R158, R159) -/

section
variable {s : State} {c : Copy} (hc : s.kickCopies.copies.find? (fun c => c.id = s.kickCopies.args.n) = some c) (hm : c.moving = true)
  (ho : s.kickCopies.linesOpen c.id = false) (hp : (s.kickCopies.hand c.fork.hand).pair ≠ 2)
include hc hm ho hp

/-- A moving copy of no twin, whose lines have all arrived, sends its next line or ends. -/
theorem execCopyComplete_moves : execCopyComplete s = .next (if s.kickCopies.linesLeft c
    then (s.kickCopies.copyStep c.id none s.kickCopies.args.picks).copyStep c.id (some 0) []
    else s.kickCopies.endCopy c s.kickCopies.args.picks) := by
  have hp' : ((s.kickCopies.hand c.fork.hand).pair == 2) = false := beq_eq_false_iff_ne.mpr hp
  simp only [execCopyComplete, hc, hm, ho, hp', Bool.not_true, Bool.false_and, Bool.or_self, Bool.false_eq_true, if_false]
  split <;> rfl

end

theorem execWindowFillEnd_ends {s : State} {x : Window}
    (hx : (s.cluster s.args.n).windows.find? (fun x => x.idx = s.args.m && x.state == 1) = some x) (hf : s.forkReady x.fork = true)
    (ho : s.linesOpen x.fill = false) : execWindowFillEnd s = .next (s.endFill s.args.n x s.args.picks) := by
  simp only [execWindowFillEnd, hx, hf, ho, Bool.not_false, Bool.and_self, if_true]

/-! ## Jobs (R374) -/

/-- The oldest unfinished job of a queue is replaced in its place. -/
def State.putJob (s : State) (k q : Nat) (j : Job) : State :=
  { s with jobs := s.jobs.takeWhile (fun x => !x.next k q) ++ [j] ++ (s.jobs.dropWhile (fun x => !x.next k q)).tail }

/-- The state after a job has read its memory: what it met is logged. -/
def State.jobLogged (s : State) (j : Job) (bad : List Nat) : State := bad.foldl State.logUE (s.crossHome (coreDie j.core) j.loc)

/-- A job has ended: its status word, flags and view. -/
def Job.ended (j : Job) (word : DWord) (f : Flags) (v : View) : Job :=
  { j with ran := some word, finished := some word, flags := f, wait := [], fork := { j.fork with view := v, started := true } }

section
variable {s : State} {j : Job} {v : View} {picks bad : List Nat}

theorem runQueue_error {code : Nat} (h : s.runJob j (s.forkView j.fork) picks = (.error code, v, bad)) :
    s.runQueue j picks = ({ j with ran := some (BitVec.ofNat 64 (2 + code * 2 ^ 8)), fork := { j.fork with view := v, started := true } },
      s.jobLogged j bad) := by rw [State.runQueue, h]; rfl

theorem runQueue_done {loc : Nat} {bs : List (BitVec 8)} {f : Flags} {n : Nat}
    (h : s.runJob j (s.forkView j.fork) picks = (.done loc bs f n, v, bad)) :
    s.runQueue j picks = ({ j with
      ran := some (BitVec.ofNat 64 (n * 2 ^ 32)), flags := f, wait := chunksOf loc bs, fork := { j.fork with view := v, started := true } },
      s.jobLogged j bad) := by rw [State.runQueue, h]; rfl

end

/-- No `qget` waits: none is answered. -/
theorem serveQgets_none {s : State} {k q : Nat} (h : (s.hand k).outst.find? (fun o => !o.returned && o.work == .qget q) = none) (n : Nat) :
    State.serveQgets k q n s = s := by
  cases n with
  | zero => rfl
  | succ n => simp only [State.serveQgets, h]

section
variable {s t : State} {j j' : Job} {h : Hand} {v : View}
  (hj : s.jobs.find? (Job.next s.args.n s.args.m) = some j) (hf : s.forkReady j.fork = true) (hr : j.ran = none) (hk : h.state ≠ .killed)
  (hq : h.outst.find? (fun o => !o.returned && o.work == .qget s.args.m) = none)
include hj hf hr hk hq

/-- A job that has run, and whose writes have drained in a state with its hand alive, stands finished in its place. -/
theorem execJobComplete_ran {r : Job × State} (hrun : s.runQueue j s.args.picks = r)
    (hw : State.writeChunks (clusterParty (coreCluster r.1.core)) r.1.wait (r.2, r.1.fork.view) = (t, v)) (hh : t.hand? s.args.n = some h) :
    execJobComplete s = .next (t.putJob s.args.n s.args.m
      { r.1 with finished := r.1.ran, wait := [], fork := { r.1.fork with view := v } }) := by
  have hk' : (h.state == HandState.killed) = false := beq_eq_false_iff_ne.mpr hk
  simp only [execJobComplete, hj, hf, hr, hrun, hw, hh, hk', Bool.not_true, Option.isSome_none, Bool.false_eq_true, if_false]
  refine congrArg _ (serveQgets_none ?_ _)
  exact (congrArg (fun h : Hand => h.outst.find? (fun o => !o.returned && o.work == .qget s.args.m)) (hand_of_hand? hh)).trans hq

variable {bad : List Nat}

/-- A job that ends with an error has written nothing. -/
theorem execJobComplete_fails {code : Nat} (hrun : s.runJob j (s.forkView j.fork) s.args.picks = (.error code, v, bad)) (hw : j.wait = [])
    (hh : (s.jobLogged j bad).hand? s.args.n = some h) :
    execJobComplete s = .next ((s.jobLogged j bad).putJob s.args.n s.args.m (j.ended (BitVec.ofNat 64 (2 + code * 2 ^ 8)) j.flags v)) :=
  execJobComplete_ran hj hf hr hk hq (runQueue_error hrun) (by rw [hw]; rfl) hh

/-- A job that ends well has written its bytes. -/
theorem execJobComplete_done {u : State} {v' : View} {loc : Nat} {bs : List (BitVec 8)} {f : Flags} {n : Nat}
    (hrun : s.runJob j (s.forkView j.fork) s.args.picks = (.done loc bs f n, v, bad))
    (hw : State.writeChunks (clusterParty (coreCluster j.core)) (chunksOf loc bs) (s.jobLogged j bad, v) = (u, v')) (hh : u.hand? s.args.n = some h) :
    execJobComplete s = .next (u.putJob s.args.n s.args.m (j.ended (BitVec.ofNat 64 (n * 2 ^ 32)) f v')) :=
  execJobComplete_ran hj hf hr hk hq (runQueue_done hrun) hw hh

end

/-- Settles O43: each step is the equation of its unit, and a fold of insertions keeps the sorted order and that of equal keys. -/
theorem enginesComplete : Obligations.EnginesComplete := by
  refine ⟨fun s c hc hm ho hp => ?_, fun s x => execWindowFillEnd_ends, ?_, sortKeys_stable⟩
  · have he := execCopyComplete_moves hc hm ho hp
    exact ⟨fun hl => he.trans (by rw [if_neg (ne_true_of_eq_false hl)]), fun hl => he.trans (by rw [if_pos hl])⟩
  · intro s j h r v bad is hj hf hr hh hk hq hrun logged put ends
    refine ⟨fun code e hl hw => ?_, fun loc bs f n e => ?_⟩ <;> subst e
    · exact execJobComplete_fails hj hf hr hk hq hrun hw hl
    · exact execJobComplete_done hj hf hr hk hq hrun rfl

end Sys2Proof.Machine
end

section
/-!
PROOFS. Circular buffers, use counters and range chunks (O42).
-/
namespace Sys2Proof.Machine

/-! ## What an action on a buffer comes to (R163) -/

section
variable {s : State} {block n : Nat} {view : View}

/-- What `cbtake` comes to at its block: a `cbtake.full` behind an earlier one waits. -/
def State.takeOut (s : State) (full : Bool) (block : Nat) : CbOut :=
  if full then (if (s.firstTake block).isSome then .wait else s.takeFull block) else s.takeFree block

/-- What `cbgive` comes to at its block. -/
def State.giveOut (s : State) (full : Bool) (block : Nat) (view : View) : CbOut :=
  if full then s.giveFull block view else s.giveFree block

/-- A slot's view is forgotten. -/
def State.dropView (s : State) (block slot : Nat) : State :=
  { s with slotViews := s.slotViews.filter (fun x => !(x.block = block && x.slot == slot)) }

/-- A slot keeps a view, in place of an older one. -/
def State.keepView (s : State) (block slot : Nat) (view : View) : State :=
  { s with slotViews := { block := block, slot := slot, view := view } :: (s.dropView block slot).slotViews }

theorem takeOut_full (h : s.firstTake block = none) : s.takeOut true block = s.takeFull block := by
  simp only [State.takeOut, h, Option.isSome_none, Bool.false_eq_true, if_false, if_true]

theorem takeOut_behind (h : s.firstTake block ≠ none) : s.takeOut true block = .wait := by
  simp only [State.takeOut, Option.isSome_iff_ne_none.mpr h, if_true]

section
variable (h : s.cbRead block = none)
include h

theorem takeFull_broken : s.takeFull block = .fault := by
  unfold State.takeFull
  simp only [h]

theorem takeFree_broken : s.takeFree block = .fault := by
  unfold State.takeFree
  simp only [h]

theorem giveOut_broken (full : Bool) (view : View) : s.giveOut full block view = .fault := by
  unfold State.giveOut State.giveFull State.giveFree
  simp only [h, ite_self]

end

variable (h : s.cbRead block = some n)
include h

theorem takeFull_inFlight (hst : cbState n (cbCI n) = 2) : s.takeFull block = .wait := by
  unfold State.takeFull
  simp only [h, hst]

theorem takeFull_full (hst : cbState n (cbCI n) = 3) : s.takeFull block =
    .value ((s.dropView block (cbCI n)).cbWrite block n (cbNext (cbSet n (cbCI n) 4) 80))
      (BitVec.ofNat 64 (cbAddr n (cbCI n)))
      (((s.slotViews.find? (fun x => x.block = block && x.slot == cbCI n)).map SlotView.view).getD []) := by
  unfold State.takeFull
  simp only [h, hst, State.dropView]

/-- In every other state of the slot. -/
theorem takeFull_empty (h2 : cbState n (cbCI n) ≠ 2) (h3 : cbState n (cbCI n) ≠ 3) : s.takeFull block = .value s cbEmpty [] := by
  unfold State.takeFull
  simp only [h]

theorem takeFree_unfed (hf : cbFeed n = false) : s.takeFree block = .fault := by
  unfold State.takeFree
  simp only [h, hf, Bool.not_false, if_true]

theorem takeFree_free (hf : cbFeed n = true) (hst : cbState n (cbPI n) = 0) : s.takeFree block =
    .value (s.cbWrite block n (cbNext (cbSet n (cbPI n) 1) 64)) (BitVec.ofNat 64 (cbAddr n (cbPI n))) [] := by
  unfold State.takeFree
  simp only [h, hf, hst, Bool.not_true, Bool.false_eq_true, if_false, if_true]

theorem takeFree_empty (hf : cbFeed n = true) (hst : cbState n (cbPI n) ≠ 0) : s.takeFree block = .value s cbEmpty [] := by
  unfold State.takeFree
  simp only [h, hf, hst, Bool.not_true, Bool.false_eq_true, if_false]

theorem giveFull_refused (hst : cbFeed n = false ∨ cbState n (cbWI n) ≠ 1) : s.giveOut true block view = .fault := by
  have hno : (!cbFeed n || cbState n (cbWI n) != 1) = true := by simpa using hst
  unfold State.giveOut State.giveFull
  simp only [h, hno, if_true]

theorem giveFull_gives (hf : cbFeed n = true) (hst : cbState n (cbWI n) = 1) : s.giveOut true block view =
    .value ((s.keepView block (cbWI n) view).cbWrite block n (cbNext (cbSet n (cbWI n) 3) 72)) 0 [] := by
  unfold State.giveOut State.giveFull
  simp only [h, hf, hst, bne_self_eq_false, Bool.not_true, Bool.or_self, Bool.false_eq_true, if_false, if_true,
    State.keepView, State.dropView]

theorem giveFree_gives (hst : cbState n (cbRI n) = 4) : s.giveOut false block view =
    .value (s.cbWrite block n (cbNext (cbSet n (cbRI n) 0) 88)) 0 [] := by
  unfold State.giveOut State.giveFree
  simp only [h, hst, ne_eq, not_true_eq_false, Bool.false_eq_true, if_false]

theorem giveFree_refused (hst : cbState n (cbRI n) ≠ 4) : s.giveOut false block view = .fault := by
  unfold State.giveOut State.giveFree
  simp only [h, hst, ne_eq, not_false_eq_true, Bool.false_eq_true, if_false, if_true]

end

/-! ## Circular-buffer instructions (R372) -/

/-- The descriptor that an instruction names. -/
abbrev State.cbdAt (s : State) (i : SplitIssue) (w : CoreWords) : DWord := (s.core i.core).cbd.getD w.nameA 0

/-- A `cbtake.full` that waits in `s`: it is outstanding, and its split parks. -/
def State.cbWaits (s : State) (i : SplitIssue) (w : CoreWords) (block : Nat) : State :=
  (s.addOutst i.hand (s.acting i w) (.cbTake block i.pc (s.cbdAt i w) s.tick) [pendingDst (.h w.nameD) 0] 0 0).updHand i.hand (fun x =>
    { x with parks := x.parks ++ [(i.lanes &&& x.live, .result (s.hand i.hand).nextId)], yields := 0 })

section
variable {s t : State} {i : SplitIssue} {w : CoreWords} (h : Issues s i w) {full : Bool} {block : Nat} {v cbd : DWord} {view : View}
include h

/-- Without a valid descriptor. -/
theorem cbTakeOp_faults (hb : cbdBlock (i.core / 32) (s.cbdAt i w) = none) :
    cbTakeOp full w s = .next (s.faulted i w (cbFault i (s.acting i w) (s.cbdAt i w))) :=
  execCore_trap h (by simp only [hb])

section
variable (hb : cbdBlock (i.core / 32) (s.cbdAt i w) = some block)
include hb

theorem cbTakeOp_fails (ho : s.takeOut full block = .fault) :
    cbTakeOp full w s = .next (s.finish i w 0 false (s.cbFails i (s.acting i w) (s.cbdAt i w) [pendingDst (.h w.nameD) 0])) := by
  rw [State.takeOut] at ho
  exact execCore_ok h rfl (by simp only [hb, ho])

theorem cbTakeOp_answers (ho : s.takeOut full block = .value t v view) :
    cbTakeOp full w s = .next (s.finish i w 0 false (t.cbAnswer i (s.acting i w) [uniformDst (.h w.nameD) 0 v] view (v != cbEmpty))) := by
  rw [State.takeOut] at ho
  exact execCore_ok h rfl (by simp only [hb, ho])

theorem cbTakeOp_waits (ho : s.takeOut full block = .wait) : cbTakeOp full w s = .next (s.finish i w 0 false (s.cbWaits i w block)) := by
  rw [State.takeOut] at ho
  exact execCore_ok h rfl (by simp only [hb, ho]; rfl)

end

/-- An older store of the split is still in a buffer: it waits at the instruction. -/
theorem cbGiveOp_stalls (hd : s.storesOpen (s.hand i.hand) i.lanes = true) : cbGiveOp full w s =
    .next (((s.updHand i.hand (fun h => { h with parks := h.parks ++ [(i.lanes, .stores)] })).countIssue i w.rb false).finishCycle i.core i.slot) :=
  execCore_stall h (by simp only [hd, if_true])

variable (hd : s.storesOpen (s.hand i.hand) i.lanes = false)
include hd

theorem cbGiveOp_faults (hb : cbdBlock (i.core / 32) (s.cbdAt i w) = none) :
    cbGiveOp full w s = .next (s.faulted i w (cbFault i (s.acting i w) (s.cbdAt i w))) :=
  execCore_trap h (by simp only [hd, hb, Bool.false_eq_true, if_false])

variable (hb : cbdBlock (i.core / 32) (s.cbdAt i w) = some block)
include hb

theorem cbGiveOp_fails (ho : s.giveOut full block ((s.hand i.hand).fork i.lanes.list).view = .fault) :
    cbGiveOp full w s = .next (s.finish i w 0 false (s.cbFails i (s.acting i w) (s.cbdAt i w) [])) := by
  rw [State.giveOut] at ho
  exact execCore_ok h rfl (by simp only [hd, hb, ho, Bool.false_eq_true, if_false])

theorem cbGiveOp_gives (ho : s.giveOut full block ((s.hand i.hand).fork i.lanes.list).view = .value t v view) :
    cbGiveOp full w s = .next (s.finish i w 0 false (t.cbAnswer i (s.acting i w) [] [] true).kickCopies) := by
  rw [State.giveOut] at ho
  exact execCore_ok h rfl (by simp only [hd, hb, ho, Bool.false_eq_true, if_false])

end

/-! ## Use counters (R377) -/

/-- Every counter that the lanes name exists: the lanes are to act on theirs. -/
theorem xcntOp_sends {s : State} {i : SplitIssue} {w : CoreWords} (h : Issues s i w) {lr : List Nat}
    (hlr : lr = w.lrNames w.gA (.lit 0) (.lit 0)) (hr : Readable s i (s.acting i w) [(w.gA, .move)] w.gDst lr)
    (he : ∀ t ∈ (s.acting i w).list, (w.gA.word (s.hand i.hand) i.uni t).toNat < 4096) (clear : Bool) :
    xcntOp clear w s = .next (s.finish i w 0 clear ((s.released i lr).addOutst i.hand (s.acting i w)
      (.xcnt clear ((s.acting i w).list.map (fun t => (t, (w.gA.word (s.hand i.hand) i.uni t).toNat))))
      (asyncDsts ((s.released i lr).hand i.hand) (s.acting i w) w w.gDst 2) 0 0)) := by
  have hgood : Lanes.of (fun t => (s.acting i w).has t && w.gA.word (s.hand i.hand) i.uni t >>> 12 != 0) = 0 := by
    refine Lanes.eq_zero_iff.mpr fun t => ?_
    by_cases ha : (s.acting i w).has t = true
    · have hlow : w.gA.word (s.hand i.hand) i.uni t >>> 12 = 0 := by
        have := he t (Lanes.mem_list.mpr ha)
        apply BitVec.eq_of_toNat_eq
        simp [Nat.shiftRight_eq_div_pow, Nat.div_eq_of_lt this]
      simp [Lanes.has_of, hlow]
    · simp [Lanes.has_of, ha]
  subst hlr
  exact execCore_ok h rfl (withRegs_ok hr (by simp only [hgood, bne_self_eq_false, Bool.false_eq_true, if_false]))

theorem part_updPart_same (s : State) {p : Nat} (hp : p < 16) (f : Part → Part) : (s.updPart p f).part p = f (s.part p) :=
  getD_putAt_same hp _ f _

/-- The counters of a partition after a lane has acted on that of an expert. -/
def State.counted (s : State) (p : Nat) (clear : Bool) (e : Nat) : State :=
  if clear then s.updPart p (fun x => { x with xcnt := insertK e 0 x.xcnt }) else s

theorem counted_eq (s : State) (p : Nat) (clear : Bool) (e : Nat) : s.counted p clear e = { s with parts := (s.counted p clear e).parts } := by
  cases clear <;> rfl

theorem counted_xcnt (s : State) {p : Nat} (hp : p < 16) (clear : Bool) (e x : Nat) :
    lookupD x (0 : Word) ((s.counted p clear e).part p).xcnt = if clear = true ∧ x = e then 0 else lookupD x 0 (s.part p).xcnt := by
  cases clear with
  | false => simp [State.counted]
  | true =>
    have hpart : (s.counted p true e).part p = { s.part p with xcnt := insertK e 0 (s.part p).xcnt } := by
      rw [State.counted, if_pos rfl]
      exact part_updPart_same s hp _
    rw [hpart]
    by_cases hx : x = e
    · simp [hx, lookupD_insertK_same]
    · simp [hx, lookupD_insertK_other hx]

section
variable {s : State} {o : Outst} (ho : (s.hand s.args.n).outst.find? (fun o => o.id = s.args.m) = some o) (hr : o.returned = false)
include ho hr

theorem execResultReturn_cbFault {pc cbd : DWord} (hw : o.work = .cbFault pc cbd) :
    execResultReturn s = .next (s.cbFaulted s.args.n o pc cbd) := by
  simp only [execResultReturn, ho, hr, hw, Bool.false_eq_true, if_false]

theorem execResultReturn_xcnt {clear : Bool} {t e : Nat} {rest : List (Nat × Nat)} (hw : o.work = .xcnt clear ((t, e) :: rest)) :
    execResultReturn s = .next ((((s.counted (s.hand s.args.n).part clear e).updOutst s.args.n s.args.m (fun o =>
      { o.fill t [((lookupD e (0 : Word) (s.part (s.hand s.args.n).part).xcnt).zeroExtend 64, false)] with work := .xcnt clear rest })).returnIfDone
        s.args.n s.args.m)) := by
  simp only [execResultReturn, ho, hr, hw, Bool.false_eq_true, if_false, State.countLane, State.counted]

end

/-! ## Range chunks (R79, R378) -/

section
variable {r : RangeState}

theorem claim_ended (h : r.hi.toInt ≤ r.cur.toInt) : r.claim = ((r.hi, r.hi), r) := if_pos h

/-- A chunk starts at the range's place and is at most GRAIN long, up to the range's end, where the place then is. -/
theorem claim_chunk (h : r.cur.toInt < r.hi.toInt) : ∃ hi : DWord, r.claim = ((r.cur, hi), { r with cur := hi }) ∧
    hi.toInt = min r.hi.toInt (r.cur.toInt + r.grain.toNat) := by
  rw [RangeState.claim, if_neg (not_le.mpr h)]
  dsimp only
  split
  · next hle => exact ⟨r.hi, rfl, (min_eq_left hle).symm⟩
  · next hgt =>
    refine ⟨_, rfl, ?_⟩
    have hlow := r.cur.le_toInt
    have hhigh := r.hi.toInt_lt
    rw [BitVec.toInt_ofInt_eq_self (by decide) (by omega) (by omega)]
    omega

end

/-- A chunk is answered in two registers. -/
def State.giveChunk (s : State) (i : SplitIssue) (w : CoreWords) (act : Lanes) (lo hi : DWord) : State :=
  s.addOutst i.hand act .sent [uniformDst (.h w.nameD) 0 lo, uniformDst (.h (w.nameD + 1)) 0 hi] 0 0

/-- The range after a claim. -/
def State.setRange (s : State) (id : Nat) (r : RangeState) : State := { s with ranges := updWhere (fun x => x.id = id) (fun _ => r) s.ranges }

section
variable {s : State} {i : SplitIssue} {w : CoreWords} (h : Issues s i w) (hp : (s.hand i.hand).pair ≠ 2)
include h hp

theorem execRng_noRange (hr : (s.hand i.hand).range = none) : execRng w s = .next (s.faulted i w (i.faultW (s.acting i w) 0x0A 0)) :=
  execCore_trap h (by simp only [hp, hr, if_false, Option.bind_none])

variable {id : Nat} {r : RangeState} (hr : (s.hand i.hand).range = some id) (hf : s.ranges.find? (fun x => x.id = id) = some r)
  {b : Retained} (hb : b = s.retain (s.hand i.hand).lid (s.hand i.hand).hid)
include hr hf hb

/-- After a relaunch the last chunk is given again. -/
theorem execRng_again (ha : b.rngAgain = true) : execRng w s =
    .next (s.finish i w 0 true ((s.setRetain { b with rngAgain := false }).giveChunk i w (s.acting i w) b.rlo b.rhi)) := by
  subst hb
  exact execCore_ok h rfl (by simp only [hp, hr, hf, ha, if_false, if_true, Option.bind_some]; rfl)

variable (ha : b.rngAgain = false)
include ha

theorem execRng_ended (he : r.hi.toInt ≤ r.cur.toInt) :
    execRng w s = .next (s.finish i w 0 true ((s.setRange id r).giveChunk i w (s.acting i w) r.hi r.hi)) := by
  have hid : r.id = id := by simpa using List.find?_some hf
  subst hb hid
  refine execCore_ok h rfl ?_
  simp only [hp, hr, hf, ha, claim_ended he, beq_self_eq_true, Bool.false_eq_true, if_false, if_true, Option.bind_some]
  rfl

/-- A claim of some indices is kept for a relaunch. -/
theorem execRng_claims {hi : DWord} (hc : r.claim = ((r.cur, hi), { r with cur := hi })) (hne : r.cur ≠ hi) :
    execRng w s = .next (s.finish i w 0 true ((State.setRetain (s.setRange id { r with cur := hi })
      { b with chv := true, rlo := r.cur, rhi := hi }).giveChunk i w (s.acting i w) r.cur hi)) := by
  have hid : r.id = id := by simpa using List.find?_some hf
  subst hb hid
  refine execCore_ok h rfl ?_
  simp only [hp, hr, hf, ha, hc, beq_eq_false_iff_ne.mpr hne, Bool.false_eq_true, if_false, Option.bind_some]
  rfl

end

/-! ## The three families -/

/-- Settles O42: what an action comes to at its block decides the answer of the circular-buffer instructions; a lane acts on its counter, and a
claim gives the next chunk. -/
theorem buffersAndCounters : Obligations.BuffersAndCounters := by
  refine ⟨fun s i w h => ?_, fun s i w h => ?_, fun s o => ?_⟩
  · intro _ act cbd d fault drained answered parked fails taken
    refine ⟨fun hb => ⟨cbTakeOp_faults h hb, cbTakeOp_faults h hb, fun hd => ⟨cbGiveOp_faults h hd hb, cbGiveOp_faults h hd hb⟩⟩, ?_,
      fun block hb hn => ?_, fun block n hb hn => ?_⟩
    · rintro hd _ rfl
      have hopen := Bool.eq_true_of_not_eq_false hd
      exact ⟨cbGiveOp_stalls h hopen, cbGiveOp_stalls h hopen⟩
    · exact ⟨fun hf => cbTakeOp_fails h hb ((takeOut_full hf).trans (takeFull_broken hn)), cbTakeOp_fails h hb (takeFree_broken hn),
        fun hd => ⟨cbGiveOp_fails h hd hb (giveOut_broken hn true _), cbGiveOp_fails h hd hb (giveOut_broken hn false _)⟩⟩
    · refine ⟨fun hwait => cbTakeOp_waits h hb ?_, fun hf => cbTakeOp_fails h hb (takeFree_unfed hn hf),
        fun hd hst => cbGiveOp_fails h hd hb (giveFull_refused hn hst), fun hf => ⟨fun hst => ?_, fun h2 h3 => ?_⟩,
        fun hf => ⟨fun hst => ?_, fun hst => ?_, fun hd hst => ?_⟩, fun hd hst => ?_, fun hd hst => ?_⟩
      · by_cases hf : s.firstTake block = none
        · exact (takeOut_full hf).trans (takeFull_inFlight hn (hwait.resolve_left (not_not.mpr hf)))
        · exact takeOut_behind hf
      · exact cbTakeOp_answers h hb ((takeOut_full hf).trans (takeFull_full hn hst))
      · exact cbTakeOp_answers h hb ((takeOut_full hf).trans (takeFull_empty hn h2 h3))
      · exact cbTakeOp_answers h hb (takeFree_free hn hf hst)
      · exact cbTakeOp_answers h hb (takeFree_empty hn hf hst)
      · exact cbGiveOp_gives h hd hb (giveFull_gives hn hf hst)
      · exact cbGiveOp_gives h hd hb (giveFree_gives hn hst)
      · exact cbGiveOp_fails h hd hb (giveFree_refused hn hst)
  · intro _ act
    refine ⟨fun hr he clear => ?_, fun hp => ⟨execRng_noRange h hp, fun id r hr hf => ⟨execRng_again h hp hr hf rfl, fun ha hle => ?_,
      fun ha hlt _ => ?_⟩⟩⟩
    · have hx := xcntOp_sends h rfl hr he clear
      cases clear <;> exact hx
    · exact ⟨_, execRng_ended h hp hr hf rfl ha hle, rfl⟩
    · obtain ⟨hi, hc, hlen⟩ := claim_chunk hlt
      have hne : r.cur ≠ hi := fun e => by rw [← e] at hlen; omega
      exact ⟨_, hi, execRng_claims h hp hr hf rfl ha hc hne, hlen, rfl⟩
  · intro k id p ho hr
    exact ⟨fun pc cbd => execResultReturn_cbFault ho hr, fun clear t e rest hw =>
      ⟨s.counted p clear e, counted_eq s p clear e, fun hp => counted_xcnt s hp clear e, execResultReturn_xcnt ho hr hw⟩⟩

end Sys2Proof.Machine
end

section
/-!
PROOFS. Barriers (O34): the clause about `bbar.post` fails in a paired hand. `execBbarPost` is of a kind that compares the signatures of its pair
once it has retired (R217), and the clause says of the state after it only that the post stands in the buffer.
-/
namespace Sys2Proof.Machine

/-- The split of thread 0 of hand 0. -/
def pairedSplit : SplitIssue :=
  { core := 0, slot := 0, hand := 0, pc := 0, next := 4, lanes := 1, uni := Uniform.init, word0 := 0, second := false }

/-- A base-form word whose operands are h0. -/
def pairedWords : CoreWords := { sw := false, rb := false, p := 0, d := 0, a := 0, b := 0, ext := none, lit := none }

/-- One hand of a pair: it has passed its compare point, and one signature, over no record, waits for the other hand's. -/
def pairedHand (key : Nat) (lid : Word) (pair : BitVec 2) : Hand :=
  { (default : Hand) with key := key, lid := lid, groups := [0], pair := pair, passed := 1, sigs := [(0, [])] }

/-- The primary issues; its allocation of 64 bytes holds the barrier. -/
def pairedState : State :=
  { State.reset with
    cur := some (.split pairedSplit)
    hands := [pairedHand 0 0 1, pairedHand 1 1 2]
    cores := [(0, { Core.init with allocs := [(0, 0, 0, 64)] })]
    launches := [{ (default : Launch) with lid := 0 }, { (default : Launch) with lid := 1, twinOf := some 0 }] }

/-- The signatures of hand 0 that wait after a step. -/
def waitingSigs : Host.Outcome State Fault Refusal → Option Nat
  | .next t => some (t.hand 0).sigs.length
  | _ => none

theorem pairedState_issues : Issues pairedState pairedSplit pairedWords := ⟨rfl, by decide, by decide, by decide⟩

theorem pairedState_readable :
    Readable pairedState pairedSplit 1 [(pairedWords.hA, .move), (pairedWords.hB, .move)] [] [] := ⟨by decide, by decide, by decide⟩

/-- The address of the barrier is 0 of the cluster, in the allocation. -/
theorem pairedState_address : pairedState.checkAccess pairedSplit 1 true .write 16 16
    (fun _ => uniVal pairedSplit 1 (pairedState.hand 0) pairedWords.nameA) = .ok ([(0, scratchLoc 0 0)], pairedState) := rfl

/-- The state that the statement gives: the post stands in the buffer, and the instruction has retired. -/
def pairedClaim : State :=
  pairedState.finish pairedSplit pairedWords 0 true
    (pairedState.appendPost 0 1 (scratchLoc 0 0) ((uniVal pairedSplit 1 (pairedState.hand 0) pairedWords.nameB).setWidth 32))

theorem pairedClaim_waits : waitingSigs (.next pairedClaim) = some 1 := by decide +kernel

/-- The step of the model has compared the two signatures (R217). -/
theorem pairedState_compares : waitingSigs (exec (.bbarPost pairedWords) pairedState) = some 0 := by decide +kernel

/-- Refutes O34: in the paired hand of `pairedState` a `bbar.post` also compares the signatures that both hands of its pair have completed; the
statement, which has no premise on the hand's pair, leaves them waiting. -/
theorem not_barriers : ¬ Obligations.Barriers := by
  rintro ⟨-, byteCounting⟩
  obtain ⟨post, -⟩ := byteCounting pairedState pairedState pairedSplit pairedWords _ pairedState_issues pairedState_readable
  have claim : some 0 = some 1 :=
    pairedState_compares.symm.trans ((congrArg waitingSigs (post pairedState_address)).trans pairedClaim_waits)
  exact absurd claim (by decide)

end Sys2Proof.Machine
end

section
/-!
PROOFS. What a load returns of a word (O27).
-/
namespace Sys2Proof.Machine

/-- The weight of the next byte of a number. -/
theorem two_pow_nextByte (j : Nat) : 2 ^ (8 * (j + 1)) = 256 * 2 ^ (8 * j) := by
  rw [Nat.mul_succ, pow_add, Nat.mul_comm]
  rfl

/-- A byte of the number that little-endian bytes give (R4). -/
theorem leNat_byte (bs : List (BitVec 8)) (j : Nat) : leNat bs / 2 ^ (8 * j) % 256 = (bs.getD j 0).toNat := by
  induction bs generalizing j with
  | nil => simp [leNat]
  | cons b bs ih =>
    have hb := b.isLt
    cases j with
    | zero =>
      simp only [leNat, List.getD_cons_zero]
      omega
    | succ j =>
      have hd : (b.toNat + 256 * leNat bs) / 256 = leNat bs := by omega
      rw [leNat, two_pow_nextByte, ← Nat.div_div_eq_div_mul, hd, ih, List.getD_cons_succ]

theorem leNat_byte_range (f : Nat → BitVec 8) {j n : Nat} (hj : j < n) : leNat ((List.range n).map f) / 2 ^ (8 * j) % 256 = (f j).toNat := by
  rw [leNat_byte, List.getD_eq_getElem _ _ (by simpa using hj), List.getElem_map, List.getElem_range]

/-- The byte that a thread's own stores give of an access. -/
def ownByte (sb : List StoreEntry) (loc j : Nat) : Option (BitVec 8) := entryByte sb (wordOf loc) (loc - wordOf loc + j)

section
variable {s : State} {sb : List StoreEntry} {loc n : Nat} (hl : ¬ (spaceOf loc = .host ∧ s.hostLink.lost = true)) (view : View) (pick : Nat)
include hl

/-- Without regions a load has the bytes of the stores, and of one write of the word's order when they do not give every one. -/
theorem loadWord_eq : s.loadWord sb [] view loc n pick =
    if ∀ j, j < n → (ownByte sb loc j).isSome = true then
      { value := leNat ((List.range n).map (fun j => (ownByte sb loc j).getD 0)), bad := false, from_ := none }
    else
      let i := max (view.get (wordOf loc)) (min pick (s.lastIdx (wordOf loc)))
      let r := s.writeAt (wordOf loc) i
      { value := leNat ((List.range n).map (fun j => (ownByte sb loc j).getD (r.value.extractLsb' (8 * (loc - wordOf loc + j)) 8))),
        bad := r.bad, from_ := some (i, r) } := by
  have hall : ((List.range n).map (ownByte sb loc)).all Option.isSome = true ↔ ∀ j, j < n → (ownByte sb loc j).isSome = true := by
    simp
  have hget {j : Nat} (hj : j ∈ List.range n) : ((List.range n).map (ownByte sb loc)).getD j none = ownByte sb loc j := by
    rw [List.getD_eq_getElem _ _ (by simpa using hj), List.getElem_map, List.getElem_range]
  simp only [State.loadWord, if_neg hl]
  conv_lhs => rw [List.map_congr_left (g := ownByte sb loc) (l := List.range n) (by
    intro k _
    rw [ownByte]
    cases entryByte sb (wordOf loc) (loc - wordOf loc + k) <;> rfl)]
  simp only [hall, List.map_map]
  congr 3
  exact List.map_congr_left fun j hj => by rw [hget hj]

end

/-- Settles O27: a load has the bytes of its thread's stores, and one write of the word's order when they do not give every one. -/
theorem loadReturnsAllowedWrite : Obligations.LoadReturnsAllowedWrite := by
  intro s sb view loc n pick w x own hl hv
  refine ⟨fun h => ?_, fun h => ?_⟩
  · have hx : x = _ := (loadWord_eq hl view pick).trans (if_pos h)
    rw [hx]
    exact ⟨rfl, rfl, fun j hj => leNat_byte_range _ hj⟩
  · have hx : x = _ := (loadWord_eq hl view pick).trans (if_neg h)
    rw [hx]
    exact ⟨_, _, rfl, le_max_left _ _, max_le hv (min_le_right _ _), rfl, rfl, fun j hj => leNat_byte_range _ hj⟩

end Sys2Proof.Machine
end

section
/-!
PROOFS. A home accepts a step once (O32).
-/
namespace Sys2Proof.Machine

/-- No record of a ticket takes step `k` next: none is QUEUED with progress `k - 1`. -/
def State.Past (s : State) (t k : Nat) : Prop := ∀ r ∈ s.recs, r.ticket = t → r.state ≠ 1 ∨ r.prog + 1 ≠ k

/-- Where a home accepts, its record is past the step. -/
def StepOut.Passes (x : StepOut) (t k : Nat) : Prop := ∀ s, x = .answered s true → s.Past t k

section
variable {s : State} {r : AnnRec} {k : Nat}

/-! ## A record that has taken a step, or has ended (R318, R323) -/

theorem updRec_past {t : Nat} {f : AnnRec → AnnRec} (hf : ∀ x, (f x).state ≠ 1 ∨ (f x).prog + 1 ≠ k) : (s.updRec t f).Past t k := by
  intro x hx ht
  obtain ⟨y, -, rfl⟩ := List.mem_map.mp hx
  by_cases hy : y.ticket = t
  · simpa [hy] using hf y
  · simp [hy] at ht

theorem endRec_past (r : AnnRec) {st : BitVec 3} (hst : st ≠ 1) : (s.endRec r st).Past r.ticket k := by
  intro x hx
  exact updRec_past (fun _ => .inl hst) x (List.mem_of_mem_filter hx)

theorem failRec_past (r : AnnRec) (n : Nat) (d : Word) : (s.failRec r n d).Past r.ticket k := endRec_past r (by decide)

/-- The step that is accepted is the one that reached the home, or the record's last one. -/
theorem acceptStep_past {n : Nat} (h : n = k ∨ n = r.nsteps) : (s.acceptStep r n).Past r.ticket k := by
  rw [State.acceptStep]
  split
  · exact endRec_past r (by split <;> decide)
  · next hn =>
    obtain rfl := h.resolve_right hn
    exact updRec_past fun _ => .inr (Nat.succ_ne_self n)

/-! ## The steps of a record (R323, R329) -/

variable {t : Nat}

theorem passes_of_past (h : s.Past t k) (b : Bool) : (StepOut.answered s b).Passes t k := by
  rintro _ ⟨⟩
  exact h

theorem rejected_passes (s : State) (t k : Nat) : (StepOut.answered s false).Passes t k := by
  intro u h
  simp at h
theorem full_passes (s : State) (t k : Nat) : (StepOut.full s).Passes t k := fun _ h => StepOut.noConfusion h
theorem page_passes (s : State) (asid : BitVec 16) (va : DWord) (t k : Nat) : (StepOut.page s asid va).Passes t k := fun _ h => StepOut.noConfusion h
theorem remote_passes (s : State) (t k : Nat) : (StepOut.remote s).Passes t k := fun _ h => StepOut.noConfusion h

theorem withWord_passes (j : Nat) {f : Nat → DWord → DWord → State → StepOut} (hf : ∀ loc e n s, (f loc e n s).Passes r.ticket k) :
    (s.withWord r k j f).Passes r.ticket k := by
  rw [State.withWord]
  split
  · exact hf _ _ _ _
  · exact passes_of_past (failRec_past r k _) true
  · exact page_passes _ _ _ _ _

theorem acceptInstall_passes (s : State) (r : AnnRec) (k loc : Nat) (e : DWord) : (s.acceptInstall r k loc e).Passes r.ticket k :=
  passes_of_past (acceptStep_past (.inl rfl)) true

theorem install_passes (s : State) (r : AnnRec) (k : Nat) : (s.install r k).Passes r.ticket k := by
  rw [State.install]
  split
  · next h1 =>
    subst h1
    split
    · exact rejected_passes _ _ _
    · exact withWord_passes 1 fun loc e _ s => acceptInstall_passes s r 1 loc e
  · refine withWord_passes k fun loc e _ s => ?_
    have hgo (x : Nat) (u : State) :
        (if u.applyHead loc = some x then u.acceptInstall r k loc e else .answered u false).Passes r.ticket k := by
      split
      · exact acceptInstall_passes u r k loc e
      · exact rejected_passes _ _ _
    dsimp only
    split
    · exact hgo _ _
    · split
      · exact full_passes _ _ _
      · exact hgo _ _

theorem updateStep_passes (s : State) (r : AnnRec) (k j : Nat) : (s.updateStep r k j).Passes r.ticket k :=
  withWord_passes j fun _ _ _ _ => passes_of_past (acceptStep_past (.inl rfl)) true

theorem hostStep_passes (s : State) (r : AnnRec) (k : Nat) : (s.hostStep r).Passes r.ticket k := by
  rw [State.hostStep]
  split
  · exact rejected_passes _ _ _
  · split
    · exact passes_of_past (failRec_past r 1 _) true
    · exact rejected_passes _ _ _

theorem deliver_passes (s : State) (r : AnnRec) (k : Nat) : (s.deliver r).Passes r.ticket k := by
  rw [State.deliver]
  dsimp only
  split
  · split
    · exact remote_passes _ _ _
    · exact rejected_passes _ _ _
  · split
    · exact passes_of_past (failRec_past r _ _) true
    · exact page_passes _ _ _ _ _
    · exact passes_of_past (acceptStep_past (.inr rfl)) true

/-! ## A step reaches its home (R179) -/

theorem ticket_of_rec? (h : s.rec? t = some r) : r.ticket = t := by simpa using List.find?_some h

theorem homeStep_passes (s : State) (t k : Nat) : (s.homeStep t k).Passes t k := by
  rw [State.homeStep]
  split
  · exact rejected_passes _ _ _
  · next r hr =>
    obtain rfl := ticket_of_rec? hr
    split_ifs with _ _ hn hc _ h1
    · exact rejected_passes _ _ _
    · exact install_passes s r k
    · exact passes_of_past (acceptStep_past (.inl rfl)) true
    · exact updateStep_passes s r k _
    · exact deliver_passes s r k
    · exact rejected_passes _ _ _
    · exact hostStep_passes s r k
    · exact passes_of_past (acceptStep_past (.inl h1.symm)) true
    · exact deliver_passes s r k

/-- A record that does not take the step next has it rejected, with nothing changed. -/
theorem homeStep_rejects (h : ∀ r, s.rec? t = some r → r.state ≠ 1 ∨ r.prog + 1 ≠ k) : s.homeStep t k = .answered s false := by
  rw [State.homeStep]
  split
  · rfl
  · next r hr =>
    refine if_pos ?_
    obtain hs | hp := h r hr
    · simp only [bne_iff_ne.mpr hs, Bool.true_or]
    · simp only [bne_iff_ne.mpr hp, Bool.true_or, Bool.or_true]

end

/-- Settles O32: an accepted step leaves its record past it, and a record that is past a step rejects it. -/
theorem stepsApplyOnce : Obligations.StepsApplyOnce := by
  refine fun s t k => ⟨fun r hr h => homeStep_rejects fun x hx => ?_, fun s' ha => ⟨?_, homeStep_rejects fun r hr => ?_⟩⟩
  · obtain rfl := Option.some.inj (hr.symm.trans hx)
    exact h
  · by_contra hn
    have hr : s.homeStep t k = .answered s false := homeStep_rejects fun r hr => by
      by_contra hq
      push Not at hq
      exact hn ⟨r, hr, hq⟩
    simp [hr] at ha
  · exact homeStep_passes s t k s' ha r (List.mem_of_find?_eq_some hr) (ticket_of_rec? hr)

end Sys2Proof.Machine
end

section
/-!
PROOFS. The drain of a store (O28).
-/
namespace Sys2Proof.Machine

/-! ## Bytes of a word (R4, R166) -/

/-- A bit of a word that is put together from bytes. -/
theorem getLsbD_foldl_bytes (b : Nat → BitVec 8) (n : Nat) {x : Nat} (hx : x < 64) :
    ((List.range n).foldl (fun (acc : DWord) i => acc ||| ((b i).zeroExtend 64 <<< (8 * i))) 0).getLsbD x =
      (decide (x < 8 * n) && (b (x / 8)).getLsbD (x % 8)) := by
  induction n with
  | zero => simp
  | succ n ih =>
    rw [List.range_succ, List.foldl_append, List.foldl_cons, List.foldl_nil, BitVec.getLsbD_or, ih, BitVec.getLsbD_shiftLeft]
    by_cases h : x < 8 * n
    · have h' : x < 8 * (n + 1) := by omega
      simp [h, h']
    · by_cases h' : x < 8 * (n + 1)
      · have hd : x / 8 = n := by omega
        have hm : x % 8 = x - 8 * n := by omega
        have hl : x - 8 * n < 64 := by omega
        simp [h, h', hd, hm, hx, hl]
      · have hb : (b n).getLsbD (x - 8 * n) = false := BitVec.getLsbD_of_ge _ _ (by omega)
        simp [h, h', hb]

/-- Each byte of a merge is the new one where the mask names it, and the old one elsewhere. -/
theorem mergeBytes_byte (mask : BitVec 8) (data old : DWord) {j : Nat} (hj : j < 8) : (mergeBytes mask data old).extractLsb' (8 * j) 8 =
    if mask.getLsbD j then data.extractLsb' (8 * j) 8 else old.extractLsb' (8 * j) 8 := by
  refine BitVec.eq_of_getLsbD_eq fun x hx => ?_
  have hlt : 8 * j + x < 64 := by omega
  have hd : (8 * j + x) / 8 = j := by omega
  have hm : (8 * j + x) % 8 = x := by omega
  have hn : 8 * j + x < 8 * 8 := hlt
  rw [BitVec.getLsbD_extractLsb', mergeBytes, getLsbD_foldl_bytes _ 8 hlt, hd, hm]
  simp [hx, hn]

theorem leBytes_getElem (v n : Nat) {j : Nat} (hj : j < (leBytes v n).length) : (leBytes v n)[j] = BitVec.ofNat 8 (v / 2 ^ (8 * j)) := by
  induction n generalizing v j with
  | zero => simp [leBytes] at hj
  | succ n ih =>
    cases j with
    | zero => simp [leBytes]
    | succ j =>
      simp only [leBytes, List.getElem_cons_succ]
      rw [ih, two_pow_nextByte, Nat.div_div_eq_div_mul]

/-- A byte of the little-endian form of a word. -/
theorem leBytes_byte (v : DWord) (j : Nat) : BitVec.ofNat 8 (v.toNat / 2 ^ (8 * j)) = v.extractLsb' (8 * j) 8 := by
  apply BitVec.eq_of_toNat_eq
  rw [BitVec.extractLsb'_toNat, BitVec.toNat_ofNat, Nat.shiftRight_eq_div_pow]

/-! ## Writes of a word's order (R167, R171) -/

section
variable (s : State) (w : Nat) (mask : BitVec 8) (data : DWord) (msg : View) (scope : BitVec 3) (writer : Party)

/-- The write that a store makes of its word: its masked bytes over those of the last write. -/
def State.nextWrite : WriteRec :=
  { value := mergeBytes mask data (s.lastWrite w).value, bad := (s.lastWrite w).bad && decide (mask ≠ 0xFF),
    marked := (s.lastWrite w).marked && decide (mask ≠ 0xFF), msg := msg, scope := scope, writer := writer }

theorem appendWrite_order_same : (s.appendWrite w mask data msg scope writer).order w =
    s.order w ++ [s.nextWrite w mask data msg scope writer] := by
  simp [State.appendWrite, State.order, setOrder, State.nextWrite]

theorem appendWrite_lastIdx : (s.appendWrite w mask data msg scope writer).lastIdx w = (s.order w).length := by
  simp [State.lastIdx, appendWrite_order_same]

/-- The order of another word that has been written before stays. -/
theorem appendWrite_order_other {w' : Nat} (hw : w' ≠ w) (h : s.orders.find? (fun o => o.word = w') ≠ none) :
    (s.appendWrite w mask data msg scope writer).order w' = s.order w' := by
  have hf : (s.orders.filter (fun o => o.word ≠ w)).find? (fun o => o.word = w') = s.orders.find? (fun o => o.word = w') := by
    rw [List.find?_filter]
    congr 1
    funext o
    by_cases ho : o.word = w' <;> simp [ho, hw]
  have hs : (setOrder w (s.order w ++ [s.nextWrite w mask data msg scope writer]) s.orders).find? (fun o => o.word = w') =
      s.orders.find? (fun o => o.word = w') := by
    rw [setOrder, List.find?_cons_of_neg (by simpa using Ne.symm hw), hf]
  obtain ⟨o, ho⟩ := Option.ne_none_iff_exists'.mp h
  have hn : (s.appendWrite w mask data msg scope writer).orders.find? (fun o => o.word = w') = some o := hs.trans ho
  simp only [State.order, ho, hn]

theorem appendWrite_byte_other {a : Nat} (h : a < w ∨ w + 8 ≤ a) :
    readCell (s.appendWrite w mask data msg scope writer).mem a = readCell s.mem a :=
  readCell_writeCells_other _ w a _ (by rwa [leBytes_length])

theorem appendWrite_byte (hm : Memory.wf s.mem = true) {j : Nat} (hj : j < 8) :
    readCell (s.appendWrite w mask data msg scope writer).mem (w + j) =
      if mask.getLsbD j then data.extractLsb' (8 * j) 8 else (s.lastWrite w).value.extractLsb' (8 * j) 8 := by
  have hl : j < (leBytes (mergeBytes mask data (s.lastWrite w).value).toNat 8).length := by rwa [leBytes_length]
  rw [← mergeBytes_byte _ _ _ hj, ← leBytes_byte, ← leBytes_getElem _ 8 hl]
  exact readCell_writeCells_in _ w j hm hl

end

/-! ## The hands while a store drains (R181) -/

/-- A hand without its part in a gang round. -/
def Hand.alone (h : Hand) : Hand := { h with arrival := none, slice := none }

/-- The hands but one stay, but for engine threads of their gang rounds. -/
def OthersAlone (k : Nat) (s u : State) : Prop := ∀ j, j ≠ k → (u.hand? j).map Hand.alone = (s.hand? j).map Hand.alone

theorem OthersAlone.trans {k : Nat} {s t u : State} (h1 : OthersAlone k s t) (h2 : OthersAlone k t u) : OthersAlone k s u :=
  fun j hj => (h2 j hj).trans (h1 j hj)

theorem updHand_others {f : Hand → Hand} (hf : ∀ h, (f h).key = h.key) (k : Nat) (s : State) : OthersAlone k s (s.updHand k f) := by
  intro j hj
  rw [hand?_updHand s hf, if_neg hj]

/-- A hand with what is kept for a thread changed. -/
def Hand.withThread (t : Nat) (f : ThreadMem → ThreadMem) (h : Hand) : Hand := { h with mem := putAt 32 default f t h.mem }

theorem withThread_key (t : Nat) (f : ThreadMem → ThreadMem) (h : Hand) : (h.withThread t f).key = h.key := rfl

theorem withThread_thread {h : Hand} {t : Nat} (ht : t < 32) (f : ThreadMem → ThreadMem) : (h.withThread t f).thread t = f (h.thread t) :=
  getD_putAt_same ht _ f _

theorem updThread_others (s : State) (k t : Nat) (f : ThreadMem → ThreadMem) : OthersAlone k s (s.updThread k t f) :=
  updHand_others (withThread_key t f) k s

theorem updThread_hand? {s : State} {k : Nat} {h : Hand} (hk : s.hand? k = some h) (t : Nat) (f : ThreadMem → ThreadMem) :
    (s.updThread k t f).hand? k = some (h.withThread t f) :=
  hand?_updHand_same (withThread_key t f) hk

/-- What the start of engine threads makes of a hand. -/
theorem startForks_hand? (s : State) (k j : Nat) : ∃ g : Hand → Hand, (s.startForks k).hand? j = (s.hand? j).map g ∧
    ∀ x, (g x).mem = x.mem ∧ (x.key ≠ k → (g x).alone = x.alone) := by
  refine ⟨_, List.find?_map .., fun x => ⟨rfl, fun hx => ?_⟩⟩
  simp only [Hand.alone, if_neg hx]

theorem startForks_others (s : State) (k : Nat) : OthersAlone k s (s.startForks k) := by
  intro j hj
  obtain ⟨g, hg, hx⟩ := startForks_hand? s k j
  rw [hg]
  cases h : s.hand? j with
  | none => rfl
  | some x =>
    obtain ⟨-, ha⟩ := hx x
    exact congrArg some (ha (key_of_hand? h ▸ hj))

theorem wakeUp_key (h : Hand) : h.wakeUp.key = h.key := by
  simp only [Hand.wakeUp]
  split <;> rfl

theorem wakeUp_mem (h : Hand) : h.wakeUp.mem = h.mem := by
  simp only [Hand.wakeUp]
  split <;> rfl

/-- What the end of a wait for stores makes of a hand. -/
theorem wakeStores_eq (s : State) (k : Nat) : ∃ f : Hand → Hand, s.wakeStores k = s.updHand k f ∧
    ∀ x, (f x).key = x.key ∧ (f x).mem = x.mem := by
  refine ⟨_, rfl, fun x => ?_⟩
  dsimp only
  split
  · exact ⟨wakeUp_key _, wakeUp_mem _⟩
  · exact ⟨rfl, rfl⟩

/-! ## STORE_DRAIN (R171) -/

/-- The entry leaves its thread's buffer. -/
def ThreadMem.without (e : StoreEntry) (m : ThreadMem) : ThreadMem := { m with sb := m.sb.filter (fun x => x.seq ≠ e.seq) }

/-- The thread's view takes the index of a write. -/
def ThreadMem.wrote (w i : Nat) (m : ThreadMem) : ThreadMem := { m with view := View.raise w i m.view }

/-- The view and the scope that a store's write carries. -/
def StoreEntry.message (e : StoreEntry) (m : ThreadMem) : View := if e.rel.isSome then m.view else m.fview
def StoreEntry.reach (e : StoreEntry) (m : ThreadMem) : BitVec 3 := e.rel.getD m.fscope

/-- The store has left its thread's buffer, and its write has reached the home of its word. -/
def State.reached (s : State) (h : Hand) (k t : Nat) (e : StoreEntry) : State :=
  ((((s.updThread k t (ThreadMem.without e)).crossHome (coreDie h.core) e.word).forgetBBar e.word).appendWrite e.word e.mask e.data
    (e.message (h.thread t)) (e.reach (h.thread t)) h.party)

section
variable {s : State} {h : Hand} {e : StoreEntry} {k t : Nat} (hk : s.hand? k = some h)
  (hs : spaceOf e.word = .device ∨ spaceOf e.word = .scratch) (hp : e.post = false)

include hk hs hp

/-- A store in device memory or scratch drains: its thread forgets it, the write reaches its home, and the thread has seen it. -/
theorem drain_eq : s.drain k t e = (s.reached h k t e).updThread k t (ThreadMem.wrote e.word ((s.reached h k t e).lastIdx e.word)) := by
  have hpeer : spaceOf e.word ≠ .peer := by obtain hs | hs := hs <;> simp [hs]
  have hput (u : State) (msg : View) (scope : BitVec 3) (o : Owner) : u.putWord e.word e.mask e.data msg scope h.party o =
      (u.forgetBBar e.word).appendWrite e.word e.mask e.data msg scope h.party := by
    obtain hs | hs := hs <;> exact if_neg (by simp [hs])
  have hw : e.words = [e.word] := by simp [StoreEntry.words, hp]
  simp only [State.drain, hand_of_hand? hk, hp, hw, if_neg hpeer, hput, Bool.false_eq_true, if_false]
  cases hr : e.rel <;> simp only [State.reached, StoreEntry.message, StoreEntry.reach, hr] <;> rfl

end

section
variable (s : State) (h : Hand) (k t : Nat) (e : StoreEntry)

/-- The write that a store makes, appended to its word's order. -/
def State.appended (s : State) (h : Hand) (t : Nat) (e : StoreEntry) : State :=
  s.appendWrite e.word e.mask e.data (e.message (h.thread t)) (e.reach (h.thread t)) h.party

theorem crossHome_eq (a loc : Nat) : s.crossHome a loc = { s with routes := (s.crossHome a loc).routes } := by
  simp only [State.crossHome, State.cross]
  split_ifs <;> rfl

theorem reached_memory : (s.reached h k t e).orders = (s.appended h t e).orders ∧ (s.reached h k t e).mem = (s.appended h t e).mem := by
  rw [State.reached, crossHome_eq]
  exact ⟨rfl, rfl⟩

theorem order_congr {s u : State} (ho : u.orders = s.orders) (hm : u.mem = s.mem) (w : Nat) : u.order w = s.order w := by
  simp only [State.order, ho, hm]

theorem reached_order (w : Nat) : (s.reached h k t e).order w = (s.appended h t e).order w :=
  order_congr (reached_memory s h k t e).1 (reached_memory s h k t e).2 w

theorem reached_lastIdx : (s.reached h k t e).lastIdx e.word = (s.order e.word).length := by
  rw [State.lastIdx, reached_order]
  exact appendWrite_lastIdx ..

/-- Of the machine, a drain changes hands, memory, the counts of barriers, the ways of traffic, and engine threads that start. -/
def DrainFrame (s u : State) : Prop :=
  u = { s with hands := u.hands, mem := u.mem, orders := u.orders, bbarViews := u.bbarViews, routes := u.routes, copies := u.copies,
               jobs := u.jobs, clusters := u.clusters, cores := u.cores }

theorem reached_frame : DrainFrame s (s.reached h k t e) := by
  rw [State.reached, crossHome_eq]
  rfl

/-- Engine threads that waited for the store start, and threads that wait for stores go on. -/
def State.settled (s : State) (k : Nat) : State := (s.startForks k).wakeStores k

theorem settled_frame {s u : State} (h : DrainFrame s u) (k : Nat) : DrainFrame s (u.settled k) := by
  unfold DrainFrame at h ⊢
  rw [h]
  rfl

theorem updThread_frame {s u : State} (h : DrainFrame s u) (k t : Nat) (f : ThreadMem → ThreadMem) : DrainFrame s (u.updThread k t f) := by
  unfold DrainFrame at h ⊢
  rw [h]
  rfl

theorem reached_hands : (s.reached h k t e).hands = (s.updThread k t (ThreadMem.without e)).hands := by
  rw [State.reached, crossHome_eq]
  rfl

theorem hand?_congr {s u : State} (hh : u.hands = s.hands) (j : Nat) : u.hand? j = s.hand? j := by rw [State.hand?, State.hand?, hh]

theorem reached_others : OthersAlone k s (s.reached h k t e) := by
  intro j hj
  rw [hand?_congr (reached_hands s h k t e)]
  exact updThread_others s k t _ j hj

theorem settled_others : OthersAlone k s (s.settled k) := by
  obtain ⟨f, hf, hx⟩ := wakeStores_eq (s.startForks k) k
  refine (startForks_others s k).trans ?_
  rw [State.settled, hf]
  exact updHand_others (fun x => (hx x).1) k _

end

/-- What the ordering machine keeps for a hand's threads stays when engine threads start. -/
theorem settled_thread {s : State} {k : Nat} {h : Hand} (hk : s.hand? k = some h) (t : Nat) :
    ((s.settled k).hand k).thread t = h.thread t := by
  obtain ⟨f, hf, hx⟩ := wakeStores_eq (s.startForks k) k
  obtain ⟨g, hg, hy⟩ := startForks_hand? s k k
  have hm : (s.startForks k).hand? k = some (g h) := by rw [hg, hk]; rfl
  rw [State.settled, hf, hand_updHand_same _ (fun x => (hx x).1) hm, Hand.thread, Hand.thread, (hx _).2, (hy _).1]

section
variable (s : State) (h : Hand) (k t : Nat) (e : StoreEntry)

/-- The state after a drain: the write has reached its home, the thread has seen it, and what waited for the store goes on. -/
def State.drained (s : State) (h : Hand) (k t : Nat) (e : StoreEntry) : State :=
  ((s.reached h k t e).updThread k t (ThreadMem.wrote e.word (s.order e.word).length)).settled k

theorem execStoreDrain_drains {s : State} {h : Hand} {e : StoreEntry} (hk : s.hand? s.args.n = some h)
    (he : (h.thread s.args.m).sb[s.args.k]? = some e) (hd : h.mayDrain s.args.m e = true)
    (hs : spaceOf e.word = .device ∨ spaceOf e.word = .scratch) (hp : e.post = false) :
    execStoreDrain s = .next (s.drained h s.args.n s.args.m e) := by
  simp only [execStoreDrain, hand_of_hand? hk, he, hd, if_true, State.drainStore, drain_eq hk hs hp, reached_lastIdx, State.drained,
    State.settled]

theorem drained_frame : DrainFrame s (s.drained h k t e) := settled_frame (updThread_frame (reached_frame s h k t e) k t _) k

theorem drained_others : OthersAlone k s (s.drained h k t e) :=
  ((reached_others s h k t e).trans (updThread_others _ k t _)).trans (settled_others _ k)

theorem settled_orders (u : State) : (u.settled k).orders = u.orders := rfl
theorem settled_mem (u : State) : (u.settled k).mem = u.mem := rfl

theorem drained_mem : (s.drained h k t e).mem = (s.appended h t e).mem := by
  rw [State.drained, settled_mem, State.updThread_mem, (reached_memory s h k t e).2]

theorem drained_order (w : Nat) : (s.drained h k t e).order w = (s.appended h t e).order w := by
  refine order_congr ?_ (drained_mem s h k t e) w
  rw [State.drained, settled_orders, State.updThread_orders, (reached_memory s h k t e).1]

/-- The thread of a store that has drained: without its entry, and with its write in its view. -/
theorem drained_thread {s : State} {h : Hand} {k t : Nat} (hk : s.hand? k = some h) (ht : t < 32) (e : StoreEntry) :
    ((s.drained h k t e).hand k).thread t = ((h.thread t).without e).wrote e.word (s.order e.word).length := by
  have h1 : (s.reached h k t e).hand? k = _ := (hand?_congr (reached_hands s h k t e) k).trans (updThread_hand? hk t (ThreadMem.without e))
  rw [State.drained, settled_thread (updThread_hand? h1 t _), withThread_thread ht, withThread_thread ht]

end

/-- Settles O28: the store reaches the home of its word, its thread has seen the write, and what waited for it goes on. -/
theorem storeDrains : Obligations.StoreDrains := by
  intro s h e k t m write hk ht he hd hs hp alone
  refine ⟨s.drained h k t e, execStoreDrain_drains hk he hd hs hp, drained_frame s h k t e, drained_others s h k t e, ?_,
    fun w hw hf => ?_, fun _ a ha => ?_, fun hwf j hj => ?_, ?_, ?_⟩
  · exact (drained_order s h k t e e.word).trans (appendWrite_order_same ..)
  · exact (drained_order s h k t e w).trans (appendWrite_order_other s e.word _ _ _ _ _ hw hf)
  · rw [drained_mem]
    exact appendWrite_byte_other s e.word _ _ _ _ _ ha
  · rw [drained_mem]
    exact appendWrite_byte s e.word _ _ _ _ _ hwf hj
  · rw [drained_thread hk ht]
    rfl
  · rw [drained_thread hk ht]
    rfl

end Sys2Proof.Machine
end

section
/-!
PROOFS. `acq`, `rel` and `bind` (O33).
-/
namespace Sys2Proof.Machine

/-! ## Issue (R332) -/

section
variable {s s' : State} {i : SplitIssue} {w : CoreWords} (h : Issues s i w)
  (hr : Readable s i (s.acting i w) [(w.hA, .move), (annC w, .move)] w.gDst (w.lrNames (.lit 0) (.lit 0) (annC w)))
  (hc : (s.released i (w.lrNames (.lit 0) (.lit 0) (annC w))).checkAddrs i (s.acting i w)
    ((s.acting i w).list.map (fun t => (t, annAddr w (s.hand i.hand) i.uni t, .read))) = .ok s')
include h hr hc

/-- The lanes of an instruction whose addresses pass their checks have their objects, and its result is outstanding. -/
theorem objOp_sends (outside : Bool) (work : Hand → List (Nat × Nat) → Work) :
    objOp outside work w s = .next (s.finish i w 0 outside (s'.addOutst i.hand (s.acting i w)
      (work (s.hand i.hand) ((s.acting i w).list.map (fun t =>
        (t, (s'.placed (s.hand i.hand).asid (annAddr w (s.hand i.hand) i.uni t) .read).1))))
      (asyncDsts (s'.hand i.hand) (s.acting i w) w w.gDst 2) 0 0)) :=
  execCore_ok h rfl (withRegs_ok hr (by simp only [hc]))

theorem execAcq_sends : execAcq w s = .next (s.finish i w 0 false (s'.addOutst i.hand (s.acting i w)
    (.acq ((s.acting i w).list.map (fun t => (t, (s'.placed (s.hand i.hand).asid (annAddr w (s.hand i.hand) i.uni t) .read).1))))
    (asyncDsts (s'.hand i.hand) (s.acting i w) w w.gDst 2) 0 0)) :=
  objOp_sends h hr hc false _

theorem execRel_sends : execRel w s = .next (s.finish i w 0 true (s'.addOutst i.hand (s.acting i w)
    (.rel ((s.acting i w).list.map (fun t => (t, (s'.placed (s.hand i.hand).asid (annAddr w (s.hand i.hand) i.uni t) .read).1,
      ((s.hand i.hand).thread t).sbNext))))
    (asyncDsts (s'.hand i.hand) (s.acting i w) w w.gDst 2) 0 0)) := by
  rw [execRel, objOp_sends h hr hc, List.map_map]
  rfl

end

/-! ## At the home of an object (R176, R177) -/

section
variable {s : State} {o : Outst} (ho : s.pendingLane s.args.n s.args.m s.args.k = some o)
include ho

section
variable {objs : List (Nat × Nat)} {obj : Nat} (hw : o.work = .acq objs) (hf : objs.find? (fun x => x.1 = s.args.k) = some (s.args.k, obj))
include hw hf

theorem execAcqApply_here (hp : spaceOf obj ≠ .peer) : execAcqApply s = .next (s.fillVersion s.args.n o.id s.args.k (s.version obj)
    (s.acqJoin (s.hand s.args.n) s.args.k obj)) := by
  simp only [execAcqApply, ho, hw, hf, if_neg hp]

theorem execAcqApply_peer (hp : spaceOf obj = .peer) : execAcqApply s = .next (s.askObject s.args.n o.id s.args.k obj 4 0) := by
  simp only [execAcqApply, ho, hw, hf, if_pos hp]

end

section
variable {objs : List (Nat × Nat × Nat)} {obj seq : Nat} (hw : o.work = .rel objs)
  (hf : objs.find? (fun x => x.1 = s.args.k) = some (s.args.k, obj, seq)) (hd : s.storesDrained (s.hand s.args.n) s.args.k seq = true)
include hw hf hd

/-- A lane of `rel` joins its view into the object's entry, and asks for the version where the object is. -/
theorem execRelApply_joins {u : State} (hu : u = s.relJoin (s.hand s.args.n) s.args.k obj) : execRelApply s =
    .next (if spaceOf obj = .peer then u.askObject s.args.n o.id s.args.k obj 5 0
      else u.fillVersion s.args.n o.id s.args.k (u.version obj) []) := by
  subst hu
  simp only [execRelApply, ho, hw, hf, hd, Bool.not_true, Bool.false_eq_true, if_false]
  split <;> rfl

end

end

/-- A publish entry takes its next version, and a view. -/
def Publish.joined (p : Publish) (v : View) : Publish := { p with ver := p.ver + 1, pub := View.join p.pub v }

/-- The publish entry of an object after a `rel`: its next version, with the thread's view of the object's regions. -/
theorem relJoin_pubs {s : State} {obj : Nat} {p : Publish} (hp : s.pubs.find? (fun p => p.obj = obj) = some p) (h : Hand) (t : Nat) :
    (s.relJoin h t obj).pubs.find? (fun p => p.obj = obj) =
      some { p with ver := p.ver + 1, pub := View.join p.pub (s.restrictTo h.lid obj (h.thread t).view) } := by
  have hj (x : Publish) (hx : decide (x.obj = obj) = true) : decide ((x.joined (s.restrictTo h.lid obj (h.thread t).view)).obj = obj) = true := hx
  refine (find?_updWhere_same hj s.pubs).trans ?_
  rw [hp]
  rfl

/-! ## Bindings (R175, R316) -/

section
variable {s : State} {o : Outst} {obj : Nat} {base len : DWord} {ok : Bool}
  (ho : (s.hand s.args.n).outst.find? (fun o => o.id = s.args.m && !o.returned) = some o) (hw : o.work = .bind obj base len ok)
  (hq : s.reqs.any (fun r => r.use == .object s.args.n o.id (Lanes.lowest o.lanes)) = false)
include ho hw hq

theorem execBindRegister_refused (hb : s.bindStatus (s.hand s.args.n).lid obj base len ok ≠ 0) : execBindRegister s =
    .next (s.fillBind s.args.n o.id (s.bindStatus (s.hand s.args.n).lid obj base len ok)) := by
  simp only [execBindRegister, ho, hw, hq, if_pos hb, Bool.false_eq_true, if_false]

variable (hb : s.bindStatus (s.hand s.args.n).lid obj base len ok = 0)
include hb

theorem execBindRegister_waits (hx : s.bindWaits (s.hand s.args.n).lid base len = true) : execBindRegister s = .next s := by
  simp only [execBindRegister, ho, hw, hq, hb, hx, Bool.false_eq_true, if_false, if_true, ne_eq, not_true_eq_false]

variable (hx : s.bindWaits (s.hand s.args.n).lid base len = false)
include hx

theorem execBindRegister_asks (hp : spaceOf obj = .peer) {s' : State} (hs : s.sendStep (coreDie (s.hand s.args.n).core) obj
    (stepData 3 0 s.devNum 0 (peerAddr obj + base.toNat * 2 ^ 64 + len.toNat * 2 ^ 128)) (.object s.args.n o.id (Lanes.lowest o.lanes)) = some s') :
    execBindRegister s = .next s' := by
  simp only [execBindRegister, ho, hw, hq, hb, hx, hp, hs, Bool.false_eq_true, if_false, if_true, ne_eq, not_true_eq_false]

theorem execBindRegister_registers (hp : spaceOf obj ≠ .peer) : execBindRegister s =
    .next ((s.addBinding { lid := (s.hand s.args.n).lid, obj := obj, base := base, len := len }).fillBind s.args.n o.id 0) := by
  simp only [execBindRegister, ho, hw, hq, hb, hx, if_neg hp, Bool.false_eq_true, if_false, ne_eq, not_true_eq_false]

end

/-- Settles O33: `acq` and `rel` send their lanes with their objects, and each other clause is the equation of its step at the home. -/
theorem acquireReleaseBind : Obligations.AcquireReleaseBind := by
  intro s
  refine ⟨fun s' i w h => ?_, ?_, ?_⟩
  · intro h' act lr ea obj hr hc
    exact ⟨execAcq_sends h hr hc, execRel_sends h hr hc⟩
  · intro k t h o ho
    refine ⟨fun objs obj hw hf => ⟨execAcqApply_here ho hw hf, execAcqApply_peer ho hw hf⟩, fun objs obj seq hw hf hd => ?_⟩
    have hj := execRelApply_joins ho hw hf hd rfl
    exact ⟨fun hp => hj.trans (by rw [if_neg hp]), fun hp => hj.trans (by rw [if_pos hp]), fun p hp => relJoin_pubs hp h t⟩
  · intro k h o obj base len ok ho hw hq
    exact ⟨execBindRegister_refused ho hw hq, execBindRegister_waits ho hw hq, fun hb hx hp _ hs => execBindRegister_asks ho hw hq hb hx hp hs,
      execBindRegister_registers ho hw hq⟩

end Sys2Proof.Machine
end

section
/-!
PROOFS. Gang rounds and tile work that completes (O39).
-/
namespace Sys2Proof.Machine

/-! ## `gmma` (R361, R362) -/

/-- What a `gmma` of a split reads: the tile of its member, and for the leader also A and the block that the round accumulates onto. -/
def State.gmmaNeeds (s : State) (i : SplitIssue) (w : CoreWords) : List TileRes :=
  .tile w.nameC :: (if getField (s.hand i.hand).gang 3 3 = getField (s.hand i.hand).gang 6 3 then
    .tile w.nameB :: block (accRow0 w (s.uniAt i w w.nameA)) (w.f2 8 8) (shRows (s.shapeOf i w.nameB)) (shCols (s.shapeOf i w.nameC)) else [])

/-- The member has arrived at the round, with its view and its older stores. -/
def State.gmmaArrived (s : State) (i : SplitIssue) (w : CoreWords) : State :=
  s.updHand i.hand (fun h =>
    { h with gang := setField (setField h.gang 9 1 1) 10 1 0, gangView := [],
             arrival := some { row := accRow0 w (s.uniAt i w w.nameA), col := w.f2 8 8, a := w.nameB, b := w.nameC,
                               shA := s.shapeOf i w.nameB, shB := s.shapeOf i w.nameC, lead := getField h.gang 6 3,
                               fork := h.fork i.lanes.list } })

section
variable {s : State} {i : SplitIssue} {w : CoreWords}

/-- The shape of A is a leader's concern alone. -/
theorem leader_passes (hl : getField (s.hand i.hand).gang 3 3 = getField (s.hand i.hand).gang 6 3 →
    shValid (s.shapeOf i w.nameB) = true ∧ shK (s.shapeOf i w.nameB) = false) :
    (getField (s.hand i.hand).gang 3 3 == getField (s.hand i.hand).gang 6 3 &&
      (!shValid (s.shapeOf i w.nameB) || shK (s.shapeOf i w.nameB))) = false := by
  by_cases hg : getField (s.hand i.hand).gang 3 3 = getField (s.hand i.hand).gang 6 3
  · simp [hl hg]
  · simp [hg]

variable (h : Issues s i w) (hr : Readable s i (s.acting i w) [(w.hA, .move)] [] [])
  (hn : getField (s.hand i.hand).gang 0 3 ≠ 0) (hb : (s.hand i.hand).gang.getLsbD 9 = false)
  (hv : shValid (s.shapeOf i w.nameC) = true) (hk : shK (s.shapeOf i w.nameC) = true)
  (hl : getField (s.hand i.hand).gang 3 3 = getField (s.hand i.hand).gang 6 3 →
    shValid (s.shapeOf i w.nameB) = true ∧ shK (s.shapeOf i w.nameB) = false)
  (hrow : accRow0 w (s.uniAt i w w.nameA) < 256) (hcol : w.f2 8 8 + shCols (s.shapeOf i w.nameC) ≤ 256)
include h hr hn hb hv hk hl hrow hcol

/-- Nothing that the round reads is still to be written, or the split is no handler: the member arrives. -/
theorem execGmma_arrives
    (hf : i.lanes &&& (s.hand i.hand).trapMode = 0 ∨ (s.core i.core).work.find? (fun e => meetsRes e.writes (s.gmmaNeeds i w)) = none) :
    execGmma w s = .next (s.finish i w 0 true ((s.gmmaArrived i w).fireRound i)) := by
  have hp := parkHandler_none hf
  have hbound := accBound_inside (nr := 1) (i := i) (act := s.acting i w) hrow hcol
  rw [State.gmmaNeeds] at hp
  refine execCore_ok h rfl ((withRegs_noLr hr).trans ?_)
  simp only [if_neg hn, hb, hv, hk, leader_passes hl, hbound, hp, beq_iff_eq, Bool.not_true, Bool.or_self, Bool.false_eq_true, if_false]
  rfl

/-- A handler's split waits for the first work in the way. -/
theorem execGmma_parks {e : TileWork} (ht : i.lanes &&& (s.hand i.hand).trapMode ≠ 0)
    (he : (s.core i.core).work.find? (fun e => meetsRes e.writes (s.gmmaNeeds i w)) = some e) :
    execGmma w s = .next (((s.parkedFor i e).countIssue i w.rb false).finishCycle i.core i.slot) := by
  have hp := parkHandler_some ht he
  have hbound := accBound_inside (nr := 1) (i := i) (act := s.acting i w) hrow hcol
  rw [State.gmmaNeeds] at hp
  refine execCore_stall h ((withRegs_noLr hr).trans ?_)
  simp only [if_neg hn, hb, hv, hk, leader_passes hl, hbound, hp, beq_iff_eq, Bool.not_true, Bool.or_self, Bool.false_eq_true, if_false]

end

/-- The round does not fire while a member that is not DONE has not arrived. -/
theorem fireRound_waits {s : State} {i : SplitIssue}
    (h : ∃ k ∈ s.roundKeys (s.hand i.hand), (s.hand k).arrival = none ∧ (s.hand k).state ≠ .done) : s.fireRound i = s := by
  obtain ⟨k, hk, ha, hd⟩ := h
  refine if_pos (List.any_eq_true.mpr ⟨s.hand k, List.mem_map_of_mem hk, ?_⟩)
  rw [ha, bne_iff_ne.mpr hd]
  rfl

/-! ## GMMA_SLICE_DONE (R181, R354, R361) -/

/-- The work of a hand's slice. -/
def sliceOf (h : Hand) (x : TileWork) : Bool :=
  x.fork.hand = h.key && (match x.op with | .slice _ _ _ _ => true | _ => false)

/-- The B tile of a member's slice. -/
abbrev State.sliceB (s : State) (z : Slice) : Tile := (s.core z.core).tiles.getD z.b Tile.init

/-- The matrix operation of a member's slice. -/
abbrev State.sliceMma (s : State) (z : Slice) (a : Tile) : Core × Flags :=
  (s.core z.core).mma z.row z.col a z.shA (s.sliceB z) z.shB (List.range (shRows z.shA))

/-- A slice reads no uncorrectable word of its two tiles. -/
def State.SliceClean (s : State) (z : Slice) (a : Tile) : Prop :=
  meets (a.badRows z.shA) (List.range (shRows z.shA)) = false ∧ (s.sliceB z).badRows z.shB = []

/-- The slice of a member is written, and its round is over for it: DONE is 1, with the join of the members' views. -/
def State.sliceWritten (s : State) (h : Hand) (z : Slice) (a : Tile) (wid : Nat) : State :=
  ((s.updCore z.core (fun _ => (s.sliceMma z a).1)).updSaved h.key (fun h =>
    { h.orFlags (s.sliceMma z a).2 with gang := setField h.gang 10 1 1, slice := none,
                                        gangView := z.forks.foldl (fun v f => View.join v (s.forkView f)) [] })).endWork z.core wid

section
variable {s : State} {h : Hand} {z : Slice} {a : Tile} {x : TileWork} (hh : s.hand s.args.n = h) (hz : h.slice = some z) (ha : z.a = some a)
  (hx : (s.core z.core).work.find? (sliceOf h) = some x)
  (hc : conflicts ((s.core z.core).before x.id) [.tile z.b]
    (block z.row z.col (List.range (shRows z.shA)).length (shCols z.shB)) = false)
  (hf : ∀ f ∈ z.forks, s.forkReady f = true)
include hh hz ha hx hc hf

/-- A slice that nothing holds is written, or kills its gang over an uncorrectable word of its tiles or of its block. -/
theorem execGmmaSliceDone_ready :
    (s.SliceClean z a → (s.core z.core).badBlock z.row z.col (List.range (shRows z.shA)).length (shCols z.shB) = false →
      execGmmaSliceDone s = .next (s.sliceWritten h z a x.id)) ∧
    (¬ s.SliceClean z a → execGmmaSliceDone s =
      .next ((if a.hit.isEmpty && (s.sliceB z).hit.isEmpty then s else s.logTile z.core 1).killGang h.key 0x12 none false)) ∧
    (s.SliceClean z a → (s.core z.core).badBlock z.row z.col (List.range (shRows z.shA)).length (shCols z.shB) = true →
      execGmmaSliceDone s = .next ((s.logTile z.core 2).killGang h.key 0x12 none false)) := by
  have hall : z.forks.all s.forkReady = true := List.all_eq_true.mpr hf
  simp only [execGmmaSliceDone, hh, hz, ha]
  -- the step writes the test of `sliceOf` out
  erw [hx]
  simp only [Option.map_some, Option.getD_some, hc, hall, Bool.not_true, Bool.or_self, Bool.false_eq_true, if_false]
  refine ⟨fun ⟨hm, hb⟩ hk => ?_, fun hu => if_pos ?_, fun ⟨hm, hb⟩ hk => ?_⟩
  · rw [hm, hb, hk]
    rfl
  · by_contra hn
    exact hu (by simpa [State.SliceClean] using hn)
  · rw [hm, hb, hk]
    rfl

end

/-! ## The work of a tile result (R354, R364) -/

/-- The state when the work of a core that nothing holds and that leaves nothing outstanding has been done. -/
abbrev State.kicked (s : State) (c : Nat) : State := s.kick (s.core c).work.length c

/-- A result with work returns once its writes have drained, with its flags and the view of its engine thread. -/
theorem tileReturns_eq (s : State) (k id c wid : Nat) (f : Flags) (v : View) (ws : List Chunk) {p : State × View}
    (hp : p = State.writeChunks (coreParty c) ws (s, v)) : s.tileReturns k id c wid f v ws =
      ((p.1.updOutst k id (fun o =>
        { o with back := o.lanes, flags := o.flags ||| f, owed := o.owed ++ o.split.list.map (fun t => (t, p.2)) })).endWork c wid).returnResult
          k id := by
  subst hp
  rfl

section
variable {s : State} {k id c wid : Nat} {x : TileWork} {picks : List Nat}
  (hx : ((s.kicked c).core c).work.find? (fun x => x.id = wid) = some x)
include hx

theorem completeTile_ran {f : Flags} (hr : x.ran = some f) : s.completeTile k id c wid picks =
    (s.kicked c).tileReturns k id c wid f x.fork.view x.wait := by
  have hw : (s.kicked c).workOut c x picks = none := if_pos (by simp [hr])
  simp only [State.completeTile, hx, hw, hr]

variable (hr : x.ran = none) (hw : (s.kicked c).workReady c x = true)
include hr hw

/-- Work that may start meets an uncorrectable word. -/
theorem completeTile_bad {u : BitVec 4} (hu : x.op.meetsBad ((s.kicked c).core c) x.shA x.shB = some u) :
    s.completeTile k id c wid picks =
      (if ((s.kicked c).core c).tiles.all (fun t => t.hit.isEmpty) && u == 1 then s.kicked c
        else (s.kicked c).logTile c u).workKills k c x 0x12 [] := by
  simp only [State.completeTile, State.workOut, hx, hr, hw, hu, Option.isSome_none, Bool.not_true, Bool.or_self, Bool.false_eq_true, if_false]

variable (hu : x.op.meetsBad ((s.kicked c).core c) x.shA x.shB = none)
include hu

theorem completeTile_ok {s' : State} {f : Flags} {v : View} {ws : List Chunk}
    (ho : (s.kicked c).runWork c x picks = .ok s' f v ws) : s.completeTile k id c wid picks =
      s'.tileReturns k id c wid f v ((s.kicked c).workWrites k x ws) := by
  simp only [State.completeTile, State.workOut, hx, hr, hw, hu, ho, Option.isSome_none, Bool.not_true, Bool.or_self, Bool.false_eq_true, if_false]

theorem completeTile_kills {s' : State} {code : BitVec 8} {ws : List Chunk}
    (ho : (s.kicked c).runWork c x picks = .kill s' code ws) : s.completeTile k id c wid picks =
      s'.workKills k c x code ws := by
  simp only [State.completeTile, State.workOut, hx, hr, hw, hu, ho, Option.isSome_none, Bool.not_true, Bool.or_self, Bool.false_eq_true, if_false]

end

/-- The sums of a drain are added to the block of the core that they have come to. -/
theorem completeTile_sums {s : State} {k id c wid : Nat} {x : TileWork} {picks : List Nat}
    (hx : ((s.kicked c).core c).work.find? (fun x => x.id = wid) = some x) (hr : x.ran = none) (hw : (s.kicked c).workReady c x = true)
    {r c' : Nat} {vals : List (List Word)} (hop : x.op = .sums r c' vals)
    (hb : ((s.kicked c).core c).badBlock r c' vals.length ((vals.headD []).length) = false) {m : Core × Flags}
    (hm : m = ((s.kicked c).core c).addBlock r c' vals.length (fun m => vals.getD m [])) : s.completeTile k id c wid picks =
      ((s.kicked c).updCore c (fun _ => m.1)).tileReturns k id c wid m.2 ((s.kicked c).forkView x.fork) [] := by
  have hu : x.op.meetsBad ((s.kicked c).core c) x.shA x.shB = none := by
    rw [hop]
    exact if_neg (ne_true_of_eq_false hb)
  have ho : (s.kicked c).runWork c x picks = .ok ((s.kicked c).updCore c (fun _ => m.1)) m.2 ((s.kicked c).forkView x.fork) [] := by
    simp only [State.runWork, hop, hm]
  rw [completeTile_ok hx hr hw hu ho, State.workWrites, ite_self]

/-! ## ACDRAIN_ADD and RESULT_RETURN (R353, R364) -/

section
variable {s : State} {o : Outst} {c wid : Nat} (hw : o.work = .tile c wid)
include hw

section
variable {x : TileWork} (hx : (s.core c).work.find? (fun x => x.id = wid) = some x)
  (ho : (s.hand s.args.n).outst.find? (fun o => o.id = s.args.m && !o.returned) = some o)
include hx ho

/-- A drain's block has been read: it leaves its core, and the target core adds it in the order of its work. -/
theorem execAcdrainAdd_moves {r c' nr nc tgt tr tc : Nat} (hop : x.op = .drain r c' nr nc tgt tr tc) (hr : s.workReady c x = true)
    (hb : (s.core c).badBlock r c' nr nc = false) : execAcdrainAdd s = .next
      (((s.endWork c wid).addWork tgt
        { x with op := .sums tr tc ((List.range nr).map (fun m => rowPart ((s.core c).accRow (r + m)) c' nc)) }).updOutst s.args.n o.id
          (fun o => { o with work := .tile tgt wid })) := by
  have hid : x.id = wid := by simpa using List.find?_some hx
  have hu : (TileOp.drain r c' nr nc tgt tr tc).meetsBad (s.core c) 0 0 = none := if_neg (by simp [hb])
  simp only [execAcdrainAdd, ho, hw, hx, hop, State.moveDrain, hr, hu, hid, Bool.not_true, Bool.false_eq_true, if_false]

theorem execAcdrainAdd_sums {r c' : Nat} {vals : List (List Word)} (hop : x.op = .sums r c' vals) :
    execAcdrainAdd s = .next (s.completeTile s.args.n o.id c wid []) := by
  simp only [execAcdrainAdd, ho, hw, hx, hop]

end

/-- Tile work but drains and sums is done and returns in the step RESULT_RETURN. -/
theorem execResultReturn_tile (ho : (s.hand s.args.n).outst.find? (fun o => o.id = s.args.m) = some o) (hr : o.returned = false)
    (hd : ∀ y ∈ (s.core c).work, y.id = wid →
      (∀ r c' nr nc tgt tr tc, y.op ≠ .drain r c' nr nc tgt tr tc) ∧ ∀ r c' vals, y.op ≠ .sums r c' vals) :
    execResultReturn s = .next (s.completeTile s.args.n s.args.m c wid s.args.picks) := by
  simp only [execResultReturn, ho, hr, hw, Bool.false_eq_true, if_false]
  refine if_neg fun ha => ?_
  obtain ⟨y, hy, hm⟩ := List.any_eq_true.mp ha
  simp only [Bool.and_eq_true, decide_eq_true_eq] at hm
  obtain ⟨hid, hop⟩ := hm
  obtain ⟨h1, h2⟩ := hd y hy hid
  split at hop
  · next he => exact h1 _ _ _ _ _ _ _ he
  · next he => exact h2 _ _ _ he
  · exact absurd hop (by decide)

end

/-- Settles O39: a member arrives, waits or parks, its slice is written or kills, and the work of a result is done as its core's order comes to it. -/
theorem tileWorkCompletes : Obligations.TileWorkCompletes := by
  intro s
  refine ⟨?_, ?_, ?_⟩
  · intro i w h hd act va vb row arrived hr hn hb hv hk hl hrow hcol needs first
    exact ⟨execGmma_arrives h hr hn hb hv hk hl hrow hcol, fun e => execGmma_parks h hr hn hb hv hk hl hrow hcol, fireRound_waits⟩
  · intro h z a x hz ha hx core b rows clean hc hf
    exact execGmmaSliceDone_ready rfl hz ha hx hc hf
  · intro o c wid x ho hi hw hx
    have hid : o.id = s.args.m := by simpa using List.find?_some hi
    have hret : o.returned = false := by
      have := List.find?_some ho
      simp only [Bool.and_eq_true, Bool.not_eq_true'] at this
      exact this.2
    refine ⟨fun r c' nr nc tgt tr tc hop hr hb => execAcdrainAdd_moves hw hx ho hop hr hb, ?_⟩
    intro k hx' done starts
    have hdone (s' : State) (f : Flags) (v : View) (ws : List Chunk) : s'.tileReturns s.args.n o.id c wid f v ws = done s' f v ws :=
      tileReturns_eq s' _ _ _ _ f v ws rfl
    refine ⟨?_, fun hd => ?_⟩
    · rintro r c' vals hop ⟨hr, hs⟩ hb m
      rw [exec_acdrainAdd, execAcdrainAdd_sums hw hx ho hop, completeTile_sums hx' hr hs hop hb rfl, hdone]
    · have hdoes := execResultReturn_tile hw hi hret hd
      refine ⟨fun ⟨hr, hs⟩ hu => ⟨fun s' f v ws ho => ?_, fun s' code ws ho => ?_⟩, fun ⟨hr, hs⟩ u hu => ?_, fun f hr => ?_⟩
      · rw [exec_resultReturn, hdoes, completeTile_ok hx' hr hs hu ho, ← hid, hdone]
      · rw [exec_resultReturn, hdoes, completeTile_kills hx' hr hs hu ho]
      · rw [exec_resultReturn, hdoes, completeTile_bad hx' hr hs hu]
      · rw [exec_resultReturn, hdoes, completeTile_ran hx' hr, ← hid, hdone]

end Sys2Proof.Machine
end

section
/-!
PROOFS. What raising a fault does (O12).
-/
namespace Sys2Proof.Machine

/-- A hand asks for the page of an address that it could not read (R153). -/
def State.askPage (s : State) (h : Hand) (va : DWord) : State :=
  match s.translate h.asid va .read with
  | .page home e => s.requestPage h.core h.asid va home e
  | _ => s

section
variable {s : State} {i : SplitIssue} {t : TrapInfo} (running : (s.hand i.hand).state = .running) (fresh : (s.hand i.hand).pendTrap = none)
include running fresh

/-- A hand that runs ahead of its condition stops at the edge (R194). -/
theorem raise_speculative (spec : s.specRun (s.hand i.hand) = true) : s.raise i t = s.effectEdge i.hand := by
  simp only [State.raise, running, fresh, spec, bne_self_eq_false, Option.isSome_none, Bool.or_self, Bool.false_eq_true, if_false, if_true]

section
variable (spec : s.specRun (s.hand i.hand) = false)
include spec

/-- PAGE: the page is asked for, and the split parks. -/
theorem raise_page (code : t.code = 0x0B) (kind : t.kind = 0) : s.raise i t =
    (s.askPage (s.hand i.hand) t.val).updHand i.hand
      (fun h => { h with parks := h.parks ++ [(t.split, Park.page h.asid t.val t.mask none)] }) := by
  simp only [State.raise, running, fresh, spec, code, kind, bne_self_eq_false, beq_self_eq_true, Option.isSome_none, Bool.or_self, Bool.and_self,
    Bool.false_eq_true, if_false, if_true]
  rfl

/-- Any other fault kills the gang, or is kept for the hand's next grant. -/
theorem raise_other (other : ¬ (t.code = 0x0B ∧ t.kind = 0)) : s.raise i t =
    if t.code = 0x16 ∨ t.code = 0x17 ∨ t.split &&& (s.hand i.hand).trapMode ≠ 0 ∨ (s.hand i.hand).trapRegs.xvec.getLsbD 0 = false
    then s.killGang i.hand t.code (some i.pc) false
    else (s.updHand i.hand (fun h => { h with pendTrap := some t, yields := if t.kind == 0 then h.yields else 0 })).updSlot
      i.core i.slot (fun x => { x with ending := true }) := by
  have served : (t.code == 0x0B && t.kind == 0) = false := by simpa using other
  simp only [State.raise, running, fresh, spec, served, bne_self_eq_false, Option.isSome_none, Bool.or_self, Bool.false_eq_true, if_false]
  by_cases killed : t.code = 0x16 ∨ t.code = 0x17
  · rw [if_pos (by simpa using killed), if_pos (killed.elim .inl (.inr ∘ .inl))]
  · rw [if_neg (by simpa using killed)]
    obtain ⟨c16, c17⟩ := not_or.mp killed
    simp only [c16, c17, false_or, Bool.or_eq_true, bne_iff_ne, Bool.not_eq_true']

end

end

/-- Settles O12: a split by the fault's disposition. -/
theorem faultDispositions : Obligations.FaultDispositions := by
  intro s i t h running fresh
  refine ⟨raise_speculative running fresh, fun spec other c16 c17 split enabled => ?_, fun spec other kills => ?_, ?_⟩
  · rw [raise_other running fresh spec other, if_neg]
    rintro (e | e | e | e)
    · exact c16 e
    · exact c17 e
    · exact e split
    · exact Bool.false_ne_true (e.symm.trans enabled)
  · rw [raise_other running fresh spec other, if_pos kills]
  · rintro spec code kind _ rfl
    exact raise_page running fresh spec code kind

end Sys2Proof.Machine
end

section
/-!
PROOFS. Trap and interrupt entry (O13).
-/
namespace Sys2Proof.Machine

/-! ## The fields of `xcause` (R200) -/

/-- A field of `xcause`, as a number: no field reaches into another. -/
theorem cause_field (t : TrapInfo) (lo width : Nat) : (t.cause.extractLsb' lo width).toNat =
    ((if t.kind = 0 then t.code.toNat else 0) + t.kind.toNat * 2 ^ 8 + t.info.toNat * 2 ^ 16) / 2 ^ lo % 2 ^ width := by
  have hc := t.code.isLt
  have hk := t.kind.isLt
  have hi := t.info.isLt
  have small : (if t.kind = 0 then t.code.toNat else 0) + t.kind.toNat * 2 ^ 8 + t.info.toNat * 2 ^ 16 < 2 ^ 64 := by split <;> omega
  rw [BitVec.extractLsb'_toNat, TrapInfo.cause, BitVec.toNat_ofNat, Nat.shiftRight_eq_div_pow]
  simp only [beq_iff_eq]
  rw [Nat.mod_eq_of_lt small]

section
variable (t : TrapInfo)

theorem cause_code : t.cause.extractLsb' 0 8 = if t.kind = 0 then t.code else 0 := by
  have hc := t.code.isLt
  refine BitVec.eq_of_toNat_eq ?_
  rw [cause_field]
  by_cases hk : t.kind = 0
  · rw [if_pos hk, if_pos hk]
    omega
  · rw [if_neg hk, if_neg hk]
    show _ = 0
    omega

theorem cause_kind : t.cause.extractLsb' 8 2 = t.kind := by
  have hc := t.code.isLt
  have hk := t.kind.isLt
  refine BitVec.eq_of_toNat_eq ?_
  rw [cause_field]
  split <;> omega

theorem cause_info : t.cause.extractLsb' 16 16 = t.info := by
  have hc := t.code.isLt
  have hk := t.kind.isLt
  have hi := t.info.isLt
  refine BitVec.eq_of_toNat_eq ?_
  rw [cause_field]
  split <;> omega

theorem cause_zeros : t.cause.extractLsb' 10 6 = 0 ∧ t.cause.extractLsb' 32 32 = 0 := by
  have hc := t.code.isLt
  have hk := t.kind.isLt
  have hi := t.info.isLt
  constructor <;>
  · refine BitVec.eq_of_toNat_eq ((cause_field ..).trans ?_)
    show _ = 0
    split <;> omega

end

/-! ## The hand that enters its trap (R196) -/

theorem enterTrap_pc (h : Hand) (t : TrapInfo) {l : Nat} (hl : l < 32) :
    (h.enterTrap t).pc.getD l 0 = if t.split.has l then h.trapRegs.xvec &&& ~~~3 else h.pc.getD l 0 := by
  simp [Hand.enterTrap, hl]

/-! ## What the Squirrel's writes and the move of a trap window leave as they were -/

/-- Of the machine, only memory and the ways of its traffic differ. -/
def MemoryOnly (s u : State) : Prop := u = { s with mem := u.mem, orders := u.orders, routes := u.routes }

theorem MemoryOnly.trans {s t u : State} (h1 : MemoryOnly s t) (h2 : MemoryOnly t u) : MemoryOnly s u := by
  unfold MemoryOnly at h1 h2 ⊢
  rw [h1] at h2
  exact h2

theorem writeBytes_memoryOnly (s : State) (a : Nat) (bs : List (BitVec 8)) (p : Party) : MemoryOnly s (s.writeBytes a bs p) := by
  unfold State.writeBytes
  generalize wordsOf a bs.length = ws
  induction ws generalizing s with
  | nil => rfl
  | cons w ws ih => exact MemoryOnly.trans (t := s.appendWrite w _ _ [] 0 p) rfl (ih _)

theorem crossHome_memoryOnly (s : State) (a loc : Nat) : MemoryOnly s (s.crossHome a loc) := by
  unfold MemoryOnly
  rw [crossHome_eq]

theorem areaWrite_memoryOnly (s : State) (h : Hand) (off : Nat) (bs : List (BitVec 8)) : MemoryOnly s (s.areaWrite h off bs) := by
  fun_induction State.areaWrite s h off bs with
  | case1 s off b0 b1 b2 b3 b4 b5 b6 b7 bs ih =>
    refine MemoryOnly.trans ?_ ih
    split
    · exact (crossHome_memoryOnly ..).trans (writeBytes_memoryOnly ..)
    · rfl
  | case2 => rfl

theorem MemoryOnly.parts {s u : State} (h : MemoryOnly s u) : u.parts = s.parts := by rw [h]

theorem MemoryOnly.hand? {s u : State} (h : MemoryOnly s u) (k : Nat) : u.hand? k = s.hand? k := hand?_congr (by rw [h]) k

/-- Of a hand, only what its Squirrel does and who is parked differ. -/
def MovesOnly (h h' : Hand) : Prop := h' = { h with squirrel := h'.squirrel, parks := h'.parks }

/-- The image in a slot's trap window goes to the record of its owner (R199). -/
def State.savedWindow (s : State) (owner : Nat) : State :=
  match s.hand? owner with
  | some h => s.areaWrite h 0x580 h.trapImage
  | none => s

theorem savedWindow_memoryOnly (s : State) (owner : Nat) : MemoryOnly s (s.savedWindow owner) := by
  unfold State.savedWindow
  split
  · exact areaWrite_memoryOnly ..
  · rfl

/-- The hand's split waits for the Squirrel to move the image that its new window holds. -/
def Hand.awaitsWindow (h : Hand) : Hand :=
  { h with squirrel := h.squirrel ++ [.trapMove false], parks := h.parks ++ [(h.trapMode, .squirrel)] }

/-- Without an image of its own to load, a hand claims a window that is free, its own, or another hand's. -/
theorem claimWindow_cases (s : State) (c k hk : Nat) :
    s.claimWindow c k hk false = s.ownWindow c k hk ∨ s.claimWindow c k hk false = s ∨
    ∃ owner, s.claimWindow c k hk false = ((s.savedWindow owner).ownWindow c k hk).updHand hk Hand.awaitsWindow := by
  simp only [State.claimWindow, Bool.false_and, Bool.false_eq_true, if_false]
  split
  · exact .inl rfl
  · split
    · exact .inr (.inl rfl)
    · exact .inr (.inr ⟨_, rfl⟩)

/-- The hand that claims a window waits at most for the move. -/
theorem claimWindow_hand? {s : State} {hk : Nat} {h : Hand} (hh : s.hand? hk = some h) (c k : Nat) :
    ∃ h', (s.claimWindow c k hk false).hand? hk = some h' ∧ MovesOnly h h' ∧ (s.claimWindow c k hk false).parts = s.parts := by
  obtain e | e | ⟨owner, e⟩ := claimWindow_cases s c k hk <;> rw [e]
  · exact ⟨h, hh, rfl, rfl⟩
  · exact ⟨h, hh, rfl, rfl⟩
  · have saved := savedWindow_memoryOnly s owner
    have owned : ((s.savedWindow owner).ownWindow c k hk).hand? hk = some h := (saved.hand? hk).trans hh
    exact ⟨h.awaitsWindow, hand?_updHand_same (f := Hand.awaitsWindow) (fun _ => rfl) owned, rfl, saved.parts⟩

/-- A trap is taken, without a halt for the debugger: the hand has entered it. -/
theorem takeTrap_hand {s : State} {hk : Nat} {h : Hand} {t : TrapInfo} (hh : s.hand? hk = some h)
    (nodbg : t.kind = 2 → (s.part h.part).cfg.dbg = false) (c k : Nat) : MovesOnly (h.enterTrap t) ((s.takeTrap c k hk t).hand hk) := by
  obtain ⟨h', hh', moves, parts⟩ := claimWindow_hand? (hand?_updHand_same (f := fun h => h.enterTrap t) (fun _ => rfl) hh) c k
  have hand' := hand_of_hand? hh'
  have part' : h'.part = h.part := by rw [moves]; rfl
  have runs : (t.kind == 2 && (((s.updHand hk fun h => h.enterTrap t).claimWindow c k hk false).part h'.part).cfg.dbg) = false := by
    rw [State.part, parts, part']
    by_cases hk2 : t.kind = 2
    · exact Bool.and_eq_false_imp.mpr fun _ => nodbg hk2
    · rw [beq_eq_false_iff_ne.mpr hk2, Bool.false_and]
  rw [State.takeTrap]
  simp only [hand', runs, Bool.false_eq_true, if_false]
  exact moves

/-! ## The step (R196, R201) -/

section
variable {s : State} {hk : Nat} {h : Hand} (slot : (s.slot s.args.n s.args.m).hand = some hk) (hh : s.hand? hk = some h)
  (running : h.state = .running) (first : (s.slot s.args.n s.args.m).count = 0)
include slot hh running first

theorem execTrapEntry_trap {t : TrapInfo} (pending : h.pendTrap = some t) :
    execTrapEntry s = .next ((s.takeTrap s.args.n s.args.m hk t).finishCycle s.args.n s.args.m) := by
  simp [execTrapEntry, slot, hand_of_hand? hh, running, first, pending]

theorem execTrapEntry_interrupt (untrapped : h.pendTrap = none) (taken : h.takesInterrupt = true) :
    execTrapEntry s = .next ((s.takeInterrupt s.args.n s.args.m hk).finishCycle s.args.n s.args.m) := by
  simp [execTrapEntry, slot, hand_of_hand? hh, running, first, untrapped, taken]

end

/-- An interrupt is a trap of the voting threads of lowest PC, with its tag and payload. -/
theorem takeInterrupt_takes {s : State} {hk : Nat} {h : Hand} (hh : s.hand? hk = some h) {tag : BitVec 16} {payload pc : DWord}
    (pending : h.pendInt = some (tag, payload)) (low : h.lowestPc h.voting = some pc) (spec : s.specRun h = false)
    (enabled : h.trapRegs.xvec.getLsbD 0 = true) (c k : Nat) :
    s.takeInterrupt c k hk = (s.updHand hk (fun h => { h with pendInt := none })).takeTrap c k hk
      { code := 0, kind := 3, info := tag, pc := pc, val := payload, mask := h.at h.voting pc, split := h.at h.voting pc } := by
  simp only [State.takeInterrupt, hand_of_hand? hh, pending, low, spec, enabled, Bool.not_true, Bool.false_eq_true, if_false]

/-- Settles O13: the step takes the trap or the interrupt, and what a hand holds that has entered a trap is read off `Hand.enterTrap`. -/
theorem trapEntryTakesException : Obligations.TrapEntryTakesException := by
  constructor
  · intro s hk h t c k slot hh running first pending nodbg
    refine ⟨execTrapEntry_trap slot hh running first pending, ?_⟩
    rintro _ rfl
    have entered : MovesOnly (h.enterTrap t) ((s.takeTrap c k hk t).hand hk) := takeTrap_hand hh nodbg c k
    rw [entered]
    exact ⟨cause_code t, cause_kind t, (cause_zeros t).1, cause_info t, (cause_zeros t).2, rfl, rfl, rfl, rfl, rfl, rfl, rfl,
      fun l hl => enterTrap_pc h t hl, rfl, rfl, rfl, rfl, rfl, rfl⟩
  · intro s hk h tag payload pc c k lanes slot hh running first untrapped pending early outside votes low spec enabled
    have taken : h.takesInterrupt = true := by
      rw [Hand.takesInterrupt, pending, early, outside, bne_iff_ne.mpr votes]
      rfl
    rw [exec_trapEntry, execTrapEntry_interrupt slot hh running first untrapped taken, takeInterrupt_takes hh pending low spec enabled]

end Sys2Proof.Machine
end

section
/-!
PROOFS. The return from a trap (O14).
-/
namespace Sys2Proof.Machine

/-! ## The hand -/

section
variable (h : Hand)

/-- Of the traps that waited, the next one becomes pending. -/
theorem nextTrap_eq : ∃ pend later parks, h.nextTrap = { h with pendTrap := pend, laterTraps := later, parks := parks } := by
  unfold Hand.nextTrap
  split <;> exact ⟨_, _, _, rfl⟩

end

/-- `h'` is the hand `h` after its trap mode has ended: the threads of the trapped split that are left go on at `xpc`, in the depth that
they came from (R195, R198). -/
structure TrapEnded (h h' : Hand) : Prop where
  mode : h'.trapMode = 0
  levels : h'.lc = h.lc
  pc : ∀ l, l < 32 → h'.pc.getD l 0 = if h.trapSplit.has l && h.live.has l then h.trapRegs.xpc else h.pc.getD l 0
  depth : h.trapDepth ≠ [] → ∀ l, l < 32 → h'.depthOf l = if h.trapSplit.has l then h.trapDepth.getD l 0 else h.depthOf l

section
variable {h : Hand}

theorem endTrapMode_ends (last : h.trapMode &&& h.live = 0) (split : h.trapSplit ≠ 0) : TrapEnded h h.endTrapMode := by
  have ends : (h.trapSplit != 0 && (h.trapMode &&& h.live) == 0) = true := by
    rw [bne_iff_ne.mpr split, beq_iff_eq.mpr last, Bool.and_self]
  rw [Hand.endTrapMode, if_pos ends]
  obtain ⟨_, _, _, next⟩ := nextTrap_eq _
  rw [next]
  refine ⟨rfl, rfl, fun l hl => ?_, fun entered l hl => ?_⟩
  · simp [hl]
  · rw [Hand.depthOf, if_neg (by simpa using entered)]
    simp [hl]

variable {lanes : Lanes}

/-- While another thread is in trap mode, those that have returned are held. -/
theorem returnFromTrap_held (others : h.trapMode &&& ~~~lanes &&& h.live ≠ 0) :
    h.returnFromTrap lanes = { h with trapMode := h.trapMode &&& ~~~lanes, heldTret := h.heldTret ||| lanes } := by
  refine if_neg fun e => others ?_
  exact eq_of_beq (Bool.and_eq_true_iff.mp e).2

/-- The last threads that return end trap mode. -/
theorem returnFromTrap_last (last : h.trapMode &&& ~~~lanes &&& h.live = 0) (split : h.trapSplit ≠ 0) :
    TrapEnded h (h.returnFromTrap lanes) := by
  obtain ⟨mode, levels, pc, depth⟩ :=
    endTrapMode_ends (h := { h with trapMode := h.trapMode &&& ~~~lanes, heldTret := h.heldTret ||| lanes }) last split
  exact ⟨mode, levels, pc, depth⟩

end

/-! ## The instruction -/

section
variable {s : State} {i : SplitIssue} {w : CoreWords} (h : Issues s i w)
include h

theorem execTret_returns (inTrap : s.acting i w &&& ~~~(s.hand i.hand).trapMode = 0) : execTret w s =
    .next (s.finish i w (s.acting i w) false (s.updHand i.hand (fun h => h.returnFromTrap (s.acting i w)))) :=
  execCore_moved h (if_neg (by simpa using inTrap))

theorem execTret_refused (outside : s.acting i w &&& ~~~(s.hand i.hand).trapMode ≠ 0) :
    execTret w s = .next (s.faulted i w (i.faultW (s.acting i w) 0x0A 0)) :=
  execCore_trap h (if_pos (by simpa using outside))

end

/-- Settles O14: the instruction's two equations, and what its hand is like after it. -/
theorem trapReturn : Obligations.TrapReturn := by
  intro s i w issues h act h'
  refine ⟨fun inTrap => ⟨execTret_returns issues inTrap, fun others => ?_, fun last split => ?_⟩, execTret_refused issues⟩
  · have held : h' = { h with trapMode := h.trapMode &&& ~~~act, heldTret := h.heldTret ||| act } := returnFromTrap_held others
    rw [held]
    exact ⟨rfl, rfl⟩
  · obtain ⟨mode, levels, pc, depth⟩ : TrapEnded h h' := returnFromTrap_last last split
    exact ⟨mode, levels, fun l hl => ⟨fun entered => depth entered l hl, pc l hl⟩⟩

end Sys2Proof.Machine
end

section
/-!
PROOFS. A stored word with an uncorrectable error that an integer instruction reads (O59).
-/
namespace Sys2Proof.Machine

/-! ## Registers read through SECDED (R220) -/

/-- Some lane reads a word of the registers actively that is uncorrectable. -/
def Hand.readsError (h : Hand) (rs : List (Dst × Lanes)) : Bool := rs.any (fun p => (h.storedErrs p.1).1 &&& p.2 != 0)

theorem readsError_iff {h : Hand} {rs : List (Dst × Lanes)} :
    h.readsError rs = true ↔ ∃ p ∈ rs, (h.storedErrs p.1).1 &&& p.2 ≠ 0 := by
  simp only [Hand.readsError, List.any_eq_true, bne_iff_ne]

theorem readsError_eq_false_iff {h : Hand} {rs : List (Dst × Lanes)} :
    h.readsError rs = false ↔ ∀ p ∈ rs, (h.storedErrs p.1).1 &&& p.2 = 0 := by
  simp only [Hand.readsError, List.any_eq_false, bne_iff_ne, not_not]

theorem readsError_of_intact {h : Hand} {rs : List (Dst × Lanes)} (clean : h.intact rs = true) : h.readsError rs = false := by
  refine readsError_eq_false_iff.mpr fun p hp => ?_
  have noError : h.storedErrs p.1 = (0, 0) := eq_of_beq (List.all_eq_true.mp clean p hp)
  rw [noError]
  exact BitVec.zero_and

/-- A fold whose steps add a test to a flag, whatever else they carry along, gathers whether the test holds of some element. -/
theorem foldl_flag {α β : Type} {step : Bool × β → α → Bool × β} {test : α → Bool} (flags : ∀ acc x, (step acc x).1 = (acc.1 || test x))
    (xs : List α) (acc : Bool × β) : (xs.foldl step acc).1 = (acc.1 || xs.any test) := by
  induction xs generalizing acc with
  | nil => rw [List.foldl_nil, List.any_nil, Bool.or_false]
  | cons x xs ih => rw [List.foldl_cons, ih, flags, List.any_cons, Bool.or_assoc]

/-- The scan finds an error exactly where an active lane reads an uncorrectable word. -/
theorem scan_eq (s : State) (i : SplitIssue) (rs : List (Dst × Lanes)) : s.scan i rs = ((s.hand i.hand).readsError rs, (s.scan i rs).2) := by
  refine Prod.ext ?_ rfl
  rw [State.scan]
  split
  · next clean => exact (readsError_of_intact clean).symm
  · exact (foldl_flag (fun _ _ => rfl) rs (false, s)).trans (Bool.false_or _)

/-! ## The shared shape of an instruction over registers whose words have errors -/

/-- The registers of the sources of an instruction, with the lanes that read each actively. -/
abbrev State.sourceRegs (s : State) (i : SplitIssue) (act : Lanes) (ops : List (Operand × Check)) : List (Dst × Lanes) :=
  regsOf (s.hand i.hand) act (ops.map Prod.fst)

section
variable {s s' : State} {i : SplitIssue} {act : Lanes} {ops : List (Operand × Check)} {dsts lr : List Nat} {effect : Hand → State → Done}
  (sound : checkSources i act (s.hand i.hand) ops = none)
  (there : s.regNeed i.hand act (ops.foldl (fun acc p => acc ++ p.1.gNames) []) dsts
    (if lr.isEmpty then [] else s.freedDsts i i.lanes lr) = .ready)
include sound there

theorem withRegs_readsError (err : (s.hand i.hand).readsError (s.sourceRegs i act ops) = true) :
    withRegs i act s ops dsts lr effect = .kill (s.scan i (s.sourceRegs i act ops)).2 := by
  simp only [withRegs, sound, there]
  rw [scan_eq, err]

/-- The effect takes place on what the scan has left: errors logged, the uncorrectable words of other lanes poisoned. -/
theorem withRegs_noError (clean : (s.hand i.hand).readsError (s.sourceRegs i act ops) = false)
    (acts : effect (s.hand i.hand) ((s.scan i (s.sourceRegs i act ops)).2.released i lr) = .ok s') :
    withRegs i act s ops dsts lr effect = .ok s' := by
  rw [State.released] at acts
  simp only [withRegs, sound, there]
  rw [scan_eq, clean]
  simp only [acts]

end

/-- The body finds that its hand has to die (R209). -/
theorem execCore_kill {s s' : State} {i : SplitIssue} {w : CoreWords} {kind : Kind} {body : SplitIssue → Lanes → State → Done}
    (h : Issues s i w) (hb : body i (s.acting i w) s = .kill s') : execCore kind w s body =
      .next (((s'.countIssue i w.rb false).killGang i.hand 0x12 (some i.pc) false).finishCycle i.core i.slot) := by
  rw [execCore_issues h, hb]

/-- Settles O59: the scan of the sources tells the two cases apart, and the instruction's body dies or acts on what the scan has left. -/
theorem storedErrors : Obligations.StoredErrors := by
  intro s i w r hForm hr issues h act lr regs read sound there
  rw [intRows_run r hr hForm w s]
  refine ⟨fun err => ?_, fun clean => ?_⟩
  · exact execCore_kill issues (withRegs_readsError sound there (readsError_iff.mpr err))
  · exact execCore_ok issues rfl (withRegs_noError sound there (readsError_eq_false_iff.mpr clean) rfl)

end Sys2Proof.Machine
end

section
/-!
PROOFS. What a matrix operation changes of the accumulator (O40).
-/
namespace Sys2Proof.Machine

/-! ## Lists: an entry of a sparse list replaced or left out, and the last element -/

section
variable {α : Type} {j k : Nat} {d x : α} {l : List (Nat × α)}

theorem lookupD_cons_other (h : j ≠ k) : lookupD j d ((k, x) :: l) = lookupD j d l := if_neg h.symm

theorem lookupD_erased_same : lookupD k d (l.filter (fun y => y.1 ≠ k)) = d := by
  induction l with
  | nil => rfl
  | cons y l ih =>
    by_cases hy : y.1 = k
    · rwa [List.filter_cons_of_neg (by simpa using hy)]
    · rwa [List.filter_cons_of_pos (by simpa using hy), lookupD_cons_other (Ne.symm hy)]

theorem lookupD_erased_other (h : j ≠ k) : lookupD j d (l.filter (fun y => y.1 ≠ k)) = lookupD j d l := by
  induction l with
  | nil => rfl
  | cons y l ih =>
    by_cases hy : y.1 = k
    · rw [List.filter_cons_of_neg (by simpa using hy), ih, lookupD_cons_other (hy ▸ h)]
    · rw [List.filter_cons_of_pos (by simpa using hy), lookupD, lookupD, ih]

theorem lookupD_replaced_other (p : Bool) (h : j ≠ k) :
    lookupD j d (if p then l.filter (fun y => y.1 ≠ k) else (k, x) :: l.filter (fun y => y.1 ≠ k)) = lookupD j d l := by
  cases p with
  | true => exact lookupD_erased_other h
  | false => exact (lookupD_cons_other h).trans (lookupD_erased_other h)

end

theorem getD_snoc_length {α : Type} (l : List α) (x d : α) : (l ++ [x]).getD l.length d = x := by
  rw [List.getD_append_right _ _ _ _ le_rfl, Nat.sub_self, List.getD_cons_zero]

/-! ## Rows of the accumulator store -/

section
variable (c : Core) (row : List Word) (chk : Word)

/-- A row of zeros is not stored, and reads as 256 zeros. -/
theorem accRow_setRow_same (r : Nat) {j : Nat} (hj : j < 256) : ((c.setRow r row chk).accRow r).getD j 0 = row.getD j 0 := by
  rw [Core.setRow, Core.accRow]
  split
  · next zeros =>
    have zero : row.getD j 0 = 0 := by
      rcases lt_or_ge j row.length with inside | outside
      · rw [List.getD_eq_getElem _ _ inside]
        exact eq_of_beq (List.all_eq_true.mp zeros _ (List.getElem_mem inside))
      · exact List.getD_eq_default _ _ outside
    rw [lookupD_erased_same, zero, List.getD_replicate _ hj]
  · rw [lookupD, if_pos rfl]

variable {r r' : Nat} (h : r' ≠ r)
include h

theorem accRow_setRow_other : (c.setRow r row chk).accRow r' = c.accRow r' := lookupD_replaced_other _ h

theorem chkElem_setRow_other : (c.setRow r row chk).chkElem r' = c.chkElem r' := lookupD_replaced_other _ h

end

theorem putRow_getD (row : List Word) (col : Nat) (ws : List Word) {j : Nat} (hj : j < 256) :
    (putRow row col ws).getD j 0 = if col ≤ j ∧ j < col + ws.length then ws.getD (j - col) 0 else row.getD j 0 := by
  rw [putRow, List.getD_eq_getElem _ _ (by simpa using hj), List.getElem_map, List.getElem_range]

/-! ## The matrix operation, row by row (R244, R358) -/

section
variable (c : Core) (row col : Nat) (a : Tile) (va : DWord) (b : Tile) (vb : DWord) (rows : List Nat)

/-- The elements that row `r` of A gives over the columns of B, added to those of `old` from `col` on, each with its flags. -/
def mmaRow (r : Nat) (old : List Word) : List (Word × Flags) :=
  (List.range (shCols vb)).map (fun n => mmaElem a va r b vb n (old.getD (col + n) 0))

/-- The words of a row of the accumulator after row `r` of A. -/
theorem putRow_mmaRow (r : Nat) (old : List Word) {j : Nat} (hj : j < 256) :
    (putRow old col ((mmaRow col a va b vb r old).map Prod.fst)).getD j 0 =
      if col ≤ j ∧ j < col + shCols vb then (mmaElem a va r b vb (j - col) (old.getD j 0)).1 else old.getD j 0 := by
  have width : ((mmaRow col a va b vb r old).map Prod.fst).length = shCols vb := by
    rw [List.length_map, mmaRow, List.length_map, List.length_range]
  rw [putRow_getD _ _ _ hj, width]
  refine if_ctx_congr Iff.rfl (fun ⟨left, right⟩ => ?_) fun _ => rfl
  rw [List.getD_eq_getElem _ _ (by omega), List.getElem_map]
  simp only [mmaRow, List.getElem_map, List.getElem_range, Nat.add_sub_cancel' left]

/-- The operation of row `r` of A into row `q` of the accumulator, with the flags so far. -/
def mmaStep (r q : Nat) (x : Core × Flags) : Core × Flags :=
  let old := x.1.accRow q
  let es := mmaRow col a va b vb r old
  (x.1.setRow q (putRow old col (es.map Prod.fst)) (checkElem a va r b (x.1.chkElem q)), es.foldl (fun f e => f ||| e.2) x.2)

theorem mma_eq_foldl : c.mma row col a va b vb rows =
    (List.range rows.length).foldl (fun x m => mmaStep col a va b vb (rows.getD m 0) (row + m) x) (c, 0) := rfl

theorem mma_snoc (r : Nat) : c.mma row col a va b vb (rows ++ [r]) =
    mmaStep col a va b vb r (row + rows.length) (c.mma row col a va b vb rows) := by
  have before : ∀ x, ∀ m ∈ List.range rows.length, mmaStep col a va b vb ((rows ++ [r]).getD m 0) (row + m) x =
      mmaStep col a va b vb (rows.getD m 0) (row + m) x :=
    fun x m hm => by rw [List.getD_append _ _ _ _ (List.mem_range.mp hm)]
  rw [mma_eq_foldl, mma_eq_foldl, List.length_append, List.length_singleton, List.range_succ, List.foldl_append, List.foldl_cons,
    List.foldl_nil, getD_snoc_length]
  exact congrArg _ (List.foldl_ext _ _ _ before)

/-- `c'` is the core `c` with the products of the rows of A accumulated, from row `row` and column `col` on. -/
structure Accumulated (c' : Core) : Prop where
  block : ∀ m, m < rows.length → ∀ j, j < 256 → (c'.accRow (row + m)).getD j 0 =
    if col ≤ j ∧ j < col + shCols vb then (mmaElem a va (rows.getD m 0) b vb (j - col) ((c.accRow (row + m)).getD j 0)).1
    else (c.accRow (row + m)).getD j 0
  outside : ∀ r, r < row ∨ row + rows.length ≤ r → c'.accRow r = c.accRow r ∧ c'.chkElem r = c.chkElem r
  tiles : c'.tiles = c.tiles
  slots : c'.slots = c.slots
  work : c'.work = c.work

variable {c row col a va b vb rows}

/-- The rows before the next one are left as they are, and the next one is still as it was before the operation. -/
theorem Accumulated.snoc {x : Core × Flags} (h : Accumulated c row col a va b vb rows x.1) (r : Nat) :
    Accumulated c row col a va b vb (rows ++ [r]) (mmaStep col a va b vb r (row + rows.length) x).1 := by
  obtain ⟨block, outside, tiles, slots, work⟩ := h
  have untouched : x.1.accRow (row + rows.length) = c.accRow (row + rows.length) := (outside _ (.inr le_rfl)).1
  refine ⟨fun m hm j hj => ?_, fun q hq => ?_, tiles, slots, work⟩
  · rw [List.length_append, List.length_singleton] at hm
    rw [mmaStep]
    rcases Nat.lt_succ_iff_lt_or_eq.mp hm with earlier | rfl
    · rw [accRow_setRow_other _ _ _ (by omega), List.getD_append _ _ _ _ earlier, block m earlier j hj]
    · rw [accRow_setRow_same _ _ _ _ hj, putRow_mmaRow _ _ _ _ _ _ _ hj, untouched, getD_snoc_length]
  · rw [List.length_append, List.length_singleton] at hq
    rw [mmaStep, accRow_setRow_other _ _ _ (by omega), chkElem_setRow_other _ _ _ (by omega)]
    exact outside q (by omega)

variable (c row col a va b vb rows)

theorem mma_accumulated : Accumulated c row col a va b vb rows (c.mma row col a va b vb rows).1 := by
  induction rows using List.reverseRecOn with
  | nil => exact ⟨fun m hm => absurd hm m.not_lt_zero, fun _ _ => ⟨rfl, rfl⟩, rfl, rfl, rfl⟩
  | append_singleton rows r ih =>
    rw [mma_snoc]
    exact ih.snoc r

end

/-- Settles O40: row after row, each row of A changes one row of the accumulator, which no other one touches. -/
theorem matrixAccumulates : Obligations.MatrixAccumulates := by
  intro c row col a b va vb rows _ _
  obtain ⟨block, outside, tiles, slots, work⟩ := mma_accumulated c row col a va b vb rows
  exact ⟨block, outside, tiles, slots, work⟩

end Sys2Proof.Machine
end

section
/-!
PROOFS. What an issue with no active lane, and one at an effect edge of a SPECRUN hand, comes to (O17).
-/
namespace Sys2Proof.Machine

/-- The state `s` while the split `i` issues. -/
def State.withSplit (s : State) (i : SplitIssue) : State := { s with cur := some (.split i) }

/-- What an issue comes to before the instruction's body has a say, as `execCore` orders it: with no active lane it retires (R254), a SPECRUN hand
stops at an effect edge (R107), and otherwise the body leads to `acts`. -/
def State.guarded (s : State) (i : SplitIssue) (w : CoreWords) (edge : Bool) (acts : State) : State :=
  if i.active (s.hand i.hand) w == 0 then s.retire i w 0 false
  else if edge && s.specRun (s.hand i.hand) then (s.effectEdge i.hand).finishCycle i.core i.slot
  else acts

section
variable {s : State} {i : SplitIssue} {w : CoreWords}

theorem withSplit_of_cur (h : s.cur = some (.split i)) : s.withSplit i = s := by
  rw [State.withSplit, ← h]

theorem guarded_of_idle (edge : Bool) (acts : State) (idle : i.active (s.hand i.hand) w = 0) :
    s.guarded i w edge acts = s.retire i w 0 false :=
  if_pos (beq_iff_eq.mpr idle)

theorem guarded_of_edge (acts : State) (active : i.active (s.hand i.hand) w ≠ 0) (spec : s.specRun (s.hand i.hand) = true) :
    s.guarded i w true acts = (s.effectEdge i.hand).finishCycle i.core i.slot :=
  (if_neg (mt beq_iff_eq.mp active)).trans (if_pos spec)

end

/-- Each core instruction is some body behind the guards of `execCore`. -/
theorem exec_guarded {ins : Instr} {opc : Nat} {w : CoreWords} (h : ins.core = some (opc, w)) (s : State) (i : SplitIssue) :
    ∃ edge acts, exec ins (s.withSplit i) = .next ((s.withSplit i).guarded i w edge acts) := by
  cases ins <;> cases h <;> exact ⟨_, _, rfl⟩

/-- Those of `edgeInstrs` are marked as effect edges there. -/
theorem edgeInstrs_guarded (w : CoreWords) (s : State) (i : SplitIssue) :
    edgeInstrs.Forall fun ins => ∃ acts, exec (ins w) (s.withSplit i) = .next ((s.withSplit i).guarded i w true acts) := by
  and_intros <;> exact ⟨_, rfl⟩

/-- Settles O17: whatever its body is, a core instruction first passes the guards of `execCore`. -/
theorem idleLanesAndEdges : Obligations.IdleLanesAndEdges := by
  refine ⟨fun s i ins opc w core cur idle => ?_, fun s i w ins edge cur active spec => ?_⟩
  · obtain ⟨edge, acts, meaning⟩ := exec_guarded core s i
    rw [withSplit_of_cur cur] at meaning
    rw [meaning, guarded_of_idle edge acts idle]
  · obtain ⟨acts, meaning⟩ := List.forall_iff_forall_mem.mp (edgeInstrs_guarded w s i) ins edge
    rw [withSplit_of_cur cur] at meaning
    rw [meaning, guarded_of_edge acts active spec]

end Sys2Proof.Machine
end

section
/-!
PROOFS. Decoding inverts encoding (O20): the fields of a word are read back, each form is recognised by LEN, and the row of the opcode builds the
instruction again.
-/
namespace Sys2Proof

/-! ## Fields of the words

The library's lemmas about `++` speak of the sum of the widths, so each word is first written at that width. -/

theorem word0Of_eq_cast (opc : Nat) (w : CoreWords) : word0Of opc w = BitVec.cast (by rfl : 5 + 5 + 5 + 3 + 10 + 1 + 1 + 1 + 1 = 32)
    (w.b ++ w.a ++ w.d ++ w.p ++ BitVec.ofNat 10 opc ++ BitVec.ofBool w.rb ++ BitVec.ofBool w.sw ++
      BitVec.ofBool w.ext.isSome ++ BitVec.ofBool w.lit.isSome) := rfl

theorem word1Of_eq_cast (x : ExtWords) : word1Of x = BitVec.cast (by rfl : 2 + 4 + 4 + 1 + 3 + 1 + 4 + 1 + 3 + 6 + 1 + 1 + 1 = 32)
    ((0 : BitVec 2) ++ x.ord ++ x.fmt ++ BitVec.ofBool x.sat ++ x.rnd ++ BitVec.ofBool x.pinv ++ x.pq ++
      BitVec.ofBool x.px ++ x.lr ++ x.c ++ BitVec.ofBool x.bh ++ BitVec.ofBool x.ah ++ BitVec.ofBool x.dh) := rfl

theorem dvWordOf_eq_cast (f : BitVec 3) (w : DvWord) : dvWordOf f w = BitVec.cast (by rfl : 5 + 2 + 5 + 5 + 3 + 5 + 7 = 32)
    ((0 : BitVec 5) ++ w.cond ++ w.rs2 ++ w.rs1 ++ f ++ w.rd ++ (0b0001011 : BitVec 7)) := rfl

theorem splitWord0_word0Of {opc : Nat} {w : CoreWords} {ext : Option ExtWords} {lit : Option DWord} (he : w.ext = ext) (hl : w.lit = lit) :
    splitWord0 (word0Of opc w) ext lit = w := by
  subst he hl
  simp (disch := decide) only [splitWord0, word0Of_eq_cast, BitVec.extractLsb'_cast, BitVec.getLsbD_cast, BitVec.extractLsb'_append_eq_of_le,
    BitVec.extractLsb'_append_eq_of_add_le, BitVec.extractLsb'_eq_self, Nat.reduceSub, BitVec.getLsbD_append, Nat.reduceLT, if_false,
    BitVec.getLsbD_ofBool, Nat.sub_self, decide_true, Bool.true_and, if_true]

theorem opcOf_word0Of {opc : Nat} (h : opc < 1024) (w : CoreWords) : opcOf (word0Of opc w) = opc := by
  simp (disch := decide) only [opcOf, word0Of_eq_cast, BitVec.extractLsb'_cast, BitVec.extractLsb'_append_eq_of_le,
    BitVec.extractLsb'_append_eq_of_add_le, BitVec.extractLsb'_eq_self, Nat.reduceSub]
  exact BitVec.toNat_ofNat opc 10 ▸ Nat.mod_eq_of_lt h

/-- LEN (R246). -/
theorem len_word0Of (opc : Nat) (w : CoreWords) : ((word0Of opc w).extractLsb' 0 2).toNat = 2 * w.ext.isSome.toNat + w.lit.isSome.toNat := by
  have len : (word0Of opc w).extractLsb' 0 2 = BitVec.ofBool w.ext.isSome ++ BitVec.ofBool w.lit.isSome := by
    rw [word0Of, BitVec.append_assoc]
    exact BitVec.extractLsb'_append_eq_right
  rw [len]
  cases w.ext.isSome <;> cases w.lit.isSome <;> rfl

theorem splitExt_word1Of (x : ExtWords) : splitExt (word1Of x) x.w2 = x := by
  simp (disch := decide) only [splitExt, word1Of_eq_cast, BitVec.extractLsb'_cast, BitVec.getLsbD_cast, BitVec.extractLsb'_append_eq_of_le,
    BitVec.extractLsb'_append_eq_of_add_le, BitVec.extractLsb'_eq_self, Nat.reduceSub, BitVec.getLsbD_append, Nat.reduceLT, if_false,
    BitVec.getLsbD_ofBool, Nat.sub_self, decide_true, Bool.true_and, if_true]

theorem word1Zero_word1Of (x : ExtWords) : word1Zero (word1Of x) = true := by
  simp (disch := decide) only [word1Zero, word1Of_eq_cast, BitVec.extractLsb'_cast, BitVec.extractLsb'_append_eq_of_le,
    BitVec.extractLsb'_eq_self, Nat.reduceSub, beq_self_eq_true]

theorem literal_joined (l : DWord) : l.extractLsb' 32 32 ++ l.extractLsb' 0 32 = l := BitVec.extractLsb'_append_extractLsb'

/-! ## Core instructions (R246 to R250) -/

/-- Each of the four forms is told by its LEN, and its fields are read back. -/
theorem decodeAs_coreWordsOf (opc opc' : Nat) (w : CoreWords) : decodeAs opc (coreWordsOf opc' w) = buildCore opc true w := by
  have len := len_word0Of opc' w
  rcases he : w.ext with _ | x <;> rcases hl : w.lit with _ | l <;> rw [he, hl] at len <;>
    simp only [coreWordsOf, he, hl, decodeAs, len, List.cons_append, List.nil_append, Option.isSome_none, Option.isSome_some,
      Bool.toNat_false, Bool.toNat_true, Nat.reduceMul, Nat.reduceAdd, word1Zero_word1Of, splitExt_word1Of, splitWord0_word0Of he hl,
      literal_joined]

/-- The opcode of a row fits into OPC: only the classes 0 to 8 have rows. -/
theorem opRow_lt {opc : Nat} {r : OpRow} (h : opRow opc = some r) : opc < 1024 := by
  rw [opRow] at h
  split at h
  case h_10 => contradiction
  all_goals omega

/-- The laws of the family Encoding, for every instruction. -/
theorem core_row (i : Instr) : Laws.Encoding.Statement i := by
  intro opc w h
  cases i <;> cases h <;> exact ⟨_, rfl, rfl⟩

theorem buildCore_of_coreOk {opc : Nat} {r : OpRow} {w : CoreWords} (hr : opRow opc = some r) (ok : coreOk opc w = true) :
    buildCore opc true w = .instr (r.build w) := by
  have checked : checkRow opc r w = true := by simpa only [coreOk, hr] using ok
  simp only [buildCore, hr, checked, Bool.and_self, if_true]

section
variable {i : Instr} {opc : Nat} {w : CoreWords} (hi : i.core = some (opc, w))
include hi

theorem wellFormed_core : i.wellFormed = coreOk opc w := by
  rw [Instr.wellFormed, hi]

theorem encode_core : encode i = coreWordsOf opc w := by
  unfold encode
  rw [hi]

theorem decode_coreWordsOf (ok : coreOk opc w = true) : decode (coreWordsOf opc w) = some i := by
  obtain ⟨r, hr, rfl⟩ := core_row i opc w hi
  have read : decodeCore (coreWordsOf opc w) = .instr (r.build w) :=
    calc decodeCore (coreWordsOf opc w)
      _ = decodeAs opc (coreWordsOf opc w) := congrArg (decodeAs · (coreWordsOf opc w)) (opcOf_word0Of (opRow_lt hr) w)
      _ = buildCore opc true w := decodeAs_coreWordsOf opc opc w
      _ = .instr (r.build w) := buildCore_of_coreOk hr ok
  simp only [decode, read]

end

/-! ## Instructions of a command processor (R46) -/

section
variable (f : BitVec 3) (w : DvWord)

@[simp] theorem dvWordOf_opcode : (dvWordOf f w).extractLsb' 0 7 = 0b0001011 := BitVec.extractLsb'_append_eq_right

@[simp] theorem dvWordOf_funct3 : (dvWordOf f w).extractLsb' 12 3 = f := by
  simp (disch := decide) only [dvWordOf_eq_cast, BitVec.extractLsb'_cast, BitVec.extractLsb'_append_eq_of_le,
    BitVec.extractLsb'_append_eq_of_add_le, BitVec.extractLsb'_eq_self, Nat.reduceSub]

@[simp] theorem dvWordOf_funct7 : ((dvWordOf f w).extractLsb' 25 7).toNat = w.cond.toNat := by
  have cut : (dvWordOf f w).extractLsb' 25 7 = (0 : BitVec 5) ++ w.cond := by
    simp (disch := decide) only [dvWordOf_eq_cast, BitVec.extractLsb'_cast, BitVec.extractLsb'_append_eq_of_le, Nat.reduceSub]
    exact BitVec.extractLsb'_eq_self
  rw [cut, BitVec.toNat_append]
  exact Nat.zero_or _

@[simp] theorem dvWordOf_args : ({
    rd := (dvWordOf f w).extractLsb' 7 5, rs1 := (dvWordOf f w).extractLsb' 15 5, rs2 := (dvWordOf f w).extractLsb' 20 5,
    cond := (dvWordOf f w).extractLsb' 25 2 } : DvWord) = w := by
  simp (disch := decide) only [dvWordOf_eq_cast, BitVec.extractLsb'_cast, BitVec.extractLsb'_append_eq_of_le,
    BitVec.extractLsb'_append_eq_of_add_le, BitVec.extractLsb'_eq_self, Nat.reduceSub]

/-- The opcode of R46 reads as LEN 11, the longest form, which one word is too short for. -/
theorem decodeCore_dvWordOf : decodeCore [dvWordOf f w] = .short := by
  have len : (dvWordOf f w).extractLsb' 0 2 = 3 := by
    simp (disch := decide) only [dvWordOf_eq_cast, BitVec.extractLsb'_cast, BitVec.extractLsb'_append_eq_of_add_le]
    rfl
  simp only [decodeCore, decodeAs, len]
  rfl

theorem decode_dvWordOf : decode [dvWordOf f w] = decodeDv (dvWordOf f w) := by
  simp only [decode, decodeCore_dvWordOf]

end

section
variable {w : DvWord}

theorem decodeDv_rfetch (h : w.cond.toNat = 0) : decodeDv (dvWordOf 0 w) = some (.dvRfetch w) := by
  simp [decodeDv, h, -BitVec.extractLsb'_toNat]

theorem decodeDv_bfx (h : w.cond.toNat = 0) : decodeDv (dvWordOf 1 w) = some (.dvBfx w) := by
  simp [decodeDv, h, -BitVec.extractLsb'_toNat]

theorem decodeDv_swait : decodeDv (dvWordOf 2 w) = some (.dvSwait w) := by
  have inRange : w.cond.toNat < 4 := w.cond.isLt
  simp [decodeDv, inRange, -BitVec.extractLsb'_toNat]

theorem decodeDv_disp (h : w.cond.toNat = 0) : decodeDv (dvWordOf 3 w) = some (.dvDisp w) := by
  simp [decodeDv, h, -BitVec.extractLsb'_toNat]

theorem cond_zero (h : (w.cond == 0) = true) : w.cond.toNat = 0 := congrArg BitVec.toNat (eq_of_beq h)

end

/-- An instruction of no core that words encode is one of a command processor. -/
theorem dv_of_hasWords {i : Instr} (hi : i.core = none) (h : i.hasWords = true) :
    ∃ w, i = .dvRfetch w ∨ i = .dvBfx w ∨ i = .dvSwait w ∨ i = .dvDisp w := by
  unfold Instr.hasWords encode at h
  rw [hi] at h
  split at h
  case h_1 => contradiction
  case h_2 =>
    split at h
    · exact ⟨_, .inl rfl⟩
    · exact ⟨_, .inr (.inl rfl)⟩
    · exact ⟨_, .inr (.inr (.inl rfl))⟩
    · exact ⟨_, .inr (.inr (.inr rfl))⟩
    · contradiction

/-- Settles O20: the words of a core instruction give its fields back, from which the row of its opcode builds it; the word of an instruction of a
command processor is too short for the core decoder, and its own decoder reads it. -/
theorem decodeEncode : Obligations.DecodeEncode := by
  intro i wellFormed hasWords
  cases hi : i.core with
  | some c =>
    obtain ⟨opc, w⟩ := c
    rw [encode_core hi]
    exact decode_coreWordsOf hi (wellFormed_core hi ▸ wellFormed)
  | none =>
    obtain ⟨w, rfl | rfl | rfl | rfl⟩ := dv_of_hasWords hi hasWords
    · exact (decode_dvWordOf 0 w).trans (decodeDv_rfetch (cond_zero wellFormed))
    · exact (decode_dvWordOf 1 w).trans (decodeDv_bfx (cond_zero wellFormed))
    · exact (decode_dvWordOf 2 w).trans decodeDv_swait
    · exact (decode_dvWordOf 3 w).trans (decodeDv_disp (cond_zero wellFormed))

end Sys2Proof
end

section
/-!
PROOFS. Integer results (O1), and addresses and uniform values (O4).
-/
namespace Sys2Proof.Machine

/-- Settles O1: an integer instruction does what its row says, once its registers are read. -/
theorem integerResults : Obligations.IntegerResults :=
  fun _ _ _ _ _ hr h hread => IntRow.exec_result hr h hread

/-! ## Numbers of 64 bits (R286, R288) -/

theorem zeroExtend_eq_ofInt (b : Word) : b.zeroExtend 64 = BitVec.ofInt 64 (b.toNat : Int) := by
  rw [BitVec.ofInt_natCast, BitVec.ofNat_toNat]

theorem twoPow_eq_ofInt (k : Nat) : BitVec.twoPow 64 k = BitVec.ofInt 64 (2 ^ k) := by
  have hk : (2 ^ k : Int) = ((2 ^ k : Nat) : Int) := by norm_cast
  rw [hk, BitVec.ofInt_natCast]
  exact BitVec.eq_of_toNat_eq (by rw [BitVec.toNat_twoPow, BitVec.toNat_ofNat])

/-- The address that `lea` writes, as a number. -/
theorem leaAddress_num (uns : Bool) (a : DWord) (b : Word) (k : Nat) :
    a + (if uns then b.zeroExtend 64 else b.signExtend 64) <<< k = BitVec.ofInt 64 ((a.toNat : Int) + typed uns b * 2 ^ k) := by
  have hb : (if uns then b.zeroExtend 64 else b.signExtend 64) = BitVec.ofInt 64 (typed uns b) := by
    cases uns
    · rfl
    · exact zeroExtend_eq_ofInt b
  rw [hb, BitVec.ofInt_add, BitVec.ofInt_mul, BitVec.ofInt_natCast, BitVec.ofNat_toNat, BitVec.setWidth_eq,
    BitVec.shiftLeft_eq_mul_twoPow, twoPow_eq_ofInt]

/-- The sum that `add64` writes. -/
theorem add64_num (a b : DWord) : a + b = BitVec.ofNat 64 (a.toNat + b.toNat) := by simp [BitVec.ofNat_add]

/-- The 64 bits that two words promote, as a number. -/
theorem promoted_num (a b : Operand) (h : Hand) (uni : Uniform) (t : Nat) :
    promoted a b h uni t = BitVec.ofNat 64 ((a.word h uni t).toNat + (b.word h uni t).toNat * 2 ^ 32) := by
  have ha := (a.word h uni t).isLt
  have hb := (b.word h uni t).isLt
  have hor := Nat.two_pow_add_eq_or_of_lt ha (b.word h uni t).toNat
  apply BitVec.eq_of_toNat_eq
  simp only [promoted, BitVec.toNat_or, BitVec.toNat_shiftLeft, BitVec.zeroExtend, BitVec.toNat_setWidth, BitVec.toNat_ofNat,
    Nat.shiftLeft_eq]
  rw [Nat.mod_eq_of_lt (a := (b.word h uni t).toNat) (by omega), Nat.mod_eq_of_lt (a := (a.word h uni t).toNat) (by omega),
    Nat.mod_eq_of_lt (a := _ * _) (by omega), Nat.mod_eq_of_lt (by omega), mul_comm, ← hor, add_comm]

/-! ## A 64-bit result (R286) -/

section
variable {s : State} {i : SplitIssue} {w : CoreWords} (h : Issues s i w)
include h

theorem pairOp_result {b : CoreWords → Operand} {f : CoreWords → DWord → DWord → DWord}
    (hread : Readable s i (s.acting i w) [(w.pA, .int), (b w, .int)] w.pairDst (w.lrNames w.pA (b w) (.lit 0))) :
    pairOp b f w s = .next (s.finish i w 0 false ((s.released i (w.lrNames w.pA (b w) (.lit 0))).writePairD i w (s.acting i w)
      (fun t => f w (w.pA.val (s.hand i.hand) i.uni t) ((b w).val (s.hand i.hand) i.uni t)) 0xD)) :=
  execCore_ok h rfl (withRegs_ok hread rfl)

/-! ## Uniform values (R287, R288) -/

theorem execMovl_writes : execMovl w s = .next (s.finish i w 0 false (s.writeH i.hand w.nameD w.litVal 0)) :=
  execCore_ok h rfl rfl

/-- What `uni` and `uni.chk` do with a promoted value: it is written into h[D] once last-read names are free. -/
def State.promote (s : State) (i : SplitIssue) (w : CoreWords) : State :=
  let l := Lanes.lowest (s.acting i w)
  s.finish i w 0 false ((s.released i (w.lrNames w.gA w.gB (.lit 0))).writeH i.hand w.nameD (promoted w.gA w.gB (s.hand i.hand) i.uni l)
    (w.gA.tag (s.hand i.hand) i.uni l))

theorem execUni_promotes
    (hread : Readable s i (Lanes.one (Lanes.lowest (s.acting i w))) [(w.gA, .move), (w.gB, .move)] [] (w.lrNames w.gA w.gB (.lit 0))) :
    execUni w s = .next (s.promote i w) := by
  refine execCore_ok h rfl ?_
  simp only [hread.1]
  rw [withRegs_ok hread rfl]

/-- The active lanes whose promoted value is another than that of the lowest one. -/
def State.differing (s : State) (i : SplitIssue) (w : CoreWords) : Lanes :=
  let v (t : Nat) : DWord := promoted w.gA w.gB (s.hand i.hand) i.uni t
  Lanes.of (fun t => (s.acting i w).has t && v t != v (Lanes.lowest (s.acting i w)))

variable (hread : Readable s i (s.acting i w) [(w.gA, .move), (w.gB, .move)] [] (w.lrNames w.gA w.gB (.lit 0)))
include hread

theorem execUniChk_promotes (hd : s.differing i w = 0) : execUniChk w s = .next (s.promote i w) := by
  refine execCore_ok h rfl ?_
  have hd' : (s.differing i w != 0) = false := by rw [hd]; rfl
  unfold State.differing at hd'
  simp only [withRegs_readable hread, hd', Bool.false_eq_true, if_false]

theorem execUniChk_faults (hd : s.differing i w ≠ 0) :
    execUniChk w s = .next (s.faulted i w (i.fault (s.acting i w) 0x03 0
      (promoted w.gA w.gB (s.hand i.hand) i.uni (Lanes.lowest (s.acting i w))) (s.differing i w))) := by
  refine execCore_trap h ?_
  have hd' : (s.differing i w != 0) = true := bne_iff_ne.mpr hd
  unfold State.differing at hd' ⊢
  simp only [withRegs_readable hread, hd', if_true]
  rfl

end

theorem differing_eq_zero {s : State} {i : SplitIssue} {w : CoreWords} : s.differing i w = 0 ↔ ∀ t ∈ (s.acting i w).list,
    promoted w.gA w.gB (s.hand i.hand) i.uni t = promoted w.gA w.gB (s.hand i.hand) i.uni (Lanes.lowest (s.acting i w)) := by
  rw [Lanes.eq_zero_iff]
  refine forall_congr' fun t => ?_
  rw [Lanes.mem_list, State.differing, Lanes.has_of]
  by_cases ha : (s.acting i w).has t = true
  · simp [ha, Lanes.lt_of_has ha]
  · simp [ha]

/-- Settles O4: `lea` and `add64` write their sums as numbers, `movl` its literal, and `uni` and `uni.chk` promote, or find lanes that differ. -/
theorem addressAndUniform : Obligations.AddressAndUniform := by
  refine ⟨fun s i w h => ⟨fun hread => ?_, fun hread => ?_⟩, fun s i w h => ⟨execMovl_writes h, ?_, ?_, ?_⟩⟩
  · rw [exec_lea, execLea, pairOp_result h hread]
    simp only [leaAddress_num, Operand.word]
  · rw [exec_add64, execAdd64, pairOp_result h hread]
    simp only [add64_num]
  · intro hread
    rw [exec_uni, execUni_promotes h hread]
    simp only [State.promote, promoted_num]
  · intro hread hsame
    rw [exec_uniChk, execUniChk_promotes h hread (differing_eq_zero.mpr fun t ht => by simpa only [promoted_num] using hsame t ht)]
    simp only [State.promote, promoted_num]
  · intro hread d hd hne
    have hdiff : s.differing i w = d := by simp only [State.differing, promoted_num, hd]
    rw [exec_uniChk, execUniChk_faults h hread (hdiff ▸ hne), hdiff, promoted_num]

end Sys2Proof.Machine
end

section
/-!
PROOFS. `sel` (O3): the clause about its tags fails for a split whose lanes stand at different depths. When lanes select both sources, `selOp`
gives the tag MIXED to each lane whose own two sources have different tags; the statement compares the tags of what the lanes of one register
take, and here each of the two registers that D names takes the word of one lane.
-/
namespace Sys2Proof.Machine

/-- A g register that is mapped and holds a tag. -/
def taggedReg (win : Option Nat) (name : Nat) (tag : BitVec 4) : MapEntry :=
  { win := win, name := name, loc := .phys name, fresh := false, reg := { GReg.zero with tag := tag } }

/-- Two threads, at depths 0 and 1: q1 holds in the first; g6 is tagged S32 and g8 F32, and each window has its own g16. -/
def twoDepths : Hand :=
  { (default : Hand) with
    exited := 0xFFFFFFFC, depth := [0, 1], q := [0, 1]
    map := [taggedReg none 6 1, taggedReg none 8 3, taggedReg (some 0) 16 0, taggedReg (some 1) 16 0] }

def twoDepthsSplit : SplitIssue :=
  { core := 0, slot := 0, hand := 0, pc := 0, next := 8, lanes := 3, uni := Uniform.init, word0 := 0, second := false }

def twoDepthsState : State := { State.reset with cur := some (.split twoDepthsSplit), hands := [twoDepths] }

/-- `sel g16, g6, g8, q1`. -/
def selWords : CoreWords :=
  { sw := false, rb := false, p := 0, d := 16, a := 6, b := 8, ext := some { (default : ExtWords) with c := 1 }, lit := none }

theorem twoDepths_issues : Issues twoDepthsState twoDepthsSplit selWords := ⟨rfl, by decide, by decide, by decide⟩

theorem twoDepths_readable : Readable twoDepthsState twoDepthsSplit (twoDepthsState.acting twoDepthsSplit selWords)
    [(selWords.gA, .move), (selWords.gB, .move)] selWords.gDst (selWords.lrNames selWords.gA selWords.gB (.lit 0)) :=
  ⟨by decide, by decide, by decide⟩

/-- The tag of g16 in lane 0 after a step. -/
def tagOfD : Host.Outcome State Fault Refusal → Option (BitVec 4)
  | .next t => some ((t.hand 0).readG 0 16).tag
  | _ => none

/-- The model's step leaves MIXED in the register of lane 0, which has taken g6 alone. -/
theorem twoDepths_mixed : tagOfD (exec (.sel selWords) twoDepthsState) = some 0xE := by decide +kernel

/-- The operand that a lane selects. -/
def selPick (t : Nat) : Operand := if twoDepths.readQ t selWords.nameC then selWords.gA else selWords.gB

/-- The state that the statement gives. -/
def selClaim : State :=
  twoDepthsState.finish twoDepthsSplit selWords 0 false
    ((twoDepthsState.released twoDepthsSplit (selWords.lrNames selWords.gA selWords.gB (.lit 0))).writeDTags twoDepthsSplit selWords
      (twoDepthsState.acting twoDepthsSplit selWords) (fun t => (selPick t).word twoDepths twoDepthsSplit.uni t)
      (fun t => (selPick t).tag twoDepths twoDepthsSplit.uni t))

theorem selClaim_tag : tagOfD (.next selClaim) = some 1 := by decide +kernel

/-- Refutes O3: in `twoDepthsState` lane 0 takes g6, tagged S32, into its own g16, and lane 1 takes g8, tagged F32, into another; the model
leaves MIXED in both registers, the statement S32 in the first. -/
theorem not_selectAndCompare : ¬ Obligations.SelectAndCompare := by
  rintro ⟨selects, -⟩
  obtain ⟨sel, -⟩ := selects twoDepthsState twoDepthsSplit selWords false twoDepths_issues
  have claim : some (0xE : BitVec 4) = some 1 := twoDepths_mixed.symm.trans ((congrArg tagOfD (sel twoDepths_readable)).trans selClaim_tag)
  exact absurd claim (by decide)

end Sys2Proof.Machine
end

section
/-!
PROOFS. Lane masks of tests, and uniform files of which a write changes nothing else.
-/
namespace Sys2Proof

theorem Lanes.of_congr {p q : Nat → Bool} (h : ∀ t, t < 32 → p t = q t) : Lanes.of p = Lanes.of q := by
  refine BitVec.eq_of_getLsbD_eq fun t ht => ?_
  rw [← Lanes.has, ← Lanes.has, Lanes.has_of, Lanes.has_of, h t ht]

theorem Lanes.of_has (m : Lanes) : Lanes.of m.has = m := by
  refine BitVec.eq_of_getLsbD_eq fun t ht => ?_
  rw [← Lanes.has, Lanes.has_of, decide_eq_true ht, Bool.true_and, Lanes.has]

/-- A test that holds in every lane of a mask does not narrow it. -/
theorem Lanes.of_has_and {m : Lanes} {p : Nat → Bool} (h : ∀ t ∈ m.list, p t = true) : Lanes.of (fun t => m.has t && p t) = m := by
  refine (Lanes.of_congr fun t _ => ?_).trans (Lanes.of_has m)
  by_cases ht : m.has t = true
  · rw [ht, h t (Lanes.mem_list.mpr ht), Bool.and_self]
  · rw [Bool.eq_false_iff.mpr ht, Bool.false_and]

/-- A test that holds in no lane of a mask leaves none. -/
theorem Lanes.of_has_and_zero {m : Lanes} {p : Nat → Bool} (h : ∀ t ∈ m.list, p t = false) : Lanes.of (fun t => m.has t && p t) = 0 := by
  refine Lanes.eq_zero_iff.mpr fun t => ?_
  rw [Lanes.has_of]
  by_cases ht : m.has t = true
  · rw [h t (Lanes.mem_list.mpr ht), Bool.and_false, Bool.and_false]
  · rw [Bool.eq_false_iff.mpr ht, Bool.false_and, Bool.and_false]

theorem Lanes.and_not_self (m : Lanes) : m &&& ~~~m = 0 := by
  refine Lanes.eq_zero_iff.mpr fun t => ?_
  rw [Lanes.has_and, Lanes.has_not]
  cases m.has t <;> simp

/-- The lanes of a mask stand in rising order. -/
theorem Lanes.pairwise_list (m : Lanes) : m.list.Pairwise (· < ·) := List.Pairwise.filter _ List.pairwise_lt_range

theorem Lanes.lowest_le {m : Lanes} {t : Nat} (ht : t ∈ m.list) : m.lowest ≤ t := by
  have hp := m.pairwise_list
  unfold Lanes.lowest
  cases he : m.list with
  | nil => exact absurd ht (by simp [he])
  | cons a l =>
    rw [he, List.pairwise_cons] at hp
    rw [he, List.mem_cons] at ht
    obtain rfl | ht := ht
    · exact le_rfl
    · exact (hp.1 t ht).le

theorem Lanes.lowest_mem {m : Lanes} (hm : m ≠ 0) : m.lowest ∈ m.list := by
  unfold Lanes.lowest
  cases he : m.list with
  | nil =>
    refine absurd (Lanes.eq_zero_iff.mpr fun t => Bool.eq_false_iff.mpr fun ht => ?_) hm
    simpa [he] using Lanes.mem_list.mpr ht
  | cons a l => exact List.mem_cons_self

/-- A lane of a mask is its lowest exactly when no lane of it is lower. -/
theorem Lanes.eq_lowest_iff {m : Lanes} {t : Nat} (ht : t ∈ m.list) : t = m.lowest ↔ ∀ u ∈ m.list, t ≤ u := by
  refine ⟨fun e u hu => e ▸ Lanes.lowest_le hu, fun hle => ?_⟩
  have hm : m ≠ 0 := by
    rintro rfl
    exact absurd (Lanes.mem_list.mp ht) (by rw [Lanes.has_zero]; decide)
  exact le_antisymm (hle _ (Lanes.lowest_mem hm)) (Lanes.lowest_le ht)

end Sys2Proof

namespace Sys2Proof.Machine

/-- A write of a predicate depends on the lanes that it writes alone. -/
theorem putQ_congr (h : Hand) (n : Nat) {lanes : Lanes} {f g : Nat → Bool} (hfg : ∀ t ∈ lanes.list, f t = g t) :
    h.putQ n lanes f = h.putQ n lanes g := by
  have hm : Lanes.of f &&& lanes = Lanes.of g &&& lanes := by
    refine BitVec.eq_of_getLsbD_eq fun t ht => ?_
    rw [← Lanes.has, ← Lanes.has, Lanes.has_and, Lanes.has_and, Lanes.has_of, Lanes.has_of]
    by_cases hl : lanes.has t = true
    · rw [hfg t (Lanes.mem_list.mpr hl)]
    · rw [Bool.eq_false_iff.mpr hl, Bool.and_false, Bool.and_false]
  simp only [Hand.putQ, hm]

theorem writeQD_congr (s : State) (i : SplitIssue) (w : CoreWords) {act : Lanes} {f g : Nat → Bool} (hfg : ∀ t ∈ act.list, f t = g t) :
    s.writeQD i w act f = s.writeQD i w act g := by
  simp only [State.writeQD, State.writeQ, putQ_congr _ _ hfg]

end Sys2Proof.Machine
end

section
/-!
PROOFS. Votes, predicate operations and lane exchanges (O9).
-/
namespace Sys2Proof.Machine

section
variable {s : State} {i : SplitIssue} {w : CoreWords} (h : Issues s i w)
include h

theorem execElect_votes : execElect w s = .next (s.finish i w 0 false
    (s.writeQD i w (s.acting i w) (fun t => (s.acting i w).list.all (fun u => t ≤ u)))) := by
  refine (execCore_ok h rfl rfl).trans ?_
  rw [writeQD_congr]
  intro t ht
  rw [Bool.eq_iff_iff, beq_iff_eq, Lanes.eq_lowest_iff ht]
  simp

theorem predOp_result (f : Hand → Lanes → Nat → Bool) :
    predOp f w s = .next (s.finish i w 0 false (s.writeQD i w (s.acting i w) (f (s.hand i.hand) (s.acting i w)))) :=
  execCore_ok h rfl rfl

theorem execQmask_gathers (hr : Readable s i (s.acting i w) [] w.gDst []) : execQmask w s = .next (s.finish i w 0 false
    (s.writeD i w (s.acting i w) (fun _ => Lanes.of (fun t => (s.acting i w).has t && (s.hand i.hand).readQ t w.nameA)) 0)) :=
  execCore_ok h rfl (withRegs_noLr hr)

end

theorem scan_intact {s : State} {i : SplitIssue} {rs : List (Dst × Lanes)} (he : (s.hand i.hand).intact rs = true) :
    s.scan i rs = (false, s) := if_pos he

section
variable {s : State} {i : SplitIssue} {w : CoreWords} (h : Issues s i w)
include h

/-- A lane exchange whose sources are there, and read without poison and without an error (R300). -/
theorem lxOp_exchanges (src : Nat → Nat → Nat)
    (hp : ∀ t ∈ (s.acting i w).list,
      (crossLane w.gA (s.hand i.hand) t (src t (w.gB.word (s.hand i.hand) i.uni t).toNat)).poison = false)
    (hb : poisonOf i (s.acting i w) (s.hand i.hand) w.gB = none)
    (hn : s.regNeed i.hand (s.acting i w) (w.gA.gNames ++ w.gB.gNames) w.gDst
      (s.freedDsts i i.lanes (w.lrNames w.gA w.gB (.lit 0))) = .ready)
    (he : (s.hand i.hand).intact (regsOf (s.hand i.hand) (s.acting i w) [w.gA, w.gB]) = true) :
    lxOp src w s = .next (s.finish i w 0 false ((s.freeNames i i.lanes (w.lrNames w.gA w.gB (.lit 0))).writeDTags i w (s.acting i w)
      (fun t => (crossLane w.gA (s.hand i.hand) t (src t (w.gB.word (s.hand i.hand) i.uni t).toNat)).value.setWidth 32)
      (fun t => (crossLane w.gA (s.hand i.hand) t (src t (w.gB.word (s.hand i.hand) i.uni t).toNat)).tag))) := by
  have hbad := bne_eq_false_iff_eq.mpr (Lanes.of_has_and_zero hp)
  have hscan (f : Dst × Lanes → Lanes) :
      s.scan i ((w.gA.regs (s.hand i.hand) (s.acting i w)).map (fun p => (p.1, f p)) ++ w.gB.regs (s.hand i.hand) (s.acting i w)) =
        (false, s) := by
    refine scan_intact ?_
    rw [Hand.intact, List.all_append, List.all_map]
    simpa [Hand.intact, regsOf, List.all_append] using he
  refine execCore_ok h rfl ?_
  simp only [hbad, hb, hn, hscan, Bool.false_eq_true, if_false]

end

theorem div_mul_pow_eq_sub_mod (t k : Nat) : t / 2 ^ k * 2 ^ k = t - t % 2 ^ k := by
  have := Nat.div_add_mod' t (2 ^ k)
  omega

theorem predRows_run : ∀ r ∈ predRows, ∀ w s,
    exec (r.1 w) s = predOp (fun h _ t => r.2 (h.readQ t w.nameA) (h.readQ t w.nameB)) w s := by
  simp only [predRows, List.forall_mem_cons, List.not_mem_nil, false_implies, implies_true, and_true]
  exact ⟨fun _ _ => rfl, fun _ _ => rfl, fun _ _ => rfl, fun _ _ => rfl⟩

theorem lxRows_run : ∀ r ∈ lxRows, ∀ w s, exec (r.1 w) s = lxOp r.2 w s := by
  simp only [lxRows, List.forall_mem_cons, List.not_mem_nil, false_implies, implies_true, and_true]
  refine ⟨fun _ _ => rfl, fun _ _ => rfl, fun _ _ => rfl, fun w s => ?_⟩
  simp only [exec_lxDup, execLxDup, div_mul_pow_eq_sub_mod]

/-- Settles O9: a vote is a write of a predicate over the active lanes, and each exchange reads the lane that its row names. -/
theorem predicatesAndLanes : Obligations.PredicatesAndLanes := by
  refine ⟨fun s i w h => ⟨execElect_votes h, ?_, ?_, execQmask_gathers h, fun r hr => ?_⟩, fun s i w h r hr => ?_⟩
  · rw [exec_qany, execQany, predOp_result h]
    simp only [List.any_eq]
  · rw [exec_qall, execQall, predOp_result h]
    simp only [List.all_eq]
  · rw [predRows_run r hr, predOp_result h]
  · intro _ act lr from_ hp hb hn he
    rw [lxRows_run r hr]
    exact lxOp_exchanges h r.2 hp hb hn he

end Sys2Proof.Machine
end

section
/-!
PROOFS. Table branches (O7), ends of threads and runs (O8), and traps (O15).
-/
namespace Sys2Proof.Machine

section
variable {s s' s2 : State} {i : SplitIssue} {w : CoreWords} (h : Issues s i w)
include h

/-! ## `brx` (R295) -/

/-- The number of entries of the table of `brx`, its address, and the index of a lane. -/
def brxCount (w : CoreWords) : Nat := (w.litVal.setWidth 32 : Word).toNat
def brxTable (i : SplitIssue) (w : CoreWords) : DWord := i.pc + BitVec.ofNat 64 (4 * w.len)
def State.brxIndex (s : State) (i : SplitIssue) (w : CoreWords) : Nat → Nat := fun t => (w.gA.word (s.hand i.hand) i.uni t).toNat

theorem execBrx_branches {words : List (Nat × Word)} (hr : Readable s i (s.acting i w) [(w.gA, .move)] [] [])
    (hin : ∀ t ∈ (s.acting i w).list, s.brxIndex i w t < brxCount w)
    (hf : brxFetch i.core (s.hand i.hand).asid i.pc (brxTable i w) ((s.acting i w).list.map (s.brxIndex i w)) s [] = .ok (words, s')) :
    execBrx w s = .next (s.finish i w (s.acting i w) false
      (((s'.freeNames i i.lanes (w.lrNames w.gA (.lit 0) (.lit 0))).branchTo i (s.acting i w)
        (fun t => i.pc + (lookupD (s.brxIndex i w t) 0 words).signExtend 64)).updHand i.hand (fun x =>
          x.goto (i.lanes &&& ~~~s.acting i w &&& x.live) (fun _ => brxTable i w + BitVec.ofNat 64 (4 * brxCount w))))) := by
  have hgood : Lanes.of (fun t => (s.acting i w).has t && decide (s.brxIndex i w t < brxCount w)) = s.acting i w :=
    Lanes.of_has_and fun t ht => decide_eq_true (hin t ht)
  refine execCore_moved h ((withRegs_noLr hr).trans ?_)
  unfold State.brxIndex brxCount brxTable at *
  simp only [hgood, hf, Lanes.and_not_self, beq_self_eq_true, if_true]

/-! ## `yieldw` (R298) -/

section
variable {loc : Nat} {e : TlbEntry} (hr : Readable s i (s.acting i w) [(w.hA, .move), (w.hB, .move)] [] [])
  (ha : (s.uniAt i w w.nameA).toNat % 8 = 0) (ht : s.translate (s.hand i.hand).asid (s.uniAt i w w.nameA) .read = .ok loc e)
include hr ha ht

theorem execYieldw_full
    (hn : (s.tlbAdd e).registerWaiter (s.hand i.hand).asid (s.uniAt i w w.nameA) (fun x => { x with hands := x.hands ++ [i.hand] }) = none) :
    execYieldw w s = .next (s.finish i w 0 false ((s.tlbAdd e).yieldRun i)) := by
  refine execCore_ok h rfl ((withRegs_noLr hr).trans ?_)
  simp only [ha, ht, hn, ne_eq, not_true_eq_false, if_false]

variable
  (hw : (s.tlbAdd e).registerWaiter (s.hand i.hand).asid (s.uniAt i w w.nameA) (fun x => { x with hands := x.hands ++ [i.hand] }) = some s')
include hw

theorem execYieldw_asks (hp : spaceOf loc = .peer) (hq : s'.reqs = [])
    (h2 : s'.readPeer (coreDie (s.hand i.hand).core) loc 8 (.watch i.hand (s.uniAt i w w.nameA) (s.uniAt i w w.nameB)) = some s2) :
    execYieldw w s = .next (s.finish i w 0 false (s2.sleepOn i (s.uniAt i w w.nameA))) := by
  have hreqs (f : PeerReq → PeerReq) : { s' with reqs := s'.reqs.map f } = s' := by
    rw [hq, List.map_nil, ← hq]
  refine execCore_ok h rfl ((withRegs_noLr hr).trans ?_)
  simp only [ha, ht, hw, hp, hreqs, h2, beq_self_eq_true, ne_eq, not_true_eq_false, if_false, if_true]

variable (hp : spaceOf loc ≠ .peer)
include hp

theorem execYieldw_sleeps (hv : (s'.lastWrite (wordOf loc)).value = s.uniAt i w w.nameB) :
    execYieldw w s = .next (s.finish i w 0 false (s'.sleepOn i (s.uniAt i w w.nameA))) := by
  refine execCore_ok h rfl ((withRegs_noLr hr).trans ?_)
  simp only [ha, ht, hw, beq_eq_false_iff_ne.mpr hp, hv, bne_self_eq_false, ne_eq, not_true_eq_false, if_false, Bool.false_eq_true]

theorem execYieldw_yields (hv : (s'.lastWrite (wordOf loc)).value ≠ s.uniAt i w w.nameB) :
    execYieldw w s = .next (s.finish i w 0 false ((s'.withdrawWaiter (s.hand i.hand).asid (s.uniAt i w w.nameA)
      (fun x => { x with hands := x.hands.filter (fun k => k ≠ i.hand) })).yieldRun i)) := by
  refine execCore_ok h rfl ((withRegs_noLr hr).trans ?_)
  simp only [ha, ht, hw, beq_eq_false_iff_ne.mpr hp, bne_iff_ne.mpr hv, ne_eq, not_true_eq_false, if_false, if_true, Bool.false_eq_true]

end

/-! ## `exit`, `yield` and `nop` (R294, R297, R302) -/

theorem execExit_ends : execExit w s = .next (s.finish i w (s.acting i w) true (s.exitThreads i.hand (s.acting i w))) :=
  execCore_moved h rfl

theorem execYield_yields : execYield w s = .next (s.finish i w 0 false (s.yieldRun i)) := execCore_ok h rfl rfl

theorem execNop_retires : execNop w s = .next (s.finish i w 0 false s) := execCore_ok h rfl rfl

/-! ## `trap` and `brk` (R389) -/

theorem trapOp_raises (kind : BitVec 2) : trapOp kind w s = .next (s.faulted i w
    { code := 0, kind := kind, info := w.litVal.setWidth 16, pc := if kind == 1 then i.next else i.pc, val := 0,
      mask := s.acting i w, split := s.acting i w }) :=
  execCore_trap h rfl

end

/-- Settles O7: no lane lies past the table, so that each branches. -/
theorem tableBranch : Obligations.TableBranch :=
  fun _ _ _ _ _ h hr hin hf => execBrx_branches h hr hin hf

/-- A change of a hand that keeps its key and its launch does not change whose launch it is. -/
theorem hand_updHand_lid (s : State) {f : Hand → Hand} (hk : ∀ h, (f h).key = h.key) (hl : ∀ h, (f h).lid = h.lid) (k : Nat) :
    ((s.updHand k f).hand k).lid = (s.hand k).lid := by
  rw [State.hand, hand?_updHand s hk, if_pos rfl, State.hand]
  cases s.hand? k with
  | none => rfl
  | some x => exact hl x

theorem sleepOn_eq (s : State) (i : SplitIssue) (key : DWord) : s.sleepOn i key =
    ((s.updHand i.hand (fun h => { h with key64 := some key })).updSlot i.core i.slot
      (fun x => { x with ending := true, fate := .asleep })).owlReset (s.hand i.hand).lid := by
  have hl := hand_updHand_lid s (f := fun h => { h with key64 := some key }) (fun _ => rfl) (fun _ => rfl) i.hand
  simp only [State.sleepOn, hl]

/-- Settles O8: each instruction is its equation; `yieldw` has one for each of its outcomes. -/
theorem exitAndYield : Obligations.ExitAndYield := by
  refine ⟨fun s i w h => ⟨execExit_ends h, execYield_yields h, execNop_retires h⟩, fun s i w loc e h => ?_⟩
  intro _ act key reg hr ha ht
  simp only [← sleepOn_eq]
  exact ⟨execYieldw_full h hr ha ht, fun _ hw hp hq _ h2 => execYieldw_asks h hr ha ht hw hp hq h2,
    fun _ hw hp hv => execYieldw_sleeps h hr ha ht hw hp hv, fun _ hw hp hv => execYieldw_yields h hr ha ht hw hp hv⟩

/-- Settles O15: the three raise their fault. -/
theorem trapInstructions : Obligations.TrapInstructions := by
  refine fun s i w => ⟨fun h => ⟨trapOp_raises h 1, trapOp_raises h 2⟩, fun code word0 hc => ?_⟩
  simp only [exec_encodingNotInstruction, execEncodingNotInstruction, hc]
  rfl

end Sys2Proof.Machine
end

section
/-!
PROOFS. The checks of an access (O23), and loads, prefetches, fences and bindings that issue (O22, O25).
-/
namespace Sys2Proof

/-- Some lane of a mask passes a test exactly when the mask of those that do is not empty. -/
theorem Lanes.of_has_and_ne_zero {m : Lanes} {p : Nat → Bool} :
    (Lanes.of (fun t => m.has t && p t) != 0) = true ↔ ∃ t ∈ m.list, p t = true := by
  rw [bne_iff_ne, ne_eq, Lanes.eq_zero_iff, not_forall]
  refine exists_congr fun t => ?_
  rw [Lanes.has_of, Lanes.mem_list]
  by_cases ht : m.has t = true
  · simp [ht, Lanes.lt_of_has ht]
  · simp [ht]

end Sys2Proof

namespace Sys2Proof.Machine

/-! ## The checks of R312 -/

section
variable {s : State} {i : SplitIssue} {act : Lanes} {scratch : Bool} {acc : Access} {n align : Nat} {ea : Nat → DWord}

/-- The active lanes that pass a test. -/
def failing (act : Lanes) (p : Nat → Bool) : Lanes := Lanes.of (fun t => act.has t && p t)

/-- Tests of lanes: a misaligned address; in scratch, a bad address, and one outside the hand's shares; in memory, a refused translation, and an
absent page. -/
def misaligned (align : Nat) (ea : Nat → DWord) (t : Nat) : Bool := (ea t).toNat % align != 0
def State.badScratch (s : State) (i : SplitIssue) (ea : Nat → DWord) (t : Nat) : Bool :=
  (clusterLoc (coreCluster (s.hand i.hand).core) (ea t).toNat).isNone
def State.outOfShare (s : State) (i : SplitIssue) (n : Nat) (ea : Nat → DWord) (t : Nat) : Bool :=
  !s.inShare (s.hand i.hand) ((clusterLoc (coreCluster (s.hand i.hand).core) (ea t).toNat).getD 0) n
def State.refusedAt (s : State) (i : SplitIssue) (acc : Access) (ea : Nat → DWord) (t : Nat) : Bool :=
  match s.translate (s.hand i.hand).asid (ea t) acc with | .prot => true | _ => false
def State.absentAt (s : State) (i : SplitIssue) (acc : Access) (ea : Nat → DWord) (t : Nat) : Bool :=
  match s.translate (s.hand i.hand).asid (ea t) acc with | .page _ _ => true | _ => false

theorem refusedAt_iff {t : Nat} : s.refusedAt i acc ea t = true ↔ s.translate (s.hand i.hand).asid (ea t) acc = .prot := by
  unfold State.refusedAt
  cases s.translate (s.hand i.hand).asid (ea t) acc <;> simp

theorem absentAt_iff {t : Nat} : s.absentAt i acc ea t = true ↔ ∃ home e, s.translate (s.hand i.hand).asid (ea t) acc = .page home e := by
  unfold State.absentAt
  cases s.translate (s.hand i.hand).asid (ea t) acc <;> simp

/-- A check of an access finds a fault in lanes, at the address of the lowest of them. -/
def State.AccessFaults (s : State) (i : SplitIssue) (act : Lanes) (scratch : Bool) (acc : Access) (align n : Nat) (ea : Nat → DWord)
    (code : BitVec 8) (p : Nat → Bool) : Prop :=
  ∃ s', s.checkAccess i act scratch acc align n ea = .error (s', addrFault i act (failing act p) code ea)

theorem checkAccess_misaligned (h1 : (failing act (misaligned align ea) != 0) = true) :
    s.AccessFaults i act scratch acc align n ea 0x09 (misaligned align ea) :=
  ⟨s, if_pos h1⟩

section
variable (h1 : (failing act (misaligned align ea) != 0) = false)
include h1

theorem checkAccess_badScratch (h2 : (failing act (s.badScratch i ea) != 0) = true) :
    s.AccessFaults i act true acc align n ea 0x0A (s.badScratch i ea) :=
  ⟨s, (if_neg (ne_true_of_eq_false h1)).trans ((if_pos rfl).trans (if_pos h2))⟩

theorem checkAccess_outOfShare (h2 : (failing act (s.badScratch i ea) != 0) = false) (h3 : (failing act (s.outOfShare i n ea) != 0) = true) :
    s.AccessFaults i act true acc align n ea 0x0C (s.outOfShare i n ea) :=
  ⟨s, (if_neg (ne_true_of_eq_false h1)).trans ((if_pos rfl).trans ((if_neg (ne_true_of_eq_false h2)).trans (if_pos h3)))⟩

theorem checkAccess_inScratch (h2 : (failing act (s.badScratch i ea) != 0) = false) (h3 : (failing act (s.outOfShare i n ea) != 0) = false) :
    s.checkAccess i act true acc align n ea =
      .ok (act.list.map (fun t => (t, (clusterLoc (coreCluster (s.hand i.hand).core) (ea t).toNat).getD 0)), s) :=
  (if_neg (ne_true_of_eq_false h1)).trans ((if_pos rfl).trans ((if_neg (ne_true_of_eq_false h2)).trans (if_neg (ne_true_of_eq_false h3))))

theorem checkAccess_refused (h2 : (failing act (s.refusedAt i acc ea) != 0) = true) :
    s.AccessFaults i act false acc align n ea 0x0A (s.refusedAt i acc ea) :=
  ⟨s, (if_neg (ne_true_of_eq_false h1)).trans ((if_neg Bool.false_ne_true).trans (if_pos h2))⟩

variable (h2 : (failing act (s.refusedAt i acc ea) != 0) = false)
include h2

theorem checkAccess_absent (h3 : (failing act (s.absentAt i acc ea) != 0) = true) :
    s.AccessFaults i act false acc align n ea 0x0B (s.absentAt i acc ea) :=
  ⟨_, (if_neg (ne_true_of_eq_false h1)).trans ((if_neg Bool.false_ne_true).trans ((if_neg (ne_true_of_eq_false h2)).trans (if_pos h3)))⟩

theorem checkAccess_inMemory (h3 : (failing act (s.absentAt i acc ea) != 0) = false) : ∃ loc : Nat → Nat, ∃ es,
    s.checkAccess i act false acc align n ea = .ok (act.list.map (fun t => (t, loc t)), s.tlbAddAll es) :=
  ⟨_, _, (if_neg (ne_true_of_eq_false h1)).trans ((if_neg Bool.false_ne_true).trans ((if_neg (ne_true_of_eq_false h2)).trans
    (if_neg (ne_true_of_eq_false h3))))⟩

end

end

theorem tlbAddAll_eq (s : State) (es : List TlbEntry) : ∃ tlb, s.tlbAddAll es = { s with tlb := tlb } := by
  induction es generalizing s with
  | nil => exact ⟨s.tlb, rfl⟩
  | cons e es ih => exact ih (s.tlbAdd e)

/-- The fault of a check names the lanes that met it and the address of the lowest. -/
theorem State.AccessFaults.fields {s : State} {i : SplitIssue} {act : Lanes} {scratch : Bool} {acc : Access} {n align : Nat} {ea : Nat → DWord}
    {code : BitVec 8} {p : Nat → Bool} (hf : s.AccessFaults i act scratch acc align n ea code p) {q : Nat → Prop} (hq : ∀ t, p t = true ↔ q t) :
    ∃ s' t, s.checkAccess i act scratch acc align n ea = .error (s', t) ∧ t.code = code ∧ t.kind = 0 ∧ t.pc = i.pc ∧ t.split = act ∧
      (∀ l, l < 32 → (t.mask.has l = true ↔ act.has l = true ∧ q l)) ∧ t.val = ea (Lanes.lowest t.mask) := by
  obtain ⟨s', he⟩ := hf
  refine ⟨s', _, he, rfl, rfl, rfl, rfl, fun l hl => ?_, rfl⟩
  rw [← hq l]
  change (failing act p).has l = true ↔ _
  rw [failing, Lanes.has_of, decide_eq_true hl, Bool.true_and, Bool.and_eq_true]

theorem failing_iff {act : Lanes} {p : Nat → Bool} {q : Nat → Prop} (hq : ∀ t, p t = true ↔ q t) :
    (failing act p != 0) = true ↔ ∃ t ∈ act.list, q t := by
  simp only [failing, Lanes.of_has_and_ne_zero, hq]

/-- Settles O23: the checks are tried in their order, and each names the lanes that meet its fault. -/
theorem accessChecks : Obligations.AccessChecks := by
  intro s i act acc n ea h some_ faults odd place out prot page
  have hodd (t : Nat) : misaligned n ea t = true ↔ odd t := bne_iff_ne
  have hplace (t : Nat) : s.badScratch i ea t = true ↔ place t = none := Option.isNone_iff_eq_none
  have hout (t : Nat) : s.outOfShare i n ea t = true ↔ out t := by
    simp only [State.outOfShare, Bool.not_eq_true']
    rfl
  have hprot (t : Nat) : s.refusedAt i acc ea t = true ↔ prot t := refusedAt_iff
  have hpage (t : Nat) : s.absentAt i acc ea t = true ↔ page t := absentAt_iff
  refine ⟨fun scratch h1 => (checkAccess_misaligned ((failing_iff hodd).mpr h1)).fields hodd, fun h1 => ?_⟩
  have h1 := Bool.eq_false_iff.mpr (mt (failing_iff hodd).mp h1)
  refine ⟨fun h2 => (checkAccess_badScratch h1 ((failing_iff hplace).mpr h2)).fields hplace, fun h2 h3 => ?_, fun h2 h3 => ?_,
    fun h2 => (checkAccess_refused h1 ((failing_iff hprot).mpr h2)).fields hprot, fun h2 h3 => ?_, fun h2 h3 => ?_⟩
  · have h2 := Bool.eq_false_iff.mpr (mt (failing_iff hplace).mp h2)
    exact (checkAccess_outOfShare h1 h2 ((failing_iff hout).mpr h3)).fields hout
  · have h2 := Bool.eq_false_iff.mpr (mt (failing_iff hplace).mp h2)
    exact checkAccess_inScratch h1 h2 (Bool.eq_false_iff.mpr (mt (failing_iff hout).mp h3))
  · have h2 := Bool.eq_false_iff.mpr (mt (failing_iff hprot).mp h2)
    exact (checkAccess_absent h1 h2 ((failing_iff hpage).mpr h3)).fields hpage
  · have h2 := Bool.eq_false_iff.mpr (mt (failing_iff hprot).mp h2)
    obtain ⟨loc, es, he⟩ := checkAccess_inMemory (align := n) (n := n) h1 h2 (Bool.eq_false_iff.mpr (mt (failing_iff hpage).mp h3))
    obtain ⟨tlb, ht⟩ := tlbAddAll_eq s es
    refine ⟨_, _, he, by rw [ht], ?_⟩
    rw [List.map_map]
    exact List.map_id _

/-! ## Loads (R310) -/

section
variable {s s' : State} {i : SplitIssue} {w : CoreWords} (h : Issues s i w)
include h

theorem loadOp_issues {scratch inv hForm : Bool} {names : List Nat} {locs : List (Nat × Nat)}
    (hn : (if memSize w = 8 then w.pairDst else w.gDst) = names)
    (hr : Readable s i (s.acting i w) [(memBase scratch hForm w, .move), (w.gB, .move)] names
      (w.lrNames (memBase scratch hForm w) w.gB (.lit 0)))
    (hc : (s.released i (w.lrNames (memBase scratch hForm w) w.gB (.lit 0))).checkAccess i (s.acting i w) scratch .read (memSize w) (memSize w)
      (effAddr scratch w (memBase scratch hForm w) w.gB (s.hand i.hand) i.uni) = .ok (locs, s'))
    (hs : s'.specRun (s.hand i.hand) = false) :
    let x := loadLanes i.hand (s'.hand i.hand).nextId (memSize w) scratch locs s'
    loadOp scratch inv hForm w s = .next (s.finish i w 0 false (x.2.addOutst i.hand (s.acting i w)
      (if inv then .inv (memSize w) w.x.fmt x.1 else .load (memSize w) w.x.fmt (ordScope w) x.1)
      (asyncDsts (x.2.hand i.hand) (s.acting i w) w names w.x.fmt) 0 0)) := by
  subst hn
  refine execCore_ok h rfl (withRegs_ok hr ?_)
  simp only [hc, hs, Bool.false_and, Bool.false_eq_true, if_false]

end

theorem loadRows_run : ∀ r ∈ loadRows, ∀ w s, exec (r.2.2.2 w) s = loadOp r.1 r.2.1 r.2.2.1 w s := by
  simp only [loadRows, List.forall_mem_cons, List.not_mem_nil, false_implies, implies_true, and_true]
  exact ⟨fun _ _ => rfl, fun _ _ => rfl, fun _ _ => rfl, fun _ _ => rfl, fun _ _ => rfl, fun _ _ => rfl⟩

/-- Settles O22: each row is a load of its kind, which becomes outstanding. -/
theorem loadsIssue : Obligations.LoadsIssue := by
  intro s s' i w locs h r hr _ act a n names lr hread hc hs
  rw [loadRows_run r hr]
  exact loadOp_issues h rfl hread hc hs

/-! ## `ldh`, `pref` and `fence` (R313 to R315) -/

section
variable {s s' u : State} {i : SplitIssue} {w : CoreWords} (h : Issues s i w)
include h

section
variable {locs : List (Nat × Nat)} (hr : Readable s i (s.acting i w) [(w.hA, .move)] [] [])
include hr

/-- The location of a uniform access. -/
def headLoc (locs : List (Nat × Nat)) : Nat := ((locs.head?).map Prod.snd).getD 0

/-- The stores of lanes that are older than a split's instruction. -/
def olderStores (h : Hand) (lanes : Lanes) : List (Nat × Nat) := lanes.list.map (fun t => (t, (h.thread t).sbNext))

/-- An `ldh` becomes outstanding in `u`. -/
def State.ldhSent (s : State) (i : SplitIssue) (w : CoreWords) (loc : Nat) (u : State) : State :=
  s.finish i w 0 false (u.addOutst i.hand (s.acting i w) (.loadH loc w.x.fmt (olderStores (s.hand i.hand) i.lanes) false)
    [pendingDst (.h w.nameD) w.x.fmt] 0 0)

/-- The address of `ldh`. -/
def State.ldhAddr (s : State) (i : SplitIssue) (w : CoreWords) : DWord :=
  s.uniAt i w w.nameA + (w.litVal.setWidth 32 : Word).signExtend 64 + memOff w

variable (hc : s.checkAccess i (s.acting i w) false .read 8 8 (fun _ => s.ldhAddr i w) = .ok (locs, s'))
  (hs : s'.specRun (s.hand i.hand) = false)
include hc hs

theorem execLdh_here (hp : spaceOf (headLoc locs) ≠ .peer) : execLdh w s = .next (s.ldhSent i w (headLoc locs) s') := by
  refine execCore_ok h rfl ((withRegs_noLr hr).trans ?_)
  unfold State.ldhAddr headLoc at *
  simp only [hc, hs, hp, Bool.false_and, Bool.false_eq_true, if_false]
  rfl

section
variable (hp : spaceOf (headLoc locs) = .peer)
include hp

theorem execLdh_asks (ha : s'.readPeer (coreDie (s.hand i.hand).core) (headLoc locs) 8
      (.load i.hand (s'.hand i.hand).nextId (Lanes.lowest (s.acting i w))) = some u) :
    execLdh w s = .next (s.ldhSent i w (headLoc locs) u) := by
  refine execCore_ok h rfl ((withRegs_noLr hr).trans ?_)
  unfold State.ldhAddr headLoc at *
  simp only [hc, hs, hp, ha, Bool.false_and, Bool.false_eq_true, if_false, if_true]
  rfl

theorem execLdh_poisoned (ha : s'.readPeer (coreDie (s.hand i.hand).core) (headLoc locs) 8
      (.load i.hand (s'.hand i.hand).nextId (Lanes.lowest (s.acting i w))) = none) :
    execLdh w s = .next (s.finish i w 0 false
      (s'.addOutst i.hand (s.acting i w) .value [poisonedDst (.h w.nameD) w.x.fmt] 0 0)) := by
  refine execCore_ok h rfl ((withRegs_noLr hr).trans ?_)
  unfold State.ldhAddr headLoc at *
  simp only [hc, hs, hp, ha, Bool.false_and, Bool.false_eq_true, if_false, if_true]

end

end

theorem prefOp_retires {hForm : Bool}
    (hr : Readable s i (s.acting i w) [(memBase false hForm w, .move), (w.gB, .move)] [] (w.lrNames (memBase false hForm w) w.gB (.lit 0))) :
    prefOp hForm w s = .next (s.finish i w 0 false (s.released i (w.lrNames (memBase false hForm w) w.gB (.lit 0)))) :=
  execCore_ok h rfl (withRegs_ok hr rfl)

theorem execFence_issues : execFence w s = .next (s.finish i w 0 false
    (s.addOutst i.hand (s.acting i w) (.fence (ordScope w) (olderStores (s.hand i.hand) (s.acting i w))) [] 0 0)) :=
  execCore_ok h rfl rfl

end

/-! ## `bind` (R316) -/

section
variable {s s1 s2 : State} {i : SplitIssue} {w : CoreWords} {locs objs : List (Nat × Nat)} {loc : Nat}

theorem zipIdx_map_range {α : Type} (f : Nat → α) (n : Nat) :
    ((List.range n).map f).zipIdx = (List.range n).map (fun k => (f k, k)) :=
  List.ext_getElem (by simp) (by simp)

/-- Folding over the marked elements of a listing with their places is folding over the marked places. -/
theorem foldl_marked_zipIdx {α β : Type} (f : Nat → α) (p : α → Bool) (g : β → Nat → β) (n : Nat) (b : β) :
    ((((List.range n).map f).zipIdx.filter (fun x => p x.1)).foldl (fun b x => g b x.2) b) =
      ((List.range n).filter (fun k => p (f k))).foldl g b := by
  rw [zipIdx_map_range, List.filter_map, List.foldl_map]
  rfl

/-- A word of the entry of a `bind`, as its split reads it in `s1`. -/
def State.entryPart (s1 : State) (h : Hand) (i : SplitIssue) (loc k : Nat) : Loaded := s1.issueWord h i.lanes.list (loc + 8 * k)

/-- The answer of a peer for the entry. -/
def State.entryCame (s1 : State) (i : SplitIssue) (loc : Nat) : Option (Nat × Nat × Bool) :=
  s1.entryReads.find? (fun x => x.1 = i.hand && x.2.1 == loc)

/-- The entry has been read: uncorrectable words are logged, and the answer is taken. -/
def State.entryRead (s1 : State) (h : Hand) (i : SplitIssue) (loc : Nat) : State :=
  let logged := ((List.range 4).filter (fun k => (s1.entryPart h i loc k).bad)).foldl (fun s k => s.logUE (loc + 8 * k)) s1
  { (logged.crossHome (coreDie h.core) loc).hostRead loc with
    entryReads := logged.entryReads.filter (fun x => !(x.1 = i.hand && x.2.1 == loc)) }

/-- A word of the entry as a number of 64 bits. -/
def State.entryWord (s1 : State) (h : Hand) (i : SplitIssue) (loc k : Nat) : DWord := BitVec.ofNat 64 (s1.entryPart h i loc k).value

/-- Every word of the entry has been read, without an error. -/
def State.entryClear (s1 : State) (h : Hand) (i : SplitIssue) (loc : Nat) : Prop :=
  ∀ k, k < 4 → (s1.entryPart h i loc k).bad = false ∧ (s1.entryPart h i loc k).lost = false

/-- What `bind` does with its entry once its location is known. -/
def State.bindEntry (s1 : State) (h : Hand) (i : SplitIssue) (act : Lanes) (w : CoreWords) (loc : Nat) : Done :=
  if spaceOf loc = .peer ∧ (s1.entryCame i loc).isNone = true then .stall (s1.askEntry i loc)
  else
    let read := s1.entryRead h i loc
    if !((s1.entryCame i loc).map (fun x => x.2.2)).getD true ||
        (List.range 4).any (fun k => (s1.entryPart h i loc k).bad || (s1.entryPart h i loc k).lost) then
      .ok (read.addOutst i.hand act .value [poisonedDst (.h w.nameD) 2] 0 0)
    else match read.checkAccess i act false .read 1 8 (fun _ => s1.entryWord h i loc 0) with
      | .error (s', t) => .trap s' t
      | .ok (objs, s2) =>
        .ok (s2.addOutst i.hand act (.bind (headLoc objs) (s1.entryWord h i loc 1) (s1.entryWord h i loc 2)
          (bindOk (s1.entryWord h i loc 0) (s1.entryWord h i loc 1) (s1.entryWord h i loc 2) (s1.entryWord h i loc 3)))
          [pendingDst (.h w.nameD) 2] 0 0)

theorem execBind_body (hr : Readable s i (s.acting i w) [(w.hA, .move)] [] [])
    (hc : s.checkAccess i (s.acting i w) false .read 32 32 (fun _ => s.uniAt i w w.nameA) = .ok (locs, s1)) :
    ∃ body, execBind w s = execCore { outside := true, edge := true, sync := true } w s body ∧
      body i (s.acting i w) s = s1.bindEntry (s.hand i.hand) i (s.acting i w) w (headLoc locs) := by
  refine ⟨_, rfl, (withRegs_noLr hr).trans ?_⟩
  have hword : ∀ f : Nat → Loaded, ∀ k, k < 4 → ((((List.range 4).map f)[k]?).map Loaded.value).getD 0 = (f k).value := by
    intro f k hk
    simp [hk]
  have hlog := foldl_marked_zipIdx (s1.entryPart (s.hand i.hand) i (headLoc locs)) Loaded.bad
    (fun s k => s.logUE (headLoc locs + 8 * k)) 4 s1
  unfold headLoc State.entryPart at *
  simp only [hc, hlog, List.any_map, hword _ _ (by decide : 0 < 4), hword _ _ (by decide : 1 < 4), hword _ _ (by decide : 2 < 4),
    hword _ _ (by decide : 3 < 4), State.bindEntry, State.entryRead, State.entryWord, State.entryCame, State.entryPart]
  rfl

theorem bindEntry_asks (hp : spaceOf loc = .peer) (hn : s1.entryCame i loc = none) (h : Hand) (act : Lanes) :
    s1.bindEntry h i act w loc = .stall (s1.askEntry i loc) := by
  simp only [State.bindEntry, hp, hn, Option.isNone_none, and_self, if_true]

/-- The words of an entry that came, or of one that is nobody else's to send. -/
def State.entryHere (s1 : State) (i : SplitIssue) (loc : Nat) : Prop :=
  spaceOf loc ≠ .peer ∧ s1.entryCame i loc = none ∨ s1.entryCame i loc = some (i.hand, loc, true)

theorem entryHere_reads (hc : s1.entryHere i loc) :
    ¬ (spaceOf loc = .peer ∧ (s1.entryCame i loc).isNone = true) ∧ ((s1.entryCame i loc).map (fun x => x.2.2)).getD true = true := by
  obtain ⟨hp, hn⟩ | hg := hc
  · simp [hp, hn]
  · simp [hg]

theorem any_part_of_not_clear {h : Hand} (hc : ¬ s1.entryClear h i loc) :
    (List.range 4).any (fun k => (s1.entryPart h i loc k).bad || (s1.entryPart h i loc k).lost) = true := by
  unfold State.entryClear at hc
  push Not at hc
  obtain ⟨k, hk, hbad⟩ := hc
  refine List.any_eq_true.mpr ⟨k, List.mem_range.mpr hk, ?_⟩
  cases hb : (s1.entryPart h i loc k).bad
  · simpa using hbad hb
  · rfl

theorem any_part_of_clear {h : Hand} (hc : s1.entryClear h i loc) :
    (List.range 4).any (fun k => (s1.entryPart h i loc k).bad || (s1.entryPart h i loc k).lost) = false := by
  refine List.any_eq_false.mpr fun k hk => ?_
  obtain ⟨hb, hl⟩ := hc k (List.mem_range.mp hk)
  simp [hb, hl]

theorem bindEntry_poisoned {h : Hand} {act : Lanes}
    (hc : s1.entryCame i loc = some (i.hand, loc, false) ∨ s1.entryHere i loc ∧ ¬ s1.entryClear h i loc) :
    s1.bindEntry h i act w loc = .ok ((s1.entryRead h i loc).addOutst i.hand act .value [poisonedDst (.h w.nameD) 2] 0 0) := by
  obtain hg | ⟨hh, hn⟩ := hc
  · simp [State.bindEntry, hg]
  · obtain ⟨hp, hcame⟩ := entryHere_reads hh
    simp only [State.bindEntry, if_neg hp, hcame, any_part_of_not_clear hn, Bool.not_true, Bool.false_or, if_true]

theorem bindEntry_sends {h : Hand} {act : Lanes} (hh : s1.entryHere i loc) (hcl : s1.entryClear h i loc)
    (hc : (s1.entryRead h i loc).checkAccess i act false .read 1 8 (fun _ => s1.entryWord h i loc 0) = .ok (objs, s2)) :
    s1.bindEntry h i act w loc =
      .ok (s2.addOutst i.hand act (.bind (headLoc objs) (s1.entryWord h i loc 1) (s1.entryWord h i loc 2)
        (bindOk (s1.entryWord h i loc 0) (s1.entryWord h i loc 1) (s1.entryWord h i loc 2) (s1.entryWord h i loc 3)))
        [pendingDst (.h w.nameD) 2] 0 0) := by
  obtain ⟨hp, hcame⟩ := entryHere_reads hh
  simp only [State.bindEntry, if_neg hp, hcame, any_part_of_clear hcl, Bool.not_true, Bool.false_or, Bool.false_eq_true, if_false, hc]

theorem bindOk_iff (a b c d : DWord) :
    bindOk a b c d = true ↔ a.toNat % 8 = 0 ∧ b.toNat % 64 = 0 ∧ c.toNat % 64 = 0 ∧ c ≠ 0 ∧ d >>> 1 = 0 := by
  simp [bindOk, and_assoc]

end

section
variable {s s1 s2 : State} {i : SplitIssue} {w : CoreWords} {locs : List (Nat × Nat)} (h : Issues s i w)
  (hr : Readable s i (s.acting i w) [(w.hA, .move)] [] [])
  (hc : s.checkAccess i (s.acting i w) false .read 32 32 (fun _ => s.uniAt i w w.nameA) = .ok (locs, s1))
include h hr hc

theorem execBind_stall (he : s1.bindEntry (s.hand i.hand) i (s.acting i w) w (headLoc locs) = .stall s2) :
    execBind w s = .next ((s2.countIssue i w.rb false).finishCycle i.core i.slot) := by
  obtain ⟨body, hrun, hbody⟩ := execBind_body hr hc
  rw [hrun, execCore_stall h (hbody.trans he)]

theorem execBind_ok (he : s1.bindEntry (s.hand i.hand) i (s.acting i w) w (headLoc locs) = .ok s2) :
    execBind w s = .next (s.finish i w 0 true s2) := by
  obtain ⟨body, hrun, hbody⟩ := execBind_body hr hc
  rw [hrun, execCore_ok h rfl (hbody.trans he)]

end

/-- Settles O25: an `ldh` by the space of its word, and a `bind` by what has come of its entry. -/
theorem fencesAndBindings : Obligations.FencesAndBindings := by
  refine ⟨fun s s' i w locs h => ⟨fun hr hc hs => ?_, fun hForm hr => ?_, execFence_issues h⟩, fun s s1 s2 i w locs objs h => ?_⟩
  · exact ⟨execLdh_here h hr hc hs, fun hp u => execLdh_asks h hr hc hs hp, fun hp => execLdh_poisoned h hr hc hs hp⟩
  · cases hForm
    · exact prefOp_retires h hr
    · exact prefOp_retires h hr
  · intro _ act loc part word ok got logged read came clear hr hc
    refine ⟨fun hp hn => execBind_stall h hr hc (bindEntry_asks hp hn _ _), fun hp => execBind_ok h hr hc (bindEntry_poisoned hp), ?_⟩
    intro hh hcl hobj good hgood
    have hok : bindOk (word 0) (word 1) (word 2) (word 3) = good := Bool.eq_iff_iff.mpr ((bindOk_iff _ _ _ _).trans hgood.symm)
    rw [← hok]
    exact execBind_ok h hr hc (bindEntry_sends hh hcl hobj)

end Sys2Proof.Machine
end

section
/-!
PROOFS. Announcements become outstanding (O29, O30), and their steps and values (O31).
-/
namespace Sys2Proof.Machine

/-! ## Announcements issue (R320 to R331, R376) -/

/-- No lane that announces is kept from it by a record of its thread's. -/
theorem busyLanes_eq_zero {h : Hand} {act : Lanes} {pc : DWord} (hm : ∀ t ∈ act.list, mayAnnounce h pc t) :
    Lanes.of (fun t => act.has t && (h.redoOf pc t).isNone && ((h.ownOf t).isSome || h.announcing t)) = 0 := by
  simp only [Bool.and_assoc]
  refine Lanes.of_has_and_zero fun t ht => ?_
  obtain hr | ⟨ho, ha⟩ := hm t ht
  · simp [Option.isNone_eq_false_iff.mpr hr]
  · simp [ho, ha]

section
variable {s s' s1 s2 : State} {i : SplitIssue} {w : CoreWords} (h : Issues s i w)
include h

theorem annOp_issues {op : Nat} {b : CoreWords → Operand} {ops : CoreWords → Operand → Hand → Uniform → Nat → DWord × DWord}
    (hr : Readable s i (s.acting i w) [(w.hA, .move), (b w, .move), (annC w, .move)] w.pairDst (w.lrNames (.lit 0) (b w) (annC w)))
    (hm : ∀ t ∈ (s.acting i w).list, mayAnnounce (s.hand i.hand) i.pc t) (hc : badRcell (s.hand i.hand).rcell = false)
    (ha : (s.released i (w.lrNames (.lit 0) (b w) (annC w))).checkAddrs i (s.acting i w)
      ((s.acting i w).list.map (fun t => (t, annAddr w (s.hand i.hand) i.uni t, .write))) = .ok s') :
    annOp op b ops w s = .next (s.finish i w 0 true (s'.launchAnn i (s.acting i w) w 0 op (w.f2 0 3) w.pairDst
      ((s.acting i w).list.map fun t => (s.hand i.hand).newLane i.pc t
        (s'.placed (s.hand i.hand).asid (annAddr w (s.hand i.hand) i.uni t) .write) (annAddr w (s.hand i.hand) i.uni t)
        (ops w (b w) (s.hand i.hand) i.uni t).1 (ops w (b w) (s.hand i.hand) i.uni t).2))) := by
  refine execCore_ok h rfl (withRegs_ok hr ?_)
  simp only [busyLanes_eq_zero hm, hc, ha, bne_self_eq_false, Bool.false_eq_true, if_false]


/-- The addresses of the words of the lanes' descriptors. -/
def descWords (i : SplitIssue) (act : Lanes) (w : CoreWords) (h : Hand) : List (Nat × DWord × Access) :=
  act.list.foldr (fun t acc => (List.range (3 * (w.f2 0 2 + 1))).map (fun j => (t, annAddr w h i.uni t + BitVec.ofNat 64 (8 * j), .read)) ++ acc) []

/-- The words that a lane of an `ann.mcas` announces. -/
def State.mcasWords (s1 : State) (i : SplitIssue) (w : CoreWords) (h : Hand) (t : Nat) : List DWord :=
  s1.descAddrs h t (annAddr w h i.uni t) (w.f2 0 2 + 1)

theorem execAnnMcas_issues
    (hr : Readable s i (s.acting i w) [(w.hA, .move), (annC w, .move)] w.pairDst (w.lrNames (.lit 0) (.lit 0) (annC w)))
    (hm : ∀ t ∈ (s.acting i w).list, mayAnnounce (s.hand i.hand) i.pc t) (hc : badRcell (s.hand i.hand).rcell = false)
    (ha : (s.released i (w.lrNames (.lit 0) (.lit 0) (annC w))).checkAddrs i (s.acting i w)
      (descWords i (s.acting i w) w (s.hand i.hand)) = .ok s1)
    (ho : s1.checkAddrs i (s.acting i w) ((s.acting i w).list.foldr
      (fun t acc => (s1.mcasWords i w (s.hand i.hand) t).map (fun a => (t, a, .write)) ++ acc) []) = .ok s2)
    (hw : ∀ t ∈ (s.acting i w).list, rising (s1.mcasWords i w (s.hand i.hand) t) = true ∧
      ∀ a ∈ s1.mcasWords i w (s.hand i.hand) t, spaceOf (s2.placed (s.hand i.hand).asid a .write).1 = .device) :
    execAnnMcas w s = .next (s.finish i w 0 true (s2.launchAnn i (s.acting i w) w 0 mcasOp 0 w.pairDst
      ((s.acting i w).list.map fun t => (s.hand i.hand).newLane i.pc t
        (s2.placed (s.hand i.hand).asid ((s1.mcasWords i w (s.hand i.hand) t).headD 0) .write)
        ((s1.mcasWords i w (s.hand i.hand) t).headD 0) (annAddr w (s.hand i.hand) i.uni t) (BitVec.ofNat 64 (w.f2 0 2 + 1))))) := by
  have hbad : Lanes.of (fun t => (s.acting i w).has t && (!rising (s1.mcasWords i w (s.hand i.hand) t) ||
      (s1.mcasWords i w (s.hand i.hand) t).any (fun a => spaceOf (s2.placed (s.hand i.hand).asid a .write).1 != .device))) = 0 := by
    refine Lanes.of_has_and_zero fun t ht => ?_
    obtain ⟨hrise, hdev⟩ := hw t ht
    simpa [hrise] using hdev
  refine execCore_ok h rfl (withRegs_ok hr ?_)
  unfold descWords State.mcasWords at *
  simp only [busyLanes_eq_zero hm, hc, ha, ho, hbad, bne_self_eq_false, Bool.false_eq_true, if_false]

theorem execHelp_issues
    (hr : Readable s i (s.acting i w) [(w.hA, .move), (annC w, .move)] w.pairDst (w.lrNames (.lit 0) (.lit 0) (annC w)))
    (ha : (s.released i (w.lrNames (.lit 0) (.lit 0) (annC w))).checkAddrs i (s.acting i w)
      ((s.acting i w).list.map (fun t => (t, annAddr w (s.hand i.hand) i.uni t, .read))) = .ok s') :
    execHelp w s = .next (s.finish i w 0 false (s'.launchAnn i (s.acting i w) w 1 0 0 w.pairDst
      ((s.acting i w).list.map fun t => (s.hand i.hand).newLane i.pc t
        (s'.placed (s.hand i.hand).asid (annAddr w (s.hand i.hand) i.uni t) .read) (annAddr w (s.hand i.hand) i.uni t) 0 0))) := by
  refine execCore_ok h rfl (withRegs_ok hr ?_)
  simp only [ha]

theorem execColl_issues
    (hr : Readable s i (s.acting i w) [(w.hA, .move), (annC w, .move)] w.pairDst (w.lrNames (.lit 0) (.lit 0) (annC w)))
    (ha : (s.released i (w.lrNames (.lit 0) (.lit 0) (annC w))).checkAddrs i (s.acting i w)
      ((s.acting i w).list.map (fun t => (t, annAddr w (s.hand i.hand) i.uni t, .read))) = .ok s')
    (ho : ∀ t ∈ (s.acting i w).list, ((s.hand i.hand).redoOf i.pc t).isSome = true ∨
      (s.released i (w.lrNames (.lit 0) (.lit 0) (annC w))).ownsObject (s.hand i.hand) t (annAddr w (s.hand i.hand) i.uni t) = true) :
    execColl w s = .next (s.finish i w 0 false (s'.launchAnn i (s.acting i w) w 2 0 0 w.pairDst
      ((s.acting i w).list.map fun t => (s.hand i.hand).newLane i.pc t
        (s'.placed (s.hand i.hand).asid (annAddr w (s.hand i.hand) i.uni t) .read) (annAddr w (s.hand i.hand) i.uni t) 0 0))) := by
  have hbad : Lanes.of (fun t => (s.acting i w).has t && (((s.hand i.hand).redoOf i.pc t).isNone &&
      !(s.released i (w.lrNames (.lit 0) (.lit 0) (annC w))).ownsObject (s.hand i.hand) t (annAddr w (s.hand i.hand) i.uni t))) = 0 := by
    refine Lanes.of_has_and_zero fun t ht => ?_
    obtain hredo | hown := ho t ht
    · simp [Option.isNone_eq_false_iff.mpr hredo]
    · rw [hown, Bool.not_true, Bool.and_false]
  refine execCore_ok h rfl (withRegs_ok hr ?_)
  simp only [Bool.and_assoc, hbad, ha, bne_self_eq_false, Bool.false_eq_true, if_false]

/-- The address of the bucket of a lane (R376). -/
def bucketAddr (a : DWord) (w : CoreWords) (h : Hand) (uni : Uniform) (t : Nat) : DWord :=
  (a &&& ~~~(63 : DWord)) + (((w.gB.word h uni t).zeroExtend 64 >>> 20) <<< (a.toNat % 32))

theorem execBkt_issues
    (hr : Readable s i (s.acting i w) [(w.hA, .move), (w.gB, .move)] w.gDst (w.lrNames (.lit 0) w.gB (.lit 0)))
    (hsh : 3 ≤ (s.uniAt i w w.nameA).toNat % 32) (hfive : (s.uniAt i w w.nameA).getLsbD 5 = false)
    (hcan : canonical (s.uniAt i w w.nameA &&& ~~~(63 : DWord)) = true)
    (ha : (s.released i (w.lrNames (.lit 0) w.gB (.lit 0))).checkAddrs i (s.acting i w)
      ((s.acting i w).list.map (fun t => (t, bucketAddr (s.uniAt i w w.nameA) w (s.hand i.hand) i.uni t, .write))) = .ok s')
    (hhost : ∀ t ∈ (s.acting i w).list,
      spaceOf (s'.placed (s.hand i.hand).asid (bucketAddr (s.uniAt i w w.nameA) w (s.hand i.hand) i.uni t) .write).1 ≠ .host) :
    execBkt w s = .next (s.finish i w 0 true (s'.launchAnn i (s.acting i w) w 3 bktOp 0 w.gDst
      ((s.acting i w).list.map fun t => (s.hand i.hand).newLane i.pc t
        (s'.placed (s.hand i.hand).asid (bucketAddr (s.uniAt i w w.nameA) w (s.hand i.hand) i.uni t) .write)
        (bucketAddr (s.uniAt i w w.nameA) w (s.hand i.hand) i.uni t)
        ((w.gB.word (s.hand i.hand) i.uni t &&& 0xFFFFF).zeroExtend 64) 0))) := by
  have hbad : Lanes.of (fun t => (s.acting i w).has t &&
      spaceOf (s'.placed (s.hand i.hand).asid (bucketAddr (s.uniAt i w w.nameA) w (s.hand i.hand) i.uni t) .write).1 == .host) = 0 :=
    Lanes.of_has_and_zero fun t ht => beq_false_of_ne (hhost t ht)
  have hsize : ¬ (s.uniAt i w w.nameA).toNat % 32 < 3 := by omega
  refine execCore_ok h rfl (withRegs_ok hr ?_)
  unfold bucketAddr State.uniAt at *
  simp only [hsize, hfive, hcan, ha, hbad, decide_false, Bool.or_false, Bool.not_true, bne_self_eq_false, Bool.false_eq_true, if_false]

end

/-- The operands of `ann.cas`: the expected and the new value (R322). -/
def casOps (w : CoreWords) (b : Operand) (h : Hand) (uni : Uniform) (t : Nat) : DWord × DWord :=
  if w.f2 0 3 < 3 then (((b.val h uni t).setWidth 32 : Word).zeroExtend 64, b.val h uni t >>> 32)
  else (b.val h uni t, ((h.readG t (w.nameB + 3)).value <<< 32) ||| (h.readG t (w.nameB + 2)).value)

/-- The operand of `ann.bkt`: a token. -/
def bktOps (_ : CoreWords) (b : Operand) (h : Hand) (uni : Uniform) (t : Nat) : DWord × DWord := ((b.word h uni t).zeroExtend 64, 0)

theorem annRows_run : ∀ r ∈ annRows, ∃ ops : CoreWords → Operand → Hand → Uniform → Nat → DWord × DWord,
    (∀ w s, exec (r.1 w) s = annOp r.2.1 r.2.2.1 ops w s) ∧ ∀ w h uni t, ops w (r.2.2.1 w) h uni t = r.2.2.2 w h uni t := by
  simp only [annRows, List.forall_mem_cons, List.not_mem_nil, false_implies, implies_true, and_true]
  exact ⟨⟨annOps, fun _ _ => rfl, fun _ _ _ _ => rfl⟩, ⟨annOps, fun _ _ => rfl, fun _ _ _ _ => rfl⟩, ⟨annOps, fun _ _ => rfl, fun _ _ _ _ => rfl⟩, ⟨annOps, fun _ _ => rfl, fun _ _ _ _ => rfl⟩,
    ⟨annOps, fun _ _ => rfl, fun _ _ _ _ => rfl⟩, ⟨annOps, fun _ _ => rfl, fun _ _ _ _ => rfl⟩, ⟨annOps, fun _ _ => rfl, fun _ _ _ _ => rfl⟩,
    ⟨casOps, fun _ _ => rfl, fun _ _ _ _ => rfl⟩, ⟨bktOps, fun _ _ => rfl, fun _ _ _ _ => rfl⟩⟩

/-- Settles O29: each row is an announcement of its operation, with its operands. -/
theorem announcementsIssue : Obligations.AnnouncementsIssue := by
  intro s s' i w h r hr _ act b lr ea lane hread hm hc ha
  obtain ⟨ops, hrun, hops⟩ := annRows_run r hr
  rw [hrun, annOp_issues h hread hm hc ha]
  simp only [hops]
  rfl

/-- Settles O30: each of the four passes the checks that its lanes' objects are assumed to pass. -/
theorem objectsIssue : Obligations.ObjectsIssue := by
  refine ⟨fun s s1 s2 i w h => ?_, fun s s' i w h => ⟨fun hr ha => ?_, ?_⟩⟩
  · intro _ act nw lr ea words lane hr hm hc ha ho hw
    exact execAnnMcas_issues h hr hm hc ha ho hw
  · exact ⟨execHelp_issues h hr ha, execColl_issues h hr ha⟩
  · intro lr a ea lane hr hsh hfive hcan ha hhost
    exact execBkt_issues h hr hsh hfive hcan ha hhost

/-! ## The steps of an announcement (R324, R325) -/

section
variable {s : State} {o : Outst} {kind op type : Nat} {pc : DWord} {ls : List AnnLane} {l : AnnLane}
  (ho : (s.hand s.args.n).outst.find? (fun o => o.id = s.args.m) = some o) (hw : o.work = .ann kind op type pc ls)
  (hl : ls.find? (fun l => l.lane = s.args.k) = some l) (hready : s.annReady (s.hand s.args.n) o kind ls l = true)
include ho hw hl hready

theorem announceStep_start (hp : l.phase = .start) : execAnnounceStep s = .next (s.startLane kind s.args.n s.args.m op type l) := by
  simp only [execAnnounceStep, ho, hw, hl, hready, hp, Bool.not_true, Bool.false_eq_true, if_false]

theorem announceStep_peer (hp : l.phase = .peer) : execAnnounceStep s = .next (s.peerStep kind s.args.n s.args.m l) := by
  simp only [execAnnounceStep, ho, hw, hl, hready, hp, Bool.not_true, Bool.false_eq_true, if_false]

theorem announceStep_send {t j : Nat} {own : Bool} (hp : l.phase = .send t j own) :
    (∀ s' b, (s.crossHome (coreDie (s.hand s.args.n).core) l.obj).homeStep t j = .answered s' b →
      execAnnounceStep s = .next (s'.stepAnswered kind s.args.n s.args.m l own)) ∧
    (∀ s', (s.crossHome (coreDie (s.hand s.args.n).core) l.obj).homeStep t j = .full s' →
      execAnnounceStep s = .next (s'.stepAnswered kind s.args.n s.args.m l own)) ∧
    (∀ s' asid va, (s.crossHome (coreDie (s.hand s.args.n).core) l.obj).homeStep t j = .page s' asid va →
      execAnnounceStep s = .next (s'.annPage s.args.n s.args.m l asid va)) ∧
    ∀ s', (s.crossHome (coreDie (s.hand s.args.n).core) l.obj).homeStep t j = .remote s' →
      execAnnounceStep s = .next (s'.setAnnLane s.args.n s.args.m { l with phase := .cell t j own }) := by
  refine ⟨?_, ?_, ?_, ?_⟩ <;> intros <;>
    simp only [execAnnounceStep, Bool.not_true, Bool.false_eq_true, if_false, *]

end

/-! ## The values of an integer operation (R321, R322) -/

/-- The number of a word of 32 bits in an operation's operand. -/
def wordNat (x : DWord) : Nat := x.toNat % 2 ^ 32

theorem lowBits_word {type : Nat} (ht : type < 3) (x : DWord) : lowBits type x = BitVec.ofNat 64 (wordNat x) := by
  rw [lowBits, if_pos ht]
  apply BitVec.eq_of_toNat_eq
  simp [wordNat]

theorem lowBits_wide {type : Nat} (ht : 3 ≤ type) (x : DWord) : lowBits type x = x := if_neg (by omega)

/-- The comparison of an operation on a type of integers. -/
def annLess (type : Nat) (x y : DWord) : Bool :=
  match type with
  | 0 => (x.setWidth 32 : Word).slt (y.setWidth 32)
  | 3 => x.slt y
  | _ => x.ult y

section
variable {type : Nat} (hf : type ≠ 2) (a b old : DWord)
include hf

theorem annNew_add : annNew 0 type a b old = (lowBits type (lowBits type old + lowBits type a), 0) := by
  simp only [annNew, if_neg hf]

theorem annNew_min : annNew 1 type a b old =
    (if annLess type (lowBits type a) (lowBits type old) then lowBits type a else lowBits type old, 0) := by
  simp only [annNew, if_neg hf, Bool.false_eq_true, if_false]
  rfl

theorem annNew_max : annNew 2 type a b old =
    (if annLess type (lowBits type old) (lowBits type a) then lowBits type a else lowBits type old, 0) := by
  simp only [annNew, if_neg hf, if_true]
  rfl

end

/-- The number of an operand of 32 bits, of a signed or an unsigned type. -/
def wordNum (type : Nat) (x : DWord) : Int := if type = 0 then (BitVec.ofNat 32 (wordNat x)).toInt else wordNat x

/-- The number of an operand of 64 bits. -/
def wideNum (type : Nat) (x : DWord) : Int := if type = 3 then x.toInt else x.toNat

theorem wordNat_lt (x : DWord) : wordNat x < 2 ^ 32 := Nat.mod_lt _ (by decide)

theorem annLess_word {type : Nat} (ht : type ∈ [0, 1]) (x y : DWord) :
    annLess type (BitVec.ofNat 64 (wordNat x)) (BitVec.ofNat 64 (wordNat y)) = decide (wordNum type x < wordNum type y) := by
  have hx := wordNat_lt x
  have hy := wordNat_lt y
  obtain rfl | rfl : type = 0 ∨ type = 1 := by simpa using ht
  · have hlow (n : Nat) : (BitVec.ofNat 64 n).setWidth 32 = BitVec.ofNat 32 n := by
      apply BitVec.eq_of_toNat_eq
      simp
    simp only [annLess, wordNum, hlow, BitVec.slt, if_true]
  · have hfit {n : Nat} (hn : n < 2 ^ 32) : (BitVec.ofNat 64 n).toNat = n := Nat.mod_eq_of_lt (by omega)
    simp only [annLess, wordNum, BitVec.ult, hfit hx, hfit hy, Nat.one_ne_zero, if_false, Nat.cast_lt]

theorem annLess_wide {type : Nat} (ht : type ∈ [3, 4]) (x y : DWord) :
    annLess type x y = decide (wideNum type x < wideNum type y) := by
  obtain rfl | rfl : type = 3 ∨ type = 4 := by simpa using ht
  · simp only [annLess, wideNum, BitVec.slt, if_true]
  · simp [annLess, wideNum, BitVec.ult]

theorem annNew_word {type : Nat} (ht : type ∈ [0, 1]) (a b old : DWord) :
    annNew 0 type a b old = (BitVec.ofNat 64 ((wordNat old + wordNat a) % 2 ^ 32), 0) ∧
    annNew 1 type a b old = (BitVec.ofNat 64 (if wordNum type a < wordNum type old then wordNat a else wordNat old), 0) ∧
    annNew 2 type a b old = (BitVec.ofNat 64 (if wordNum type old < wordNum type a then wordNat a else wordNat old), 0) ∧
    annNew 6 type a b old = (BitVec.ofNat 64 (wordNat a), 0) ∧
    annNew 7 type a b old = (BitVec.ofNat 64 (if wordNat old = wordNat a then wordNat b else wordNat old), 0) := by
  have hlt : type < 3 := by
    obtain rfl | rfl : type = 0 ∨ type = 1 := by simpa using ht
    all_goals decide
  have hf : type ≠ 2 := by
    rintro rfl
    simp at ht
  have hlow := lowBits_word hlt
  refine ⟨?_, ?_, ?_, ?_, ?_⟩
  · rw [annNew_add hf, hlow, hlow, hlow, ← BitVec.ofNat_add, wordNat, BitVec.toNat_ofNat, Nat.mod_mod_of_dvd _ (by decide)]
  · rw [annNew_min hf, hlow, hlow, annLess_word ht, apply_ite (BitVec.ofNat 64)]
    simp only [decide_eq_true_eq]
  · rw [annNew_max hf, hlow, hlow, annLess_word ht, apply_ite (BitVec.ofNat 64)]
    simp only [decide_eq_true_eq]
  · simp only [annNew, hlow]
  · have hsame : (BitVec.ofNat 64 (wordNat old) == BitVec.ofNat 64 (wordNat a)) = decide (wordNat old = wordNat a) := by
      have ho := wordNat_lt old
      have ha := wordNat_lt a
      rw [Bool.eq_iff_iff, beq_iff_eq, decide_eq_true_eq, ← BitVec.toNat_inj, BitVec.toNat_ofNat, BitVec.toNat_ofNat,
        Nat.mod_eq_of_lt (by omega), Nat.mod_eq_of_lt (by omega)]
    simp only [annNew, hlow, hsame, decide_eq_true_eq, apply_ite (BitVec.ofNat 64)]

theorem annNew_wide {type : Nat} (ht : type ∈ [3, 4]) (a b old : DWord) :
    annNew 0 type a b old = (BitVec.ofNat 64 (old.toNat + a.toNat), 0) ∧
    annNew 1 type a b old = (if wideNum type a < wideNum type old then a else old, 0) ∧
    annNew 2 type a b old = (if wideNum type old < wideNum type a then a else old, 0) ∧
    annNew 3 type a b old = (old &&& a, 0) ∧ annNew 4 type a b old = (old ||| a, 0) ∧ annNew 5 type a b old = (old ^^^ a, 0) ∧
    annNew 6 type a b old = (a, 0) ∧ annNew 7 type a b old = (if old = a then b else old, 0) := by
  have hge : 3 ≤ type := by
    obtain rfl | rfl : type = 3 ∨ type = 4 := by simpa using ht
    all_goals decide
  have hf : type ≠ 2 := by omega
  have hlow := lowBits_wide hge
  refine ⟨?_, ?_, ?_, ?_, ?_, ?_, ?_, ?_⟩
  · rw [annNew_add hf, hlow, hlow, hlow, BitVec.ofNat_add, BitVec.ofNat_toNat, BitVec.ofNat_toNat, BitVec.setWidth_eq, BitVec.setWidth_eq]
  · rw [annNew_min hf, hlow, hlow, annLess_wide ht]
    simp only [decide_eq_true_eq]
  · rw [annNew_max hf, hlow, hlow, annLess_wide ht]
    simp only [decide_eq_true_eq]
  · simp only [annNew, hlow]
  · simp only [annNew, hlow]
  · simp only [annNew, hlow]
  · simp only [annNew, hlow]
  · simp only [annNew, hlow, beq_iff_eq]

/-- Settles O31: a step by the phase of its lane, and a value by the width of its type. -/
theorem announcementSteps : Obligations.AnnouncementSteps := by
  refine ⟨?_, fun a b old => ⟨fun type ht => annNew_word ht a b old, fun type ht => annNew_wide ht a b old⟩⟩
  intro s o kind op type pc ls l k id h ho hw hl hready
  exact ⟨announceStep_start ho hw hl hready, announceStep_peer ho hw hl hready, fun t j own hp => announceStep_send ho hw hl hready hp⟩

end Sys2Proof.Machine
end

section
/-!
PROOFS. Float arithmetic, comparisons, conversions, dot products, reductions and tags (O36, O37).
-/
namespace Sys2Proof.Machine

/-! ## Arithmetic with an override (R337 to R341) -/

/-- Sources B and C of a float instruction, where it has them. -/
def fltB (two : Bool) (w : CoreWords) : Operand := if two then w.gB else .lit 0
def fltC (three : Bool) (w : CoreWords) : Operand := if three then w.gC else .lit 0

/-- Its sources, by its form and their number. -/
def fltOps (hForm two three : Bool) (w : CoreWords) : List Operand :=
  [srcA w hForm] ++ (if two then [fltB two w] else []) ++ (if three then [fltC three w] else [])

/-- The names that its last-read bits free. -/
def fltLr (hForm two three : Bool) (w : CoreWords) : List Nat := w.lrNames (srcA w hForm) (fltB two w) (fltC three w)

/-- The format that a float instruction works in. -/
def State.fltFmt (s : State) (i : SplitIssue) (w : CoreWords) (ops : List Operand) : BitVec 4 :=
  Machine.fltFmt i (s.acting i w) (s.hand i.hand) w ops

/-- The fault of its sources' checks. -/
def State.fltCheck (s : State) (i : SplitIssue) (w : CoreWords) (ops : List Operand) (allowed : BitVec 4 → Bool) : Option TrapInfo :=
  Machine.fltCheck i (s.acting i w) (s.hand i.hand) w ops allowed

section
variable {s : State} {i : SplitIssue} {w : CoreWords} (h : Issues s i w)
include h

section
variable {hForm two three : Bool} {allowed : BitVec 4 → Bool} {f : CoreWords → FFmt → Nat → Nat → Nat → Nat × Flags}

theorem fltOp_faulted {t : TrapInfo} (hc : s.fltCheck i w (fltOps hForm two three w) allowed = some t) :
    fltOp hForm two three allowed f w s = .next (s.faulted i w t) := by
  refine execCore_trap h ?_
  unfold State.fltCheck fltOps fltB fltC State.acting at *
  simp only [hc]

theorem fltOp_retires (hc : s.fltCheck i w (fltOps hForm two three w) allowed = none)
    (hr : Readable s i (s.acting i w) ((fltOps hForm two three w).map (fun o => (o, .move))) w.gDst (fltLr hForm two three w)) :
    fltOp hForm two three allowed f w s = .next (s.finish i w 0 false
      ((s.released i (fltLr hForm two three w)).writeFlagged i w (s.acting i w) (fun t =>
        mapElems (s.fltFmt i w (fltOps hForm two three w)) (f w ((FFmt.ofTag (s.fltFmt i w (fltOps hForm two three w))).getD .f32))
          ((srcA w hForm).word (s.hand i.hand) i.uni t) ((fltB two w).word (s.hand i.hand) i.uni t)
          ((fltC three w).word (s.hand i.hand) i.uni t)) (s.fltFmt i w (fltOps hForm two three w)))) := by
  refine execCore_ok h rfl ?_
  unfold State.fltCheck fltOps fltB fltC State.acting at *
  simp only [hc]
  exact withRegs_ok hr rfl

end

section
variable {hForm : Bool} {p : Ordering → Bool} {nanResult ordered : Bool}

/-- The result and the flags of a comparison in a lane. -/
def State.fcmpLane (s : State) (i : SplitIssue) (w : CoreWords) (hForm : Bool) (p : Ordering → Bool) (nanResult ordered : Bool)
    (t : Nat) : Bool × Flags :=
  let fmt := s.fltFmt i w [srcA w hForm, w.gB]
  let at_ (o : Operand) : Machine.Num :=
    ((FFmt.ofTag fmt).getD .f32).decode (elemOf fmt (o.word (s.hand i.hand) i.uni t) (w.f2 0 3 % tagElems fmt))
  fcmpElem p nanResult ordered (at_ (srcA w hForm)) (at_ w.gB)

theorem fcmpOp_retires (hc : s.fltCheck i w [srcA w hForm, w.gB] isFloatTag = none)
    (hr : Readable s i (s.acting i w) [(srcA w hForm, .move), (w.gB, .move)] [] (w.lrNames (srcA w hForm) w.gB (.lit 0))) :
    fcmpOp hForm p nanResult ordered w s = .next (s.finish i w 0 false
      (((s.released i (w.lrNames (srcA w hForm) w.gB (.lit 0))).writeQD i w (s.acting i w)
        (fun t => (s.fcmpLane i w hForm p nanResult ordered t).1)).updHand i.hand (fun h =>
          h.orFlags ((s.acting i w).list.foldl (fun f t => f ||| (s.fcmpLane i w hForm p nanResult ordered t).2) 0)))) := by
  refine execCore_ok h rfl ?_
  unfold State.fltCheck State.acting at *
  simp only [hc]
  exact withRegs_ok hr rfl

end

end

theorem fltRows_run : ∀ r ∈ fltRows, ∀ (hForm : Bool) w s, exec (if hForm then r.h w else r.g w) s =
    fltOp hForm true r.three isFloatTag r.elem w s := by
  simp only [fltRows, List.forall_mem_cons, List.not_mem_nil, false_implies, implies_true, and_true, Bool.forall_bool]
  exact ⟨⟨fun _ _ => rfl, fun _ _ => rfl⟩, ⟨fun _ _ => rfl, fun _ _ => rfl⟩, ⟨fun _ _ => rfl, fun _ _ => rfl⟩,
    ⟨fun _ _ => rfl, fun _ _ => rfl⟩, ⟨fun _ _ => rfl, fun _ _ => rfl⟩, ⟨fun _ _ => rfl, fun _ _ => rfl⟩⟩

theorem elemRows_run : ∀ r ∈ elemRows, ∀ w s, exec (r.1 w) s = elemOp r.2 w s := by
  simp only [elemRows, List.forall_mem_cons, List.not_mem_nil, false_implies, implies_true, and_true]
  exact ⟨fun _ _ => rfl, fun _ _ => rfl, fun _ _ => rfl, fun _ _ => rfl, fun _ _ => rfl⟩

theorem fcmpRows_run : ∀ r ∈ fcmpRows, ∀ w s, exec (r.1 w) s = fcmpOp r.2.1 r.2.2.1 r.2.2.2.1 r.2.2.2.2 w s := by
  simp only [fcmpRows, List.forall_mem_cons, List.not_mem_nil, false_implies, implies_true, and_true]
  exact ⟨fun _ _ => rfl, fun _ _ => rfl, fun _ _ => rfl, fun _ _ => rfl, fun _ _ => rfl, fun _ _ => rfl, fun _ _ => rfl, fun _ _ => rfl,
    fun _ _ => rfl⟩

/-- The formats of an elementary function (R341), as the statement lists them. -/
theorem smallFloat_eq : (fun t : BitVec 4 => 3 ≤ t.toNat && t.toNat ≤ 5) = fun t => t == 3 || t == 4 || t == 5 := by
  funext t
  revert t
  decide

theorem fltOps_eq (hForm three : Bool) (w : CoreWords) :
    (if three then [srcA w hForm, w.gB, w.gC] else [srcA w hForm, w.gB]) = fltOps hForm true three w := by
  cases three <;> rfl

/-- Settles O36: each row is one of the two shapes of a float instruction, of its element function. -/
theorem floatResults : Obligations.FloatResults := by
  intro s i w h
  refine ⟨fun r hr hForm => ?_, fun r hr => ?_, fun r hr => ?_⟩
  · intro a ops lr fmt ins third
    have hrun : exec ins s = fltOp hForm true r.three isFloatTag r.elem w s := fltRows_run r hr hForm w s
    have hops : ops = fltOps hForm true r.three w := fltOps_eq hForm r.three w
    have hthird (t : Nat) : third t = (fltC r.three w).word (s.hand i.hand) i.uni t := by
      simp only [third, fltC, apply_ite (fun o : Operand => o.word (s.hand i.hand) i.uni t)]
      rfl
    have hlr : lr = fltLr hForm true r.three w := rfl
    simp only [hrun, hthird, fmt, hops, hlr]
    exact ⟨fun t => fltOp_faulted h, fun hc hr => fltOp_retires h hc hr⟩
  · intro lr fmt small
    have hrun : exec (r.1 w) s = fltOp false false false small (fun w ff x _ _ => ff.elementary r.2 x w.x.rnd.toNat w.x.sat) w s := by
      rw [elemRows_run r hr, elemOp, smallFloat_eq]
    rw [hrun]
    exact ⟨fun t hc => fltOp_faulted h hc, fun hc hr => fltOp_retires (two := false) (three := false) h hc hr⟩
  · simp only [fcmpRows_run r hr]
    exact fcmpOp_retires h

/-! ## Conversions, dot products, reductions and tags (R342 to R348) -/

/-- A source that passes the checks for one tag. -/
def State.Clean (s : State) (i : SplitIssue) (w : CoreWords) (o : Operand) (tag : BitVec 4) : Prop :=
  poisonOf i (s.acting i w) (s.hand i.hand) o = none ∧ mixedOf i (s.acting i w) (s.hand i.hand) o = none ∧
    tagmisOf i (s.acting i w) (s.hand i.hand) o (fun t => t == tag) = none

section
variable {s : State} {i : SplitIssue} {w : CoreWords} (h : Issues s i w)

/-- A source whose lanes all have one of the tags that a test lets pass, passes it. -/
theorem State.Clean.tagmisOf_eq_none {o : Operand} {tag : BitVec 4} {ok : BitVec 4 → Bool} (hc : s.Clean i w o tag) (hok : ok tag = true) :
    tagmisOf i (s.acting i w) (s.hand i.hand) o ok = none := by
  obtain ⟨-, -, htag⟩ := hc
  rw [Machine.tagmisOf_eq_none] at htag ⊢
  rintro ⟨t, ht, x, hx, hbad⟩
  refine htag ⟨t, ht, x, hx, ?_⟩
  by_contra hsame
  have hx : x.2.tag = tag := by simpa using hsame
  simp [hx, hok] at hbad

/-- The format that `cvt` converts from. -/
def State.cvtSrc (s : State) (i : SplitIssue) (w : CoreWords) : BitVec 4 :=
  if w.f2 5 4 = 0 then checkTag (w.gA.tag (s.hand i.hand) i.uni (Lanes.lowest (s.acting i w))) else BitVec.ofNat 4 (w.f2 5 4)

/-- The word that `cvt` packs into. -/
def State.cvtOld (s : State) (i : SplitIssue) (w : CoreWords) : Operand :=
  if tagElems (s.cvtSrc i w) < tagElems w.x.fmt then w.gName w.nameD else .lit 0

theorem cvtField_eq : (if BitVec.ofNat 4 (w.f2 5 4) != 0 then BitVec.ofNat 4 (w.f2 5 4)
    else checkTag (w.gA.tag (s.hand i.hand) i.uni (Lanes.lowest (s.acting i w)))) = s.cvtSrc i w := by
  have hlt : w.f2 5 4 < 16 := Nat.mod_lt _ (by decide)
  have hzero : (BitVec.ofNat 4 (w.f2 5 4) != 0) = !decide (w.f2 5 4 = 0) := by
    rw [Bool.eq_iff_iff, bne_iff_ne, Ne, ← BitVec.toNat_inj, BitVec.toNat_ofNat, Nat.mod_eq_of_lt hlt]
    simp
  rw [hzero, State.cvtSrc]
  by_cases h0 : w.f2 5 4 = 0 <;> simp [h0]

/-- A source of `dot8`: a pair, or its even word for the denser formats. -/
def dotSrc (n : Nat) (t : BitVec 4) : Operand := if t = 6 ∨ t = 7 then .pair n else .g n

theorem dotSrc_eq (n : Nat) (t : BitVec 4) : (if t == 6 || t == 7 then .pair n else .g n) = dotSrc n t := by
  simp only [dotSrc, Bool.or_eq_true, beq_iff_eq]

include h

theorem execCvt_retires (hpa : poisonOf i (s.acting i w) (s.hand i.hand) w.gA = none)
    (hma : mixedOf i (s.acting i w) (s.hand i.hand) w.gA = none)
    (hta : tagmisOf i (s.acting i w) (s.hand i.hand) w.gA (fun t => checkTag t == s.cvtSrc i w) = none)
    (hpd : poisonOf i (s.acting i w) (s.hand i.hand) (s.cvtOld i w) = none) (hl : convListed (s.cvtSrc i w) w.x.fmt = true)
    (hr : Readable s i (s.acting i w) [(w.gA, .move), (s.cvtOld i w, .move)] w.gDst (w.lrNames w.gA (.lit 0) (.lit 0))) :
    execCvt w s = .next (s.finish i w 0 false ((s.released i (w.lrNames w.gA (.lit 0) (.lit 0))).writeFlagged i w (s.acting i w)
      (fun t => convWord (s.cvtSrc i w) w.x.fmt (w.f2 0 5) w.x.rnd.toNat w.x.sat (w.gA.word (s.hand i.hand) i.uni t)
        ((s.cvtOld i w).word (s.hand i.hand) i.uni t)) w.x.fmt)) := by
  refine execCore_ok h rfl ?_
  have hsrc := cvtField_eq (s := s) (i := i) (w := w)
  unfold State.cvtOld State.acting at *
  simp only [hsrc, firstSome, tagChecks, hpa, hma, hta, hpd, hl, Bool.and_true, Bool.not_true, Bool.and_false, Bool.false_eq_true, if_false]
  exact withRegs_ok hr rfl

theorem execPkscl_retires (ha : s.Clean i w w.gA 3) (hpd : poisonOf i (s.acting i w) (s.hand i.hand) (w.gName w.nameD) = none)
    (hr : Readable s i (s.acting i w) [(w.gA, .move), (w.gName w.nameD, .move)] w.gDst (w.lrNames w.gA (.lit 0) (.lit 0))) :
    execPkscl w s = .next (s.finish i w 0 false ((s.released i (w.lrNames w.gA (.lit 0) (.lit 0))).writeFlagged i w (s.acting i w)
      (fun t =>
        let c := scaleCode w.x.fmt (FFmt.f32.decode (w.gA.word (s.hand i.hand) i.uni t).toNat)
        (putElems ((w.gName w.nameD).word (s.hand i.hand) i.uni t) 8 (w.f2 0 2) [c.1], c.2)) 0xC)) := by
  refine execCore_ok h rfl ?_
  obtain ⟨hpa, hma, hta⟩ := ha
  unfold State.acting at *
  simp only [firstSome, tagChecks, hpa, hma, hta, hpd]
  exact withRegs_ok hr rfl

/-- The formats that `unpk` takes from A. -/
def unpkTag (t : BitVec 4) : Bool := t == 8 || t == 6 || t == 7 || t == 9

theorem execUnpk_retires {tag : BitVec 4} (htag : unpkTag tag = true) (hreg : w.gA.isReg = true) (ha : s.Clean i w w.gA tag)
    (hb : s.Clean i w w.gB 0xC)
    (hr : Readable s i (s.acting i w) [(w.gA, .move), (w.gB, .move)] w.gDst (w.lrNames w.gA w.gB (.lit 0))) :
    execUnpk w s = .next (s.finish i w 0 false ((s.released i (w.lrNames w.gA w.gB (.lit 0))).writeFlagged i w (s.acting i w)
      (fun t => unpkWord (w.gA.tag (s.hand i.hand) i.uni t) (w.f2 0 5) (w.f2 5 2) w.x.rnd.toNat (w.gA.word (s.hand i.hand) i.uni t)
        (w.gB.word (s.hand i.hand) i.uni t)) 3)) := by
  refine execCore_ok h rfl ?_
  have hformats := ha.tagmisOf_eq_none htag
  obtain ⟨hpa, hma, -⟩ := ha
  obtain ⟨hpb, hmb, htb⟩ := hb
  unfold unpkTag State.acting at *
  simp only [firstSome, hpa, hma, hreg, hformats, hpb, hmb, htb, Bool.not_true, Bool.false_eq_true, if_false]
  exact withRegs_ok hr rfl

section
variable {ta tb : BitVec 4} (hpair : dotPair ta tb = true) (hA : w.pA = .pair w.nameA) (hB : w.pB = .pair w.nameB)
  (hta : w.pA.tag (s.hand i.hand) i.uni (Lanes.lowest (s.acting i w)) = ta)
  (htb : w.pB.tag (s.hand i.hand) i.uni (Lanes.lowest (s.acting i w)) = tb)
include hpair hA hB hta htb

theorem execDot8_retires (ha : s.Clean i w (dotSrc w.nameA ta) ta) (hb : s.Clean i w (dotSrc w.nameB tb) tb) (hc : s.Clean i w w.gC 3)
    (hr : Readable s i (s.acting i w) [(dotSrc w.nameA ta, .move), (dotSrc w.nameB tb, .move), (w.gC, .move)] w.gDst
      (w.lrNames w.pA w.pB w.gC)) :
    execDot8 w s = .next (s.finish i w 0 false ((s.released i (w.lrNames w.pA w.pB w.gC)).writeFlagged i w (s.acting i w)
      (fun t => dot8Word ta tb w.x.rnd.toNat w.x.sat (w.pA.val (s.hand i.hand) i.uni t) (w.pB.val (s.hand i.hand) i.uni t)
        (w.gC.word (s.hand i.hand) i.uni t)) 3)) := by
  refine execCore_ok h rfl ?_
  obtain ⟨hpa, hma, hga⟩ := ha
  obtain ⟨hpb, hmb, hgb⟩ := hb
  obtain ⟨hpc, hmc, hgc⟩ := hc
  have hregA : w.pA.isReg = true := by rw [hA]; rfl
  have hregB : w.pB.isReg = true := by rw [hB]; rfl
  unfold State.acting at *
  simp only [hregA, hregB, hta, htb, if_true]
  simp only [hA, hB]
  rw [dotSrc_eq, dotSrc_eq]
  simp only [firstSome, hpair, hpa, hpb, hpc, hma, hmb, hmc, hga, hgb, hgc, Bool.and_true, Bool.not_true,
    Bool.false_eq_true, if_false]
  rw [hA, hB] at hr
  exact withRegs_ok hr rfl

end

/-- The reduction of A over the active lanes. -/
def State.hredFold (s : State) (i : SplitIssue) (w : CoreWords) (which : Nat) : Word × Flags :=
  hredTree (hredWord w which (s.fltFmt i w [w.gA]))
    ((List.range 32).map (fun t => if (s.acting i w).has t then some (w.gA.word (s.hand i.hand) i.uni t) else none))

theorem hredOp_retires {which : Nat} (hc : s.fltCheck i w [w.gA] (fun t => isFloatTag t || t == 1 || t == 2) = none)
    (hr : Readable s i (s.acting i w) [(w.gA, .move)] w.gDst (w.lrNames w.gA (.lit 0) (.lit 0))) :
    hredOp which w s = .next (s.finish i w 0 false
      (((s.released i (w.lrNames w.gA (.lit 0) (.lit 0))).writeD i w (s.acting i w) (fun _ => (s.hredFold i w which).1)
        (s.fltFmt i w [w.gA])).updHand i.hand (fun h => h.orFlags (s.hredFold i w which).2))) := by
  refine execCore_ok h rfl ?_
  unfold State.fltCheck State.acting at *
  simp only [hc]
  exact withRegs_ok hr rfl

section
variable (hr : Readable s i (s.acting i w) [(w.gA, .move)] w.gDst (w.lrNames w.gA (.lit 0) (.lit 0)))
include hr

theorem execFtag_retires : execFtag w s = .next (s.finish i w 0 false ((s.released i (w.lrNames w.gA (.lit 0) (.lit 0))).writeD i w
    (s.acting i w) (fun t => (w.gA.tag (s.hand i.hand) i.uni t).zeroExtend 32) 2)) :=
  execCore_ok h rfl (withRegs_ok hr rfl)

theorem execStag_retires : execStag w s = .next (s.finish i w 0 false ((s.released i (w.lrNames w.gA (.lit 0) (.lit 0))).writeD i w
    (s.acting i w) (fun t => w.gA.word (s.hand i.hand) i.uni t) w.x.fmt)) :=
  execCore_ok h rfl (withRegs_ok hr rfl)

end

end

theorem hredRows_run : ∀ r ∈ hredRows, ∀ w s, exec (r.1 w) s = hredOp r.2 w s := by
  simp only [hredRows, List.forall_mem_cons, List.not_mem_nil, false_implies, implies_true, and_true]
  exact ⟨fun _ _ => rfl, fun _ _ => rfl, fun _ _ => rfl⟩

theorem unpkTag_of_mem : ∀ tag ∈ [(6 : BitVec 4), 7, 8, 9], unpkTag tag = true := by decide

/-- Settles O37: each source passes its checks, one format at a time. -/
theorem conversionResults : Obligations.ConversionResults := by
  intro s i w h
  refine ⟨?_, ?_, ?_, ?_, ?_, ?_⟩
  · intro src dst d hpa hma hta hpd hl hr
    exact execCvt_retires h hpa hma hta hpd hl hr
  · intro ha hpd hr
    exact execPkscl_retires h ha hpd hr
  · intro tag htag lr hreg ha hb hr
    exact execUnpk_retires h (unpkTag_of_mem tag htag) hreg ha hb hr
  · intro ta tb hpair hA hB one a b lr hta htb ha hb hc hr
    exact execDot8_retires h hpair hA hB hta htb ha hb hc hr
  · intro r hr fmt fold hc hread
    rw [hredRows_run r hr]
    exact hredOp_retires h hc hread
  · intro hr
    exact ⟨execFtag_retires h hr, execStag_retires h hr⟩

end Sys2Proof.Machine
end

section
/-!
PROOFS. The engines' instructions (O41) and the system instructions (O46).
-/
namespace Sys2Proof.Machine

/-! ## Instructions with uniform operands (R368 to R375) -/

/-- The place that a hand-level access names. -/
def rangePlace (locs : List (Nat × Nat)) : Nat := ((locs.head?).map Prod.snd).getD 0

section
variable {s s' : State} {i : SplitIssue} {act : Lanes} {acc : Access} {align n : Nat} {ca : DWord} {locs : List (Nat × Nat)}

theorem uniRange_ok (hc : s.checkAccess i act true acc align n (fun _ => ca) = .ok (locs, s')) :
    s.uniRange i act acc align n ca = .ok (rangePlace locs) := by
  rw [State.uniRange, hc]
  rfl

end

section
variable {s s1 s2 : State} {i : SplitIssue} {w : CoreWords} (h : Issues s i w)
include h

/-! ### `cpy` (R368, R369) -/

/-- `cpy` names a circular buffer, a barrier. -/
def cpyCb (w : CoreWords) : Bool := w.f2 14 1 == 1
def cpyBar (w : CoreWords) : Bool := w.f2 18 1 == 1

/-- Operand B of `cpy`, and the descriptor of its buffer. -/
def State.cpyB (s : State) (i : SplitIssue) (w : CoreWords) : DWord := if cpyCb w && !cpyBar w then 0 else s.uniAt i w w.nameB
def State.cpyCbd (s : State) (i : SplitIssue) (w : CoreWords) : DWord := (s.core i.core).cbd.getD (w.f2 15 3) 0

/-- The copy that `cpy` hands to its engine. -/
def State.cpyCopy (s : State) (i : SplitIssue) (w : CoreWords) (locs bars : List (Nat × Nat)) : Copy :=
  { id := s.nextCopy, core := i.core, outId := (s.hand i.hand).nextId, part := (s.hand i.hand).part,
    handle := (s.uniAt i w w.nameA).setWidth 32, off := (s.uniAt i w w.nameA >>> 32).toNat * 64, lines := w.f2 0 13 + 1,
    out := w.f2 13 1 == 1, scratch := if cpyCb w then 0 else rangePlace locs,
    block := if cpyCb w then cbdBlock (i.core / 32) (s.cpyCbd i w) else none, slot := none,
    barrier := if cpyBar w then some (rangePlace bars) else none, fork := (s.hand i.hand).fork i.lanes.list, started := false, early := none,
    discarded := false, prog := default }

theorem execCpy_hands {locs bars : List (Nat × Nat)}
    (hr : Readable s i (s.acting i w) ([(w.hA, .move)] ++ (if cpyCb w && !cpyBar w then [] else [(w.hB, .move)])) [] [])
    (hb : cpyBar w = true ∨ s.cpyB i w >>> 32 = 0)
    (hs : cpyCb w = false → s.checkAccess i (s.acting i w) true (if w.f2 13 1 == 1 then .read else .write) 64 (64 * (w.f2 0 13 + 1))
      (fun _ => ((s.cpyB i w).setWidth 32).zeroExtend 64) = .ok (locs, s1))
    (hbar : cpyBar w = true → s.checkAccess i (s.acting i w) true .write 16 16 (fun _ => s.cpyB i w >>> 32) = .ok (bars, s2))
    (hc : cpyCb w = true → cbdBlock (i.core / 32) (s.cpyCbd i w) ≠ none) :
    execCpy w s = .next (s.finish i w 0 true (({ s with copies := s.copies ++ [s.cpyCopy i w locs bars], nextCopy := s.nextCopy + 1 }.addOutst
      i.hand (s.acting i w) (.copy s.nextCopy) [pendingDst (.h w.nameD) 0] 0 0).kickCopies)) := by
  have hprot : (!cpyBar w && s.cpyB i w >>> 32 != 0) = false := by
    obtain hb | hb := hb
    · rw [hb, Bool.not_true, Bool.false_and]
    · rw [hb, bne_self_eq_false, Bool.and_false]
  have hscratch : (if cpyCb w = true then Except.ok 0 else s.uniRange i (s.acting i w) (if w.f2 13 1 == 1 then .read else .write) 64
      (64 * (w.f2 0 13 + 1)) (((s.cpyB i w).setWidth 32).zeroExtend 64)) = .ok (if cpyCb w then 0 else rangePlace locs) := by
    cases hcb : cpyCb w
    · exact uniRange_ok (hs hcb)
    · rfl
  have hbarrier : (if cpyBar w = true then (s.uniRange i (s.acting i w) .write 16 16 (s.cpyB i w >>> 32)).map some else Except.ok none) =
      .ok (if cpyBar w then some (rangePlace bars) else none) := by
    cases hbb : cpyBar w
    · rfl
    · rw [if_pos rfl, uniRange_ok (hbar hbb)]
      rfl
  have hvalid : (cpyCb w && (cbdBlock (i.core / 32) (s.cpyCbd i w)).isNone) = false := by
    cases hcb : cpyCb w
    · rfl
    · rw [Option.isNone_eq_false_iff.mpr (Option.isSome_iff_ne_none.mpr (hc hcb)), Bool.and_false]
  refine execCore_ok h rfl ((withRegs_noLr hr).trans ?_)
  unfold State.cpyCopy
  unfold State.cpyB State.cpyCbd cpyCb cpyBar State.uniAt State.acting at *
  simp only [hprot, hscratch, hbarrier, hvalid, Bool.false_eq_true, if_false]

/-! ### `wbind` and `winq` (R370, R371) -/

/-- A number that is not one of a window: its PROT. -/
theorem execWbind_prot (hr : Readable s i (s.acting i w) [(w.hA, .move), (w.hB, .move)] [] []) (ha : s.uniAt i w w.nameA >>> 6 ≠ 0) :
    execWbind w s = .next (s.faulted i w (i.fault (s.acting i w) 0x0A 0 (s.uniAt i w w.nameA) (s.acting i w))) := by
  have ha := bne_iff_ne.mpr ha
  refine execCore_trap h ((withRegs_noLr hr).trans ?_)
  unfold State.uniAt State.acting at *
  simp only [ha, if_true]
  rfl

theorem execWbind_issues {locs : List (Nat × Nat)} (hr : Readable s i (s.acting i w) [(w.hA, .move), (w.hB, .move)] [] [])
    (ha : s.uniAt i w w.nameA >>> 6 = 0) (hb : s.uniAt i w w.nameB >>> 32 = 0)
    (hc : s.checkAccess i (s.acting i w) true .read 32 32 (fun _ => s.uniAt i w w.nameB) = .ok (locs, s1)) :
    execWbind w s = .next (s.finish i w 0 true (s.addOutst i.hand (s.acting i w)
      (.wbind (s.uniAt i w w.nameA).toNat (rangePlace locs) ((s.hand i.hand).fork i.lanes.list)) [pendingDst (.h w.nameD) 2] 0 0)) := by
  have hplace := uniRange_ok hc
  refine execCore_ok h rfl ((withRegs_noLr hr).trans ?_)
  unfold State.uniAt State.acting at *
  simp only [ha, hb, hplace, bne_self_eq_false, Bool.false_eq_true, if_false]

section
variable (hr : Readable s i (s.acting i w) [(w.hA, .move)] [] [])
include hr

theorem execWinq_prot (ha : s.uniAt i w w.nameA >>> 6 ≠ 0) :
    execWinq w s = .next (s.faulted i w (i.fault (s.acting i w) 0x0A 0 (s.uniAt i w w.nameA) (s.acting i w))) := by
  have ha := bne_iff_ne.mpr ha
  refine execCore_trap h ((withRegs_noLr hr).trans ?_)
  unfold State.uniAt State.acting at *
  simp only [ha, if_true]
  rfl

/-- The cluster's windows once `winq` has touched its own. -/
def State.winqTouched (s : State) (i : SplitIssue) (w : CoreWords) : State :=
  s.touch (s.hand i.hand) i.lanes.list (i.core / 32) (s.uniAt i w w.nameA).toNat

section
variable (ha : s.uniAt i w w.nameA >>> 6 = 0)
include ha

theorem execWinq_unbound
    (hw : ((s.winqTouched i w).cluster (i.core / 32)).windows.find? (fun x => x.idx = (s.uniAt i w w.nameA).toNat) = none) :
    execWinq w s = .next (s.finish i w 0 false ((s.winqTouched i w).writeH i.hand w.nameD 3 2)) := by
  refine execCore_ok h rfl ((withRegs_noLr hr).trans ?_)
  unfold State.winqTouched State.uniAt State.acting at *
  simp only [ha, hw, bne_self_eq_false, Bool.false_eq_true, if_false]

theorem execWinq_bound {x : Window}
    (hw : ((s.winqTouched i w).cluster (i.core / 32)).windows.find? (fun x => x.idx = (s.uniAt i w w.nameA).toNat) = some x) :
    execWinq w s = .next (s.finish i w 0 false ((if x.state = 2 then
      i.lanes.list.foldl (fun s t => s.updThread i.hand t (fun m => { m with view := View.join m.view x.fork.view })) (s.winqTouched i w)
      else s.winqTouched i w).writeH i.hand w.nameD x.word 2)) := by
  refine execCore_ok h rfl ((withRegs_noLr hr).trans ?_)
  unfold State.winqTouched State.uniAt State.acting at *
  simp only [ha, hw, bne_self_eq_false, Bool.false_eq_true, if_false, beq_iff_eq]

end

end

/-! ### The queues (R373, R375) -/

section
variable {locs : List (Nat × Nat)} (hr : Readable s i (s.acting i w) [(w.hB, .move)] [] []) (hb : s.uniAt i w w.nameB >>> 32 = 0)
  (hc : s.checkAccess i (s.acting i w) true .read 32 32 (fun _ => s.uniAt i w w.nameB) = .ok (locs, s1))
include hr hb hc

theorem execQput_full (hn : 8 ≤ (s.queueJobs i.hand w.nameA).length) :
    execQput w s = .next (s.finish i w 0 true (s.answer i (s.acting i w) [uniformDst (.h w.nameD) 2 1] [])) := by
  have hplace := uniRange_ok hc
  refine execCore_ok h rfl ((withRegs_noLr hr).trans ?_)
  unfold State.uniAt State.acting at *
  simp only [hb, hplace, hn, bne_self_eq_false, Bool.false_eq_true, if_false, if_true]

theorem execQput_queues (hn : (s.queueJobs i.hand w.nameA).length < 8) {j : Job}
    (hj : j = { queue := w.nameA, loc := rangePlace locs, core := i.core, shares := s.shares (s.hand i.hand),
                fork := (s.hand i.hand).fork i.lanes.list, finished := none, flags := 0 }) :
    execQput w s = .next (s.finish i w 0 true
      (State.answer { s with jobs := s.jobs ++ [j] } i (s.acting i w) [uniformDst (.h w.nameD) 2 0] [])) := by
  have hplace := uniRange_ok hc
  have hroom : ¬ 8 ≤ (s.queueJobs i.hand w.nameA).length := by omega
  refine execCore_ok h rfl ((withRegs_noLr hr).trans ?_)
  unfold State.uniAt State.acting at *
  simp only [hb, hplace, hroom, hj, bne_self_eq_false, Bool.false_eq_true, if_false]

end

theorem execQget_empty (hj : s.queueJobs i.hand w.nameA = []) :
    execQget w s = .next (s.finish i w 0 false (s.answer i (s.acting i w) [uniformDst (.h w.nameD) 0 1] [])) := by
  refine execCore_ok h rfl ?_
  simp only [hj]

/-- An earlier `qget` of the queue waits. -/
def State.qgetWaits (s : State) (i : SplitIssue) (w : CoreWords) : Bool :=
  (s.hand i.hand).outst.any (fun o => !o.returned && o.work == .qget w.nameA)

section
variable {j : Job} {rest : List Job} (hj : s.queueJobs i.hand w.nameA = j :: rest)
include hj

theorem execQget_takes (hf : j.finished.isSome = true) (hw : s.qgetWaits i w = false) :
    execQget w s = .next (s.finish i w 0 false ((((s.popJob i.hand w.nameA).addOutst i.hand (s.acting i w) .value
      [pendingDst (.h w.nameD) 0] 0 0).updOutst i.hand (s.hand i.hand).nextId (fun o => o.withJob j)).updHand i.hand
        (fun h => { h with yields := 0 }))) := by
  refine execCore_ok h rfl ?_
  unfold State.qgetWaits at hw
  simp only [hj, hf, hw, Bool.not_false, Bool.and_self, if_true]

theorem execQget_waits (hn : j.finished = none ∨ s.qgetWaits i w = true) :
    execQget w s = .next (s.finish i w 0 false
      (s.addOutst i.hand (s.acting i w) (.qget w.nameA) [pendingDst (.h w.nameD) 0] 0 0)) := by
  have hno : (j.finished.isSome && !s.qgetWaits i w) = false := by
    obtain hf | hw := hn
    · rw [hf, Option.isSome_none, Bool.false_and]
    · rw [hw, Bool.not_true, Bool.and_false]
  refine execCore_ok h rfl ?_
  unfold State.qgetWaits at hno
  simp only [hj, hno, Bool.false_eq_true, if_false]

end

end

/-! ### The result of `wbind` (R370) -/

section
variable (s : State) (d k loc : Nat)

@[simp] theorem logUE_hands : (s.logUE loc).hands = s.hands := by
  unfold State.logUE
  split <;> rfl

@[simp] theorem crossHome_hands : (s.crossHome d loc).hands = s.hands := by
  rw [crossHome_eq]

@[simp] theorem hostRead_hands : (s.hostRead loc).hands = s.hands := by
  unfold State.hostRead
  split <;> rfl

/-- Logging what an engine has met in memory changes no hand. -/
theorem foldl_logUE_hands (bad : List Nat) : (bad.foldl State.logUE s).hands = s.hands := by
  induction bad generalizing s with
  | nil => rfl
  | cons b bad ih => exact (ih _).trans (logUE_hands s b)

theorem engineRead_hand (bad : List Nat) : (bad.foldl State.logUE ((s.crossHome d loc).hostRead loc)).hand k = s.hand k := by
  simp only [State.hand, State.hand?, foldl_logUE_hands, hostRead_hands, crossHome_hands]

end

section
variable {s : State} {o : Outst} {win loc : Nat} {f : Fork} (ho : (s.hand s.args.n).outst.find? (fun o => o.id = s.args.m) = some o)
  (hret : o.returned = false) (hw : o.work = .wbind win loc f)
include ho hret hw

theorem resultReturn_wbind_waits (hf : s.forkReady f = false) : execResultReturn s = .next s := by
  simp only [execResultReturn, ho, hret, hw, hf, Bool.not_false, Bool.false_eq_true, if_false, if_true]

theorem resultReturn_wbind {bs : List (BitVec 8)} {bad : List Nat} {v : View} {st : Nat} {s' : State} (hf : s.forkReady f = true)
    (hread : s.engRead (s.forkView f) loc 32 s.args.picks = (bs, bad, v))
    (hbind : (bad.foldl State.logUE ((s.crossHome (coreDie (s.hand s.args.n).core) loc).hostRead loc)).bindWindow (s.hand s.args.n) win
      (leNat bs) = (st, s')) :
    execResultReturn s = .next ((s'.updOutst s.args.n s.args.m (fun o =>
      { o with dsts := o.dsts.map (fun d => { d with vals := (uniformDst d.dst 2 (BitVec.ofNat 64 st)).vals }) })).deliverResult s.args.n
        s.args.m) := by
  simp only [execResultReturn, ho, hret, hw, hf, hread, engineRead_hand, hbind, Bool.not_true, Bool.false_eq_true, if_false]

end

/-- Settles O41: each instruction by what its descriptor, its window or its queue holds. -/
theorem enginesIssue : Obligations.EnginesIssue := by
  refine ⟨?_, fun s i w h => ⟨?_, ?_, ?_, ?_, ?_⟩⟩
  · intro s o win loc f k id ho hret hw
    exact ⟨resultReturn_wbind_waits ho hret hw, fun bs bad v st s' => resultReturn_wbind ho hret hw⟩
  · intro lines out cb bb b cbd hr hb locs s1 bars s2 hs hbar hc c
    exact execCpy_hands h hr hb hs hbar hc
  · intro hr
    exact ⟨execWbind_prot h hr, fun ha hb locs s' => execWbind_issues h hr ha hb⟩
  · intro s' hr
    exact ⟨execWinq_prot h hr, execWinq_unbound h hr, fun ha x => execWinq_bound h hr ha⟩
  · intro jobs hr hb locs s' hc
    exact ⟨execQput_full h hr hb hc, fun hn j => execQput_queues h hr hb hc hn⟩
  · intro jobs waits d
    exact ⟨execQget_empty h, fun j rest hj => ⟨execQget_takes h hj, execQget_waits h hj⟩⟩

/-! ## System registers (R386 to R388) -/

/-- A change of a hand that keeps its key and a field leaves that field as it was. -/
theorem hand_updHand_field {α : Type} (g : Hand → α) (s : State) {f : Hand → Hand} (hk : ∀ h, (f h).key = h.key) (hg : ∀ h, g (f h) = g h)
    (j k : Nat) : g ((s.updHand j f).hand k) = g (s.hand k) := by
  rw [State.hand, hand?_updHand s hk, State.hand]
  by_cases h : k = j
  · rw [if_pos h]
    cases s.hand? k with
    | none => rfl
    | some x => exact hg x
  · rw [if_neg h]

/-- Joining views leaves a hand's registers as they were. -/
theorem hand_updThread_gang (s : State) (j n k : Nat) (f : ThreadMem → ThreadMem) : ((s.updThread j n f).hand k).gang = (s.hand k).gang :=
  hand_updHand_field Hand.gang s (f := fun h => { h with mem := putAt 32 default f n h.mem }) (fun _ => rfl) (fun _ => rfl) j k

theorem foldl_updThread_gang (s : State) (j k : Nat) (f : ThreadMem → ThreadMem) (ls : List Nat) :
    ((ls.foldl (fun s n => s.updThread j n f) s).hand k).gang = (s.hand k).gang := by
  induction ls generalizing s with
  | nil => rfl
  | cons n ls ih => exact (ih _).trans (hand_updThread_gang s j n k f)

/-- The registers that `srd` reads are those that the rows list. -/
theorem sysRows_read (s : State) (i : SplitIssue) (idx wrd : Nat) : ∀ r ∈ sysRows s i idx wrd, s.sysReg i r.1 idx wrd = r.2 := by
  simp only [sysRows, List.cons_append, List.nil_append, List.forall_mem_cons, List.not_mem_nil, false_implies, implies_true, and_true]
  refine ⟨rfl, rfl, rfl, rfl, rfl, rfl, rfl, rfl, rfl, rfl, rfl, rfl, rfl, rfl, rfl, rfl, ?_, rfl, rfl, rfl⟩
  rw [State.sysReg, Nat.shiftRight_eq_div_pow]

theorem sysReg_gang (s : State) (i : SplitIssue) (idx wrd : Nat) : s.sysReg i 7 idx wrd = (s.hand i.hand).gang := rfl

/-- The registers that `swr` writes are those that the rows list. -/
theorem sysWrites_write (s : State) (i : SplitIssue) (idx : Nat) (v : DWord) : ∀ r ∈ sysWrites s i idx v, s.setSysReg i r.1 idx v = some r.2 := by
  simp only [sysWrites, List.cons_append, List.nil_append, List.forall_mem_cons, List.not_mem_nil, false_implies, implies_true, and_true]
  exact ⟨rfl, rfl, rfl, rfl, rfl, rfl, rfl, rfl, rfl, rfl⟩

theorem setSysReg_none {s : State} {i : SplitIssue} {n idx : Nat} {v : DWord} (hn : ∀ r ∈ sysWrites s i idx v, n ≠ r.1) :
    s.setSysReg i n idx v = none := by
  simp only [sysWrites, List.cons_append, List.nil_append, List.forall_mem_cons, List.not_mem_nil, false_implies, implies_true, and_true] at hn
  unfold State.setSysReg
  split <;> simp_all

section
variable {s : State} {i : SplitIssue} {w : CoreWords} (h : Issues s i w)
include h

theorem execSrd_lane (hn : w.nameA = 1) (hr : Readable s i (s.acting i w) [] w.gDst []) :
    execSrd w s = .next (s.finish i w 0 false (s.writeD i w (s.acting i w) (fun t => BitVec.ofNat 32 t) 2)) := by
  refine execCore_ok h rfl ?_
  simp only [if_pos hn]
  exact withRegs_ok hr rfl

/-- The threads of a split join the round of their gang. -/
def State.joinGang (s : State) (i : SplitIssue) (t : State) : State :=
  i.lanes.list.foldl (fun t n => t.updThread i.hand n (fun m => { m with view := View.join m.view (s.hand i.hand).gangView })) t

theorem execSrd_reads (hn : w.nameA ≠ 1) {r : Nat × DWord} (hr : r ∈ sysRows (s.tickCore i.core) i (w.f2 0 4) (w.f2 4 3)) (he : w.nameA = r.1) :
    execSrd w s = .next (s.finish i w 0 false
      ((if w.nameA = 7 ∧ (s.hand i.hand).gang.getLsbD 10 = true then s.joinGang i (s.tickCore i.core) else s.tickCore i.core).writeH i.hand
        w.nameD r.2 0)) := by
  have hread : (s.tickCore i.core).sysReg i w.nameA (w.f2 0 4) (w.f2 4 3) = r.2 := he ▸ sysRows_read _ i _ _ r hr
  have hjoined : w.nameA = 7 → (s.joinGang i (s.tickCore i.core)).sysReg i w.nameA (w.f2 0 4) (w.f2 4 3) = r.2 := by
    intro h7
    rw [← hread, h7, sysReg_gang, sysReg_gang, State.joinGang, foldl_updThread_gang]
  have hhand : (s.tickCore i.core).hand i.hand = s.hand i.hand := rfl
  refine execCore_ok h rfl ?_
  simp only [if_neg hn, hhand, Bool.and_eq_true, decide_eq_true_eq]
  split
  case isTrue hj =>
    obtain ⟨h7, -⟩ := hj
    rw [← hjoined h7]
    rfl
  case isFalse => rw [hread]

section
variable (hr : Readable s i (s.acting i w) [(w.hA, .move)] [] [])
include hr

theorem execSwr_writes {r : Nat × State} (hm : r ∈ sysWrites s i (w.f2 0 4) (s.uniAt i w w.nameA)) (he : w.nameD = r.1) :
    execSwr w s = .next (s.finish i w 0 true r.2) := by
  have hw := he ▸ sysWrites_write s i _ _ r hm
  refine execCore_ok h rfl ((withRegs_noLr hr).trans ?_)
  unfold State.uniAt State.acting at *
  simp only [hw]

theorem execSwr_prot (hn : ∀ r ∈ sysWrites s i (w.f2 0 4) (s.uniAt i w w.nameA), w.nameD ≠ r.1) :
    execSwr w s = .next (s.faulted i w (i.faultW (s.acting i w) 0x0A 0)) := by
  have hw := setSysReg_none hn
  refine execCore_trap h ((withRegs_noLr hr).trans ?_)
  unfold State.uniAt State.acting at *
  simp only [hw]

/-! ## Wakes (R392) -/

theorem execSig_misaligned (ha : (s.uniAt i w w.nameA).toNat % 8 ≠ 0) :
    execSig w s = .next (s.faulted i w (i.fault (s.acting i w) 0x09 0 (s.uniAt i w w.nameA) (s.acting i w))) := by
  refine execCore_trap h ((withRegs_noLr hr).trans ?_)
  unfold State.uniAt State.acting at *
  simp only [if_pos ha]

section
variable (ha : (s.uniAt i w w.nameA).toNat % 8 = 0)
include ha

theorem execSig_prot (hc : canonical (s.uniAt i w w.nameA) = false) :
    execSig w s = .next (s.faulted i w (i.fault (s.acting i w) 0x0A 0 (s.uniAt i w w.nameA) (s.acting i w))) := by
  refine execCore_trap h ((withRegs_noLr hr).trans ?_)
  unfold State.uniAt State.acting at *
  simp only [ha, hc, ne_eq, not_true_eq_false, if_false, Bool.not_false, if_true]

theorem execSig_wakes (hc : canonical (s.uniAt i w w.nameA) = true) (hp : (s.hand i.hand).pair ≠ 2) :
    execSig w s = .next (s.finish i w 0 true (s.wakeKey (s.hand i.hand).asid (s.uniAt i w w.nameA))) := by
  refine execCore_ok h rfl ((withRegs_noLr hr).trans ?_)
  unfold State.uniAt State.acting at *
  simp only [ha, hc, hp, ne_eq, not_true_eq_false, if_false, Bool.not_true, Bool.false_eq_true]

end

end

theorem execDrop_frees : execDrop w s = .next (s.finish i w 0 false
    (s.freeNames i (s.acting i w) (w.gA.gNames ++ w.gB.gNames ++ (if w.isExt then w.gC.gNames else [])))) :=
  execCore_ok h rfl rfl

/-! ## Interrupts (R391) -/

section
variable (hr : Readable s i (s.acting i w) [(w.hA, .move), (w.hB, .move)] [] [])
include hr

/-- `uintr` answers a status in `s'`. -/
def UintrGives (s : State) (i : SplitIssue) (w : CoreWords) (s' : State) (st : DWord) : Prop :=
  execUintr w s = .next (s.finish i w 0 true (s'.writeH i.hand w.nameD st 2))

theorem execUintr_prot (ha : s.uniAt i w w.nameA >>> 16 ≠ 0) :
    execUintr w s = .next (s.faulted i w (i.fault (s.acting i w) 0x0A 0 (s.uniAt i w w.nameA) (s.acting i w))) := by
  have ha := bne_iff_ne.mpr ha
  refine execCore_trap h ((withRegs_noLr hr).trans ?_)
  unfold State.uniAt State.acting at *
  simp only [ha, if_true]
  rfl

section
variable (ha : s.uniAt i w w.nameA >>> 16 = 0)
include ha

theorem uintr_unnamed (hn : (s.launch (s.hand i.hand).lid).nextHid ≤ (s.uniAt i w w.nameA).toNat) : UintrGives s i w s 2 := by
  refine execCore_ok h rfl ((withRegs_noLr hr).trans ?_)
  unfold State.uniAt State.acting at *
  simp only [ha, hn, bne_self_eq_false, Bool.false_eq_true, if_false, if_true]

section
variable (hn : (s.uniAt i w w.nameA).toNat < (s.launch (s.hand i.hand).lid).nextHid)
include hn

theorem uintr_absent (hx : s.handOf (s.hand i.hand).lid (s.uniAt i w w.nameA).toNat = none) : UintrGives s i w s 2 := by
  have hn : ¬ (s.launch (s.hand i.hand).lid).nextHid ≤ (s.uniAt i w w.nameA).toNat := by omega
  refine execCore_ok h rfl ((withRegs_noLr hr).trans ?_)
  unfold State.uniAt State.acting at *
  simp only [ha, hn, hx, bne_self_eq_false, Bool.false_eq_true, if_false]

section
variable {x : Hand} (hx : s.handOf (s.hand i.hand).lid (s.uniAt i w w.nameA).toNat = some x)
include hx

theorem uintr_ended (hd : x.state = .done) : UintrGives s i w s 2 := by
  have hn : ¬ (s.launch (s.hand i.hand).lid).nextHid ≤ (s.uniAt i w w.nameA).toNat := by omega
  refine execCore_ok h rfl ((withRegs_noLr hr).trans ?_)
  unfold State.uniAt State.acting at *
  simp only [ha, hn, hx, hd, bne_self_eq_false, Bool.false_eq_true, if_false, beq_self_eq_true, if_true]

section
variable (hd : x.state ≠ .done)
include hd

theorem uintr_pending (hp : ((s.reload x.key).hand x.key).pendInt.isSome = true) : UintrGives s i w s 1 := by
  have hn : ¬ (s.launch (s.hand i.hand).lid).nextHid ≤ (s.uniAt i w w.nameA).toNat := by omega
  refine execCore_ok h rfl ((withRegs_noLr hr).trans ?_)
  unfold State.uniAt State.acting at *
  simp only [ha, hn, hx, hd, hp, bne_self_eq_false, Bool.false_eq_true, if_false, beq_iff_eq, if_true]

/-- A hand has the interrupt of a `uintr` pending. -/
def State.uintrPends (s : State) (i : SplitIssue) (w : CoreWords) (k : Nat) : State :=
  s.updSaved k (fun x => { x with pendInt := some (BitVec.ofNat 16 (w.f2 0 16), s.uniAt i w w.nameB), intLate := x.state == .running })

theorem uintr_given (hp : ((s.reload x.key).hand x.key).pendInt = none) :
    UintrGives s i w (if x.state = .asleep ∨ x.state = .swappedAsleep then ((s.uintrPends i w x.key).unwait x.key).wakeHand x.key
      else s.uintrPends i w x.key) 0 := by
  have hn : ¬ (s.launch (s.hand i.hand).lid).nextHid ≤ (s.uniAt i w w.nameA).toNat := by omega
  refine execCore_ok h rfl ((withRegs_noLr hr).trans ?_)
  unfold State.uintrPends State.uniAt State.acting at *
  simp only [ha, hn, hx, hd, hp, Option.isSome_none, bne_self_eq_false, Bool.false_eq_true, if_false, beq_iff_eq, Bool.or_eq_true]

end

end

end

end

end

end

/-- Settles O46: each register by its row; `uintr` by the hand it names. -/
theorem systemInstructions : Obligations.SystemInstructions := by
  refine ⟨fun s i w h => ⟨execSrd_lane h, fun hn r => execSrd_reads h hn, fun hr => ⟨fun r => execSwr_writes h hr, execSwr_prot h hr⟩⟩,
    fun s i w h => ⟨?_, ?_, execDrop_frees h⟩⟩
  · intro hr
    refine ⟨execUintr_prot h hr, uintr_unnamed h hr, fun ha hn => ⟨uintr_absent h hr ha hn, fun x hx => ?_⟩⟩
    exact ⟨uintr_ended h hr ha hn hx, uintr_pending h hr ha hn hx, uintr_given h hr ha hn hx⟩
  · intro hr
    exact ⟨execSig_misaligned h hr, execSig_prot h hr, execSig_wakes h hr⟩

end Sys2Proof.Machine
end

section
/-!
PROOFS. Where branches, calls and returns send the threads of a split (O5, O6).
-/
namespace Sys2Proof.Machine

/-! ## The retirement of threads that have been given PCs -/

/-- What retirement leaves of a hand: the PCs are those that `fallThrough` gives, and depths stay. -/
theorem retired_pc (h : Hand) (i : SplitIssue) (w : CoreWords) (moved : Lanes) : (h.retired i w moved).pc = (h.fallThrough i moved).pc := by
  unfold Hand.retired Hand.parkAtMarker Hand.joinOwed Hand.reachEdge
  split_ifs <;> rfl

theorem retired_depth (h : Hand) (i : SplitIssue) (w : CoreWords) (moved : Lanes) : (h.retired i w moved).depth = h.depth := by
  obtain ⟨⟨e, -, -⟩, -, -, -⟩ := namesStay_retired h i w moved
  rw [e]

theorem retired_key (h : Hand) (i : SplitIssue) (w : CoreWords) (moved : Lanes) : (h.retired i w moved).key = h.key := by
  obtain ⟨⟨e, -, -⟩, -, -, -⟩ := namesStay_retired h i w moved
  rw [e]

theorem retired_fixed (h : Hand) (i : SplitIssue) (w : CoreWords) (moved : Lanes) : (h.retired i w moved).haltReq = h.haltReq ∧
    (h.retired i w moved).stepHalt = h.stepHalt ∧ (h.retired i w moved).exited = h.exited := by
  obtain ⟨⟨e, -, -⟩, -, -, -⟩ := namesStay_retired h i w moved
  rw [e]
  exact ⟨rfl, rfl, rfl⟩

section
variable {u : State} {i : SplitIssue} {x : Hand} (hx : u.hand? i.hand = some x) (hplain : (u.slot i.core i.slot).PlainFor i.hand)
  (hhalt : x.haltReq = false) (hstep : x.stepHalt = false) (hlive : x.live ≠ 0)
include hx hplain hhalt hstep hlive

/-- An instruction retires while its hand's run goes on or ends plainly: of its hand, that leaves what retirement leaves of any, but for its state
and its record of poison that it has read. -/
theorem retire_hand {h : Hand} (hkey : h.key = i.hand) (w : CoreWords) (moved : Lanes) : ∃ st seen,
    Within i.hand i.core u ((u.retire i w moved false).logDiscards h) ∧
      ((u.retire i w moved false).logDiscards h).hand? i.hand = some { x.retired i w moved with state := st, seen := seen } := by
  obtain ⟨ehalt, estep, eex⟩ := retired_fixed x i w moved
  have elive : (x.retired i w moved).live ≠ 0 := by
    rw [Hand.live, eex]
    exact hlive
  have hw1 := Within.updHand (f := fun a => a.retired i w moved) (fun a => retired_key a i w moved) i.hand i.core u
  have hu1 := hand?_updHand_same (f := fun a => a.retired i w moved) (fun a => retired_key a i w moved) hx
  obtain ⟨st, hw2, hu2⟩ := finishCycle_plain (c := i.core) (j := i.slot) ((countIssue_hand? w.rb).trans hu1) (countIssue_plainFor w.rb hplain)
    (ehalt.trans hhalt) (estep.trans hstep) elive
  obtain ⟨seen, hw3, hu3⟩ := logDiscards_frame hu2 hkey i.core
  refine ⟨st, seen, ?_, ?_⟩
  · rw [retire_eq]
    exact hw1.trans ((countIssue_within i.hand _ i w.rb).trans (hw2.trans hw3))
  · rw [retire_eq]
    exact hu3

end

/-- A step whose hand goes on running: it keeps whether the hand is to halt, and which threads have exited. -/
structure GoesOn (h x : Hand) : Prop where
  haltReq : x.haltReq = h.haltReq
  stepHalt : x.stepHalt = h.stepHalt
  exited : x.exited = h.exited

section
variable {s u : State} {i : SplitIssue} {h x : Hand} (hs : s.hand? i.hand = some h) (hrun : RunsOn s i)
include hs hrun

/-- What `RunsOn` says of the hand of the split. -/
theorem RunsOn.runs (hgo : GoesOn h x) : x.haltReq = false ∧ x.stepHalt = false ∧ x.live ≠ 0 := by
  obtain ⟨-, -, -, hex, hlanes, hhalt, hstep, -⟩ := hrun
  rw [hand_of_hand? hs] at hex hhalt hstep
  refine ⟨hgo.haltReq.trans hhalt, hgo.stepHalt.trans hstep, ?_⟩
  rw [Hand.live, hgo.exited]
  exact live_ne_zero hex hlanes

omit hs in
/-- Its slot's run is its own, in any state that keeps the slots of its core. -/
theorem RunsOn.plain (hslots : (u.core i.core).slots = (s.core i.core).slots) : (u.slot i.core i.slot).PlainFor i.hand := by
  obtain ⟨-, -, hslot, -, -, -, -, hfate⟩ := hrun
  have he : u.slot i.core i.slot = s.slot i.core i.slot := by rw [State.slot, hslots, State.slot]
  rw [he]
  exact ⟨fun hk e => Option.some.inj (e.symm.trans hslot), hfate⟩

/-- An instruction that has changed one hand retires within the frame. -/
theorem finish_hand (hw : Within i.hand i.core s u) (hslots : (u.core i.core).slots = (s.core i.core).slots) (hx : u.hand? i.hand = some x)
    (hgo : GoesOn h x) (w : CoreWords) (moved : Lanes) : ∃ st seen, Within i.hand i.core s (s.finish i w moved false u) ∧
    (s.finish i w moved false u).hand? i.hand = some { x.retired i w moved with state := st, seen := seen } := by
  obtain ⟨hhalt, hstep, hlive⟩ := RunsOn.runs hs hrun hgo
  obtain ⟨st, seen, hret, hy⟩ := retire_hand hx (RunsOn.plain hrun hslots) hhalt hstep hlive (key_of_hand? hs) w moved
  rw [State.finish, hand_of_hand? hs]
  exact ⟨st, seen, hw.trans hret, hy⟩

end

/-! ## Threads that leave levels (R138, R139) -/

/-- Of a hand, only its levels, the predicates that they drive and results outstanding for those differ. -/
def LevelsOnly (h h' : Hand) : Prop := h' = { h with lc := h'.lc, q := h'.q, outst := h'.outst }

theorem LevelsOnly.trans {a b c : Hand} (h1 : LevelsOnly a b) (h2 : LevelsOnly b c) : LevelsOnly a c := by
  unfold LevelsOnly at h1 h2 ⊢
  rw [h1] at h2
  exact h2

theorem retireLevel_levelsOnly (h : Hand) (n : Nat) : LevelsOnly h (h.retireLevel n) := retireFrom_frame _ _ 6 h

theorem retireEmpty_levelsOnly (h : Hand) : LevelsOnly h h.retireEmpty := by
  unfold Hand.retireEmpty
  generalize List.range 6 = ns
  induction ns generalizing h with
  | nil => rfl
  | cons n ns ih =>
    refine LevelsOnly.trans ?_ (ih _)
    dsimp only
    split
    · exact retireLevel_levelsOnly h n
    · rfl

theorem leaveLevels_levelsOnly (h : Hand) (out : Level → Nat → Bool) : LevelsOnly h (h.leaveLevels out) :=
  LevelsOnly.trans (b := { h with lc := h.lc.map _ }) rfl (retireEmpty_levelsOnly _)

namespace LevelsOnly
variable {h h' : Hand} (hl : LevelsOnly h h')
include hl

theorem key : h'.key = h.key := by
  rw [hl]

theorem pc : h'.pc = h.pc := by
  rw [hl]

theorem goesOn : GoesOn h h' := by
  rw [hl]
  exact ⟨rfl, rfl, rfl⟩

end LevelsOnly

/-! ## Where threads stand -/

/-- An address as it stands in a PC (R115). -/
def pcBits (v : DWord) : DWord := v &&& ~~~3

theorem pcBits_pcBits (v : DWord) : pcBits (pcBits v) = pcBits v := by
  rw [pcBits, pcBits, BitVec.and_assoc, BitVec.and_self]

theorem goto_pcOf (h : Hand) (lanes : Lanes) (f : Nat → DWord) {l : Nat} (hl : l < 32) :
    (h.goto lanes f).pcOf l = if lanes.has l then pcBits (f l) else h.pcOf l := by
  have hpc : (h.goto lanes f).pc.getD l 0 = if lanes.has l then pcBits (f l) else h.pc.getD l 0 := by simp [Hand.goto, hl, pcBits]
  rw [Hand.pcOf, hpc]
  split
  · exact pcBits_pcBits _
  · rfl

theorem pcOf_congr {h h' : Hand} (he : h'.pc = h.pc) (l : Nat) : h'.pcOf l = h.pcOf l := by
  rw [Hand.pcOf, Hand.pcOf, he]

/-- After a jump of `act`: the active lanes are where they were sent, the others of the split at the next instruction, and every other thread
where it was. -/
theorem jumped_pcOf {h x : Hand} {i : SplitIssue} {w : CoreWords} {act : Lanes} {f : Nat → DWord} (hx : ∀ l, l < 32 → x.pcOf l = (h.goto act f).pcOf l)
    (hex : i.lanes &&& x.exited = 0) {l : Nat} (hl : l < 32) :
    (x.retired i w act).pcOf l = if act.has l then pcBits (f l) else if i.lanes.has l then pcBits i.next else h.pcOf l := by
  have hfall : (x.retired i w act).pcOf l = if (i.lanes &&& ~~~act).has l && x.live.has l then pcBits i.next else x.pcOf l := by
    rw [Hand.pcOf, retired_pc]
    simp only [Hand.fallThrough, hl, List.getD_eq_getElem?_getD, List.getElem?_map, List.getElem?_range, Option.map_some, Option.getD_some]
    split <;> rfl
  rw [hfall, hx l hl, goto_pcOf h act f hl]
  cases ha : act.has l
  · cases hi : i.lanes.has l
    · simp [ha, hi]
    · have hout := Lanes.eq_zero_iff.mp hex l
      rw [Lanes.has_and, hi, Bool.true_and] at hout
      simp [ha, hi, hl, Hand.live, hout]
  · simp [ha]

/-! ## `bra` (R291) -/

/-- The hand of a taken branch. -/
def Hand.branched (h : Hand) (lanes : Lanes) (f : Nat → DWord) : Hand :=
  if (h.goto lanes f).inTrap then h.goto lanes f else (h.goto lanes f).leaveByBranch lanes

theorem branched_levelsOnly (h : Hand) (lanes : Lanes) (f : Nat → DWord) : LevelsOnly (h.goto lanes f) (h.branched lanes f) := by
  unfold Hand.branched
  split
  · rfl
  · exact leaveLevels_levelsOnly _ _

section
variable {s : State} {i : SplitIssue} {w : CoreWords} (h : Issues s i w)
include h

/-- Where `bra` sends its lanes. -/
def State.braTarget (s : State) (i : SplitIssue) (w : CoreWords) (t : Nat) : DWord := i.pc + (w.gA.word (s.hand i.hand) i.uni t).signExtend 64

theorem execBra_branches (hr : Readable s i (s.acting i w) [(w.gA, .move)] [] (w.lrNames w.gA (.lit 0) (.lit 0))) :
    execBra w s = .next (s.finish i w (s.acting i w) false
      ((s.released i (w.lrNames w.gA (.lit 0) (.lit 0))).updHand i.hand (fun a => a.branched (s.acting i w) (s.braTarget i w)))) :=
  execCore_moved h (withRegs_moved hr rfl)

end

/-- Settles O5: names are freed, the lanes are sent to their targets and leave levels, and the instruction retires. -/
theorem branchTargets : Obligations.BranchTargets := by
  intro s i w hi hrun h act hread
  obtain ⟨x, hs⟩ := Option.isSome_iff_exists.mp hrun.1
  have hx : h = x := hand_of_hand? hs
  have hc : x.core = i.core := hx ▸ hrun.2.1
  obtain ⟨x1, hfree, -⟩ := released_step i (w.lrNames w.gA (.lit 0) (.lit 0)) hs hc
  have hlv := branched_levelsOnly x1 (s.acting i w) (s.braTarget i w)
  have hkey : ∀ a : Hand, (a.branched (s.acting i w) (s.braTarget i w)).key = a.key := fun a => (branched_levelsOnly a (s.acting i w) (s.braTarget i w)).key
  have hw := Within.updHand (f := fun a => a.branched (s.acting i w) (s.braTarget i w)) hkey i.hand i.core (s.released i (w.lrNames w.gA (.lit 0) (.lit 0)))
  have hu := hand?_updHand_same (f := fun a => a.branched (s.acting i w) (s.braTarget i w)) hkey hfree.hand
  have hgo : GoesOn x (x1.branched (s.acting i w) (s.braTarget i w)) := by
    rw [hlv, hfree.regs]
    exact ⟨rfl, rfl, rfl⟩
  obtain ⟨st, seen, hwithin, hy⟩ := finish_hand hs hrun (hfree.within.trans hw) hfree.slots hu hgo w (s.acting i w)
  refine ⟨_, execBra_branches hi hread, hwithin.only, hwithin.others, fun l hl => ?_⟩
  have hex : i.lanes &&& (x1.branched (s.acting i w) (s.braTarget i w)).exited = 0 := by
    rw [hgo.exited, ← hx]
    exact hrun.2.2.2.1
  have hpc : x1.pc = h.pc := by
    rw [hfree.regs, hx]
  rw [hand_of_hand? hy]
  refine (jumped_pcOf (h := x1) (f := s.braTarget i w) (fun l _ => pcOf_congr hlv.pc l) hex hl).trans ?_
  rw [pcOf_congr hpc]
  rfl

/-! ## Calls (R291, R292) -/

/-- Threads that go one depth down. -/
def Hand.deeper (h : Hand) (act : Lanes) : Hand :=
  { h with depth := (List.range 32).map (fun t => if act.has t then h.depthOf t + 1 else h.depthOf t) }

theorem deeper_depthOf (h : Hand) (act : Lanes) {l : Nat} (hl : l < 32) :
    (h.deeper act).depthOf l = if act.has l then h.depthOf l + 1 else h.depthOf l := by
  simp [Hand.depthOf, Hand.deeper, hl]

/-- The hand of a call's split with its threads at their new depths. -/
def State.deepHand (s : State) (i : SplitIssue) (act : Lanes) : Hand := (s.updHand i.hand (fun h => h.deeper act)).hand i.hand

theorem deepHand_eq {s : State} {i : SplitIssue} {h : Hand} (hs : s.hand? i.hand = some h) (act : Lanes) : s.deepHand i act = h.deeper act :=
  hand_of_hand? (hand?_updHand_same (f := fun h => h.deeper act) (fun _ => rfl) hs)

/-- What a call does to the machine before it retires. -/
def State.called (s : State) (i : SplitIssue) (act : Lanes) (target : Nat → DWord) : State :=
  ((s.updHand i.hand (fun h => { h with depth := (s.deepHand i act).depth })).writeLink i act).updHand i.hand (fun h => h.goto act target)

theorem lrNames_eq_nil {w : CoreWords} (hlr : w.x.lr = 0) (a b c : Operand) : w.lrNames a b c = [] := by
  rw [CoreWords.lrNames, hlr]
  rfl

theorem freeNames_nil (s : State) (i : SplitIssue) (lanes : Lanes) : s.freeNames i lanes [] = s := by
  unfold State.freeNames
  dsimp only
  split <;> rfl

/-- A lane of a call may not go down. -/
def Hand.bottom (h : Hand) (t : Nat) : Bool := h.depthOf t == 31 || h.trapMode.has t

theorem bottom_iff {h : Hand} {t : Nat} : h.bottom t = true ↔ h.depthOf t = 31 ∨ h.trapMode.has t = true := by
  simp [Hand.bottom]

theorem find?_of_lowest {p : Nat → Bool} {act : Lanes} {l : Nat} (hl : l ∈ act.list) (hp : p l = true) (hlow : ∀ m ∈ act.list, m < l → p m = false) :
    act.list.find? p = some l := by
  obtain ⟨before, after, hsplit⟩ := List.append_of_mem hl
  have hsorted := Lanes.pairwise_list act
  rw [hsplit, List.pairwise_append] at hsorted
  obtain ⟨-, -, hcross⟩ := hsorted
  refine List.find?_eq_some_iff_append.mpr ⟨hp, before, after, hsplit, fun m hm => ?_⟩
  have hmem : m ∈ act.list := hsplit ▸ List.mem_append_left _ hm
  rw [hlow m hmem (hcross m hm l List.mem_cons_self), Bool.not_false]

section
variable {s : State} {i : SplitIssue} {w : CoreWords} {a : CoreWords → Operand} {target : SplitIssue → Operand → Hand → Nat → DWord} (h : Issues s i w)
include h

theorem callOp_callx (hc : checkSources i (s.acting i w) (s.hand i.hand) [(a w, .move)] = none) {l : Nat} (hl : l ∈ (s.acting i w).list)
    (hb : (s.hand i.hand).bottom l = true) (hlow : ∀ m ∈ (s.acting i w).list, m < l → (s.hand i.hand).bottom m = false) :
    callOp a target w s = .next (s.faulted i w (i.fault (s.acting i w) 0x1B 0 (BitVec.ofNat 64 ((s.hand i.hand).depthOf l)) (s.acting i w))) := by
  have hfind := find?_of_lowest hl hb hlow
  refine execCore_trap h ?_
  unfold Hand.bottom State.acting at *
  simp only [hc, hfind]

theorem callOp_calls (hr : Readable s i (s.acting i w) [(a w, .move)] [] [])
    (hno : ∀ l ∈ (s.acting i w).list, (s.hand i.hand).bottom l = false)
    (hneed : s.needOf i.hand [] (((s.deepHand i (s.acting i w)).places (s.acting i w) 60 ++ (s.deepHand i (s.acting i w)).places (s.acting i w) 61).map
      Prod.fst) ((a w).gNames.foldl (fun acc n => acc ++ ((s.hand i.hand).places (s.acting i w) n).map Prod.fst) []) false
        (s.freedDsts i i.lanes (w.lrNames (a w) (.lit 0) (.lit 0))) = .ready) (hlr : w.x.lr = 0) :
    callOp a target w s = .next (s.finish i w (s.acting i w) false (s.called i (s.acting i w) (target i (a w) (s.hand i.hand)))) := by
  have hfind : (s.acting i w).list.find? (s.hand i.hand).bottom = none :=
    List.find?_eq_none.mpr fun l hl => ne_true_of_eq_false (hno l hl)
  have hfree : s.freeNames i i.lanes (w.lrNames (a w) (.lit 0) (.lit 0)) = s := by
    rw [lrNames_eq_nil hlr]
    exact freeNames_nil s i i.lanes
  refine execCore_moved h ?_
  unfold State.called
  unfold Hand.bottom State.deepHand Hand.deeper State.acting at *
  simp only [hr.1, hfind]
  refine (withRegs_noLr hr).trans ?_
  simp only [hneed, hfree]

end

/-! ## The link (R292) -/

section
variable {s : State} {k c : Nat} {h : Hand} (hs : s.hand? k = some h) (hc : h.core = c)
include hs hc

/-- One word is written in the places of a name: it reads so in the lanes of those, and other names read as before. -/
theorem writePlaces_step (v : Word) (n : Nat) (act : Lanes) : ∃ h',
    RegStep k c s ((h.places act n).foldl (fun s p => s.writePlace k false (fun _ => v) 0xD p) s) h h' ∧ ∀ l m, l < 32 →
      (m = n → act.has l = true → (h'.readG l m).value = v.zeroExtend 64) ∧ (m ≠ n → (h'.readG l m).value = (h.readG l m).value) := by
  obtain ⟨h', hstep, hr⟩ := foldl_writePlace_step (full := false) (fun _ => v) (tag := 0xD) (by decide) (h.places act n)
    (fun p hp => named_of_mem_places hp) hs hc
  refine ⟨h', hstep, fun l m hl => ?_⟩
  have hres : h'.resolve l m = h.resolve l m := by
    rw [hstep.regs]
    rfl
  obtain ⟨hin, hout⟩ := hr (h.resolve l m) l (resolve_named h l m) hl
  rw [Hand.readG, hres, Hand.readG]
  refine ⟨fun hm hact => ?_, fun hm => (hout fun p hp he => absurd ?_ hm).1⟩
  · subst hm
    obtain ⟨p, hp, he, -⟩ := exists_place (h := h) (n := m) hact
    exact (hin ⟨p, hp, he.symm⟩ fun q hq he => (has_of_mem_places hq hl).mpr ⟨hact, he⟩).1
  · rw [← resolve_num h l m, he, num_of_mem_places hp]

end

/-- A word of a link as g60 and g61 hold it. -/
theorem link_low (v : DWord) : ((v.setWidth 32 : Word).zeroExtend 64 : DWord) = BitVec.ofNat 64 (v.toNat % 2 ^ 32) := by
  apply BitVec.eq_of_toNat_eq
  simp

theorem link_high (v : DWord) : ((v.extractLsb' 32 32).zeroExtend 64 : DWord) = BitVec.ofNat 64 (v.toNat / 2 ^ 32) := by
  have hv := v.isLt
  apply BitVec.eq_of_toNat_eq
  simp only [BitVec.toNat_setWidth, BitVec.extractLsb'_toNat, BitVec.toNat_ofNat, Nat.shiftRight_eq_div_pow]
  omega

theorem writeLink_step {s : State} {i : SplitIssue} {h : Hand} {c : Nat} (hs : s.hand? i.hand = some h) (hc : h.core = c) (act : Lanes) : ∃ h',
    RegStep i.hand c s (s.writeLink i act) h h' ∧ ∀ l, l < 32 → act.has l = true →
      (h'.readG l 60).value = BitVec.ofNat 64 (i.next.toNat % 2 ^ 32) ∧ (h'.readG l 61).value = BitVec.ofNat 64 (i.next.toNat / 2 ^ 32) := by
  obtain ⟨h1, hstep1, hr1⟩ := writePlaces_step hs hc (i.next.setWidth 32) 60 act
  obtain ⟨h2, hstep2, hr2⟩ := writePlaces_step hstep1.hand (hstep1.core_eq hc) (i.next.extractLsb' 32 32) 61 act
  refine ⟨h2, ?_, fun l hl ha => ⟨?_, ?_⟩⟩
  · unfold State.writeLink
    dsimp only
    rw [hand_of_hand? hs, hand_of_hand? hstep1.hand]
    exact hstep1.trans hstep2
  · rw [(hr2 l 60 hl).2 (by decide), (hr1 l 60 hl).1 rfl ha, link_low]
  · rw [(hr2 l 61 hl).1 rfl ha, link_high]

/-- What a call has made of its hand. -/
theorem called_step {s : State} {i : SplitIssue} {h : Hand} (hs : s.hand? i.hand = some h) (hc : h.core = i.core) (act : Lanes)
    (target : Nat → DWord) : ∃ x, Within i.hand i.core s (s.called i act target) ∧
      ((s.called i act target).core i.core).slots = (s.core i.core).slots ∧ (s.called i act target).hand? i.hand = some (x.goto act target) ∧
      RegsOnly (h.deeper act) x ∧ ∀ l, l < 32 → act.has l = true →
        (x.readG l 60).value = BitVec.ofNat 64 (i.next.toNat % 2 ^ 32) ∧ (x.readG l 61).value = BitVec.ofNat 64 (i.next.toNat / 2 ^ 32) := by
  have hdepth : ({ h with depth := (s.deepHand i act).depth } : Hand) = h.deeper act := by
    rw [deepHand_eq hs]
    rfl
  have hw := Within.updHand (f := fun h => { h with depth := (s.deepHand i act).depth }) (fun _ => rfl) i.hand i.core s
  have hu := hand?_updHand_same (f := fun h => { h with depth := (s.deepHand i act).depth }) (fun _ => rfl) hs
  rw [hdepth] at hu
  obtain ⟨x, hstep, hlink⟩ := writeLink_step (c := i.core) hu hc act
  refine ⟨x, hw.trans (hstep.within.trans (Within.updHand (f := fun h => h.goto act target) (fun _ => rfl) i.hand i.core _)), hstep.slots,
    hand?_updHand_same (f := fun h => h.goto act target) (fun _ => rfl) hstep.hand, hstep.regs, hlink⟩

/-- A call that nothing keeps from it: the depths and PCs of its hand, and the links of its lanes. -/
theorem called_finish {s : State} {i : SplitIssue} {h : Hand} (hs : s.hand? i.hand = some h) (hrun : RunsOn s i) (hc : h.core = i.core) (w : CoreWords)
    (act : Lanes) (target : Nat → DWord) :
    let t := s.finish i w act false (s.called i act target)
    HandsOnly s t ∧ OtherHands s t i.hand ∧ ∀ l, l < 32 →
      (act.has l = true → (t.hand i.hand).depthOf l = h.depthOf l + 1 ∧ (t.hand i.hand).pcOf l = pcBits (target l) ∧
        ((t.hand i.hand).readG l 60).value = BitVec.ofNat 64 (i.next.toNat % 2 ^ 32) ∧
        ((t.hand i.hand).readG l 61).value = BitVec.ofNat 64 (i.next.toNat / 2 ^ 32)) ∧
      (act.has l = false → (t.hand i.hand).depthOf l = h.depthOf l ∧
        (t.hand i.hand).pcOf l = if i.lanes.has l then pcBits i.next else h.pcOf l) := by
  obtain ⟨x, hw, hslots, hx, hregs, hlink⟩ := called_step hs hc act target
  have hgo : GoesOn h (x.goto act target) := by
    rw [hregs]
    exact ⟨rfl, rfl, rfl⟩
  have hex : i.lanes &&& (x.goto act target).exited = 0 := by
    rw [hgo.exited, ← hand_of_hand? hs]
    exact hrun.2.2.2.1
  have hpcs : x.pc = h.pc := by
    rw [hregs]
    rfl
  have hdepths : x.depth = (h.deeper act).depth := by
    rw [hregs]
  obtain ⟨st, seen, hwithin, hy⟩ := finish_hand hs hrun hw hslots hx hgo w act
  refine ⟨hwithin.only, hwithin.others, fun l hl => ?_⟩
  rw [hand_of_hand? hy]
  have hread (n : Nat) : ((x.goto act target).retired i w act).readG l n = x.readG l n := (namesStay_retired _ i w act).readG_eq l n
  have hdepth : ((x.goto act target).retired i w act).depthOf l = if act.has l then h.depthOf l + 1 else h.depthOf l := by
    rw [Hand.depthOf, retired_depth]
    refine Eq.trans ?_ (deeper_depthOf h act hl)
    rw [Hand.depthOf, ← hdepths]
    rfl
  have hpc := jumped_pcOf (w := w) (h := x) (f := target) (fun l _ => rfl) hex hl
  rw [pcOf_congr hpcs] at hpc
  refine ⟨fun ha => ⟨?_, ?_, ?_, ?_⟩, fun ha => ⟨?_, ?_⟩⟩
  · exact hdepth.trans (if_pos ha)
  · exact hpc.trans (if_pos ha)
  · exact (congrArg LaneRead.value (hread 60)).trans (hlink l hl ha).1
  · exact (congrArg LaneRead.value (hread 61)).trans (hlink l hl ha).2
  · exact hdepth.trans (if_neg (ne_true_of_eq_false ha))
  · exact hpc.trans (if_neg (ne_true_of_eq_false ha))

/-! ## Returns (R293) -/

/-- The levels that a thread leaves when it returns: those of its depth, unless it is in trap mode. -/
def Hand.ownLevels (h : Hand) (act : Lanes) (l : Level) (t : Nat) : Bool := act.has t && !h.trapMode.has t && l.depth.toNat == h.depthOf t

/-- Threads that return: they leave the levels of their depth, and stand at their links one depth up. -/
def Hand.returned (h : Hand) (i : SplitIssue) (act : Lanes) (x : Hand) : Hand :=
  { (x.leaveLevels (h.ownLevels act)).goto act (fun t => Operand.val (.pair 60) h i.uni t) with
    depth := (List.range 32).map (fun t => if act.has t then h.depthOf t - 1 else h.depthOf t) }

theorem returned_key (h : Hand) (i : SplitIssue) (act : Lanes) (x : Hand) : (h.returned i act x).key = x.key := by
  have hl := leaveLevels_levelsOnly x (h.ownLevels act)
  rw [Hand.returned, hl]
  rfl

/-- What a return does to the machine before it retires. -/
def State.returned (s : State) (i : SplitIssue) (act : Lanes) : State :=
  let back := s.updHand i.hand ((s.hand i.hand).returned i act)
  if (s.hand i.hand).inTrap then back else back.freeWindows i.hand 1

theorem poisonOf_of_checkSources {i : SplitIssue} {act : Lanes} {h : Hand} {ops : List (Operand × Check)} (hc : checkSources i act h ops = none)
    {p : Operand × Check} (hp : p ∈ ops) : poisonOf i act h p.1 = none := by
  unfold checkSources at hc
  split at hc
  · contradiction
  · next hnone => exact firstSome_eq_none.mp hnone p hp

section
variable {s : State} {i : SplitIssue} {w : CoreWords} (h : Issues s i w)
include h

theorem execRet_returns (hd : ∀ l ∈ (s.acting i w).list, (s.hand i.hand).depthOf l ≠ 0)
    (hr : Readable s i (s.acting i w) [(.pair 60, .move)] [] []) :
    execRet w s = .next (s.finish i w (s.acting i w) false (s.returned i (s.acting i w))) := by
  have hup : Lanes.of (fun t => (s.acting i w).has t && (s.hand i.hand).depthOf t != 0) = s.acting i w :=
    Lanes.of_has_and fun t ht => bne_iff_ne.mpr (hd t ht)
  have hpoison : poisonOf i (s.acting i w) (s.hand i.hand) (.pair 60) = none :=
    poisonOf_of_checkSources (p := (.pair 60, .move)) hr.1 List.mem_cons_self
  have hact : (s.acting i w == 0) = false := beq_false_of_ne h.2.1
  have hself : s.acting i w &&& ~~~(s.acting i w) = 0 := Lanes.and_not_self _
  refine execCore_moved h ?_
  unfold State.returned Hand.returned Hand.ownLevels
  unfold State.acting at *
  simp only [hup, bne_self_eq_false, Bool.false_and, Bool.false_eq_true, if_false, hact, hpoison]
  refine (withRegs_noLr hr).trans ?_
  simp only [hself, beq_self_eq_true, if_true]

end

section
variable {s : State} {k c : Nat} {h : Hand} (hs : s.hand? k = some h) (hc : h.core = c)
include hs hc

/-- Freeing windows changes only registers. -/
theorem freeWindows_step (d : Nat) : ∃ h', RegStep k c s (s.freeWindows k d) h h' := by
  unfold State.freeWindows
  dsimp only
  generalize List.filter _ _ = es
  have hfold : es.foldl (fun s (e : MapEntry) => s.freeName k (.g e.win e.name)) s =
      (es.map fun e => Dst.g e.win e.name).foldl (fun s d => s.freeName k d) s := List.foldl_map.symm
  rw [hfold]
  obtain ⟨h', hstep, -⟩ := foldl_freeName_step (es.map fun e => Dst.g e.win e.name) hs hc
  exact ⟨h', hstep⟩

end

theorem RegsOnly.refl (h : Hand) : RegsOnly h h := rfl

/-- Of a hand that returns, depths and PCs are those of `returned`, and the run goes on. -/
theorem returned_step {s : State} {i : SplitIssue} {h : Hand} (hs : s.hand? i.hand = some h) (hc : h.core = i.core) (act : Lanes) :
    ∃ x, Within i.hand i.core s (s.returned i act) ∧ ((s.returned i act).core i.core).slots = (s.core i.core).slots ∧
      (s.returned i act).hand? i.hand = some x ∧ RegsOnly (h.returned i act h) x := by
  have hkey := returned_key h i act
  have hw := Within.updHand (f := h.returned i act) hkey i.hand i.core s
  have hu := hand?_updHand_same (f := h.returned i act) hkey hs
  have hcore : (h.returned i act h).core = i.core := by
    rw [Hand.returned, leaveLevels_levelsOnly h (h.ownLevels act)]
    exact hc
  unfold State.returned
  rw [hand_of_hand? hs]
  dsimp only
  split
  · exact ⟨_, hw, rfl, hu, RegsOnly.refl _⟩
  · obtain ⟨x, hstep⟩ := freeWindows_step hu hcore 1
    exact ⟨x, hw.trans hstep.within, hstep.slots, hstep.hand, hstep.regs⟩

theorem returned_finish {s : State} {i : SplitIssue} {h : Hand} (hs : s.hand? i.hand = some h) (hrun : RunsOn s i) (hc : h.core = i.core)
    (w : CoreWords) (act : Lanes) :
    let t := s.finish i w act false (s.returned i act)
    HandsOnly s t ∧ OtherHands s t i.hand ∧ ∀ l, l < 32 →
      (t.hand i.hand).depthOf l = (if act.has l then h.depthOf l - 1 else h.depthOf l) ∧
      (t.hand i.hand).pcOf l = if act.has l then pcBits (((h.readG l 61).value <<< 32) ||| (h.readG l 60).value)
        else if i.lanes.has l then pcBits i.next else h.pcOf l := by
  obtain ⟨x, hw, hslots, hx, hregs⟩ := returned_step hs hc act
  have hlv := leaveLevels_levelsOnly h (h.ownLevels act)
  have hgo : GoesOn h x := by
    rw [hregs, Hand.returned, hlv]
    exact ⟨rfl, rfl, rfl⟩
  have hex : i.lanes &&& x.exited = 0 := by
    rw [hgo.exited, ← hand_of_hand? hs]
    exact hrun.2.2.2.1
  obtain ⟨st, seen, hwithin, hy⟩ := finish_hand hs hrun hw hslots hx hgo w act
  refine ⟨hwithin.only, hwithin.others, fun l hl => ?_⟩
  rw [hand_of_hand? hy]
  have hpcs : x.pc = ((h.leaveLevels (h.ownLevels act)).goto act
      (fun t => Operand.val (.pair 60) h i.uni t)).pc := by
    rw [hregs]
    rfl
  have hdepths : x.depth = (h.returned i act h).depth := by
    rw [hregs]
  refine ⟨?_, ?_⟩
  · refine Eq.trans (b := (x.retired i w act).depthOf l) rfl ?_
    rw [Hand.depthOf, retired_depth, hdepths]
    simp [Hand.returned, hl]
  · have hpc := jumped_pcOf (w := w) (f := fun t => Operand.val (.pair 60) h i.uni t) (fun l _ => pcOf_congr hpcs l) hex hl
    rw [pcOf_congr hlv.pc] at hpc
    exact hpc

/-- Settles O6: a call's lanes go down with their links in place, or raise CALLX, and a return's lanes go up. -/
theorem callsAndReturns : Obligations.CallsAndReturns := by
  refine ⟨?_, ?_, ?_⟩
  · intro s i w indirect hi hrun h act a deep hr hno hneed hlr
    obtain ⟨x, hs⟩ := Option.isSome_iff_exists.mp hrun.1
    have hx : h = x := hand_of_hand? hs
    have hc : x.core = i.core := hx ▸ hrun.2.1
    have hbottom : ∀ l ∈ act.list, h.bottom l = false := fun l hl => Bool.eq_false_iff.mpr fun hb => by
      obtain ⟨hdepth, htrap⟩ := hno l hl
      obtain hb | hb := bottom_iff.mp hb
      · exact hdepth hb
      · rw [htrap] at hb
        contradiction
    cases indirect
    · obtain ⟨honly, hothers, hlanes⟩ := called_finish hs hrun hc w act (fun t => i.pc + (w.gA.word h i.uni t).signExtend 64)
      rw [← hx] at hlanes
      exact ⟨_, callOp_calls (a := CoreWords.gA) (target := fun i a h t => i.pc + (a.word h i.uni t).signExtend 64) hi hr hbottom hneed hlr, honly, hothers, hlanes⟩
    · obtain ⟨honly, hothers, hlanes⟩ := called_finish hs hrun hc w act (fun t => w.pA.val h i.uni t)
      rw [← hx] at hlanes
      exact ⟨_, callOp_calls (a := CoreWords.pA) (target := fun i a h t => a.val h i.uni t) hi hr hbottom hneed hlr, honly, hothers, hlanes⟩
  · intro s i w indirect l hi h act hc hl hb hlow
    have hlow' : ∀ m ∈ act.list, m < l → h.bottom m = false := fun m hm hlt => Bool.eq_false_iff.mpr fun hb => by
      obtain ⟨hdepth, htrap⟩ := hlow m hm hlt
      obtain hb | hb := bottom_iff.mp hb
      · exact hdepth hb
      · rw [htrap] at hb
        contradiction
    cases indirect
    · exact callOp_callx (a := CoreWords.gA) (target := fun i a h t => i.pc + (a.word h i.uni t).signExtend 64) hi hc hl (bottom_iff.mpr hb) hlow'
    · exact callOp_callx (a := CoreWords.pA) (target := fun i a h t => a.val h i.uni t) hi hc hl (bottom_iff.mpr hb) hlow'
  · intro s i w hi hrun h act hd hr
    obtain ⟨x, hs⟩ := Option.isSome_iff_exists.mp hrun.1
    have hx : h = x := hand_of_hand? hs
    have hc : x.core = i.core := hx ▸ hrun.2.1
    obtain ⟨honly, hothers, hlanes⟩ := returned_finish hs hrun hc w act
    rw [← hx] at hlanes
    exact ⟨_, execRet_returns hi hd hr, honly, hothers, hlanes⟩

end Sys2Proof.Machine
end

section
/-!
PROOFS. A store enters the store buffers of its lanes' threads (O24).
-/
namespace Sys2Proof.Machine

/-! ## An access that passes its checks -/

section
variable {s s' : State} {i : SplitIssue} {act : Lanes} {scratch : Bool} {acc : Access} {n align : Nat} {ea : Nat → DWord} {locs : List (Nat × Nat)}

theorem not_ok_of_faults {code : BitVec 8} {p : Nat → Bool} (hf : s.AccessFaults i act scratch acc align n ea code p) :
    s.checkAccess i act scratch acc align n ea ≠ .ok (locs, s') := by
  obtain ⟨u, hu⟩ := hf
  rw [hu]
  exact fun h => nomatch h

/-- Its lanes are the active ones, and the machine differs at most in its translations. -/
theorem checkAccess_ok (hc : s.checkAccess i act scratch acc align n ea = .ok (locs, s')) :
    (∃ tlb, s' = { s with tlb := tlb }) ∧ locs.map Prod.fst = act.list := by
  have h1 : (failing act (misaligned align ea) != 0) = false :=
    Bool.eq_false_iff.mpr fun h1 => not_ok_of_faults (checkAccess_misaligned h1) hc
  cases scratch
  · have h2 : (failing act (s.refusedAt i acc ea) != 0) = false :=
      Bool.eq_false_iff.mpr fun h2 => not_ok_of_faults (checkAccess_refused h1 h2) hc
    have h3 : (failing act (s.absentAt i acc ea) != 0) = false :=
      Bool.eq_false_iff.mpr fun h3 => not_ok_of_faults (checkAccess_absent h1 h2 h3) hc
    obtain ⟨loc, es, he⟩ := checkAccess_inMemory (align := align) (n := n) h1 h2 h3
    rw [hc] at he
    cases he
    refine ⟨tlbAddAll_eq s es, ?_⟩
    rw [List.map_map]
    exact List.map_id _
  · have h2 : (failing act (s.badScratch i ea) != 0) = false :=
      Bool.eq_false_iff.mpr fun h2 => not_ok_of_faults (checkAccess_badScratch h1 h2) hc
    have h3 : (failing act (s.outOfShare i n ea) != 0) = false :=
      Bool.eq_false_iff.mpr fun h3 => not_ok_of_faults (checkAccess_outOfShare h1 h2 h3) hc
    have he := checkAccess_inScratch (acc := acc) (align := align) (n := n) h1 h2 h3
    rw [hc] at he
    cases he
    refine ⟨⟨s.tlb, rfl⟩, ?_⟩
    rw [List.map_map]
    exact List.map_id _

end

/-! ## A store of one lane (R171) -/

/-- A store enters a thread's store buffer. -/
def ThreadMem.push (m : ThreadMem) (e : StoreEntry) : ThreadMem := { m with sb := m.sb ++ [e], sbNext := m.sbNext + 1 }

/-- Of a hand, a store enters the store buffer of a thread. -/
def Hand.buffer (h : Hand) (t : Nat) (e : StoreEntry) : Hand := { h with mem := putAt 32 default (fun m => m.push e) t h.mem }

theorem buffer_thread (h : Hand) (t : Nat) (e : StoreEntry) {l : Nat} (hl : l < 32) :
    (h.buffer t e).thread l = if l = t then (h.thread l).push e else h.thread l := by
  rw [Hand.thread, Hand.buffer, getD_putAt, if_pos hl]
  rfl

theorem sign_key (h : Hand) (t : Nat) (e : StoreEntry) : (h.sign t e).key = h.key := by
  unfold Hand.sign
  split
  · rfl
  · dsimp only
    split <;> rfl

/-- Of the machine, only one hand differs, and of that hand only what the ordering machine keeps for its threads. -/
structure Buffering (k c : Nat) (s u : State) (h h' : Hand) : Prop where
  within : Within k c s u
  cores : u.cores = s.cores
  hand : u.hand? k = some h'
  only : h' = { h with mem := h'.mem }

section
variable {s : State} {k c : Nat} {h : Hand} (hs : s.hand? k = some h) (hseg : h.seg = none) (hpair : h.pair = 0)
include hs hseg hpair

theorem appendStore_step (c t loc n : Nat) (data : DWord) (rel : Option (BitVec 3)) : Buffering k c s (s.appendStore k t loc n data rel) h
    (h.buffer t (storeEntry loc n data rel (h.thread t).sbNext)) := by
  have hbuf := hand?_updHand_same (f := fun h' => h'.buffer t (storeEntry loc n data rel (h.thread t).sbNext)) (fun _ => rfl) hs
  have hsign := hand?_updHand_same (f := fun h' => h'.sign t (storeEntry loc n data rel (h.thread t).sbNext)) (fun x => sign_key x t _) hbuf
  have hsame : (h.buffer t (storeEntry loc n data rel (h.thread t).sbNext)).sign t (storeEntry loc n data rel (h.thread t).sbNext) =
      h.buffer t (storeEntry loc n data rel (h.thread t).sbNext) := if_pos hpair
  rw [hsame] at hsign
  unfold State.appendStore
  rw [hand_of_hand? hs]
  simp only [hseg]
  exact ⟨(Within.updHand (f := fun h' => h'.buffer t (storeEntry loc n data rel (h.thread t).sbNext)) (fun _ => rfl) k c s).trans
    (Within.updHand (fun x => sign_key x t _) k c _), rfl, hsign, rfl⟩

end

/-! ## The stores of a split, lane by lane -/

/-- The store of a lane. -/
def laneStore (n : Nat) (data : Nat → DWord) (rel : Option (BitVec 3)) (h : Hand) (x : Nat × Nat) : StoreEntry :=
  storeEntry x.2 n (data x.1) rel (h.thread x.1).sbNext

theorem foldl_appendStore_step {k : Nat} (c n : Nat) (data : Nat → DWord) (rel : Option (BitVec 3)) (locs : List (Nat × Nat))
    (hlocs : ∀ x ∈ locs, x.1 < 32) (hnodup : (locs.map Prod.fst).Nodup) {s : State} {h : Hand} (hs : s.hand? k = some h) (hseg : h.seg = none)
    (hpair : h.pair = 0) : ∃ h', Buffering k c s (locs.foldl (fun s x => s.appendStore k x.1 x.2 n (data x.1) rel) s) h h' ∧
      (∀ x ∈ locs, h'.thread x.1 = (h.thread x.1).push (laneStore n data rel h x)) ∧
      ∀ l, l < 32 → l ∉ locs.map Prod.fst → h'.thread l = h.thread l := by
  induction locs generalizing s h with
  | nil => exact ⟨h, ⟨Within.refl k c s, rfl, hs, rfl⟩, fun x hx => absurd hx List.not_mem_nil, fun _ _ _ => rfl⟩
  | cons x xs ih =>
    obtain ⟨hx, hxs⟩ := List.forall_mem_cons.mp hlocs
    rw [List.map_cons, List.nodup_cons] at hnodup
    obtain ⟨hnew, hrest⟩ := hnodup
    have hstep := appendStore_step hs hseg hpair c x.1 x.2 n (data x.1) rel
    obtain ⟨h', hbuf, hin, hout⟩ := ih hxs hrest hstep.hand hseg hpair
    refine ⟨h', ⟨hstep.within.trans hbuf.within, hbuf.cores.trans hstep.cores, hbuf.hand, hbuf.only⟩, ?_, fun l hl hnot => ?_⟩
    · refine List.forall_mem_cons.mpr ⟨?_, fun y hy => ?_⟩
      · rw [hout x.1 hx hnew, buffer_thread h x.1 _ hx, if_pos rfl]
        rfl
      · have hne : y.1 ≠ x.1 := fun e => hnew (e ▸ List.mem_map_of_mem hy)
        have hsame := buffer_thread h x.1 (laneStore n data rel h x) (hxs y hy)
        rw [if_neg hne] at hsame
        refine (hin y hy).trans ?_
        rw [laneStore, laneStore, ← hsame]
        rfl
    · rw [List.map_cons, List.mem_cons, not_or] at hnot
      rw [hout l hl hnot.2, buffer_thread h x.1 _ hl, if_neg hnot.1]

/-! ## The retirement of an instruction that acts outside its hand (R86) -/

/-- Its hand's count of yields starts afresh. -/
def Hand.unyielded (h : Hand) : Hand := { h with yields := 0 }

theorem updHand_updHand (s : State) {k : Nat} {f g : Hand → Hand} (hf : ∀ x, (f x).key = x.key) :
    (s.updHand k f).updHand k g = s.updHand k (fun x => g (f x)) := by
  unfold State.updHand updWhere
  simp only [List.map_map]
  congr 1
  refine List.map_congr_left fun x _ => ?_
  by_cases hx : x.key = k <;> simp [hx, hf]

theorem retire_outside (s : State) (i : SplitIssue) (w : CoreWords) (moved : Lanes) :
    s.retire i w moved true = (s.updHand i.hand Hand.unyielded).retire i w moved false := by
  rw [retire_eq, updHand_updHand s (f := Hand.unyielded) (fun _ => rfl)]
  rfl

/-- What retirement keeps for the threads of a hand: their store buffers, and their views when they join none. -/
theorem takeOwed_sbNext (h : Hand) (lanes : Lanes) (t : Nat) : ((h.takeOwed lanes).thread t).sbNext = (h.thread t).sbNext := by
  by_cases ht : t < h.mem.length
  · have hm : (h.takeOwed lanes).thread t = if lanes.has t then { h.thread t with
        view := h.owed.foldl (fun v j => if j.1 = t then View.join v j.2 else v) (h.thread t).view } else h.thread t := by
      simp [Hand.takeOwed, Hand.thread, ht]
    rw [hm]
    split <;> rfl
  · simp [Hand.takeOwed, Hand.thread, ht]

theorem retired_sbNext (h : Hand) (i : SplitIssue) (w : CoreWords) (moved : Lanes) (t : Nat) :
    ((h.retired i w moved).thread t).sbNext = (h.thread t).sbNext := by
  have hedge : ((h.fallThrough i moved).reachEdge (i.lanes &&& ~~~moved &&& h.live) i.pc).thread t = h.thread t := by
    unfold Hand.reachEdge
    split <;> rfl
  have hpark (x : Hand) : (x.parkAtMarker i w).thread t = x.thread t := by
    unfold Hand.parkAtMarker
    split <;> rfl
  rw [Hand.retired, hpark, ← hedge, Hand.joinOwed]
  split
  · exact takeOwed_sbNext _ _ t
  · rfl

/-! ## `st` and `sts` (R311) -/

/-- The data of a store. -/
def storeData (w : CoreWords) : Operand := if memSize w = 8 then w.pairName w.nameD else w.gName w.nameD

/-- The scope of a release store. -/
def storeScope (w : CoreWords) : Option (BitVec 3) := if ordScope w == 0 then none else some (ordScope w)

theorem storeRows_run : ∀ r ∈ storeRows, ∀ w s, exec (r.2.2 w) s = storeOp r.1 r.2.1 w s := by
  simp only [storeRows, List.forall_mem_cons, List.not_mem_nil, false_implies, implies_true, and_true]
  exact ⟨fun _ _ => rfl, fun _ _ => rfl, fun _ _ => rfl, fun _ _ => rfl⟩

/-- The state in which stores have entered the buffers of their lanes' threads. -/
def State.stored (s : State) (i : SplitIssue) (h : Hand) (w : CoreWords) (locs : List (Nat × Nat)) : State :=
  locs.foldl (fun s x => s.appendStore i.hand x.1 x.2 (memSize w) ((storeData w).val h i.uni x.1) (storeScope w)) s

/-- The body of an instruction that stores has its effect: it retires, and a pair's signatures are compared. -/
theorem execCore_signs {kind : Kind} {body : SplitIssue → Lanes → State → Done} {s s' : State} {i : SplitIssue} {w : CoreWords} (h : Issues s i w)
    (hk : kind.signs = true) (hb : body i (s.acting i w) s = .ok s') :
    execCore kind w s body = .next ((s.finish i w 0 kind.outside s').comparePair i.hand) := by
  rw [execCore_issues h, hb]
  simp only [hk, if_true]

section
variable {s s' : State} {i : SplitIssue} {w : CoreWords} (h : Issues s i w) {scratch hForm : Bool} {locs : List (Nat × Nat)}
  (hpair : (s.hand i.hand).pair = 0) (hseg : (s.hand i.hand).seg = none)
  (hr : Readable s i (s.acting i w) [(memBase scratch hForm w, .move), (w.gB, .move), (storeData w, .move)] []
    (w.lrNames (memBase scratch hForm w) w.gB (.lit 0)))
  (hc : (s.released i (w.lrNames (memBase scratch hForm w) w.gB (.lit 0))).checkAccess i (s.acting i w) scratch .write (memSize w) (memSize w)
    (effAddr scratch w (memBase scratch hForm w) w.gB (s.hand i.hand) i.uni) = .ok (locs, s'))
include h hpair hseg hr hc

/-- The split's stores enter the store buffers, and the instruction retires; no signature is cut in a hand of no pair. -/
theorem storeOp_appends : storeOp scratch hForm w s = .next ((s.finish i w 0 true (s'.stored i (s.hand i.hand) w locs)).comparePair i.hand) := by
  have hspec : s'.specRun (s.hand i.hand) = false := by rw [State.specRun, hseg]
  have hcompare : (s.hand i.hand).beforeCompare i.lanes = false := by rw [Hand.beforeCompare, hpair]; rfl
  refine execCore_signs h rfl (withRegs_ok hr ?_)
  unfold State.stored
  unfold storeData storeScope at *
  simp only [hc, hspec, hcompare, Bool.false_and, Bool.false_eq_true, if_false]

end

/-- What the retirement of an instruction that acts outside its hand keeps for a thread of the hand. -/
theorem unyielded_retired_thread (h : Hand) (i : SplitIssue) (w : CoreWords) (t : Nat) :
    ((h.unyielded.retired i w 0).thread t).sb = (h.thread t).sb ∧ ((h.unyielded.retired i w 0).thread t).sbNext = (h.thread t).sbNext ∧
      (w.sw = false ∨ h.owed = [] → (h.unyielded.retired i w 0).thread t = h.thread t) := by
  obtain ⟨⟨-, hmem, hsb⟩, -, -, -⟩ := namesStay_retired h.unyielded i w 0
  refine ⟨hsb t, retired_sbNext h.unyielded i w 0 t, fun hkeep => ?_⟩
  rw [Hand.thread, (hmem hkeep).1]
  rfl

theorem handsOnly_tlb {s u t : State} {tlb : List TlbEntry} (h1 : HandsOnly s u) (h2 : HandsOnly { u with tlb := tlb } t) :
    t = { s with hands := t.hands, cores := t.cores, cluBanks := t.cluBanks, tlb := tlb } := by
  unfold HandsOnly at h1 h2
  rw [h1] at h2
  exact h2

/-- A store's split retires, once its registers have been released and its stores buffered. -/
theorem stored_finish {s s' : State} {i : SplitIssue} {h : Hand} (hs : s.hand? i.hand = some h) (hrun : RunsOn s i) (hc : h.core = i.core)
    (hseg : h.seg = none) (hpair : h.pair = 0) (w : CoreWords) {lr : List Nat} {tlb : List TlbEntry} (hs' : s' = { s.released i lr with tlb := tlb })
    {locs : List (Nat × Nat)} (hlocs : ∀ x ∈ locs, x.1 < 32) (hnodup : (locs.map Prod.fst).Nodup) :
    let t := (s.finish i w 0 true (s'.stored i h w locs)).comparePair i.hand
    t = { s with hands := t.hands, cores := t.cores, cluBanks := t.cluBanks, tlb := s'.tlb } ∧ OtherHands s t i.hand ∧
      (∀ x, x < 32 → x ∉ locs.map Prod.fst → ((t.hand i.hand).thread x).sb = (h.thread x).sb ∧ ((t.hand i.hand).thread x).sbNext = (h.thread x).sbNext) ∧
      (w.sw = false ∨ h.owed = [] → ∀ x, x < 32 → ((t.hand i.hand).thread x).view = (h.thread x).view) ∧
      ∀ x ∈ locs, ((t.hand i.hand).thread x.1).sb = (h.thread x.1).sb ++ [laneStore (memSize w) (fun t => (storeData w).val h i.uni t) (storeScope w) h x] ∧
        ((t.hand i.hand).thread x.1).sbNext = (h.thread x.1).sbNext + 1 := by
  obtain ⟨x1, hfree, -⟩ := released_step i lr hs hc
  have hregs := hfree.regs
  have hthread (l : Nat) : x1.thread l = h.thread l := by
    rw [hregs]
    rfl
  have hs1 : s'.hand? i.hand = some x1 := (hand?_congr (by rw [hs']) i.hand).trans hfree.hand
  obtain ⟨x2, hbuf, hin, hout⟩ := foldl_appendStore_step i.core (memSize w) (fun t => (storeData w).val h i.uni t) (storeScope w) locs hlocs hnodup hs1
    (by rw [hregs]; exact hseg) (by rw [hregs]; exact hpair)
  have hbuf : Buffering i.hand i.core s' (s'.stored i h w locs) x1 x2 := hbuf
  have honly := hbuf.only
  have hgo : GoesOn h x2.unyielded := by
    rw [honly, hregs]
    exact ⟨rfl, rfl, rfl⟩
  have hx2 := hand?_updHand_same (f := Hand.unyielded) (fun _ => rfl) hbuf.hand
  have hw2 := Within.updHand (f := Hand.unyielded) (fun _ => rfl) i.hand i.core (s'.stored i h w locs)
  obtain ⟨hhalt, hstep, hlive⟩ := RunsOn.runs hs hrun hgo
  have hslots : (((s'.stored i h w locs).updHand i.hand Hand.unyielded).core i.core).slots = (s.core i.core).slots := by
    refine Eq.trans ?_ hfree.slots
    rw [State.core, State.updHand_cores, hbuf.cores, hs', State.core]
  obtain ⟨st, seen, hret, hy⟩ := retire_hand hx2 (RunsOn.plain hrun hslots) hhalt hstep hlive (key_of_hand? hs) w 0
  have hfinish : s.finish i w 0 true (s'.stored i h w locs) =
      (((s'.stored i h w locs).updHand i.hand Hand.unyielded).retire i w 0 false).logDiscards h := by
    rw [State.finish, retire_outside, hand_of_hand? hs]
  have hpair' : ((s.finish i w 0 true (s'.stored i h w locs)).hand i.hand).pair = 0 := by
    obtain ⟨⟨e, -, -⟩, -, -, -⟩ := namesStay_retired x2.unyielded i w 0
    rw [hfinish, hand_of_hand? hy]
    refine Eq.trans (b := (x2.unyielded.retired i w 0).pair) rfl ?_
    rw [e, honly, hregs]
    exact hpair
  have hcompare : (s.finish i w 0 true (s'.stored i h w locs)).comparePair i.hand = s.finish i w 0 true (s'.stored i h w locs) := if_pos hpair'
  have howed : x2.owed = h.owed := by
    rw [honly, hregs]
  dsimp only
  rw [hcompare, hfinish]
  have hframe := hbuf.within.trans (hw2.trans hret)
  have hlast (l : Nat) := unyielded_retired_thread x2 i w l
  rw [hand_of_hand? hy]
  refine ⟨?_, fun j hj => ?_, fun l hl hnot => ?_, fun hkeep l hl => ?_, fun x hx => ?_⟩
  · have honly' := hframe.only
    rw [hs'] at honly' ⊢
    exact handsOnly_tlb hfree.within.only honly'
  · exact (hframe.others j hj).trans ((hand?_congr (by rw [hs']) j).trans (hfree.within.others j hj))
  · obtain ⟨hsb, hnext, -⟩ := hlast l
    rw [hout l hl hnot, hthread] at hsb hnext
    exact ⟨hsb, hnext⟩
  · obtain ⟨-, -, hsame⟩ := hlast l
    have hview := congrArg ThreadMem.view (hsame (howed ▸ hkeep))
    by_cases hmem : l ∈ locs.map Prod.fst
    · obtain ⟨x, hx, rfl⟩ := List.mem_map.mp hmem
      rw [hin x hx, hthread] at hview
      exact hview
    · rw [hout l hl hmem, hthread] at hview
      exact hview
  · obtain ⟨hsb, hnext, -⟩ := hlast x.1
    rw [hin x hx, hthread, laneStore, hthread] at hsb hnext
    exact ⟨hsb, hnext⟩

/-- Settles O24: the lanes' stores are buffered one after the other, and the instruction retires. -/
theorem storesAreBuffered : Obligations.StoresAreBuffered := by
  intro s s' i w locs hi hrun r hr h act a n d lr hpair hseg hread hc
  obtain ⟨x, hs⟩ := Option.isSome_iff_exists.mp hrun.1
  have hx : h = x := hand_of_hand? hs
  have hcore : x.core = i.core := hx ▸ hrun.2.1
  obtain ⟨⟨tlb, hs'⟩, hlanes⟩ := checkAccess_ok hc
  have hlocs : ∀ y ∈ locs, y.1 < 32 := fun y hy => Lanes.lt_of_has (Lanes.mem_list.mp (hlanes ▸ List.mem_map_of_mem hy))
  have hnodup : (locs.map Prod.fst).Nodup := hlanes ▸ (Lanes.pairwise_list act).imp Nat.ne_of_lt
  obtain ⟨hframe, hothers, hidle, hviews, hin⟩ := stored_finish hs hrun hcore (hx ▸ hseg) (hx ▸ hpair) w hs' hlocs hnodup
  have hexec := storeOp_appends hi hpair hseg hread hc
  rw [← storeRows_run r hr] at hexec
  rw [← hx] at hframe hothers hidle hviews hin
  refine ⟨_, hexec, hframe, ?_, ?_, hothers, fun y hy ha => hidle y hy ?_, hviews, hin⟩
  · have hmem := congrArg State.mem hframe
    exact hmem
  · have horders := congrArg State.orders hframe
    exact horders
  · rw [hlanes, Lanes.mem_list, ha]
    exact Bool.false_ne_true

end Sys2Proof.Machine
end

section
/-!
PROOFS. No instruction stops the machine (O57): what is no instruction of a core or of a command processor answers a next state in every branch.
-/
namespace Sys2Proof.Machine

/-- A next state is answered. -/
def Answers (o : Host.Outcome State Fault Refusal) : Prop := ∃ t, o = .next t

theorem answers_next (s : State) : Answers (.next s) := ⟨s, rfl⟩

theorem answers_execStoreDrain (s : State) : Answers (execStoreDrain s) := by
  unfold execStoreDrain
  dsimp only
  repeat' split
  all_goals exact answers_next _

theorem answers_execAtomicopCompletion (s : State) : Answers (execAtomicopCompletion s) := by
  unfold execAtomicopCompletion
  dsimp only
  repeat' split
  all_goals exact answers_next _

theorem answers_execAtomicopTimeout (s : State) : Answers (execAtomicopTimeout s) := by
  unfold execAtomicopTimeout
  dsimp only
  repeat' split
  all_goals exact answers_next _

theorem answers_execRecordCancel (s : State) : Answers (execRecordCancel s) := by
  unfold execRecordCancel
  dsimp only
  repeat' split
  all_goals exact answers_next _

theorem answers_execAnnounceStep (s : State) : Answers (execAnnounceStep s) := by
  unfold execAnnounceStep
  dsimp only
  repeat' split
  all_goals exact answers_next _

theorem answers_execAcqApply (s : State) : Answers (execAcqApply s) := by
  unfold execAcqApply
  dsimp only
  repeat' split
  all_goals exact answers_next _

theorem answers_execRelApply (s : State) : Answers (execRelApply s) := by
  unfold execRelApply
  dsimp only
  repeat' split
  all_goals exact answers_next _

theorem answers_execBindRegister (s : State) : Answers (execBindRegister s) := by
  unfold execBindRegister
  dsimp only
  repeat' split
  all_goals exact answers_next _

theorem answers_execBarArrival (s : State) : Answers (execBarArrival s) := by
  unfold execBarArrival
  dsimp only
  repeat' split
  all_goals exact answers_next _

theorem answers_execAcdrainAdd (s : State) : Answers (execAcdrainAdd s) := by
  unfold execAcdrainAdd
  dsimp only
  repeat' split
  all_goals exact answers_next _

theorem answers_execGmmaSliceDone (s : State) : Answers (execGmmaSliceDone s) := by
  unfold execGmmaSliceDone
  dsimp only
  repeat' split
  all_goals exact answers_next _

theorem answers_execCopyComplete (s : State) : Answers (execCopyComplete s) := by
  unfold execCopyComplete
  dsimp only
  repeat' split
  all_goals exact answers_next _

theorem answers_execWindowFillEnd (s : State) : Answers (execWindowFillEnd s) := by
  unfold execWindowFillEnd
  repeat' split
  all_goals exact answers_next _

theorem answers_execJobComplete (s : State) : Answers (execJobComplete s) := by
  unfold execJobComplete
  dsimp only
  repeat' split
  all_goals exact answers_next _

theorem answers_execResultReturn (s : State) : Answers (execResultReturn s) := by
  unfold execResultReturn
  dsimp only
  repeat' split
  all_goals exact answers_next _

theorem answers_execSpawnEntryArrival (s : State) : Answers (execSpawnEntryArrival s) := by
  unfold execSpawnEntryArrival
  dsimp only
  repeat' split
  all_goals exact answers_next _

theorem answers_execResolutionApply (s : State) : Answers (execResolutionApply s) := by
  unfold execResolutionApply
  dsimp only
  split <;> exact answers_next _

theorem answers_execCommitDrain (s : State) : Answers (execCommitDrain s) := by
  unfold execCommitDrain
  dsimp only
  repeat' split
  all_goals exact answers_next _

theorem answers_execTrapEntry (s : State) : Answers (execTrapEntry s) := by
  unfold execTrapEntry
  dsimp only
  repeat' split
  all_goals exact answers_next _

theorem answers_execBackEdge (s : State) : Answers (execBackEdge s) := by
  unfold execBackEdge
  dsimp only
  split <;> exact answers_next _

theorem answers_execSlotGrant (s : State) : Answers (execSlotGrant s) := by
  unfold execSlotGrant
  dsimp only
  repeat' split
  all_goals exact answers_next _

theorem answers_execQueueCreate (s : State) : Answers (execQueueCreate s) := by
  unfold execQueueCreate
  dsimp only
  repeat' split
  all_goals exact answers_next _

theorem answers_execDoorbell (s : State) : Answers (execDoorbell s) := by
  unfold execDoorbell
  dsimp only
  repeat' split
  all_goals exact answers_next _

theorem answers_execQueueResume (s : State) : Answers (execQueueResume s) := by
  unfold execQueueResume
  dsimp only
  repeat' split
  all_goals exact answers_next _

theorem answers_packetOp (mask : Nat) (w : PacketWords) (s : State) (body : Queue → State → PkEnd) : Answers (packetOp mask w s body) := by
  unfold packetOp
  split <;> exact answers_next _

theorem answers_execNopPacket (w : PacketWords) (s : State) : Answers (execNopPacket w s) := answers_packetOp _ _ _ _

theorem answers_execUnknownPacket (w : PacketWords) (s : State) : Answers (execUnknownPacket w s) := answers_packetOp _ _ _ _

theorem answers_execLaunch (w : PacketWords) (s : State) : Answers (execLaunch w s) := answers_packetOp _ _ _ _

theorem answers_execGraph (w : PacketWords) (s : State) : Answers (execGraph w s) := answers_packetOp _ _ _ _

theorem answers_waitOp (late : Bool) (w : PacketWords) (s : State) : Answers (waitOp late w s) := answers_packetOp _ _ _ _

theorem answers_execWait (w : PacketWords) (s : State) : Answers (execWait w s) := answers_waitOp _ _ _

theorem answers_execSignal (w : PacketWords) (s : State) : Answers (execSignal w s) := answers_packetOp _ _ _ _

theorem answers_execWriteimm (w : PacketWords) (s : State) : Answers (execWriteimm w s) := answers_packetOp _ _ _ _

theorem answers_execCallib (w : PacketWords) (s : State) : Answers (execCallib w s) := answers_packetOp _ _ _ _

theorem answers_execFencePacket (w : PacketWords) (s : State) : Answers (execFencePacket w s) := answers_packetOp _ _ _ _

theorem answers_execWaitRereadExpiry (s : State) : Answers (execWaitRereadExpiry s) := by
  unfold execWaitRereadExpiry
  dsimp only
  split
  · exact answers_next _
  · split
    · exact answers_next _
    · split
      · exact answers_waitOp _ _ _
      · exact answers_next _
      · exact answers_next _

theorem answers_execCompletionWaitExpiry (s : State) : Answers (execCompletionWaitExpiry s) := by
  unfold execCompletionWaitExpiry
  repeat' split
  all_goals exact answers_next _

theorem answers_execLaunchComplete (s : State) : Answers (execLaunchComplete s) := by
  unfold execLaunchComplete
  repeat' split
  all_goals exact answers_next _

theorem answers_execHostWaitRegister (s : State) : Answers (execHostWaitRegister s) := by
  unfold execHostWaitRegister
  dsimp only
  repeat' split
  all_goals exact answers_next _

theorem answers_execHostWaitWithdraw (s : State) : Answers (execHostWaitWithdraw s) := by
  unfold execHostWaitWithdraw
  dsimp only
  split <;> exact answers_next _

theorem answers_execSpillComplete (s : State) : Answers (execSpillComplete s) := by
  unfold execSpillComplete
  dsimp only
  repeat' split
  all_goals exact answers_next _

theorem answers_execRefillComplete (s : State) : Answers (execRefillComplete s) := by
  unfold execRefillComplete
  dsimp only
  split <;> exact answers_next _

theorem answers_execPlacement (s : State) : Answers (execPlacement s) := by
  unfold execPlacement
  dsimp only
  repeat' split
  all_goals exact answers_next _

theorem answers_execSlotArbitration (s : State) : Answers (execSlotArbitration s) := by
  unfold execSlotArbitration
  dsimp only
  repeat' split
  all_goals exact answers_next _

theorem answers_execDeal (s : State) : Answers (execDeal s) := by
  unfold execDeal
  dsimp only
  repeat' split
  all_goals exact answers_next _

theorem answers_execLaneRetire (s : State) : Answers (execLaneRetire s) := by
  unfold execLaneRetire
  dsimp only
  split <;> exact answers_next _

theorem answers_execLaneRebuild (s : State) : Answers (execLaneRebuild s) := by
  unfold execLaneRebuild
  dsimp only
  repeat' split
  all_goals exact answers_next _

theorem answers_execAck (p : Nat) (seq : BitVec 24) (s : State) : Answers (execAck p seq s) := by
  unfold execAck
  split <;> exact answers_next _

theorem answers_execReplay (p : Nat) (seq : BitVec 24) (s : State) : Answers (execReplay p seq s) := by
  unfold execReplay
  repeat' split
  all_goals exact answers_next _

theorem answers_execCredit (p : Nat) (freed : BitVec 16) (s : State) : Answers (execCredit p freed s) := by
  unfold execCredit
  split <;> exact answers_next _

theorem answers_execFlitChkMismatch (s : State) : Answers (execFlitChkMismatch s) := by
  unfold execFlitChkMismatch
  dsimp only
  split <;> exact answers_next _

theorem answers_execFlitUnlistedKind (s : State) : Answers (execFlitUnlistedKind s) := by
  unfold execFlitUnlistedKind
  dsimp only
  split <;> exact answers_next _

theorem answers_execAckTimer (s : State) : Answers (execAckTimer s) := by
  unfold execAckTimer
  dsimp only
  split <;> exact answers_next _

theorem answers_execRequestTimeout (s : State) : Answers (execRequestTimeout s) := by
  unfold execRequestTimeout
  split <;> exact answers_next _

theorem answers_execPortRetrain (s : State) : Answers (execPortRetrain s) := by
  unfold execPortRetrain
  dsimp only
  repeat' split
  all_goals exact answers_next _

theorem answers_execRd (p : Nat) (m : PeerMsg) (s : State) : Answers (execRd p m s) := by
  unfold execRd
  split
  · exact answers_next _
  · dsimp only
    split
    · exact answers_next _
    · split
      · exact answers_next _
      · split <;> exact answers_next _

theorem answers_execWr (p : Nat) (m : PeerMsg) (s : State) : Answers (execWr p m s) := by
  unfold execWr
  split
  · exact answers_next _
  · dsimp only
    split <;> exact answers_next _

theorem answers_execPeerStep (p : Nat) (m : PeerMsg) (s : State) : Answers (execPeerStep p m s) := by
  unfold execPeerStep
  split
  · exact answers_next _
  · dsimp only
    split
    · exact answers_next _
    · split
      · split <;> exact answers_next _
      · split <;> exact answers_next _
      · exact answers_next _
      · split <;> exact answers_next _
      · exact answers_next _
      · exact answers_next _
      · exact answers_next _
      · exact answers_next _

theorem answers_execCell (p : Nat) (m : PeerMsg) (s : State) : Answers (execCell p m s) := by
  unfold execCell
  split
  · exact answers_next _
  · dsimp only
    split
    · exact answers_next _
    · split <;> exact answers_next _

theorem answers_execRdr (p : Nat) (m : PeerMsg) (s : State) : Answers (execRdr p m s) := by
  unfold execRdr
  split
  · exact answers_next _
  · dsimp only
    split
    · exact answers_next _
    · split
      · split <;> exact answers_next _
      · split
        · exact answers_next _
        · exact answers_next _
        · exact answers_next _
        · exact answers_next _
        · split <;> exact answers_next _
        · exact answers_next _

theorem answers_execWra (p : Nat) (m : PeerMsg) (s : State) : Answers (execWra p m s) := by
  unfold execWra
  split
  · exact answers_next _
  · dsimp only
    split
    · exact answers_next _
    · split <;> exact answers_next _

theorem answers_execStepa (p : Nat) (m : PeerMsg) (s : State) : Answers (execStepa p m s) := by
  unfold execStepa
  split
  · exact answers_next _
  · dsimp only
    split
    · exact answers_next _
    · split <;> exact answers_next _

theorem answers_execCella (p : Nat) (m : PeerMsg) (s : State) : Answers (execCella p m s) := by
  unfold execCella
  split
  · exact answers_next _
  · dsimp only
    split
    · exact answers_next _
    · split
      · split <;> exact answers_next _
      · exact answers_next _

theorem answers_execPageService (s : State) : Answers (execPageService s) := by
  unfold execPageService
  dsimp only
  repeat' split
  all_goals exact answers_next _

theorem answers_execPartitionReset (s : State) : Answers (execPartitionReset s) := by
  unfold execPartitionReset
  dsimp only
  split <;> exact answers_next _

theorem answers_execOwlExpiry (s : State) : Answers (execOwlExpiry s) := by
  unfold execOwlExpiry
  dsimp only
  repeat' split
  all_goals exact answers_next _

theorem answers_execFlrVf (s : State) : Answers (execFlrVf s) := by
  unfold execFlrVf
  dsimp only
  split <;> exact answers_next _

theorem answers_execThermalThrottle (s : State) : Answers (execThermalThrottle s) := by
  unfold execThermalThrottle
  split <;> exact answers_next _

theorem answers_execWarmReset (s : State) : Answers (execWarmReset s) := by
  unfold execWarmReset
  repeat' split
  all_goals exact answers_next _

theorem answers_execDebugUnlock (s : State) : Answers (execDebugUnlock s) := by
  unfold execDebugUnlock
  split <;> exact answers_next _

theorem answers_execColdStart (s : State) : Answers (execColdStart s) := by
  unfold execColdStart
  split
  · exact answers_next _
  · dsimp only
    split
    · exact answers_next _
    · split <;> exact answers_next _

theorem answers_execThermalTrip (s : State) : Answers (execThermalTrip s) := by
  unfold execThermalTrip
  split <;> exact answers_next _

theorem answers_execEolUpdate (s : State) : Answers (execEolUpdate s) := by
  unfold execEolUpdate
  dsimp only
  split <;> exact answers_next _

theorem answers_execHostLinkTrain (s : State) : Answers (execHostLinkTrain s) := by
  unfold execHostLinkTrain
  split <;> exact answers_next _

theorem answers_execHostLoss (s : State) : Answers (execHostLoss s) := by
  unfold execHostLoss
  split <;> exact answers_next _

theorem answers_hostChoice (cmd : BitVec 8) (replay : Bool) (s : State) : Answers (hostChoice cmd replay s) := by
  unfold hostChoice
  dsimp only
  repeat' split
  all_goals exact answers_next _

theorem answers_execHostLossReplay (s : State) : Answers (execHostLossReplay s) := answers_hostChoice _ _ _

theorem answers_execHostLossDrop (s : State) : Answers (execHostLossDrop s) := answers_hostChoice _ _ _

theorem answers_execQuiescePartitions (s : State) : Answers (execQuiescePartitions s) := by
  unfold execQuiescePartitions
  split <;> exact answers_next _

theorem answers_execHostMemoryWrite (s : State) : Answers (execHostMemoryWrite s) := by
  unfold execHostMemoryWrite
  dsimp only
  repeat' split
  all_goals exact answers_next _

theorem answers_execImageUpdate (s : State) : Answers (execImageUpdate s) := by
  unfold execImageUpdate
  dsimp only
  split <;> exact answers_next _

theorem answers_execCkpt (w : PacketWords) (s : State) : Answers (execCkpt w s) := answers_packetOp _ _ _ _

theorem answers_execCkptCopyComplete (s : State) : Answers (execCkptCopyComplete s) := by
  unfold execCkptCopyComplete
  repeat' split
  all_goals exact answers_next _

theorem answers_execCkptRestore (w : PacketWords) (s : State) : Answers (execCkptRestore w s) := answers_packetOp _ _ _ _

theorem answers_execCkptRestoreComplete (s : State) : Answers (execCkptRestoreComplete s) := by
  unfold execCkptRestoreComplete
  repeat' split
  all_goals exact answers_next _

theorem answers_execPartitionCommit (s : State) : Answers (execPartitionCommit s) := by
  unfold execPartitionCommit
  dsimp only
  split <;> exact answers_next _

theorem answers_execBindingWrite (s : State) : Answers (execBindingWrite s) := by
  unfold execBindingWrite
  dsimp only
  split <;> exact answers_next _

theorem answers_execTbaseWrite (s : State) : Answers (execTbaseWrite s) := by
  unfold execTbaseWrite
  split <;> exact answers_next _

theorem answers_execTlbInvalidate (s : State) : Answers (execTlbInvalidate s) := by
  unfold execTlbInvalidate
  split <;> exact answers_next _

theorem answers_execInvalidateComplete (s : State) : Answers (execInvalidateComplete s) := by
  unfold execInvalidateComplete
  split <;> exact answers_next _

theorem answers_execErrorBankClear (s : State) : Answers (execErrorBankClear s) := by
  unfold execErrorBankClear
  split <;> exact answers_next _

theorem answers_execRegisterWrite (s : State) : Answers (execRegisterWrite s) := by
  unfold execRegisterWrite
  dsimp only
  split
  · exact answers_next _
  · split
    · exact answers_next _
    · split
      · exact answers_next _
      · split
        · exact answers_next _
        · split
          · exact answers_next _
          · split
            · exact answers_next _
            · split
              · exact answers_next _
              · split <;> exact answers_next _

theorem answers_debugCommand (cmd : BitVec 8) (f : Hand → State → State) (s : State) : Answers (debugCommand cmd f s) := by
  unfold debugCommand
  repeat' split
  all_goals exact answers_next _

theorem answers_haltedCommand (cmd : BitVec 8) (f : Hand → State → State) (s : State) : Answers (haltedCommand cmd f s) := 
    answers_debugCommand _ _ _

theorem answers_execDebugHalt (s : State) : Answers (execDebugHalt s) := answers_debugCommand _ _ _

theorem answers_execDebugRead (s : State) : Answers (execDebugRead s) := answers_haltedCommand _ _ _

theorem answers_execDebugWrite (s : State) : Answers (execDebugWrite s) := answers_haltedCommand _ _ _

theorem answers_resumeHand (cmd : BitVec 8) (step : Bool) (s : State) : Answers (resumeHand cmd step s) := answers_haltedCommand _ _ _

theorem answers_execDebugResume (s : State) : Answers (execDebugResume s) := answers_resumeHand _ _ _

theorem answers_execDebugStep (s : State) : Answers (execDebugStep s) := answers_resumeHand _ _ _

theorem answers_execFinalise (s : State) : Answers (execFinalise s) := by
  unfold execFinalise
  dsimp only
  split
  · exact answers_next _
  · split
    · exact answers_next _
    · split
      · exact answers_next _
      · split
        · exact answers_next _
        · split
          · exact answers_next _
          · split
            · exact answers_next _
            · split
              · exact answers_next _
              · split <;> exact answers_next _

/-- A packet, a flit or a step of the table answers. -/
theorem answers_exec {i : Instr} (core : i.core = none) (word : ∀ code word0, i ≠ .encodingNotInstruction code word0)
    (cp : ∀ w, i ∉ [Instr.dvRfetch w, .dvBfx w, .dvSwait w, .dvDisp w]) (s : State) : Answers (exec i s) := by
  cases i with
  | ack port seq => exact answers_execAck port seq s
  | replay port seq => exact answers_execReplay port seq s
  | credit port freed => exact answers_execCredit port freed s
  | rd port m => exact answers_execRd port m s
  | rdr port m => exact answers_execRdr port m s
  | wr port m => exact answers_execWr port m s
  | wra port m => exact answers_execWra port m s
  | peerStep port m => exact answers_execPeerStep port m s
  | stepa port m => exact answers_execStepa port m s
  | cell port m => exact answers_execCell port m s
  | cella port m => exact answers_execCella port m s
  | nopPacket w => exact answers_execNopPacket w s
  | launch w => exact answers_execLaunch w s
  | graph w => exact answers_execGraph w s
  | wait w => exact answers_execWait w s
  | signal w => exact answers_execSignal w s
  | callib w => exact answers_execCallib w s
  | fencePacket w => exact answers_execFencePacket w s
  | writeimm w => exact answers_execWriteimm w s
  | ckpt w => exact answers_execCkpt w s
  | ckptRestore w => exact answers_execCkptRestore w s
  | unknownPacket w => exact answers_execUnknownPacket w s
  | dvRfetch w => exact absurd (by simp) (cp w)
  | dvBfx w => exact absurd (by simp) (cp w)
  | dvSwait w => exact absurd (by simp) (cp w)
  | dvDisp w => exact absurd (by simp) (cp w)
  | encodingNotInstruction code word0 => exact absurd rfl (word code word0)
  | coldStart => exact answers_execColdStart s
  | warmReset => exact answers_execWarmReset s
  | flrVf => exact answers_execFlrVf s
  | flrPf => exact answers_next _
  | partitionReset => exact answers_execPartitionReset s
  | dutyWindow => exact answers_next _
  | thermalThrottle => exact answers_execThermalThrottle s
  | thermalTrip => exact answers_execThermalTrip s
  | eolUpdate => exact answers_execEolUpdate s
  | hostLinkTrain => exact answers_execHostLinkTrain s
  | portRetrain => exact answers_execPortRetrain s
  | flitChkMismatch => exact answers_execFlitChkMismatch s
  | flitUnlistedKind => exact answers_execFlitUnlistedKind s
  | ackTimer => exact answers_execAckTimer s
  | requestTimeout => exact answers_execRequestTimeout s
  | queueCreate => exact answers_execQueueCreate s
  | doorbell => exact answers_execDoorbell s
  | queueResume => exact answers_execQueueResume s
  | slotGrant => exact answers_execSlotGrant s
  | waitRereadExpiry => exact answers_execWaitRereadExpiry s
  | completionWaitExpiry => exact answers_execCompletionWaitExpiry s
  | launchComplete => exact answers_execLaunchComplete s
  | hostWaitRegister => exact answers_execHostWaitRegister s
  | hostWaitWithdraw => exact answers_execHostWaitWithdraw s
  | atomicopCompletion => exact answers_execAtomicopCompletion s
  | atomicopTimeout => exact answers_execAtomicopTimeout s
  | hostLoss => exact answers_execHostLoss s
  | hostMemoryWrite => exact answers_execHostMemoryWrite s
  | ckptCopyComplete => exact answers_execCkptCopyComplete s
  | ckptRestoreComplete => exact answers_execCkptRestoreComplete s
  | tbaseWrite => exact answers_execTbaseWrite s
  | tlbInvalidate => exact answers_execTlbInvalidate s
  | invalidateComplete => exact answers_execInvalidateComplete s
  | partitionCommit => exact answers_execPartitionCommit s
  | bindingWrite => exact answers_execBindingWrite s
  | errorBankClear => exact answers_execErrorBankClear s
  | registerWrite => exact answers_execRegisterWrite s
  | debugHalt => exact answers_execDebugHalt s
  | debugRead => exact answers_execDebugRead s
  | debugWrite => exact answers_execDebugWrite s
  | debugResume => exact answers_execDebugResume s
  | debugStep => exact answers_execDebugStep s
  | finalise => exact answers_execFinalise s
  | hostLossStatus => exact answers_next _
  | hostLossReplay => exact answers_execHostLossReplay s
  | hostLossDrop => exact answers_execHostLossDrop s
  | spdmSession => exact answers_next _
  | quiescePartitions => exact answers_execQuiescePartitions s
  | getMeasurements => exact answers_next _
  | imageUpdate => exact answers_execImageUpdate s
  | glitchDetect => exact answers_next _
  | tamperBreak => exact answers_next _
  | debugUnlock => exact answers_execDebugUnlock s
  | placement => exact answers_execPlacement s
  | slotArbitration => exact answers_execSlotArbitration s
  | resultReturn => exact answers_execResultReturn s
  | spillComplete => exact answers_execSpillComplete s
  | refillComplete => exact answers_execRefillComplete s
  | owlExpiry => exact answers_execOwlExpiry s
  | spawnEntryArrival => exact answers_execSpawnEntryArrival s
  | deal => exact answers_execDeal s
  | resolutionApply => exact answers_execResolutionApply s
  | commitDrain => exact answers_execCommitDrain s
  | backEdge => exact answers_execBackEdge s
  | laneRetire => exact answers_execLaneRetire s
  | laneRebuild => exact answers_execLaneRebuild s
  | pageService => exact answers_execPageService s
  | storeDrain => exact answers_execStoreDrain s
  | relApply => exact answers_execRelApply s
  | acqApply => exact answers_execAcqApply s
  | bindRegister => exact answers_execBindRegister s
  | announceStep => exact answers_execAnnounceStep s
  | barArrival => exact answers_execBarArrival s
  | recordCancel => exact answers_execRecordCancel s
  | copyComplete => exact answers_execCopyComplete s
  | windowFillEnd => exact answers_execWindowFillEnd s
  | jobComplete => exact answers_execJobComplete s
  | gmmaSliceDone => exact answers_execGmmaSliceDone s
  | acdrainAdd => exact answers_execAcdrainAdd s
  | trapEntry => exact answers_execTrapEntry s
  | lossOfModulePower => exact answers_next _
  | hostCompletionTimeOut => exact answers_next _
  | _ => cases core

/-- An instruction of a core answers whenever a split issues it. -/
theorem answers_exec_of_split {i : Instr} {opc : Nat} {w : CoreWords} {s : State} {j : SplitIssue} (core : i.core = some (opc, w))
    (cur : s.cur = some (.split j)) : Answers (exec i s) := by
  obtain ⟨edge, acts, h⟩ := exec_guarded core s j
  rw [withSplit_of_cur cur] at h
  exact ⟨_, h⟩

theorem answers_execEncodingNotInstruction {code : BitVec 8} {word0 : Word} {s : State} {j : SplitIssue} (cur : s.cur = some (.split j)) :
    Answers (execEncodingNotInstruction code word0 s) := by
  unfold execEncodingNotInstruction
  rw [cur]
  exact answers_next _

theorem answers_execCp {w : DvWord} {s : State} {body : Nat → DWord → DWord → State → CpEnd} {n : Nat} (cur : s.cur = some (.cp n)) :
    Answers (execCp w s body) := by
  unfold execCp
  rw [cur]
  dsimp only
  split <;> exact answers_next _

theorem answers_exec_of_cp {i : Instr} {w : DvWord} {s : State} {n : Nat} (cur : s.cur = some (.cp n))
    (h : i ∈ [Instr.dvRfetch w, .dvBfx w, .dvSwait w, .dvDisp w]) : Answers (exec i s) := by
  simp only [List.mem_cons, List.not_mem_nil, or_false] at h
  obtain rfl | rfl | rfl | rfl := h
  · exact (answers_execCp cur : Answers (execDvRfetch w s))
  · exact (answers_execCp cur : Answers (execDvBfx w s))
  · exact (answers_execCp cur : Answers (execDvSwait w s))
  · exact (answers_execCp cur : Answers (execDvDisp w s))

/-- Settles O57: the guards of `execCore` and of `execCp` let an issuer through, and no other instruction has a branch that refuses. -/
theorem instructionsAnswer : Obligations.InstructionsAnswer := by
  unfold Obligations.InstructionsAnswer
  intro i s
  refine ⟨?_, ?_, ?_, fun core word cp => answers_exec core word cp s, fun f => nomatch f⟩
  · rintro ⟨⟨opc, w⟩, j, core, cur⟩
    exact answers_exec_of_split core cur
  · rintro ⟨code, word0, j, rfl, cur⟩
    exact answers_execEncodingNotInstruction cur
  · rintro ⟨w, n, cur, h⟩
    exact answers_exec_of_cp cur h

end Sys2Proof.Machine
end

section
/-!
PROOFS. The canonical form of memory as a property of what a function of the model answers (O58): one predicate for each type of answer, and the
rules for the shapes that definitions have: a choice, a fold, an option, an error. The lemma of a function follows its branches and cites those of
the functions it calls; where a branch ends in an update of fields, `dsimp only [Canon]` leaves the state whose memory it keeps.
-/
namespace Sys2Proof.Machine

/-- The canonical form of a state's memory. -/
def Canon (s : State) : Prop := Memory.wf s.mem = true

/-- A next state has the form. -/
def OutCanon : Host.Outcome State Fault Refusal → Prop
  | .next t => Canon t
  | _ => True

/-- The state that a core instruction leaves has the form, however it ends. -/
def Done.Canon : Done → Prop
  | .ok s | .moved s _ | .trap s _ | .stall s | .kill s => Machine.Canon s
  | .edge => True

/-- The state that a step of an announcement leaves. -/
def StepOut.Canon : StepOut → Prop
  | .answered s _ | .full s | .page s _ _ | .remote s => Machine.Canon s

/-- The state that a turn of a held addition leaves. -/
def AddTurn.Canon : AddTurn → Prop
  | .go s | .wait s | .lost s => Machine.Canon s

/-- The state that a circular buffer's operation leaves, when it acts. -/
def CbOut.Canon : CbOut → Prop
  | .fault | .wait => True
  | .value s _ _ => Machine.Canon s

/-- The state that a fetch leaves, when it finds its word. -/
def Fetch.Canon : Fetch → Prop
  | .ok _ s => Machine.Canon s
  | .fault _ _ => True

/-- The state in which a turn has its instruction executed, or ends. -/
def Prepared.Canon : Prepared → Prop
  | .run _ s | .done s => Machine.Canon s

/-- The state that a dispatch leaves. -/
def Disp.Canon : Disp → Prop
  | .fault s | .asked s | .full s | .ok _ s => Machine.Canon s
  | .page _ _ _ => True

/-- The state that tile work leaves. -/
def TileOut.Canon : TileOut → Prop
  | .ok s _ _ _ | .kill s _ _ => Machine.Canon s

/-- The state that a packet leaves, however it ends. -/
def PkEnd.Canon : PkEnd → Prop
  | .done s | .push s _ | .fault s _ | .hold s _ | .wait s _ | .page s _ _ _ | .retry s => Machine.Canon s

/-- The state that the placing of a descriptor's word leaves. -/
def McasWord.Canon : McasWord → Prop
  | .ok _ _ _ s => Machine.Canon s
  | .prot | .page _ => True

/-- One predicate of what an error carries, one of what a value is. -/
def Both {ε α : Type} (P : ε → Prop) (Q : α → Prop) : Except ε α → Prop
  | .error e => P e
  | .ok a => Q a

theorem some_canon {o : Option State} {s : State} (h : o.elim True Canon) (e : o = some s) : Canon s := by
  subst e
  exact h

theorem some_fst_canon {α : Type} {o : Option (State × α)} {s : State} {a : α} (h : o.elim True (fun x => Canon x.1))
    (e : o = some (s, a)) : Canon s := by
  subst e
  exact h

theorem some_snd_canon {α : Type} {o : Option (α × State)} {s : State} {a : α} (h : o.elim True (fun x => Canon x.2))
    (e : o = some (a, s)) : Canon s := by
  subst e
  exact h

theorem error_canon {α β : Type} {P : α → Prop} {o : Except (State × β) α} {s : State} {b : β} (h : Both (fun x => Canon x.1) P o)
    (e : o = .error (s, b)) : Canon s := by
  subst e
  exact h

theorem ok_canon {ε : Type} {P : ε → Prop} {o : Except ε State} {s : State} (h : Both P Canon o) (e : o = .ok s) : Canon s := by
  subst e
  exact h

theorem ok_snd_canon {ε α : Type} {P : ε → Prop} {o : Except ε (α × State)} {a : α} {s : State} (h : Both P (fun x => Canon x.2) o)
    (e : o = .ok (a, s)) : Canon s := by
  subst e
  exact h

theorem ok_snd_snd_canon {ε α β : Type} {P : ε → Prop} {o : Except ε (α × β × State)} {a : α} {b : β} {s : State}
    (h : Both P (fun x => Canon x.2.2) o) (e : o = .ok (a, b, s)) : Canon s := by
  subst e
  exact h

theorem fst_canon {α : Type} {x : State × α} {s : State} {a : α} (h : Canon x.1) (e : x = (s, a)) : Canon s := by
  subst e
  exact h

theorem snd_canon {α : Type} {x : α × State} {s : State} {a : α} (h : Canon x.2) (e : x = (a, s)) : Canon s := by
  subst e
  exact h

theorem ite_canon {c : Prop} {_ : Decidable c} {a b : State} (ha : Canon a) (hb : Canon b) : Canon (if c then a else b) := by
  split <;> assumption

theorem foldl_canon {α : Type} {f : State → α → State} (hf : ∀ s a, Canon s → Canon (f s a)) {l : List α} {s : State} (hs : Canon s) :
    Canon (l.foldl f s) := foldl_wf f hf l hs

theorem foldl_option_canon {α : Type} {f : Option State → α → Option State}
    (hf : ∀ o a, o.elim True Canon → (f o a).elim True Canon) {l : List α} {o : Option State} (ho : o.elim True Canon) :
    (l.foldl f o).elim True Canon := by
  induction l generalizing o with
  | nil => exact ho
  | cons a l ih => exact ih (hf o a ho)

theorem foldl_fst_canon {α β : Type} {f : State × β → α → State × β} (hf : ∀ x a, Canon x.1 → Canon (f x a).1) {l : List α}
    {x : State × β} (hx : Canon x.1) : Canon (l.foldl f x).1 := by
  induction l generalizing x with
  | nil => exact hx
  | cons a l ih => exact ih (hf x a hx)

theorem foldl_snd_canon {α β : Type} {f : β × State → α → β × State} (hf : ∀ x a, Canon x.2 → Canon (f x a).2) {l : List α}
    {x : β × State} (hx : Canon x.2) : Canon (l.foldl f x).2 := by
  induction l generalizing x with
  | nil => exact hx
  | cons a l ih => exact ih (hf x a hx)

theorem map_canon {β : Type} {P : β → Prop} {f : State → β} {o : Option State} (ho : o.elim True Canon) (hf : ∀ s, Canon s → P (f s)) :
    (o.map f).elim True P := by
  cases o with
  | none => trivial
  | some s => exact hf s ho

theorem map_snd_canon {α β : Type} {P : β → Prop} {f : α × State → β} {o : Option (α × State)}
    (ho : o.elim True (fun x => Canon x.2)) (hf : ∀ a s, Canon s → P (f (a, s))) : (o.map f).elim True P := by
  cases o with
  | none => trivial
  | some x => exact hf x.1 x.2 ho

theorem map_any {α β : Type} {P : β → Prop} {f : α → β} {o : Option α} (hf : ∀ a, P (f a)) : (o.map f).elim True P := by
  cases o with
  | none => trivial
  | some a => exact hf a

theorem bind_canon {β : Type} {P : β → Prop} {f : State → Option β} {o : Option State} (ho : o.elim True Canon)
    (hf : ∀ s, Canon s → (f s).elim True P) : (o.bind f).elim True P := by
  cases o with
  | none => trivial
  | some s => exact hf s ho

theorem findSome_canon {α β : Type} {P : β → Prop} {f : α → Option β} {l : List α} (hf : ∀ a, (f a).elim True P) :
    (l.findSome? f).elim True P := by
  cases h : l.findSome? f with
  | none => trivial
  | some b =>
    obtain ⟨a, _, ha⟩ := List.exists_of_findSome?_eq_some h
    exact ha.subst (motive := fun o => o.elim True P) (hf a)

theorem exceptMap_canon {ε : Type} {f : State → State} {o : Except ε State} (ho : Both (fun _ => True) Canon o)
    (hf : ∀ s, Canon s → Canon (f s)) : Both (fun _ => True) Canon (o.map f) := by
  cases o with
  | error e => trivial
  | ok s => exact hf s ho

theorem exceptMap_any {ε α β : Type} {P : ε → Prop} {Q : α → Prop} {f : α → β} {o : Except ε α} (ho : Both P Q o) :
    Both P (fun _ => True) (o.map f) := by
  cases o with
  | error e => exact ho
  | ok a => trivial

theorem getD_canon {o : Option State} {s : State} (ho : o.elim True Canon) (hs : Canon s) : Canon (o.getD s) := by
  cases o with
  | none => exact hs
  | some t => exact ho

end Sys2Proof.Machine
end

section
/-!
PROOFS. The canonical form of memory is kept (O58). Registers, hands and windows.
-/
namespace Sys2Proof.Machine

theorem appendWrite_canon {s : State} {w : Nat} {mask : BitVec 8} {data : DWord} {msg : View} {scope : BitVec 3} {writer : Party}
    (hs : Canon s) : Canon (s.appendWrite w mask data msg scope writer) := appendWrite_wf _ _ _ _ _ _ hs

theorem markBad_canon {s : State} {w : Nat} (hs : Canon s) : Canon (s.markBad w) := hs

theorem markCopied_canon {s : State} {w : Nat} (hs : Canon s) : Canon (s.markCopied w) := hs

theorem writeBytes_canon {s : State} {a : Nat} {bs : List (BitVec 8)} {writer : Party} (hs : Canon s) : Canon
    (s.writeBytes a bs writer) := writeBytes_wf _ _ _ hs

theorem tlbAdd_canon {s : State} {e : TlbEntry} (hs : Canon s) : Canon (s.tlbAdd e) := hs

theorem requestPage_canon {s : State} {sender : Nat} {asid : BitVec 16} {va : DWord} {home entry : Nat} (hs : Canon s) :
    Canon (s.requestPage sender asid va home entry) := ite_canon hs hs

theorem setHand_canon {s : State} {h : Hand} (hs : Canon s) : Canon (s.setHand h) := by
  unfold Canon at *
  simpa using hs

theorem updHand_canon {s : State} {k : Nat} {f : Hand → Hand} (hs : Canon s) : Canon (s.updHand k f) := by
  unfold Canon at *
  simpa using hs

theorem updCore_canon {s : State} {c : Nat} {f : Core → Core} (hs : Canon s) : Canon (s.updCore c f) := by
  unfold Canon at *
  simpa using hs

theorem updSlot_canon {s : State} {c k : Nat} {f : Slot → Slot} (hs : Canon s) : Canon (s.updSlot c k f) := by
  unfold Canon at *
  simpa using hs

theorem updCluster_canon {s : State} {c : Nat} {f : Cluster → Cluster} (hs : Canon s) : Canon (s.updCluster c f) := by
  unfold Canon at *
  simpa using hs

theorem updDie_canon {s : State} {d : Nat} {f : Die → Die} (hs : Canon s) : Canon (s.updDie d f) := by
  unfold Canon at *
  simpa using hs

theorem updPart_canon {s : State} {p : Nat} {f : Part → Part} (hs : Canon s) : Canon (s.updPart p f) := by
  unfold Canon at *
  simpa using hs

theorem updLaunch_canon {s : State} {l : Word} {f : Launch → Launch} (hs : Canon s) : Canon (s.updLaunch l f) := by
  unfold Canon at *
  simpa using hs

theorem cross_canon {s : State} {a b loc : Nat} (hs : Canon s) : Canon (s.cross a b loc) := by
  unfold Canon at *
  simpa using hs

theorem crossHome_canon {s : State} {a loc : Nat} (hs : Canon s) : Canon (s.crossHome a loc) := by
  unfold Canon at *
  simpa using hs

theorem allocFresh_canon {s : State} {k : Nat} {d : Dst} (hs : Canon s) : Canon (s.allocFresh k d) := by
  unfold State.allocFresh
  dsimp only
  split
  · split
    · split
      · exact hs
      · exact updHand_canon (updCore_canon hs)
    · exact updHand_canon (updCore_canon hs)
  · exact hs

theorem writeDst_canon {s : State} {k : Nat} {d : Dst} {lanes : Lanes} {f : Nat → Word} {bad : Lanes} {tag : BitVec 4} {full : Bool}
    (hs : Canon s) : Canon (s.writeDst k d lanes f bad tag full) := ite_canon (updHand_canon (updCore_canon hs)) (updHand_canon hs)

theorem writePlace_canon {s : State} {k : Nat} {full : Bool} {f : Nat → Word} {tag : BitVec 4} {p : Dst × Lanes} (hs : Canon s) :
    Canon (s.writePlace k full f tag p) := updHand_canon (writeDst_canon hs)

theorem writeG_canon {s : State} {k n : Nat} {lanes : Lanes} {f : Nat → Word} {tag : BitVec 4} (hs : Canon s) :
    Canon (s.writeG k n lanes f tag) := foldl_canon (fun _ _ hs1 => writePlace_canon hs1) hs

theorem writeH_canon {s : State} {k n : Nat} {v : DWord} {tag : BitVec 4} (hs : Canon s) : Canon (s.writeH k n v tag) := updHand_canon hs

theorem writeQ_canon {s : State} {k n : Nat} {lanes : Lanes} {f : Nat → Bool} (hs : Canon s) : Canon (s.writeQ k n lanes f) :=
  updHand_canon hs

theorem releasePhys_canon {s : State} {core : Nat} {l : Loc} (hs : Canon s) : Canon (s.releasePhys core l) := by
  unfold State.releasePhys
  split
  · exact updCore_canon hs
  · exact hs

theorem freeName_canon {s : State} {k : Nat} {d : Dst} (hs : Canon s) : Canon (s.freeName k d) := by
  unfold State.freeName
  split
  · dsimp only
    split
    · exact hs
    · exact updHand_canon (releasePhys_canon hs)
  · exact hs

theorem freeWindows_canon {s : State} {k d : Nat} (hs : Canon s) : Canon (s.freeWindows k d) :=
  foldl_canon (fun _ _ hs1 => freeName_canon hs1) hs

theorem updSeg_canon {s : State} {p : Nat × Nat} {f : Seg → Seg} (hs : Canon s) : Canon (s.updSeg p f) := updDie_canon hs

theorem freeSeg_canon {s : State} {p : Nat × Nat} (hs : Canon s) : Canon (s.freeSeg p) := updDie_canon hs

theorem orphan_canon {s : State} {p : Nat × Nat} (hs : Canon s) : Canon (s.orphan p) := by
  unfold State.orphan
  split <;> exact hs

theorem refresh_canon {s : State} (hs : Canon s) : Canon s.refresh := hs

theorem wakeStores_canon {s : State} {k : Nat} (hs : Canon s) : Canon (s.wakeStores k) := updHand_canon hs

theorem endDrains_canon {fuel : Nat} {s : State} (hs : Canon s) : Canon (s.endDrains fuel) := by
  induction fuel generalizing s with
  | zero => exact hs
  | succ n ih =>
    unfold State.endDrains
    split
    · exact hs
    · refine ih ?_
      split
      · exact freeSeg_canon hs
      · dsimp only
        split
        · exact wakeStores_canon (updSeg_canon hs)
        · exact updSeg_canon hs

theorem confirm_canon {s : State} {p : Nat × Nat} (hs : Canon s) : Canon (s.confirm p) := by
  unfold State.confirm
  split
  · exact hs
  · dsimp only
    split
    · exact updSeg_canon hs
    · exact updSeg_canon hs
    · exact updSeg_canon hs
    · exact updSeg_canon hs
    · exact updSeg_canon hs
    · exact hs

theorem settleSegs_canon {fuel : Nat} {s : State} (hs : Canon s) : Canon (s.settleSegs fuel) := by
  induction fuel generalizing s with
  | zero => exact hs
  | succ n ih =>
    unfold State.settleSegs
    dsimp only
    split
    · refine endDrains_canon ?_
      refine foldl_canon ?_ (refresh_canon hs)
      intro _ _ hs1
      split
      · exact ite_canon (confirm_canon hs1) hs1
      · exact hs1
    · refine ih ?_
      refine endDrains_canon ?_
      refine foldl_canon ?_ (refresh_canon hs)
      intro _ _ hs1
      split
      · exact ite_canon (confirm_canon hs1) hs1
      · exact hs1

theorem settle_canon {s : State} (hs : Canon s) : Canon s.settle := ite_canon hs (settleSegs_canon hs)

theorem areaWrite_canon {h : Hand} {off : Nat} {bs : List (BitVec 8)} {s : State} (hs : Canon s) : Canon (s.areaWrite h off bs) :=
  areaWrite_wf _ _ _ hs

theorem spillEntry_canon {s : State} {k : Nat} {win : Option Nat} {name : Nat} (hs : Canon s) : Canon (s.spillEntry k win name) := by
  unfold State.spillEntry
  extract_lets h
  split
  · exact hs
  · split
    · exact updHand_canon (releasePhys_canon (areaWrite_canon hs))
    · exact hs

theorem refillEntry_canon {s : State} {k : Nat} {win : Option Nat} {name : Nat} (hs : Canon s) : Canon (s.refillEntry k win name) := by
  unfold State.refillEntry
  dsimp only
  split
  · exact hs
  · split
    · exact hs
    · exact updHand_canon (updCore_canon hs)

theorem writeCtx_canon {s : State} {k : Nat} {halt : Bool} (hs : Canon s) : Canon (s.writeCtx k halt) := areaWrite_canon hs

theorem putHeader_canon {s : State} {h : Hand} {lo width v : Nat} (hs : Canon s) : Canon (s.putHeader h lo width v) := by
  unfold State.putHeader
  split
  · exact areaWrite_canon hs
  · exact hs

theorem patchArea_canon {h : Hand} {off : Nat} {as bs : List (BitVec 8)} {s : State} (hs : Canon s) : Canon (s.patchArea h off as bs) := by
  induction as generalizing s off bs with
  | nil =>
    unfold State.patchArea
    exact hs
  | cons a as ih =>
    cases bs with
    | nil =>
      unfold State.patchArea
      exact hs
    | cons b bs =>
      unfold State.patchArea
      refine ih ?_
      split
      · exact hs
      · split
        · exact writeBytes_canon hs
        · exact hs

theorem reload_canon {s : State} {k : Nat} (hs : Canon s) : Canon (s.reload k) := by
  unfold State.reload
  split
  · split
    · exact setHand_canon hs
    · exact hs
  · exact hs

theorem patchCtx_canon {s : State} {before : Hand} (hs : Canon s) : Canon (s.patchCtx before) :=
  ite_canon (patchArea_canon hs) (ite_canon (patchArea_canon hs) hs)

theorem updSaved_canon {s : State} {k : Nat} {f : Hand → Hand} (hs : Canon s) : Canon (s.updSaved k f) :=
  patchCtx_canon (updHand_canon (reload_canon hs))

theorem magpie_canon {s : State} {d unit : Nat} {code : BitVec 8} {detail : List Nat} (hs : Canon s) :
    Canon (s.magpie d unit code detail) := updDie_canon hs

theorem logUE_canon {s : State} {loc : Nat} (hs : Canon s) : Canon (s.logUE loc) := by
  unfold Canon at *
  simpa using hs

theorem updCluBank_canon {s : State} {c : Nat} {f : Bank → Bank} (hs : Canon s) : Canon (s.updCluBank c f) := hs

theorem readErrs_canon {s : State} {c : Nat} {err soft : Nat} (hs : Canon s) : Canon (s.readErrs c err soft) :=
  foldl_canon (fun _ _ hs1 => magpie_canon (updCluBank_canon hs1)) (ite_canon hs (updCluBank_canon hs))

theorem upset_canon {s : State} {k : Nat} {d : Dst} {lane : Nat} {hard : Bool} (hs : Canon s) : Canon (s.upset k d lane hard) :=
  updHand_canon hs

theorem spill_canon {s : State} {k : Nat} {win : Option Nat} {name : Nat} (hs : Canon s) : Canon (s.spill k win name) := by
  unfold State.spill
  dsimp only
  split
  · exact hs
  · exact spillEntry_canon (readErrs_canon hs)

theorem spillAll_canon {s : State} {k : Nat} (hs : Canon s) : Canon (s.spillAll k) := foldl_canon (fun _ _ hs1 => spill_canon hs1) hs

theorem logDiscards_canon {s : State} {h : Hand} (hs : Canon s) : Canon (s.logDiscards h) := by
  unfold State.logDiscards
  split
  · exact hs
  · dsimp only
    split
    · split
      · dsimp only [Canon]
        show Canon _
        exact updHand_canon hs
      · exact updHand_canon hs
    · split
      · dsimp only [Canon]
        show Canon _
        exact updHand_canon hs
      · exact updHand_canon hs

theorem readPoison_canon {s : State} {k : Nat} {name : BitVec 16} {lanes : Lanes} (hs : Canon s) : Canon (s.readPoison k name lanes) :=
  updHand_canon hs

theorem updGroup_canon {s : State} {lid : Word} {g : Nat} {f : Group → Group} (hs : Canon s) : Canon (s.updGroup lid g f) :=
  updLaunch_canon hs

theorem barCheck_canon {s : State} {lid : Word} {gi : Nat} (hs : Canon s) : Canon (s.barCheck lid gi) := ite_canon (updGroup_canon hs) hs

theorem barCheckAll_canon {s : State} {h : Hand} (hs : Canon s) : Canon (s.barCheckAll h) :=
  foldl_canon (fun _ _ hs1 => barCheck_canon hs1) hs

theorem releaseAllocs_canon {s : State} {h : Hand} (hs : Canon s) : Canon (s.releaseAllocs h) := hs

theorem freePlace_canon {s : State} {k : Nat} (hs : Canon s) : Canon (s.freePlace k) := updCore_canon hs

theorem dropRegs_canon {s : State} {k : Nat} (hs : Canon s) : Canon (s.dropRegs k) := updHand_canon (updCore_canon hs)

theorem unwait_canon {s : State} {k : Nat} (hs : Canon s) : Canon (s.unwait k) := hs

theorem gangDone_canon {s : State} {k : Nat} (hs : Canon s) : Canon (s.gangDone k) :=
  ite_canon hs (foldl_canon (fun _ _ hs1 => updSaved_canon hs1) hs)

theorem putFields_canon {s : State} {r : Retained} {fs : List (Nat × List (BitVec 8))} (hs : Canon s) : Canon (s.putFields r fs) := by
  unfold State.putFields
  split
  · exact foldl_canon (fun _ _ hs1 => writeBytes_canon hs1) hs
  · exact hs

theorem setRetain_canon {s : State} {r : Retained} (hs : Canon s) : Canon (s.setRetain r) := by
  unfold State.setRetain
  show Canon _
  dsimp only [Canon]
  show Canon _
  exact putFields_canon hs

theorem takeBlock_canon {s : State} {part : Nat} {r : Retained} (hs : Canon s) : Canon (s.takeBlock part r) := by
  unfold State.takeBlock
  show Canon _
  dsimp only [Canon]
  show Canon _
  exact putFields_canon (foldl_canon (fun _ _ hs1 => writeBytes_canon hs1) hs)

theorem updNode_canon {s : State} {d i : Nat} {f : Node → Node} (hs : Canon s) : Canon (s.updNode d i f) := updDie_canon hs

theorem markGroups_canon {s : State} {lid : Word} (hs : Canon s) : Canon (s.markGroups lid) := by
  unfold State.markGroups
  split
  · exact hs
  · split
    · exact hs
    · exact updNode_canon hs

theorem handDone_canon {s : State} {k : Nat} (hs : Canon s) : Canon (s.handDone k) := by
  unfold State.handDone
  dsimp only
  split
  · dsimp only [Canon]
    show Canon _
    exact markGroups_canon (barCheckAll_canon (releaseAllocs_canon (gangDone_canon (updHand_canon (freePlace_canon (dropRegs_canon hs))))))
  · split
    · dsimp only [Canon]
      show Canon _
      exact markGroups_canon (barCheckAll_canon (releaseAllocs_canon (gangDone_canon (updHand_canon (freePlace_canon (dropRegs_canon hs))))))
    · split
      · refine updSeg_canon ?_
        dsimp only [Canon]
        show Canon _
        exact markGroups_canon (barCheckAll_canon (releaseAllocs_canon (gangDone_canon (updHand_canon (freePlace_canon (dropRegs_canon hs))))))
      · split
        · dsimp only [Canon]
          show Canon _
          exact markGroups_canon (barCheckAll_canon (releaseAllocs_canon (gangDone_canon (updHand_canon (freePlace_canon (dropRegs_canon hs))))))
        · refine settle_canon ?_
          refine freeSeg_canon ?_
          dsimp only [Canon]
          show Canon _
          exact markGroups_canon (barCheckAll_canon (releaseAllocs_canon (gangDone_canon (updHand_canon (freePlace_canon (dropRegs_canon hs))))))

theorem swapOut_canon {s : State} {k : Nat} {st : HandState} (hs : Canon s) : Canon (s.swapOut k st) :=
  updHand_canon (freePlace_canon (ite_canon (updCore_canon (writeCtx_canon (updHand_canon hs))) (writeCtx_canon (updHand_canon hs))))

theorem report_canon {s : State} {h : Hand} {fail : Bool} {code : BitVec 8} {pc : DWord} (hs : Canon s) :
    Canon (s.report h fail code pc) := markGroups_canon (updLaunch_canon hs)

theorem updThread_canon {s : State} {k t : Nat} {f : ThreadMem → ThreadMem} (hs : Canon s) : Canon (s.updThread k t f) := by
  unfold Canon at *
  simpa using hs

theorem startForks_canon {s : State} {k : Nat} (hs : Canon s) : Canon (s.startForks k) := hs

theorem freeTileParks_canon {s : State} (hs : Canon s) : Canon s.freeTileParks := hs

theorem dropWork_canon {s : State} {c id : Nat} (hs : Canon s) : Canon (s.dropWork c id) := freeTileParks_canon (updCore_canon hs)

theorem addWork_canon {s : State} {c : Nat} {x : TileWork} (hs : Canon s) : Canon (s.addWork c x) := updCore_canon hs

theorem kick_canon {fuel c : Nat} {s : State} (hs : Canon s) : Canon (State.kick fuel s c) := by
  induction fuel generalizing s with
  | zero => exact hs
  | succ n ih =>
    unfold State.kick
    dsimp only
    split
    · exact hs
    · refine ih ?_
      refine dropWork_canon ?_
      split
      · exact updCore_canon hs
      · exact foldl_canon (fun _ _ hs1 => updHand_canon hs1) hs
      · exact hs

theorem kickCores_canon {s : State} (hs : Canon s) : Canon s.kickCores := foldl_canon (fun _ _ hs1 => kick_canon hs1) hs

theorem killMember_canon {s : State} {k : Nat} (hs : Canon s) : Canon (s.killMember k) := by
  unfold State.killMember
  show Canon _
  dsimp only [Canon]
  show Canon _
  refine kickCores_canon ?_
  refine freeTileParks_canon ?_
  dsimp only [Canon]
  show Canon _
  exact logDiscards_canon (startForks_canon (updHand_canon (unwait_canon (freePlace_canon (dropRegs_canon hs)))))

theorem sweepRecs_canon {s : State} (hs : Canon s) : Canon s.sweepRecs := hs

theorem recreate_canon {s : State} {k : Nat} (hs : Canon s) : Canon (s.recreate k) := by
  unfold State.recreate
  show Canon _
  dsimp only [Canon]
  show Canon _
  split
  · exact updSeg_canon (setRetain_canon hs)
  · exact setRetain_canon hs

theorem killGang_canon {s : State} {k : Nat} {code : BitVec 8} {pc? : Option DWord} {reset : Bool} (hs : Canon s) :
    Canon (s.killGang k code pc? reset) := by
  unfold State.killGang
  dsimp only
  split
  · exact hs
  · split
    · dsimp only [Canon]
      show Canon _
      split
      · exact settle_canon (updSeg_canon (orphan_canon (killMember_canon (ite_canon hs (magpie_canon hs)))))
      · exact killMember_canon (ite_canon hs (magpie_canon hs))
    · split
      · split
        · refine foldl_canon (fun _ _ hs1 => magpie_canon hs1) ?_
          refine magpie_canon ?_
          refine sweepRecs_canon ?_
          refine foldl_canon (fun _ _ hs1 => recreate_canon hs1) ?_
          refine foldl_canon (fun _ _ hs1 => recreate_canon hs1) ?_
          refine foldl_canon ?_ (foldl_canon (fun _ _ hs1 => releaseAllocs_canon (killMember_canon hs1)) (foldl_canon
              (fun _ _ hs1 => killMember_canon hs1) hs))
          intro _ _ hs1
          split
          · exact settle_canon (orphan_canon (releaseAllocs_canon hs1))
          · exact releaseAllocs_canon hs1
        · dsimp only [Canon]
          show Canon _
          refine foldl_canon (fun _ _ hs1 => barCheckAll_canon hs1) ?_
          refine foldl_canon (fun _ _ hs1 => report_canon hs1) ?_
          refine foldl_canon ?_ (foldl_canon (fun _ _ hs1 => releaseAllocs_canon (killMember_canon hs1)) (foldl_canon
              (fun _ _ hs1 => killMember_canon hs1) hs))
          intro _ _ hs1
          split
          · exact settle_canon (orphan_canon (releaseAllocs_canon hs1))
          · exact releaseAllocs_canon hs1
      · split
        · refine foldl_canon (fun _ _ hs1 => magpie_canon hs1) ?_
          refine magpie_canon ?_
          refine sweepRecs_canon ?_
          refine foldl_canon (fun _ _ hs1 => recreate_canon hs1) ?_
          refine foldl_canon (fun _ _ hs1 => recreate_canon hs1) ?_
          refine foldl_canon ?_ (foldl_canon (fun _ _ hs1 => releaseAllocs_canon (killMember_canon hs1)) (foldl_canon
              (fun _ _ hs1 => killMember_canon hs1) (foldl_canon (fun _ _ hs1 => magpie_canon hs1) (magpie_canon hs))))
          intro _ _ hs1
          split
          · exact settle_canon (orphan_canon (releaseAllocs_canon hs1))
          · exact releaseAllocs_canon hs1
        · dsimp only [Canon]
          show Canon _
          refine foldl_canon (fun _ _ hs1 => barCheckAll_canon hs1) ?_
          refine foldl_canon (fun _ _ hs1 => report_canon hs1) ?_
          refine foldl_canon ?_ (foldl_canon (fun _ _ hs1 => releaseAllocs_canon (killMember_canon hs1)) (foldl_canon
              (fun _ _ hs1 => killMember_canon hs1) (foldl_canon (fun _ _ hs1 => magpie_canon hs1) (magpie_canon hs))))
          intro _ _ hs1
          split
          · exact settle_canon (orphan_canon (releaseAllocs_canon hs1))
          · exact releaseAllocs_canon hs1

theorem compareSigs_canon {fuel k : Nat} {s : State} (hs : Canon s) : Canon (State.compareSigs fuel s k) := by
  induction fuel generalizing s k with
  | zero => exact hs
  | succ n ih =>
    unfold State.compareSigs
    dsimp only
    split
    · exact hs
    · split
      · exact ite_canon (ih (updHand_canon (updHand_canon hs))) (killGang_canon hs)
      · exact hs

theorem comparePair_canon {s : State} {k : Nat} (hs : Canon s) : Canon (s.comparePair k) := ite_canon hs (compareSigs_canon hs)

theorem atCompare_canon {s : State} {k : Nat} {lanes : Lanes} (hs : Canon s) : Canon (s.atCompare k lanes) :=
  updHand_canon (comparePair_canon (updHand_canon hs))

theorem takeOwn_canon {s : State} {k id : Nat} {kind : Option Nat} {lanes : List Nat} {fs : List Forward} (hs : Canon s) :
    Canon (s.takeOwn k id kind lanes fs) :=
  ite_canon (updHand_canon (foldl_canon (fun _ _ hs1 => updHand_canon hs1) hs)) (foldl_canon (fun _ _ hs1 => updHand_canon hs1) hs)

theorem dropForwards_canon {s : State} {h : Hand} {keys : List (Nat × Nat)} (hs : Canon s) : Canon (s.dropForwards h keys) := by
  unfold State.dropForwards
  split
  · exact hs
  · exact updHand_canon hs

theorem endRun_canon {s : State} {c k : Nat} {swapAt : State → Nat → State} (hs : Canon s)
    (hswapAt : ∀ s b, Canon s → Canon (swapAt s b)) : Canon (s.endRun c k swapAt) := by
  unfold State.endRun
  dsimp only
  split
  · exact hs
  · split
    · exact updSlot_canon hs
    · split
      · exact swapOut_canon (updHand_canon (unwait_canon (updSlot_canon hs)))
      · split
        · exact updHand_canon (updSlot_canon hs)
        · exact hswapAt _ _ (updHand_canon (updSlot_canon hs))
        · exact updHand_canon (updSlot_canon hs)

theorem takeScratch_canon {s : State} {c : Nat} {lid : Word} {name size : Nat} (hs : Canon s) :
    (s.takeScratch c lid name size).elim True Canon := map_any (fun _ => updCore_canon hs)

theorem allocFor_canon {s : State} {h : Hand} {c : Nat} (hs : Canon s) : (s.allocFor h c).elim True Canon := by
  unfold State.allocFor
  dsimp only
  split
  · split
    · split
      · exact trivial
      · refine foldl_option_canon ?_ ?_
        · intro _ _ hs1
          refine bind_canon hs1 ?_
          intro _ hs2
          split
          · exact hs2
          · exact takeScratch_canon hs2
        · split
          · split
            · exact hs
            · exact takeScratch_canon hs
          · exact hs
    · split
      · exact trivial
      · refine foldl_option_canon ?_ ?_
        · intro _ _ hs1
          refine bind_canon hs1 ?_
          intro _ hs2
          split
          · exact hs2
          · exact takeScratch_canon hs2
        · split
          · split
            · exact hs
            · exact takeScratch_canon hs
          · exact hs
  · split
    · split
      · exact trivial
      · refine foldl_option_canon ?_ ?_
        · intro _ _ hs1
          refine bind_canon hs1 ?_
          intro _ hs2
          split
          · exact hs2
          · exact takeScratch_canon hs2
        · split
          · split
            · exact hs
            · exact takeScratch_canon hs
          · exact hs
    · split
      · exact trivial
      · refine foldl_option_canon ?_ ?_
        · intro _ _ hs1
          refine bind_canon hs1 ?_
          intro _ hs2
          split
          · exact hs2
          · exact takeScratch_canon hs2
        · split
          · split
            · exact hs
            · exact takeScratch_canon hs
          · exact hs

theorem allocItem_canon {s : State} {keys : List Nat} {c : Nat} (hs : Canon s) : (s.allocItem keys c).elim True Canon :=
  foldl_option_canon (fun _ _ hs1 => bind_canon hs1 (fun _ hs2 => allocFor_canon hs2)) hs

theorem fitItem_canon {s : State} {keys : List Nat} (hs : Canon s) : (s.fitItem keys).elim True (fun x => Canon x.2) :=
  findSome_canon (fun _ => map_canon (allocItem_canon hs) (fun _ hs1 => hs1))

theorem yieldSwap_canon {s : State} {k : Nat} (hs : Canon s) : Canon (s.yieldSwap k) := by
  unfold State.yieldSwap
  dsimp only
  split
  · exact hs
  · exact foldl_canon (fun _ _ hs1 => swapOut_canon hs1) hs

theorem finishCycle_canon {s : State} {c k : Nat} (hs : Canon s) : Canon (s.finishCycle c k) := by
  unfold State.finishCycle
  dsimp only
  split
  · exact ite_canon hs (ite_canon (handDone_canon hs) (ite_canon (endRun_canon hs (fun _ _ hs1 => yieldSwap_canon hs1)) hs))
  · exact hs

theorem effectEdge_canon {s : State} {hk : Nat} (hs : Canon s) : Canon (s.effectEdge hk) := by
  unfold State.effectEdge
  split
  · exact hs
  · exact updSeg_canon (swapOut_canon hs)

theorem raise_canon {s : State} {i : SplitIssue} {t : TrapInfo} (hs : Canon s) : Canon (s.raise i t) := by
  unfold State.raise
  dsimp only
  split
  · exact hs
  · split
    · exact effectEdge_canon hs
    · split
      · refine updHand_canon ?_
        split
        · exact requestPage_canon hs
        · exact hs
      · exact ite_canon (killGang_canon hs) (ite_canon (killGang_canon hs) (updSlot_canon (updHand_canon hs)))

theorem ownWindow_canon {s : State} {c k hk : Nat} (hs : Canon s) : Canon (s.ownWindow c k hk) := updCore_canon hs

theorem claimWindow_canon {s : State} {c k hk : Nat} {load : Bool} (hs : Canon s) : Canon (s.claimWindow c k hk load) := by
  unfold State.claimWindow
  split
  · exact ownWindow_canon hs
  · split
    · exact hs
    · refine updHand_canon ?_
      refine ownWindow_canon ?_
      split
      · exact ite_canon (areaWrite_canon (areaWrite_canon hs)) (areaWrite_canon hs)
      · exact ite_canon (areaWrite_canon hs) hs

theorem takeTrap_canon {s : State} {c k hk : Nat} {t : TrapInfo} (hs : Canon s) : Canon (s.takeTrap c k hk t) :=
  ite_canon (endRun_canon (updHand_canon (claimWindow_canon (updHand_canon hs))) (fun _ _ hs1 => hs1)) (claimWindow_canon (updHand_canon hs))

theorem addOutst_canon {s : State} {k : Nat} {lanes : Lanes} {work : Work} {dsts : List OutDst} {back : Lanes} {flags : BitVec 5}
    (hs : Canon s) : Canon (s.addOutst k lanes work dsts back flags) := updHand_canon (foldl_canon (fun _ _ hs1 => allocFresh_canon hs1) hs)

theorem commitDst_canon {s : State} {k : Nat} {back : Lanes} {full : Bool} {d : OutDst} (hs : Canon s) :
    Canon (s.commitDst k back full d) := by
  unfold State.commitDst
  dsimp only
  split
  · exact ite_canon hs (writeDst_canon hs)
  · exact ite_canon hs (writeDst_canon hs)
  · split
    · exact hs
    · exact ite_canon hs (updHand_canon hs)
  · exact updHand_canon hs
  · split
    · exact hs
    · exact ite_canon hs (updHand_canon hs)
  · split
    · exact hs
    · exact ite_canon hs (updHand_canon hs)

theorem returnResult_canon {s : State} {k id : Nat} (hs : Canon s) : Canon (s.returnResult k id) := by
  unfold State.returnResult
  exact patchCtx_canon (logDiscards_canon (updHand_canon (foldl_canon (fun _ _ hs1 => ite_canon hs1 (foldl_canon
      (fun _ _ hs2 => commitDst_canon hs2) hs1)) (updHand_canon (reload_canon hs)))))

theorem updOutst_canon {s : State} {k id : Nat} {f : Outst → Outst} (hs : Canon s) : Canon (s.updOutst k id f) := by
  unfold Canon at *
  simpa using hs

theorem returnIfDone_canon {s : State} {k id : Nat} (hs : Canon s) : Canon (s.returnIfDone k id) := by
  unfold State.returnIfDone
  split
  · exact ite_canon (returnResult_canon hs) hs
  · exact hs

theorem deliverResult_canon {s : State} {k id : Nat} (hs : Canon s) : Canon (s.deliverResult k id) := returnIfDone_canon (updOutst_canon hs)

theorem sentAnswer_canon {i : SplitIssue} {act : Lanes} {dsts : List Dst} {act? : State → List OutDst × State} {s : State}
    (hs : Canon s) (hact? : ∀ s, Canon s → Canon (act? s).2) : (s.sentAnswer i act dsts act?).Canon := by
  unfold State.sentAnswer
  split
  · exact addOutst_canon hs
  · dsimp only
    exact addOutst_canon (hact? _ hs)

theorem waitSquirrel_canon {s : State} {k : Nat} {lanes : Lanes} {j : SquirrelJob} (hs : Canon s) : Canon (s.waitSquirrel k lanes j) :=
  updHand_canon hs

theorem countIssue_canon {s : State} {i : SplitIssue} {rb : Bool} {retires : Bool} (hs : Canon s) : Canon (s.countIssue i rb retires) :=
  ite_canon (updCore_canon (updSlot_canon hs)) (updSlot_canon hs)

theorem retire_canon {s : State} {i : SplitIssue} {w : CoreWords} {moved : Lanes} {outside : Bool} (hs : Canon s) :
    Canon (s.retire i w moved outside) := finishCycle_canon (countIssue_canon (updHand_canon hs))

theorem execCore_canon {kind : Kind} {w : CoreWords} {s : State} {body : SplitIssue → Lanes → State → Done} (hs : Canon s)
    (hbody : ∀ i act s, Canon s → (body i act s).Canon) : OutCanon (execCore kind w s body) := by
  unfold execCore
  split
  · next i _ =>
    show Canon _
    refine ite_canon ?_ (ite_canon ?_ (ite_canon ?_ ?_))
    · exact retire_canon hs
    · exact finishCycle_canon (effectEdge_canon hs)
    · exact finishCycle_canon (countIssue_canon (atCompare_canon hs))
    · have h := hbody i (i.active (s.hand i.hand) w) s hs
      generalize body i (i.active (s.hand i.hand) w) s = o at h ⊢
      cases o with
      | ok t =>
        change Canon t at h
        dsimp only
        exact ite_canon (comparePair_canon (logDiscards_canon (retire_canon h))) (logDiscards_canon (retire_canon h))
      | moved t m =>
        change Canon t at h
        dsimp only
        exact logDiscards_canon (retire_canon h)
      | trap t x =>
        change Canon t at h
        dsimp only
        exact finishCycle_canon (raise_canon (countIssue_canon (ite_canon (readPoison_canon (ite_canon hs h)) (ite_canon hs h))))
      | stall t =>
        change Canon t at h
        dsimp only
        exact finishCycle_canon (countIssue_canon h)
      | kill t =>
        change Canon t at h
        dsimp only
        exact finishCycle_canon (killGang_canon (countIssue_canon h))
      | edge => dsimp only
                exact finishCycle_canon (effectEdge_canon hs)
  · trivial

theorem freeNames_canon {s : State} {i : SplitIssue} {lanes : Lanes} {names : List Nat} (hs : Canon s) :
    Canon (s.freeNames i lanes names) := ite_canon hs (foldl_canon (fun _ _ hs1 => foldl_canon (fun _ _ hs2 => freeName_canon hs2) hs1) hs)

theorem countCorrections_canon {s : State} {c k : Nat} {lanes : Lanes} (hs : Canon s) : Canon (s.countCorrections c k lanes) := by
  unfold State.countCorrections
  show Canon _
  dsimp only [Canon]
  show Canon _
  exact updSlot_canon hs

theorem scan_canon {s : State} {i : SplitIssue} {rs : List (Dst × Lanes)} (hs : Canon s) : Canon (s.scan i rs).2 := by
  unfold State.scan
  dsimp only
  split
  · exact hs
  · refine foldl_snd_canon ?_ hs
    intro _ _ hs1
    refine updHand_canon ?_
    split
    · exact readErrs_canon hs1
    · exact countCorrections_canon (readErrs_canon hs1)

theorem withRegs_canon {i : SplitIssue} {act : Lanes} {s : State} {ops : List (Operand × Check)} {dsts lr : List Nat}
    {effect : Hand → State → Done} (hs : Canon s) (heffect : ∀ a s, Canon s → (effect a s).Canon) :
    (withRegs i act s ops dsts lr effect).Canon := by
  unfold withRegs
  dsimp only
  split
  · exact hs
  · split
    · exact waitSquirrel_canon hs
    · exact hs
    · split
      next e2 => exact snd_canon (scan_canon hs) e2
      next e2 =>
        split
        · split
          next e4 => exact e4.subst (motive := Done.Canon) (heffect _ _ (snd_canon (scan_canon hs) e2))
          · exact snd_canon (scan_canon hs) e2
        · exact heffect _ _ (ite_canon (snd_canon (scan_canon hs) e2) (freeNames_canon (snd_canon (scan_canon hs) e2)))

theorem writeD_canon {s : State} {i : SplitIssue} {w : CoreWords} {act : Lanes} {f : Nat → Word} {tag : BitVec 4} (hs : Canon s) :
    Canon (s.writeD i w act f tag) := ite_canon hs (writeG_canon hs)

theorem writeDTags_canon {s : State} {i : SplitIssue} {w : CoreWords} {act : Lanes} {f : Nat → Word} {tag : Nat → BitVec 4}
    (hs : Canon s) : Canon (s.writeDTags i w act f tag) := ite_canon hs (foldl_canon (fun _ _ hs1 => writePlace_canon hs1) hs)

theorem writePairD_canon {s : State} {i : SplitIssue} {w : CoreWords} {act : Lanes} {f : Nat → DWord} {tag : BitVec 4} (hs : Canon s) :
    Canon (s.writePairD i w act f tag) := ite_canon hs (writeG_canon (writeG_canon hs))

theorem writeQD_canon {s : State} {i : SplitIssue} {w : CoreWords} {act : Lanes} {f : Nat → Bool} (hs : Canon s) :
    Canon (s.writeQD i w act f) := writeQ_canon hs

end Sys2Proof.Machine
end

section
/-!
PROOFS. The canonical form of memory is kept (O58). Accesses, the peers' memory and the results of instructions.
-/
namespace Sys2Proof.Machine

theorem fetchWord_canon {s : State} {who : Nat} {asid : BitVec 16} {pc va : DWord} (hs : Canon s) : (s.fetchWord who asid pc va).Canon := by
  unfold State.fetchWord
  dsimp only
  split
  · exact tlbAdd_canon hs
  · exact trivial
  · exact trivial

theorem fetchWords_canon {who : Nat} {asid : BitVec 16} {pc va : DWord} {n : Nat} {s : State} {acc : List Word} (hs : Canon s) :
    Both (fun _ => True) (fun x => Canon x.2) (State.fetchWords who asid pc n va s acc) := by
  induction n generalizing s va acc with
  | zero => exact hs
  | succ n ih =>
    unfold State.fetchWords
    split
    next e => exact ih (e.subst (motive := Fetch.Canon) (fetchWord_canon hs))
    · exact trivial

theorem hostAnswered_canon {s : State} (hs : Canon s) : Canon s.hostAnswered := hs

theorem hostRead_canon {s : State} {loc : Nat} (hs : Canon s) : Canon (s.hostRead loc) := by
  unfold Canon at *
  simpa using hs

theorem dropHostWrite_canon {s : State} (hs : Canon s) : Canon s.dropHostWrite := magpie_canon hs

theorem putWord_canon {s : State} {w : Nat} {mask : BitVec 8} {data : DWord} {msg : View} {scope : BitVec 3} {writer : Party}
    {owner : Owner} (hs : Canon s) : Canon (s.putWord w mask data msg scope writer owner) := putWord_wf _ _ _ _ _ _ _ hs

theorem putBytes_canon {s : State} {a : Nat} {bs : List (BitVec 8)} {writer : Party} (hs : Canon s) : Canon
    (s.putBytes a bs writer) := putBytes_wf _ _ _ hs

theorem writeBlock_canon {s : State} {base : Nat} {mask : BitVec 64} {data : BitVec 512} {msg : View} {scope : BitVec 3}
    (hs : Canon s) : Canon (s.writeBlock base mask data msg scope) := foldl_canon (fun _ _ hs1 => ite_canon hs1 (putWord_canon hs1)) hs

theorem hostWrite_canon {s : State} {base : Nat} {x : HostWrite} (hs : Canon s) : Canon (s.hostWrite base x) := by
  unfold State.hostWrite
  show Canon _
  dsimp only [Canon]
  show Canon _
  exact writeBlock_canon hs

theorem peerWrite_canon {s : State} {dev base : Nat} {mask : BitVec 64} {data : BitVec 512} (hs : Canon s) :
    Canon (s.peerWrite dev base mask data) := by
  unfold State.peerWrite
  show Canon _
  dsimp only [Canon]
  show Canon _
  exact writeBlock_canon hs

theorem hostAcquire_canon {s : State} {loc : Nat} (hs : Canon s) : Canon (s.hostAcquire loc) := hs

theorem put64_canon {s : State} {a : Nat} {v : DWord} {writer : Party} (hs : Canon s) : Canon (s.put64 a v writer) := putBytes_canon hs

theorem registerWaiter_canon {s : State} {asid : BitVec 16} {key : DWord} {f : WakeEntry → WakeEntry} (hs : Canon s) :
    (s.registerWaiter asid key f).elim True Canon := by
  unfold State.registerWaiter
  split
  · exact hs
  · split
    · exact trivial
    · exact hs

theorem withdrawWaiter_canon {s : State} {asid : BitVec 16} {key : DWord} {f : WakeEntry → WakeEntry} (hs : Canon s) :
    Canon (s.withdrawWaiter asid key f) := hs

theorem updQueue_canon {s : State} {q : Nat × Nat} {f : Queue → Queue} (hs : Canon s) : Canon (s.updQueue q f) := by
  unfold Canon at *
  simpa using hs

theorem qPut_canon {s : State} {q : Queue} {byte v n : Nat} (hs : Canon s) : Canon (s.qPut q byte v n) := writeBytes_canon hs

theorem qPutState_canon {s : State} {q : Queue} {st : Nat} (hs : Canon s) : Canon (s.qPutState q st) := qPut_canon hs

theorem qWake_canon {s : State} {k : Nat × Nat} (hs : Canon s) : Canon (s.qWake k) := by
  unfold State.qWake
  split
  · exact hs
  · exact ite_canon (qPutState_canon (updQueue_canon hs)) (updQueue_canon hs)

theorem wakeHand_canon {s : State} {k : Nat} (hs : Canon s) : Canon (s.wakeHand k) := by
  unfold State.wakeHand
  dsimp only
  split
  · exact updHand_canon hs
  · exact updHand_canon hs
  · exact updCore_canon (updHand_canon hs)
  · exact hs

theorem wakeKey_canon {s : State} {asid : BitVec 16} {key : DWord} (hs : Canon s) : Canon (s.wakeKey asid key) := by
  unfold State.wakeKey
  split
  · exact hs
  · dsimp only
    split
    · exact foldl_canon (fun _ _ hs1 => qWake_canon hs1) (foldl_canon (fun _ _ hs1 => wakeHand_canon hs1) hs)
    · exact put64_canon (foldl_canon (fun _ _ hs1 => qWake_canon hs1) (foldl_canon (fun _ _ hs1 => wakeHand_canon hs1) hs))

theorem owlReset_canon {s : State} {lid : Word} (hs : Canon s) : Canon (s.owlReset lid) := ite_canon (updQueue_canon hs) hs

theorem updPort_canon {s : State} {p : Nat} {f : Port → Port} (hs : Canon s) : Canon (s.updPort p f) := by
  unfold Canon at *
  simpa using hs

theorem flushPort_canon {s : State} {p : Nat} (hs : Canon s) : Canon (s.flushPort p) := updPort_canon hs

theorem sendFlit_canon {s : State} {p : Nat} {kind : BitVec 8} {m : PeerMsg} (hs : Canon s) : Canon (s.sendFlit p kind m) := by
  unfold State.sendFlit
  split
  · exact hs
  · exact flushPort_canon (updPort_canon hs)

theorem request_canon {s : State} {dev : BitVec 16} {die : Nat} {kind : BitVec 8} {m : PeerMsg} {use : PeerUse} (hs : Canon s) :
    (s.request dev die kind m use).elim True Canon := by
  unfold State.request
  split
  · exact trivial
  · refine sendFlit_canon ?_
    dsimp only [Canon]
    show Canon _
    exact cross_canon hs

theorem readPeer_canon {s : State} {die loc n : Nat} {use : PeerUse} (hs : Canon s) : (s.readPeer die loc n use).elim True Canon :=
  request_canon hs

theorem watchEnds_canon {s : State} {k : Nat} {key : DWord} (hs : Canon s) : Canon (s.watchEnds k key) :=
  ite_canon (wakeHand_canon (updHand_canon (withdrawWaiter_canon hs))) hs

theorem writePeer_canon {s : State} {die w : Nat} {mask : BitVec 8} {data : DWord} (hs : Canon s) :
    (s.writePeer die w mask data).elim True Canon := request_canon hs

theorem sendStep_canon {s : State} {die obj : Nat} {data : BitVec 512} {use : PeerUse} (hs : Canon s) :
    (s.sendStep die obj data use).elim True Canon := request_canon hs

theorem dropPeerStore_canon {s : State} {die : Nat} (hs : Canon s) : Canon (s.dropPeerStore die) := magpie_canon (updDie_canon hs)

theorem tlbAddAll_canon {s : State} {es : List TlbEntry} (hs : Canon s) : Canon (s.tlbAddAll es) :=
  foldl_canon (fun _ _ hs1 => tlbAdd_canon hs1) hs

theorem checkAccess_canon {s : State} {i : SplitIssue} {act : Lanes} {scratch : Bool} {acc : Access} {align n : Nat} {ea : Nat → DWord}
    (hs : Canon s) : Both (fun x => Canon x.1) (fun x => Canon x.2) (s.checkAccess i act scratch acc align n ea) := by
  unfold State.checkAccess
  dsimp only
  split
  · exact hs
  · split
    · split
      · exact hs
      · split <;> exact hs
    · split
      · exact hs
      · split
        · refine foldl_canon ?_ hs
          intro _ _ hs1
          split
          · exact requestPage_canon hs1
          · exact hs1
        · exact tlbAddAll_canon hs

theorem requestLines_canon {s : State} {die : Nat} {h : Handle} {id : Nat} {offs : List Nat} (hs : Canon s) :
    Canon (s.requestLines die h id offs) := by
  unfold State.requestLines
  split
  · exact hs
  · refine foldl_canon ?_ hs
    intro _ _ hs1
    split
    · exact hs1
    · split
      next e2 => exact some_canon (readPeer_canon hs1) e2
      · exact hs1

theorem writeChunk_canon {s : State} {p : Party} {v : View} {x : Chunk} {use : PeerUse} (hs : Canon s) :
    (s.writeChunk p v x use).elim True (fun x => Canon x.1) := by
  unfold State.writeChunk
  split
  · exact hs
  · dsimp only
    split
    · exact map_canon (request_canon hs) (fun _ hs1 => putBytes_canon hs1)
    · exact putBytes_canon (crossHome_canon hs)

theorem writeChunks_canon {p : Party} {cs : List Chunk} {x : State × View} (hs : Canon x.1) : Canon (State.writeChunks p cs x).1 := by
  induction cs generalizing x with
  | nil => exact hs
  | cons c cs ih =>
    refine ih ?_
    have h := writeChunk_canon (p := p) (v := x.2) (x := c) (use := .none) hs
    cases e : x.1.writeChunk p x.2 c with
    | none => exact hs
    | some y => exact e.subst (motive := fun o => o.elim True fun x => Canon x.1) h

theorem countExpert_canon {s : State} {p e : Nat} (hs : Canon s) : Canon (s.countExpert p e) := updPart_canon hs

theorem touch_canon {s : State} {h : Hand} {lanes : List Nat} {c idx : Nat} (hs : Canon s) : Canon (s.touch h lanes c idx) := by
  unfold State.touch
  split
  · exact hs
  · split
    · exact hs
    · dsimp only
      split
      · split
        · exact requestLines_canon (updCluster_canon hs)
        · exact updCluster_canon hs
      · refine countExpert_canon ?_
        split
        · exact requestLines_canon (updCluster_canon hs)
        · exact updCluster_canon hs

theorem touchRange_canon {s : State} {h : Hand} {lanes : List Nat} {loc n : Nat} (hs : Canon s) : Canon (s.touchRange h lanes loc n) :=
  foldl_canon (fun _ _ hs1 => touch_canon hs1) hs

theorem invWord_canon {s : State} {lid : Word} {w pick : Nat} (hs : Canon s) : Canon (s.invWord lid w pick).2 := by
  unfold State.invWord
  dsimp only
  split <;> exact hs

theorem appendStore_canon {s : State} {k t loc n : Nat} {data : DWord} {rel : Option (BitVec 3)} (hs : Canon s) :
    Canon (s.appendStore k t loc n data rel) := by
  unfold State.appendStore
  dsimp only
  split
  · exact ite_canon (updThread_canon (updSeg_canon hs)) (updThread_canon hs)
  · exact updHand_canon (updThread_canon hs)

theorem writeBBar_canon {s : State} {loc : Nat} {b : BBar} {msg : View} {scope : BitVec 3} {writer : Party} (hs : Canon s) :
    Canon (s.writeBBar loc b msg scope writer) := by
  unfold State.writeBBar
  show Canon _
  dsimp only [Canon]
  show Canon _
  exact putWord_canon (putWord_canon hs)

theorem appendPost_canon {s : State} {k : Nat} {lanes : Lanes} {loc : Nat} {v : Word} (hs : Canon s) :
    Canon (s.appendPost k lanes loc v) := updThread_canon hs

theorem loadLanes_canon {k id n : Nat} {scratch : Bool} {ls : List (Nat × Nat)} {s : State} (hs : Canon s) :
    Canon (loadLanes k id n scratch ls s).2 := by
  induction ls generalizing s with
  | nil => exact hs
  | cons l ls ih =>
    unfold loadLanes
    dsimp only
    refine ih ?_
    split
    · split
      next e1 => exact some_canon (readPeer_canon (ite_canon (touchRange_canon hs) hs)) e1
      · exact ite_canon (touchRange_canon hs) hs
    · exact ite_canon (touchRange_canon hs) hs

theorem loadOp_canon {scratch inv hForm : Bool} {w : CoreWords} {s : State} (hs : Canon s) : OutCanon (loadOp scratch inv hForm w s) := by
  unfold loadOp
  refine execCore_canon hs ?_
  intro _ _ _ hs1
  refine withRegs_canon hs1 ?_
  intro _ _ hs2
  split
  next e => exact error_canon (checkAccess_canon hs2) e
  next e =>
    split
    · exact trivial
    · dsimp only
      exact addOutst_canon (loadLanes_canon (ok_snd_canon (checkAccess_canon hs2) e))

theorem storeOp_canon {scratch hForm : Bool} {w : CoreWords} {s : State} (hs : Canon s) : OutCanon (storeOp scratch hForm w s) := by
  unfold storeOp
  refine execCore_canon hs ?_
  intro _ _ _ hs1
  refine withRegs_canon hs1 ?_
  intro _ _ hs2
  split
  next e => exact error_canon (checkAccess_canon hs2) e
  next e =>
    split
    · exact trivial
    · split
      · exact atCompare_canon (ok_snd_canon (checkAccess_canon hs2) e)
      · exact foldl_canon (fun _ _ hs3 => appendStore_canon hs3) (ok_snd_canon (checkAccess_canon hs2) e)

theorem execLdh_canon {w : CoreWords} {s : State} (hs : Canon s) : OutCanon (execLdh w s) := by
  unfold execLdh
  refine execCore_canon hs ?_
  intro _ _ _ hs1
  refine withRegs_canon hs1 ?_
  intro _ _ hs2
  dsimp only
  split
  next e => exact error_canon (checkAccess_canon hs2) e
  next e =>
    split
    · exact trivial
    · split
      next e2 =>
        refine addOutst_canon ?_
        refine some_canon ?_ e2
        split
        · exact readPeer_canon (ok_snd_canon (checkAccess_canon hs2) e)
        · exact ok_snd_canon (checkAccess_canon hs2) e
      · exact addOutst_canon (ok_snd_canon (checkAccess_canon hs2) e)

theorem prefOp_canon {hForm : Bool} {w : CoreWords} {s : State} (hs : Canon s) : OutCanon (prefOp hForm w s) :=
  execCore_canon hs (fun _ _ _ hs1 => withRegs_canon hs1 (fun _ _ hs2 => hs2))

theorem askEntry_canon {s : State} {i : SplitIssue} {loc : Nat} (hs : Canon s) : Canon (s.askEntry i loc) := by
  unfold State.askEntry
  split
  next e => exact updHand_canon (some_canon (readPeer_canon hs) e)
  · exact hs

theorem execBind_canon {w : CoreWords} {s : State} (hs : Canon s) : OutCanon (execBind w s) := by
  unfold execBind
  refine execCore_canon hs ?_
  intro _ _ _ hs1
  refine withRegs_canon hs1 ?_
  intro _ _ hs2
  split
  next e => exact error_canon (checkAccess_canon hs2) e
  next x _ _ e =>
    dsimp only
    split
    · exact askEntry_canon (ok_snd_canon (checkAccess_canon hs2) e)
    · split
      · refine addOutst_canon ?_
        dsimp only [Canon]
        show Canon _
        exact hostRead_canon (crossHome_canon (foldl_canon (fun _ _ hs3 => logUE_canon hs3) (ok_snd_canon (checkAccess_canon hs2) e)))
      · split
        next e3 =>
          refine e3.subst (motive := Both (fun x => Canon x.1) (fun x => Canon x.2)) ?_
          refine checkAccess_canon ?_
          dsimp only [Canon]
          show Canon _
          exact hostRead_canon (crossHome_canon (foldl_canon (fun _ _ hs3 => logUE_canon hs3) (ok_snd_canon (checkAccess_canon hs2) e)))
        next e3 =>
          refine addOutst_canon ?_
          refine e3.subst (motive := Both (fun x => Canon x.1) (fun x => Canon x.2)) ?_
          refine checkAccess_canon ?_
          dsimp only [Canon]
          show Canon _
          exact hostRead_canon (crossHome_canon (foldl_canon (fun _ _ hs3 => logUE_canon hs3) (ok_snd_canon (checkAccess_canon hs2) e)))

theorem performLane_canon {s : State} {k id n : Nat} {fmt : BitVec 4} {acq : BitVec 3} {l : LoadLane} {pick : Nat} (hs : Canon s) :
    Canon (s.performLane k id n fmt acq l pick) :=
  updOutst_canon (updThread_canon (ite_canon (hostRead_canon (crossHome_canon (ite_canon (logUE_canon hs) hs))) (ite_canon (logUE_canon hs) hs)))

theorem performInv_canon {s : State} {k id n : Nat} {fmt : BitVec 4} {l : LoadLane} {pick : Nat} (hs : Canon s) :
    Canon (s.performInv k id n fmt l pick) := by
  unfold State.performInv
  dsimp only
  exact updOutst_canon (hostRead_canon (crossHome_canon (ite_canon (logUE_canon (invWord_canon hs)) (invWord_canon hs))))

theorem performLanes_canon {f : State → LoadLane → Nat → State} (hf : ∀ s l n, Canon s → Canon (f s l n)) {ls : List LoadLane}
    {ps : List Nat} {s : State} (hs : Canon s) : Canon (performLanes f ls ps s) := by
  induction ls generalizing s ps with
  | nil => exact hs
  | cons l ls ih => exact ih (hf _ _ _ hs)

theorem performFence_canon {s : State} {k id : Nat} {scope : BitVec 3} {l : Nat × Nat} (hs : Canon s) :
    Canon (s.performFence k id scope l) := ite_canon hs (updOutst_canon (updThread_canon hs))

theorem drain_canon {s : State} {k t : Nat} {e : StoreEntry} (hs : Canon s) : Canon (s.drain k t e) := by
  unfold State.drain
  dsimp only
  split
  · split
    next e2 =>
      refine updThread_canon ?_
      split
      · exact writeBBar_canon (some_canon (writePeer_canon (updThread_canon hs)) e2)
      · split <;> exact putWord_canon (some_canon (writePeer_canon (updThread_canon hs)) e2)
    · exact dropPeerStore_canon (updThread_canon hs)
  · refine updThread_canon ?_
    split
    · exact writeBBar_canon (crossHome_canon (updThread_canon hs))
    · split <;> exact putWord_canon (crossHome_canon (updThread_canon hs))

theorem drainStore_canon {s : State} {k t : Nat} {e : StoreEntry} (hs : Canon s) : Canon (s.drainStore k t e) :=
  startForks_canon (drain_canon hs)

theorem execStoreDrain_canon {s : State} (hs : Canon s) : OutCanon (execStoreDrain s) := by
  unfold execStoreDrain
  dsimp only
  split
  · exact hs
  · split
    · exact wakeStores_canon (drainStore_canon hs)
    · exact hs

end Sys2Proof.Machine
end

section
/-!
PROOFS. The canonical form of memory is kept (O58). Announcements, objects and barriers.
-/
namespace Sys2Proof.Machine

theorem publish_canon {s : State} {obj : Nat} {v : View} (hs : Canon s) : Canon (s.publish obj v).2 := by
  unfold State.publish
  split <;> exact hs

theorem updRec_canon {s : State} {t : Nat} {f : AnnRec → AnnRec} (hs : Canon s) : Canon (s.updRec t f) := by
  unfold Canon at *
  simpa using hs

theorem setList_canon {s : State} {obj : Nat} {ts : List Nat} (hs : Canon s) : Canon (s.setList obj ts) := hs

theorem allocRec_canon {s : State} {home : Nat} {r : AnnRec} (hs : Canon s) : (s.allocRec home r).elim True (fun x => Canon x.2) := by
  unfold State.allocRec
  dsimp only
  split
  · exact trivial
  · exact setList_canon hs

theorem unlist_canon {s : State} {r : AnnRec} (hs : Canon s) : Canon (s.unlist r) := setList_canon hs

theorem dropRec_canon {s : State} {t : Nat} (hs : Canon s) : Canon (s.dropRec t) := by
  unfold State.dropRec
  split
  · exact hs
  · show Canon _
    dsimp only [Canon]
    show Canon _
    exact unlist_canon hs

theorem endRec_canon {s : State} {r : AnnRec} {st : BitVec 3} (hs : Canon s) : Canon (s.endRec r st) :=
  sweepRecs_canon (updRec_canon (unlist_canon (foldl_canon (fun _ _ hs1 => dropRec_canon hs1) hs)))

theorem writeLog_canon {s : State} {lid : Word} {hid lane : Nat} {seq : Word} {fail : Bool} {v : DWord} (hs : Canon s) :
    Canon (s.writeLog lid hid lane seq fail v) := by
  unfold State.writeLog
  split
  · exact hs
  · exact ite_canon hs (setRetain_canon hs)

theorem logResult_canon {s : State} {r : AnnRec} {fail : Bool} {v : DWord} (hs : Canon s) : Canon (s.logResult r fail v) :=
  ite_canon hs (writeLog_canon hs)

theorem failRec_canon {s : State} {r : AnnRec} {k : Nat} {fdet : Word} (hs : Canon s) : Canon (s.failRec r k fdet) :=
  endRec_canon (logResult_canon (updRec_canon hs))

theorem acceptStep_canon {s : State} {r : AnnRec} {k : Nat} (hs : Canon s) : Canon (s.acceptStep r k) :=
  ite_canon (endRec_canon (updRec_canon hs)) (updRec_canon hs)

theorem storeWord_canon {s : State} {die w : Nat} {mask : BitVec 8} {data : DWord} {msg : View} {scope : BitVec 3} {writer : Party}
    {owner : Owner} (hs : Canon s) : Canon (s.storeWord die w mask data msg scope writer owner) := by
  unfold State.storeWord
  split
  · split
    next e1 => exact putWord_canon (some_canon (writePeer_canon hs) e1)
    · exact dropPeerStore_canon hs
  · exact putWord_canon (crossHome_canon hs)

theorem bucketSlot_canon {s : State} {r : AnnRec} (hs : Canon s) : Canon (s.bucketSlot r) := ite_canon (putBytes_canon hs) hs

theorem mcasWord_canon {s : State} {r : AnnRec} {j : Nat} (hs : Canon s) : (s.mcasWord r j).Canon := by
  unfold State.mcasWord
  dsimp only
  split
  · split
    · split
      · exact trivial
      · exact tlbAdd_canon (tlbAdd_canon (tlbAdd_canon hs))
    · exact trivial
    · exact trivial
  · exact trivial
  · exact trivial
  · exact trivial
  · exact trivial

theorem withWord_canon {s : State} {r : AnnRec} {k j : Nat} {f : Nat → DWord → DWord → State → StepOut} (hs : Canon s)
    (hf : ∀ a b c s, Canon s → (f a b c s).Canon) : (s.withWord r k j f).Canon := by
  unfold State.withWord
  split
  next e1 => exact hf _ _ _ _ (e1.subst (motive := McasWord.Canon) (mcasWord_canon hs))
  · exact failRec_canon hs
  · exact hs

theorem acceptInstall_canon {s : State} {r : AnnRec} {j loc : Nat} {exp : DWord} (hs : Canon s) : (s.acceptInstall r j loc exp).Canon :=
  acceptStep_canon (updRec_canon hs)

theorem install_canon {s : State} {r : AnnRec} {j : Nat} (hs : Canon s) : (s.install r j).Canon := by
  unfold State.install
  split
  · split
    · exact hs
    · exact withWord_canon hs (fun _ _ _ _ hs1 => acceptInstall_canon hs1)
  · refine withWord_canon hs ?_
    intro _ _ _ _ hs1
    dsimp only
    split
    · split
      · exact acceptInstall_canon hs1
      · exact hs1
    · split
      · exact hs1
      next e2 =>
        split
        · exact acceptInstall_canon (some_snd_canon (allocRec_canon hs1) e2)
        · exact some_snd_canon (allocRec_canon hs1) e2

theorem updateStep_canon {s : State} {r : AnnRec} {k j : Nat} (hs : Canon s) : (s.updateStep r k j).Canon := by
  unfold State.updateStep
  refine withWord_canon hs ?_
  intro _ _ _ _ hs1
  refine acceptStep_canon ?_
  split
  · refine dropRec_canon ?_
    split
    · dsimp only
      exact updRec_canon (publish_canon (putWord_canon hs1))
    · exact hs1
  · split
    · dsimp only
      exact updRec_canon (publish_canon (putWord_canon hs1))
    · exact hs1

theorem applyRec_canon {s : State} {r : AnnRec} (hs : Canon s) : Canon (s.applyRec r) := by
  unfold State.applyRec
  dsimp only
  refine acceptStep_canon ?_
  refine logResult_canon ?_
  refine updRec_canon ?_
  split
  · split
    · split
      · split
        · exact bucketSlot_canon (updRec_canon (putWord_canon hs))
        · exact publish_canon (bucketSlot_canon (updRec_canon (putWord_canon hs)))
      · split
        · exact updRec_canon (putWord_canon hs)
        · exact publish_canon (updRec_canon (putWord_canon hs))
    · split
      · exact updRec_canon hs
      · exact publish_canon (updRec_canon hs)
  · split
    · split
      · exact updRec_canon (putWord_canon hs)
      · exact publish_canon (updRec_canon (putWord_canon hs))
    · split
      · exact updRec_canon (putWord_canon hs)
      · exact publish_canon (updRec_canon (putWord_canon hs))

theorem hostStep_canon {s : State} {r : AnnRec} (hs : Canon s) : (s.hostStep r).Canon := by
  unfold State.hostStep
  split
  · exact hs
  · split
    · exact failRec_canon hs
    · exact hs

theorem writeCellAt_canon {s : State} {die loc type : Nat} {v : DWord} (hs : Canon s) : Canon (s.writeCellAt die loc type v) :=
  storeWord_canon hs

theorem deliver_canon {s : State} {r : AnnRec} (hs : Canon s) : (s.deliver r).Canon := by
  unfold State.deliver
  dsimp only
  split
  · split
    next e1 => exact ite_canon (bucketSlot_canon (some_canon (request_canon hs) e1)) (some_canon (request_canon hs) e1)
    · exact hs
  · split
    · exact failRec_canon hs
    · exact hs
    · exact acceptStep_canon (updRec_canon (writeCellAt_canon (tlbAdd_canon (ite_canon (bucketSlot_canon hs) hs))))

theorem homeStep_canon {s : State} {t k : Nat} (hs : Canon s) : (s.homeStep t k).Canon := by
  unfold State.homeStep
  split
  · exact hs
  · split
    · exact hs
    · split
      · split
        · exact install_canon hs
        · split
          · exact acceptStep_canon (logResult_canon hs)
          · split
            · exact updateStep_canon hs
            · exact deliver_canon hs
      · split
        · split
          · exact hs
          · split
            · exact hostStep_canon hs
            · exact applyRec_canon hs
        · exact deliver_canon hs

theorem hostDone_canon {s : State} {r : AnnRec} {old : DWord} (hs : Canon s) : Canon (s.hostDone r old) := by
  unfold State.hostDone
  dsimp only
  exact acceptStep_canon (logResult_canon (updRec_canon (publish_canon (appendWrite_canon (ite_canon hs (appendWrite_canon hs))))))

theorem hostTimeout_canon {s : State} (hs : Canon s) : Canon s.hostTimeout := hs

theorem execAtomicopCompletion_canon {s : State} (hs : Canon s) : OutCanon (execAtomicopCompletion s) := by
  unfold execAtomicopCompletion
  dsimp only
  split
  · exact hs
  · split
    · exact hs
    · split
      · exact failRec_canon (hostAnswered_canon hs)
      · exact hostDone_canon (hostAnswered_canon hs)

theorem execAtomicopTimeout_canon {s : State} (hs : Canon s) : OutCanon (execAtomicopTimeout s) := by
  unfold execAtomicopTimeout
  dsimp only
  split
  · exact hs
  · split
    · exact hs
    · exact failRec_canon (hostTimeout_canon (ite_canon (appendWrite_canon hs) hs))

theorem execRecordCancel_canon {s : State} (hs : Canon s) : OutCanon (execRecordCancel s) := by
  unfold execRecordCancel
  dsimp only
  split
  · exact getD_canon (sendStep_canon hs) hs
  · split
    · exact hs
    · split
      · exact updRec_canon hs
      · exact hs

theorem needed_canon {fuel obj : Nat} {own : Option Nat} {s : State} (hs : Canon s) : Canon (State.needed fuel s obj own).1 := by
  induction fuel generalizing s obj own with
  | zero => exact hs
  | succ n ih =>
    unfold State.needed
    split
    · exact hs
    · split
      · exact hs
      · split
        · exact hs
        · split
          · exact ih (dropRec_canon hs)
          · dsimp only
            split
            · split
              next e5 => exact fst_canon (ih hs) e5
              next e5 => exact fst_canon (ih hs) e5
            · exact hs

theorem helpStep_canon {s : State} {obj : Nat} {own : Option Nat} (hs : Canon s) : Canon (s.helpStep obj own).1 := by
  unfold State.helpStep
  dsimp only
  split
  next e => exact fst_canon (needed_canon hs) e
  next e =>
    split
    · exact needed_canon (fst_canon (needed_canon hs) e)
    · exact fst_canon (needed_canon hs) e

theorem setAnnLane_canon {s : State} {k id : Nat} {l : AnnLane} (hs : Canon s) : Canon (s.setAnnLane k id l) := updOutst_canon hs

theorem finishPair_canon {s : State} {k id : Nat} {l : AnnLane} {status : Nat} {second : Option (DWord × BitVec 4)} (hs : Canon s) :
    Canon (s.finishPair k id l status second) := returnIfDone_canon (updOutst_canon (setAnnLane_canon hs))

theorem setOwn_canon {s : State} {k t : Nat} {o : Option OwnRec} (hs : Canon s) : Canon (s.setOwn k t o) := updHand_canon hs

theorem finishAnn_canon {s : State} {k id : Nat} {l : AnnLane} (hs : Canon s) : Canon (s.finishAnn k id l) := by
  unfold State.finishAnn
  split <;> exact finishPair_canon hs

theorem finishHelp_canon {s : State} {k id : Nat} {l : AnnLane} (hs : Canon s) : Canon (s.finishHelp k id l) := finishPair_canon hs

theorem addJoins_canon {s : State} {k id t : Nat} {flags : Flags} {vs : List View} (hs : Canon s) : Canon (s.addJoins k id t flags vs) :=
  updOutst_canon hs

theorem addSplitJoins_canon {s : State} {k id : Nat} {vs : List View} (hs : Canon s) : Canon (s.addSplitJoins k id vs) := updOutst_canon hs

theorem collect_canon {s : State} {k id t ticket : Nat} (hs : Canon s) : Canon (s.collect k id t ticket) := by
  unfold State.collect
  split
  · exact hs
  · exact dropRec_canon (addJoins_canon hs)

theorem collectPeer_canon {s : State} {k id t : Nat} {o : OwnRec} {res : DWord} (hs : Canon s) : Canon (s.collectPeer k id t o res) :=
  addJoins_canon hs

theorem finishColl_canon {s : State} {k id : Nat} {l : AnnLane} (hs : Canon s) : Canon (s.finishColl k id l) := by
  unfold State.finishColl
  split
  · exact finishPair_canon hs
  · split
    · exact finishPair_canon (setOwn_canon hs)
    · dsimp only
      exact ite_canon (finishPair_canon (setOwn_canon (ite_canon (collectPeer_canon hs) (collect_canon hs)))) (ite_canon (finishPair_canon
          (setOwn_canon (ite_canon hs (collect_canon hs)))) (finishPair_canon hs))

theorem finishBkt_canon {s : State} {k id : Nat} {l : AnnLane} {v : DWord} (hs : Canon s) : Canon (s.finishBkt k id l v) := by
  unfold State.finishBkt
  refine returnIfDone_canon ?_
  refine updOutst_canon ?_
  refine setAnnLane_canon ?_
  split
  · exact dropRec_canon (addSplitJoins_canon hs)
  · exact hs

theorem finishLane_canon {s : State} {kind k id : Nat} {l : AnnLane} (hs : Canon s) : Canon (s.finishLane kind k id l) := by
  unfold State.finishLane
  split
  · exact finishAnn_canon hs
  · exact finishHelp_canon hs
  · exact finishColl_canon hs
  · split
    · exact ite_canon (setAnnLane_canon hs) (finishBkt_canon (addSplitJoins_canon hs))
    · split
      · exact ite_canon (setAnnLane_canon hs) (finishBkt_canon hs)
      · exact finishBkt_canon hs

theorem advanceLane_canon {s : State} {kind k id : Nat} {l : AnnLane} (hs : Canon s) : Canon (s.advanceLane kind k id l) := by
  unfold State.advanceLane
  dsimp only
  split
  · refine setAnnLane_canon ?_
    split
    · exact helpStep_canon hs
    · exact hs
  · split
    · refine setAnnLane_canon ?_
      split
      · exact helpStep_canon hs
      · exact hs
    · refine finishLane_canon ?_
      split
      · exact helpStep_canon hs
      · exact hs

theorem peerOwnStep_canon {s : State} {kind k id : Nat} {l : AnnLane} (hs : Canon s) : Canon (s.peerOwnStep kind k id l) := by
  unfold State.peerOwnStep
  dsimp only
  split
  · exact finishLane_canon hs
  · split
    · exact finishLane_canon hs
    · split
      next e2 => exact setAnnLane_canon (some_canon (sendStep_canon hs) e2)
      · exact ite_canon (finishBkt_canon hs) (finishLane_canon hs)

theorem peerStep_canon {s : State} {kind k id : Nat} {l : AnnLane} (hs : Canon s) : Canon (s.peerStep kind k id l) := by
  unfold State.peerStep
  split
  · split
    next e1 => exact setAnnLane_canon (some_canon (sendStep_canon hs) e1)
    · exact setAnnLane_canon hs
  · exact peerOwnStep_canon hs

theorem takeSeq_canon {s : State} {h : Hand} {t : Nat} (hs : Canon s) : Canon (s.takeSeq h t) := setRetain_canon hs

theorem annPage_canon {s : State} {k id : Nat} {l : AnnLane} {asid : BitVec 16} {va : DWord} (hs : Canon s) :
    Canon (s.annPage k id l asid va) := by
  unfold State.annPage
  refine updHand_canon ?_
  refine updOutst_canon ?_
  split
  · exact requestPage_canon hs
  · exact hs

theorem replayAnn_canon {s : State} {k id op type : Nat} {l : AnnLane} {e : Bool × DWord} (hs : Canon s) :
    Canon (s.replayAnn k id op type l e) := by
  unfold State.replayAnn
  dsimp only
  split
  · exact finishPair_canon (setOwn_canon (takeSeq_canon hs))
  · split
    · exact annPage_canon hs
    · exact finishPair_canon (setOwn_canon (takeSeq_canon hs))
    · exact finishPair_canon (setOwn_canon (takeSeq_canon (writeCellAt_canon (tlbAdd_canon hs))))

theorem appendAnn_canon {s : State} {kind k id op type : Nat} {l : AnnLane} (hs : Canon s) : Canon (s.appendAnn kind k id op type l) := by
  unfold State.appendAnn
  dsimp only
  split
  · exact replayAnn_canon hs
  · split
    · split
      next e2 => exact setAnnLane_canon (some_canon (sendStep_canon hs) e2)
      · exact ite_canon (finishPair_canon hs) (finishBkt_canon hs)
    · split
      · exact ite_canon (finishPair_canon hs) (ite_canon (finishBkt_canon hs) (setAnnLane_canon hs))
      next e2 =>
        refine advanceLane_canon ?_
        split
        · exact ite_canon (failRec_canon (ite_canon (setOwn_canon (takeSeq_canon (crossHome_canon (some_snd_canon (allocRec_canon hs) e2))))
              (crossHome_canon (some_snd_canon (allocRec_canon hs) e2)))) (ite_canon (setOwn_canon (takeSeq_canon (crossHome_canon
                  (some_snd_canon (allocRec_canon hs) e2)))) (crossHome_canon (some_snd_canon (allocRec_canon hs) e2)))
        · exact ite_canon (setOwn_canon (takeSeq_canon (crossHome_canon (some_snd_canon (allocRec_canon hs) e2)))) (crossHome_canon
              (some_snd_canon (allocRec_canon hs) e2))

theorem startLane_canon {s : State} {kind k id op type : Nat} {l : AnnLane} (hs : Canon s) : Canon (s.startLane kind k id op type l) := by
  unfold State.startLane
  split
  · exact ite_canon (peerStep_canon hs) (advanceLane_canon hs)
  · split
    · exact finishColl_canon hs
    · exact ite_canon (finishColl_canon hs) (ite_canon (peerStep_canon hs) (advanceLane_canon hs))
  · exact ite_canon (appendAnn_canon hs) (ite_canon (peerStep_canon hs) (advanceLane_canon hs))

theorem stepAnswered_canon {s : State} {kind k id : Nat} {l : AnnLane} {own : Bool} (hs : Canon s) :
    Canon (s.stepAnswered kind k id l own) := ite_canon (finishLane_canon hs) (advanceLane_canon hs)

theorem execAnnounceStep_canon {s : State} (hs : Canon s) : OutCanon (execAnnounceStep s) := by
  unfold execAnnounceStep
  dsimp only
  split
  · exact hs
  · split
    · split
      · exact hs
      · split
        · exact hs
        · split
          · exact startLane_canon hs
          · split
            next e5 => exact stepAnswered_canon (e5.subst (motive := StepOut.Canon) (homeStep_canon (crossHome_canon hs)))
            next e5 => exact stepAnswered_canon (e5.subst (motive := StepOut.Canon) (homeStep_canon (crossHome_canon hs)))
            next e5 => exact annPage_canon (e5.subst (motive := StepOut.Canon) (homeStep_canon (crossHome_canon hs)))
            next e5 => exact setAnnLane_canon (e5.subst (motive := StepOut.Canon) (homeStep_canon (crossHome_canon hs)))
          · exact peerStep_canon hs
          · exact hs
          · exact hs
          · exact hs
    · exact hs

theorem annLost_canon {s : State} {k id t : Nat} (hs : Canon s) : Canon (s.annLost k id t) := by
  unfold State.annLost
  split
  · split
    · exact hs
    · exact ite_canon (setAnnLane_canon hs) (ite_canon (finishBkt_canon hs) (ite_canon (finishPair_canon hs) (finishLane_canon hs)))
  · exact hs

theorem peerApplied_canon {s : State} {h : Hand} {t op obj : Nat} {seq : Word} {view : View} {old new : BitVec 3 × Nat × DWord}
    (hs : Canon s) : Canon (s.peerApplied h t op obj seq view old new).2 := by
  unfold State.peerApplied
  split
  · exact hs
  · dsimp only
    split
    · exact publish_canon (ite_canon (writeLog_canon hs) hs)
    · exact ite_canon (writeLog_canon hs) hs

theorem annAnswer_canon {s : State} {k id t : Nat} {status : BitVec 3} {data : BitVec 512} (hs : Canon s) :
    Canon (s.annAnswer k id t status data) := by
  unfold State.annAnswer
  dsimp only
  split
  · split
    · exact hs
    · split
      · exact setAnnLane_canon hs
      · split
        · exact ite_canon (ite_canon (finishPair_canon hs) (ite_canon (finishBkt_canon hs) (setAnnLane_canon hs))) (ite_canon
              (annLost_canon hs) (setAnnLane_canon (ite_canon (setOwn_canon (takeSeq_canon (peerApplied_canon hs))) (peerApplied_canon hs))))
        · split
          · refine peerOwnStep_canon ?_
            split
            · dsimp only
              exact peerApplied_canon hs
            · refine setOwn_canon ?_
              split <;> exact peerApplied_canon hs
          · refine finishLane_canon ?_
            split
            · dsimp only
              exact peerApplied_canon hs
            · refine setOwn_canon ?_
              split <;> exact peerApplied_canon hs
  · exact hs

theorem cancelAnswer_canon {s : State} {lid : Word} {hid lane : Nat} {seq : Word} {data : BitVec 512} (hs : Canon s) :
    Canon (s.cancelAnswer lid hid lane seq data) := ite_canon (writeLog_canon hs) hs

theorem orphanAnswer_canon {s : State} {r : PeerReq} {status : BitVec 3} {data : BitVec 512} (hs : Canon s) :
    Canon (s.orphanAnswer r status data) := by
  unfold State.orphanAnswer
  split
  · exact hs
  · split
    · exact hs
    · show Canon _
      dsimp only [Canon]
      show Canon _
      exact setRetain_canon hs

theorem checkAddrs_canon {s : State} {i : SplitIssue} {act : Lanes} {xs : List (Nat × DWord × Access)} (hs : Canon s) :
    Both (fun x => Canon x.1) Canon (s.checkAddrs i act xs) := by
  unfold State.checkAddrs
  dsimp only
  split
  · exact hs
  · split
    · exact hs
    · split
      · refine foldl_canon ?_ hs
        intro _ _ hs1
        split
        · exact requestPage_canon hs1
        · exact hs1
      · refine foldl_canon ?_ hs
        intro _ _ hs1
        split
        · exact tlbAdd_canon hs1
        · exact hs1

theorem launchAnn_canon {s : State} {i : SplitIssue} {act : Lanes} {w : CoreWords} {kind op type : Nat} {names : List Nat}
    {ls : List AnnLane} (hs : Canon s) : Canon (s.launchAnn i act w kind op type names ls) :=
  returnIfDone_canon (updOutst_canon (addOutst_canon (updHand_canon hs)))

theorem annOp_canon {op : Nat} {b : CoreWords → Operand} {ops : CoreWords → Operand → Hand → Uniform → Nat → DWord × DWord}
    {w : CoreWords} {s : State} (hs : Canon s) : OutCanon (annOp op b ops w s) := by
  unfold annOp
  refine execCore_canon hs ?_
  intro _ _ _ hs1
  refine withRegs_canon hs1 ?_
  intro _ _ hs2
  dsimp only
  split
  · exact hs2
  · split
    · exact hs2
    · split
      next e2 => exact error_canon (checkAddrs_canon hs2) e2
      next e2 => exact launchAnn_canon (ok_canon (checkAddrs_canon hs2) e2)

theorem execAnnMcas_canon {w : CoreWords} {s : State} (hs : Canon s) : OutCanon (execAnnMcas w s) := by
  unfold execAnnMcas
  refine execCore_canon hs ?_
  intro _ _ _ hs1
  refine withRegs_canon hs1 ?_
  intro _ _ hs2
  dsimp only
  split
  · exact hs2
  · split
    · exact hs2
    · split
      next e2 => exact error_canon (checkAddrs_canon hs2) e2
      next e2 =>
        split
        next e3 => exact error_canon (checkAddrs_canon (ok_canon (checkAddrs_canon hs2) e2)) e3
        next e3 =>
          split
          · exact ok_canon (checkAddrs_canon (ok_canon (checkAddrs_canon hs2) e2)) e3
          · exact launchAnn_canon (ok_canon (checkAddrs_canon (ok_canon (checkAddrs_canon hs2) e2)) e3)

theorem execHelp_canon {w : CoreWords} {s : State} (hs : Canon s) : OutCanon (execHelp w s) := by
  unfold execHelp
  refine execCore_canon hs ?_
  intro _ _ _ hs1
  refine withRegs_canon hs1 ?_
  intro _ _ hs2
  dsimp only
  split
  next e => exact error_canon (checkAddrs_canon hs2) e
  next e => exact launchAnn_canon (ok_canon (checkAddrs_canon hs2) e)

theorem execColl_canon {w : CoreWords} {s : State} (hs : Canon s) : OutCanon (execColl w s) := by
  unfold execColl
  refine execCore_canon hs ?_
  intro _ _ _ hs1
  refine withRegs_canon hs1 ?_
  intro _ _ hs2
  dsimp only
  split
  · exact hs2
  · split
    next e1 => exact error_canon (checkAddrs_canon hs2) e1
    next e1 => exact launchAnn_canon (ok_canon (checkAddrs_canon hs2) e1)

theorem execBkt_canon {w : CoreWords} {s : State} (hs : Canon s) : OutCanon (execBkt w s) := by
  unfold execBkt
  refine execCore_canon hs ?_
  intro _ _ _ hs1
  refine withRegs_canon hs1 ?_
  intro _ _ hs2
  dsimp only
  split
  · exact hs2
  · split
    next e1 => exact error_canon (checkAddrs_canon hs2) e1
    next e1 =>
      split
      · exact ok_canon (checkAddrs_canon hs2) e1
      · exact launchAnn_canon (ok_canon (checkAddrs_canon hs2) e1)

theorem objOp_canon {outside : Bool} {work : Hand → List (Nat × Nat) → Work} {w : CoreWords} {s : State} (hs : Canon s) :
    OutCanon (objOp outside work w s) := by
  unfold objOp
  refine execCore_canon hs ?_
  intro _ _ _ hs1
  refine withRegs_canon hs1 ?_
  intro _ _ hs2
  dsimp only
  split
  next e => exact error_canon (checkAddrs_canon hs2) e
  next e => exact addOutst_canon (ok_canon (checkAddrs_canon hs2) e)

theorem fillVersion_canon {s : State} {k id t : Nat} {v : Word} {joins : List (Nat × View)} (hs : Canon s) :
    Canon (s.fillVersion k id t v joins) := returnIfDone_canon (updOutst_canon hs)

theorem relJoin_canon {s : State} {h : Hand} {t obj : Nat} (hs : Canon s) : Canon (s.relJoin h t obj) := hs

theorem askObject_canon {s : State} {k id t obj msg rest : Nat} (hs : Canon s) : Canon (s.askObject k id t obj msg rest) := by
  unfold State.askObject
  split
  next e => exact some_canon (sendStep_canon hs) e
  · exact fillVersion_canon hs

theorem execAcqApply_canon {s : State} (hs : Canon s) : OutCanon (execAcqApply s) := by
  unfold execAcqApply
  dsimp only
  split
  · exact hs
  · split
    · split
      · exact hs
      · split
        · exact askObject_canon hs
        · exact fillVersion_canon hs
    · exact hs

theorem execRelApply_canon {s : State} (hs : Canon s) : OutCanon (execRelApply s) := by
  unfold execRelApply
  dsimp only
  split
  · exact hs
  · split
    · split
      · exact hs
      · split
        · exact hs
        · split
          · exact askObject_canon (relJoin_canon hs)
          · exact fillVersion_canon (relJoin_canon hs)
    · exact hs

theorem fillBind_canon {s : State} {k id status : Nat} (hs : Canon s) : Canon (s.fillBind k id status) :=
  deliverResult_canon (updOutst_canon hs)

theorem addBinding_canon {s : State} {b : Binding} (hs : Canon s) : Canon (s.addBinding b) := ite_canon hs hs

theorem execBindRegister_canon {s : State} (hs : Canon s) : OutCanon (execBindRegister s) := by
  unfold execBindRegister
  dsimp only
  split
  · exact hs
  · split
    · split
      · exact hs
      · split
        · exact fillBind_canon hs
        · split
          · exact hs
          · split
            · split
              next e6 => exact some_canon (sendStep_canon hs) e6
              · exact fillBind_canon hs
            · exact fillBind_canon (addBinding_canon hs)
    · exact hs

theorem objectLost_canon {s : State} {k id t : Nat} (hs : Canon s) : Canon (s.objectLost k id t) := by
  unfold State.objectLost
  split
  · exact hs
  · split
    · exact fillBind_canon hs
    · exact fillVersion_canon hs

theorem objectAnswer_canon {s : State} {k id t : Nat} {status : BitVec 3} {data : BitVec 512} (hs : Canon s) :
    Canon (s.objectAnswer k id t status data) := by
  unfold State.objectAnswer
  dsimp only
  split
  · exact hs
  · split
    · exact ite_canon (objectLost_canon hs) (fillVersion_canon hs)
    · exact ite_canon (objectLost_canon hs) (fillVersion_canon hs)
    · exact ite_canon (fillBind_canon hs) (ite_canon (objectLost_canon hs) (fillBind_canon (addBinding_canon hs)))
    · exact hs

theorem execBarArv_canon {w : CoreWords} {s : State} (hs : Canon s) : OutCanon (execBarArv w s) := by
  unfold execBarArv
  refine execCore_canon hs ?_
  intro _ _ _ hs1
  refine withRegs_canon hs1 ?_
  intro _ _ hs2
  dsimp only
  split
  · exact hs2
  · exact addOutst_canon hs2

theorem arrive_canon {s : State} {h : Hand} {g t : Nat} (hs : Canon s) : Canon (s.arrive h g t) := barCheck_canon (updGroup_canon hs)

theorem execBarArrival_canon {s : State} (hs : Canon s) : OutCanon (execBarArrival s) := by
  unfold execBarArrival
  dsimp only
  split
  · exact hs
  · split
    · split
      · exact hs
      · split
        · exact hs
        · exact fillVersion_canon (arrive_canon hs)
    · exact hs

theorem writeTimeout_canon {s : State} {h : Hand} {gi : Nat} {g : Group} (hs : Canon s) : Canon (s.writeTimeout h gi g) := areaWrite_canon hs

theorem fillFlags_canon {s : State} {k id : Nat} {yes : Lanes} {joins : List (Nat × View)} (hs : Canon s) :
    Canon (s.fillFlags k id yes joins) := deliverResult_canon (updOutst_canon hs)

theorem answerBarTst_canon {s : State} {k id g : Nat} {olds : List (Nat × BitVec 16)} (hs : Canon s) :
    Canon (s.answerBarTst k id g olds) := fillFlags_canon hs

theorem answerBbarTst_canon {s : State} {k id loc : Nat} {parity : Bool} {lanes : Lanes} (hs : Canon s) :
    Canon (s.answerBbarTst k id loc parity lanes) := ite_canon (fillFlags_canon hs) (fillFlags_canon hs)

theorem execBarTst_canon {w : CoreWords} {s : State} (hs : Canon s) : OutCanon (execBarTst w s) := by
  unfold execBarTst
  refine execCore_canon hs ?_
  intro _ _ _ hs1
  refine withRegs_canon hs1 ?_
  intro _ _ hs2
  dsimp only
  split
  · exact hs2
  · split
    · exact updGroup_canon (writeTimeout_canon hs2)
    · exact addOutst_canon (ite_canon (updGroup_canon hs2) hs2)

theorem execBbarPost_canon {w : CoreWords} {s : State} (hs : Canon s) : OutCanon (execBbarPost w s) := by
  unfold execBbarPost
  refine execCore_canon hs ?_
  intro _ _ _ hs1
  refine withRegs_canon hs1 ?_
  intro _ _ hs2
  split
  next e => exact error_canon (checkAccess_canon hs2) e
  next e => exact appendPost_canon (ok_snd_canon (checkAccess_canon hs2) e)

theorem execBbarTst_canon {w : CoreWords} {s : State} (hs : Canon s) : OutCanon (execBbarTst w s) := by
  unfold execBbarTst
  refine execCore_canon hs ?_
  intro _ _ _ hs1
  refine withRegs_canon hs1 ?_
  intro _ _ hs2
  dsimp only
  split
  next e => exact error_canon (checkAccess_canon hs2) e
  next e =>
    split
    · exact ok_snd_canon (checkAccess_canon hs2) e
    · exact addOutst_canon (ok_snd_canon (checkAccess_canon hs2) e)

end Sys2Proof.Machine
end

section
/-!
PROOFS. The canonical form of memory is kept (O58). Integer, vector and matrix instructions.
-/
namespace Sys2Proof.Machine

theorem laneOp_canon {hForm : Bool} {chk : Check} {two three : Bool} {tag : CoreWords → BitVec 4}
    {f : CoreWords → Word → Word → Word → Word} {w : CoreWords} {s : State} (hs : Canon s) :
    OutCanon (laneOp hForm chk two three tag f w s) :=
  execCore_canon hs (fun _ _ _ hs1 => withRegs_canon hs1 (fun _ _ hs2 => writeD_canon hs2))

theorem intOp2_canon {hForm : Bool} {f : Bool → Word → Word → Word} {w : CoreWords} {s : State} (hs : Canon s) :
    OutCanon (intOp2 hForm f w s) := laneOp_canon hs

theorem intOp3_canon {hForm : Bool} {f : Word → Word → Word → Word} {w : CoreWords} {s : State} (hs : Canon s) :
    OutCanon (intOp3 hForm f w s) := laneOp_canon hs

theorem rawOp1_canon {hForm : Bool} {f : Word → Word} {w : CoreWords} {s : State} (hs : Canon s) : OutCanon (rawOp1 hForm f w s) :=
  laneOp_canon hs

theorem rawOp2_canon {hForm : Bool} {f : Word → Word → Word} {w : CoreWords} {s : State} (hs : Canon s) : OutCanon (rawOp2 hForm f w s) :=
  laneOp_canon hs

theorem selOp_canon {hForm : Bool} {w : CoreWords} {s : State} (hs : Canon s) : OutCanon (selOp hForm w s) :=
  execCore_canon hs (fun _ _ _ hs1 => withRegs_canon hs1 (fun _ _ hs2 => writeDTags_canon hs2))

theorem cmpOp_canon {hForm : Bool} {p : Bool → Word → Word → Bool} {w : CoreWords} {s : State} (hs : Canon s) :
    OutCanon (cmpOp hForm p w s) := execCore_canon hs (fun _ _ _ hs1 => withRegs_canon hs1 (fun _ _ hs2 => writeQD_canon hs2))

theorem pairOp_canon {b : CoreWords → Operand} {f : CoreWords → DWord → DWord → DWord} {w : CoreWords} {s : State} (hs : Canon s) :
    OutCanon (pairOp b f w s) := execCore_canon hs (fun _ _ _ hs1 => withRegs_canon hs1 (fun _ _ hs2 => writePairD_canon hs2))

theorem movOp_canon {hForm : Bool} {w : CoreWords} {s : State} (hs : Canon s) : OutCanon (movOp hForm w s) :=
  execCore_canon hs (fun _ _ _ hs1 => withRegs_canon hs1 (fun _ _ hs2 => writeDTags_canon hs2))

theorem execUni_canon {w : CoreWords} {s : State} (hs : Canon s) : OutCanon (execUni w s) := by
  unfold execUni
  refine execCore_canon hs ?_
  intro _ _ _ hs1
  dsimp only
  split
  · exact hs1
  · split
    next e1 => exact e1.subst (motive := Done.Canon) (withRegs_canon hs1 (fun _ _ hs2 => writeH_canon hs2))
    · exact withRegs_canon hs1 (fun _ _ hs2 => writeH_canon hs2)

theorem execUniChk_canon {w : CoreWords} {s : State} (hs : Canon s) : OutCanon (execUniChk w s) := by
  unfold execUniChk
  refine execCore_canon hs ?_
  intro _ _ _ hs1
  dsimp only
  split
  next e =>
    refine e.subst (motive := Done.Canon) ?_
    refine withRegs_canon hs1 ?_
    intro _ _ hs2
    split
    · exact hs2
    · exact writeH_canon hs2
  · refine withRegs_canon hs1 ?_
    intro _ _ hs2
    split
    · exact hs2
    · exact writeH_canon hs2

theorem writeFlagged_canon {s : State} {i : SplitIssue} {w : CoreWords} {act : Lanes} {f : Nat → Word × Flags} {tag : BitVec 4}
    (hs : Canon s) : Canon (s.writeFlagged i w act f tag) := updHand_canon (writeD_canon hs)

theorem fltOp_canon {hForm two three : Bool} {allowed : BitVec 4 → Bool} {f : CoreWords → FFmt → Nat → Nat → Nat → Nat × Flags}
    {w : CoreWords} {s : State} (hs : Canon s) : OutCanon (fltOp hForm two three allowed f w s) := by
  unfold fltOp
  refine execCore_canon hs ?_
  intro _ _ _ hs1
  dsimp only
  split
  · exact hs1
  · exact withRegs_canon hs1 (fun _ _ hs2 => writeFlagged_canon hs2)

theorem elemOp_canon {fn : Nat} {w : CoreWords} {s : State} (hs : Canon s) : OutCanon (elemOp fn w s) := fltOp_canon hs

theorem execCvt_canon {w : CoreWords} {s : State} (hs : Canon s) : OutCanon (execCvt w s) := by
  unfold execCvt
  refine execCore_canon hs ?_
  intro _ _ _ hs1
  dsimp only
  split
  · exact hs1
  · exact withRegs_canon hs1 (fun _ _ hs2 => writeFlagged_canon hs2)

theorem execPkscl_canon {w : CoreWords} {s : State} (hs : Canon s) : OutCanon (execPkscl w s) := by
  unfold execPkscl
  refine execCore_canon hs ?_
  intro _ _ _ hs1
  dsimp only
  split
  · exact hs1
  · exact hs1
  · exact withRegs_canon hs1 (fun _ _ hs2 => writeFlagged_canon hs2)

theorem execUnpk_canon {w : CoreWords} {s : State} (hs : Canon s) : OutCanon (execUnpk w s) := by
  unfold execUnpk
  refine execCore_canon hs ?_
  intro _ _ _ hs1
  dsimp only
  split
  · exact hs1
  · exact withRegs_canon hs1 (fun _ _ hs2 => writeFlagged_canon hs2)

theorem execDot8_canon {w : CoreWords} {s : State} (hs : Canon s) : OutCanon (execDot8 w s) := by
  unfold execDot8
  refine execCore_canon hs ?_
  intro _ _ _ hs1
  dsimp only
  split
  · exact hs1
  · exact withRegs_canon hs1 (fun _ _ hs2 => writeFlagged_canon hs2)

theorem hredOp_canon {which : Nat} {w : CoreWords} {s : State} (hs : Canon s) : OutCanon (hredOp which w s) := by
  unfold hredOp
  refine execCore_canon hs ?_
  intro _ _ _ hs1
  dsimp only
  split
  · exact hs1
  · exact withRegs_canon hs1 (fun _ _ hs2 => updHand_canon (writeD_canon hs2))

theorem fcmpOp_canon {hForm : Bool} {p : Ordering → Bool} {nanResult ordered : Bool} {w : CoreWords} {s : State} (hs : Canon s) :
    OutCanon (fcmpOp hForm p nanResult ordered w s) := by
  unfold fcmpOp
  refine execCore_canon hs ?_
  intro _ _ _ hs1
  dsimp only
  split
  · exact hs1
  · exact withRegs_canon hs1 (fun _ _ hs2 => updHand_canon (writeQD_canon hs2))

theorem hitTile_canon {s : State} {c tile row col : Nat} (hs : Canon s) : Canon (s.hitTile c tile row col) := updCore_canon hs

theorem endWork_canon {s : State} {c id : Nat} (hs : Canon s) : Canon (s.endWork c id) := kick_canon (dropWork_canon hs)

theorem epiRows_canon {c row col nc : Nat} {lines : List Nat} {off : Nat} {elem : Nat → Word → Nat × Flags} {width hand : Nat} {ms : List Nat}
    {s : State} {f : Flags} {v : View} {ws : List Chunk} (hs : Canon s) :
    (State.epiRows c row col nc lines off elem width hand ms s f v ws).Canon := by
  induction ms generalizing s f ws with
  | nil => exact hs
  | cons m ms ih =>
    unfold State.epiRows
    dsimp only
    split
    · exact hs
    · exact ih (ite_canon (updSaved_canon hs) hs)

theorem logTile_canon {s : State} {c : Nat} {unit : BitVec 4} (hs : Canon s) : Canon (s.logTile c unit) := magpie_canon (updCluBank_canon hs)

theorem runWork_canon {s : State} {c : Nat} {x : TileWork} {picks : List Nat} (hs : Canon s) : (s.runWork c x picks).Canon := by
  unfold State.runWork
  dsimp only
  split
  · exact hs
  · exact hs
  · exact hs
  · split
    · exact foldl_canon (fun _ _ hs1 => logUE_canon hs1) hs
    · exact updCore_canon (foldl_canon (fun _ _ hs1 => logUE_canon hs1) hs)
  · exact hs
  · exact updCore_canon hs
  · exact updCore_canon hs
  · split
    · exact foldl_canon (fun _ _ hs1 => logUE_canon hs1) hs
    · exact updCore_canon (foldl_canon (fun _ _ hs1 => logUE_canon hs1) hs)
  · exact hs
  · exact hs
  · exact updCore_canon hs
  · split
    · split
      · exact foldl_canon (fun _ _ hs1 => logUE_canon hs1) (crossHome_canon hs)
      · exact epiRows_canon (foldl_canon (fun _ _ hs1 => logUE_canon hs1) (crossHome_canon hs))
    · split
      · exact foldl_canon (fun _ _ hs1 => logUE_canon hs1) hs
      · exact epiRows_canon (foldl_canon (fun _ _ hs1 => logUE_canon hs1) hs)

theorem updWork_canon {s : State} {c wid : Nat} {f : TileWork → TileWork} (hs : Canon s) : Canon (s.updWork c wid f) := updCore_canon hs

theorem workOut_canon {s : State} {c : Nat} {x : TileWork} {picks : List Nat} (hs : Canon s) :
    (s.workOut c x picks).elim True TileOut.Canon := by
  unfold State.workOut
  split
  · exact trivial
  · split
    · exact ite_canon hs (logTile_canon hs)
    · exact runWork_canon hs

theorem workKills_canon {s : State} {k c : Nat} {x : TileWork} {code : BitVec 8} {ws : List Chunk} (hs : Canon s) :
    Canon (s.workKills k c x code ws) := ite_canon (endWork_canon (writeChunks_canon hs)) (killGang_canon (writeChunks_canon hs))

theorem doWork_canon {s : State} {k c : Nat} {x : TileWork} {picks : List Nat} (hs : Canon s) : Canon (s.doWork k c x picks) := by
  unfold State.doWork
  split
  · exact hs
  next e => exact workKills_canon (e.subst (motive := fun o => o.elim True TileOut.Canon) (workOut_canon hs))
  next e => exact updWork_canon (e.subst (motive := fun o => o.elim True TileOut.Canon) (workOut_canon hs))

theorem workDrain_canon {s : State} {c wid n : Nat} (hs : Canon s) : Canon (s.workDrain c wid n) := by
  unfold State.workDrain
  split
  · exact hs
  · split
    · exact hs
    · dsimp only
      exact updWork_canon (writeChunks_canon hs)

theorem rowArrives_canon {s : State} {c wid m : Nat} {arrived : List (BitVec 8)} (hs : Canon s) : Canon (s.rowArrives c wid m arrived) := by
  unfold State.rowArrives
  split
  · exact hs
  · exact ite_canon hs (ite_canon (endWork_canon hs) (killGang_canon hs))

theorem moveDrain_canon {s : State} {k id c : Nat} {x : TileWork} (hs : Canon s) : Canon (s.moveDrain k id c x) := by
  unfold State.moveDrain
  split
  · split
    · exact hs
    · split
      · exact ite_canon (endWork_canon hs) (killGang_canon (logTile_canon hs))
      · exact updOutst_canon (addWork_canon (endWork_canon hs))
  · exact hs

theorem workStep_canon {s : State} {c wid : Nat} {pick : Option Nat} {picks : List Nat} (hs : Canon s) :
    Canon (s.workStep c wid pick picks) := by
  unfold State.workStep
  split
  · exact workDrain_canon hs
  · split
    · exact hs
    · exact hs
    · exact hs
    · exact hs
    · dsimp only
      split
      · exact moveDrain_canon hs
      · exact endWork_canon hs
    · exact doWork_canon hs
  · exact hs

theorem tileReturns_canon {s : State} {k id c wid : Nat} {f : Flags} {v : View} {ws : List Chunk} (hs : Canon s) :
    Canon (s.tileReturns k id c wid f v ws) := by
  unfold State.tileReturns
  dsimp only
  exact returnResult_canon (endWork_canon (updOutst_canon (writeChunks_canon hs)))

theorem completeTile_canon {s : State} {k id c wid : Nat} {picks : List Nat} (hs : Canon s) : Canon (s.completeTile k id c wid picks) := by
  unfold State.completeTile
  dsimp only
  split
  · exact kick_canon hs
  · split
    next e1 => exact workKills_canon (e1.subst (motive := fun o => o.elim True TileOut.Canon) (workOut_canon (kick_canon hs)))
    next e1 => exact tileReturns_canon (e1.subst (motive := fun o => o.elim True TileOut.Canon) (workOut_canon (kick_canon hs)))
    · exact tileReturns_canon (kick_canon hs)
    · exact kick_canon hs

theorem execAcdrainAdd_canon {s : State} (hs : Canon s) : OutCanon (execAcdrainAdd s) := by
  unfold execAcdrainAdd
  dsimp only
  split
  · exact hs
  · split
    · split
      · split
        · exact moveDrain_canon hs
        · exact completeTile_canon hs
        · exact hs
      · exact hs
    · exact hs

theorem parkHandler_canon {s : State} {i : SplitIssue} {rd : List TileRes} (hs : Canon s) : (s.parkHandler i rd).elim True Canon := by
  unfold State.parkHandler
  dsimp only
  split
  · exact updHand_canon hs
  · exact trivial

theorem issueTile_canon {s : State} {i : SplitIssue} {act : Lanes} {op : TileOp} {shA shB : DWord} (hs : Canon s) :
    (s.issueTile i act op shA shB).Canon := by
  unfold State.issueTile
  dsimp only
  split
  next e => exact some_canon (parkHandler_canon hs) e
  · exact addOutst_canon (addWork_canon hs)

theorem tileAccess_canon {acc : Access} {k : SplitIssue → Lanes → State → Nat → DWord → Done} {w : CoreWords} {i : SplitIssue}
    {act : Lanes} {s : State} (hs : Canon s) (hk : ∀ a b s d e, Canon s → (k a b s d e).Canon) : (tileAccess acc k w i act s).Canon := by
  unfold tileAccess
  refine withRegs_canon hs ?_
  intro _ _ hs1
  dsimp only
  split
  · exact hs1
  · split
    next e1 => exact error_canon (checkAccess_canon hs1) e1
    next e1 => exact hk _ _ _ _ _ (ok_snd_canon (checkAccess_canon hs1) e1)

theorem execTcfg_canon {w : CoreWords} {s : State} (hs : Canon s) : OutCanon (execTcfg w s) := by
  unfold execTcfg
  refine execCore_canon hs ?_
  intro _ _ _ hs1
  refine withRegs_canon hs1 ?_
  intro _ _ hs2
  dsimp only
  split
  · split
    · exact hs2
    · exact kick_canon (addWork_canon (updCore_canon hs2))
  · split
    · exact hs2
    · exact kick_canon (addWork_canon (updCore_canon hs2))

theorem mmaOp_canon {col : CoreWords → Nat} {rows : CoreWords → DWord → Option (List Nat)} {w : CoreWords} {s : State} (hs : Canon s) :
    OutCanon (mmaOp col rows w s) := by
  unfold mmaOp
  refine execCore_canon hs ?_
  intro _ _ _ hs1
  refine withRegs_canon hs1 ?_
  intro _ _ hs2
  dsimp only
  split
  · exact hs2
  · split
    · exact hs2
    · split
      · exact hs2
      · split
        · exact hs2
        · split
          · exact hs2
          · exact issueTile_canon hs2

theorem execAcz_canon {w : CoreWords} {s : State} (hs : Canon s) : OutCanon (execAcz w s) := by
  unfold execAcz
  refine execCore_canon hs ?_
  intro _ _ _ hs1
  refine withRegs_canon hs1 ?_
  intro _ _ hs2
  dsimp only
  split
  · exact hs2
  · exact issueTile_canon hs2

theorem execAcld_canon {w : CoreWords} {s : State} (hs : Canon s) : OutCanon (execAcld w s) := by
  unfold execAcld
  refine execCore_canon hs ?_
  intro _ _ _ hs1
  refine withRegs_canon hs1 ?_
  intro _ _ hs2
  dsimp only
  split
  · exact hs2
  · split
    next e1 => exact error_canon (checkAccess_canon hs2) e1
    next e1 => exact issueTile_canon (ok_snd_canon (checkAccess_canon hs2) e1)

theorem memLines_canon {s : State} {i : SplitIssue} {act : Lanes} {va : DWord} {n : Nat} (hs : Canon s) :
    Both (fun x => Canon x.1) (fun x => Canon x.2.2) (s.memLines i act va n) := by
  unfold State.memLines
  dsimp only
  split
  · exact hs
  · split
    · exact hs
    · refine foldl_canon ?_ hs
      intro _ _ hs1
      split
      · exact requestPage_canon hs1
      · exact hs1
    · exact tlbAddAll_canon hs

theorem blockDest_canon {s : State} {i : SplitIssue} {act : Lanes} {mem : Bool} {a : DWord} {n : Nat} (hs : Canon s) :
    Both (fun x => Canon x.1) (fun x => Canon x.2.2) (s.blockDest i act mem a n) := by
  unfold State.blockDest
  split
  · exact memLines_canon hs
  · split
    next x _ e2 => exact e2.subst (motive := Both (fun x => Canon x.1) (fun x => Canon x.2)) (checkAccess_canon hs)
    next e1 => exact ok_snd_canon (checkAccess_canon hs) e1

theorem execAcst_canon {w : CoreWords} {s : State} (hs : Canon s) : OutCanon (execAcst w s) := by
  unfold execAcst
  refine execCore_canon hs ?_
  intro _ _ _ hs1
  refine withRegs_canon hs1 ?_
  intro _ _ hs2
  dsimp only
  split
  · exact hs2
  · split
    next e1 => exact error_canon (blockDest_canon hs2) e1
    next e1 => exact issueTile_canon (ok_snd_snd_canon (blockDest_canon hs2) e1)

theorem execAcdrain_canon {w : CoreWords} {s : State} (hs : Canon s) : OutCanon (execAcdrain w s) := by
  unfold execAcdrain
  refine execCore_canon hs ?_
  intro _ _ _ hs1
  refine withRegs_canon hs1 ?_
  intro _ _ hs2
  dsimp only
  split
  · exact hs2
  · exact hs2
  · split
    · exact hs2
    · exact issueTile_canon hs2

theorem execEpi_canon {w : CoreWords} {s : State} (hs : Canon s) : OutCanon (execEpi w s) := by
  unfold execEpi
  refine execCore_canon hs ?_
  intro _ _ _ hs1
  refine withRegs_canon hs1 ?_
  intro _ _ hs2
  dsimp only
  split
  · exact hs2
  · split
    · exact hs2
    next x _ =>
      split
      next e2 =>
        refine e2.subst (motive := Both (fun x => Canon x.1) (fun x => Canon x.2)) ?_
        split
        · exact hs2
        · split
          next e5 => exact e5.subst (motive := Both (fun x => Canon x.1) (fun x => Canon x.2)) (checkAccess_canon hs2)
          next e4 => exact ok_snd_canon (checkAccess_canon hs2) e4
      next e2 =>
        split
        next e3 =>
          refine e3.subst (motive := Both (fun x => Canon x.1) (fun x => Canon x.2.2)) ?_
          refine blockDest_canon ?_
          refine e2.subst (motive := Both (fun x => Canon x.1) (fun x => Canon x.2)) ?_
          split
          · exact hs2
          · split
            next e6 => exact e6.subst (motive := Both (fun x => Canon x.1) (fun x => Canon x.2)) (checkAccess_canon hs2)
            next e5 => exact ok_snd_canon (checkAccess_canon hs2) e5
        next e3 =>
          refine issueTile_canon ?_
          refine e3.subst (motive := Both (fun x => Canon x.1) (fun x => Canon x.2.2)) ?_
          refine blockDest_canon ?_
          refine e2.subst (motive := Both (fun x => Canon x.1) (fun x => Canon x.2)) ?_
          split
          · exact hs2
          · split
            next e6 => exact e6.subst (motive := Both (fun x => Canon x.1) (fun x => Canon x.2)) (checkAccess_canon hs2)
            next e5 => exact ok_snd_canon (checkAccess_canon hs2) e5

theorem addSlice_canon {s : State} {i : SplitIssue} {k : Nat} (hs : Canon s) : Canon (s.addSlice i k) := by
  unfold State.addSlice
  dsimp only
  split
  · exact hs
  · exact addWork_canon hs

theorem fireRound_canon {s : State} {i : SplitIssue} (hs : Canon s) : Canon (s.fireRound i) := by
  unfold State.fireRound
  dsimp only
  split
  · exact hs
  · split
    · exact foldl_canon (fun _ _ hs1 => updSaved_canon hs1) hs
    · split
      · exact hs
      · exact kick_canon (foldl_canon (fun _ _ hs1 => addSlice_canon hs1) (addWork_canon (foldl_canon (fun _ _ hs1 => updSaved_canon hs1) hs)))

theorem execGmma_canon {w : CoreWords} {s : State} (hs : Canon s) : OutCanon (execGmma w s) := by
  unfold execGmma
  refine execCore_canon hs ?_
  intro _ _ _ hs1
  refine withRegs_canon hs1 ?_
  intro _ _ hs2
  dsimp only
  split
  · exact hs2
  · split
    · exact hs2
    · split
      · exact hs2
      · split
        · exact hs2
        · split
          · exact hs2
          · split
            next e5 => exact some_canon (parkHandler_canon hs2) e5
            · exact fireRound_canon (updHand_canon hs2)

theorem execGmmaSliceDone_canon {s : State} (hs : Canon s) : OutCanon (execGmmaSliceDone s) := by
  unfold execGmmaSliceDone
  dsimp only
  split
  · exact hs
  · split
    · exact hs
    · split
      · exact hs
      · split
        · exact killGang_canon (ite_canon hs (logTile_canon hs))
        · split
          · exact killGang_canon (logTile_canon hs)
          · exact endWork_canon (updSaved_canon (updCore_canon hs))

end Sys2Proof.Machine
end

section
/-!
PROOFS. The canonical form of memory is kept (O58). Engines, speculation and system instructions.
-/
namespace Sys2Proof.Machine

theorem trapParked_canon {s : State} {k : Nat} {t : TrapInfo} (hs : Canon s) : Canon (s.trapParked k t) :=
  ite_canon (killGang_canon (reload_canon hs)) (patchCtx_canon (updHand_canon (reload_canon hs)))

theorem answer_canon {s : State} {i : SplitIssue} {act : Lanes} {dst : List OutDst} {joins : List View} (hs : Canon s) :
    Canon (s.answer i act dst joins) := updOutst_canon (addOutst_canon hs)

theorem cbWrite_canon {s : State} {block old new : Nat} (hs : Canon s) : Canon (s.cbWrite block old new) :=
  foldl_canon (fun _ _ hs1 => ite_canon hs1 (putWord_canon hs1)) hs

theorem takeFull_canon {s : State} {block : Nat} (hs : Canon s) : (s.takeFull block).Canon := by
  unfold State.takeFull
  split
  · exact trivial
  · dsimp only
    split
    · exact cbWrite_canon hs
    · exact trivial
    · exact hs

theorem takeFree_canon {s : State} {block : Nat} (hs : Canon s) : (s.takeFree block).Canon := by
  unfold State.takeFree
  split
  · exact trivial
  · dsimp only
    split
    · exact trivial
    · split
      · exact cbWrite_canon hs
      · exact hs

theorem giveFull_canon {s : State} {block : Nat} {view : View} (hs : Canon s) : (s.giveFull block view).Canon := by
  unfold State.giveFull
  split
  · exact trivial
  · dsimp only
    split
    · exact trivial
    · exact cbWrite_canon hs

theorem giveFree_canon {s : State} {block : Nat} (hs : Canon s) : (s.giveFree block).Canon := by
  unfold State.giveFree
  split
  · exact trivial
  · dsimp only
    split
    · exact trivial
    · exact cbWrite_canon hs

theorem cbFaulted_canon {s : State} {k : Nat} {o : Outst} {pc cbd : DWord} (hs : Canon s) : Canon (s.cbFaulted k o pc cbd) :=
  trapParked_canon (updHand_canon hs)

theorem serveTakes_succ (fuel : Nat) (s : State) (block : Nat) : State.serveTakes (fuel + 1) s block =
    match s.firstTake block with
    | none => s
    | some (k, o, pc, cbd) =>
      match s.takeFull block with
      | .wait => s
      | .fault => State.serveTakes fuel (s.cbFaulted k o pc cbd) block
      | .value s v view =>
        State.serveTakes fuel ((s.updOutst k o.id (fun o =>
          { o with joins := o.split.list.map (fun t => (t, view)),
                   dsts := o.dsts.map (fun d => { d with vals := (uniformDst d.dst 0 v).vals }) })).deliverResult k o.id) block := by
  exact rfl

theorem serveTakes_canon {fuel block : Nat} {s : State} (hs : Canon s) : Canon (State.serveTakes fuel s block) := by
  induction fuel generalizing s with
  | zero => exact hs
  | succ n ih =>
    rw [serveTakes_succ]
    split
    · exact hs
    · split
      · exact hs
      · exact ih (cbFaulted_canon hs)
      next e1 => exact ih (deliverResult_canon (updOutst_canon (e1.subst (motive := CbOut.Canon) (takeFull_canon hs))))

theorem updCopy_canon {s : State} {id : Nat} {f : Copy → Copy} (hs : Canon s) : Canon (s.updCopy id f) := hs

theorem fetchLines_canon {s : State} {c : Copy} (hs : Canon s) : Canon (s.fetchLines c) := by
  unfold State.fetchLines
  split
  · exact ite_canon hs (requestLines_canon hs)
  · exact hs

theorem claim_canon {s : State} {c : Copy} {block : Nat} (hs : Canon s) : Canon (s.claim c block) := by
  unfold State.claim
  dsimp only
  split
  · exact updCopy_canon hs
  · split
    · exact updCopy_canon hs
    · split
      · exact updCopy_canon hs
      · split
        · exact hs
        · split
          · exact updCopy_canon hs
          · exact fetchLines_canon (updCopy_canon (cbWrite_canon hs))

theorem startCopy_canon {s : State} {c : Copy} (hs : Canon s) : Canon (s.startCopy c) := by
  unfold State.startCopy
  dsimp only
  split
  · exact updCopy_canon hs
  · split
    · split
      · exact updCopy_canon hs
      · split
        · exact updCopy_canon hs
        · split
          · exact ite_canon hs (claim_canon hs)
          · exact fetchLines_canon hs
    · split
      · exact updCopy_canon hs
      · split
        · exact updCopy_canon hs
        · split
          · exact ite_canon hs (claim_canon hs)
          · exact fetchLines_canon hs

theorem kickCopies_canon {s : State} (hs : Canon s) : Canon s.kickCopies := by
  unfold State.kickCopies
  refine foldl_canon (fun _ _ hs1 => ite_canon (startCopy_canon hs1) hs1) ?_
  refine foldl_canon ?_ hs
  intro _ _ hs1
  split
  · split
    · exact claim_canon hs1
    · exact hs1
  · exact hs1

theorem nextLine_canon {s : State} {id die : Nat} {src dst : Nat → Option Nat} {p : Lines} {v : View} {picks : List Nat}
    (hs : Canon s) : Canon (s.nextLine id die src dst p v picks).1 := by
  unfold State.nextLine
  split
  · split
    · exact hs
    · dsimp only
      split
      · exact logUE_canon (hostRead_canon (crossHome_canon hs))
      · exact hostRead_canon (crossHome_canon hs)
  · exact hs

theorem drainLine_canon {s : State} {id : Nat} {party : Party} {p : Lines} {v : View} {k : Nat} (hs : Canon s) :
    Canon (s.drainLine id party p v k).1 := by
  unfold State.drainLine
  split
  · exact hs
  · split
    next e1 => exact some_fst_canon (writeChunk_canon hs) e1
    · exact hs

theorem drainLines_canon {id fuel : Nat} {party : Party} {x : State × Lines × View} (hs : Canon x.1) :
    Canon (State.drainLines id party fuel x).1 := by
  induction fuel generalizing x with
  | zero => exact hs
  | succ n ih => exact ih (drainLine_canon hs)

theorem finishLines_canon {id : Nat} {party : Party} {src dst : Nat → Option Nat} {n : Nat} {s : State} {p : Lines} {v : View}
    {picks : List Nat} (hs : Canon s) : Canon (State.finishLines id party src dst n s p v picks).1 := by
  induction n generalizing s p v picks with
  | zero => exact drainLines_canon hs
  | succ n ih =>
    unfold State.finishLines
    split
    · exact drainLines_canon hs
    · dsimp only
      exact ih (drainLines_canon (nextLine_canon hs))

theorem lineStep_canon {s : State} {id : Nat} {party : Party} {src dst : Nat → Option Nat} {count : Nat} {p : Lines} {v : View}
    {pick : Option Nat} {picks : List Nat} (hs : Canon s) : Canon (s.lineStep id party src dst count p v pick picks).1 := by
  unfold State.lineStep
  split
  · exact drainLine_canon hs
  · split
    · exact hs
    · exact nextLine_canon hs

theorem landSlot_canon {s : State} {c : Copy} {block slot moved result : Nat} {v : View} (hs : Canon s) :
    Canon (s.landSlot c block slot moved result v) := by
  unfold State.landSlot
  refine serveTakes_canon ?_
  split
  · dsimp only [Canon]
    show Canon _
    exact cbWrite_canon hs
  · refine foldl_canon (fun _ _ hs1 => markCopied_canon hs1) ?_
    dsimp only [Canon]
    show Canon _
    exact cbWrite_canon hs

theorem twinLines_canon {s : State} {c : Copy} {f : Forward} {v : View} (hs : Canon s) : Canon (s.twinLines c f v).1 := by
  unfold State.twinLines
  dsimp only
  split
  · exact hs
  · exact putBytes_canon hs

theorem copyStep_canon {s : State} {id : Nat} {pick : Option Nat} {picks : List Nat} (hs : Canon s) : Canon (s.copyStep id pick picks) := by
  unfold State.copyStep
  split
  · exact hs
  · split
    · exact hs
    · dsimp only
      exact updCopy_canon (lineStep_canon hs)

theorem endCopy_canon {s : State} {c : Copy} {picks : List Nat} (hs : Canon s) : Canon (s.endCopy c picks) := by
  unfold State.endCopy
  dsimp only
  refine kickCopies_canon ?_
  split
  · dsimp only [Canon]
    show Canon _
    split
    · split
      · refine landSlot_canon ?_
        split
        · exact hs
        · split
          · exact twinLines_canon hs
          · exact finishLines_canon hs
      · split
        · exact hs
        · split
          · exact twinLines_canon hs
          · exact finishLines_canon hs
    · refine writeBBar_canon ?_
      dsimp only [Canon]
      show Canon _
      split
      · refine landSlot_canon ?_
        split
        · exact hs
        · split
          · exact twinLines_canon hs
          · exact finishLines_canon hs
      · split
        · exact hs
        · split
          · exact twinLines_canon hs
          · exact finishLines_canon hs
  · refine deliverResult_canon ?_
    refine updOutst_canon ?_
    dsimp only [Canon]
    show Canon _
    split
    · split
      · refine landSlot_canon ?_
        split
        · exact hs
        · split
          · exact twinLines_canon hs
          · exact finishLines_canon hs
      · split
        · exact hs
        · split
          · exact twinLines_canon hs
          · exact finishLines_canon hs
    · refine writeBBar_canon ?_
      dsimp only [Canon]
      show Canon _
      split
      · refine landSlot_canon ?_
        split
        · exact hs
        · split
          · exact twinLines_canon hs
          · exact finishLines_canon hs
      · split
        · exact hs
        · split
          · exact twinLines_canon hs
          · exact finishLines_canon hs

theorem copyLost_canon {s : State} {id line : Nat} (hs : Canon s) : Canon (s.copyLost id line) := updCopy_canon hs

theorem execCopyComplete_canon {s : State} (hs : Canon s) : OutCanon (execCopyComplete s) := by
  unfold execCopyComplete
  dsimp only
  split
  · exact kickCopies_canon hs
  · split
    · exact kickCopies_canon hs
    · split
      · exact copyStep_canon (copyStep_canon (kickCopies_canon hs))
      · exact endCopy_canon (kickCopies_canon hs)

theorem uniRange_canon {s : State} {i : SplitIssue} {act : Lanes} {acc : Access} {align n : Nat} {ca : DWord} (hs : Canon s) :
    Both (fun x => Canon x.1) (fun _ => True) (s.uniRange i act acc align n ca) := exceptMap_any (checkAccess_canon hs)

theorem execCpy_canon {w : CoreWords} {s : State} (hs : Canon s) : OutCanon (execCpy w s) := by
  unfold execCpy
  refine execCore_canon hs ?_
  intro _ _ _ hs1
  refine withRegs_canon hs1 ?_
  intro _ _ hs2
  dsimp only
  split
  · split
    · exact hs2
    · split
      next e2 =>
        refine e2.subst (motive := Both (fun x => Canon x.1) (fun _ => True)) ?_
        split
        · exact trivial
        · exact uniRange_canon hs2
      next e2 _ =>
        refine e2.subst (motive := Both (fun x => Canon x.1) (fun _ => True)) ?_
        split
        · exact exceptMap_any (uniRange_canon hs2)
        · exact trivial
      · split
        · exact hs2
        · exact kickCopies_canon (addOutst_canon hs2)
  · split
    · exact hs2
    · split
      next e2 =>
        refine e2.subst (motive := Both (fun x => Canon x.1) (fun _ => True)) ?_
        split
        · exact trivial
        · exact uniRange_canon hs2
      next e2 _ =>
        refine e2.subst (motive := Both (fun x => Canon x.1) (fun _ => True)) ?_
        split
        · exact exceptMap_any (uniRange_canon hs2)
        · exact trivial
      · split
        · exact hs2
        · exact kickCopies_canon (addOutst_canon hs2)

theorem bindWindow_canon {s : State} {h : Hand} {idx n : Nat} (hs : Canon s) : Canon (s.bindWindow h idx n).2 := by
  unfold State.bindWindow
  dsimp only
  split
  · exact hs
  · split
    · exact updCluster_canon hs
    · split
      · exact hs
      · split
        · exact hs
        · split
          · exact hs
          · split
            · exact hs
            · split
              · exact hs
              · exact updCluster_canon hs

theorem execWbind_canon {w : CoreWords} {s : State} (hs : Canon s) : OutCanon (execWbind w s) := by
  unfold execWbind
  refine execCore_canon hs ?_
  intro _ _ _ hs1
  refine withRegs_canon hs1 ?_
  intro _ _ hs2
  dsimp only
  split
  · exact hs2
  · split
    · exact hs2
    · split
      next e2 => exact error_canon (uniRange_canon hs2) e2
      · exact addOutst_canon hs2

theorem execWinq_canon {w : CoreWords} {s : State} (hs : Canon s) : OutCanon (execWinq w s) := by
  unfold execWinq
  refine execCore_canon hs ?_
  intro _ _ _ hs1
  refine withRegs_canon hs1 ?_
  intro _ _ hs2
  dsimp only
  split
  · exact hs2
  · split
    · exact writeH_canon (touch_canon hs2)
    · exact writeH_canon (ite_canon (foldl_canon (fun _ _ hs3 => updThread_canon hs3) (touch_canon hs2)) (touch_canon hs2))

theorem releaseLoads_canon {s : State} {c : Nat} {x : Window} {fill : Option View} (hs : Canon s) : Canon (s.releaseLoads c x fill) := by
  unfold State.releaseLoads
  show Canon _
  dsimp only [Canon]
  show Canon _
  exact hs

theorem updWindow_canon {s : State} {c idx : Nat} {f : Window → Window} (hs : Canon s) : Canon (s.updWindow c idx f) := updCluster_canon hs

theorem fillStep_canon {s : State} {c idx : Nat} {pick : Option Nat} {picks : List Nat} (hs : Canon s) :
    Canon (s.fillStep c idx pick picks) := by
  unfold State.fillStep
  split
  · exact hs
  · dsimp only
    exact ite_canon hs (updWindow_canon (lineStep_canon hs))

theorem endFill_canon {s : State} {c : Nat} {x : Window} {picks : List Nat} (hs : Canon s) : Canon (s.endFill c x picks) := by
  unfold State.endFill
  dsimp only
  refine releaseLoads_canon ?_
  dsimp only [Canon]
  show Canon _
  refine updWindow_canon ?_
  split
  · exact hs
  · exact finishLines_canon hs

theorem execWindowFillEnd_canon {s : State} (hs : Canon s) : OutCanon (execWindowFillEnd s) := by
  unfold execWindowFillEnd
  split
  · exact hs
  · split
    · exact endFill_canon hs
    · exact hs

theorem cbAnswer_canon {s : State} {i : SplitIssue} {act : Lanes} {dst : List OutDst} {view : View} {acted : Bool} (hs : Canon s) :
    Canon (s.cbAnswer i act dst view acted) := updHand_canon (answer_canon hs)

theorem cbFails_canon {s : State} {i : SplitIssue} {act : Lanes} {cbd : DWord} {dst : List OutDst} (hs : Canon s) :
    Canon (s.cbFails i act cbd dst) := updHand_canon (addOutst_canon hs)

theorem cbTakeOp_canon {full : Bool} {w : CoreWords} {s : State} (hs : Canon s) : OutCanon (cbTakeOp full w s) := by
  unfold cbTakeOp
  refine execCore_canon hs ?_
  intro _ _ _ hs1
  dsimp only
  split
  · exact hs1
  · split
    · exact cbFails_canon hs1
    next e1 =>
      refine cbAnswer_canon ?_
      refine e1.subst (motive := CbOut.Canon) ?_
      split
      · split
        · exact trivial
        · exact takeFull_canon hs1
      · exact takeFree_canon hs1
    · exact updHand_canon (addOutst_canon hs1)

theorem cbGiveOp_canon {full : Bool} {w : CoreWords} {s : State} (hs : Canon s) : OutCanon (cbGiveOp full w s) := by
  unfold cbGiveOp
  refine execCore_canon hs ?_
  intro _ _ _ hs1
  dsimp only
  split
  · exact updHand_canon hs1
  · split
    · exact hs1
    · split
      next e2 =>
        refine kickCopies_canon ?_
        refine cbAnswer_canon ?_
        refine e2.subst (motive := CbOut.Canon) ?_
        split
        · exact giveFull_canon hs1
        · exact giveFree_canon hs1
      · exact cbFails_canon hs1

theorem execQput_canon {w : CoreWords} {s : State} (hs : Canon s) : OutCanon (execQput w s) := by
  unfold execQput
  refine execCore_canon hs ?_
  intro _ _ _ hs1
  refine withRegs_canon hs1 ?_
  intro _ _ hs2
  dsimp only
  split
  · exact hs2
  · split
    next e1 => exact error_canon (uniRange_canon hs2) e1
    · exact answer_canon (ite_canon hs2 hs2)

theorem popJob_canon {s : State} {k q : Nat} (hs : Canon s) : Canon (s.popJob k q) := hs

theorem serveQgets_canon {k q n : Nat} {s : State} (hs : Canon s) : Canon (State.serveQgets k q n s) := by
  induction n generalizing s with
  | zero => exact hs
  | succ n ih =>
    unfold State.serveQgets
    split
    · exact hs
    · exact ih (deliverResult_canon (updOutst_canon hs))
    · exact ite_canon hs (ih (deliverResult_canon (updHand_canon (updOutst_canon (popJob_canon hs)))))

theorem execQget_canon {w : CoreWords} {s : State} (hs : Canon s) : OutCanon (execQget w s) := by
  unfold execQget
  refine execCore_canon hs ?_
  intro _ _ _ hs1
  dsimp only
  split
  · exact answer_canon hs1
  · split
    · exact updHand_canon (updOutst_canon (addOutst_canon (popJob_canon hs1)))
    · exact addOutst_canon hs1

theorem runQueue_canon {s : State} {j : Job} {picks : List Nat} (hs : Canon s) : Canon (s.runQueue j picks).2 := by
  unfold State.runQueue
  dsimp only
  exact foldl_canon (fun _ _ hs1 => logUE_canon hs1) (crossHome_canon hs)

theorem updJob_canon {s : State} {k q : Nat} {f : Job → Job} (hs : Canon s) : Canon (s.updJob k q f) := hs

theorem jobStep_canon {s : State} {k q : Nat} {pick : Option Nat} {picks : List Nat} (hs : Canon s) : Canon (s.jobStep k q pick picks) := by
  unfold State.jobStep
  split
  · exact hs
  · split
    · dsimp only
      exact updJob_canon (writeChunks_canon hs)
    · split
      · exact hs
      · dsimp only
        exact updJob_canon (runQueue_canon hs)

theorem execJobComplete_canon {s : State} (hs : Canon s) : OutCanon (execJobComplete s) := by
  unfold execJobComplete
  dsimp only
  split
  · exact hs
  · split
    · exact hs
    · split
      · show Canon _
        dsimp only [Canon]
        show Canon _
        refine writeChunks_canon ?_
        split
        · exact hs
        · exact runQueue_canon hs
      · split
        · show Canon _
          dsimp only [Canon]
          show Canon _
          refine writeChunks_canon ?_
          split
          · exact hs
          · exact runQueue_canon hs
        · refine serveQgets_canon ?_
          dsimp only [Canon]
          show Canon _
          refine writeChunks_canon ?_
          split
          · exact hs
          · exact runQueue_canon hs

theorem countLane_canon {k id : Nat} {clear : Bool} {ls : List (Nat × Nat)} {s : State} (hs : Canon s) : Canon (s.countLane k id clear ls) := by
  cases ls with
  | nil => exact hs
  | cons l ls =>
    unfold State.countLane
    dsimp only
    exact returnIfDone_canon (updOutst_canon (ite_canon (updPart_canon hs) hs))

theorem xcntOp_canon {clear : Bool} {w : CoreWords} {s : State} (hs : Canon s) : OutCanon (xcntOp clear w s) := by
  unfold xcntOp
  refine execCore_canon hs ?_
  intro _ _ _ hs1
  refine withRegs_canon hs1 ?_
  intro _ _ hs2
  dsimp only
  split
  · exact hs2
  · exact addOutst_canon hs2

theorem execRng_canon {w : CoreWords} {s : State} (hs : Canon s) : OutCanon (execRng w s) := by
  unfold execRng
  refine execCore_canon hs ?_
  intro _ _ _ hs1
  dsimp only
  split
  · exact sentAnswer_canon hs1 (fun _ hs2 => hs2)
  · split
    · exact hs1
    · split
      · exact addOutst_canon (setRetain_canon hs1)
      · split
        · exact addOutst_canon hs1
        · exact addOutst_canon (setRetain_canon hs1)

theorem execResultReturn_canon {s : State} (hs : Canon s) : OutCanon (execResultReturn s) := by
  unfold execResultReturn
  dsimp only
  split
  · exact hs
  · split
    · exact hs
    · split
      · exact deliverResult_canon hs
      · exact deliverResult_canon hs
      · split
        · exact dropForwards_canon (returnResult_canon (updOutst_canon (takeOwn_canon hs)))
        · exact hs
      · exact returnIfDone_canon (performLanes_canon (fun _ _ _ hs1 => performLane_canon hs1) hs)
      · exact returnIfDone_canon (performLanes_canon (fun _ _ _ hs1 => performInv_canon hs1) hs)
      · split
        · exact hs
        · exact deliverResult_canon (updOutst_canon (foldl_canon (fun _ _ hs1 => updThread_canon hs1) (ite_canon (hostRead_canon
              (crossHome_canon (ite_canon (logUE_canon hs) hs))) (ite_canon (logUE_canon hs) hs))))
      · exact cbFaulted_canon hs
      · exact countLane_canon hs
      · exact answerBarTst_canon hs
      · exact answerBbarTst_canon hs
      · split
        · exact hs
        · exact deliverResult_canon (updOutst_canon hs)
      · exact returnIfDone_canon (foldl_canon (fun _ _ hs1 => performFence_canon hs1) hs)
      · split
        · exact hs
        · exact completeTile_canon hs
      · split
        · exact hs
        · exact deliverResult_canon (updOutst_canon (bindWindow_canon (foldl_canon (fun _ _ hs1 => logUE_canon hs1) (hostRead_canon
              (crossHome_canon hs)))))
      · exact hs

theorem newToken_canon {s : State} {die : Nat} {lid : Word} (hs : Canon s) : Canon (s.newToken die lid).2 := by
  unfold State.newToken
  dsimp only
  split
  · exact hs
  · exact updDie_canon hs

theorem updPredictor_canon {s : State} {die pidx : Nat} {hit : Bool} (hs : Canon s) : Canon (s.updPredictor die pidx hit) := updDie_canon hs

theorem removeHand_canon {s : State} {k : Nat} (hs : Canon s) : Canon (s.removeHand k) := by
  unfold State.removeHand
  show Canon _
  dsimp only [Canon]
  show Canon _
  exact unwait_canon (freePlace_canon (dropRegs_canon hs))

theorem prune_canon {fuel : Nat} {p : Nat × Nat} {s : State} (hs : Canon s) : Canon (State.prune fuel s p) := by
  induction fuel generalizing s p with
  | zero => exact hs
  | succ n ih =>
    unfold State.prune
    split
    · exact hs
    · refine foldl_canon (fun _ _ hs1 => ih hs1) ?_
      refine freeSeg_canon ?_
      split
      · exact removeHand_canon hs
      · exact hs

theorem pruneSeg_canon {s : State} {p : Nat × Nat} (hs : Canon s) : Canon (s.pruneSeg p) := prune_canon hs

theorem spawnOp_canon {kind : Option (Bool × Bool)} {w : CoreWords} {s : State} (hs : Canon s) : OutCanon (spawnOp kind w s) :=
  execCore_canon hs (fun _ _ _ hs1 => withRegs_canon hs1 (fun _ _ hs2 => addOutst_canon hs2))

theorem execCond_canon {w : CoreWords} {s : State} (hs : Canon s) : OutCanon (execCond w s) := by
  unfold execCond
  refine execCore_canon hs ?_
  intro _ _ _ hs1
  refine sentAnswer_canon hs1 ?_
  intro _ hs2
  dsimp only
  exact newToken_canon hs2

theorem execResolve_canon {w : CoreWords} {s : State} (hs : Canon s) : OutCanon (execResolve w s) := by
  unfold execResolve
  refine execCore_canon hs ?_
  intro _ _ _ hs1
  dsimp only
  split
  · exact hs1
  · split
    · exact hs1
    · split
      · exact hs1
      · split
        · exact hs1
        · show Canon _
          dsimp only [Canon]
          show Canon _
          exact updDie_canon hs1

theorem execSegq_canon {w : CoreWords} {s : State} (hs : Canon s) : OutCanon (execSegq w s) := by
  unfold execSegq
  refine execCore_canon hs ?_
  intro _ _ _ hs1
  refine withRegs_canon hs1 ?_
  intro _ _ hs2
  dsimp only
  split
  · exact hs2
  · exact addOutst_canon hs2

theorem enterSeg_canon {s : State} {h : Hand} {d : Nat} {entry : DWord} {args : List DWord} {token : Option Word} {pol : Bool}
    {own : BitVec 16} {pred : Bool} {pidx : Nat} {rng : Bool} {view : View} {parent : Option (Nat × Nat × Word)} (hs : Canon s) :
    Canon (s.enterSeg h d entry args token pol own pred pidx rng view parent).2 := by
  unfold State.enterSeg
  dsimp only
  split
  · split
    · exact hs
    · split
      · exact hs
      · split
        · exact hs
        · exact updSeg_canon (updDie_canon hs)
  · split
    · exact hs
    · split
      · exact hs
      · split
        · exact hs
        · exact updSeg_canon (updDie_canon hs)

theorem execSpawnEntryArrival_canon {s : State} (hs : Canon s) : OutCanon (execSpawnEntryArrival s) := by
  unfold execSpawnEntryArrival
  dsimp only
  split
  · exact hs
  · split
    · split
      · exact hs
      · exact deliverResult_canon (updOutst_canon (enterSeg_canon hs))
    · exact hs

theorem execResolutionApply_canon {s : State} (hs : Canon s) : OutCanon (execResolutionApply s) := by
  unfold execResolutionApply
  dsimp only
  split
  · exact hs
  · exact settle_canon (foldl_canon (fun _ _ hs1 => ite_canon (updSeg_canon hs1) (pruneSeg_canon hs1)) (foldl_canon
        (fun _ _ hs1 => updPredictor_canon hs1) hs))

theorem showStore_canon {s : State} {p : Nat × Nat} {seq : Word} {number w idx : Nat} (hs : Canon s) :
    Canon (s.showStore p seq number w idx) := foldl_canon (fun _ _ hs1 => updHand_canon hs1) hs

theorem execCommitDrain_canon {s : State} (hs : Canon s) : OutCanon (execCommitDrain s) := by
  unfold execCommitDrain
  dsimp only
  split
  · exact hs
  · split
    · exact hs
    · split
      · exact hs
      · split
        · refine wakeStores_canon ?_
          split
          · refine settle_canon ?_
            refine showStore_canon ?_
            dsimp only
            exact updThread_canon (storeWord_canon (updSeg_canon hs))
          · refine showStore_canon ?_
            dsimp only
            exact updThread_canon (storeWord_canon (updSeg_canon hs))
        · split
          · refine settle_canon ?_
            refine showStore_canon ?_
            dsimp only
            exact storeWord_canon (updSeg_canon hs)
          · refine showStore_canon ?_
            dsimp only
            exact storeWord_canon (updSeg_canon hs)

theorem endSpeculation_canon {s : State} {lid : Word} (hs : Canon s) : Canon (s.endSpeculation lid) := by
  unfold State.endSpeculation
  show Canon _
  dsimp only [Canon]
  show Canon _
  exact foldl_canon (fun _ _ hs1 => pruneSeg_canon hs1) hs

theorem execEncodingNotInstruction_canon {code : BitVec 8} {word0 : Word} {s : State} (hs : Canon s) :
    OutCanon (execEncodingNotInstruction code word0 s) := by
  unfold execEncodingNotInstruction
  split
  · exact finishCycle_canon (raise_canon hs)
  · exact trivial

theorem trapOp_canon {kind : BitVec 2} {w : CoreWords} {s : State} (hs : Canon s) : OutCanon (trapOp kind w s) :=
  execCore_canon hs (fun _ _ _ hs1 => hs1)

theorem execTret_canon {w : CoreWords} {s : State} (hs : Canon s) : OutCanon (execTret w s) := by
  unfold execTret
  refine execCore_canon hs ?_
  intro _ _ _ hs1
  dsimp only
  split
  · exact hs1
  · exact updHand_canon hs1

theorem tickCore_canon {s : State} {c : Nat} (hs : Canon s) : Canon (s.tickCore c) := updCore_canon hs

theorem execSrd_canon {w : CoreWords} {s : State} (hs : Canon s) : OutCanon (execSrd w s) := by
  unfold execSrd
  refine execCore_canon hs ?_
  intro _ _ _ hs1
  split
  · exact withRegs_canon hs1 (fun _ _ hs2 => writeD_canon hs2)
  · exact writeH_canon (ite_canon (foldl_canon (fun _ _ hs2 => updThread_canon hs2) (tickCore_canon hs1)) (tickCore_canon hs1))

theorem setSysReg_canon {s : State} {i : SplitIssue} {n idx : Nat} {v : DWord} (hs : Canon s) : (s.setSysReg i n idx v).elim True Canon := by
  unfold State.setSysReg
  dsimp only
  split
  · exact updHand_canon hs
  · exact updHand_canon hs
  · exact updHand_canon hs
  · exact updHand_canon hs
  · exact updHand_canon hs
  · exact updHand_canon hs
  · exact updHand_canon hs
  · exact updHand_canon hs
  · exact updCore_canon hs
  · exact updHand_canon hs
  · exact trivial

theorem execSwr_canon {w : CoreWords} {s : State} (hs : Canon s) : OutCanon (execSwr w s) := by
  unfold execSwr
  refine execCore_canon hs ?_
  intro _ _ _ hs1
  refine withRegs_canon hs1 ?_
  intro _ _ hs2
  split
  next e => exact some_canon (setSysReg_canon hs2) e
  · exact hs2

theorem execUintr_canon {w : CoreWords} {s : State} (hs : Canon s) : OutCanon (execUintr w s) := by
  unfold execUintr
  refine execCore_canon hs ?_
  intro _ _ _ hs1
  refine withRegs_canon hs1 ?_
  intro _ _ hs2
  dsimp only
  split
  · exact hs2
  · split
    · exact writeH_canon hs2
    · split
      · exact writeH_canon hs2
      · split
        · exact writeH_canon hs2
        · split
          · exact writeH_canon hs2
          · exact writeH_canon (ite_canon (wakeHand_canon (unwait_canon (updSaved_canon hs2))) (updSaved_canon hs2))

theorem execSig_canon {w : CoreWords} {s : State} (hs : Canon s) : OutCanon (execSig w s) := by
  unfold execSig
  refine execCore_canon hs ?_
  intro _ _ _ hs1
  refine withRegs_canon hs1 ?_
  intro _ _ hs2
  dsimp only
  split
  · exact hs2
  · split
    · exact hs2
    · split
      · exact hs2
      · exact wakeKey_canon hs2

theorem takeInterrupt_canon {s : State} {c k hk : Nat} (hs : Canon s) : Canon (s.takeInterrupt c k hk) := by
  unfold State.takeInterrupt
  dsimp only
  split
  · exact ite_canon (effectEdge_canon hs) (ite_canon (killGang_canon hs) (takeTrap_canon (updHand_canon hs)))
  · exact hs

theorem execTrapEntry_canon {s : State} (hs : Canon s) : OutCanon (execTrapEntry s) := by
  unfold execTrapEntry
  dsimp only
  split
  · exact hs
  · split
    · exact hs
    · split
      · exact finishCycle_canon (takeTrap_canon hs)
      · split
        · exact finishCycle_canon (takeInterrupt_canon hs)
        · exact hs

theorem execBackEdge_canon {s : State} (hs : Canon s) : OutCanon (execBackEdge s) := by
  unfold execBackEdge
  dsimp only
  split
  · exact updHand_canon hs
  · exact hs

end Sys2Proof.Machine
end

section
/-!
PROOFS. The canonical form of memory is kept (O58). Launches, queues and packets.
-/
namespace Sys2Proof.Machine

theorem frontWord_canon {s : State} {die loc : Nat} (hs : Canon s) : Canon (s.frontWord die loc) := by
  unfold Canon at *
  simpa using hs

theorem frontTouch_canon {s : State} {die : Nat} {r : Reader} {asid : BitVec 16} {x : DWord × Nat} (hs : Canon s) :
    Canon (s.frontTouch die r asid x) := by
  unfold State.frontTouch
  refine foldl_canon ?_ hs
  intro _ _ hs1
  split
  · exact frontWord_canon hs1
  · exact hs1

theorem askPeer_canon {s : State} {die : Nat} {r : Reader} {loc n : Nat} {add : Bool} (hs : Canon s) : Canon (s.askPeer die r loc n add) := by
  unfold State.askPeer
  split
  · exact hs
  · dsimp only
    split
    next e1 =>
      dsimp only [Canon]
      show Canon _
      exact some_canon (readPeer_canon hs) e1
    · exact hs

theorem dropRead_canon {s : State} {r : Reader} {loc : Nat} (hs : Canon s) : Canon (s.dropRead r loc) := hs

theorem frontPage_canon {s : State} {die : Nat} {asid : BitVec 16} {va : DWord} {home entry : Nat} (hs : Canon s) :
    Canon (s.frontPage die asid va home entry) := by
  unfold State.frontPage
  show Canon _
  dsimp only [Canon]
  show Canon _
  exact requestPage_canon hs

theorem dropRefusals_canon {s : State} {asid : BitVec 16} (hs : Canon s) : Canon (s.dropRefusals asid) := hs

theorem addTurn_canon {s : State} {die : Nat} {r : Reader} {loc : Nat} (hs : Canon s) : (s.addTurn die r loc).Canon := by
  unfold State.addTurn
  split
  · exact hs
  · split
    · exact hs
    · dsimp only
      split
      · exact askPeer_canon hs
      · exact dropRead_canon (askPeer_canon hs)
      · exact dropPeerStore_canon (dropRead_canon (askPeer_canon hs))

theorem signalAdd_canon {s : State} {a : HeldAdd} (hs : Canon s) : Canon (s.signalAdd a) := by
  unfold State.signalAdd
  split
  · exact hs
  · dsimp only
    split
    · dsimp only [Canon]
      show Canon _
      exact frontPage_canon hs
    · dsimp only [Canon]
      show Canon _
      exact magpie_canon hs
    · split
      next e2 =>
        dsimp only [Canon]
        show Canon _
        exact e2.subst (motive := AddTurn.Canon) (addTurn_canon hs)
      next e2 => exact e2.subst (motive := AddTurn.Canon) (addTurn_canon hs)
      next e2 => exact storeWord_canon (e2.subst (motive := AddTurn.Canon) (addTurn_canon hs))

theorem retryAdds_canon {s : State} {asid : BitVec 16} {page : Nat} (hs : Canon s) : Canon (s.retryAdds asid page) :=
  foldl_canon (fun _ _ hs1 => signalAdd_canon hs1) hs

theorem retryPeerAdds_canon {s : State} (hs : Canon s) : Canon s.retryPeerAdds := foldl_canon (fun _ _ hs1 => signalAdd_canon hs1) hs

theorem endRead_canon {s : State} {r : Reader} (hs : Canon s) : Canon (s.endRead r) := ite_canon (retryPeerAdds_canon hs) hs

theorem bindTable_canon {s : State} {lid : Word} {bs : List (Nat × DWord × DWord)} (hs : Canon s) : (s.bindTable lid bs).elim True Canon := by
  unfold State.bindTable
  refine foldl_option_canon ?_ hs
  intro _ _ hs1
  refine bind_canon hs1 ?_
  intro _ hs2
  split
  · exact trivial
  · exact addBinding_canon hs2

theorem withdrawTable_canon {s : State} {die : Nat} {mine : TableBind → Bool} (hs : Canon s) : Canon (s.withdrawTable die mine) :=
  foldl_canon (fun _ _ hs1 => ite_canon hs1 (getD_canon (sendStep_canon hs1) hs1)) hs

theorem askTable_canon {s : State} {q : Queue} {desc : DWord} {bs : List (Nat × DWord × DWord)} (hs : Canon s) :
    Canon (s.askTable q desc bs) := by
  unfold State.askTable
  refine foldl_canon ?_ hs
  intro _ _ hs1
  dsimp only
  split
  next e =>
    dsimp only [Canon]
    show Canon _
    exact some_canon (sendStep_canon hs1) e
  · exact hs1

theorem tableAnswer_canon {s : State} {q : Nat × Nat} {desc : DWord} {obj : Nat} {base : DWord} {ok : Bool} (hs : Canon s) :
    Canon (s.tableAnswer q desc obj base ok) := hs

theorem accept_canon {s : State} {q : Queue} {l : Launch} {bs : List (Nat × DWord × DWord)} (hs : Canon s) :
    (s.accept q l bs).elim True Canon := by
  unfold State.accept
  dsimp only
  split
  · exact trivial
  · exact map_canon (bindTable_canon hs) (fun _ hs1 => updQueue_canon (foldl_canon (fun _ _ hs2 => takeBlock_canon hs2) hs1))

theorem dispatch_canon {s : State} {q : Queue} {va signal : DWord} {node : Option (Nat × Nat)} (hs : Canon s) :
    (s.dispatch q va signal node).Canon := by
  unfold State.dispatch
  dsimp only
  split
  · exact trivial
  · exact askPeer_canon hs
  · exact endRead_canon (withdrawTable_canon (foldl_canon (fun _ _ hs1 => frontTouch_canon hs1) hs))
  · exact endRead_canon (withdrawTable_canon (foldl_canon (fun _ _ hs1 => frontTouch_canon hs1) hs))
  · split
    · split
      · exact askTable_canon (withdrawTable_canon (foldl_canon (fun _ _ hs1 => frontTouch_canon hs1) hs))
      · split
        · exact foldl_canon (fun _ _ hs1 => frontTouch_canon hs1) hs
        · split
          · exact endRead_canon (withdrawTable_canon (foldl_canon (fun _ _ hs1 => frontTouch_canon hs1) hs))
          · split
            · exact endRead_canon (withdrawTable_canon (foldl_canon (fun _ _ hs1 => frontTouch_canon hs1) hs))
            next e5 =>
              show Canon _
              dsimp only [Canon]
              show Canon _
              exact endRead_canon (some_canon (accept_canon (foldl_canon (fun _ _ hs1 => frontTouch_canon hs1) hs)) e5)
    · split
      · exact askTable_canon (withdrawTable_canon (foldl_canon (fun _ _ hs1 => frontTouch_canon hs1) hs))
      · split
        · exact foldl_canon (fun _ _ hs1 => frontTouch_canon hs1) hs
        · split
          · exact endRead_canon (withdrawTable_canon (foldl_canon (fun _ _ hs1 => frontTouch_canon hs1) hs))
          · split
            · exact endRead_canon (withdrawTable_canon (foldl_canon (fun _ _ hs1 => frontTouch_canon hs1) hs))
            next e5 =>
              show Canon _
              dsimp only [Canon]
              show Canon _
              exact endRead_canon (some_canon (accept_canon (foldl_canon (fun _ _ hs1 => frontTouch_canon hs1) hs)) e5)

theorem landed_canon {s : State} {k : Nat × Nat} {what : Flight} {v : View} (hs : Canon s) : Canon (s.landed k what v) := by
  unfold State.landed
  dsimp only
  split
  · exact ite_canon (qWake_canon (updQueue_canon hs)) (updQueue_canon hs)
  · exact updQueue_canon hs

theorem putItem_canon {s : State} {x : HeldItem} (hs : Canon s) : Canon (s.putItem x) := by
  unfold State.putItem
  dsimp only
  split
  · dsimp only [Canon]
    show Canon _
    exact frontPage_canon (frontTouch_canon hs)
  · dsimp only [Canon]
    show Canon _
    exact askPeer_canon (frontTouch_canon hs)
  · exact magpie_canon (frontTouch_canon hs)
  · split
    · exact frontTouch_canon hs
    · split
      · exact ite_canon (writeBytes_canon (crossHome_canon (frontTouch_canon hs))) (magpie_canon (frontTouch_canon hs))
      · dsimp only [Canon]
        show Canon _
        exact frontPage_canon (frontTouch_canon hs)
      · exact magpie_canon (frontTouch_canon hs)

theorem reportNode_canon {s : State} {g : Graph} {i : Nat} (hs : Canon s) : Canon (s.reportNode g i) := putItem_canon hs

theorem retryItems_canon {s : State} {asid : BitVec 16} (hs : Canon s) : Canon (s.retryItems asid) :=
  foldl_canon (fun _ _ hs1 => putItem_canon hs1) hs

theorem frontAnswer_canon {s : State} {r : Reader} {loc sent : Nat} {came : Bool} (hs : Canon s) : Canon (s.frontAnswer r loc sent came) := by
  unfold State.frontAnswer
  dsimp only
  split
  · exact retryPeerAdds_canon hs
  · dsimp only [Canon]
    show Canon _
    exact foldl_canon (fun _ _ hs1 => putItem_canon hs1) hs
  · exact hs

theorem failNode_canon {fuel i : Nat} {g : Graph} {s : State} (hs : Canon s) : Canon (State.failNode fuel s g i) := by
  induction fuel generalizing s g i with
  | zero => exact hs
  | succ n ih =>
    unfold State.failNode
    exact ite_canon (updNode_canon hs) (foldl_canon (fun _ _ hs1 => ite_canon (ih (reportNode_canon hs1)) hs1) (updNode_canon hs))

theorem endNode_canon {s : State} {g : Graph} {i : Nat} {failed : Bool} (hs : Canon s) : Canon (s.endNode g i failed) :=
  ite_canon (failNode_canon hs) (ite_canon (updNode_canon hs) (foldl_canon (fun _ _ hs1 => updNode_canon hs1) (updNode_canon hs)))

theorem startNode_canon {s : State} {q : Queue} {g : Graph} {i : Nat} (hs : Canon s) : Canon (s.startNode q g i).2 := by
  unfold State.startNode
  split
  next e => exact updNode_canon (e.subst (motive := Disp.Canon) (dispatch_canon hs))
  next e => exact e.subst (motive := Disp.Canon) (dispatch_canon hs)
  next e => exact e.subst (motive := Disp.Canon) (dispatch_canon hs)
  next e => exact e.subst (motive := Disp.Canon) (dispatch_canon hs)
  · exact endRead_canon hs

theorem graphEnd_canon {s : State} {g : Graph} (hs : Canon s) : Canon (s.graphEnd g) := ite_canon hs (landed_canon (signalAdd_canon hs))

theorem failConsumers_canon {s : State} {g : Graph} (hs : Canon s) : Canon (s.failConsumers g) := by
  unfold State.failConsumers
  split
  · exact hs
  · refine foldl_canon ?_ hs
    intro _ _ hs1
    dsimp only
    split
    · exact hs1
    · exact foldl_canon (fun _ _ hs2 => report_canon (barCheckAll_canon (releaseAllocs_canon (updHand_canon hs2)))) hs1

theorem startNodes_canon {s : State} {fault : State → Nat × Nat → State} (hs : Canon s) (hfault : ∀ s b, Canon s → Canon (fault s b)) :
    Canon (s.startNodes fault) := by
  unfold State.startNodes
  refine foldl_canon ?_ hs
  intro _ _ hs1
  split
  · exact hs1
  · refine graphEnd_canon ?_
    refine failConsumers_canon ?_
    refine foldl_canon ?_ hs1
    intro _ _ hs2
    split
    · exact hs2
    · split
      next e2 => exact snd_canon (startNode_canon hs2) e2
      next e3 => exact frontPage_canon (snd_canon (startNode_canon hs2) e3)
      next e2 => exact snd_canon (startNode_canon hs2) e2
      next e2 => exact snd_canon (startNode_canon hs2) e2
      next e2 => exact hfault _ _ (endNode_canon (snd_canon (startNode_canon hs2) e2))

theorem writeItems_canon {l : Launch} {rs : List Report} {s : State} (hs : Canon s) :
    Both (fun _ => True) Canon (State.writeItems l rs s) := by
  induction rs generalizing s with
  | nil => exact hs
  | cons r rs ih =>
    unfold State.writeItems
    dsimp only
    split
    · exact trivial
    · exact trivial
    · split
      · exact ih (writeBytes_canon (writeBytes_canon (crossHome_canon (crossHome_canon hs))))
      · exact ih (ite_canon hs (magpie_canon (updLaunch_canon hs)))
    · exact ih (ite_canon hs (magpie_canon (updLaunch_canon hs)))

theorem endBindings_canon {s : State} {l : Launch} (hs : Canon s) : Canon (s.endBindings l) := by
  unfold State.endBindings
  show Canon _
  dsimp only [Canon]
  show Canon _
  exact foldl_canon (fun _ _ hs1 => ite_canon (getD_canon (sendStep_canon hs1) hs1) hs1) hs

theorem endTwins_canon {s : State} {l : Launch} (hs : Canon s) : Canon (s.endTwins l) := foldl_canon (fun _ _ hs1 => killMember_canon hs1) hs

theorem removeLaunch_canon {s : State} {l : Launch} (hs : Canon s) : Canon (s.removeLaunch l) := by
  unfold State.removeLaunch
  refine sweepRecs_canon ?_
  show Canon _
  dsimp only [Canon]
  show Canon _
  exact endBindings_canon (ite_canon (endTwins_canon hs) hs)

theorem owlNext_canon {s : State} {k : Nat × Nat} (hs : Canon s) : Canon (s.owlNext k) := updQueue_canon hs

theorem retryInsufficient_canon {s : State} {p : Nat} (hs : Canon s) : Canon (s.retryInsufficient p) := hs

theorem endLaunch_canon {s : State} {l : Launch} (hs : Canon s) : Both (fun _ => True) Canon (s.endLaunch l) := by
  unfold State.endLaunch
  refine exceptMap_canon ?_ ?_
  · split
    · exact endSpeculation_canon hs
    · exact writeItems_canon (endSpeculation_canon hs)
  · intro _ hs1
    dsimp only
    split
    · exact ite_canon (owlNext_canon (retryInsufficient_canon (landed_canon (signalAdd_canon (removeLaunch_canon (markGroups_canon hs1))))))
          (retryInsufficient_canon (landed_canon (signalAdd_canon (removeLaunch_canon (markGroups_canon hs1)))))
    · split
      · exact endNode_canon (ite_canon (updNode_canon (ite_canon (owlNext_canon (retryInsufficient_canon (landed_canon (signalAdd_canon
            (removeLaunch_canon (markGroups_canon hs1)))))) (retryInsufficient_canon (landed_canon (signalAdd_canon (removeLaunch_canon
                (markGroups_canon hs1))))))) (ite_canon (owlNext_canon (retryInsufficient_canon (landed_canon (signalAdd_canon
                    (removeLaunch_canon (markGroups_canon hs1)))))) (retryInsufficient_canon (landed_canon (signalAdd_canon
                        (removeLaunch_canon (markGroups_canon hs1)))))))
      · exact ite_canon (updNode_canon (ite_canon (owlNext_canon (retryInsufficient_canon (landed_canon (signalAdd_canon (removeLaunch_canon
            (markGroups_canon hs1)))))) (retryInsufficient_canon (landed_canon (signalAdd_canon (removeLaunch_canon
                (markGroups_canon hs1))))))) (ite_canon (owlNext_canon (retryInsufficient_canon (landed_canon (signalAdd_canon
                    (removeLaunch_canon (markGroups_canon hs1)))))) (retryInsufficient_canon (landed_canon (signalAdd_canon
                        (removeLaunch_canon (markGroups_canon hs1))))))

theorem saveIb_canon {s : State} {q : Queue} (hs : Canon s) : Canon (s.saveIb q) :=
  foldl_canon (fun _ _ hs1 => qPut_canon hs1) (qPut_canon hs)

theorem release_canon {s : State} {k : Nat × Nat} {st : Nat} (hs : Canon s) : Canon (s.release k st) := by
  unfold State.release
  split
  · exact hs
  · dsimp only
    split
    · exact qPutState_canon (endRead_canon hs)
    · exact updQueue_canon (updDie_canon (saveIb_canon (qPutState_canon (endRead_canon hs))))

theorem msix_canon {s : State} {f : Nat} (hs : Canon s) : Canon (s.msix f) := hs

theorem queueFault_canon {s : State} {k : Nat × Nat} {code : Nat} (hs : Canon s) : Canon (s.queueFault k code) := by
  unfold State.queueFault
  split
  · exact hs
  · exact msix_canon (magpie_canon (updQueue_canon (qPut_canon (qPut_canon (release_canon hs)))))

theorem queueWait_canon {s : State} {k : Nat × Nat} {a : Await} (hs : Canon s) : Canon (s.queueWait k a) := updQueue_canon (release_canon hs)

theorem queuePage_canon {s : State} {k : Nat × Nat} {asid : BitVec 16} {va : DWord} {home entry : Nat} (hs : Canon s) :
    Canon (s.queuePage k asid va home entry) := queueWait_canon (frontPage_canon hs)

theorem execSlotGrant_canon {s : State} (hs : Canon s) : OutCanon (execSlotGrant s) := by
  unfold execSlotGrant
  dsimp only
  split
  · exact hs
  · split
    · exact hs
    · exact updQueue_canon (qPutState_canon (updDie_canon hs))

theorem execQueueCreate_canon {s : State} (hs : Canon s) : OutCanon (execQueueCreate s) := by
  unfold execQueueCreate
  dsimp only
  split
  · split
    · exact hs
    · split
      · exact magpie_canon hs
      · exact hs
  · split
    · exact hs
    · split
      · exact magpie_canon hs
      · exact hs

theorem execDoorbell_canon {s : State} (hs : Canon s) : OutCanon (execDoorbell s) := by
  unfold execDoorbell
  dsimp only
  split
  · exact hs
  · split
    · exact queueFault_canon hs
    · exact ite_canon (qPutState_canon (updQueue_canon (qPut_canon hs))) (updQueue_canon (qPut_canon hs))

theorem execQueueResume_canon {s : State} (hs : Canon s) : OutCanon (execQueueResume s) := by
  unfold execQueueResume
  dsimp only
  split
  · exact hs
  · split
    · exact hs
    · exact updQueue_canon (qPutState_canon hs)

theorem afterPacket_canon {s : State} {key : Nat × Nat} (hs : Canon s) : Canon (s.afterPacket key) := by
  unfold State.afterPacket
  split
  · exact hs
  · exact ite_canon hs (ite_canon (release_canon hs) (ite_canon (release_canon hs) hs))

theorem moveOn_canon {s : State} {q : Queue} {path : List (DWord × Nat)} {n : Nat} (hs : Canon s) : Canon (s.moveOn q path n) := by
  unfold State.moveOn
  dsimp only
  refine afterPacket_canon ?_
  refine updQueue_canon ?_
  split
  · exact qPut_canon hs
  · exact hs

theorem advance_canon {s : State} {q : Queue} {n : Nat} (hs : Canon s) : Canon (s.advance q n) := by
  unfold State.advance
  dsimp only
  split
  · exact queuePage_canon hs
  · exact queueFault_canon hs
  · exact moveOn_canon (updQueue_canon (endRead_canon hs))

theorem fetched_canon {s : State} {q : Queue} {n : Nat} (hs : Canon s) : Canon (s.fetched q n) :=
  foldl_canon (fun _ _ hs1 => frontTouch_canon hs1) hs

theorem fetchedPacket_canon {s : State} {d k : Nat} {i : Instr} (hs : Canon s) : Canon (s.fetchedPacket d k i) := by
  unfold State.fetchedPacket
  dsimp only
  split
  · exact hs
  · exact fetched_canon hs

theorem fetchPacket_canon {s : State} {d k : Nat} (hs : Canon s) : Both Canon (fun _ => True) (s.fetchPacket d k) := by
  unfold State.fetchPacket
  split
  · exact hs
  · extract_lets key stop r
    have hstop : ∀ e, Canon (stop e) := by
      intro e
      cases e with
      | page va home t => exact queuePage_canon hs
      | peer l => exact askPeer_canon hs
      | bad => exact queueFault_canon (dropRefusals_canon (fetched_canon hs))
    clear_value stop
    split
    · exact hstop _
    · extract_lets rd
      clear_value rd
      split
      · exact moveOn_canon hs
      · split
        · exact hstop _
        · extract_lets w n
          split
          · trivial
          · split
            · trivial
            · extract_lets word
              clear_value word
              split
              · show Canon _
                exact ite_canon (updQueue_canon (release_canon hs)) (queueFault_canon hs)
              · split
                · trivial
                · exact hstop _
                · exact hstop _
                · exact hstop _
                · exact hstop _

theorem packetOp_canon {mask : Nat} {w : PacketWords} {s : State} {body : Queue → State → PkEnd} (hs : Canon s)
    (hbody : ∀ q s, Canon s → (body q s).Canon) : OutCanon (packetOp mask w s body) := by
  unfold packetOp
  split
  · exact hs
  next q _ =>
    dsimp only
    generalize ho : (if ((packetCount w.type).join.any (fun n => n != w.count) || w.flags / mask != 0) = true then PkEnd.fault s 0x81
      else body q s) = o
    have h : o.Canon := by
      rw [← ho]
      split
      · exact hs
      · exact hbody q s hs
    cases o with
    | done t =>
      change Canon t at h
      dsimp only
      exact advance_canon h
    | push t len =>
      change Canon t at h
      show Canon _
      dsimp only
      exact ite_canon (advance_canon h) (afterPacket_canon (updQueue_canon (endRead_canon h)))
    | fault t code =>
      change Canon t at h
      dsimp only
      exact queueFault_canon (dropRefusals_canon h)
    | hold t x =>
      change Canon t at h
      show Canon _
      dsimp only
      exact ite_canon (queueWait_canon h) (updQueue_canon h)
    | wait t a =>
      change Canon t at h
      dsimp only
      exact queueWait_canon h
    | page t va home e =>
      change Canon t at h
      dsimp only
      exact queuePage_canon h
    | retry t =>
      change Canon t at h
      dsimp only
      exact release_canon h

theorem takeOff_canon {s : State} {q : Queue} {what : Flight} (hs : Canon s) : Canon (s.takeOff q what) := updQueue_canon hs

theorem execLaunch_canon {w : PacketWords} {s : State} (hs : Canon s) : OutCanon (execLaunch w s) := by
  unfold execLaunch
  refine packetOp_canon hs ?_
  intro _ _ hs1
  split
  · exact hs1
  · split
    · exact hs1
    · split
      next e2 => exact e2.subst (motive := Disp.Canon) (dispatch_canon hs1)
      · exact hs1
      next e2 => exact e2.subst (motive := Disp.Canon) (dispatch_canon hs1)
      next e2 => exact e2.subst (motive := Disp.Canon) (dispatch_canon hs1)
      next e2 => exact takeOff_canon (e2.subst (motive := Disp.Canon) (dispatch_canon hs1))

theorem arm_canon {s : State} {g : Graph} (hs : Canon s) : Canon (s.arm g) :=
  foldl_canon (fun _ _ hs1 => updNode_canon (endRead_canon hs1)) hs

theorem startGraph_canon {s : State} {q : Queue} {g : Graph} (hs : Canon s) : Canon (s.startGraph q g).1 := by
  unfold State.startGraph
  refine foldl_fst_canon ?_ hs
  intro _ _ hs1
  split
  · exact hs1
  · split
    next e1 => exact snd_canon (startNode_canon hs1) e1
    next e2 => exact snd_canon (startNode_canon hs1) e2

theorem closeGraphs_canon {s : State} {q : Queue} (hs : Canon s) : Canon (s.closeGraphs q) := updQueue_canon hs

theorem execGraph_canon {w : PacketWords} {s : State} (hs : Canon s) : OutCanon (execGraph w s) := by
  unfold execGraph
  refine packetOp_canon hs ?_
  intro _ _ hs1
  dsimp only
  split
  · exact hs1
  · split
    · exact hs1
    · split
      next e2 =>
        refine graphEnd_canon ?_
        refine failConsumers_canon ?_
        refine takeOff_canon ?_
        dsimp only [Canon]
        show Canon _
        refine fst_canon ?_ e2
        refine startGraph_canon ?_
        split
        · exact hs1
        · dsimp only [Canon]
          show Canon _
          exact arm_canon (closeGraphs_canon hs1)
      next e3 =>
        refine fst_canon ?_ e3
        refine startGraph_canon ?_
        split
        · exact hs1
        · dsimp only [Canon]
          show Canon _
          exact arm_canon (closeGraphs_canon hs1)
      next e2 =>
        refine fst_canon ?_ e2
        refine startGraph_canon ?_
        split
        · exact hs1
        · dsimp only [Canon]
          show Canon _
          exact arm_canon (closeGraphs_canon hs1)
      next e2 =>
        refine fst_canon ?_ e2
        refine startGraph_canon ?_
        split
        · exact hs1
        · dsimp only [Canon]
          show Canon _
          exact arm_canon (closeGraphs_canon hs1)
      next e2 =>
        split
        · refine graphEnd_canon ?_
          refine failConsumers_canon ?_
          refine takeOff_canon ?_
          dsimp only [Canon]
          show Canon _
          refine endNode_canon ?_
          refine fst_canon ?_ e2
          refine startGraph_canon ?_
          split
          · exact hs1
          · dsimp only [Canon]
            show Canon _
            exact arm_canon (closeGraphs_canon hs1)
        · refine graphEnd_canon ?_
          refine failConsumers_canon ?_
          refine takeOff_canon ?_
          dsimp only [Canon]
          show Canon _
          refine fst_canon ?_ e2
          refine startGraph_canon ?_
          split
          · exact hs1
          · dsimp only [Canon]
            show Canon _
            exact arm_canon (closeGraphs_canon hs1)
      next e2 =>
        refine graphEnd_canon ?_
        refine failConsumers_canon ?_
        refine takeOff_canon ?_
        dsimp only [Canon]
        show Canon _
        refine fst_canon ?_ e2
        refine startGraph_canon ?_
        split
        · exact hs1
        · dsimp only [Canon]
          show Canon _
          exact arm_canon (closeGraphs_canon hs1)

theorem waitGiveUp_canon {s : State} {q : Queue} {key : DWord} {holds : State → Bool} (hs : Canon s) : (s.waitGiveUp q key holds).Canon := by
  unfold State.waitGiveUp
  split
  · exact hs
  next e =>
    split
    · exact withdrawWaiter_canon (some_canon (registerWaiter_canon hs) e)
    · exact some_canon (registerWaiter_canon hs) e

theorem waitWithdraw_canon {s : State} {q : Queue} {key : DWord} (hs : Canon s) : Canon (s.waitWithdraw q key) := withdrawWaiter_canon hs

theorem waitPeer_canon {s : State} {q : Queue} {key : DWord} {line : Nat} {give : Bool} (hs : Canon s) :
    (s.waitPeer q key line give).Canon := by
  unfold State.waitPeer
  split
  · split
    · exact hs
    next e1 => exact askPeer_canon (dropRead_canon (some_canon (registerWaiter_canon hs) e1))
  · exact askPeer_canon hs

theorem waitOp_canon {late : Bool} {w : PacketWords} {s : State} (hs : Canon s) : OutCanon (waitOp late w s) := by
  unfold waitOp
  refine packetOp_canon hs ?_
  intro _ _ hs1
  split
  · exact hs1
  · split
    · exact hs1
    · exact waitPeer_canon hs1
    · exact hs1
    · dsimp only
      split
      · split
        · exact waitWithdraw_canon (frontWord_canon hs1)
        · split
          · exact frontWord_canon hs1
          · exact waitPeer_canon (dropRead_canon (frontWord_canon hs1))
      · split
        · exact frontWord_canon hs1
        · split
          · exact waitGiveUp_canon (frontWord_canon hs1)
          · exact frontWord_canon hs1

theorem feStore_canon {s : State} {q : Queue} {w : Nat} {mask : BitVec 8} {data : DWord} {view : View} {scope : BitVec 3}
    (hs : Canon s) : Canon (s.feStore q w mask data view scope) := updQueue_canon (storeWord_canon hs)

theorem feWrite_canon {s : State} {q : Queue} {va : DWord} {mask : BitVec 8} {add : Bool} {data : DWord} {view : View}
    {scope : BitVec 3} (hs : Canon s) : (s.feWrite q va mask add data view scope).Canon := by
  unfold State.feWrite
  split
  · exact hs
  · exact hs
  · dsimp only
    split
    · split
      next e2 => exact e2.subst (motive := AddTurn.Canon) (addTurn_canon hs)
      next e2 => exact retryPeerAdds_canon (e2.subst (motive := AddTurn.Canon) (addTurn_canon hs))
      next e2 => exact retryPeerAdds_canon (feStore_canon (e2.subst (motive := AddTurn.Canon) (addTurn_canon hs)))
    · exact feStore_canon hs

theorem execSignal_canon {w : PacketWords} {s : State} (hs : Canon s) : OutCanon (execSignal w s) := by
  unfold execSignal
  refine packetOp_canon hs ?_
  intro _ _ hs1
  split
  · exact hs1
  · split
    · exact hs1
    · split
      next e2 => exact ite_canon (wakeKey_canon (e2.subst (motive := PkEnd.Canon) (feWrite_canon hs1))) (e2.subst (motive := PkEnd.Canon)
          (feWrite_canon hs1))
      · exact feWrite_canon hs1

theorem execWriteimm_canon {w : PacketWords} {s : State} (hs : Canon s) : OutCanon (execWriteimm w s) := by
  unfold execWriteimm
  refine packetOp_canon hs ?_
  intro _ _ hs1
  dsimp only
  split
  · split
    · exact hs1
    · exact feWrite_canon hs1
  · split
    · exact hs1
    · split <;> exact feWrite_canon hs1

theorem execCallib_canon {w : PacketWords} {s : State} (hs : Canon s) : OutCanon (execCallib w s) := by
  unfold execCallib
  refine packetOp_canon hs ?_
  intro _ _ hs1
  split
  · exact hs1
  · split <;> exact hs1

theorem execFencePacket_canon {w : PacketWords} {s : State} (hs : Canon s) : OutCanon (execFencePacket w s) := by
  unfold execFencePacket
  refine packetOp_canon hs ?_
  intro _ _ hs1
  split <;> exact hs1

theorem execWaitRereadExpiry_canon {s : State} (hs : Canon s) : OutCanon (execWaitRereadExpiry s) := by
  unfold execWaitRereadExpiry
  dsimp only
  split
  · exact hs
  · split
    · exact hs
    · split
      · exact waitOp_canon hs
      · exact hs
      next e2 => exact e2.subst (motive := Both Canon (fun _ => True)) (fetchPacket_canon hs)

theorem execCompletionWaitExpiry_canon {s : State} (hs : Canon s) : OutCanon (execCompletionWaitExpiry s) := by
  unfold execCompletionWaitExpiry
  split
  · exact hs
  · split
    · exact hs
    · exact queueWait_canon hs

theorem execLaunchComplete_canon {s : State} (hs : Canon s) : OutCanon (execLaunchComplete s) := by
  unfold execLaunchComplete
  split
  · exact hs
  · split
    · exact hs
    · split
      · exact frontPage_canon hs
      · exact hs
      next e2 => exact startNodes_canon (dropRefusals_canon (ok_canon (endLaunch_canon hs) e2)) (fun _ _ hs1 => queueFault_canon hs1)

theorem cpFault_canon {s : State} {q : Option Queue} {code : Nat} (hs : Canon s) : Canon (s.cpFault q code).s := by
  unfold State.cpFault
  split
  · exact queueFault_canon (dropRefusals_canon hs)
  · exact hs

theorem execCp_canon {w : DvWord} {s : State} {body : Nat → DWord → DWord → State → CpEnd} (hs : Canon s)
    (hbody : ∀ a b c s, Canon s → Canon (body a b c s).s) : OutCanon (execCp w s body) := by
  unfold execCp
  split
  · dsimp only
    split
    · exact hs
    · split
      · split
        · split
          · exact hbody _ _ _ _ hs
          · show Canon _
            dsimp only [Canon]
            show Canon _
            exact hbody _ _ _ _ hs
        · split
          · exact hbody _ _ _ _ hs
          · show Canon _
            dsimp only [Canon]
            show Canon _
            exact hbody _ _ _ _ hs
      · split
        · split
          · exact hbody _ _ _ _ hs
          · show Canon _
            dsimp only [Canon]
            show Canon _
            exact hbody _ _ _ _ hs
        · split
          · exact hbody _ _ _ _ hs
          · show Canon _
            dsimp only [Canon]
            show Canon _
            exact hbody _ _ _ _ hs
  · exact trivial

theorem serveSlot_canon {s : State} {n k : Nat} (hs : Canon s) : Canon (s.serveSlot n k) := ite_canon hs hs

theorem execDvRfetch_canon {w : DvWord} {s : State} (hs : Canon s) : OutCanon (execDvRfetch w s) := by
  unfold execDvRfetch
  refine execCp_canon hs ?_
  intro _ _ _ _ hs1
  dsimp only
  split
  · exact serveSlot_canon hs1
  · split
    · exact cpFault_canon (serveSlot_canon hs1)
    · split
      · exact serveSlot_canon hs1
      · split
        · exact endRead_canon (serveSlot_canon hs1)
        · exact cpFault_canon (serveSlot_canon hs1)
        · exact askPeer_canon (serveSlot_canon hs1)
        · exact queuePage_canon (serveSlot_canon hs1)

theorem execDvBfx_canon {w : DvWord} {s : State} (hs : Canon s) : OutCanon (execDvBfx w s) := by
  unfold execDvBfx
  refine execCp_canon hs ?_
  intro _ _ _ _ hs1
  dsimp only
  split
  · exact cpFault_canon hs1
  · exact hs1

theorem execDvSwait_canon {w : DvWord} {s : State} (hs : Canon s) : OutCanon (execDvSwait w s) := by
  unfold execDvSwait
  refine execCp_canon hs ?_
  intro _ _ _ _ hs1
  split
  · exact hs1
  · split
    · exact cpFault_canon hs1
    · split
      · exact cpFault_canon hs1
      · exact queuePage_canon hs1
      · exact askPeer_canon hs1
      · exact endRead_canon (frontWord_canon hs1)

theorem execDvDisp_canon {w : DvWord} {s : State} (hs : Canon s) : OutCanon (execDvDisp w s) := by
  unfold execDvDisp
  refine execCp_canon hs ?_
  intro _ _ _ _ hs1
  split
  · exact hs1
  · split
    next e1 => exact cpFault_canon (e1.subst (motive := Disp.Canon) (dispatch_canon hs1))
    · exact queuePage_canon hs1
    next e1 => exact e1.subst (motive := Disp.Canon) (dispatch_canon hs1)
    next e1 => exact release_canon (e1.subst (motive := Disp.Canon) (dispatch_canon hs1))
    next e1 => exact takeOff_canon (e1.subst (motive := Disp.Canon) (dispatch_canon hs1))

theorem putWait_canon {s : State} {f : Nat} {withdraw : Bool} {st : BitVec 3} (hs : Canon s) : Canon (s.putWait f withdraw st) := hs

theorem execHostWaitRegister_canon {s : State} (hs : Canon s) : OutCanon (execHostWaitRegister s) := by
  unfold execHostWaitRegister
  dsimp only
  split
  · exact putWait_canon hs
  · split
    · exact putWait_canon hs
    · split
      next e2 => exact putWait_canon (some_canon (registerWaiter_canon hs) e2)
      · exact putWait_canon hs

theorem execHostWaitWithdraw_canon {s : State} (hs : Canon s) : OutCanon (execHostWaitWithdraw s) := by
  unfold execHostWaitWithdraw
  dsimp only
  split
  · exact putWait_canon hs
  · exact putWait_canon (withdrawWaiter_canon hs)

end Sys2Proof.Machine
end

section
/-!
PROOFS. The canonical form of memory is kept (O58). Scheduling, links, resets and the host.
-/
namespace Sys2Proof.Machine

theorem putCtx_canon {s : State} {h : Hand} {off v : Nat} (hs : Canon s) : Canon (s.putCtx h off v) := by
  unfold State.putCtx
  split
  · exact writeBytes_canon (crossHome_canon hs)
  · exact hs

theorem spillOut_canon {s : State} {k : Nat} {win : Option Nat} {name : Nat} (hs : Canon s) : Canon (s.spillOut k win name) :=
  putCtx_canon (spill_canon hs)

theorem popSquirrel_canon {s : State} {k : Nat} (hs : Canon s) : Canon (s.popSquirrel k) := updHand_canon hs

theorem execSpillComplete_canon {s : State} (hs : Canon s) : OutCanon (execSpillComplete s) := by
  unfold execSpillComplete
  dsimp only
  split
  · exact hs
  · exact hs
  · split
    · exact popSquirrel_canon (foldl_canon (fun _ _ hs1 => ite_canon (spill_canon hs1) (spillOut_canon hs1)) (ite_canon (updHand_canon hs) hs))
    · exact hs

theorem execRefillComplete_canon {s : State} (hs : Canon s) : OutCanon (execRefillComplete s) := by
  unfold execRefillComplete
  dsimp only
  split
  · exact popSquirrel_canon (refillEntry_canon hs)
  · exact hs

theorem writePipes_canon {s : State} {p : Pipe} {c off : Nat} (hs : Canon s) : Canon (s.writePipes p c off) :=
  foldl_fst_canon (fun _ _ hs1 => writeBytes_canon hs1) hs

theorem writeCbds_canon {s : State} {h : Hand} {c : Nat} (hs : Canon s) : Canon (s.writeCbds h c) := by
  unfold State.writeCbds
  split
  · split
    · exact hs
    · exact foldl_canon (fun _ _ hs1 => updCore_canon hs1) hs
  · exact hs

theorem seat_canon {s : State} {k c : Nat} (hs : Canon s) : Canon (s.seat k c) :=
  writeCbds_canon (updHand_canon (updCore_canon (ite_canon (putHeader_canon hs) hs)))

theorem moveTo_canon {s : State} {k c : Nat} (hs : Canon s) : Canon (s.moveTo k c) := by
  unfold State.moveTo
  dsimp only
  split
  · exact hs
  · refine updHand_canon ?_
    refine foldl_canon ?_ hs
    intro _ _ hs1
    split
    · exact spillOut_canon hs1
    · exact hs1

theorem seatItem_canon {s : State} {keys : List Nat} {c : Nat} {after : State} (hs : Canon s) (hafter : Canon after) :
    Canon (s.seatItem keys c after) := by
  unfold State.seatItem
  dsimp only
  split
  · exact killGang_canon (putHeader_canon (updHand_canon hs))
  · split
    · exact putHeader_canon (updHand_canon hs)
    · refine foldl_canon (fun _ _ hs1 => seat_canon hs1) ?_
      refine foldl_canon ?_ (foldl_canon (fun _ _ hs1 => moveTo_canon hs1) hafter)
      intro _ _ hs1
      split
      · exact setHand_canon hs1
      · exact hs1

theorem placeItem_canon {s : State} {keys : List Nat} {c : Nat} {after : State} (hs : Canon s) (hafter : Canon after) :
    Canon (s.placeItem keys c after) := by
  unfold State.placeItem
  refine seatItem_canon hs ?_
  split
  · split
    · exact writePipes_canon hafter
    · exact hafter
  · exact hafter

theorem backFill_canon {s : State} {p : Nat} (hs : Canon s) : Canon (s.backFill p) := by
  unfold State.backFill
  split
  · exact hs
  · exact updPart_canon hs

theorem endReserve_canon {s : State} {p : Nat} (hs : Canon s) : Canon (s.endReserve p) := updPart_canon hs

theorem execPlacement_canon {s : State} (hs : Canon s) : OutCanon (execPlacement s) := by
  unfold execPlacement
  dsimp only
  split
  · exact ite_canon (endReserve_canon (startNodes_canon hs (fun _ _ hs1 => queueFault_canon hs1))) (startNodes_canon hs
        (fun _ _ hs1 => queueFault_canon hs1))
  · split
    next e1 => exact endReserve_canon (placeItem_canon (startNodes_canon hs (fun _ _ hs1 => queueFault_canon hs1)) (some_snd_canon
        (fitItem_canon (startNodes_canon hs (fun _ _ hs1 => queueFault_canon hs1))) e1))
    next x _ =>
      split
      · exact startNodes_canon hs (fun _ _ hs1 => queueFault_canon hs1)
      · split
        next e3 => exact backFill_canon (placeItem_canon (startNodes_canon hs (fun _ _ hs1 => queueFault_canon hs1)) (e3.subst
            (motive := fun o => o.elim True (fun x => Canon x.2.2)) (findSome_canon (fun _ => map_snd_canon (fitItem_canon
                (startNodes_canon hs (fun _ _ hs1 => queueFault_canon hs1))) (fun _ _ hs1 => hs1)))))
        · exact startNodes_canon hs (fun _ _ hs1 => queueFault_canon hs1)

theorem execSlotArbitration_canon {s : State} (hs : Canon s) : OutCanon (execSlotArbitration s) := by
  unfold execSlotArbitration
  dsimp only
  split
  · exact hs
  · split
    · exact hs
    · split
      · exact finishCycle_canon (claimWindow_canon (updSlot_canon (updHand_canon (updCore_canon (foldl_canon (fun _ _ hs2 => ite_canon hs2
            (updHand_canon hs2)) hs)))))
      · exact updSlot_canon (updHand_canon (updCore_canon (foldl_canon (fun _ _ hs2 => ite_canon hs2 (updHand_canon hs2)) hs)))

theorem createHand_canon {s : State} {c : Nat} {l : Launch} {h : Hand} (hs : Canon s) : Canon (s.createHand c l h) :=
  seat_canon (updLaunch_canon (takeBlock_canon hs))

theorem halve_canon {s : State} {r : RangeState} {c : Nat} (hs : Canon s) : (s.halve r c).elim True Canon := by
  unfold State.halve
  dsimp only
  split
  · split
    · exact trivial
    · exact createHand_canon hs
  · split
    · exact trivial
    · exact createHand_canon hs

theorem dealPending_canon {s : State} {d : Nat} {e : Seg} {c : Nat} (hs : Canon s) : (s.dealPending d e c).elim True Canon := by
  unfold State.dealPending
  dsimp only
  split
  · exact trivial
  · exact settle_canon (createHand_canon (updSeg_canon (ite_canon hs hs)))

theorem dealResume_canon {s : State} {d : Nat} {e : Seg} {c : Nat} (hs : Canon s) : (s.dealResume d e c).elim True Canon := by
  unfold State.dealResume
  split
  · exact trivial
  · exact map_canon (allocItem_canon hs) (fun _ hs1 => ite_canon (seatItem_canon hs hs1) (ite_canon (updSeg_canon (seatItem_canon hs hs1))
        (updHand_canon (updSeg_canon (seatItem_canon hs hs1)))))

theorem execDeal_canon {s : State} (hs : Canon s) : OutCanon (execDeal s) := by
  unfold execDeal
  dsimp only
  split
  · exact hs
  · split
    · exact hs
    · split
      next e2 =>
        refine backFill_canon ?_
        refine some_canon ?_ e2
        refine findSome_canon ?_
        intro _
        split
        · exact halve_canon hs
        · split
          · exact dealResume_canon hs
          · exact dealPending_canon hs
      · exact hs

theorem execLaneRetire_canon {s : State} (hs : Canon s) : OutCanon (execLaneRetire s) := by
  unfold execLaneRetire
  dsimp only
  split
  · exact hs
  · exact updSlot_canon (magpie_canon hs)

theorem rebuildHand_canon {s : State} {c k t : Nat} {h : Hand} (hs : Canon s) : Canon (s.rebuildHand c k t h) :=
  ite_canon (updHand_canon (foldl_canon (fun _ _ hs1 => countCorrections_canon hs1) (readErrs_canon hs))) (ite_canon (killGang_canon
      (updHand_canon (foldl_canon (fun _ _ hs1 => countCorrections_canon hs1) (readErrs_canon hs)))) (updCluBank_canon (updHand_canon
          (foldl_canon (fun _ _ hs1 => countCorrections_canon hs1) (readErrs_canon hs)))))

theorem execLaneRebuild_canon {s : State} (hs : Canon s) : OutCanon (execLaneRebuild s) := by
  unfold execLaneRebuild
  dsimp only
  split
  · split
    · exact hs
    · exact updSlot_canon (foldl_canon (fun _ _ hs1 => rebuildHand_canon hs1) hs)
  · exact hs

theorem failLoadLane_canon {s : State} {k id t : Nat} (hs : Canon s) : Canon (s.failLoadLane k id t) := updOutst_canon hs

theorem answerStep_canon {s : State} {p : Nat} {m : PeerMsg} {status : BitVec 3} {ticket : Nat} {accepted : Bool} (hs : Canon s) :
    Canon (s.answerStep p m status ticket accepted) := by
  unfold State.answerStep
  dsimp only
  split
  · exact ite_canon (dropRec_canon (sendFlit_canon hs)) (sendFlit_canon hs)
  · exact sendFlit_canon hs

theorem settleCell_canon {s : State} {ticket : Nat} {accepted again : Bool} (hs : Canon s) : Canon (s.settleCell ticket accepted again) := by
  unfold State.settleCell
  dsimp only
  split
  · refine answerStep_canon ?_
    refine foldl_canon ?_ (updRec_canon hs)
    intro _ _ hs1
    split
    · exact ite_canon (setAnnLane_canon hs1) (stepAnswered_canon hs1)
    · exact hs1
  · refine foldl_canon ?_ (updRec_canon hs)
    intro _ _ hs1
    split
    · exact ite_canon (setAnnLane_canon hs1) (stepAnswered_canon hs1)
    · exact hs1

theorem entryAnswer_canon {s : State} {k loc : Nat} {came : Bool} (hs : Canon s) : Canon (s.entryAnswer k loc came) :=
  ite_canon (updHand_canon hs) hs

theorem lose_canon {s : State} {r : PeerReq} (hs : Canon s) : Canon (s.lose r) := by
  unfold State.lose
  dsimp only
  split
  · exact failLoadLane_canon hs
  · exact annLost_canon hs
  · exact objectLost_canon hs
  · exact tableAnswer_canon hs
  · exact hs
  · exact copyLost_canon hs
  · exact settleCell_canon hs
  · exact hs
  · exact watchEnds_canon hs
  · exact entryAnswer_canon hs
  · exact frontAnswer_canon hs
  · exact ite_canon (dropPeerStore_canon hs) hs

theorem portDown_canon {s : State} {p : Nat} (hs : Canon s) : Canon (s.portDown p) := by
  unfold State.portDown
  dsimp only
  split
  · exact foldl_canon (fun _ _ hs1 => sendFlit_canon hs1) (updPort_canon hs)
  · exact foldl_canon (fun _ _ hs1 => lose_canon hs1) (updPort_canon hs)

theorem execAck_canon {p : Nat} {seq : BitVec 24} {s : State} (hs : Canon s) : OutCanon (execAck p seq s) := by
  unfold execAck
  split
  · exact hs
  · exact flushPort_canon (updPort_canon hs)

theorem execReplay_canon {p : Nat} {seq : BitVec 24} {s : State} (hs : Canon s) : OutCanon (execReplay p seq s) := by
  unfold execReplay
  split
  · exact hs
  · split
    · exact portDown_canon hs
    · exact updPort_canon hs

theorem execCredit_canon {p : Nat} {freed : BitVec 16} {s : State} (hs : Canon s) : OutCanon (execCredit p freed s) := by
  unfold execCredit
  split
  · exact hs
  · exact flushPort_canon (updPort_canon hs)

theorem execFlitChkMismatch_canon {s : State} (hs : Canon s) : OutCanon (execFlitChkMismatch s) := by
  unfold execFlitChkMismatch
  dsimp only
  split
  · exact hs
  · exact updPort_canon hs

theorem execFlitUnlistedKind_canon {s : State} (hs : Canon s) : OutCanon (execFlitUnlistedKind s) := by
  unfold execFlitUnlistedKind
  dsimp only
  split
  · exact hs
  · exact magpie_canon (updPort_canon hs)

theorem execAckTimer_canon {s : State} (hs : Canon s) : OutCanon (execAckTimer s) := by
  unfold execAckTimer
  dsimp only
  split
  · exact hs
  · exact updPort_canon hs

theorem execRequestTimeout_canon {s : State} (hs : Canon s) : OutCanon (execRequestTimeout s) := by
  unfold execRequestTimeout
  split
  · exact lose_canon hs
  · exact hs

theorem execPortRetrain_canon {s : State} (hs : Canon s) : OutCanon (execPortRetrain s) := by
  unfold execPortRetrain
  dsimp only
  split
  · exact hs
  · split
    · exact flushPort_canon (updPort_canon hs)
    · exact magpie_canon (ite_canon (portDown_canon hs) hs)

theorem takeFlit_canon {s : State} {p : Nat} (hs : Canon s) : Canon (s.takeFlit p) := updPort_canon hs

theorem execRd_canon {p : Nat} {m : PeerMsg} {s : State} (hs : Canon s) : OutCanon (execRd p m s) := by
  unfold execRd
  split
  · exact hs
  · dsimp only
    split
    · exact sendFlit_canon (takeFlit_canon hs)
    · split
      · exact sendFlit_canon (takeFlit_canon hs)
      · split
        · exact sendFlit_canon (foldl_canon (fun _ _ hs1 => logUE_canon hs1) (crossHome_canon (takeFlit_canon hs)))
        · exact sendFlit_canon (crossHome_canon (takeFlit_canon hs))

theorem execWr_canon {p : Nat} {m : PeerMsg} {s : State} (hs : Canon s) : OutCanon (execWr p m s) := by
  unfold execWr
  split
  · exact hs
  · dsimp only
    split
    · exact sendFlit_canon (takeFlit_canon hs)
    · exact sendFlit_canon (peerWrite_canon (crossHome_canon (takeFlit_canon hs)))

theorem dropForeign_canon {s : State} {b : Binding} (hs : Canon s) : Canon (s.dropForeign b) := ite_canon hs hs

theorem execPeerStep_canon {p : Nat} {m : PeerMsg} {s : State} (hs : Canon s) : OutCanon (execPeerStep p m s) := by
  unfold execPeerStep
  split
  · exact hs
  · dsimp only
    split
    · exact sendFlit_canon (takeFlit_canon hs)
    · split
      · split
        · exact sendFlit_canon (takeFlit_canon hs)
        next e3 => exact answerStep_canon (some_snd_canon (allocRec_canon (takeFlit_canon hs)) e3)
      · split
        next e3 => exact answerStep_canon (e3.subst (motive := StepOut.Canon) (homeStep_canon (takeFlit_canon hs)))
        next e3 => exact answerStep_canon (e3.subst (motive := StepOut.Canon) (homeStep_canon (takeFlit_canon hs)))
        next e3 =>
          show Canon _
          dsimp only [Canon]
          show Canon _
          split
          · exact requestPage_canon (e3.subst (motive := StepOut.Canon) (homeStep_canon (takeFlit_canon hs)))
          · exact e3.subst (motive := StepOut.Canon) (homeStep_canon (takeFlit_canon hs))
        next e3 => exact updRec_canon (e3.subst (motive := StepOut.Canon) (homeStep_canon (takeFlit_canon hs)))
      · exact sweepRecs_canon (updRec_canon (sendFlit_canon (takeFlit_canon hs)))
      · split
        · exact sendFlit_canon (takeFlit_canon hs)
        · exact sendFlit_canon (addBinding_canon (takeFlit_canon hs))
      · exact sendFlit_canon (takeFlit_canon hs)
      · refine sendFlit_canon ?_
        dsimp only [Canon]
        show Canon _
        exact takeFlit_canon hs
      · exact sendFlit_canon (dropForeign_canon (takeFlit_canon hs))
      · exact sendFlit_canon (takeFlit_canon hs)

theorem answerCell_canon {s : State} {p : Nat} {m : PeerMsg} {st : BitVec 3} (hs : Canon s) : Canon (s.answerCell p m st) := sendFlit_canon hs

theorem cellPaged_canon {s : State} {m : PeerMsg} (hs : Canon s) : Canon (s.cellPaged m) := by
  unfold State.cellPaged
  dsimp only
  split
  · exact hs
  · exact updHand_canon hs

theorem cellWritten_canon {s : State} {m : PeerMsg} {w : Nat} (hs : Canon s) : Canon (s.cellWritten m w) := by
  unfold State.cellWritten
  dsimp only
  split
  · exact hs
  · split
    · exact ite_canon (setOwn_canon hs) hs
    · exact hs

theorem execCell_canon {p : Nat} {m : PeerMsg} {s : State} (hs : Canon s) : OutCanon (execCell p m s) := by
  unfold execCell
  split
  · exact hs
  · dsimp only
    split
    · exact answerCell_canon (takeFlit_canon hs)
    · split
      · exact answerCell_canon (takeFlit_canon hs)
      · refine answerCell_canon ?_
        dsimp only [Canon]
        show Canon _
        exact cellPaged_canon (requestPage_canon (takeFlit_canon hs))
      · exact answerCell_canon (cellWritten_canon (storeWord_canon (tlbAdd_canon (takeFlit_canon hs))))

theorem dropReq_canon {s : State} {r : PeerReq} (hs : Canon s) : Canon (s.dropReq r) := hs

theorem learn_canon {s : State} {loc : Nat} {bs : List (BitVec 8)} (hs : Canon s) : Canon (s.learn loc bs) :=
  ite_canon hs (writeBytes_canon hs)

theorem execRdr_canon {p : Nat} {m : PeerMsg} {s : State} (hs : Canon s) : OutCanon (execRdr p m s) := by
  unfold execRdr
  split
  · exact hs
  · dsimp only
    split
    · exact takeFlit_canon hs
    · split
      · split
        · exact ite_canon (learn_canon (dropReq_canon (takeFlit_canon hs))) (watchEnds_canon (learn_canon (dropReq_canon (takeFlit_canon hs))))
        · exact entryAnswer_canon (learn_canon (dropReq_canon (takeFlit_canon hs)))
        · exact frontAnswer_canon (learn_canon (dropReq_canon (takeFlit_canon hs)))
        · exact learn_canon (dropReq_canon (takeFlit_canon hs))
      · split
        · exact watchEnds_canon (dropReq_canon (takeFlit_canon hs))
        · exact entryAnswer_canon (dropReq_canon (takeFlit_canon hs))
        · exact frontAnswer_canon (dropReq_canon (takeFlit_canon hs))
        · exact failLoadLane_canon (dropReq_canon (takeFlit_canon hs))
        · split
          · exact foldl_canon (fun _ _ hs1 => markBad_canon hs1) (dropReq_canon (takeFlit_canon hs))
          · show Canon _
            dsimp only [Canon]
            show Canon _
            exact dropReq_canon (takeFlit_canon hs)
        · exact dropReq_canon (takeFlit_canon hs)

theorem execWra_canon {p : Nat} {m : PeerMsg} {s : State} (hs : Canon s) : OutCanon (execWra p m s) := by
  unfold execWra
  split
  · exact hs
  · dsimp only
    split
    · exact takeFlit_canon hs
    · split
      · exact ite_canon (dropReq_canon (takeFlit_canon hs)) (copyLost_canon (dropReq_canon (takeFlit_canon hs)))
      · exact ite_canon (dropReq_canon (takeFlit_canon hs)) (dropPeerStore_canon (dropReq_canon (takeFlit_canon hs)))

theorem execStepa_canon {p : Nat} {m : PeerMsg} {s : State} (hs : Canon s) : OutCanon (execStepa p m s) := by
  unfold execStepa
  split
  · exact hs
  · dsimp only
    split
    · exact takeFlit_canon hs
    · split
      · exact annAnswer_canon (orphanAnswer_canon (dropReq_canon (takeFlit_canon hs)))
      · exact cancelAnswer_canon (dropReq_canon (takeFlit_canon hs))
      · exact objectAnswer_canon (dropReq_canon (takeFlit_canon hs))
      · exact tableAnswer_canon (dropReq_canon (takeFlit_canon hs))
      · exact dropReq_canon (takeFlit_canon hs)

theorem execCella_canon {p : Nat} {m : PeerMsg} {s : State} (hs : Canon s) : OutCanon (execCella p m s) := by
  unfold execCella
  split
  · exact hs
  · dsimp only
    split
    · exact takeFlit_canon hs
    · split
      · split
        · exact takeFlit_canon hs
        · exact settleCell_canon (dropReq_canon (takeFlit_canon hs))
        · exact settleCell_canon (acceptStep_canon (dropReq_canon (takeFlit_canon hs)))
        · exact settleCell_canon (failRec_canon (dropReq_canon (takeFlit_canon hs)))
        · exact dropReq_canon (takeFlit_canon hs)
      · exact dropReq_canon (takeFlit_canon hs)

theorem unparkPage_canon {s : State} {asid : BitVec 16} {page : Nat} (hs : Canon s) : Canon (s.unparkPage asid page) := hs

theorem refusePark_canon {s : State} {k : Nat} {lanes : Lanes} {va : DWord} {mask : Lanes} {res : Option Nat} (hs : Canon s) :
    Canon (s.refusePark k lanes va mask res) := by
  unfold State.refusePark
  dsimp only
  split
  · exact trapParked_canon hs
  · split
    · split
      · exact trapParked_canon (updHand_canon hs)
      · exact hs
    · exact hs

theorem refuseParks_canon {s : State} {asid : BitVec 16} {page : Nat} (hs : Canon s) : Canon (s.refuseParks asid page) := by
  unfold State.refuseParks
  refine foldl_canon ?_ hs
  intro _ _ hs1
  dsimp only
  exact ite_canon (refusePark_canon hs1) hs1

theorem frontServed_canon {s : State} {asid : BitVec 16} {page : Nat} (hs : Canon s) : Canon (s.frontServed asid page) :=
  retryItems_canon (retryAdds_canon (foldl_canon (fun _ _ hs1 => qWake_canon hs1) hs))

theorem peersServed_canon {s : State} {asid : BitVec 16} {page : Nat} {st : BitVec 3} (hs : Canon s) :
    Canon (s.peersServed asid page st) := foldl_canon (fun _ _ hs1 => ite_canon (answerStep_canon hs1) (answerCell_canon hs1)) hs

theorem execPageService_canon {s : State} (hs : Canon s) : OutCanon (execPageService s) := by
  unfold execPageService
  dsimp only
  split
  · exact hs
  · split
    · exact hs
    · split
      · split
        · exact hs
        · refine peersServed_canon ?_
          refine refuseParks_canon ?_
          dsimp only [Canon]
          show Canon _
          exact frontServed_canon hs
      · split
        · exact hs
        · exact peersServed_canon (unparkPage_canon (frontServed_canon (writeBytes_canon hs)))

theorem applyHeld_canon {s : State} (hs : Canon s) : Canon s.applyHeld := foldl_canon (fun _ _ hs1 => hostWrite_canon hs1) hs

theorem endCkpt_canon {s : State} {fail : Bool} (hs : Canon s) : Canon (s.endCkpt fail) := by
  unfold State.endCkpt
  split
  · exact hs
  · exact landed_canon (signalAdd_canon (applyHeld_canon hs))

theorem clearScratch_canon {s : State} {cs : List Nat} (hs : Canon s) : Canon (s.clearScratch cs) := filter_wf _ hs

theorem clearClusters_canon {s : State} {cs : List Nat} (hs : Canon s) : Canon (s.clearClusters cs) := by
  unfold State.clearClusters
  show Canon _
  dsimp only [Canon]
  show Canon _
  exact clearScratch_canon hs

theorem stopCopy_canon {s : State} {c : Copy} (hs : Canon s) : Canon (s.stopCopy c) := drainLines_canon hs

theorem killLaunch_canon {s : State} {code : BitVec 8} {l : Launch} (hs : Canon s) : Canon (s.killLaunch code l) :=
  foldl_canon (fun _ _ hs1 => ite_canon (report_canon (killMember_canon hs1)) (report_canon (killMember_canon hs1))) hs

theorem dropSpeculation_canon {s : State} {lids : List Word} (hs : Canon s) : Canon (s.dropSpeculation lids) := hs

theorem unwaitQueue_canon {s : State} {k : Nat × Nat} (hs : Canon s) : Canon (s.unwaitQueue k) := hs

theorem endReset_canon {s : State} {l : Launch} (hs : Canon s) : Canon (s.endReset l) := by
  unfold State.endReset
  split
  next e => exact ok_canon (endLaunch_canon hs) e
  · exact landed_canon (frontPage_canon (updLaunch_canon (endBindings_canon hs)))
  · exact hs

theorem failGraphs_canon {s : State} {k : Nat × Nat} (hs : Canon s) : Canon (s.failGraphs k) :=
  foldl_canon (fun _ _ hs1 => foldl_canon (fun _ _ hs2 => ite_canon (updNode_canon hs2) hs2) hs1) hs

theorem endGraphs_canon {s : State} {k : Nat × Nat} (hs : Canon s) : Canon (s.endGraphs k) :=
  foldl_canon (fun _ _ hs1 => graphEnd_canon hs1) hs

theorem faultReset_canon {s : State} {k : Nat × Nat} {fcode : Nat} (hs : Canon s) : Canon (s.faultReset k fcode) := by
  unfold State.faultReset
  split
  · exact hs
  · exact msix_canon (updQueue_canon (unwaitQueue_canon (qPut_canon (qPut_canon (saveIb_canon (qPut_canon (release_canon hs)))))))

theorem destroyQueue_canon {s : State} {q : Queue} (hs : Canon s) : Canon (s.destroyQueue q) := by
  unfold State.destroyQueue
  show Canon _
  dsimp only [Canon]
  show Canon _
  split
  · exact updDie_canon (withdrawTable_canon (unwaitQueue_canon hs))
  · exact withdrawTable_canon (unwaitQueue_canon hs)

theorem resetPartition_canon {s : State} {p d : Nat} {code : BitVec 8} {fcode : Nat} {gone : Queue → Bool} (hs : Canon s) :
    Canon (s.resetPartition p d code fcode gone) := by
  unfold State.resetPartition
  refine foldl_canon (fun _ _ hs1 => ite_canon (destroyQueue_canon hs1) (faultReset_canon hs1)) ?_
  split
  · refine endCkpt_canon ?_
    refine foldl_canon (fun _ _ hs1 => endGraphs_canon hs1) ?_
    refine foldl_canon ?_ (updPart_canon (clearClusters_canon (dropSpeculation_canon (foldl_canon (fun _ _ hs1 => killLaunch_canon hs1)
        (foldl_canon (fun _ _ hs1 => failGraphs_canon hs1) (foldl_canon (fun _ _ hs1 => stopCopy_canon hs1) (magpie_canon hs)))))))
    intro _ _ hs1
    split
    · exact endReset_canon hs1
    · exact hs1
  · refine foldl_canon (fun _ _ hs1 => endGraphs_canon hs1) ?_
    refine foldl_canon ?_ (updPart_canon (clearClusters_canon (dropSpeculation_canon (foldl_canon (fun _ _ hs1 => killLaunch_canon hs1)
        (foldl_canon (fun _ _ hs1 => failGraphs_canon hs1) (foldl_canon (fun _ _ hs1 => stopCopy_canon hs1) (magpie_canon hs)))))))
    intro _ _ hs1
    split
    · exact endReset_canon hs1
    · exact hs1

theorem resetFunction_canon {s : State} {f : Nat} (hs : Canon s) : Canon (s.resetFunction f) :=
  ite_canon (foldl_canon (fun _ _ hs1 => destroyQueue_canon hs1) (foldl_canon (fun _ _ hs1 => resetPartition_canon hs1) hs)) (foldl_canon
      (fun _ _ hs1 => destroyQueue_canon hs1) (ite_canon (resetPartition_canon hs) hs))

theorem warm_canon {s : State} (hs : Canon s) : Canon s.warm := by
  unfold Canon
  rw [warm_mem]
  exact filter_wf _ (endCkpt_canon hs)

theorem updMgmt_canon {s : State} {f : Mgmt → Mgmt} (hs : Canon s) : Canon (s.updMgmt f) := hs

theorem performReset_canon {s : State} {r : ResetReq} (hs : Canon s) : Canon (s.performReset r) := by
  unfold State.performReset
  split
  · exact warm_canon hs
  · exact resetFunction_canon hs
  · exact resetPartition_canon hs

theorem drainPartition_canon {s : State} {q : Queue} (hs : Canon s) : Canon (s.drainPartition q) :=
  updQueue_canon (foldl_canon (fun _ _ hs1 => updQueue_canon (qPutState_canon hs1)) hs)

theorem undrain_canon {s : State} (hs : Canon s) : Canon s.undrain :=
  foldl_canon (fun _ _ hs1 => updQueue_canon (ite_canon (qPutState_canon hs1) hs1)) hs

theorem performResets_canon {s : State} {rs : List ResetReq} (hs : Canon s) : Canon (s.performResets rs) :=
  undrain_canon (foldl_canon (fun _ _ hs1 => performReset_canon hs1) hs)

theorem requestReset_canon {s : State} {r : ResetReq} (hs : Canon s) : Canon (s.requestReset r) := ite_canon hs (performResets_canon hs)

theorem execPartitionReset_canon {s : State} (hs : Canon s) : OutCanon (execPartitionReset s) := by
  unfold execPartitionReset
  dsimp only
  split
  · exact hs
  · exact requestReset_canon hs

theorem execOwlExpiry_canon {s : State} (hs : Canon s) : OutCanon (execOwlExpiry s) := by
  unfold execOwlExpiry
  dsimp only
  split
  · split
    · exact ite_canon hs (performResets_canon hs)
    · split
      · exact requestReset_canon (drainPartition_canon hs)
      · exact hs
  · exact hs

theorem execFlrVf_canon {s : State} (hs : Canon s) : OutCanon (execFlrVf s) := by
  unfold execFlrVf
  dsimp only
  split
  · exact hs
  · exact requestReset_canon hs

theorem updLink_canon {s : State} {f : HostLink → HostLink} (hs : Canon s) : Canon (s.updLink f) := hs

theorem execThermalThrottle_canon {s : State} (hs : Canon s) : OutCanon (execThermalThrottle s) := by
  unfold execThermalThrottle
  split
  · exact updDie_canon hs
  · exact hs

theorem execWarmReset_canon {s : State} (hs : Canon s) : OutCanon (execWarmReset s) := by
  unfold execWarmReset
  split
  · exact updMgmt_canon hs
  · split
    · exact hs
    · exact requestReset_canon hs

theorem raiseAlarm_canon {s : State} {level : Nat} (hs : Canon s) : Canon (s.raiseAlarm level) :=
  ite_canon hs (ite_canon (magpie_canon (updMgmt_canon hs)) (updMgmt_canon (warm_canon (magpie_canon (updMgmt_canon hs)))))

theorem execDebugUnlock_canon {s : State} (hs : Canon s) : OutCanon (execDebugUnlock s) := by
  unfold execDebugUnlock
  split
  · exact hs
  · exact ite_canon (raiseAlarm_canon (updMgmt_canon hs)) (ite_canon (raiseAlarm_canon (updMgmt_canon hs)) (updMgmt_canon hs))

theorem failPorts_canon {s : State} {ps : List Nat} (hs : Canon s) : Canon (s.failPorts ps) := by
  unfold State.failPorts
  refine foldl_canon ?_ hs
  intro _ _ hs1
  split
  · exact magpie_canon (updPort_canon hs1)
  · split
    · refine magpie_canon ?_
      dsimp only [Canon]
      show Canon _
      exact hs1
    · exact hs1

theorem broughtUp_canon {s : State} (hs : Canon s) : Canon s.broughtUp :=
  ite_canon (updMgmt_canon (warm_canon (updMgmt_canon (failPorts_canon hs)))) (updMgmt_canon (failPorts_canon hs))

theorem powerOn_canon {s : State} (hs : Canon s) : Canon s.powerOn := filter_wf _ hs

theorem execColdStart_canon {s : State} (hs : Canon s) : OutCanon (execColdStart s) := by
  unfold execColdStart
  split
  · exact ite_canon (broughtUp_canon hs) hs
  · dsimp only
    split
    · exact raiseAlarm_canon (updMgmt_canon (powerOn_canon hs))
    · split
      · exact updMgmt_canon (powerOn_canon hs)
      · exact broughtUp_canon (powerOn_canon hs)

theorem execThermalTrip_canon {s : State} (hs : Canon s) : OutCanon (execThermalTrip s) := by
  unfold execThermalTrip
  split
  · exact hs
  · exact updMgmt_canon (magpie_canon (warm_canon hs))

theorem execEolUpdate_canon {s : State} (hs : Canon s) : OutCanon (execEolUpdate s) := by
  unfold execEolUpdate
  dsimp only
  split
  · exact hs
  · exact ite_canon (magpie_canon (updMgmt_canon (updDie_canon hs))) (updDie_canon hs)

theorem loseHost_canon {s : State} (hs : Canon s) : Canon s.loseHost := updLink_canon hs

theorem ownerSees_canon {s : State} {o : Owner} {w : Nat} (hs : Canon s) : Canon (s.ownerSees o w) := by
  unfold State.ownerSees
  split
  · exact updThread_canon hs
  · exact updQueue_canon hs
  · exact hs

theorem carryOut_canon {s : State} (hs : Canon s) : Canon s.carryOut := by
  unfold State.carryOut
  split
  · dsimp only
    split
    · refine foldl_canon (fun _ _ hs1 => ownerSees_canon (appendWrite_canon hs1)) ?_
      dsimp only [Canon]
      show Canon _
      exact updLink_canon hs
    · refine foldl_canon (fun _ _ hs1 => dropHostWrite_canon hs1) ?_
      dsimp only [Canon]
      show Canon _
      exact updLink_canon hs
  · exact hs

theorem execHostLinkTrain_canon {s : State} (hs : Canon s) : OutCanon (execHostLinkTrain s) := by
  unfold execHostLinkTrain
  split
  · exact hs
  · exact carryOut_canon (updLink_canon hs)

theorem execHostLoss_canon {s : State} (hs : Canon s) : OutCanon (execHostLoss s) := by
  unfold execHostLoss
  split
  · exact loseHost_canon (updLink_canon hs)
  · exact ite_canon (loseHost_canon hs) hs
  · exact loseHost_canon hs
  · exact hs

theorem lossReply_canon {s : State} {cmd : BitVec 8} {status : BitVec 16} (hs : Canon s) : Canon (s.lossReply cmd status) := hs

theorem hostChoice_canon {cmd : BitVec 8} {replay : Bool} {s : State} (hs : Canon s) : OutCanon (hostChoice cmd replay s) := by
  unfold hostChoice
  dsimp only
  split
  · exact hs
  · split
    · exact ite_canon hs (lossReply_canon hs)
    · split
      · exact ite_canon hs (lossReply_canon hs)
      · exact carryOut_canon (ite_canon (ite_canon (updLink_canon hs) (foldl_canon (fun _ _ hs1 => dropHostWrite_canon hs1)
            (updLink_canon hs))) (lossReply_canon (ite_canon (updLink_canon hs) (foldl_canon (fun _ _ hs1 => dropHostWrite_canon hs1)
                (updLink_canon hs)))))

theorem execQuiescePartitions_canon {s : State} (hs : Canon s) : OutCanon (execQuiescePartitions s) := by
  unfold execQuiescePartitions
  split <;> exact hs

theorem execHostMemoryWrite_canon {s : State} (hs : Canon s) : OutCanon (execHostMemoryWrite s) := by
  unfold execHostMemoryWrite
  dsimp only
  split
  · exact hostWrite_canon hs
  · split
    · exact hs
    · split
      · split
        · exact hs
        · exact updLink_canon hs
      · exact hostWrite_canon hs

theorem execImageUpdate_canon {s : State} (hs : Canon s) : OutCanon (execImageUpdate s) := by
  unfold execImageUpdate
  dsimp only
  split
  · exact hs
  · exact updMgmt_canon hs

theorem remeasure_canon {s : State} (hs : Canon s) : Canon s.remeasure := updMgmt_canon hs

theorem execCkpt_canon {w : PacketWords} {s : State} (hs : Canon s) : OutCanon (execCkpt w s) := by
  unfold execCkpt
  refine packetOp_canon hs ?_
  intro _ _ hs1
  dsimp only
  split
  · exact hs1
  · split
    · exact hs1
    · split
      · exact hs1
      · split
        · exact hs1
        · split
          · exact hs1
          · exact takeOff_canon hs1

theorem toMemory_canon {s : State} {h : Hand} (hs : Canon s) : Canon (s.toMemory h) := by
  unfold State.toMemory
  split
  · exact swapOut_canon (spillAll_canon hs)
  · exact swapOut_canon (spillAll_canon hs)
  · exact swapOut_canon (spillAll_canon hs)
  · exact foldl_canon (fun _ _ hs1 => spillOut_canon hs1) hs
  · exact foldl_canon (fun _ _ hs1 => spillOut_canon hs1) hs
  · exact foldl_canon (fun _ _ hs1 => spillOut_canon hs1) hs
  · exact hs

theorem execCkptCopyComplete_canon {s : State} (hs : Canon s) : OutCanon (execCkptCopyComplete s) := by
  unfold execCkptCopyComplete
  split
  · exact hs
  · split
    · exact hs
    · refine endCkpt_canon ?_
      dsimp only [Canon]
      show Canon _
      exact foldl_canon (fun _ _ hs1 => toMemory_canon hs1) hs

theorem execCkptRestore_canon {w : PacketWords} {s : State} (hs : Canon s) : OutCanon (execCkptRestore w s) := by
  unfold execCkptRestore
  refine packetOp_canon hs ?_
  intro _ _ hs1
  dsimp only
  split
  · exact hs1
  · split
    · exact hs1
    · split
      · exact hs1
      · split
        · exact hs1
        · exact takeOff_canon hs1

theorem restoreMem_canon {s : State} {sn : Snapshot} {rs : List (Nat × Nat)} (hs : Canon s) : Canon (s.restoreMem sn rs) :=
  foldl_canon (fun _ _ hs1 => appendWrite_canon hs1) hs

theorem restoreQueue_canon {s : State} {x : Queue × List (BitVec 8)} (hs : Canon s) : Canon (s.restoreQueue x) := by
  unfold State.restoreQueue
  dsimp only
  split
  · refine qPutState_canon ?_
    dsimp only [Canon]
    show Canon _
    exact writeBytes_canon hs
  · dsimp only [Canon]
    show Canon _
    exact writeBytes_canon hs

theorem loadSnapshot_canon {s : State} {sn : Snapshot} {rs : List (Nat × Nat)} (hs : Canon s) : Canon (s.loadSnapshot sn rs) := by
  unfold State.loadSnapshot
  refine foldl_canon (fun _ _ hs1 => restoreQueue_canon hs1) ?_
  refine foldl_canon (fun _ _ hs1 => updPart_canon hs1) ?_
  refine foldl_canon (fun _ _ hs1 => updCluster_canon hs1) ?_
  refine foldl_canon (fun _ _ hs1 => updCore_canon hs1) ?_
  refine foldl_canon ?_ ?_
  · intro _ _ hs1
    split
    · exact takeBlock_canon hs1
    · show Canon _
      dsimp only [Canon]
      show Canon _
      exact hs1
  · dsimp only [Canon]
    show Canon _
    exact restoreMem_canon (ite_canon (foldl_canon (fun _ _ hs1 => updPart_canon hs1) hs) (remeasure_canon (foldl_canon
        (fun _ _ hs1 => updPart_canon hs1) hs)))

theorem execCkptRestoreComplete_canon {s : State} (hs : Canon s) : OutCanon (execCkptRestoreComplete s) := by
  unfold execCkptRestoreComplete
  split
  · exact hs
  · split
    · exact hs
    · split
      · exact endCkpt_canon (loadSnapshot_canon hs)
      · exact foldl_canon (fun _ _ hs1 => resetPartition_canon hs1) hs

theorem execPartitionCommit_canon {s : State} (hs : Canon s) : OutCanon (execPartitionCommit s) := by
  unfold execPartitionCommit
  dsimp only
  split
  · exact hs
  · exact ite_canon (remeasure_canon (updPart_canon hs)) (updPart_canon hs)

theorem execBindingWrite_canon {s : State} (hs : Canon s) : OutCanon (execBindingWrite s) := by
  unfold execBindingWrite
  dsimp only
  split
  · exact hs
  · exact remeasure_canon hs

theorem execTbaseWrite_canon {s : State} (hs : Canon s) : OutCanon (execTbaseWrite s) := by
  unfold execTbaseWrite
  split <;> exact hs

theorem execTlbInvalidate_canon {s : State} (hs : Canon s) : OutCanon (execTlbInvalidate s) := by
  unfold execTlbInvalidate
  split <;> exact hs

theorem execInvalidateComplete_canon {s : State} (hs : Canon s) : OutCanon (execInvalidateComplete s) := by
  unfold execInvalidateComplete
  split <;> exact hs

theorem execErrorBankClear_canon {s : State} (hs : Canon s) : OutCanon (execErrorBankClear s) := by
  unfold execErrorBankClear
  split <;> exact hs

theorem tableWrite_canon {s : State} {k d m : Nat} {v : DWord} (hs : Canon s) : Canon (s.tableWrite k d m v) := by
  unfold State.tableWrite
  split
  · exact ite_canon (updNode_canon hs) hs
  · exact ite_canon (updDie_canon hs) hs
  · exact ite_canon hs hs
  · exact hs

theorem execRegisterWrite_canon {s : State} (hs : Canon s) : OutCanon (execRegisterWrite s) := by
  unfold execRegisterWrite
  dsimp only
  split
  · exact tableWrite_canon hs
  · split
    · exact hs
    · split
      · show Canon _
        dsimp only [Canon]
        show Canon _
        exact hs
      · split
        · exact hs
        · split
          · split
            · show Canon _
              dsimp only [Canon]
              show Canon _
              exact hs
            · exact hs
          · split
            · exact updPart_canon hs
            · split
              · split
                · exact hs
                · show Canon _
                  dsimp only [Canon]
                  show Canon _
                  exact hs
              · split
                · show Canon _
                  dsimp only [Canon]
                  show Canon _
                  exact hs
                · exact hs

theorem debugReply_canon {s : State} {cmd : BitVec 8} {busy : Bool} {status : BitVec 16} {moved : Nat} (hs : Canon s) :
    Canon (s.debugReply cmd busy status moved) := hs

theorem debugCommand_canon {cmd : BitVec 8} {f : Hand → State → State} {s : State} (hs : Canon s)
    (hf : ∀ a s, Canon s → Canon (f a s)) : OutCanon (debugCommand cmd f s) := by
  unfold debugCommand
  split
  · exact hs
  · split
    · exact debugReply_canon hs
    · split
      · exact debugReply_canon hs
      · split
        · exact debugReply_canon hs
        · exact hf _ _ hs

theorem haltedCommand_canon {cmd : BitVec 8} {f : Hand → State → State} {s : State} (hs : Canon s)
    (hf : ∀ a s, Canon s → Canon (f a s)) : OutCanon (haltedCommand cmd f s) :=
  debugCommand_canon hs (fun _ _ hs1 => ite_canon (debugReply_canon hs1) (hf _ _ hs1))

theorem execDebugHalt_canon {s : State} (hs : Canon s) : OutCanon (execDebugHalt s) := by
  unfold execDebugHalt
  refine debugCommand_canon hs ?_
  intro _ _ hs1
  split
  · exact debugReply_canon (updHand_canon hs1)
  · exact debugReply_canon (updHand_canon hs1)
  · exact debugReply_canon (updHand_canon hs1)
  · exact debugReply_canon (updHand_canon hs1)
  · exact debugReply_canon (putHeader_canon (updHand_canon (unwait_canon hs1)))
  · exact debugReply_canon (putHeader_canon (updHand_canon (unwait_canon hs1)))
  · exact debugReply_canon (swapOut_canon hs1)
  · exact debugReply_canon hs1

theorem debugMove_canon {h : Hand} {toArea : Bool} {buf off n : Nat} {s : State} (hs : Canon s) :
    Canon (State.debugMove h toArea buf off n s).1 := by
  induction n generalizing s buf off with
  | zero => exact hs
  | succ n ih =>
    unfold State.debugMove
    split
    · exact hs
    · split
      · exact hs
      · dsimp only
        exact ih (ite_canon (writeBytes_canon hs) (writeBytes_canon hs))

theorem execDebugRead_canon {s : State} (hs : Canon s) : OutCanon (execDebugRead s) := by
  unfold execDebugRead
  refine haltedCommand_canon hs ?_
  intro _ _ hs1
  dsimp only
  exact debugReply_canon (debugMove_canon hs1)

theorem execDebugWrite_canon {s : State} (hs : Canon s) : OutCanon (execDebugWrite s) := by
  unfold execDebugWrite
  refine haltedCommand_canon hs ?_
  intro _ _ hs1
  dsimp only
  exact debugReply_canon (debugMove_canon hs1)

theorem resumeHand_canon {cmd : BitVec 8} {step : Bool} {s : State} (hs : Canon s) : OutCanon (resumeHand cmd step s) := by
  unfold resumeHand
  refine haltedCommand_canon hs ?_
  intro _ _ hs1
  split <;> exact debugReply_canon (putHeader_canon (updHand_canon hs1))

theorem finWrite_canon {s : State} {r : Reader} {asid : BitVec 16} {va : DWord} {bs : List (BitVec 8)} (hs : Canon s) :
    Canon (s.finWrite r asid va bs) := by
  unfold State.finWrite
  refine foldl_canon ?_ hs
  intro _ _ hs1
  split
  · exact storeWord_canon hs1
  · exact hs1

theorem finReply_canon {s : State} {f : Nat} {status : BitVec 16} {res : List DWord} (hs : Canon s) : Canon (s.finReply f status res) := hs

theorem execFinalise_canon {s : State} (hs : Canon s) : OutCanon (execFinalise s) := by
  unfold execFinalise
  dsimp only
  split
  · exact hs
  · split
    · exact finReply_canon hs
    · split
      · split
        · show Canon _
          dsimp only [Canon]
          show Canon _
          exact frontPage_canon hs
        · show Canon _
          dsimp only [Canon]
          show Canon _
          exact askPeer_canon hs
        · exact finReply_canon (endRead_canon hs)
      · split
        · exact finReply_canon (finWrite_canon (endRead_canon hs))
        · split
          · exact finReply_canon (finWrite_canon (endRead_canon hs))
          · split
            · exact finReply_canon (finWrite_canon (endRead_canon hs))
            · split
              · exact finReply_canon (finWrite_canon (endRead_canon hs))
              · split
                · split
                  · show Canon _
                    dsimp only [Canon]
                    show Canon _
                    exact frontPage_canon hs
                  · show Canon _
                    dsimp only [Canon]
                    show Canon _
                    exact askPeer_canon hs
                  · exact finReply_canon (endRead_canon hs)
                · split
                  · show Canon _
                    dsimp only [Canon]
                    show Canon _
                    exact frontPage_canon hs
                  · show Canon _
                    dsimp only [Canon]
                    show Canon _
                    exact askPeer_canon hs
                  · exact finReply_canon (endRead_canon hs)
                · exact finReply_canon (finWrite_canon (finWrite_canon (endRead_canon (frontTouch_canon hs))))

end Sys2Proof.Machine
end

section
/-!
PROOFS. The canonical form of memory is kept (O58). Control flow.
-/
namespace Sys2Proof.Machine

theorem branchTo_canon {s : State} {i : SplitIssue} {lanes : Lanes} {pc : Nat → DWord} (hs : Canon s) : Canon (s.branchTo i lanes pc) :=
  updHand_canon hs

theorem exitThreads_canon {s : State} {k : Nat} {lanes : Lanes} (hs : Canon s) : Canon (s.exitThreads k lanes) :=
  owlReset_canon (barCheckAll_canon (freeWindows_canon (updHand_canon hs)))

theorem writeLink_canon {s : State} {i : SplitIssue} {act : Lanes} (hs : Canon s) : Canon (s.writeLink i act) :=
  foldl_canon (fun _ _ hs1 => writePlace_canon hs1) (foldl_canon (fun _ _ hs1 => writePlace_canon hs1) hs)

theorem callOp_canon {a : CoreWords → Operand} {target : SplitIssue → Operand → Hand → Nat → DWord} {w : CoreWords} {s : State}
    (hs : Canon s) : OutCanon (callOp a target w s) := by
  unfold callOp
  refine execCore_canon hs ?_
  intro _ _ _ hs1
  dsimp only
  split
  · exact hs1
  · split
    · exact hs1
    · refine withRegs_canon hs1 ?_
      intro _ _ hs2
      split
      · exact waitSquirrel_canon hs2
      · exact hs2
      · exact updHand_canon (writeLink_canon (updHand_canon (freeNames_canon hs2)))

theorem execRet_canon {w : CoreWords} {s : State} (hs : Canon s) : OutCanon (execRet w s) := by
  unfold execRet
  refine execCore_canon hs ?_
  intro _ _ _ hs1
  dsimp only
  split
  · exact atCompare_canon hs1
  · split
    · exact ite_canon (ite_canon (updHand_canon hs1) (freeWindows_canon (updHand_canon hs1))) (exitThreads_canon (ite_canon
          (updHand_canon hs1) (freeWindows_canon (updHand_canon hs1))))
    · split
      · exact hs1
      · exact withRegs_canon hs1 (fun _ _ hs2 => ite_canon (ite_canon (updHand_canon hs2) (freeWindows_canon (updHand_canon hs2)))
            (exitThreads_canon (ite_canon (updHand_canon hs2) (freeWindows_canon (updHand_canon hs2)))))

theorem brxFetch_canon {who : Nat} {asid : BitVec 16} {pc base : DWord} {ks : List Nat} {s : State} {acc : List (Nat × Word)} (hs : Canon s) :
    Both (fun _ => True) (fun x => Canon x.2) (brxFetch who asid pc base ks s acc) := by
  induction ks generalizing s acc with
  | nil => exact hs
  | cons k ks ih =>
    unfold brxFetch
    split
    next e => exact ih (e.subst (motive := Fetch.Canon) (fetchWord_canon hs))
    · exact trivial

theorem execBrx_canon {w : CoreWords} {s : State} (hs : Canon s) : OutCanon (execBrx w s) := by
  unfold execBrx
  refine execCore_canon hs ?_
  intro _ _ _ hs1
  refine withRegs_canon hs1 ?_
  intro _ _ hs2
  dsimp only
  split
  · exact hs2
  next e =>
    split
    · exact updHand_canon (branchTo_canon (freeNames_canon (ok_snd_canon (brxFetch_canon hs2) e)))
    · exact updHand_canon (branchTo_canon (ok_snd_canon (brxFetch_canon hs2) e))

theorem yieldRun_canon {s : State} {i : SplitIssue} (hs : Canon s) : Canon (s.yieldRun i) := owlReset_canon (updSlot_canon (updHand_canon hs))

theorem sleepOn_canon {s : State} {i : SplitIssue} {key : DWord} (hs : Canon s) : Canon (s.sleepOn i key) :=
  owlReset_canon (updSlot_canon (updHand_canon hs))

theorem execYieldw_canon {w : CoreWords} {s : State} (hs : Canon s) : OutCanon (execYieldw w s) := by
  unfold execYieldw
  refine execCore_canon hs ?_
  intro _ _ _ hs1
  refine withRegs_canon hs1 ?_
  intro _ _ hs2
  dsimp only
  split
  · exact hs2
  · split
    · exact hs2
    · exact hs2
    · split
      · exact yieldRun_canon (tlbAdd_canon hs2)
      next e3 =>
        split
        · split
          next e5 =>
            refine sleepOn_canon ?_
            refine some_canon ?_ e5
            refine readPeer_canon ?_
            dsimp only [Canon]
            show Canon _
            exact some_canon (registerWaiter_canon (tlbAdd_canon hs2)) e3
          · refine yieldRun_canon ?_
            refine withdrawWaiter_canon ?_
            dsimp only [Canon]
            show Canon _
            exact some_canon (registerWaiter_canon (tlbAdd_canon hs2)) e3
        · split
          · exact yieldRun_canon (withdrawWaiter_canon (some_canon (registerWaiter_canon (tlbAdd_canon hs2)) e3))
          · exact sleepOn_canon (some_canon (registerWaiter_canon (tlbAdd_canon hs2)) e3)

theorem predOp_canon {f : Hand → Lanes → Nat → Bool} {w : CoreWords} {s : State} (hs : Canon s) : OutCanon (predOp f w s) :=
  execCore_canon hs (fun _ _ _ hs1 => writeQD_canon hs1)

theorem lxOp_canon {from_ : Nat → Nat → Nat} {w : CoreWords} {s : State} (hs : Canon s) : OutCanon (lxOp from_ w s) := by
  unfold lxOp
  refine execCore_canon hs ?_
  intro _ _ _ hs1
  dsimp only
  split
  · exact hs1
  · split
    · exact hs1
    · split
      · exact waitSquirrel_canon hs1
      · exact hs1
      · split
        next e3 => exact snd_canon (scan_canon hs1) e3
        next e3 => exact writeDTags_canon (freeNames_canon (snd_canon (scan_canon hs1) e3))

theorem execLoop_canon {w : CoreWords} {s : State} (hs : Canon s) : OutCanon (execLoop w s) := by
  unfold execLoop
  refine execCore_canon hs ?_
  intro _ _ _ hs1
  refine withRegs_canon hs1 ?_
  intro _ _ hs2
  dsimp only
  split
  · exact hs2
  next e =>
    split
    · exact e.subst (motive := Fetch.Canon) (fetchWord_canon hs2)
    · split
      · split <;> exact updHand_canon (e.subst (motive := Fetch.Canon) (fetchWord_canon hs2))
      · split
        · split <;> exact updHand_canon (e.subst (motive := Fetch.Canon) (fetchWord_canon hs2))
        · split <;> exact updHand_canon (e.subst (motive := Fetch.Canon) (fetchWord_canon hs2))

theorem execLbrk_canon {w : CoreWords} {s : State} (hs : Canon s) : OutCanon (execLbrk w s) := by
  unfold execLbrk
  refine execCore_canon hs ?_
  intro _ _ _ hs1
  dsimp only
  split
  · exact hs1
  · exact updHand_canon hs1

theorem execLnext_canon {w : CoreWords} {s : State} (hs : Canon s) : OutCanon (execLnext w s) := by
  unfold execLnext
  refine execCore_canon hs ?_
  intro _ _ _ hs1
  dsimp only
  split
  · exact hs1
  · exact updHand_canon hs1

theorem execLend_canon {w : CoreWords} {s : State} (hs : Canon s) : OutCanon (execLend w s) := by
  unfold execLend
  refine execCore_canon hs ?_
  intro _ _ _ hs1
  dsimp only
  split
  · exact hs1
  · exact updHand_canon hs1

end Sys2Proof.Machine
end

section
/-!
PROOFS. The canonical form of memory is kept (O58). Every instruction, and every turn.
-/
namespace Sys2Proof.Machine

theorem exec_canon {i : Instr} {s : State} (hs : Canon s) : OutCanon (exec i s) := by
  unfold exec
  split
  · exact execAck_canon hs
  · exact execReplay_canon hs
  · exact execCredit_canon hs
  · exact execRd_canon hs
  · exact execRdr_canon hs
  · exact execWr_canon hs
  · exact execWra_canon hs
  · exact execPeerStep_canon hs
  · exact execStepa_canon hs
  · exact execCell_canon hs
  · exact execCella_canon hs
  · exact packetOp_canon hs (fun _ _ hs1 => hs1)
  · exact execLaunch_canon hs
  · exact execGraph_canon hs
  · exact waitOp_canon hs
  · exact execSignal_canon hs
  · exact execCallib_canon hs
  · exact execFencePacket_canon hs
  · exact execWriteimm_canon hs
  · exact execCkpt_canon hs
  · exact execCkptRestore_canon hs
  · exact packetOp_canon hs (fun _ _ hs1 => hs1)
  · exact execDvRfetch_canon hs
  · exact execDvBfx_canon hs
  · exact execDvSwait_canon hs
  · exact execDvDisp_canon hs
  · exact intOp2_canon hs
  · exact intOp2_canon hs
  · exact intOp2_canon hs
  · exact intOp2_canon hs
  · exact intOp3_canon hs
  · exact intOp2_canon hs
  · exact intOp2_canon hs
  · exact rawOp2_canon hs
  · exact rawOp2_canon hs
  · exact rawOp2_canon hs
  · exact rawOp2_canon hs
  · exact rawOp2_canon hs
  · exact rawOp2_canon hs
  · exact rawOp2_canon hs
  · exact rawOp2_canon hs
  · exact rawOp1_canon hs
  · exact rawOp1_canon hs
  · exact rawOp1_canon hs
  · exact laneOp_canon hs
  · exact laneOp_canon hs
  · exact selOp_canon hs
  · exact cmpOp_canon hs
  · exact cmpOp_canon hs
  · exact cmpOp_canon hs
  · exact cmpOp_canon hs
  · exact pairOp_canon hs
  · exact pairOp_canon hs
  · exact movOp_canon hs
  · exact execCore_canon hs (fun _ _ _ hs1 => writeH_canon hs1)
  · exact execUni_canon hs
  · exact execUniChk_canon hs
  · exact intOp2_canon hs
  · exact intOp2_canon hs
  · exact intOp2_canon hs
  · exact intOp2_canon hs
  · exact intOp3_canon hs
  · exact intOp2_canon hs
  · exact intOp2_canon hs
  · exact rawOp2_canon hs
  · exact rawOp2_canon hs
  · exact rawOp2_canon hs
  · exact rawOp2_canon hs
  · exact rawOp2_canon hs
  · exact rawOp2_canon hs
  · exact rawOp2_canon hs
  · exact rawOp2_canon hs
  · exact rawOp1_canon hs
  · exact rawOp1_canon hs
  · exact rawOp1_canon hs
  · exact laneOp_canon hs
  · exact laneOp_canon hs
  · exact selOp_canon hs
  · exact cmpOp_canon hs
  · exact cmpOp_canon hs
  · exact cmpOp_canon hs
  · exact cmpOp_canon hs
  · exact movOp_canon hs
  · exact execCore_canon hs (fun _ _ _ hs1 => withRegs_canon hs1 (fun _ _ hs2 => branchTo_canon hs2))
  · exact execBrx_canon hs
  · exact callOp_canon hs
  · exact callOp_canon hs
  · exact execRet_canon hs
  · exact execCore_canon hs (fun _ _ _ hs1 => exitThreads_canon hs1)
  · exact execCore_canon hs (fun _ _ _ hs1 => yieldRun_canon hs1)
  · exact execYieldw_canon hs
  · exact execCore_canon hs (fun _ _ _ hs1 => writeQD_canon hs1)
  · exact predOp_canon hs
  · exact predOp_canon hs
  · exact execCore_canon hs (fun _ _ _ hs1 => withRegs_canon hs1 (fun _ _ hs2 => writeD_canon hs2))
  · exact lxOp_canon hs
  · exact lxOp_canon hs
  · exact lxOp_canon hs
  · exact lxOp_canon hs
  · exact predOp_canon hs
  · exact predOp_canon hs
  · exact predOp_canon hs
  · exact predOp_canon hs
  · exact execCore_canon hs (fun _ _ _ hs1 => hs1)
  · exact execLoop_canon hs
  · exact execLbrk_canon hs
  · exact execLnext_canon hs
  · exact execLend_canon hs
  · exact loadOp_canon hs
  · exact storeOp_canon hs
  · exact loadOp_canon hs
  · exact storeOp_canon hs
  · exact execLdh_canon hs
  · exact prefOp_canon hs
  · exact execCore_canon hs (fun _ _ _ hs1 => addOutst_canon hs1)
  · exact execBind_canon hs
  · exact loadOp_canon hs
  · exact loadOp_canon hs
  · exact storeOp_canon hs
  · exact loadOp_canon hs
  · exact storeOp_canon hs
  · exact prefOp_canon hs
  · exact loadOp_canon hs
  · exact annOp_canon hs
  · exact annOp_canon hs
  · exact annOp_canon hs
  · exact annOp_canon hs
  · exact annOp_canon hs
  · exact annOp_canon hs
  · exact annOp_canon hs
  · exact annOp_canon hs
  · exact execAnnMcas_canon hs
  · exact annOp_canon hs
  · exact execHelp_canon hs
  · exact execColl_canon hs
  · exact objOp_canon hs
  · exact objOp_canon hs
  · exact execBarArv_canon hs
  · exact execBarTst_canon hs
  · exact execBbarPost_canon hs
  · exact execBbarTst_canon hs
  · exact fltOp_canon hs
  · exact fltOp_canon hs
  · exact fltOp_canon hs
  · exact fltOp_canon hs
  · exact fltOp_canon hs
  · exact fltOp_canon hs
  · exact elemOp_canon hs
  · exact elemOp_canon hs
  · exact elemOp_canon hs
  · exact elemOp_canon hs
  · exact elemOp_canon hs
  · exact execCvt_canon hs
  · exact execPkscl_canon hs
  · exact execUnpk_canon hs
  · exact execDot8_canon hs
  · exact hredOp_canon hs
  · exact hredOp_canon hs
  · exact hredOp_canon hs
  · exact fcmpOp_canon hs
  · exact fcmpOp_canon hs
  · exact fcmpOp_canon hs
  · exact fcmpOp_canon hs
  · exact fcmpOp_canon hs
  · exact execCore_canon hs (fun _ _ _ hs1 => withRegs_canon hs1 (fun _ _ hs2 => writeD_canon hs2))
  · exact execCore_canon hs (fun _ _ _ hs1 => withRegs_canon hs1 (fun _ _ hs2 => writeD_canon hs2))
  · exact fltOp_canon hs
  · exact fltOp_canon hs
  · exact fltOp_canon hs
  · exact fltOp_canon hs
  · exact fltOp_canon hs
  · exact fltOp_canon hs
  · exact fcmpOp_canon hs
  · exact fcmpOp_canon hs
  · exact fcmpOp_canon hs
  · exact fcmpOp_canon hs
  · exact execCore_canon hs (fun _ _ _ hs1 => tileAccess_canon hs1 (fun _ _ _ _ _ hs2 => issueTile_canon (touchRange_canon hs2)))
  · exact execCore_canon hs (fun _ _ _ hs1 => tileAccess_canon hs1 (fun _ _ _ _ _ hs2 => issueTile_canon hs2))
  · exact execTcfg_canon hs
  · exact mmaOp_canon hs
  · exact mmaOp_canon hs
  · exact execGmma_canon hs
  · exact execAcz_canon hs
  · exact execAcld_canon hs
  · exact execAcst_canon hs
  · exact execAcdrain_canon hs
  · exact execEpi_canon hs
  · exact execCpy_canon hs
  · exact execWbind_canon hs
  · exact execWinq_canon hs
  · exact cbTakeOp_canon hs
  · exact cbTakeOp_canon hs
  · exact cbGiveOp_canon hs
  · exact cbGiveOp_canon hs
  · exact execQput_canon hs
  · exact execQget_canon hs
  · exact execBkt_canon hs
  · exact xcntOp_canon hs
  · exact xcntOp_canon hs
  · exact execRng_canon hs
  · exact spawnOp_canon hs
  · exact execCond_canon hs
  · exact spawnOp_canon hs
  · exact spawnOp_canon hs
  · exact spawnOp_canon hs
  · exact spawnOp_canon hs
  · exact execResolve_canon hs
  · exact execCore_canon hs (fun _ _ _ hs1 => withRegs_canon hs1 (fun _ _ hs2 => answer_canon hs2))
  · exact execCore_canon hs (fun _ _ _ hs1 => answer_canon hs1)
  · exact execSegq_canon hs
  · exact trapOp_canon hs
  · exact execTret_canon hs
  · exact execSrd_canon hs
  · exact execSwr_canon hs
  · exact execUintr_canon hs
  · exact trapOp_canon hs
  · exact execSig_canon hs
  · exact execCore_canon hs (fun _ _ _ hs1 => freeNames_canon hs1)
  · exact execEncodingNotInstruction_canon hs
  · exact execColdStart_canon hs
  · exact execWarmReset_canon hs
  · exact execFlrVf_canon hs
  · exact requestReset_canon hs
  · exact execPartitionReset_canon hs
  · exact updDie_canon hs
  · exact execThermalThrottle_canon hs
  · exact execThermalTrip_canon hs
  · exact execEolUpdate_canon hs
  · exact execHostLinkTrain_canon hs
  · exact execPortRetrain_canon hs
  · exact execFlitChkMismatch_canon hs
  · exact execFlitUnlistedKind_canon hs
  · exact execAckTimer_canon hs
  · exact execRequestTimeout_canon hs
  · exact execQueueCreate_canon hs
  · exact execDoorbell_canon hs
  · exact execQueueResume_canon hs
  · exact execSlotGrant_canon hs
  · exact execWaitRereadExpiry_canon hs
  · exact execCompletionWaitExpiry_canon hs
  · exact execLaunchComplete_canon hs
  · exact execHostWaitRegister_canon hs
  · exact execHostWaitWithdraw_canon hs
  · exact execAtomicopCompletion_canon hs
  · exact execAtomicopTimeout_canon hs
  · exact execHostLoss_canon hs
  · exact execHostMemoryWrite_canon hs
  · exact execCkptCopyComplete_canon hs
  · exact execCkptRestoreComplete_canon hs
  · exact execTbaseWrite_canon hs
  · exact execTlbInvalidate_canon hs
  · exact execInvalidateComplete_canon hs
  · exact execPartitionCommit_canon hs
  · exact execBindingWrite_canon hs
  · exact execErrorBankClear_canon hs
  · exact execRegisterWrite_canon hs
  · exact execDebugHalt_canon hs
  · exact execDebugRead_canon hs
  · exact execDebugWrite_canon hs
  · exact resumeHand_canon hs
  · exact resumeHand_canon hs
  · exact execFinalise_canon hs
  · exact lossReply_canon hs
  · exact hostChoice_canon hs
  · exact hostChoice_canon hs
  · exact ite_canon (updMgmt_canon hs) hs
  · exact execQuiescePartitions_canon hs
  · exact updMgmt_canon hs
  · exact execImageUpdate_canon hs
  · exact raiseAlarm_canon (updMgmt_canon hs)
  · exact raiseAlarm_canon hs
  · exact execDebugUnlock_canon hs
  · exact execPlacement_canon hs
  · exact execSlotArbitration_canon hs
  · exact execResultReturn_canon hs
  · exact execSpillComplete_canon hs
  · exact execRefillComplete_canon hs
  · exact execOwlExpiry_canon hs
  · exact execSpawnEntryArrival_canon hs
  · exact execDeal_canon hs
  · exact execResolutionApply_canon hs
  · exact execCommitDrain_canon hs
  · exact execBackEdge_canon hs
  · exact execLaneRetire_canon hs
  · exact execLaneRebuild_canon hs
  · exact execPageService_canon hs
  · exact execStoreDrain_canon hs
  · exact execRelApply_canon hs
  · exact execAcqApply_canon hs
  · exact execBindRegister_canon hs
  · exact execAnnounceStep_canon hs
  · exact execBarArrival_canon hs
  · exact execRecordCancel_canon hs
  · exact execCopyComplete_canon hs
  · exact execWindowFillEnd_canon hs
  · exact execJobComplete_canon hs
  · exact execGmmaSliceDone_canon hs
  · exact execAcdrainAdd_canon hs
  · exact execTrapEntry_canon hs
  · exact updMgmt_canon (powerOn_canon hs)
  · exact hostTimeout_canon hs

theorem issueSplit_canon {s : State} {c k hk : Nat} {pc : DWord} {lanes : Lanes} {uni : Uniform} {second : Bool} (hs : Canon s) :
    (issueSplit s c k hk pc lanes uni second).Canon := by
  unfold issueSplit
  dsimp only
  split
  · exact finishCycle_canon (raise_canon (countIssue_canon hs))
  next e =>
    split
    · exact finishCycle_canon (raise_canon (countIssue_canon hs))
    next e1 =>
      split
      · show Canon _
        dsimp only [Canon]
        show Canon _
        exact ok_snd_canon (fetchWords_canon (e.subst (motive := Fetch.Canon) (fetchWord_canon hs))) e1
      · show Canon _
        dsimp only [Canon]
        show Canon _
        exact ok_snd_canon (fetchWords_canon (e.subst (motive := Fetch.Canon) (fetchWord_canon hs))) e1

theorem prepareIssue_canon {s : State} {c k : Nat} (hs : Canon s) : (prepareIssue s c k).Canon := by
  unfold prepareIssue
  dsimp only
  split
  · exact hs
  · split
    · exact hs
    · split
      · exact issueSplit_canon (updSlot_canon hs)
      · split
        · exact hs
        · split
          · exact hs
          · split
            · exact finishCycle_canon hs
            · exact issueSplit_canon (updSlot_canon hs)

theorem prepareCp_canon {s : State} {n : Nat} (hs : Canon s) : (prepareCp s n).Canon := by
  unfold prepareCp
  split
  · exact hs
  · split
    · exact hs
    · dsimp only
      split <;> exact hs

theorem prepare_canon {s : State} {t : Turn} (hs : Canon s) : (prepare s t).Canon := by
  unfold prepare
  split
  · split <;> exact hs
  · exact hs
  · exact hs
  · split <;> exact hs
  · exact hostAcquire_canon hs
  · split
    · exact copyStep_canon hs
    · exact fillStep_canon hs
    · exact workStep_canon hs
    · exact rowArrives_canon hs
    · exact jobStep_canon hs
  · exact upset_canon hs
  · split
    · exact markBad_canon hs
    · exact markBad_canon hs
    · exact hs
  · exact hitTile_canon hs
  · exact ite_canon hs hs
  · exact prepareIssue_canon hs
  · exact prepareCp_canon hs
  · split
    · show Canon _
      dsimp only [Canon]
      show Canon _
      exact fetchedPacket_canon hs
    next e => exact e.subst (motive := Both Canon (fun _ => True)) (fetchPacket_canon hs)

theorem passTime_canon {s : State} (hs : Canon s) : Canon s.passTime := hs

theorem takeTurn_canon {s : State} (hs : Canon s) : Canon s.takeTurn.2 := by
  unfold State.takeTurn
  dsimp only
  split
  · show Canon _
    dsimp only [Canon]
    show Canon _
    exact passTime_canon hs
  · show Canon _
    dsimp only [Canon]
    show Canon _
    exact passTime_canon hs

theorem step_canon {s : State} (hs : Canon s) : OutCanon (step s) := by
  unfold step
  dsimp only
  split
  · exact takeTurn_canon hs
  · split
    next e1 => exact exec_canon (e1.subst (motive := Prepared.Canon) (prepare_canon (takeTurn_canon hs)))
    next e1 => exact e1.subst (motive := Prepared.Canon) (prepare_canon (takeTurn_canon hs))

/-- Settles O58: what a step leaves is canonical by `step_canon`, which follows the turn from its choice through its preparation to the
instruction's execution. -/
theorem memoryFormKept : Obligations.MemoryFormKept := by
  unfold Obligations.MemoryFormKept
  intro s t hs ht
  exact ht.subst (motive := OutCanon) (step_canon hs)

end Sys2Proof.Machine
end
